-- ==== Sys2Proof/Word.lean ====
section
/-! DEFINITION. The machine's plain word types (R3, R11): 64-bit words, bytes, register numbers, tiles, latches. -/

namespace Sys2Proof

/-- A 64-bit register value (R11). -/
abbrev Word := BitVec 64

/-- The unit of memory (R3). -/
abbrev Byte := BitVec 8

/-- A register number, scalar or vector (R11). -/
abbrev Reg := Fin 32

/-- An accumulator tile a0-a3 (R214). -/
abbrev Tile := Fin 4

/-- An operand latch l0-l1 (R214); its code in a word is 4 or 5. -/
abbrev Latch := Fin 2

end Sys2Proof
end

