-- ==== Sys2Proof/Syntax.lean ====
section
/-! DEFINITION. The instruction set as data: one constructor of `Instr` for each row of the opcode table.
The rows with a word (R24-R39) carry the fields of that word, from bit 7 upwards; the prefixed rows carry the
widened immediate (R34) or the fields of prefix and body (R217, R229). The rows that are events of the device
carry what singles the event out; no word encodes them: they stand in the machine's list of inputs. -/

namespace Sys2Proof

/-- The operands of a V-format word (R26, R164, R192): `w` (ws) makes `b` a scalar register, `z` zeroes inactive
and tail elements, `m` masks by v0. -/
structure VArgs where
  d : Reg
  a : Reg
  b : Reg
  m : Bool
  z : Bool
  w : Bool
  deriving DecidableEq, Repr

/-- Where an access from outside comes from (R356, R362): a physical function of port 0 (A) or 1 (B), the virtual
function of a tenant, a domain device, a CXL port; or the Esmen firmware. -/
inductive Source where
  | pf (port : Nat)
  | vf (tenant : Nat)
  | domain (d : Nat)
  | cxl (p : Nat)
  | esmen
  deriving DecidableEq, Repr

/-- Storage that an uncorrectable error strikes (R340): bytes at a location, a byte of a hart's vector register, an
element of its tile, a byte of its latch. -/
inductive Storage where
  | bytes (key n : Nat)
  | reg (gang rank r b : Nat)
  | tile (gang rank t e : Nat)
  | latch (gang rank l b : Nat)
  deriving DecidableEq, Repr

/-- Where corrected errors are counted (R340). -/
inductive Place where
  | core (die core : Nat)
  | frame (f : Nat)
  | way (die slice way : Nat)
  deriving DecidableEq, Repr

/-- A load element ahead of a hart (R266): the addresses of the instructions from the hart's next one on, the load's own
last, and the element. -/
structure AheadAt where
  path : List (BitVec 52)
  el : Nat
  deriving DecidableEq, Repr

/-- Who removes a gang (R310): the allocator of its die, by its rule, or Esmen, by a request of its own. -/
inductive Removal where
  | allocator (gang : Nat)
  | esmen (gang : Nat)
  deriving DecidableEq, Repr

/-- A domain device that a peer check has found (R363): its ID, and whether no other reachable device has that ID. -/
structure PeerFound where
  dev : Nat
  unique : Bool
  deriving DecidableEq, Repr

/-- What Aqtex link `l` loses (R342): lanes, the link while others lead to the device, the last link to it; or one
access toward the device fails although the link retried it. -/
inductive LinkLoss where
  | lanes (l : Fin 12)
  | one (l : Fin 12)
  | last (l : Fin 12)
  | access
  deriving DecidableEq, Repr

/-- The register that a REGISTER_WRITE names: an offset of the device window written by a source outside the device or
by Esmen (R358, R359); what JTAG writes through the die's debug module: word `i` of write-watch entry `n` (R350), the
trace settings (R352), whose value is the sample period, or the number of trace records taken out of the buffer. -/
inductive RegWrite where
  | host (src : Source) (off : Nat)
  | watch (die n i : Nat)
  | trace (die base size : Nat) (harts : List Nat)
  | taken (die : Nat)
  deriving DecidableEq, Repr

/-- What Esmen chooses when it registers a tenant (R55, R88, R359, R402): root and ASID, CR slot groups, free HBM
frames, CXL frames and flash blocks, and the extent entries (index, first and last frame, right to read) over what it
grants. -/
structure NewTenant where
  root : BitVec 52
  asid : BitVec 16
  groups : List Nat
  hbm : List Nat
  cxl : List Nat
  flash : List Nat
  extents : List (Nat × Nat × Nat × Bool)
  deriving DecidableEq, Repr

/-- Every operation of the opcode table. Field names follow the table: `d` destination, `a`, `b`, `c` sources,
`i` immediate, `s` scope, data register, shift or sign extension as the row says, `t` scalar float format or
tile, `f` memory format, `h` the bfloat16 form. -/
inductive Instr where
  /-- ADDI (R282): Adds a sign-extended 15-bit immediate to a register. -/
  | addi (d a : Reg) (i : BitVec 15)
  /-- ANDI (R282): ANDs a register with a sign-extended immediate. -/
  | andi (d a : Reg) (i : BitVec 15)
  /-- ORI (R282): ORs a register with a sign-extended immediate. -/
  | ori (d a : Reg) (i : BitVec 15)
  /-- XORI (R282): XORs a register with a sign-extended immediate. -/
  | xori (d a : Reg) (i : BitVec 15)
  /-- SLTI_S (R282): Sets 1 when the register is below the immediate, signed. -/
  | sltiS (d a : Reg) (i : BitVec 15)
  /-- SLTI_Z (R282): Sets 1 when the register is below the immediate, unsigned. -/
  | sltiZ (d a : Reg) (i : BitVec 15)
  /-- SLLI (R282): Shifts a register left by an immediate amount. -/
  | slli (d a : Reg) (s : BitVec 6)
  /-- SRLI (R282): Shifts a register right logically by an immediate amount. -/
  | srli (d a : Reg) (s : BitVec 6)
  /-- SRAI (R282): Shifts a register right arithmetically by an immediate amount. -/
  | srai (d a : Reg) (s : BitVec 6)
  /-- RORI (R282): Rotates a register right by an immediate amount. -/
  | rori (d a : Reg) (s : BitVec 6)
  /-- LUI (R282): Adds the immediate shifted left by 40 to a register. -/
  | lui (d a : Reg) (i : BitVec 15)
  /-- ADDPC (R282): Writes the instruction address plus an immediate. -/
  | addpc (d : Reg) (i : BitVec 15)
  /-- ADDI_PXI (R34): ADDI with a PXI prefix widening the immediate to 41 bits. -/
  | addiPxi (d a : Reg) (i : BitVec 41)
  /-- ANDI_PXI (R34): ANDI with a PXI-widened immediate. -/
  | andiPxi (d a : Reg) (i : BitVec 41)
  /-- ORI_PXI (R34): ORI with a PXI-widened immediate. -/
  | oriPxi (d a : Reg) (i : BitVec 41)
  /-- XORI_PXI (R34): XORI with a PXI-widened immediate. -/
  | xoriPxi (d a : Reg) (i : BitVec 41)
  /-- SLTI_S_PXI (R34): SLTI.S with a PXI-widened immediate. -/
  | sltiSPxi (d a : Reg) (i : BitVec 41)
  /-- SLTI_Z_PXI (R34): SLTI.Z with a PXI-widened immediate. -/
  | sltiZPxi (d a : Reg) (i : BitVec 41)
  /-- LUI_PXI (R34): LUI with a PXI-widened immediate. -/
  | luiPxi (d a : Reg) (i : BitVec 41)
  /-- ADDPC_PXI (R34): ADDPC with a PXI-widened immediate relative to the prefix address. -/
  | addpcPxi (d : Reg) (i : BitVec 41)
  /-- JALR_PXI (R34): JALR with a PXI-widened immediate. -/
  | jalrPxi (d a : Reg) (i : BitVec 41)
  /-- ADD (R283): Adds two registers. -/
  | add (d a b : Reg)
  /-- SUB (R283): Subtracts two registers. -/
  | sub (d a b : Reg)
  /-- AND (R283): Bitwise AND of two registers. -/
  | and (d a b : Reg)
  /-- OR (R283): Bitwise OR of two registers. -/
  | or (d a b : Reg)
  /-- XOR (R283): Bitwise XOR of two registers. -/
  | xor (d a b : Reg)
  /-- SLL (R283): Shifts left by a register amount modulo 64. -/
  | sll (d a b : Reg)
  /-- SRL (R283): Shifts right logically by a register amount. -/
  | srl (d a b : Reg)
  /-- SRA (R283): Shifts right arithmetically by a register amount. -/
  | sra (d a b : Reg)
  /-- SLT_S (R283): Signed less-than compare of two registers. -/
  | sltS (d a b : Reg)
  /-- SLT_Z (R283): Unsigned less-than compare of two registers. -/
  | sltZ (d a b : Reg)
  /-- MUL (R283): Multiplies two registers modulo 2^64. -/
  | mul (d a b : Reg)
  /-- MULH_S (R283): High half of the signed product. -/
  | mulhS (d a b : Reg)
  /-- MULH_Z (R283): High half of the unsigned product. -/
  | mulhZ (d a b : Reg)
  /-- DIV_S (R283): Signed division without traps. -/
  | divS (d a b : Reg)
  /-- DIV_Z (R283): Unsigned division without traps. -/
  | divZ (d a b : Reg)
  /-- REM_S (R283): Signed remainder without traps. -/
  | remS (d a b : Reg)
  /-- REM_Z (R283): Unsigned remainder without traps. -/
  | remZ (d a b : Reg)
  /-- MIN_S (R283): Signed minimum of two registers. -/
  | minS (d a b : Reg)
  /-- MIN_Z (R283): Unsigned minimum of two registers. -/
  | minZ (d a b : Reg)
  /-- MAX_S (R283): Signed maximum of two registers. -/
  | maxS (d a b : Reg)
  /-- MAX_Z (R283): Unsigned maximum of two registers. -/
  | maxZ (d a b : Reg)
  /-- ANDN (R283): ANDs a register with the complement of another. -/
  | andn (d a b : Reg)
  /-- CLZ (R283): Counts leading zero bits. -/
  | clz (d a : Reg)
  /-- CTZ (R283): Counts trailing zero bits. -/
  | ctz (d a : Reg)
  /-- CPOP (R283): Counts set bits. -/
  | cpop (d a : Reg)
  /-- MADD (R283): Multiplies two registers and adds a third. -/
  | madd (d a b c : Reg)
  /-- ADDSH (R283): Adds a register shifted left by 0 to 7. -/
  | addsh (d a b : Reg) (k : BitVec 3)
  /-- FADD (R284): Scalar floating-point add rounded once. -/
  | fadd (d a b : Reg) (t : BitVec 2)
  /-- FSUB (R284): Scalar floating-point subtract. -/
  | fsub (d a b : Reg) (t : BitVec 2)
  /-- FMUL (R284): Scalar floating-point multiply. -/
  | fmul (d a b : Reg) (t : BitVec 2)
  /-- FDIV (R284): Scalar floating-point divide. -/
  | fdiv (d a b : Reg) (t : BitVec 2)
  /-- FSQRT (R284): Scalar square root correctly rounded. -/
  | fsqrt (d a : Reg) (t : BitVec 2)
  /-- FMIN (R284): Scalar floating-point minimum. -/
  | fmin (d a b : Reg) (t : BitVec 2)
  /-- FMAX (R284): Scalar floating-point maximum. -/
  | fmax (d a b : Reg) (t : BitVec 2)
  /-- FSGNJ (R284): Scalar sign injection. -/
  | fsgnj (d a b : Reg) (t : BitVec 2)
  /-- FSGNJN (R284): Scalar inverted sign injection. -/
  | fsgnjn (d a b : Reg) (t : BitVec 2)
  /-- FSGNJX (R284): Scalar XOR sign injection. -/
  | fsgnjx (d a b : Reg) (t : BitVec 2)
  /-- FEQ (R284): Scalar floating-point equality compare. -/
  | feq (d a b : Reg) (t : BitVec 2)
  /-- FLT (R284): Scalar floating-point less-than compare. -/
  | flt (d a b : Reg) (t : BitVec 2)
  /-- FLE (R284): Scalar floating-point less-or-equal compare. -/
  | fle (d a b : Reg) (t : BitVec 2)
  /-- FCLASS (R284): Writes the class word of a scalar float. -/
  | fclass (d a : Reg) (t : BitVec 2)
  /-- FCVTI_S (R284): Converts a float to a signed 64-bit integer. -/
  | fcvtiS (d a : Reg) (t : BitVec 2)
  /-- FCVTI_Z (R284): Converts a float to an unsigned 64-bit integer. -/
  | fcvtiZ (d a : Reg) (t : BitVec 2)
  /-- FCVTF_S (R284): Converts a signed integer to a float. -/
  | fcvtfS (d a : Reg) (t : BitVec 2)
  /-- FCVTF_Z (R284): Converts an unsigned integer to a float. -/
  | fcvtfZ (d a : Reg) (t : BitVec 2)
  /-- FCVT (R284): Converts a float between formats. -/
  | fcvt (d a : Reg) (s t : BitVec 2)
  /-- FMADD (R284): Scalar fused multiply-add. -/
  | fmadd (d a b c : Reg) (t : BitVec 2)
  /-- FNMSUB (R284): Scalar fused negated multiply-subtract. -/
  | fnmsub (d a b c : Reg) (t : BitVec 2)
  /-- LD8_Z (R286): Loads one byte zero-extended. -/
  | ld8Z (d a : Reg) (i : BitVec 12)
  /-- LD16_Z (R286): Loads two bytes zero-extended. -/
  | ld16Z (d a : Reg) (i : BitVec 12)
  /-- LD32_Z (R286): Loads four bytes zero-extended. -/
  | ld32Z (d a : Reg) (i : BitVec 12)
  /-- LD64 (R286): Loads eight bytes. -/
  | ld64 (d a : Reg) (i : BitVec 12)
  /-- LD8_S (R286): Loads one byte sign-extended. -/
  | ld8S (d a : Reg) (i : BitVec 12)
  /-- LD16_S (R286): Loads two bytes sign-extended. -/
  | ld16S (d a : Reg) (i : BitVec 12)
  /-- LD32_S (R286): Loads four bytes sign-extended. -/
  | ld32S (d a : Reg) (i : BitVec 12)
  /-- ST8 (R286): Stores one byte. -/
  | st8 (s a : Reg) (i : BitVec 12)
  /-- ST16 (R286): Stores two bytes. -/
  | st16 (s a : Reg) (i : BitVec 12)
  /-- ST32 (R286): Stores four bytes. -/
  | st32 (s a : Reg) (i : BitVec 12)
  /-- ST64 (R286): Stores eight bytes. -/
  | st64 (s a : Reg) (i : BitVec 12)
  /-- LD8_Z_PXI (R34): LD8.Z with a PXI-widened displacement. -/
  | ld8ZPxi (d a : Reg) (i : BitVec 38)
  /-- LD16_Z_PXI (R34): LD16.Z with a PXI-widened displacement. -/
  | ld16ZPxi (d a : Reg) (i : BitVec 38)
  /-- LD32_Z_PXI (R34): LD32.Z with a PXI-widened displacement. -/
  | ld32ZPxi (d a : Reg) (i : BitVec 38)
  /-- LD64_PXI (R34): LD64 with a PXI-widened displacement. -/
  | ld64Pxi (d a : Reg) (i : BitVec 38)
  /-- LD8_S_PXI (R34): LD8.S with a PXI-widened displacement. -/
  | ld8SPxi (d a : Reg) (i : BitVec 38)
  /-- LD16_S_PXI (R34): LD16.S with a PXI-widened displacement. -/
  | ld16SPxi (d a : Reg) (i : BitVec 38)
  /-- LD32_S_PXI (R34): LD32.S with a PXI-widened displacement. -/
  | ld32SPxi (d a : Reg) (i : BitVec 38)
  /-- ST8_PXI (R34): ST8 with a PXI-widened displacement. -/
  | st8Pxi (s a : Reg) (i : BitVec 38)
  /-- ST16_PXI (R34): ST16 with a PXI-widened displacement. -/
  | st16Pxi (s a : Reg) (i : BitVec 38)
  /-- ST32_PXI (R34): ST32 with a PXI-widened displacement. -/
  | st32Pxi (s a : Reg) (i : BitVec 38)
  /-- ST64_PXI (R34): ST64 with a PXI-widened displacement. -/
  | st64Pxi (s a : Reg) (i : BitVec 38)
  /-- LD8_Z_AQ (R289): Acquire load of one byte with a scope. -/
  | ld8ZAq (d a : Reg) (s : BitVec 3)
  /-- LD16_Z_AQ (R289): Acquire load of two bytes with a scope. -/
  | ld16ZAq (d a : Reg) (s : BitVec 3)
  /-- LD32_Z_AQ (R289): Acquire load of four bytes with a scope. -/
  | ld32ZAq (d a : Reg) (s : BitVec 3)
  /-- LD64_AQ (R289): Acquire load of eight bytes with a scope. -/
  | ld64Aq (d a : Reg) (s : BitVec 3)
  /-- ST8_RL (R289): Release store of one byte with a scope. -/
  | st8Rl (d a : Reg) (s : BitVec 3)
  /-- ST16_RL (R289): Release store of two bytes with a scope. -/
  | st16Rl (d a : Reg) (s : BitVec 3)
  /-- ST32_RL (R289): Release store of four bytes with a scope. -/
  | st32Rl (d a : Reg) (s : BitVec 3)
  /-- ST64_RL (R289): Release store of eight bytes with a scope. -/
  | st64Rl (d a : Reg) (s : BitVec 3)
  /-- AMOSWAP (R289): Atomic swap of a 32- or 64-bit word, returning the old value. -/
  | amoswap (d a b : Reg) (l q : Bool) (s : BitVec 3) (z : Bool)
  /-- AMOADD (R289): Atomic add returning the old value. -/
  | amoadd (d a b : Reg) (l q : Bool) (s : BitVec 3) (z : Bool)
  /-- AMOAND (R289): Atomic AND returning the old value. -/
  | amoand (d a b : Reg) (l q : Bool) (s : BitVec 3) (z : Bool)
  /-- AMOOR (R289): Atomic OR returning the old value. -/
  | amoor (d a b : Reg) (l q : Bool) (s : BitVec 3) (z : Bool)
  /-- AMOXOR (R289): Atomic XOR returning the old value. -/
  | amoxor (d a b : Reg) (l q : Bool) (s : BitVec 3) (z : Bool)
  /-- AMOMIN_S (R289): Atomic signed minimum. -/
  | amominS (d a b : Reg) (l q : Bool) (s : BitVec 3) (z : Bool)
  /-- AMOMIN_Z (R289): Atomic unsigned minimum. -/
  | amominZ (d a b : Reg) (l q : Bool) (s : BitVec 3) (z : Bool)
  /-- AMOMAX_S (R289): Atomic signed maximum. -/
  | amomaxS (d a b : Reg) (l q : Bool) (s : BitVec 3) (z : Bool)
  /-- AMOMAX_Z (R289): Atomic unsigned maximum. -/
  | amomaxZ (d a b : Reg) (l q : Bool) (s : BitVec 3) (z : Bool)
  /-- AMOCAS (R289): Atomic compare-and-swap against X(rd). -/
  | amocas (d a b : Reg) (l q : Bool) (s : BitVec 3) (z : Bool)
  /-- FENCE (R275): Orders the hart's accesses at a scope. -/
  | fence (s : BitVec 5)
  /-- MFSR (R295): Reads a system register. -/
  | mfsr (d : Reg) (n : BitVec 12)
  /-- MTSR (R295): Writes a system register, effective for later instructions. -/
  | mtsr (a : Reg) (n : BitVec 12)
  /-- WAIT (R297): Waits for the event bit or a deadline, completing as an acquire. -/
  | wait (d a : Reg)
  /-- SEV (R297): Sets the event bit in a gang hart after the store queue empties. -/
  | sev (a : Reg)
  /-- TRAP (R296): Raises SYSCALL with EADDR from a register. -/
  | trap (a : Reg)
  /-- TINV_VA (R61): Removes TLB entries for one page of the tenant. -/
  | tinvVa (a : Reg)
  /-- TINV_ASID (R61): Removes TLB entries of one ASID of the tenant. -/
  | tinvAsid (a : Reg)
  /-- TINV_ALL (R61): Removes every TLB entry of the tenant. -/
  | tinvAll
  /-- TSYNC (R62): Waits until earlier TINVs and accesses through removed mappings are done. -/
  | tsync
  /-- TPROBE (R61): Translates an address without accessing or trapping and reports the result. -/
  | tprobe (d a : Reg) (k : BitVec 2)
  /-- TRET (R328): Returns from the handler, restoring vector state and mode. -/
  | tret
  /-- HXCHG (R329): Exchanges a register with HSCR. -/
  | hxchg (d : Reg)
  /-- ECMRD (R330): Reads the element completion mask into a vector register. -/
  | ecmrd (d : Reg)
  /-- ECMWR (R330): Sets the element completion mask and EVSTART. -/
  | ecmwr (a : Reg)
  /-- TMSET (R331): Writes the timer deadline TDL. -/
  | tmset (a : Reg)
  /-- DBRK (R355): Halts the hart or raises BREAK per DCSR.EBRK. -/
  | dbrk
  /-- SPREAD (R355): Reads a word of the stall-pair table. -/
  | spread (d a : Reg)
  /-- SPCLR (R355): Clears the stall-pair table. -/
  | spclr
  /-- TMARK (R355): Writes a trace marker record. -/
  | tmark (a : Reg)
  /-- BEQ (R290): Branches when two registers are equal. -/
  | beq (a b : Reg) (i : BitVec 12)
  /-- BNE (R290): Branches when two registers differ. -/
  | bne (a b : Reg) (i : BitVec 12)
  /-- BLT_S (R290): Branches on signed less-than. -/
  | bltS (a b : Reg) (i : BitVec 12)
  /-- BGE_S (R290): Branches on signed greater-or-equal. -/
  | bgeS (a b : Reg) (i : BitVec 12)
  /-- BLT_Z (R290): Branches on unsigned less-than. -/
  | bltZ (a b : Reg) (i : BitVec 12)
  /-- BGE_Z (R290): Branches on unsigned greater-or-equal. -/
  | bgeZ (a b : Reg) (i : BitVec 12)
  /-- JAL (R290): Jumps relative and writes the return address. -/
  | jal (d : Reg) (i : BitVec 20)
  /-- JALR (R290): Jumps to a register plus offset and writes the return address. -/
  | jalr (d a : Reg) (i : BitVec 15)
  /-- SLOOP (R291): Captures a body in the loop buffer and replays it a counted number of times. -/
  | sloop (a : Reg) (n : BitVec 5)
  /-- C_ADDI (R32): Compressed add-immediate. -/
  | cAddi (d : Reg) (i : BitVec 5)
  /-- C_LI (R32): Compressed load-immediate. -/
  | cLi (d : Reg) (i : BitVec 5)
  /-- C_MV (R32): Compressed register move. -/
  | cMv (d b : Reg)
  /-- C_ADD (R32): Compressed add. -/
  | cAdd (d b : Reg)
  /-- C_SUB (R32): Compressed subtract. -/
  | cSub (d b : Reg)
  /-- C_AND (R32): Compressed AND. -/
  | cAnd (d b : Reg)
  /-- C_OR (R32): Compressed OR. -/
  | cOr (d b : Reg)
  /-- C_XOR (R32): Compressed XOR. -/
  | cXor (d b : Reg)
  /-- C_SLLI (R32): Compressed shift left immediate. -/
  | cSlli (d : Reg) (s : BitVec 5)
  /-- C_SRLI (R32): Compressed logical shift right immediate. -/
  | cSrli (d : Reg) (s : BitVec 5)
  /-- C_JR (R32): Compressed jump to register. -/
  | cJr (b : Reg)
  /-- C_LDSP (R32): Compressed 64-bit load relative to x2. -/
  | cLdsp (d : Reg) (o : BitVec 5)
  /-- C_STSP (R32): Compressed 64-bit store relative to x2. -/
  | cStsp (s : Reg) (o : BitVec 5)
  /-- C_BEQZ (R32): Compressed branch if zero. -/
  | cBeqz (a : Reg) (i : BitVec 5)
  /-- C_BNEZ (R32): Compressed branch if nonzero. -/
  | cBnez (a : Reg) (i : BitVec 5)
  /-- C_J (R32): Compressed relative jump. -/
  | cJ (i : BitVec 10)
  /-- VSETVL (R139): Sets VTYPE from a register and VL from the AVL. -/
  | vsetvl (d a b : Reg) (r x : Bool)
  /-- VSETVLI (R139): Sets element width, group and VL from immediates and the AVL. -/
  | vsetvli (d a : Reg) (p : Bool) (e : BitVec 3) (g : BitVec 2) (r x : Bool)
  /-- VSETVLM (R140): Sets VL to one past the highest set mask bit. -/
  | vsetvlm (d a : Reg) (e : BitVec 3) (g : BitVec 2) (r x : Bool)
  /-- VSETFL (R141): Packs whole CSR rows into a strip and writes the boundary mask to v0. -/
  | vsetfl (d a b : Reg) (e : BitVec 3) (g : BitVec 2) (r x : Bool)
  /-- VLD (R147): Unit-stride vector load, native or widening narrow. -/
  | vld (d a : Reg) (m z : Bool) (f : BitVec 3) (s : Bool)
  /-- VLDS (R147): Strided vector load. -/
  | vlds (d a b : Reg) (m z : Bool) (f : BitVec 3) (s : Bool)
  /-- VLDXU (R147): Unordered indexed vector load. -/
  | vldxu (d a b : Reg) (m z : Bool) (f : BitVec 3) (s : Bool)
  /-- VLDXO (R147): Ordered indexed vector load. -/
  | vldxo (d a b : Reg) (m z : Bool) (f : BitVec 3) (s : Bool)
  /-- VLDSEG (R147): Segment vector load of 2 to 5 fields. -/
  | vldseg (d a : Reg) (n : BitVec 2) (m z : Bool) (f : BitVec 3) (s : Bool)
  /-- VLDR (R148): Whole-register-group load. -/
  | vldr (d a : Reg)
  /-- VLDM (R148): Mask load of VL bits. -/
  | vldm (d a : Reg)
  /-- VLDF (R153): Unit-stride first-fault load trimming VL at a later fault. -/
  | vldf (d a : Reg) (m z : Bool) (f : BitVec 3) (s : Bool)
  /-- VLDFS (R153): Strided first-fault load. -/
  | vldfs (d a b : Reg) (m z : Bool) (f : BitVec 3) (s : Bool)
  /-- VLDFXU (R153): Unordered indexed first-fault load. -/
  | vldfxu (d a b : Reg) (m z : Bool) (f : BitVec 3) (s : Bool)
  /-- VLDFXO (R153): Ordered indexed first-fault load. -/
  | vldfxo (d a b : Reg) (m z : Bool) (f : BitVec 3) (s : Bool)
  /-- VLDFSEG (R153): Segment first-fault load. -/
  | vldfseg (d a : Reg) (n : BitVec 2) (m z : Bool) (f : BitVec 3) (s : Bool)
  /-- VST (R147): Unit-stride vector store, native or narrowing. -/
  | vst (s a : Reg) (m z : Bool) (f : BitVec 3)
  /-- VSTS (R147): Strided vector store. -/
  | vsts (s a b : Reg) (m z : Bool) (f : BitVec 3)
  /-- VSTXU (R147): Unordered indexed vector store. -/
  | vstxu (s a b : Reg) (m z : Bool) (f : BitVec 3)
  /-- VSTXO (R147): Ordered indexed vector store. -/
  | vstxo (s a b : Reg) (m z : Bool) (f : BitVec 3)
  /-- VSTSEG (R147): Segment vector store. -/
  | vstseg (s a : Reg) (n : BitVec 2) (m z : Bool) (f : BitVec 3)
  /-- VSTR (R148): Whole-register-group store. -/
  | vstr (s a : Reg)
  /-- VSTM (R148): Mask store of VL bits. -/
  | vstm (s a : Reg)
  /-- VADD (R168): Vector integer add. -/
  | vadd (v : VArgs)
  /-- VSUB (R168): Vector integer subtract. -/
  | vsub (v : VArgs)
  /-- VRSUB (R168): Vector reverse subtract. -/
  | vrsub (v : VArgs)
  /-- VMIN_S (R168): Vector signed minimum. -/
  | vminS (v : VArgs)
  /-- VMIN_Z (R168): Vector unsigned minimum. -/
  | vminZ (v : VArgs)
  /-- VMAX_S (R168): Vector signed maximum. -/
  | vmaxS (v : VArgs)
  /-- VMAX_Z (R168): Vector unsigned maximum. -/
  | vmaxZ (v : VArgs)
  /-- VAND (R168): Vector AND. -/
  | vand (v : VArgs)
  /-- VOR (R168): Vector OR. -/
  | vor (v : VArgs)
  /-- VXOR (R168): Vector XOR. -/
  | vxor (v : VArgs)
  /-- VSLL (R168): Vector shift left. -/
  | vsll (v : VArgs)
  /-- VSRL (R168): Vector logical shift right. -/
  | vsrl (v : VArgs)
  /-- VSRA (R168): Vector arithmetic shift right. -/
  | vsra (v : VArgs)
  /-- VMUL (R168): Vector multiply low. -/
  | vmul (v : VArgs)
  /-- VMULH_S (R168): Vector signed multiply high. -/
  | vmulhS (v : VArgs)
  /-- VMULH_Z (R168): Vector unsigned multiply high. -/
  | vmulhZ (v : VArgs)
  /-- VDIV_S (R168): Vector signed divide without traps. -/
  | vdivS (v : VArgs)
  /-- VDIV_Z (R168): Vector unsigned divide without traps. -/
  | vdivZ (v : VArgs)
  /-- VREM_S (R168): Vector signed remainder. -/
  | vremS (v : VArgs)
  /-- VREM_Z (R168): Vector unsigned remainder. -/
  | vremZ (v : VArgs)
  /-- VMACC (R168): Vector multiply-accumulate. -/
  | vmacc (v : VArgs)
  /-- VNMSAC (R168): Vector negated multiply-subtract-accumulate. -/
  | vnmsac (v : VArgs)
  /-- VMERGE (R168): Selects per element between two sources under v0. -/
  | vmerge (d a b : Reg) (z w : Bool)
  /-- VMV (R168): Vector move or scalar broadcast. -/
  | vmv (d b : Reg) (m z w : Bool)
  /-- VWADD_S (R169): Widening signed add. -/
  | vwaddS (v : VArgs)
  /-- VWADD_Z (R169): Widening unsigned add. -/
  | vwaddZ (v : VArgs)
  /-- VWSUB_S (R169): Widening signed subtract. -/
  | vwsubS (v : VArgs)
  /-- VWSUB_Z (R169): Widening unsigned subtract. -/
  | vwsubZ (v : VArgs)
  /-- VWMUL_S (R169): Widening signed multiply. -/
  | vwmulS (v : VArgs)
  /-- VWMUL_Z (R169): Widening unsigned multiply. -/
  | vwmulZ (v : VArgs)
  /-- VWMACC_S (R169): Widening signed multiply-accumulate. -/
  | vwmaccS (v : VArgs)
  /-- VWMACC_Z (R169): Widening unsigned multiply-accumulate. -/
  | vwmaccZ (v : VArgs)
  /-- VCRC (R170): Advances a CRC-32C state per lane. -/
  | vcrc (v : VArgs)
  /-- VHASH (R171): Mixes up to eight bytes per lane into a 64-bit hash. -/
  | vhash (v : VArgs)
  /-- VSADD_S (R173): Saturating signed add. -/
  | vsaddS (v : VArgs)
  /-- VSADD_Z (R173): Saturating unsigned add. -/
  | vsaddZ (v : VArgs)
  /-- VSSUB_S (R173): Saturating signed subtract. -/
  | vssubS (v : VArgs)
  /-- VSSUB_Z (R173): Saturating unsigned subtract. -/
  | vssubZ (v : VArgs)
  /-- VAADD_S (R173): Signed averaging add. -/
  | vaaddS (v : VArgs)
  /-- VAADD_Z (R173): Unsigned averaging add. -/
  | vaaddZ (v : VArgs)
  /-- VASUB_S (R173): Signed averaging subtract. -/
  | vasubS (v : VArgs)
  /-- VASUB_Z (R173): Unsigned averaging subtract. -/
  | vasubZ (v : VArgs)
  /-- VSMUL_S (R173): Signed fractional multiply with rounding and saturation. -/
  | vsmulS (v : VArgs)
  /-- VSSRA_S (R173): Rounding arithmetic shift right. -/
  | vssraS (v : VArgs)
  /-- VSSRL_Z (R173): Rounding logical shift right. -/
  | vssrlZ (v : VArgs)
  /-- VNCLIP_S (R174): Narrowing signed rounding shift with signed saturation. -/
  | vnclipS (v : VArgs)
  /-- VNCLIP_Z (R174): Narrowing unsigned rounding shift with saturation. -/
  | vnclipZ (v : VArgs)
  /-- VNCLIP_SU (R174): Narrowing signed shift saturated to unsigned. -/
  | vnclipSu (v : VArgs)
  /-- VDOT4_S (R175): Four-term signed dot product accumulate. -/
  | vdot4S (v : VArgs)
  /-- VDOT4_Z (R175): Four-term unsigned dot product accumulate. -/
  | vdot4Z (v : VArgs)
  /-- VDOT4_SU (R175): Four-term signed-by-unsigned dot product. -/
  | vdot4Su (v : VArgs)
  /-- VMSEQ (R176): Mask compare equal. -/
  | vmseq (v : VArgs)
  /-- VMSNE (R176): Mask compare not equal. -/
  | vmsne (v : VArgs)
  /-- VMSLT_S (R176): Mask compare signed less-than. -/
  | vmsltS (v : VArgs)
  /-- VMSLT_Z (R176): Mask compare unsigned less-than. -/
  | vmsltZ (v : VArgs)
  /-- VMSLE_S (R176): Mask compare signed less-or-equal. -/
  | vmsleS (v : VArgs)
  /-- VMSLE_Z (R176): Mask compare unsigned less-or-equal. -/
  | vmsleZ (v : VArgs)
  /-- VMSGT_S (R176): Mask compare signed greater-than. -/
  | vmsgtS (v : VArgs)
  /-- VMSGT_Z (R176): Mask compare unsigned greater-than. -/
  | vmsgtZ (v : VArgs)
  /-- VMSGE_S (R176): Mask compare signed greater-or-equal. -/
  | vmsgeS (v : VArgs)
  /-- VMSGE_Z (R176): Mask compare unsigned greater-or-equal. -/
  | vmsgeZ (v : VArgs)
  /-- VMAND (R177): Mask AND. -/
  | vmand (d a b : Reg) (z : Bool)
  /-- VMOR (R177): Mask OR. -/
  | vmor (d a b : Reg) (z : Bool)
  /-- VMXOR (R177): Mask XOR. -/
  | vmxor (d a b : Reg) (z : Bool)
  /-- VMANDN (R177): Mask AND-NOT. -/
  | vmandn (d a b : Reg) (z : Bool)
  /-- VMORN (R177): Mask OR-NOT. -/
  | vmorn (d a b : Reg) (z : Bool)
  /-- VMNAND (R177): Mask NAND. -/
  | vmnand (d a b : Reg) (z : Bool)
  /-- VMNOR (R177): Mask NOR. -/
  | vmnor (d a b : Reg) (z : Bool)
  /-- VMXNOR (R177): Mask XNOR. -/
  | vmxnor (d a b : Reg) (z : Bool)
  /-- VCPOP (R178): Counts active set mask bits into a scalar. -/
  | vcpop (d a : Reg) (m : Bool)
  /-- VFIRST (R178): Finds the lowest active set mask bit. -/
  | vfirst (d a : Reg) (m : Bool)
  /-- VMSBF (R179): Sets mask bits before the first set bit. -/
  | vmsbf (d a : Reg) (m z : Bool)
  /-- VMSIF (R179): Sets mask bits up to and including the first set bit. -/
  | vmsif (d a : Reg) (m z : Bool)
  /-- VMSOF (R179): Sets only the first set mask bit. -/
  | vmsof (d a : Reg) (m z : Bool)
  /-- VSLIDEUP (R180): Slides elements up by a scalar amount. -/
  | vslideup (d a b : Reg) (m z : Bool)
  /-- VSLIDEDOWN (R180): Slides elements down by a scalar amount. -/
  | vslidedown (d a b : Reg) (m z : Bool)
  /-- VSLIDE1UP (R180): Slides up by one inserting a scalar. -/
  | vslide1up (d a b : Reg) (m z : Bool)
  /-- VSLIDE1DOWN (R180): Slides down by one inserting a scalar. -/
  | vslide1down (d a b : Reg) (m z : Bool)
  /-- VRGATHER (R180): Gathers elements by index. -/
  | vrgather (v : VArgs)
  /-- VCOMPRESS (R181): Packs selected elements to the front. -/
  | vcompress (d a b : Reg) (z : Bool)
  /-- VEXPAND (R181): Spreads elements to selected positions. -/
  | vexpand (d a b : Reg) (z : Bool)
  /-- VID (R180): Writes each element's index. -/
  | vid (d : Reg) (m z : Bool)
  /-- VMV_XS (R180): Moves element 0 to a scalar register. -/
  | vmvXs (d a : Reg)
  /-- VMV_SX (R180): Moves a scalar into element 0. -/
  | vmvSx (d b : Reg) (m z : Bool)
  /-- VSCANADD (R182): Inclusive integer prefix sum. -/
  | vscanadd (v : VArgs)
  /-- VSCANADD_SG (R182): Segmented inclusive integer prefix sum. -/
  | vscanaddSg (d a b : Reg) (z w : Bool)
  /-- VSORTK_Z (R183): Stable ascending sort permutation, unsigned keys. -/
  | vsortkZ (d a : Reg) (z : Bool)
  /-- VSORTK_S (R183): Stable ascending sort permutation, signed keys. -/
  | vsortkS (d a : Reg) (z : Bool)
  /-- VSORTKD_Z (R183): Stable descending sort permutation, unsigned keys. -/
  | vsortkdZ (d a : Reg) (z : Bool)
  /-- VSORTKD_S (R183): Stable descending sort permutation, signed keys. -/
  | vsortkdS (d a : Reg) (z : Bool)
  /-- VFADD (R194): Vector float add. -/
  | vfadd (v : VArgs) (h : Bool)
  /-- VFSUB (R194): Vector float subtract. -/
  | vfsub (v : VArgs) (h : Bool)
  /-- VFRSUB (R194): Vector float reverse subtract. -/
  | vfrsub (v : VArgs) (h : Bool)
  /-- VFMUL (R194): Vector float multiply. -/
  | vfmul (v : VArgs) (h : Bool)
  /-- VFDIV (R194): Vector float divide. -/
  | vfdiv (v : VArgs) (h : Bool)
  /-- VFRDIV (R194): Vector float reverse divide. -/
  | vfrdiv (v : VArgs) (h : Bool)
  /-- VFMIN (R194): Vector float minimum. -/
  | vfmin (v : VArgs) (h : Bool)
  /-- VFMAX (R194): Vector float maximum. -/
  | vfmax (v : VArgs) (h : Bool)
  /-- VFSGNJ (R194): Vector sign injection. -/
  | vfsgnj (v : VArgs) (h : Bool)
  /-- VFSGNJN (R194): Vector inverted sign injection. -/
  | vfsgnjn (v : VArgs) (h : Bool)
  /-- VFSGNJX (R194): Vector XOR sign injection. -/
  | vfsgnjx (v : VArgs) (h : Bool)
  /-- VFMACC (R194): Vector fused multiply-add. -/
  | vfmacc (v : VArgs) (h : Bool)
  /-- VFNMACC (R194): Vector fused negated multiply-add. -/
  | vfnmacc (v : VArgs) (h : Bool)
  /-- VFMSAC (R194): Vector fused multiply-subtract. -/
  | vfmsac (v : VArgs) (h : Bool)
  /-- VFNMSAC (R194): Vector fused negated multiply-subtract. -/
  | vfnmsac (v : VArgs) (h : Bool)
  /-- VMFEQ (R195): Float compare equal into a mask. -/
  | vmfeq (v : VArgs) (h : Bool)
  /-- VMFNE (R195): Float compare not-equal into a mask. -/
  | vmfne (v : VArgs) (h : Bool)
  /-- VMFLT (R195): Float compare less-than into a mask. -/
  | vmflt (v : VArgs) (h : Bool)
  /-- VMFLE (R195): Float compare less-or-equal into a mask. -/
  | vmfle (v : VArgs) (h : Bool)
  /-- VMFGT (R195): Float compare greater-than into a mask. -/
  | vmfgt (v : VArgs) (h : Bool)
  /-- VMFGE (R195): Float compare greater-or-equal into a mask. -/
  | vmfge (v : VArgs) (h : Bool)
  /-- VFCLASS (R196): Writes a class word per element. -/
  | vfclass (d a : Reg) (m z h : Bool)
  /-- VFCVTI_S (R197): Float to signed integer per element. -/
  | vfcvtiS (d a : Reg) (m z h : Bool)
  /-- VFCVTI_Z (R197): Float to unsigned integer per element. -/
  | vfcvtiZ (d a : Reg) (m z h : Bool)
  /-- VFCVTF_S (R197): Signed integer to float per element. -/
  | vfcvtfS (d a : Reg) (m z h : Bool)
  /-- VFCVTF_Z (R197): Unsigned integer to float per element. -/
  | vfcvtfZ (d a : Reg) (m z h : Bool)
  /-- VFWCVT (R199): Widens floats exactly to twice the width. -/
  | vfwcvt (d a : Reg) (m z h : Bool)
  /-- VFNCVT (R199): Narrows floats with one rounding. -/
  | vfncvt (d a : Reg) (m z h : Bool)
  /-- VFWMACC (R200): Widening fused multiply-accumulate. -/
  | vfwmacc (v : VArgs) (h : Bool)
  /-- VFDOT2 (R200): Two-term dot product accumulate rounded once. -/
  | vfdot2 (v : VArgs) (h : Bool)
  /-- VFREDSUM (R203): Unordered float sum reduction with slot partials. -/
  | vfredsum (v : VArgs) (h : Bool)
  /-- VFREDSUM_O (R203): Sequential float sum reduction. -/
  | vfredsumO (v : VArgs) (h : Bool)
  /-- VFREDMAX (R203): Float maximum reduction. -/
  | vfredmax (v : VArgs) (h : Bool)
  /-- VFREDMIN (R203): Float minimum reduction. -/
  | vfredmin (v : VArgs) (h : Bool)
  /-- VFREDSUM_SG (R204): Segmented sequential float sums, one per segment. -/
  | vfredsumSg (d a b : Reg) (z w h : Bool)
  /-- VFSCAN (R205): Unordered float inclusive scan. -/
  | vfscan (v : VArgs) (h : Bool)
  /-- VFSCAN_O (R205): Sequential float inclusive scan. -/
  | vfscanO (v : VArgs) (h : Bool)
  /-- VFSCAN_SG (R205): Segmented sequential float scan. -/
  | vfscanSg (d a b : Reg) (z w h : Bool)
  /-- VFARGMAX (R206): Index of the greatest element. -/
  | vfargmax (d a : Reg) (m h : Bool)
  /-- VFARGMIN (R206): Index of the least element. -/
  | vfargmin (d a : Reg) (m h : Bool)
  /-- VREDSUM (R207): Integer sum reduction. -/
  | vredsum (v : VArgs)
  /-- VREDMAX_S (R207): Signed integer maximum reduction. -/
  | vredmaxS (v : VArgs)
  /-- VREDMAX_Z (R207): Unsigned integer maximum reduction. -/
  | vredmaxZ (v : VArgs)
  /-- VREDMIN_S (R207): Signed integer minimum reduction. -/
  | vredminS (v : VArgs)
  /-- VREDMIN_Z (R207): Unsigned integer minimum reduction. -/
  | vredminZ (v : VArgs)
  /-- VREDAND (R207): AND reduction. -/
  | vredand (v : VArgs)
  /-- VREDOR (R207): OR reduction. -/
  | vredor (v : VArgs)
  /-- VREDXOR (R207): XOR reduction. -/
  | vredxor (v : VArgs)
  /-- VREDSUM_SG (R207): Segmented integer sums. -/
  | vredsumSg (d a b : Reg) (z w : Bool)
  /-- VEXP2 (R201): Correctly rounded base-2 exponential. -/
  | vexp2 (d a : Reg) (m z h : Bool)
  /-- VLOG2 (R201): Correctly rounded base-2 logarithm. -/
  | vlog2 (d a : Reg) (m z h : Bool)
  /-- VRCP (R201): Correctly rounded reciprocal. -/
  | vrcp (d a : Reg) (m z h : Bool)
  /-- VRSQRT (R201): Correctly rounded reciprocal square root. -/
  | vrsqrt (d a : Reg) (m z h : Bool)
  /-- VSQRT (R201): Correctly rounded square root. -/
  | vsqrt (d a : Reg) (m z h : Bool)
  /-- VRAND (R209): Fills elements with Philox random words. -/
  | vrand (d : Reg) (m z : Bool)
  /-- VRANDF (R209): Fills elements with uniform floats in [0, 1). -/
  | vrandf (d : Reg) (m z h : Bool)
  /-- VCDFSEL (R210): Selects an index by inverse CDF of weights. -/
  | vcdfsel (d a b : Reg) (m h : Bool)
  /-- VSMMERGE (R211): Joins two base-2 softmax states. -/
  | vsmmerge (d a : Reg) (z : Bool)
  /-- VSTRIP (R243): Closes any open strip and opens a new one with a checkpoint. -/
  | vstrip (d a : Reg) (e : BitVec 2) (p : Bool) (g : BitVec 2)
  /-- VSTREND (R244): Closes the open strip, releasing held stores. -/
  | vstrend
  /-- VEXIT_I (R245): Cuts VL after the first exiting element and annuls later held stores. -/
  | vexitI (d a b : Reg)
  /-- VEXIT_B (R245): Cuts VL before the first exiting element and annuls later held stores. -/
  | vexitB (d a b : Reg)
  /-- HOLD_EXPIRY (R260): The interrupt hold after a resumed VSTRIP ends after 2,048 cycles. -/
  | holdExpiry (gang rank : Nat)
  /-- KVXL (R79): Translates token positions into block or draft addresses. -/
  | kvxl (d a b c : Reg)
  /-- KVXLM (R79): Writes a presence mask for token positions. -/
  | kvxlm (d a b c : Reg)
  /-- KVAPP (R80): Appends one quantised token to a pair's block. -/
  | kvapp (d a b c : Reg)
  /-- KVCOMMIT (R81): Commits drafts into blocks up to a target length. -/
  | kvcommit (a b : Reg)
  /-- KVTRUNC (R82): Reduces the draft count. -/
  | kvtrunc (a b : Reg)
  /-- KVEVICT (R83): Evicts a committed position from blocks in scope. -/
  | kvevict (d a b c : Reg)
  /-- KVALLOC (R84): Grants blocks for table entries up to a target length. -/
  | kvalloc (d a b : Reg)
  /-- KVFREE (R84): Releases table entries from a first entry onward. -/
  | kvfree (d a b c : Reg)
  /-- KVFORK (R84): Forks a child sequence sharing or copying parent blocks. -/
  | kvfork (d a b : Reg)
  /-- STASH_REFILL_REPLY (R74): Esmen's refill reply adds IDs to the stash or reports the pool dry. -/
  | stashRefillReply (die core : Nat) (ids : List Nat)
  /-- CPY_LIN (R128): Issues a linear copy on an engine. -/
  | cpyLin (d a b c : Reg) (e : BitVec 2)
  /-- CPY_2D (R128): Issues a strided two-dimensional copy. -/
  | cpy2d (d a b c : Reg) (e : BitVec 2)
  /-- CPY_GATH (R128): Issues a row gather through an index table. -/
  | cpyGath (d a b c : Reg) (e : BitVec 2)
  /-- CPY_CONV (R130): Issues a narrow-format conversion copy. -/
  | cpyConv (d a b c : Reg) (e : BitVec 2)
  /-- CPY_FILL (R128): Issues a pattern fill. -/
  | cpyFill (d a b c : Reg) (e : BitVec 2)
  /-- CPYWAIT (R134): Waits for an engine's commands to complete and reports a failure. -/
  | cpywait (a : Reg) (e : BitVec 2)
  /-- CPYQRY (R134): Returns DONE for an engine. -/
  | cpyqry (d : Reg) (e : BitVec 2)
  /-- READ (R132): A copy engine reads one source line at one instant. -/
  | read (die core eng n : Nat)
  /-- WRITE (R133): A copy engine writes and releases one destination line. -/
  | write (die core eng n : Nat)
  /-- CPY_FAIL (R135): A command fails and its failure record is set. -/
  | cpyFail (die core eng n : Nat)
  /-- CPY_REISSUE (R136): A cancelled command is issued again before the harts resume. -/
  | cpyReissue (gang : Nat)
  /-- BMODE (R120): Changes a bank between cache, scratch and FIFO mode. -/
  | bmode (d a b : Reg)
  /-- BSLOT (R120): Performs a slot-table operation on a scratch bank. -/
  | bslot (d a b : Reg)
  /-- BQRY (R120): Reports a bank's mode and slot state. -/
  | bqry (d a : Reg)
  /-- FPUSH (R121): Pushes one 128-byte entry into a FIFO bank. -/
  | fpush (d a : Reg)
  /-- FPOP (R121): Pops one entry from a FIFO bank. -/
  | fpop (d a : Reg)
  /-- LPF_L2 (R117): Prefetches lines to their L2 home. -/
  | lpfL2 (a b : Reg)
  /-- LPF_L1 (R117): Prefetches lines into the core's L1. -/
  | lpfL1 (a b : Reg)
  /-- LCLEAN (R117): Writes dirty lines back to memory. -/
  | lclean (a b : Reg)
  /-- LINV (R117): Cleans and removes lines from L1s and their home. -/
  | linv (a b : Reg)
  /-- DISCARD (R118): Stores zeros over whole lines via zero marks at the home. -/
  | discard (a b : Reg)
  /-- CRGET (R102): Opens the lowest free continuation slot of the tenant. -/
  | crget (d : Reg)
  /-- PARK (R102): Parks an open continuation and arms its T_hbm timer. -/
  | park (d a : Reg)
  /-- CRFREE (R102): Frees a continuation slot. -/
  | crfree (d a : Reg)
  /-- PROMOTE (R103): Hints expert pages into the HBM expert cache and trains the predictor. -/
  | promote (a b c : Reg)
  /-- TQRY (R104): Reports the tier state of an address's page. -/
  | tqry (d a : Reg)
  /-- CRQRY (R104): Reports a continuation's state, tier and pages not in HBM. -/
  | crqry (d a : Reg)
  /-- LAUNCH (R313): Copies a start record into a queue. -/
  | launch (d a b : Reg)
  /-- GBAR (R314): Waits for every live hart of the gang at a barrier. -/
  | gbar
  /-- SIGNAL (R315): Adds to a counter word with domain-scope release. -/
  | signal (a b : Reg)
  /-- WAITGE (R316): Waits until a counter reaches a threshold or a deadline. -/
  | waitge (d a b c : Reg)
  /-- HEND (R317): Ends the hart, and the gang when it is the last. -/
  | hend
  /-- COMPLETION_ADD (R311): After the gang's stores are performed, INC is added to the completion counter. -/
  | completionAdd (gang : Nat)
  /-- TZERO (R220): Clears a tile or latch. -/
  | tzero (t : Fin 6)
  /-- TGL (R221): Gathers rows from scratch banks into a latch. -/
  | tgl (l : Latch) (b : Reg) (row : BitVec 6) (m : Bool)
  /-- TOP (R223): Accumulates outer products of latch vectors into a tile. -/
  | top (t : Tile) (la lb : Latch) (f32 oa ob ha hb za : Bool)
  /-- TRD (R224): Copies tile elements into a vector register. -/
  | trd (d : Reg) (t : Tile) (row : BitVec 6) (colw clr : Bool)
  /-- TWR (R224): Copies vector elements into a tile. -/
  | twr (t : Tile) (b : Reg) (row : BitVec 6) (colw : Bool)
  /-- TFINIT (R231): Initialises a factor tile to sqrt(lambda) times identity. -/
  | tfinit (t : Tile) (a : Reg)
  /-- TFUPD (R232): Absorbs a vector with a sweep of plane rotations. -/
  | tfupd (t : Tile) (b : Reg)
  /-- TFDND (R232): Removes a vector with hyperbolic rotations, trapping on lost definiteness. -/
  | tfdnd (t : Tile) (b : Reg) (dlt : BitVec 6)
  /-- TFSOLV (R235): Solves against the factor's Gram matrix. -/
  | tfsolv (d : Reg) (t : Tile) (b : Reg) (part : BitVec 2)
  /-- TFRD (R236): Reads a row of the factor. -/
  | tfrd (d : Reg) (t : Tile) (row : BitVec 6)
  /-- TFWR (R236): Writes a row of the factor. -/
  | tfwr (t : Tile) (b : Reg) (row : BitVec 6)
  /-- TFSAVE (R238): Saves a factor image with CRC. -/
  | tfsave (t : Tile) (a : Reg)
  /-- TFLOAD (R238): Loads and checks a factor image. -/
  | tfload (t : Tile) (a : Reg)
  /-- TIMER_INTERRUPT (R332): Once TIME reaches TDL the timer interrupt is taken at a stopping point. -/
  | timerInterrupt (gang rank : Nat)
  /-- DOORBELL_INTERRUPT (R332): A pending doorbell is taken as an interrupt at a stopping point. -/
  | doorbellInterrupt (gang rank : Nat)
  /-- DOORBELL_WRITE (R333): An aligned write to a hart's doorbell word sets DIP. -/
  | doorbellWrite (src : Source) (hart : Nat)
  /-- WAIT_DEADLINE (R297): A WAIT or WAITGE deadline passes and the instruction completes. -/
  | waitDeadline (gang rank : Nat)
  /-- BIND (R266): A load element takes its value from the Sluice, store queue or home. -/
  | bind (gang rank : Nat) (a : AheadAt)
  /-- REPLAY (R268): A bound load element is unbound and binds again. -/
  | replay (gang rank : Nat) (pc : BitVec 52)
  /-- EARLY (R266): A DISCARD's line stores enter the store queue ahead of its completion. -/
  | early (gang rank : Nat) (path : List (BitVec 52))
  /-- DRAIN (R266): The oldest store-queue entry takes its place at its home or enters a fabric queue. -/
  | drain (gang rank : Nat)
  /-- ARRIVE (R276): The oldest fabric-queue entry is performed at its remote home. -/
  | arrive (gang rank dev : Nat)
  /-- INBOUND_ACCESS (R362): An access from a host function, domain device or CXL peer is checked against its source's
  extents and performed. -/
  | inboundAccess (src : Source) (pa n : Nat) (bs : List Byte)
  /-- WAKE_WRITE (R95): A wake write reaching a slot's home is accepted or rejected against state and cookie. -/
  | wakeWrite (src slot : Nat) (v : Word)
  /-- T_HBM_EXPIRY (R92): A parked continuation's HBM pages with A clear are demoted to CXL. -/
  | tHbmExpiry (slot : Nat)
  /-- T_CXL_EXPIRY (R92): A parked continuation's CXL pages with A clear are demoted to flash. -/
  | tCxlExpiry (slot : Nat)
  /-- TIMER_WHEEL_TICK (R94): Each millisecond the engine moves due overflow timers into wheel buckets. -/
  | timerWheelTick
  /-- PAGE_MOVE (R93): A page copy between tiers completes and its new leaf is written. -/
  | pageMove (ptea : Nat)
  /-- PROMOTION_FAIL (R98): A failed flash promotion sets FAIL in the leaf. -/
  | promotionFail (ptea : Nat)
  /-- DEMOTION_FAIL (R98): A failed demotion leaves the page in place and counts in WREJ. -/
  | demotionFail (ptea : Nat)
  /-- TIERWAIT (R57): A tiered page not promoted within 10 ms raises TIERWAIT. -/
  | tierwait (gang rank : Nat)
  /-- RELAUNCH_SUBMIT (R318): Once the restart depth is resident the engine submits the start record to QUEUE. -/
  | relaunchSubmit (slot : Nat)
  /-- RECORD_CHECK (R303): A record at HEAD is checked and consumed with a status on failure. -/
  | recordCheck (q : Nat)
  /-- GRANT (R305): The allocator grants a candidate's gangs on one die. -/
  | grant (die q : Nat) (groups : List Nat)
  /-- DEP_POLL (R305): The allocator rereads a dependence counter at least every 10 µs. -/
  | depPoll (q : Nat)
  /-- RESERVATION (R306): After 8 ms at priority 3 a candidate reserves the die. -/
  | reservation (die : Nat)
  /-- PREEMPTION (R335): A gang is stopped, drained and saved by the save engine. -/
  | preemption (r : Removal)
  /-- GANG_RESUME (R337): A saved gang is restored when its resources are free again. -/
  | gangResume (gang : Nat)
  /-- CORE_RETIREMENT (R338): A failing core's gangs are saved and remapped onto a spare. -/
  | coreRetirement (die core : Nat)
  /-- UNCORRECTABLE_ERROR (R340): An uncorrectable error is recorded at the storage holding it. -/
  | uncorrectableError (p : Storage)
  /-- HBM_FRAME_RETIREMENT (R341): A frame over the corrected-error threshold is moved and retired. -/
  | hbmFrameRetirement (frame dest : Nat) (leaves : List Nat)
  /-- L2_WAY_DISABLE (R341): A failing L2 way is written back and disabled. -/
  | l2WayDisable (die slice way : Nat)
  /-- LINK_FAILURE (R342): An Aqtex link loses lanes or fails and traffic is rerouted. -/
  | linkFailure (dev : Nat) (loss : LinkLoss)
  /-- HALT_REQUEST (R348): The debug module halts a hart at its next stopping point. -/
  | haltRequest (die sel : Nat)
  /-- RESUME_REQUEST (R348): The debug module resumes or single-steps a halted hart. -/
  | resumeRequest (die sel : Nat)
  /-- ACCESS_REGISTER (R346): An abstract command reads or writes hart state. -/
  | accessRegister (die sel regno : Nat) (wr : Bool) (v : Word)
  /-- ACCESS_MEMORY (R347): An abstract command reads or writes memory as the halted hart. -/
  | accessMemory (die sel : Nat) (virt wr : Bool) (size : Nat) (addr v : Word)
  /-- TRACE_SAMPLE (R352): Every sample period a sample record is written. -/
  | traceSample (die : Nat)
  /-- STALL_CHARGE (R354): Stall cycles are charged to the stall-pair table at stall end and every 1,024 cycles. -/
  | stallCharge (gang rank : Nat)
  /-- HSEM_WRITE (R357): A PF write grants or releases HSEM. -/
  | hsemWrite (port : Nat) (v : Word)
  /-- HOST_LINK_DOWN (R357): A host port's link goes down and HSEM is released if held. -/
  | hostLinkDown (port : Nat)
  /-- QCFG_WRITE (R300): A write configures a queue, refusing EN with bad LOG2N or DIES. -/
  | qcfgWrite (src : Source) (q : Nat) (hi : Bool) (v : Word)
  /-- QSTATE_WRITE (R301): A write sets TAIL or clears VALID and OVF. -/
  | qstateWrite (src : Source) (q : Nat) (hi : Bool) (v : Word)
  /-- QTAIL_WRITE (R360): A tenant page write sets a queue's TAIL when the tenant owns it. -/
  | qtailWrite (tenant q : Nat) (v : Word)
  /-- RHEAD_WRITE (R360): The host writes the report ring head. -/
  | rheadWrite (tenant : Nat) (v : Word)
  /-- DOMCFG_WRITE (R363): Enabling or disabling the Aqtex domain. -/
  | domcfgWrite (port : Nat) (v : Word)
  /-- PEER_CHECK (R363): After link training and certificate exchange a device's PEERS bit is set. -/
  | peerCheck (p : PeerFound)
  /-- REGISTER_WRITE (R358): A write to a device register without a row of its own, accepted only from the HSEM holder.
  -/
  | registerWrite (r : RegWrite) (v : Word)
  /-- TCREATE (R368): Registers a tenant's pool, slots and VL cap. -/
  | tcreate (port : Nat) (t : NewTenant)
  /-- TDESTROY (R368): Destroys a tenant as a function-level reset does. -/
  | tdestroy (port : Nat)
  /-- EXTSET (R368): Writes an extent-table entry of a source. -/
  | extset (port : Nat)
  /-- ATTEST (R371): Writes a signed attestation report. -/
  | attest (src : Source)
  /-- STAGE (R369): Copies and verifies a firmware image. -/
  | stage (port : Nat)
  /-- ACTIVATE (R368): Marks the staged image to boot at the next reset. -/
  | activate (port : Nat)
  /-- SVNADV (R370): Raises MINSVN up to the running SVN. -/
  | svnadv (port : Nat)
  /-- PREEMPT (R368): Requests pre-emption of a gang on a die. -/
  | preempt (port : Nat)
  /-- FUNCTION_LEVEL_RESET (R367): A VF reset ends the tenant's gangs, disables queues and clears extents. -/
  | functionLevelReset (tenant : Nat)
  /-- HOT_RESET (R367): A PF or port reset releases HSEM and resets each VF of the port. -/
  | hotReset (port : Nat)
  /-- COLD_RESET (R366): Power-good starts the ROM, image verification and bring-up. -/
  | coldReset
  /-- READY (R366): Bring-up completes and DEVSTAT.READY is set. -/
  | ready (crpa : Nat)
  /-- CORRECTED_ERROR (R340): A corrected error in a core, HBM frame or L2 way is logged by Esmen and counted toward the
  retirement thresholds. -/
  | correctedError (p : Place)
  deriving DecidableEq, Repr

end Sys2Proof
end

