-- ==== Sys2Proof/WellFormed.lean ====
section
/-! DEFINITION. The limits that an instruction's own entry sets on its fields, whatever the state: a word that
breaks one raises ILLEGAL (R36, R40). Limits that depend on VTYPE or another register are checked when the
instruction executes. -/

namespace Sys2Proof

/-- A vector memory access (R146): `sx` only with a native format, a narrow format only with unit stride, no masked
load into v0. -/
def memWf (unit load : Bool) (d : Reg) (m sx : Bool) (f : BitVec 3) : Bool :=
  (f.toNat < 4 || (unit && !sx)) && !(load && m && d == 0)

/-- A memory scope is 0-4 (R288). -/
def scopeWf (s : Nat) : Bool := s ≤ 4

/-- The pair register of 2D, GATH and CONV: neither x0 nor x31 (R125). -/
def pairWf (c : Reg) : Bool := c != 0 && c != 31

/-- The static limits of each entry. -/
def Instr.wf : Instr → Bool
  | .ld8ZAq _ _ s | .ld16ZAq _ _ s | .ld32ZAq _ _ s | .ld64Aq _ _ s => scopeWf s.toNat
  | .st8Rl _ _ s | .st16Rl _ _ s | .st32Rl _ _ s | .st64Rl _ _ s => scopeWf s.toNat
  | .amoswap _ _ _ _ _ s _ | .amoadd _ _ _ _ _ s _ | .amoand _ _ _ _ _ s _ | .amoor _ _ _ _ _ s _
  | .amoxor _ _ _ _ _ s _ | .amominS _ _ _ _ _ s _ | .amominZ _ _ _ _ _ s _ | .amomaxS _ _ _ _ _ s _
  | .amomaxZ _ _ _ _ _ s _ | .amocas _ _ _ _ _ s _ => scopeWf s.toNat
  | .fence s => scopeWf s.toNat
  | .cAddi d _ | .cLi d _ | .cMv d _ | .cAdd d _ | .cSub d _ | .cAnd d _ | .cOr d _ | .cXor d _
  | .cSlli d _ | .cSrli d _ | .cLdsp d _ => d != 0
  | .cJr b => b != 0
  | .vsetvli _ a p e _ _ _ => e.toNat < 4 && (!p || a == 0)
  | .vsetvlm _ _ e _ _ _ => e.toNat < 4
  | .vsetfl _ _ _ e _ _ _ => e.toNat < 4
  | .vld d _ m _ f s => memWf true true d m s f
  | .vlds d _ _ m _ f s | .vldxu d _ _ m _ f s | .vldxo d _ _ m _ f s | .vldseg d _ _ m _ f s => memWf false true d m s f
  | .vldf d _ m _ f s => memWf true true d m s f
  | .vldfs d _ _ m _ f s | .vldfxu d _ _ m _ f s | .vldfxo d _ _ m _ f s | .vldfseg d _ _ m _ f s =>
    memWf false true d m s f
  | .vst d _ m _ f => memWf true false d m false f
  | .vsts d _ _ m _ f | .vstxu d _ _ m _ f | .vstxo d _ _ m _ f | .vstseg d _ _ m _ f => memWf false false d m false f
  | .vstrip _ a _ p _ => !p || a == 0
  | .vexitI d _ b | .vexitB d _ b => d != b || d == 0
  | .cpy2d _ _ _ c _ | .cpyGath _ _ _ c _ | .cpyConv _ _ _ c _ => pairWf c
  | .top _ _ _ f32 oa ob ha hb _ => (!ha || (oa && !f32)) && (!hb || (ob && !f32))
  | .tfsolv _ _ _ part => part.toNat < 3
  | _ => true

end Sys2Proof
end

