-- ==== Sys2Proof/Decode.lean ====
section
/-! DEFINITION. From words to instructions and back (R24-R40, and the encoding tables of the chapters).
A word is a natural number whose bit 0 is the least significant bit of the first parcel. -/

namespace Sys2Proof

/-- Why a word is not an instruction. Each one is the cause ILLEGAL of R40 when fetched. -/
inductive DecodeErr where
  /-- Fewer bytes than the first parcel asks for (R24). -/
  | truncated
  /-- Major 0x00 or 0x27-0x3F (R38). -/
  | reservedMajor
  /-- A function code, cond, width or mode that no table lists. -/
  | unassigned
  /-- A bit that must be zero (or, where a table fixes ws = 1, one) is not (R31). -/
  | reservedBits
  /-- The instruction breaks a limit of its own entry (`Instr.wf`). -/
  | limit
  /-- Prefix kind 0x0 or 0x4-0xF (R33). -/
  | prefixKind
  /-- Prefix and body do not go together (R36). -/
  | pairing
  /-- A TILE or FACT body without its prefix (R36, R37). -/
  | bareBody
  deriving DecidableEq, Repr

/-- Bits [lo+n-1 : lo] of a word. -/
def fld (w lo n : Nat) : Nat := w / 2 ^ lo % 2 ^ n

/-- A register field. -/
def reg (w lo : Nat) : Reg := Fin.ofNat 32 (fld w lo 5)

/-- A one-bit field. -/
def flag (w lo : Nat) : Bool := fld w lo 1 == 1

/-- An immediate or code field of `n` bits. -/
def bv (n w lo : Nat) : BitVec n := BitVec.ofNat n (fld w lo n)

/-- The operand fields of a V-format word (R26). -/
def vargs (w : Nat) : VArgs := ⟨reg w 7, reg w 12, reg w 17, flag w 22, flag w 23, flag w 24⟩

/-- The instruction, if the bits its table fixes are as the table says (R31). -/
def need (c : Bool) (i : Instr) : Except DecodeErr Instr := if c then .ok i else .error .reservedBits

/-- A word from its fields, (width, value), lowest first. -/
def pack : List (Nat × Nat) → Nat
  | [] => 0
  | (n, v) :: r => v % 2 ^ n + 2 ^ n * pack r


/-- Major 0x07 (R38). -/
noncomputable def decodeShi (w : Nat) : Except DecodeErr Instr :=
  match fld w 23 2 with
  | 0 => need (fld w 25 7 == 0) (.slli (reg w 7) (reg w 12) (bv 6 w 17))
  | 1 => need (fld w 25 7 == 0) (.srli (reg w 7) (reg w 12) (bv 6 w 17))
  | 2 => need (fld w 25 7 == 0) (.srai (reg w 7) (reg w 12) (bv 6 w 17))
  | 3 => need (fld w 25 7 == 0) (.rori (reg w 7) (reg w 12) (bv 6 w 17))
  | _ => .error .unassigned

/-- Major 0x0A (R38). -/
noncomputable def decodeOp (w : Nat) : Except DecodeErr Instr :=
  match fld w 27 5 with
  | 0 => need (fld w 22 5 == 0) (.add (reg w 7) (reg w 12) (reg w 17))
  | 1 => need (fld w 22 5 == 0) (.sub (reg w 7) (reg w 12) (reg w 17))
  | 2 => need (fld w 22 5 == 0) (.and (reg w 7) (reg w 12) (reg w 17))
  | 3 => need (fld w 22 5 == 0) (.or (reg w 7) (reg w 12) (reg w 17))
  | 4 => need (fld w 22 5 == 0) (.xor (reg w 7) (reg w 12) (reg w 17))
  | 5 => need (fld w 22 5 == 0) (.sll (reg w 7) (reg w 12) (reg w 17))
  | 6 => need (fld w 22 5 == 0) (.srl (reg w 7) (reg w 12) (reg w 17))
  | 7 => need (fld w 22 5 == 0) (.sra (reg w 7) (reg w 12) (reg w 17))
  | 8 => need (fld w 22 5 == 0) (.sltS (reg w 7) (reg w 12) (reg w 17))
  | 9 => need (fld w 22 5 == 0) (.sltZ (reg w 7) (reg w 12) (reg w 17))
  | 10 => need (fld w 22 5 == 0) (.mul (reg w 7) (reg w 12) (reg w 17))
  | 11 => need (fld w 22 5 == 0) (.mulhS (reg w 7) (reg w 12) (reg w 17))
  | 12 => need (fld w 22 5 == 0) (.mulhZ (reg w 7) (reg w 12) (reg w 17))
  | 13 => need (fld w 22 5 == 0) (.divS (reg w 7) (reg w 12) (reg w 17))
  | 14 => need (fld w 22 5 == 0) (.divZ (reg w 7) (reg w 12) (reg w 17))
  | 15 => need (fld w 22 5 == 0) (.remS (reg w 7) (reg w 12) (reg w 17))
  | 16 => need (fld w 22 5 == 0) (.remZ (reg w 7) (reg w 12) (reg w 17))
  | 17 => need (fld w 22 5 == 0) (.minS (reg w 7) (reg w 12) (reg w 17))
  | 18 => need (fld w 22 5 == 0) (.minZ (reg w 7) (reg w 12) (reg w 17))
  | 19 => need (fld w 22 5 == 0) (.maxS (reg w 7) (reg w 12) (reg w 17))
  | 20 => need (fld w 22 5 == 0) (.maxZ (reg w 7) (reg w 12) (reg w 17))
  | 21 => need (fld w 22 5 == 0) (.andn (reg w 7) (reg w 12) (reg w 17))
  | 22 => need (fld w 17 10 == 0) (.clz (reg w 7) (reg w 12))
  | 23 => need (fld w 17 10 == 0) (.ctz (reg w 7) (reg w 12))
  | 24 => need (fld w 17 10 == 0) (.cpop (reg w 7) (reg w 12))
  | 25 => .ok (.madd (reg w 7) (reg w 12) (reg w 17) (reg w 22))
  | 26 => need (fld w 25 2 == 0) (.addsh (reg w 7) (reg w 12) (reg w 17) (bv 3 w 22))
  | _ => .error .unassigned

/-- Major 0x0B (R38). -/
noncomputable def decodeFop (w : Nat) : Except DecodeErr Instr :=
  match fld w 29 3, fld w 27 2 with
  | 0, 0 => need (fld w 22 3 == 0) (.fadd (reg w 7) (reg w 12) (reg w 17) (bv 2 w 25))
  | 0, 1 => need (fld w 22 3 == 0) (.fsub (reg w 7) (reg w 12) (reg w 17) (bv 2 w 25))
  | 0, 2 => need (fld w 22 3 == 0) (.fmul (reg w 7) (reg w 12) (reg w 17) (bv 2 w 25))
  | 0, 3 => need (fld w 22 3 == 0) (.fdiv (reg w 7) (reg w 12) (reg w 17) (bv 2 w 25))
  | 1, 0 => need (fld w 17 8 == 0) (.fsqrt (reg w 7) (reg w 12) (bv 2 w 25))
  | 1, 1 => need (fld w 22 3 == 0) (.fmin (reg w 7) (reg w 12) (reg w 17) (bv 2 w 25))
  | 1, 2 => need (fld w 22 3 == 0) (.fmax (reg w 7) (reg w 12) (reg w 17) (bv 2 w 25))
  | 1, 3 => need (fld w 22 3 == 0) (.fsgnj (reg w 7) (reg w 12) (reg w 17) (bv 2 w 25))
  | 2, 0 => need (fld w 22 3 == 0) (.fsgnjn (reg w 7) (reg w 12) (reg w 17) (bv 2 w 25))
  | 2, 1 => need (fld w 22 3 == 0) (.fsgnjx (reg w 7) (reg w 12) (reg w 17) (bv 2 w 25))
  | 2, 2 => need (fld w 22 3 == 0) (.feq (reg w 7) (reg w 12) (reg w 17) (bv 2 w 25))
  | 2, 3 => need (fld w 22 3 == 0) (.flt (reg w 7) (reg w 12) (reg w 17) (bv 2 w 25))
  | 3, 0 => need (fld w 22 3 == 0) (.fle (reg w 7) (reg w 12) (reg w 17) (bv 2 w 25))
  | 3, 1 => need (fld w 17 8 == 0) (.fclass (reg w 7) (reg w 12) (bv 2 w 25))
  | 3, 2 => need (fld w 17 8 == 0) (.fcvtiS (reg w 7) (reg w 12) (bv 2 w 25))
  | 3, 3 => need (fld w 17 8 == 0) (.fcvtiZ (reg w 7) (reg w 12) (bv 2 w 25))
  | 4, 0 => need (fld w 17 8 == 0) (.fcvtfS (reg w 7) (reg w 12) (bv 2 w 25))
  | 4, 1 => need (fld w 17 8 == 0) (.fcvtfZ (reg w 7) (reg w 12) (bv 2 w 25))
  | 4, 2 => need (fld w 19 6 == 0) (.fcvt (reg w 7) (reg w 12) (bv 2 w 17) (bv 2 w 25))
  | 5, _ => .ok (.fmadd (reg w 7) (reg w 12) (reg w 17) (reg w 22) (bv 2 w 27))
  | 6, _ => .ok (.fnmsub (reg w 7) (reg w 12) (reg w 17) (reg w 22) (bv 2 w 27))
  | _, _ => .error .unassigned

/-- Major 0x0C (R38). -/
noncomputable def decodeLd (w : Nat) : Except DecodeErr Instr :=
  match fld w 17 3 with
  | 0 => .ok (.ld8Z (reg w 7) (reg w 12) (bv 12 w 20))
  | 1 => .ok (.ld16Z (reg w 7) (reg w 12) (bv 12 w 20))
  | 2 => .ok (.ld32Z (reg w 7) (reg w 12) (bv 12 w 20))
  | 3 => .ok (.ld64 (reg w 7) (reg w 12) (bv 12 w 20))
  | 4 => .ok (.ld8S (reg w 7) (reg w 12) (bv 12 w 20))
  | 5 => .ok (.ld16S (reg w 7) (reg w 12) (bv 12 w 20))
  | 6 => .ok (.ld32S (reg w 7) (reg w 12) (bv 12 w 20))
  | _ => .error .unassigned

/-- Major 0x0D (R38). -/
noncomputable def decodeSt (w : Nat) : Except DecodeErr Instr :=
  match fld w 17 3 with
  | 0 => .ok (.st8 (reg w 7) (reg w 12) (bv 12 w 20))
  | 1 => .ok (.st16 (reg w 7) (reg w 12) (bv 12 w 20))
  | 2 => .ok (.st32 (reg w 7) (reg w 12) (bv 12 w 20))
  | 3 => .ok (.st64 (reg w 7) (reg w 12) (bv 12 w 20))
  | _ => .error .unassigned

/-- Major 0x0E (R38). -/
noncomputable def decodeAmo (w : Nat) : Except DecodeErr Instr :=
  match fld w 28 4, fld w 27 1 with
  | 0, 0 => need (fld w 17 7 == 0) (.ld8ZAq (reg w 7) (reg w 12) (bv 3 w 24))
  | 0, 1 => need (fld w 17 7 == 0) (.ld16ZAq (reg w 7) (reg w 12) (bv 3 w 24))
  | 1, 0 => need (fld w 17 7 == 0) (.ld32ZAq (reg w 7) (reg w 12) (bv 3 w 24))
  | 1, 1 => need (fld w 17 7 == 0) (.ld64Aq (reg w 7) (reg w 12) (bv 3 w 24))
  | 2, 0 => need (fld w 17 7 == 0) (.st8Rl (reg w 7) (reg w 12) (bv 3 w 24))
  | 2, 1 => need (fld w 17 7 == 0) (.st16Rl (reg w 7) (reg w 12) (bv 3 w 24))
  | 3, 0 => need (fld w 17 7 == 0) (.st32Rl (reg w 7) (reg w 12) (bv 3 w 24))
  | 3, 1 => need (fld w 17 7 == 0) (.st64Rl (reg w 7) (reg w 12) (bv 3 w 24))
  | 4, _ => .ok (.amoswap (reg w 7) (reg w 12) (reg w 17) (flag w 22) (flag w 23) (bv 3 w 24) (flag w 27))
  | 5, _ => .ok (.amoadd (reg w 7) (reg w 12) (reg w 17) (flag w 22) (flag w 23) (bv 3 w 24) (flag w 27))
  | 6, _ => .ok (.amoand (reg w 7) (reg w 12) (reg w 17) (flag w 22) (flag w 23) (bv 3 w 24) (flag w 27))
  | 7, _ => .ok (.amoor (reg w 7) (reg w 12) (reg w 17) (flag w 22) (flag w 23) (bv 3 w 24) (flag w 27))
  | 8, _ => .ok (.amoxor (reg w 7) (reg w 12) (reg w 17) (flag w 22) (flag w 23) (bv 3 w 24) (flag w 27))
  | 9, _ => .ok (.amominS (reg w 7) (reg w 12) (reg w 17) (flag w 22) (flag w 23) (bv 3 w 24) (flag w 27))
  | 10, _ => .ok (.amominZ (reg w 7) (reg w 12) (reg w 17) (flag w 22) (flag w 23) (bv 3 w 24) (flag w 27))
  | 11, _ => .ok (.amomaxS (reg w 7) (reg w 12) (reg w 17) (flag w 22) (flag w 23) (bv 3 w 24) (flag w 27))
  | 12, _ => .ok (.amomaxZ (reg w 7) (reg w 12) (reg w 17) (flag w 22) (flag w 23) (bv 3 w 24) (flag w 27))
  | 13, _ => .ok (.amocas (reg w 7) (reg w 12) (reg w 17) (flag w 22) (flag w 23) (bv 3 w 24) (flag w 27))
  | _, _ => .error .unassigned

/-- Major 0x0F (R38). -/
noncomputable def decodeSys (w : Nat) : Except DecodeErr Instr :=
  match fld w 24 8, fld w 22 2 with
  | 0, 1 => need (fld w 7 10 == 0) (.fence (bv 5 w 17))
  | 4, _ => .ok (.mfsr (reg w 7) (bv 12 w 12))
  | 5, _ => .ok (.mtsr (reg w 7) (bv 12 w 12))
  | 8, 0 => need (fld w 17 5 == 0) (.wait (reg w 7) (reg w 12))
  | 8, 1 => need (fld w 7 5 == 0 && fld w 17 5 == 0) (.sev (reg w 12))
  | 12, 0 => need (fld w 7 5 == 0 && fld w 17 5 == 0) (.trap (reg w 12))
  | 64, 0 => need (fld w 7 5 == 0 && fld w 17 5 == 0) (.tinvVa (reg w 12))
  | 64, 1 => need (fld w 7 5 == 0 && fld w 17 5 == 0) (.tinvAsid (reg w 12))
  | 64, 2 => need (fld w 7 15 == 0) (.tinvAll)
  | 64, 3 => need (fld w 7 15 == 0) (.tsync)
  | 65, 0 => need (fld w 19 3 == 0) (.tprobe (reg w 7) (reg w 12) (bv 2 w 17))
  | 96, 0 => need (fld w 7 15 == 0) (.tret)
  | 96, 1 => need (fld w 12 10 == 0) (.hxchg (reg w 7))
  | 96, 2 => need (fld w 12 10 == 0) (.ecmrd (reg w 7))
  | 96, 3 => need (fld w 7 5 == 0 && fld w 17 5 == 0) (.ecmwr (reg w 12))
  | 97, 0 => need (fld w 7 5 == 0 && fld w 17 5 == 0) (.tmset (reg w 12))
  | 128, 0 => need (fld w 7 15 == 0) (.dbrk)
  | 128, 1 => need (fld w 17 5 == 0) (.spread (reg w 7) (reg w 12))
  | 128, 2 => need (fld w 7 15 == 0) (.spclr)
  | 128, 3 => need (fld w 7 5 == 0 && fld w 17 5 == 0) (.tmark (reg w 12))
  | _, _ => .error .unassigned

/-- Major 0x10 (R38). -/
noncomputable def decodeBr (w : Nat) : Except DecodeErr Instr :=
  match fld w 17 3 with
  | 0 => .ok (.beq (reg w 7) (reg w 12) (bv 12 w 20))
  | 1 => .ok (.bne (reg w 7) (reg w 12) (bv 12 w 20))
  | 2 => .ok (.bltS (reg w 7) (reg w 12) (bv 12 w 20))
  | 3 => .ok (.bgeS (reg w 7) (reg w 12) (bv 12 w 20))
  | 4 => .ok (.bltZ (reg w 7) (reg w 12) (bv 12 w 20))
  | 5 => .ok (.bgeZ (reg w 7) (reg w 12) (bv 12 w 20))
  | _ => .error .unassigned

/-- Major 0x14 (R38). -/
noncomputable def decodeVset (w : Nat) : Except DecodeErr Instr :=
  match fld w 30 2 with
  | 0 => need (fld w 22 6 == 0) (.vsetvl (reg w 7) (reg w 12) (reg w 17) (flag w 28) (flag w 29))
  | 1 => need (fld w 17 5 == 0) (.vsetvli (reg w 7) (reg w 12) (flag w 22) (bv 3 w 23) (bv 2 w 26) (flag w 28) (flag w 29))
  | 2 => need (fld w 17 6 == 0) (.vsetvlm (reg w 7) (reg w 12) (bv 3 w 23) (bv 2 w 26) (flag w 28) (flag w 29))
  | 3 => need (fld w 22 1 == 0) (.vsetfl (reg w 7) (reg w 12) (reg w 17) (bv 3 w 23) (bv 2 w 26) (flag w 28) (flag w 29))
  | _ => .error .unassigned

/-- Major 0x15 (R38). -/
noncomputable def decodeVld (w : Nat) : Except DecodeErr Instr :=
  match fld w 24 3 with
  | 0 => need (fld w 17 5 == 0 && fld w 31 1 == 0) (.vld (reg w 7) (reg w 12) (flag w 22) (flag w 23) (bv 3 w 27) (flag w 30))
  | 1 => need (fld w 31 1 == 0) (.vlds (reg w 7) (reg w 12) (reg w 17) (flag w 22) (flag w 23) (bv 3 w 27) (flag w 30))
  | 2 => need (fld w 31 1 == 0) (.vldxu (reg w 7) (reg w 12) (reg w 17) (flag w 22) (flag w 23) (bv 3 w 27) (flag w 30))
  | 3 => need (fld w 31 1 == 0) (.vldxo (reg w 7) (reg w 12) (reg w 17) (flag w 22) (flag w 23) (bv 3 w 27) (flag w 30))
  | 4 => need (fld w 19 3 == 0 && fld w 31 1 == 0) (.vldseg (reg w 7) (reg w 12) (bv 2 w 17) (flag w 22) (flag w 23) (bv 3 w 27) (flag w 30))
  | 6 => need (fld w 17 7 == 0 && fld w 27 5 == 0) (.vldr (reg w 7) (reg w 12))
  | 7 => need (fld w 17 7 == 0 && fld w 27 5 == 0) (.vldm (reg w 7) (reg w 12))
  | _ => .error .unassigned

/-- Major 0x16 (R38). -/
noncomputable def decodeVldf (w : Nat) : Except DecodeErr Instr :=
  match fld w 24 3 with
  | 0 => need (fld w 17 5 == 0 && fld w 31 1 == 0) (.vldf (reg w 7) (reg w 12) (flag w 22) (flag w 23) (bv 3 w 27) (flag w 30))
  | 1 => need (fld w 31 1 == 0) (.vldfs (reg w 7) (reg w 12) (reg w 17) (flag w 22) (flag w 23) (bv 3 w 27) (flag w 30))
  | 2 => need (fld w 31 1 == 0) (.vldfxu (reg w 7) (reg w 12) (reg w 17) (flag w 22) (flag w 23) (bv 3 w 27) (flag w 30))
  | 3 => need (fld w 31 1 == 0) (.vldfxo (reg w 7) (reg w 12) (reg w 17) (flag w 22) (flag w 23) (bv 3 w 27) (flag w 30))
  | 4 => need (fld w 19 3 == 0 && fld w 31 1 == 0) (.vldfseg (reg w 7) (reg w 12) (bv 2 w 17) (flag w 22) (flag w 23) (bv 3 w 27) (flag w 30))
  | _ => .error .unassigned

/-- Major 0x17 (R38). Flag z of modes 0 to 4, which R31 neither marks as 0 nor gives an effect, is read and has none: the
model's choice (notes/assumptions/62.md). -/
noncomputable def decodeVst (w : Nat) : Except DecodeErr Instr :=
  match fld w 24 3 with
  | 0 => need (fld w 17 5 == 0 && fld w 30 2 == 0) (.vst (reg w 7) (reg w 12) (flag w 22) (flag w 23) (bv 3 w 27))
  | 1 => need (fld w 30 2 == 0) (.vsts (reg w 7) (reg w 12) (reg w 17) (flag w 22) (flag w 23) (bv 3 w 27))
  | 2 => need (fld w 30 2 == 0) (.vstxu (reg w 7) (reg w 12) (reg w 17) (flag w 22) (flag w 23) (bv 3 w 27))
  | 3 => need (fld w 30 2 == 0) (.vstxo (reg w 7) (reg w 12) (reg w 17) (flag w 22) (flag w 23) (bv 3 w 27))
  | 4 => need (fld w 19 3 == 0 && fld w 30 2 == 0) (.vstseg (reg w 7) (reg w 12) (bv 2 w 17) (flag w 22) (flag w 23) (bv 3 w 27))
  | 6 => need (fld w 17 7 == 0 && fld w 27 5 == 0) (.vstr (reg w 7) (reg w 12))
  | 7 => need (fld w 17 7 == 0 && fld w 27 5 == 0) (.vstm (reg w 7) (reg w 12))
  | _ => .error .unassigned

/-- Major 0x18 (R38). -/
noncomputable def decodeVint (w : Nat) : Except DecodeErr Instr :=
  match fld w 25 7 with
  | 0 => .ok (.vadd (vargs w))
  | 1 => .ok (.vsub (vargs w))
  | 2 => .ok (.vrsub (vargs w))
  | 3 => .ok (.vminS (vargs w))
  | 4 => .ok (.vminZ (vargs w))
  | 5 => .ok (.vmaxS (vargs w))
  | 6 => .ok (.vmaxZ (vargs w))
  | 7 => .ok (.vand (vargs w))
  | 8 => .ok (.vor (vargs w))
  | 9 => .ok (.vxor (vargs w))
  | 10 => .ok (.vsll (vargs w))
  | 11 => .ok (.vsrl (vargs w))
  | 12 => .ok (.vsra (vargs w))
  | 13 => .ok (.vmul (vargs w))
  | 14 => .ok (.vmulhS (vargs w))
  | 15 => .ok (.vmulhZ (vargs w))
  | 16 => .ok (.vdivS (vargs w))
  | 17 => .ok (.vdivZ (vargs w))
  | 18 => .ok (.vremS (vargs w))
  | 19 => .ok (.vremZ (vargs w))
  | 20 => .ok (.vmacc (vargs w))
  | 21 => .ok (.vnmsac (vargs w))
  | 22 => need (fld w 22 1 == 1) (.vmerge (reg w 7) (reg w 12) (reg w 17) (flag w 23) (flag w 24))
  | 23 => need (fld w 12 5 == 0) (.vmv (reg w 7) (reg w 17) (flag w 22) (flag w 23) (flag w 24))
  | 32 => .ok (.vwaddS (vargs w))
  | 33 => .ok (.vwaddZ (vargs w))
  | 34 => .ok (.vwsubS (vargs w))
  | 35 => .ok (.vwsubZ (vargs w))
  | 36 => .ok (.vwmulS (vargs w))
  | 37 => .ok (.vwmulZ (vargs w))
  | 38 => .ok (.vwmaccS (vargs w))
  | 39 => .ok (.vwmaccZ (vargs w))
  | 48 => .ok (.vcrc (vargs w))
  | 49 => .ok (.vhash (vargs w))
  | _ => .error .unassigned

/-- Major 0x19 (R38). -/
noncomputable def decodeVfix (w : Nat) : Except DecodeErr Instr :=
  match fld w 25 7 with
  | 0 => .ok (.vsaddS (vargs w))
  | 1 => .ok (.vsaddZ (vargs w))
  | 2 => .ok (.vssubS (vargs w))
  | 3 => .ok (.vssubZ (vargs w))
  | 4 => .ok (.vaaddS (vargs w))
  | 5 => .ok (.vaaddZ (vargs w))
  | 6 => .ok (.vasubS (vargs w))
  | 7 => .ok (.vasubZ (vargs w))
  | 8 => .ok (.vsmulS (vargs w))
  | 9 => .ok (.vssraS (vargs w))
  | 10 => .ok (.vssrlZ (vargs w))
  | 11 => .ok (.vnclipS (vargs w))
  | 12 => .ok (.vnclipZ (vargs w))
  | 13 => .ok (.vnclipSu (vargs w))
  | 16 => .ok (.vdot4S (vargs w))
  | 17 => .ok (.vdot4Z (vargs w))
  | 18 => .ok (.vdot4Su (vargs w))
  | _ => .error .unassigned

/-- Major 0x1A (R38). -/
noncomputable def decodeVfp (w : Nat) : Except DecodeErr Instr :=
  match fld w 25 6 with
  | 0 => .ok (.vfadd (vargs w) (flag w 31))
  | 1 => .ok (.vfsub (vargs w) (flag w 31))
  | 2 => .ok (.vfrsub (vargs w) (flag w 31))
  | 3 => .ok (.vfmul (vargs w) (flag w 31))
  | 4 => .ok (.vfdiv (vargs w) (flag w 31))
  | 5 => .ok (.vfrdiv (vargs w) (flag w 31))
  | 6 => .ok (.vfmin (vargs w) (flag w 31))
  | 7 => .ok (.vfmax (vargs w) (flag w 31))
  | 8 => .ok (.vfsgnj (vargs w) (flag w 31))
  | 9 => .ok (.vfsgnjn (vargs w) (flag w 31))
  | 10 => .ok (.vfsgnjx (vargs w) (flag w 31))
  | 11 => .ok (.vfmacc (vargs w) (flag w 31))
  | 12 => .ok (.vfnmacc (vargs w) (flag w 31))
  | 13 => .ok (.vfmsac (vargs w) (flag w 31))
  | 14 => .ok (.vfnmsac (vargs w) (flag w 31))
  | 16 => .ok (.vmfeq (vargs w) (flag w 31))
  | 17 => .ok (.vmfne (vargs w) (flag w 31))
  | 18 => .ok (.vmflt (vargs w) (flag w 31))
  | 19 => .ok (.vmfle (vargs w) (flag w 31))
  | 20 => .ok (.vmfgt (vargs w) (flag w 31))
  | 21 => .ok (.vmfge (vargs w) (flag w 31))
  | 22 => need (fld w 17 5 == 0 && fld w 24 1 == 0) (.vfclass (reg w 7) (reg w 12) (flag w 22) (flag w 23) (flag w 31))
  | 24 => need (fld w 17 5 == 0 && fld w 24 1 == 0) (.vfcvtiS (reg w 7) (reg w 12) (flag w 22) (flag w 23) (flag w 31))
  | 25 => need (fld w 17 5 == 0 && fld w 24 1 == 0) (.vfcvtiZ (reg w 7) (reg w 12) (flag w 22) (flag w 23) (flag w 31))
  | 26 => need (fld w 17 5 == 0 && fld w 24 1 == 0) (.vfcvtfS (reg w 7) (reg w 12) (flag w 22) (flag w 23) (flag w 31))
  | 27 => need (fld w 17 5 == 0 && fld w 24 1 == 0) (.vfcvtfZ (reg w 7) (reg w 12) (flag w 22) (flag w 23) (flag w 31))
  | 28 => need (fld w 17 5 == 0 && fld w 24 1 == 0) (.vfwcvt (reg w 7) (reg w 12) (flag w 22) (flag w 23) (flag w 31))
  | 29 => need (fld w 17 5 == 0 && fld w 24 1 == 0) (.vfncvt (reg w 7) (reg w 12) (flag w 22) (flag w 23) (flag w 31))
  | 32 => .ok (.vfwmacc (vargs w) (flag w 31))
  | 33 => .ok (.vfdot2 (vargs w) (flag w 31))
  | _ => .error .unassigned

/-- Major 0x1B (R38). -/
noncomputable def decodeVred (w : Nat) : Except DecodeErr Instr :=
  match fld w 25 6 with
  | 0 => .ok (.vfredsum (vargs w) (flag w 31))
  | 1 => .ok (.vfredsumO (vargs w) (flag w 31))
  | 2 => .ok (.vfredmax (vargs w) (flag w 31))
  | 3 => .ok (.vfredmin (vargs w) (flag w 31))
  | 4 => need (fld w 22 1 == 0) (.vfredsumSg (reg w 7) (reg w 12) (reg w 17) (flag w 23) (flag w 24) (flag w 31))
  | 5 => .ok (.vfscan (vargs w) (flag w 31))
  | 6 => .ok (.vfscanO (vargs w) (flag w 31))
  | 7 => need (fld w 22 1 == 0) (.vfscanSg (reg w 7) (reg w 12) (reg w 17) (flag w 23) (flag w 24) (flag w 31))
  | 8 => need (fld w 17 5 == 0 && fld w 23 2 == 0) (.vfargmax (reg w 7) (reg w 12) (flag w 22) (flag w 31))
  | 9 => need (fld w 17 5 == 0 && fld w 23 2 == 0) (.vfargmin (reg w 7) (reg w 12) (flag w 22) (flag w 31))
  | 32 => need (fld w 31 1 == 0) (.vredsum (vargs w))
  | 33 => need (fld w 31 1 == 0) (.vredmaxS (vargs w))
  | 34 => need (fld w 31 1 == 0) (.vredmaxZ (vargs w))
  | 35 => need (fld w 31 1 == 0) (.vredminS (vargs w))
  | 36 => need (fld w 31 1 == 0) (.vredminZ (vargs w))
  | 37 => need (fld w 31 1 == 0) (.vredand (vargs w))
  | 38 => need (fld w 31 1 == 0) (.vredor (vargs w))
  | 39 => need (fld w 31 1 == 0) (.vredxor (vargs w))
  | 40 => need (fld w 22 1 == 0 && fld w 31 1 == 0) (.vredsumSg (reg w 7) (reg w 12) (reg w 17) (flag w 23) (flag w 24))
  | _ => .error .unassigned

/-- Major 0x1C (R38). -/
noncomputable def decodeVperm (w : Nat) : Except DecodeErr Instr :=
  match fld w 25 7 with
  | 0 => need (fld w 24 1 == 1) (.vslideup (reg w 7) (reg w 12) (reg w 17) (flag w 22) (flag w 23))
  | 1 => need (fld w 24 1 == 1) (.vslidedown (reg w 7) (reg w 12) (reg w 17) (flag w 22) (flag w 23))
  | 2 => need (fld w 24 1 == 1) (.vslide1up (reg w 7) (reg w 12) (reg w 17) (flag w 22) (flag w 23))
  | 3 => need (fld w 24 1 == 1) (.vslide1down (reg w 7) (reg w 12) (reg w 17) (flag w 22) (flag w 23))
  | 4 => .ok (.vrgather (vargs w))
  | 5 => need (fld w 22 1 == 0 && fld w 24 1 == 0) (.vcompress (reg w 7) (reg w 12) (reg w 17) (flag w 23))
  | 6 => need (fld w 22 1 == 0 && fld w 24 1 == 0) (.vexpand (reg w 7) (reg w 12) (reg w 17) (flag w 23))
  | 7 => need (fld w 12 10 == 0 && fld w 24 1 == 0) (.vid (reg w 7) (flag w 22) (flag w 23))
  | 8 => need (fld w 17 8 == 0) (.vmvXs (reg w 7) (reg w 12))
  | 9 => need (fld w 12 5 == 0 && fld w 24 1 == 1) (.vmvSx (reg w 7) (reg w 17) (flag w 22) (flag w 23))
  | 10 => .ok (.vscanadd (vargs w))
  | 11 => need (fld w 22 1 == 0) (.vscanaddSg (reg w 7) (reg w 12) (reg w 17) (flag w 23) (flag w 24))
  | 16 => need (fld w 17 6 == 0 && fld w 24 1 == 0) (.vsortkZ (reg w 7) (reg w 12) (flag w 23))
  | 17 => need (fld w 17 6 == 0 && fld w 24 1 == 0) (.vsortkS (reg w 7) (reg w 12) (flag w 23))
  | 18 => need (fld w 17 6 == 0 && fld w 24 1 == 0) (.vsortkdZ (reg w 7) (reg w 12) (flag w 23))
  | 19 => need (fld w 17 6 == 0 && fld w 24 1 == 0) (.vsortkdS (reg w 7) (reg w 12) (flag w 23))
  | _ => .error .unassigned

/-- Major 0x1D (R38). -/
noncomputable def decodeVmask (w : Nat) : Except DecodeErr Instr :=
  match fld w 25 7 with
  | 0 => .ok (.vmseq (vargs w))
  | 1 => .ok (.vmsne (vargs w))
  | 2 => .ok (.vmsltS (vargs w))
  | 3 => .ok (.vmsltZ (vargs w))
  | 4 => .ok (.vmsleS (vargs w))
  | 5 => .ok (.vmsleZ (vargs w))
  | 6 => .ok (.vmsgtS (vargs w))
  | 7 => .ok (.vmsgtZ (vargs w))
  | 8 => .ok (.vmsgeS (vargs w))
  | 9 => .ok (.vmsgeZ (vargs w))
  | 16 => need (fld w 22 1 == 0 && fld w 24 1 == 0) (.vmand (reg w 7) (reg w 12) (reg w 17) (flag w 23))
  | 17 => need (fld w 22 1 == 0 && fld w 24 1 == 0) (.vmor (reg w 7) (reg w 12) (reg w 17) (flag w 23))
  | 18 => need (fld w 22 1 == 0 && fld w 24 1 == 0) (.vmxor (reg w 7) (reg w 12) (reg w 17) (flag w 23))
  | 19 => need (fld w 22 1 == 0 && fld w 24 1 == 0) (.vmandn (reg w 7) (reg w 12) (reg w 17) (flag w 23))
  | 20 => need (fld w 22 1 == 0 && fld w 24 1 == 0) (.vmorn (reg w 7) (reg w 12) (reg w 17) (flag w 23))
  | 21 => need (fld w 22 1 == 0 && fld w 24 1 == 0) (.vmnand (reg w 7) (reg w 12) (reg w 17) (flag w 23))
  | 22 => need (fld w 22 1 == 0 && fld w 24 1 == 0) (.vmnor (reg w 7) (reg w 12) (reg w 17) (flag w 23))
  | 23 => need (fld w 22 1 == 0 && fld w 24 1 == 0) (.vmxnor (reg w 7) (reg w 12) (reg w 17) (flag w 23))
  | 24 => need (fld w 17 5 == 0 && fld w 23 2 == 0) (.vcpop (reg w 7) (reg w 12) (flag w 22))
  | 25 => need (fld w 17 5 == 0 && fld w 23 2 == 0) (.vfirst (reg w 7) (reg w 12) (flag w 22))
  | 26 => need (fld w 17 5 == 0 && fld w 24 1 == 0) (.vmsbf (reg w 7) (reg w 12) (flag w 22) (flag w 23))
  | 27 => need (fld w 17 5 == 0 && fld w 24 1 == 0) (.vmsif (reg w 7) (reg w 12) (flag w 22) (flag w 23))
  | 28 => need (fld w 17 5 == 0 && fld w 24 1 == 0) (.vmsof (reg w 7) (reg w 12) (flag w 22) (flag w 23))
  | _ => .error .unassigned

/-- Major 0x1E (R38). -/
noncomputable def decodeVspec (w : Nat) : Except DecodeErr Instr :=
  match fld w 25 6 with
  | 0 => need (fld w 17 5 == 0 && fld w 24 1 == 0) (.vexp2 (reg w 7) (reg w 12) (flag w 22) (flag w 23) (flag w 31))
  | 1 => need (fld w 17 5 == 0 && fld w 24 1 == 0) (.vlog2 (reg w 7) (reg w 12) (flag w 22) (flag w 23) (flag w 31))
  | 2 => need (fld w 17 5 == 0 && fld w 24 1 == 0) (.vrcp (reg w 7) (reg w 12) (flag w 22) (flag w 23) (flag w 31))
  | 3 => need (fld w 17 5 == 0 && fld w 24 1 == 0) (.vrsqrt (reg w 7) (reg w 12) (flag w 22) (flag w 23) (flag w 31))
  | 4 => need (fld w 17 5 == 0 && fld w 24 1 == 0) (.vsqrt (reg w 7) (reg w 12) (flag w 22) (flag w 23) (flag w 31))
  | 8 => need (fld w 12 10 == 0 && fld w 24 1 == 0 && fld w 31 1 == 0) (.vrand (reg w 7) (flag w 22) (flag w 23))
  | 9 => need (fld w 12 10 == 0 && fld w 24 1 == 0) (.vrandf (reg w 7) (flag w 22) (flag w 23) (flag w 31))
  | 12 => need (fld w 23 2 == 2) (.vcdfsel (reg w 7) (reg w 12) (reg w 17) (flag w 22) (flag w 31))
  | 13 => need (fld w 17 6 == 0 && fld w 24 1 == 0 && fld w 31 1 == 0) (.vsmmerge (reg w 7) (reg w 12) (flag w 23))
  | _ => .error .unassigned

/-- Major 0x1F (R38). -/
noncomputable def decodeStrip (w : Nat) : Except DecodeErr Instr :=
  match fld w 27 5 with
  | 0 => need (fld w 17 5 == 0) (.vstrip (reg w 7) (reg w 12) (bv 2 w 22) (flag w 24) (bv 2 w 25))
  | 1 => need (fld w 7 20 == 0) (.vstrend)
  | 2 => need (fld w 22 5 == 0) (.vexitI (reg w 7) (reg w 12) (reg w 17))
  | 3 => need (fld w 22 5 == 0) (.vexitB (reg w 7) (reg w 12) (reg w 17))
  | _ => .error .unassigned

/-- Major 0x20 (R38). -/
noncomputable def decodeKv (w : Nat) : Except DecodeErr Instr :=
  match fld w 27 5 with
  | 0 => .ok (.kvxl (reg w 7) (reg w 12) (reg w 17) (reg w 22))
  | 1 => .ok (.kvxlm (reg w 7) (reg w 12) (reg w 17) (reg w 22))
  | 2 => .ok (.kvapp (reg w 7) (reg w 12) (reg w 17) (reg w 22))
  | 3 => need (fld w 7 5 == 0 && fld w 22 5 == 0) (.kvcommit (reg w 12) (reg w 17))
  | 4 => need (fld w 7 5 == 0 && fld w 22 5 == 0) (.kvtrunc (reg w 12) (reg w 17))
  | 5 => .ok (.kvevict (reg w 7) (reg w 12) (reg w 17) (reg w 22))
  | 6 => need (fld w 22 5 == 0) (.kvalloc (reg w 7) (reg w 12) (reg w 17))
  | 7 => .ok (.kvfree (reg w 7) (reg w 12) (reg w 17) (reg w 22))
  | 8 => need (fld w 22 5 == 0) (.kvfork (reg w 7) (reg w 12) (reg w 17))
  | _ => .error .unassigned

/-- Major 0x21 (R38). -/
noncomputable def decodeCpy (w : Nat) : Except DecodeErr Instr :=
  match fld w 29 3 with
  | 0 => .ok (.cpyLin (reg w 7) (reg w 12) (reg w 17) (reg w 22) (bv 2 w 27))
  | 1 => .ok (.cpy2d (reg w 7) (reg w 12) (reg w 17) (reg w 22) (bv 2 w 27))
  | 2 => .ok (.cpyGath (reg w 7) (reg w 12) (reg w 17) (reg w 22) (bv 2 w 27))
  | 3 => .ok (.cpyConv (reg w 7) (reg w 12) (reg w 17) (reg w 22) (bv 2 w 27))
  | 4 => .ok (.cpyFill (reg w 7) (reg w 12) (reg w 17) (reg w 22) (bv 2 w 27))
  | 5 => need (fld w 7 5 == 0 && fld w 17 10 == 0) (.cpywait (reg w 12) (bv 2 w 27))
  | 6 => need (fld w 12 15 == 0) (.cpyqry (reg w 7) (bv 2 w 27))
  | _ => .error .unassigned

/-- Major 0x22 (R38). -/
noncomputable def decodeBank (w : Nat) : Except DecodeErr Instr :=
  match fld w 27 5 with
  | 0 => need (fld w 22 5 == 0) (.bmode (reg w 7) (reg w 12) (reg w 17))
  | 1 => need (fld w 22 5 == 0) (.bslot (reg w 7) (reg w 12) (reg w 17))
  | 2 => need (fld w 17 10 == 0) (.bqry (reg w 7) (reg w 12))
  | 3 => need (fld w 17 10 == 0) (.fpush (reg w 7) (reg w 12))
  | 4 => need (fld w 17 10 == 0) (.fpop (reg w 7) (reg w 12))
  | 5 => need (fld w 7 5 == 0 && fld w 22 5 == 0) (.lpfL2 (reg w 12) (reg w 17))
  | 6 => need (fld w 7 5 == 0 && fld w 22 5 == 0) (.lpfL1 (reg w 12) (reg w 17))
  | 7 => need (fld w 7 5 == 0 && fld w 22 5 == 0) (.lclean (reg w 12) (reg w 17))
  | 8 => need (fld w 7 5 == 0 && fld w 22 5 == 0) (.linv (reg w 12) (reg w 17))
  | 9 => need (fld w 7 5 == 0 && fld w 22 5 == 0) (.discard (reg w 12) (reg w 17))
  | _ => .error .unassigned

/-- Major 0x23 (R38). -/
noncomputable def decodePark (w : Nat) : Except DecodeErr Instr :=
  match fld w 27 5 with
  | 0 => need (fld w 12 15 == 0) (.crget (reg w 7))
  | 1 => need (fld w 17 10 == 0) (.park (reg w 7) (reg w 12))
  | 2 => need (fld w 17 10 == 0) (.crfree (reg w 7) (reg w 12))
  | 3 => need (fld w 7 5 == 0) (.promote (reg w 12) (reg w 17) (reg w 22))
  | 4 => need (fld w 17 10 == 0) (.tqry (reg w 7) (reg w 12))
  | 5 => need (fld w 17 10 == 0) (.crqry (reg w 7) (reg w 12))
  | _ => .error .unassigned

/-- Major 0x24 (R38). -/
noncomputable def decodeSched (w : Nat) : Except DecodeErr Instr :=
  match fld w 27 5 with
  | 0 => need (fld w 22 5 == 0) (.launch (reg w 7) (reg w 12) (reg w 17))
  | 1 => need (fld w 7 20 == 0) (.gbar)
  | 2 => need (fld w 7 5 == 0 && fld w 22 5 == 0) (.signal (reg w 12) (reg w 17))
  | 3 => .ok (.waitge (reg w 7) (reg w 12) (reg w 17) (reg w 22))
  | 4 => need (fld w 7 20 == 0) (.hend)
  | _ => .error .unassigned

/-- A 32-bit word by its major opcode (R26, R38). A TILE or FACT body alone is no instruction (R36). -/
noncomputable def decode32 (w : Nat) : Except DecodeErr Instr :=
  match fld w 1 6 with
  | 1 => .ok (.addi (reg w 7) (reg w 12) (bv 15 w 17))
  | 2 => .ok (.andi (reg w 7) (reg w 12) (bv 15 w 17))
  | 3 => .ok (.ori (reg w 7) (reg w 12) (bv 15 w 17))
  | 4 => .ok (.xori (reg w 7) (reg w 12) (bv 15 w 17))
  | 5 => .ok (.sltiS (reg w 7) (reg w 12) (bv 15 w 17))
  | 6 => .ok (.sltiZ (reg w 7) (reg w 12) (bv 15 w 17))
  | 7 => decodeShi w
  | 8 => .ok (.lui (reg w 7) (reg w 12) (bv 15 w 17))
  | 9 => need (fld w 12 5 == 0) (.addpc (reg w 7) (bv 15 w 17))
  | 10 => decodeOp w
  | 11 => decodeFop w
  | 12 => decodeLd w
  | 13 => decodeSt w
  | 14 => decodeAmo w
  | 15 => decodeSys w
  | 16 => decodeBr w
  | 17 => .ok (.jal (reg w 7) (bv 20 w 12))
  | 18 => .ok (.jalr (reg w 7) (reg w 12) (bv 15 w 17))
  | 19 => need (fld w 7 5 == 0 && fld w 22 10 == 0) (.sloop (reg w 12) (bv 5 w 17))
  | 20 => decodeVset w
  | 21 => decodeVld w
  | 22 => decodeVldf w
  | 23 => decodeVst w
  | 24 => decodeVint w
  | 25 => decodeVfix w
  | 26 => decodeVfp w
  | 27 => decodeVred w
  | 28 => decodeVperm w
  | 29 => decodeVmask w
  | 30 => decodeVspec w
  | 31 => decodeStrip w
  | 32 => decodeKv w
  | 33 => decodeCpy w
  | 34 => decodeBank w
  | 35 => decodePark w
  | 36 => decodeSched w
  | 37 => .error .bareBody
  | 38 => .error .bareBody
  | _ => .error .reservedMajor

/-- A compressed parcel (R32): the form that stands for the expanded word. -/
noncomputable def decode16 (w : Nat) : Except DecodeErr Instr :=
  match fld w 2 4 with
  | 0 => .ok (.cAddi (reg w 6) (bv 5 w 11))
  | 1 => .ok (.cLi (reg w 6) (bv 5 w 11))
  | 2 => .ok (.cMv (reg w 6) (reg w 11))
  | 3 => .ok (.cAdd (reg w 6) (reg w 11))
  | 4 => .ok (.cSub (reg w 6) (reg w 11))
  | 5 => .ok (.cAnd (reg w 6) (reg w 11))
  | 6 => .ok (.cOr (reg w 6) (reg w 11))
  | 7 => .ok (.cXor (reg w 6) (reg w 11))
  | 8 => .ok (.cSlli (reg w 6) (bv 5 w 11))
  | 9 => .ok (.cSrli (reg w 6) (bv 5 w 11))
  | 10 => need (fld w 11 5 == 0) (.cJr (reg w 6))
  | 11 => .ok (.cLdsp (reg w 6) (bv 5 w 11))
  | 12 => .ok (.cStsp (reg w 6) (bv 5 w 11))
  | 13 => .ok (.cBeqz (reg w 6) (bv 5 w 11))
  | 14 => .ok (.cBnez (reg w 6) (bv 5 w 11))
  | 15 => .ok (.cJ (bv 10 w 6))
  | _ => .error .unassigned

/-- The PXI forms: the 26-bit payload stands above the immediate of the body (R33, R34). -/
noncomputable def widen (pay : Nat) : Instr → Except DecodeErr Instr
  | .addi d a i => .ok (.addiPxi d a (BitVec.ofNat 41 (pay * 2 ^ 15 + i.toNat)))
  | .andi d a i => .ok (.andiPxi d a (BitVec.ofNat 41 (pay * 2 ^ 15 + i.toNat)))
  | .ori d a i => .ok (.oriPxi d a (BitVec.ofNat 41 (pay * 2 ^ 15 + i.toNat)))
  | .xori d a i => .ok (.xoriPxi d a (BitVec.ofNat 41 (pay * 2 ^ 15 + i.toNat)))
  | .sltiS d a i => .ok (.sltiSPxi d a (BitVec.ofNat 41 (pay * 2 ^ 15 + i.toNat)))
  | .sltiZ d a i => .ok (.sltiZPxi d a (BitVec.ofNat 41 (pay * 2 ^ 15 + i.toNat)))
  | .lui d a i => .ok (.luiPxi d a (BitVec.ofNat 41 (pay * 2 ^ 15 + i.toNat)))
  | .addpc d i => .ok (.addpcPxi d (BitVec.ofNat 41 (pay * 2 ^ 15 + i.toNat)))
  | .jalr d a i => .ok (.jalrPxi d a (BitVec.ofNat 41 (pay * 2 ^ 15 + i.toNat)))
  | .ld8Z d a i => .ok (.ld8ZPxi d a (BitVec.ofNat 38 (pay * 2 ^ 12 + i.toNat)))
  | .ld16Z d a i => .ok (.ld16ZPxi d a (BitVec.ofNat 38 (pay * 2 ^ 12 + i.toNat)))
  | .ld32Z d a i => .ok (.ld32ZPxi d a (BitVec.ofNat 38 (pay * 2 ^ 12 + i.toNat)))
  | .ld64 d a i => .ok (.ld64Pxi d a (BitVec.ofNat 38 (pay * 2 ^ 12 + i.toNat)))
  | .ld8S d a i => .ok (.ld8SPxi d a (BitVec.ofNat 38 (pay * 2 ^ 12 + i.toNat)))
  | .ld16S d a i => .ok (.ld16SPxi d a (BitVec.ofNat 38 (pay * 2 ^ 12 + i.toNat)))
  | .ld32S d a i => .ok (.ld32SPxi d a (BitVec.ofNat 38 (pay * 2 ^ 12 + i.toNat)))
  | .st8 s a i => .ok (.st8Pxi s a (BitVec.ofNat 38 (pay * 2 ^ 12 + i.toNat)))
  | .st16 s a i => .ok (.st16Pxi s a (BitVec.ofNat 38 (pay * 2 ^ 12 + i.toNat)))
  | .st32 s a i => .ok (.st32Pxi s a (BitVec.ofNat 38 (pay * 2 ^ 12 + i.toNat)))
  | .st64 s a i => .ok (.st64Pxi s a (BitVec.ofNat 38 (pay * 2 ^ 12 + i.toNat)))
  | _ => .error .pairing

/-- A tile by its code 0-3 (R214). -/
def tileOf (n : Nat) : Option Tile := if h : n < 4 then some ⟨n, h⟩ else none

/-- A latch by its code 4 or 5 (R214). -/
def latchOf (n : Nat) : Option Latch := if h : n - 4 < 2 then if n < 4 then none else some ⟨n - 4, h⟩ else none

/-- What TZERO clears by its code 0-5 (R214). -/
def selOf (n : Nat) : Option (Fin 6) := if h : n < 6 then some ⟨n, h⟩ else none

/-- A TILE instruction: PXT prefix `p` and body `w` (R217). -/
noncomputable def decodeTile (p w : Nat) : Except DecodeErr Instr :=
  if fld w 22 5 != 0 || fld p 6 11 != 0 then .error .reservedBits
  else match fld w 27 5 with
  | 0 =>
    match selOf (fld w 7 5) with
    | some t => need (fld w 12 5 == 0 && fld w 17 5 == 0 && fld p 17 15 == 0) (.tzero t)
    | none => .error .limit
  | 1 => match latchOf (fld w 7 5) with
    | some l => need (fld w 12 5 == 0 && fld p 18 8 == 0) (.tgl l (reg w 17) (bv 6 p 26) (flag p 17))
    | none => .error .limit
  | 2 => match tileOf (fld w 7 5), latchOf (fld w 12 5), latchOf (fld w 17 5) with
    | some t, some la, some lb => need (fld p 17 1 == 0 && fld p 24 2 == 0 && fld p 26 6 == 0)
        (.top t la lb (flag p 23) (flag p 22) (flag p 21) (flag p 20) (flag p 19) (flag p 18))
    | _, _, _ => .error .limit
  | 3 => match tileOf (fld w 12 5) with
    | some t => need (fld w 17 5 == 0 && fld p 17 7 == 0) (.trd (reg w 7) t (bv 6 p 26) (flag p 24) (flag p 25))
    | none => .error .limit
  | 4 => match tileOf (fld w 7 5) with
    | some t => need (fld w 12 5 == 0 && fld p 17 7 == 0 && fld p 25 1 == 0)
        (.twr t (reg w 17) (bv 6 p 26) (flag p 24))
    | none => .error .limit
  | _ => .error .unassigned

/-- A FACT instruction: PXF prefix `p` and body `w` (R229). -/
noncomputable def decodeFact (p w : Nat) : Except DecodeErr Instr :=
  let row := fld p 26 6
  let dlt := fld p 20 6
  let part := fld p 18 2
  if fld w 22 5 != 0 || fld p 6 12 != 0 then .error .reservedBits
  else match fld w 27 5 with
  | 0 => match tileOf (fld w 7 5) with
    | some t => need (fld w 17 5 == 0 && row == 0 && dlt == 0 && part == 0) (.tfinit t (reg w 12))
    | none => .error .limit
  | 1 => match tileOf (fld w 7 5) with
    | some t => need (fld w 12 5 == 0 && row == 0 && dlt == 0 && part == 0) (.tfupd t (reg w 17))
    | none => .error .limit
  | 2 => match tileOf (fld w 7 5) with
    | some t => need (fld w 12 5 == 0 && row == 0 && part == 0) (.tfdnd t (reg w 17) (bv 6 p 20))
    | none => .error .limit
  | 3 => match tileOf (fld w 12 5) with
    | some t => need (row == 0 && dlt == 0) (.tfsolv (reg w 7) t (reg w 17) (bv 2 p 18))
    | none => .error .limit
  | 4 => match tileOf (fld w 12 5) with
    | some t => need (fld w 17 5 == 0 && dlt == 0 && part == 0) (.tfrd (reg w 7) t (bv 6 p 26))
    | none => .error .limit
  | 5 => match tileOf (fld w 7 5) with
    | some t => need (fld w 12 5 == 0 && dlt == 0 && part == 0) (.tfwr t (reg w 17) (bv 6 p 26))
    | none => .error .limit
  | 6 => match tileOf (fld w 7 5) with
    | some t => need (fld w 17 5 == 0 && row == 0 && dlt == 0 && part == 0) (.tfsave t (reg w 12))
    | none => .error .limit
  | 7 => match tileOf (fld w 7 5) with
    | some t => need (fld w 17 5 == 0 && row == 0 && dlt == 0 && part == 0) (.tfload t (reg w 12))
    | none => .error .limit
  | _ => .error .unassigned

/-- A limit of the instruction's own entry makes the word ILLEGAL (R36, R40). -/
def checked (r : Except DecodeErr Instr) : Except DecodeErr Instr :=
  match r with
  | .ok i => if i.wf then .ok i else .error .limit
  | .error e => .error e

/-- A prefixed pair (R33, R36): the body must be a 32-bit word whose major takes the prefix's kind. -/
noncomputable def decode64 (w : Nat) : Except DecodeErr Instr :=
  let p := fld w 0 32
  let b := fld w 32 32
  if fld b 0 1 != 0 then .error .pairing
  else match fld p 2 4 with
  | 1 => match checked (decode32 b) with
    | .ok i => widen (fld p 6 26) i
    | .error e => .error e
  | 2 => if fld b 1 6 == 37 then decodeTile p b else .error .pairing
  | 3 => if fld b 1 6 == 38 then decodeFact p b else .error .pairing
  | _ => .error .prefixKind

/-- The length in bytes that the first parcel fixes (R24). -/
def lengthOf (w : Nat) : Nat :=
  match fld w 0 2 with
  | 1 => 2
  | 3 => 8
  | _ => 4

/-- The instruction a word holds (R25); bits above its length are not read. -/
noncomputable def decode (w : Nat) : Except DecodeErr Instr :=
  checked (match fld w 0 2 with
    | 1 => decode16 (fld w 0 16)
    | 3 => decode64 w
    | _ => decode32 (fld w 0 32))


/-- The word of an instruction, from the same tables: 16, 32 or 64 bits (R24), first parcel lowest. An event has none.
-/
def encode : Instr → Option Nat
  | .addi d a i => some (pack [(1, 0), (6, 1), (5, d.val), (5, a.val), (15, i.toNat)])
  | .andi d a i => some (pack [(1, 0), (6, 2), (5, d.val), (5, a.val), (15, i.toNat)])
  | .ori d a i => some (pack [(1, 0), (6, 3), (5, d.val), (5, a.val), (15, i.toNat)])
  | .xori d a i => some (pack [(1, 0), (6, 4), (5, d.val), (5, a.val), (15, i.toNat)])
  | .sltiS d a i => some (pack [(1, 0), (6, 5), (5, d.val), (5, a.val), (15, i.toNat)])
  | .sltiZ d a i => some (pack [(1, 0), (6, 6), (5, d.val), (5, a.val), (15, i.toNat)])
  | .slli d a s => some (pack [(1, 0), (6, 7), (5, d.val), (5, a.val), (6, s.toNat), (2, 0), (7, 0)])
  | .srli d a s => some (pack [(1, 0), (6, 7), (5, d.val), (5, a.val), (6, s.toNat), (2, 1), (7, 0)])
  | .srai d a s => some (pack [(1, 0), (6, 7), (5, d.val), (5, a.val), (6, s.toNat), (2, 2), (7, 0)])
  | .rori d a s => some (pack [(1, 0), (6, 7), (5, d.val), (5, a.val), (6, s.toNat), (2, 3), (7, 0)])
  | .lui d a i => some (pack [(1, 0), (6, 8), (5, d.val), (5, a.val), (15, i.toNat)])
  | .addpc d i => some (pack [(1, 0), (6, 9), (5, d.val), (5, 0), (15, i.toNat)])
  | .addiPxi d a i => some (pack [(2, 3), (4, 1), (26, i.toNat / 2 ^ 15), (1, 0), (6, 1), (5, d.val), (5, a.val), (15, i.toNat % 2 ^ 15)])
  | .andiPxi d a i => some (pack [(2, 3), (4, 1), (26, i.toNat / 2 ^ 15), (1, 0), (6, 2), (5, d.val), (5, a.val), (15, i.toNat % 2 ^ 15)])
  | .oriPxi d a i => some (pack [(2, 3), (4, 1), (26, i.toNat / 2 ^ 15), (1, 0), (6, 3), (5, d.val), (5, a.val), (15, i.toNat % 2 ^ 15)])
  | .xoriPxi d a i => some (pack [(2, 3), (4, 1), (26, i.toNat / 2 ^ 15), (1, 0), (6, 4), (5, d.val), (5, a.val), (15, i.toNat % 2 ^ 15)])
  | .sltiSPxi d a i => some (pack [(2, 3), (4, 1), (26, i.toNat / 2 ^ 15), (1, 0), (6, 5), (5, d.val), (5, a.val), (15, i.toNat % 2 ^ 15)])
  | .sltiZPxi d a i => some (pack [(2, 3), (4, 1), (26, i.toNat / 2 ^ 15), (1, 0), (6, 6), (5, d.val), (5, a.val), (15, i.toNat % 2 ^ 15)])
  | .luiPxi d a i => some (pack [(2, 3), (4, 1), (26, i.toNat / 2 ^ 15), (1, 0), (6, 8), (5, d.val), (5, a.val), (15, i.toNat % 2 ^ 15)])
  | .addpcPxi d i => some (pack [(2, 3), (4, 1), (26, i.toNat / 2 ^ 15), (1, 0), (6, 9), (5, d.val), (5, 0), (15, i.toNat % 2 ^ 15)])
  | .jalrPxi d a i => some (pack [(2, 3), (4, 1), (26, i.toNat / 2 ^ 15), (1, 0), (6, 18), (5, d.val), (5, a.val), (15, i.toNat % 2 ^ 15)])
  | .add d a b => some (pack [(1, 0), (6, 10), (5, d.val), (5, a.val), (5, b.val), (5, 0), (5, 0)])
  | .sub d a b => some (pack [(1, 0), (6, 10), (5, d.val), (5, a.val), (5, b.val), (5, 0), (5, 1)])
  | .and d a b => some (pack [(1, 0), (6, 10), (5, d.val), (5, a.val), (5, b.val), (5, 0), (5, 2)])
  | .or d a b => some (pack [(1, 0), (6, 10), (5, d.val), (5, a.val), (5, b.val), (5, 0), (5, 3)])
  | .xor d a b => some (pack [(1, 0), (6, 10), (5, d.val), (5, a.val), (5, b.val), (5, 0), (5, 4)])
  | .sll d a b => some (pack [(1, 0), (6, 10), (5, d.val), (5, a.val), (5, b.val), (5, 0), (5, 5)])
  | .srl d a b => some (pack [(1, 0), (6, 10), (5, d.val), (5, a.val), (5, b.val), (5, 0), (5, 6)])
  | .sra d a b => some (pack [(1, 0), (6, 10), (5, d.val), (5, a.val), (5, b.val), (5, 0), (5, 7)])
  | .sltS d a b => some (pack [(1, 0), (6, 10), (5, d.val), (5, a.val), (5, b.val), (5, 0), (5, 8)])
  | .sltZ d a b => some (pack [(1, 0), (6, 10), (5, d.val), (5, a.val), (5, b.val), (5, 0), (5, 9)])
  | .mul d a b => some (pack [(1, 0), (6, 10), (5, d.val), (5, a.val), (5, b.val), (5, 0), (5, 10)])
  | .mulhS d a b => some (pack [(1, 0), (6, 10), (5, d.val), (5, a.val), (5, b.val), (5, 0), (5, 11)])
  | .mulhZ d a b => some (pack [(1, 0), (6, 10), (5, d.val), (5, a.val), (5, b.val), (5, 0), (5, 12)])
  | .divS d a b => some (pack [(1, 0), (6, 10), (5, d.val), (5, a.val), (5, b.val), (5, 0), (5, 13)])
  | .divZ d a b => some (pack [(1, 0), (6, 10), (5, d.val), (5, a.val), (5, b.val), (5, 0), (5, 14)])
  | .remS d a b => some (pack [(1, 0), (6, 10), (5, d.val), (5, a.val), (5, b.val), (5, 0), (5, 15)])
  | .remZ d a b => some (pack [(1, 0), (6, 10), (5, d.val), (5, a.val), (5, b.val), (5, 0), (5, 16)])
  | .minS d a b => some (pack [(1, 0), (6, 10), (5, d.val), (5, a.val), (5, b.val), (5, 0), (5, 17)])
  | .minZ d a b => some (pack [(1, 0), (6, 10), (5, d.val), (5, a.val), (5, b.val), (5, 0), (5, 18)])
  | .maxS d a b => some (pack [(1, 0), (6, 10), (5, d.val), (5, a.val), (5, b.val), (5, 0), (5, 19)])
  | .maxZ d a b => some (pack [(1, 0), (6, 10), (5, d.val), (5, a.val), (5, b.val), (5, 0), (5, 20)])
  | .andn d a b => some (pack [(1, 0), (6, 10), (5, d.val), (5, a.val), (5, b.val), (5, 0), (5, 21)])
  | .clz d a => some (pack [(1, 0), (6, 10), (5, d.val), (5, a.val), (10, 0), (5, 22)])
  | .ctz d a => some (pack [(1, 0), (6, 10), (5, d.val), (5, a.val), (10, 0), (5, 23)])
  | .cpop d a => some (pack [(1, 0), (6, 10), (5, d.val), (5, a.val), (10, 0), (5, 24)])
  | .madd d a b c => some (pack [(1, 0), (6, 10), (5, d.val), (5, a.val), (5, b.val), (5, c.val), (5, 25)])
  | .addsh d a b k => some (pack [(1, 0), (6, 10), (5, d.val), (5, a.val), (5, b.val), (3, k.toNat), (2, 0), (5, 26)])
  | .fadd d a b t => some (pack [(1, 0), (6, 11), (5, d.val), (5, a.val), (5, b.val), (3, 0), (2, t.toNat), (2, 0), (3, 0)])
  | .fsub d a b t => some (pack [(1, 0), (6, 11), (5, d.val), (5, a.val), (5, b.val), (3, 0), (2, t.toNat), (2, 1), (3, 0)])
  | .fmul d a b t => some (pack [(1, 0), (6, 11), (5, d.val), (5, a.val), (5, b.val), (3, 0), (2, t.toNat), (2, 2), (3, 0)])
  | .fdiv d a b t => some (pack [(1, 0), (6, 11), (5, d.val), (5, a.val), (5, b.val), (3, 0), (2, t.toNat), (2, 3), (3, 0)])
  | .fsqrt d a t => some (pack [(1, 0), (6, 11), (5, d.val), (5, a.val), (8, 0), (2, t.toNat), (2, 0), (3, 1)])
  | .fmin d a b t => some (pack [(1, 0), (6, 11), (5, d.val), (5, a.val), (5, b.val), (3, 0), (2, t.toNat), (2, 1), (3, 1)])
  | .fmax d a b t => some (pack [(1, 0), (6, 11), (5, d.val), (5, a.val), (5, b.val), (3, 0), (2, t.toNat), (2, 2), (3, 1)])
  | .fsgnj d a b t => some (pack [(1, 0), (6, 11), (5, d.val), (5, a.val), (5, b.val), (3, 0), (2, t.toNat), (2, 3), (3, 1)])
  | .fsgnjn d a b t => some (pack [(1, 0), (6, 11), (5, d.val), (5, a.val), (5, b.val), (3, 0), (2, t.toNat), (2, 0), (3, 2)])
  | .fsgnjx d a b t => some (pack [(1, 0), (6, 11), (5, d.val), (5, a.val), (5, b.val), (3, 0), (2, t.toNat), (2, 1), (3, 2)])
  | .feq d a b t => some (pack [(1, 0), (6, 11), (5, d.val), (5, a.val), (5, b.val), (3, 0), (2, t.toNat), (2, 2), (3, 2)])
  | .flt d a b t => some (pack [(1, 0), (6, 11), (5, d.val), (5, a.val), (5, b.val), (3, 0), (2, t.toNat), (2, 3), (3, 2)])
  | .fle d a b t => some (pack [(1, 0), (6, 11), (5, d.val), (5, a.val), (5, b.val), (3, 0), (2, t.toNat), (2, 0), (3, 3)])
  | .fclass d a t => some (pack [(1, 0), (6, 11), (5, d.val), (5, a.val), (8, 0), (2, t.toNat), (2, 1), (3, 3)])
  | .fcvtiS d a t => some (pack [(1, 0), (6, 11), (5, d.val), (5, a.val), (8, 0), (2, t.toNat), (2, 2), (3, 3)])
  | .fcvtiZ d a t => some (pack [(1, 0), (6, 11), (5, d.val), (5, a.val), (8, 0), (2, t.toNat), (2, 3), (3, 3)])
  | .fcvtfS d a t => some (pack [(1, 0), (6, 11), (5, d.val), (5, a.val), (8, 0), (2, t.toNat), (2, 0), (3, 4)])
  | .fcvtfZ d a t => some (pack [(1, 0), (6, 11), (5, d.val), (5, a.val), (8, 0), (2, t.toNat), (2, 1), (3, 4)])
  | .fcvt d a s t => some (pack [(1, 0), (6, 11), (5, d.val), (5, a.val), (2, s.toNat), (6, 0), (2, t.toNat), (2, 2), (3, 4)])
  | .fmadd d a b c t => some (pack [(1, 0), (6, 11), (5, d.val), (5, a.val), (5, b.val), (5, c.val), (2, t.toNat), (3, 5)])
  | .fnmsub d a b c t => some (pack [(1, 0), (6, 11), (5, d.val), (5, a.val), (5, b.val), (5, c.val), (2, t.toNat), (3, 6)])
  | .ld8Z d a i => some (pack [(1, 0), (6, 12), (5, d.val), (5, a.val), (3, 0), (12, i.toNat)])
  | .ld16Z d a i => some (pack [(1, 0), (6, 12), (5, d.val), (5, a.val), (3, 1), (12, i.toNat)])
  | .ld32Z d a i => some (pack [(1, 0), (6, 12), (5, d.val), (5, a.val), (3, 2), (12, i.toNat)])
  | .ld64 d a i => some (pack [(1, 0), (6, 12), (5, d.val), (5, a.val), (3, 3), (12, i.toNat)])
  | .ld8S d a i => some (pack [(1, 0), (6, 12), (5, d.val), (5, a.val), (3, 4), (12, i.toNat)])
  | .ld16S d a i => some (pack [(1, 0), (6, 12), (5, d.val), (5, a.val), (3, 5), (12, i.toNat)])
  | .ld32S d a i => some (pack [(1, 0), (6, 12), (5, d.val), (5, a.val), (3, 6), (12, i.toNat)])
  | .st8 s a i => some (pack [(1, 0), (6, 13), (5, s.val), (5, a.val), (3, 0), (12, i.toNat)])
  | .st16 s a i => some (pack [(1, 0), (6, 13), (5, s.val), (5, a.val), (3, 1), (12, i.toNat)])
  | .st32 s a i => some (pack [(1, 0), (6, 13), (5, s.val), (5, a.val), (3, 2), (12, i.toNat)])
  | .st64 s a i => some (pack [(1, 0), (6, 13), (5, s.val), (5, a.val), (3, 3), (12, i.toNat)])
  | .ld8ZPxi d a i => some (pack [(2, 3), (4, 1), (26, i.toNat / 2 ^ 12), (1, 0), (6, 12), (5, d.val), (5, a.val), (3, 0), (12, i.toNat % 2 ^ 12)])
  | .ld16ZPxi d a i => some (pack [(2, 3), (4, 1), (26, i.toNat / 2 ^ 12), (1, 0), (6, 12), (5, d.val), (5, a.val), (3, 1), (12, i.toNat % 2 ^ 12)])
  | .ld32ZPxi d a i => some (pack [(2, 3), (4, 1), (26, i.toNat / 2 ^ 12), (1, 0), (6, 12), (5, d.val), (5, a.val), (3, 2), (12, i.toNat % 2 ^ 12)])
  | .ld64Pxi d a i => some (pack [(2, 3), (4, 1), (26, i.toNat / 2 ^ 12), (1, 0), (6, 12), (5, d.val), (5, a.val), (3, 3), (12, i.toNat % 2 ^ 12)])
  | .ld8SPxi d a i => some (pack [(2, 3), (4, 1), (26, i.toNat / 2 ^ 12), (1, 0), (6, 12), (5, d.val), (5, a.val), (3, 4), (12, i.toNat % 2 ^ 12)])
  | .ld16SPxi d a i => some (pack [(2, 3), (4, 1), (26, i.toNat / 2 ^ 12), (1, 0), (6, 12), (5, d.val), (5, a.val), (3, 5), (12, i.toNat % 2 ^ 12)])
  | .ld32SPxi d a i => some (pack [(2, 3), (4, 1), (26, i.toNat / 2 ^ 12), (1, 0), (6, 12), (5, d.val), (5, a.val), (3, 6), (12, i.toNat % 2 ^ 12)])
  | .st8Pxi s a i => some (pack [(2, 3), (4, 1), (26, i.toNat / 2 ^ 12), (1, 0), (6, 13), (5, s.val), (5, a.val), (3, 0), (12, i.toNat % 2 ^ 12)])
  | .st16Pxi s a i => some (pack [(2, 3), (4, 1), (26, i.toNat / 2 ^ 12), (1, 0), (6, 13), (5, s.val), (5, a.val), (3, 1), (12, i.toNat % 2 ^ 12)])
  | .st32Pxi s a i => some (pack [(2, 3), (4, 1), (26, i.toNat / 2 ^ 12), (1, 0), (6, 13), (5, s.val), (5, a.val), (3, 2), (12, i.toNat % 2 ^ 12)])
  | .st64Pxi s a i => some (pack [(2, 3), (4, 1), (26, i.toNat / 2 ^ 12), (1, 0), (6, 13), (5, s.val), (5, a.val), (3, 3), (12, i.toNat % 2 ^ 12)])
  | .ld8ZAq d a s => some (pack [(1, 0), (6, 14), (5, d.val), (5, a.val), (7, 0), (3, s.toNat), (1, 0), (4, 0)])
  | .ld16ZAq d a s => some (pack [(1, 0), (6, 14), (5, d.val), (5, a.val), (7, 0), (3, s.toNat), (1, 1), (4, 0)])
  | .ld32ZAq d a s => some (pack [(1, 0), (6, 14), (5, d.val), (5, a.val), (7, 0), (3, s.toNat), (1, 0), (4, 1)])
  | .ld64Aq d a s => some (pack [(1, 0), (6, 14), (5, d.val), (5, a.val), (7, 0), (3, s.toNat), (1, 1), (4, 1)])
  | .st8Rl d a s => some (pack [(1, 0), (6, 14), (5, d.val), (5, a.val), (7, 0), (3, s.toNat), (1, 0), (4, 2)])
  | .st16Rl d a s => some (pack [(1, 0), (6, 14), (5, d.val), (5, a.val), (7, 0), (3, s.toNat), (1, 1), (4, 2)])
  | .st32Rl d a s => some (pack [(1, 0), (6, 14), (5, d.val), (5, a.val), (7, 0), (3, s.toNat), (1, 0), (4, 3)])
  | .st64Rl d a s => some (pack [(1, 0), (6, 14), (5, d.val), (5, a.val), (7, 0), (3, s.toNat), (1, 1), (4, 3)])
  | .amoswap d a b l q s z => some (pack [(1, 0), (6, 14), (5, d.val), (5, a.val), (5, b.val), (1, l.toNat), (1, q.toNat), (3, s.toNat), (1, z.toNat), (4, 4)])
  | .amoadd d a b l q s z => some (pack [(1, 0), (6, 14), (5, d.val), (5, a.val), (5, b.val), (1, l.toNat), (1, q.toNat), (3, s.toNat), (1, z.toNat), (4, 5)])
  | .amoand d a b l q s z => some (pack [(1, 0), (6, 14), (5, d.val), (5, a.val), (5, b.val), (1, l.toNat), (1, q.toNat), (3, s.toNat), (1, z.toNat), (4, 6)])
  | .amoor d a b l q s z => some (pack [(1, 0), (6, 14), (5, d.val), (5, a.val), (5, b.val), (1, l.toNat), (1, q.toNat), (3, s.toNat), (1, z.toNat), (4, 7)])
  | .amoxor d a b l q s z => some (pack [(1, 0), (6, 14), (5, d.val), (5, a.val), (5, b.val), (1, l.toNat), (1, q.toNat), (3, s.toNat), (1, z.toNat), (4, 8)])
  | .amominS d a b l q s z => some (pack [(1, 0), (6, 14), (5, d.val), (5, a.val), (5, b.val), (1, l.toNat), (1, q.toNat), (3, s.toNat), (1, z.toNat), (4, 9)])
  | .amominZ d a b l q s z => some (pack [(1, 0), (6, 14), (5, d.val), (5, a.val), (5, b.val), (1, l.toNat), (1, q.toNat), (3, s.toNat), (1, z.toNat), (4, 10)])
  | .amomaxS d a b l q s z => some (pack [(1, 0), (6, 14), (5, d.val), (5, a.val), (5, b.val), (1, l.toNat), (1, q.toNat), (3, s.toNat), (1, z.toNat), (4, 11)])
  | .amomaxZ d a b l q s z => some (pack [(1, 0), (6, 14), (5, d.val), (5, a.val), (5, b.val), (1, l.toNat), (1, q.toNat), (3, s.toNat), (1, z.toNat), (4, 12)])
  | .amocas d a b l q s z => some (pack [(1, 0), (6, 14), (5, d.val), (5, a.val), (5, b.val), (1, l.toNat), (1, q.toNat), (3, s.toNat), (1, z.toNat), (4, 13)])
  | .fence s => some (pack [(1, 0), (6, 15), (10, 0), (5, s.toNat), (2, 1), (8, 0)])
  | .mfsr d n => some (pack [(1, 0), (6, 15), (5, d.val), (12, n.toNat), (8, 4)])
  | .mtsr a n => some (pack [(1, 0), (6, 15), (5, a.val), (12, n.toNat), (8, 5)])
  | .wait d a => some (pack [(1, 0), (6, 15), (5, d.val), (5, a.val), (5, 0), (2, 0), (8, 8)])
  | .sev a => some (pack [(1, 0), (6, 15), (5, 0), (5, a.val), (5, 0), (2, 1), (8, 8)])
  | .trap a => some (pack [(1, 0), (6, 15), (5, 0), (5, a.val), (5, 0), (2, 0), (8, 12)])
  | .tinvVa a => some (pack [(1, 0), (6, 15), (5, 0), (5, a.val), (5, 0), (2, 0), (8, 64)])
  | .tinvAsid a => some (pack [(1, 0), (6, 15), (5, 0), (5, a.val), (5, 0), (2, 1), (8, 64)])
  | .tinvAll  => some (pack [(1, 0), (6, 15), (15, 0), (2, 2), (8, 64)])
  | .tsync  => some (pack [(1, 0), (6, 15), (15, 0), (2, 3), (8, 64)])
  | .tprobe d a k => some (pack [(1, 0), (6, 15), (5, d.val), (5, a.val), (2, k.toNat), (3, 0), (2, 0), (8, 65)])
  | .tret  => some (pack [(1, 0), (6, 15), (15, 0), (2, 0), (8, 96)])
  | .hxchg d => some (pack [(1, 0), (6, 15), (5, d.val), (10, 0), (2, 1), (8, 96)])
  | .ecmrd d => some (pack [(1, 0), (6, 15), (5, d.val), (10, 0), (2, 2), (8, 96)])
  | .ecmwr a => some (pack [(1, 0), (6, 15), (5, 0), (5, a.val), (5, 0), (2, 3), (8, 96)])
  | .tmset a => some (pack [(1, 0), (6, 15), (5, 0), (5, a.val), (5, 0), (2, 0), (8, 97)])
  | .dbrk  => some (pack [(1, 0), (6, 15), (15, 0), (2, 0), (8, 128)])
  | .spread d a => some (pack [(1, 0), (6, 15), (5, d.val), (5, a.val), (5, 0), (2, 1), (8, 128)])
  | .spclr  => some (pack [(1, 0), (6, 15), (15, 0), (2, 2), (8, 128)])
  | .tmark a => some (pack [(1, 0), (6, 15), (5, 0), (5, a.val), (5, 0), (2, 3), (8, 128)])
  | .beq a b i => some (pack [(1, 0), (6, 16), (5, a.val), (5, b.val), (3, 0), (12, i.toNat)])
  | .bne a b i => some (pack [(1, 0), (6, 16), (5, a.val), (5, b.val), (3, 1), (12, i.toNat)])
  | .bltS a b i => some (pack [(1, 0), (6, 16), (5, a.val), (5, b.val), (3, 2), (12, i.toNat)])
  | .bgeS a b i => some (pack [(1, 0), (6, 16), (5, a.val), (5, b.val), (3, 3), (12, i.toNat)])
  | .bltZ a b i => some (pack [(1, 0), (6, 16), (5, a.val), (5, b.val), (3, 4), (12, i.toNat)])
  | .bgeZ a b i => some (pack [(1, 0), (6, 16), (5, a.val), (5, b.val), (3, 5), (12, i.toNat)])
  | .jal d i => some (pack [(1, 0), (6, 17), (5, d.val), (20, i.toNat)])
  | .jalr d a i => some (pack [(1, 0), (6, 18), (5, d.val), (5, a.val), (15, i.toNat)])
  | .sloop a n => some (pack [(1, 0), (6, 19), (5, 0), (5, a.val), (5, n.toNat), (10, 0)])
  | .cAddi d i => some (pack [(2, 1), (4, 0), (5, d.val), (5, i.toNat)])
  | .cLi d i => some (pack [(2, 1), (4, 1), (5, d.val), (5, i.toNat)])
  | .cMv d b => some (pack [(2, 1), (4, 2), (5, d.val), (5, b.val)])
  | .cAdd d b => some (pack [(2, 1), (4, 3), (5, d.val), (5, b.val)])
  | .cSub d b => some (pack [(2, 1), (4, 4), (5, d.val), (5, b.val)])
  | .cAnd d b => some (pack [(2, 1), (4, 5), (5, d.val), (5, b.val)])
  | .cOr d b => some (pack [(2, 1), (4, 6), (5, d.val), (5, b.val)])
  | .cXor d b => some (pack [(2, 1), (4, 7), (5, d.val), (5, b.val)])
  | .cSlli d s => some (pack [(2, 1), (4, 8), (5, d.val), (5, s.toNat)])
  | .cSrli d s => some (pack [(2, 1), (4, 9), (5, d.val), (5, s.toNat)])
  | .cJr b => some (pack [(2, 1), (4, 10), (5, b.val), (5, 0)])
  | .cLdsp d o => some (pack [(2, 1), (4, 11), (5, d.val), (5, o.toNat)])
  | .cStsp s o => some (pack [(2, 1), (4, 12), (5, s.val), (5, o.toNat)])
  | .cBeqz a i => some (pack [(2, 1), (4, 13), (5, a.val), (5, i.toNat)])
  | .cBnez a i => some (pack [(2, 1), (4, 14), (5, a.val), (5, i.toNat)])
  | .cJ i => some (pack [(2, 1), (4, 15), (10, i.toNat)])
  | .vsetvl d a b r x => some (pack [(1, 0), (6, 20), (5, d.val), (5, a.val), (5, b.val), (6, 0), (1, r.toNat), (1, x.toNat), (2, 0)])
  | .vsetvli d a p e g r x => some (pack [(1, 0), (6, 20), (5, d.val), (5, a.val), (5, 0), (1, p.toNat), (3, e.toNat), (2, g.toNat), (1, r.toNat), (1, x.toNat), (2, 1)])
  | .vsetvlm d a e g r x => some (pack [(1, 0), (6, 20), (5, d.val), (5, a.val), (6, 0), (3, e.toNat), (2, g.toNat), (1, r.toNat), (1, x.toNat), (2, 2)])
  | .vsetfl d a b e g r x => some (pack [(1, 0), (6, 20), (5, d.val), (5, a.val), (5, b.val), (1, 0), (3, e.toNat), (2, g.toNat), (1, r.toNat), (1, x.toNat), (2, 3)])
  | .vld d a m z f s => some (pack [(1, 0), (6, 21), (5, d.val), (5, a.val), (5, 0), (1, m.toNat), (1, z.toNat), (3, 0), (3, f.toNat), (1, s.toNat), (1, 0)])
  | .vlds d a b m z f s => some (pack [(1, 0), (6, 21), (5, d.val), (5, a.val), (5, b.val), (1, m.toNat), (1, z.toNat), (3, 1), (3, f.toNat), (1, s.toNat), (1, 0)])
  | .vldxu d a b m z f s => some (pack [(1, 0), (6, 21), (5, d.val), (5, a.val), (5, b.val), (1, m.toNat), (1, z.toNat), (3, 2), (3, f.toNat), (1, s.toNat), (1, 0)])
  | .vldxo d a b m z f s => some (pack [(1, 0), (6, 21), (5, d.val), (5, a.val), (5, b.val), (1, m.toNat), (1, z.toNat), (3, 3), (3, f.toNat), (1, s.toNat), (1, 0)])
  | .vldseg d a n m z f s => some (pack [(1, 0), (6, 21), (5, d.val), (5, a.val), (2, n.toNat), (3, 0), (1, m.toNat), (1, z.toNat), (3, 4), (3, f.toNat), (1, s.toNat), (1, 0)])
  | .vldr d a => some (pack [(1, 0), (6, 21), (5, d.val), (5, a.val), (7, 0), (3, 6), (5, 0)])
  | .vldm d a => some (pack [(1, 0), (6, 21), (5, d.val), (5, a.val), (7, 0), (3, 7), (5, 0)])
  | .vldf d a m z f s => some (pack [(1, 0), (6, 22), (5, d.val), (5, a.val), (5, 0), (1, m.toNat), (1, z.toNat), (3, 0), (3, f.toNat), (1, s.toNat), (1, 0)])
  | .vldfs d a b m z f s => some (pack [(1, 0), (6, 22), (5, d.val), (5, a.val), (5, b.val), (1, m.toNat), (1, z.toNat), (3, 1), (3, f.toNat), (1, s.toNat), (1, 0)])
  | .vldfxu d a b m z f s => some (pack [(1, 0), (6, 22), (5, d.val), (5, a.val), (5, b.val), (1, m.toNat), (1, z.toNat), (3, 2), (3, f.toNat), (1, s.toNat), (1, 0)])
  | .vldfxo d a b m z f s => some (pack [(1, 0), (6, 22), (5, d.val), (5, a.val), (5, b.val), (1, m.toNat), (1, z.toNat), (3, 3), (3, f.toNat), (1, s.toNat), (1, 0)])
  | .vldfseg d a n m z f s => some (pack [(1, 0), (6, 22), (5, d.val), (5, a.val), (2, n.toNat), (3, 0), (1, m.toNat), (1, z.toNat), (3, 4), (3, f.toNat), (1, s.toNat), (1, 0)])
  | .vst s a m z f => some (pack [(1, 0), (6, 23), (5, s.val), (5, a.val), (5, 0), (1, m.toNat), (1, z.toNat), (3, 0), (3, f.toNat), (2, 0)])
  | .vsts s a b m z f => some (pack [(1, 0), (6, 23), (5, s.val), (5, a.val), (5, b.val), (1, m.toNat), (1, z.toNat), (3, 1), (3, f.toNat), (2, 0)])
  | .vstxu s a b m z f => some (pack [(1, 0), (6, 23), (5, s.val), (5, a.val), (5, b.val), (1, m.toNat), (1, z.toNat), (3, 2), (3, f.toNat), (2, 0)])
  | .vstxo s a b m z f => some (pack [(1, 0), (6, 23), (5, s.val), (5, a.val), (5, b.val), (1, m.toNat), (1, z.toNat), (3, 3), (3, f.toNat), (2, 0)])
  | .vstseg s a n m z f => some (pack [(1, 0), (6, 23), (5, s.val), (5, a.val), (2, n.toNat), (3, 0), (1, m.toNat), (1, z.toNat), (3, 4), (3, f.toNat), (2, 0)])
  | .vstr s a => some (pack [(1, 0), (6, 23), (5, s.val), (5, a.val), (7, 0), (3, 6), (5, 0)])
  | .vstm s a => some (pack [(1, 0), (6, 23), (5, s.val), (5, a.val), (7, 0), (3, 7), (5, 0)])
  | .vadd v => some (pack [(1, 0), (6, 24), (5, v.d.val), (5, v.a.val), (5, v.b.val), (1, v.m.toNat), (1, v.z.toNat), (1, v.w.toNat), (7, 0)])
  | .vsub v => some (pack [(1, 0), (6, 24), (5, v.d.val), (5, v.a.val), (5, v.b.val), (1, v.m.toNat), (1, v.z.toNat), (1, v.w.toNat), (7, 1)])
  | .vrsub v => some (pack [(1, 0), (6, 24), (5, v.d.val), (5, v.a.val), (5, v.b.val), (1, v.m.toNat), (1, v.z.toNat), (1, v.w.toNat), (7, 2)])
  | .vminS v => some (pack [(1, 0), (6, 24), (5, v.d.val), (5, v.a.val), (5, v.b.val), (1, v.m.toNat), (1, v.z.toNat), (1, v.w.toNat), (7, 3)])
  | .vminZ v => some (pack [(1, 0), (6, 24), (5, v.d.val), (5, v.a.val), (5, v.b.val), (1, v.m.toNat), (1, v.z.toNat), (1, v.w.toNat), (7, 4)])
  | .vmaxS v => some (pack [(1, 0), (6, 24), (5, v.d.val), (5, v.a.val), (5, v.b.val), (1, v.m.toNat), (1, v.z.toNat), (1, v.w.toNat), (7, 5)])
  | .vmaxZ v => some (pack [(1, 0), (6, 24), (5, v.d.val), (5, v.a.val), (5, v.b.val), (1, v.m.toNat), (1, v.z.toNat), (1, v.w.toNat), (7, 6)])
  | .vand v => some (pack [(1, 0), (6, 24), (5, v.d.val), (5, v.a.val), (5, v.b.val), (1, v.m.toNat), (1, v.z.toNat), (1, v.w.toNat), (7, 7)])
  | .vor v => some (pack [(1, 0), (6, 24), (5, v.d.val), (5, v.a.val), (5, v.b.val), (1, v.m.toNat), (1, v.z.toNat), (1, v.w.toNat), (7, 8)])
  | .vxor v => some (pack [(1, 0), (6, 24), (5, v.d.val), (5, v.a.val), (5, v.b.val), (1, v.m.toNat), (1, v.z.toNat), (1, v.w.toNat), (7, 9)])
  | .vsll v => some (pack [(1, 0), (6, 24), (5, v.d.val), (5, v.a.val), (5, v.b.val), (1, v.m.toNat), (1, v.z.toNat), (1, v.w.toNat), (7, 10)])
  | .vsrl v => some (pack [(1, 0), (6, 24), (5, v.d.val), (5, v.a.val), (5, v.b.val), (1, v.m.toNat), (1, v.z.toNat), (1, v.w.toNat), (7, 11)])
  | .vsra v => some (pack [(1, 0), (6, 24), (5, v.d.val), (5, v.a.val), (5, v.b.val), (1, v.m.toNat), (1, v.z.toNat), (1, v.w.toNat), (7, 12)])
  | .vmul v => some (pack [(1, 0), (6, 24), (5, v.d.val), (5, v.a.val), (5, v.b.val), (1, v.m.toNat), (1, v.z.toNat), (1, v.w.toNat), (7, 13)])
  | .vmulhS v => some (pack [(1, 0), (6, 24), (5, v.d.val), (5, v.a.val), (5, v.b.val), (1, v.m.toNat), (1, v.z.toNat), (1, v.w.toNat), (7, 14)])
  | .vmulhZ v => some (pack [(1, 0), (6, 24), (5, v.d.val), (5, v.a.val), (5, v.b.val), (1, v.m.toNat), (1, v.z.toNat), (1, v.w.toNat), (7, 15)])
  | .vdivS v => some (pack [(1, 0), (6, 24), (5, v.d.val), (5, v.a.val), (5, v.b.val), (1, v.m.toNat), (1, v.z.toNat), (1, v.w.toNat), (7, 16)])
  | .vdivZ v => some (pack [(1, 0), (6, 24), (5, v.d.val), (5, v.a.val), (5, v.b.val), (1, v.m.toNat), (1, v.z.toNat), (1, v.w.toNat), (7, 17)])
  | .vremS v => some (pack [(1, 0), (6, 24), (5, v.d.val), (5, v.a.val), (5, v.b.val), (1, v.m.toNat), (1, v.z.toNat), (1, v.w.toNat), (7, 18)])
  | .vremZ v => some (pack [(1, 0), (6, 24), (5, v.d.val), (5, v.a.val), (5, v.b.val), (1, v.m.toNat), (1, v.z.toNat), (1, v.w.toNat), (7, 19)])
  | .vmacc v => some (pack [(1, 0), (6, 24), (5, v.d.val), (5, v.a.val), (5, v.b.val), (1, v.m.toNat), (1, v.z.toNat), (1, v.w.toNat), (7, 20)])
  | .vnmsac v => some (pack [(1, 0), (6, 24), (5, v.d.val), (5, v.a.val), (5, v.b.val), (1, v.m.toNat), (1, v.z.toNat), (1, v.w.toNat), (7, 21)])
  | .vmerge d a b z w => some (pack [(1, 0), (6, 24), (5, d.val), (5, a.val), (5, b.val), (1, 1), (1, z.toNat), (1, w.toNat), (7, 22)])
  | .vmv d b m z w => some (pack [(1, 0), (6, 24), (5, d.val), (5, 0), (5, b.val), (1, m.toNat), (1, z.toNat), (1, w.toNat), (7, 23)])
  | .vwaddS v => some (pack [(1, 0), (6, 24), (5, v.d.val), (5, v.a.val), (5, v.b.val), (1, v.m.toNat), (1, v.z.toNat), (1, v.w.toNat), (7, 32)])
  | .vwaddZ v => some (pack [(1, 0), (6, 24), (5, v.d.val), (5, v.a.val), (5, v.b.val), (1, v.m.toNat), (1, v.z.toNat), (1, v.w.toNat), (7, 33)])
  | .vwsubS v => some (pack [(1, 0), (6, 24), (5, v.d.val), (5, v.a.val), (5, v.b.val), (1, v.m.toNat), (1, v.z.toNat), (1, v.w.toNat), (7, 34)])
  | .vwsubZ v => some (pack [(1, 0), (6, 24), (5, v.d.val), (5, v.a.val), (5, v.b.val), (1, v.m.toNat), (1, v.z.toNat), (1, v.w.toNat), (7, 35)])
  | .vwmulS v => some (pack [(1, 0), (6, 24), (5, v.d.val), (5, v.a.val), (5, v.b.val), (1, v.m.toNat), (1, v.z.toNat), (1, v.w.toNat), (7, 36)])
  | .vwmulZ v => some (pack [(1, 0), (6, 24), (5, v.d.val), (5, v.a.val), (5, v.b.val), (1, v.m.toNat), (1, v.z.toNat), (1, v.w.toNat), (7, 37)])
  | .vwmaccS v => some (pack [(1, 0), (6, 24), (5, v.d.val), (5, v.a.val), (5, v.b.val), (1, v.m.toNat), (1, v.z.toNat), (1, v.w.toNat), (7, 38)])
  | .vwmaccZ v => some (pack [(1, 0), (6, 24), (5, v.d.val), (5, v.a.val), (5, v.b.val), (1, v.m.toNat), (1, v.z.toNat), (1, v.w.toNat), (7, 39)])
  | .vcrc v => some (pack [(1, 0), (6, 24), (5, v.d.val), (5, v.a.val), (5, v.b.val), (1, v.m.toNat), (1, v.z.toNat), (1, v.w.toNat), (7, 48)])
  | .vhash v => some (pack [(1, 0), (6, 24), (5, v.d.val), (5, v.a.val), (5, v.b.val), (1, v.m.toNat), (1, v.z.toNat), (1, v.w.toNat), (7, 49)])
  | .vsaddS v => some (pack [(1, 0), (6, 25), (5, v.d.val), (5, v.a.val), (5, v.b.val), (1, v.m.toNat), (1, v.z.toNat), (1, v.w.toNat), (7, 0)])
  | .vsaddZ v => some (pack [(1, 0), (6, 25), (5, v.d.val), (5, v.a.val), (5, v.b.val), (1, v.m.toNat), (1, v.z.toNat), (1, v.w.toNat), (7, 1)])
  | .vssubS v => some (pack [(1, 0), (6, 25), (5, v.d.val), (5, v.a.val), (5, v.b.val), (1, v.m.toNat), (1, v.z.toNat), (1, v.w.toNat), (7, 2)])
  | .vssubZ v => some (pack [(1, 0), (6, 25), (5, v.d.val), (5, v.a.val), (5, v.b.val), (1, v.m.toNat), (1, v.z.toNat), (1, v.w.toNat), (7, 3)])
  | .vaaddS v => some (pack [(1, 0), (6, 25), (5, v.d.val), (5, v.a.val), (5, v.b.val), (1, v.m.toNat), (1, v.z.toNat), (1, v.w.toNat), (7, 4)])
  | .vaaddZ v => some (pack [(1, 0), (6, 25), (5, v.d.val), (5, v.a.val), (5, v.b.val), (1, v.m.toNat), (1, v.z.toNat), (1, v.w.toNat), (7, 5)])
  | .vasubS v => some (pack [(1, 0), (6, 25), (5, v.d.val), (5, v.a.val), (5, v.b.val), (1, v.m.toNat), (1, v.z.toNat), (1, v.w.toNat), (7, 6)])
  | .vasubZ v => some (pack [(1, 0), (6, 25), (5, v.d.val), (5, v.a.val), (5, v.b.val), (1, v.m.toNat), (1, v.z.toNat), (1, v.w.toNat), (7, 7)])
  | .vsmulS v => some (pack [(1, 0), (6, 25), (5, v.d.val), (5, v.a.val), (5, v.b.val), (1, v.m.toNat), (1, v.z.toNat), (1, v.w.toNat), (7, 8)])
  | .vssraS v => some (pack [(1, 0), (6, 25), (5, v.d.val), (5, v.a.val), (5, v.b.val), (1, v.m.toNat), (1, v.z.toNat), (1, v.w.toNat), (7, 9)])
  | .vssrlZ v => some (pack [(1, 0), (6, 25), (5, v.d.val), (5, v.a.val), (5, v.b.val), (1, v.m.toNat), (1, v.z.toNat), (1, v.w.toNat), (7, 10)])
  | .vnclipS v => some (pack [(1, 0), (6, 25), (5, v.d.val), (5, v.a.val), (5, v.b.val), (1, v.m.toNat), (1, v.z.toNat), (1, v.w.toNat), (7, 11)])
  | .vnclipZ v => some (pack [(1, 0), (6, 25), (5, v.d.val), (5, v.a.val), (5, v.b.val), (1, v.m.toNat), (1, v.z.toNat), (1, v.w.toNat), (7, 12)])
  | .vnclipSu v => some (pack [(1, 0), (6, 25), (5, v.d.val), (5, v.a.val), (5, v.b.val), (1, v.m.toNat), (1, v.z.toNat), (1, v.w.toNat), (7, 13)])
  | .vdot4S v => some (pack [(1, 0), (6, 25), (5, v.d.val), (5, v.a.val), (5, v.b.val), (1, v.m.toNat), (1, v.z.toNat), (1, v.w.toNat), (7, 16)])
  | .vdot4Z v => some (pack [(1, 0), (6, 25), (5, v.d.val), (5, v.a.val), (5, v.b.val), (1, v.m.toNat), (1, v.z.toNat), (1, v.w.toNat), (7, 17)])
  | .vdot4Su v => some (pack [(1, 0), (6, 25), (5, v.d.val), (5, v.a.val), (5, v.b.val), (1, v.m.toNat), (1, v.z.toNat), (1, v.w.toNat), (7, 18)])
  | .vmseq v => some (pack [(1, 0), (6, 29), (5, v.d.val), (5, v.a.val), (5, v.b.val), (1, v.m.toNat), (1, v.z.toNat), (1, v.w.toNat), (7, 0)])
  | .vmsne v => some (pack [(1, 0), (6, 29), (5, v.d.val), (5, v.a.val), (5, v.b.val), (1, v.m.toNat), (1, v.z.toNat), (1, v.w.toNat), (7, 1)])
  | .vmsltS v => some (pack [(1, 0), (6, 29), (5, v.d.val), (5, v.a.val), (5, v.b.val), (1, v.m.toNat), (1, v.z.toNat), (1, v.w.toNat), (7, 2)])
  | .vmsltZ v => some (pack [(1, 0), (6, 29), (5, v.d.val), (5, v.a.val), (5, v.b.val), (1, v.m.toNat), (1, v.z.toNat), (1, v.w.toNat), (7, 3)])
  | .vmsleS v => some (pack [(1, 0), (6, 29), (5, v.d.val), (5, v.a.val), (5, v.b.val), (1, v.m.toNat), (1, v.z.toNat), (1, v.w.toNat), (7, 4)])
  | .vmsleZ v => some (pack [(1, 0), (6, 29), (5, v.d.val), (5, v.a.val), (5, v.b.val), (1, v.m.toNat), (1, v.z.toNat), (1, v.w.toNat), (7, 5)])
  | .vmsgtS v => some (pack [(1, 0), (6, 29), (5, v.d.val), (5, v.a.val), (5, v.b.val), (1, v.m.toNat), (1, v.z.toNat), (1, v.w.toNat), (7, 6)])
  | .vmsgtZ v => some (pack [(1, 0), (6, 29), (5, v.d.val), (5, v.a.val), (5, v.b.val), (1, v.m.toNat), (1, v.z.toNat), (1, v.w.toNat), (7, 7)])
  | .vmsgeS v => some (pack [(1, 0), (6, 29), (5, v.d.val), (5, v.a.val), (5, v.b.val), (1, v.m.toNat), (1, v.z.toNat), (1, v.w.toNat), (7, 8)])
  | .vmsgeZ v => some (pack [(1, 0), (6, 29), (5, v.d.val), (5, v.a.val), (5, v.b.val), (1, v.m.toNat), (1, v.z.toNat), (1, v.w.toNat), (7, 9)])
  | .vmand d a b z => some (pack [(1, 0), (6, 29), (5, d.val), (5, a.val), (5, b.val), (1, 0), (1, z.toNat), (1, 0), (7, 16)])
  | .vmor d a b z => some (pack [(1, 0), (6, 29), (5, d.val), (5, a.val), (5, b.val), (1, 0), (1, z.toNat), (1, 0), (7, 17)])
  | .vmxor d a b z => some (pack [(1, 0), (6, 29), (5, d.val), (5, a.val), (5, b.val), (1, 0), (1, z.toNat), (1, 0), (7, 18)])
  | .vmandn d a b z => some (pack [(1, 0), (6, 29), (5, d.val), (5, a.val), (5, b.val), (1, 0), (1, z.toNat), (1, 0), (7, 19)])
  | .vmorn d a b z => some (pack [(1, 0), (6, 29), (5, d.val), (5, a.val), (5, b.val), (1, 0), (1, z.toNat), (1, 0), (7, 20)])
  | .vmnand d a b z => some (pack [(1, 0), (6, 29), (5, d.val), (5, a.val), (5, b.val), (1, 0), (1, z.toNat), (1, 0), (7, 21)])
  | .vmnor d a b z => some (pack [(1, 0), (6, 29), (5, d.val), (5, a.val), (5, b.val), (1, 0), (1, z.toNat), (1, 0), (7, 22)])
  | .vmxnor d a b z => some (pack [(1, 0), (6, 29), (5, d.val), (5, a.val), (5, b.val), (1, 0), (1, z.toNat), (1, 0), (7, 23)])
  | .vcpop d a m => some (pack [(1, 0), (6, 29), (5, d.val), (5, a.val), (5, 0), (1, m.toNat), (2, 0), (7, 24)])
  | .vfirst d a m => some (pack [(1, 0), (6, 29), (5, d.val), (5, a.val), (5, 0), (1, m.toNat), (2, 0), (7, 25)])
  | .vmsbf d a m z => some (pack [(1, 0), (6, 29), (5, d.val), (5, a.val), (5, 0), (1, m.toNat), (1, z.toNat), (1, 0), (7, 26)])
  | .vmsif d a m z => some (pack [(1, 0), (6, 29), (5, d.val), (5, a.val), (5, 0), (1, m.toNat), (1, z.toNat), (1, 0), (7, 27)])
  | .vmsof d a m z => some (pack [(1, 0), (6, 29), (5, d.val), (5, a.val), (5, 0), (1, m.toNat), (1, z.toNat), (1, 0), (7, 28)])
  | .vslideup d a b m z => some (pack [(1, 0), (6, 28), (5, d.val), (5, a.val), (5, b.val), (1, m.toNat), (1, z.toNat), (1, 1), (7, 0)])
  | .vslidedown d a b m z => some (pack [(1, 0), (6, 28), (5, d.val), (5, a.val), (5, b.val), (1, m.toNat), (1, z.toNat), (1, 1), (7, 1)])
  | .vslide1up d a b m z => some (pack [(1, 0), (6, 28), (5, d.val), (5, a.val), (5, b.val), (1, m.toNat), (1, z.toNat), (1, 1), (7, 2)])
  | .vslide1down d a b m z => some (pack [(1, 0), (6, 28), (5, d.val), (5, a.val), (5, b.val), (1, m.toNat), (1, z.toNat), (1, 1), (7, 3)])
  | .vrgather v => some (pack [(1, 0), (6, 28), (5, v.d.val), (5, v.a.val), (5, v.b.val), (1, v.m.toNat), (1, v.z.toNat), (1, v.w.toNat), (7, 4)])
  | .vcompress d a b z => some (pack [(1, 0), (6, 28), (5, d.val), (5, a.val), (5, b.val), (1, 0), (1, z.toNat), (1, 0), (7, 5)])
  | .vexpand d a b z => some (pack [(1, 0), (6, 28), (5, d.val), (5, a.val), (5, b.val), (1, 0), (1, z.toNat), (1, 0), (7, 6)])
  | .vid d m z => some (pack [(1, 0), (6, 28), (5, d.val), (10, 0), (1, m.toNat), (1, z.toNat), (1, 0), (7, 7)])
  | .vmvXs d a => some (pack [(1, 0), (6, 28), (5, d.val), (5, a.val), (8, 0), (7, 8)])
  | .vmvSx d b m z => some (pack [(1, 0), (6, 28), (5, d.val), (5, 0), (5, b.val), (1, m.toNat), (1, z.toNat), (1, 1), (7, 9)])
  | .vscanadd v => some (pack [(1, 0), (6, 28), (5, v.d.val), (5, v.a.val), (5, v.b.val), (1, v.m.toNat), (1, v.z.toNat), (1, v.w.toNat), (7, 10)])
  | .vscanaddSg d a b z w => some (pack [(1, 0), (6, 28), (5, d.val), (5, a.val), (5, b.val), (1, 0), (1, z.toNat), (1, w.toNat), (7, 11)])
  | .vsortkZ d a z => some (pack [(1, 0), (6, 28), (5, d.val), (5, a.val), (6, 0), (1, z.toNat), (1, 0), (7, 16)])
  | .vsortkS d a z => some (pack [(1, 0), (6, 28), (5, d.val), (5, a.val), (6, 0), (1, z.toNat), (1, 0), (7, 17)])
  | .vsortkdZ d a z => some (pack [(1, 0), (6, 28), (5, d.val), (5, a.val), (6, 0), (1, z.toNat), (1, 0), (7, 18)])
  | .vsortkdS d a z => some (pack [(1, 0), (6, 28), (5, d.val), (5, a.val), (6, 0), (1, z.toNat), (1, 0), (7, 19)])
  | .vfadd v h => some (pack [(1, 0), (6, 26), (5, v.d.val), (5, v.a.val), (5, v.b.val), (1, v.m.toNat), (1, v.z.toNat), (1, v.w.toNat), (6, 0), (1, h.toNat)])
  | .vfsub v h => some (pack [(1, 0), (6, 26), (5, v.d.val), (5, v.a.val), (5, v.b.val), (1, v.m.toNat), (1, v.z.toNat), (1, v.w.toNat), (6, 1), (1, h.toNat)])
  | .vfrsub v h => some (pack [(1, 0), (6, 26), (5, v.d.val), (5, v.a.val), (5, v.b.val), (1, v.m.toNat), (1, v.z.toNat), (1, v.w.toNat), (6, 2), (1, h.toNat)])
  | .vfmul v h => some (pack [(1, 0), (6, 26), (5, v.d.val), (5, v.a.val), (5, v.b.val), (1, v.m.toNat), (1, v.z.toNat), (1, v.w.toNat), (6, 3), (1, h.toNat)])
  | .vfdiv v h => some (pack [(1, 0), (6, 26), (5, v.d.val), (5, v.a.val), (5, v.b.val), (1, v.m.toNat), (1, v.z.toNat), (1, v.w.toNat), (6, 4), (1, h.toNat)])
  | .vfrdiv v h => some (pack [(1, 0), (6, 26), (5, v.d.val), (5, v.a.val), (5, v.b.val), (1, v.m.toNat), (1, v.z.toNat), (1, v.w.toNat), (6, 5), (1, h.toNat)])
  | .vfmin v h => some (pack [(1, 0), (6, 26), (5, v.d.val), (5, v.a.val), (5, v.b.val), (1, v.m.toNat), (1, v.z.toNat), (1, v.w.toNat), (6, 6), (1, h.toNat)])
  | .vfmax v h => some (pack [(1, 0), (6, 26), (5, v.d.val), (5, v.a.val), (5, v.b.val), (1, v.m.toNat), (1, v.z.toNat), (1, v.w.toNat), (6, 7), (1, h.toNat)])
  | .vfsgnj v h => some (pack [(1, 0), (6, 26), (5, v.d.val), (5, v.a.val), (5, v.b.val), (1, v.m.toNat), (1, v.z.toNat), (1, v.w.toNat), (6, 8), (1, h.toNat)])
  | .vfsgnjn v h => some (pack [(1, 0), (6, 26), (5, v.d.val), (5, v.a.val), (5, v.b.val), (1, v.m.toNat), (1, v.z.toNat), (1, v.w.toNat), (6, 9), (1, h.toNat)])
  | .vfsgnjx v h => some (pack [(1, 0), (6, 26), (5, v.d.val), (5, v.a.val), (5, v.b.val), (1, v.m.toNat), (1, v.z.toNat), (1, v.w.toNat), (6, 10), (1, h.toNat)])
  | .vfmacc v h => some (pack [(1, 0), (6, 26), (5, v.d.val), (5, v.a.val), (5, v.b.val), (1, v.m.toNat), (1, v.z.toNat), (1, v.w.toNat), (6, 11), (1, h.toNat)])
  | .vfnmacc v h => some (pack [(1, 0), (6, 26), (5, v.d.val), (5, v.a.val), (5, v.b.val), (1, v.m.toNat), (1, v.z.toNat), (1, v.w.toNat), (6, 12), (1, h.toNat)])
  | .vfmsac v h => some (pack [(1, 0), (6, 26), (5, v.d.val), (5, v.a.val), (5, v.b.val), (1, v.m.toNat), (1, v.z.toNat), (1, v.w.toNat), (6, 13), (1, h.toNat)])
  | .vfnmsac v h => some (pack [(1, 0), (6, 26), (5, v.d.val), (5, v.a.val), (5, v.b.val), (1, v.m.toNat), (1, v.z.toNat), (1, v.w.toNat), (6, 14), (1, h.toNat)])
  | .vmfeq v h => some (pack [(1, 0), (6, 26), (5, v.d.val), (5, v.a.val), (5, v.b.val), (1, v.m.toNat), (1, v.z.toNat), (1, v.w.toNat), (6, 16), (1, h.toNat)])
  | .vmfne v h => some (pack [(1, 0), (6, 26), (5, v.d.val), (5, v.a.val), (5, v.b.val), (1, v.m.toNat), (1, v.z.toNat), (1, v.w.toNat), (6, 17), (1, h.toNat)])
  | .vmflt v h => some (pack [(1, 0), (6, 26), (5, v.d.val), (5, v.a.val), (5, v.b.val), (1, v.m.toNat), (1, v.z.toNat), (1, v.w.toNat), (6, 18), (1, h.toNat)])
  | .vmfle v h => some (pack [(1, 0), (6, 26), (5, v.d.val), (5, v.a.val), (5, v.b.val), (1, v.m.toNat), (1, v.z.toNat), (1, v.w.toNat), (6, 19), (1, h.toNat)])
  | .vmfgt v h => some (pack [(1, 0), (6, 26), (5, v.d.val), (5, v.a.val), (5, v.b.val), (1, v.m.toNat), (1, v.z.toNat), (1, v.w.toNat), (6, 20), (1, h.toNat)])
  | .vmfge v h => some (pack [(1, 0), (6, 26), (5, v.d.val), (5, v.a.val), (5, v.b.val), (1, v.m.toNat), (1, v.z.toNat), (1, v.w.toNat), (6, 21), (1, h.toNat)])
  | .vfclass d a m z h => some (pack [(1, 0), (6, 26), (5, d.val), (5, a.val), (5, 0), (1, m.toNat), (1, z.toNat), (1, 0), (6, 22), (1, h.toNat)])
  | .vfcvtiS d a m z h => some (pack [(1, 0), (6, 26), (5, d.val), (5, a.val), (5, 0), (1, m.toNat), (1, z.toNat), (1, 0), (6, 24), (1, h.toNat)])
  | .vfcvtiZ d a m z h => some (pack [(1, 0), (6, 26), (5, d.val), (5, a.val), (5, 0), (1, m.toNat), (1, z.toNat), (1, 0), (6, 25), (1, h.toNat)])
  | .vfcvtfS d a m z h => some (pack [(1, 0), (6, 26), (5, d.val), (5, a.val), (5, 0), (1, m.toNat), (1, z.toNat), (1, 0), (6, 26), (1, h.toNat)])
  | .vfcvtfZ d a m z h => some (pack [(1, 0), (6, 26), (5, d.val), (5, a.val), (5, 0), (1, m.toNat), (1, z.toNat), (1, 0), (6, 27), (1, h.toNat)])
  | .vfwcvt d a m z h => some (pack [(1, 0), (6, 26), (5, d.val), (5, a.val), (5, 0), (1, m.toNat), (1, z.toNat), (1, 0), (6, 28), (1, h.toNat)])
  | .vfncvt d a m z h => some (pack [(1, 0), (6, 26), (5, d.val), (5, a.val), (5, 0), (1, m.toNat), (1, z.toNat), (1, 0), (6, 29), (1, h.toNat)])
  | .vfwmacc v h => some (pack [(1, 0), (6, 26), (5, v.d.val), (5, v.a.val), (5, v.b.val), (1, v.m.toNat), (1, v.z.toNat), (1, v.w.toNat), (6, 32), (1, h.toNat)])
  | .vfdot2 v h => some (pack [(1, 0), (6, 26), (5, v.d.val), (5, v.a.val), (5, v.b.val), (1, v.m.toNat), (1, v.z.toNat), (1, v.w.toNat), (6, 33), (1, h.toNat)])
  | .vfredsum v h => some (pack [(1, 0), (6, 27), (5, v.d.val), (5, v.a.val), (5, v.b.val), (1, v.m.toNat), (1, v.z.toNat), (1, v.w.toNat), (6, 0), (1, h.toNat)])
  | .vfredsumO v h => some (pack [(1, 0), (6, 27), (5, v.d.val), (5, v.a.val), (5, v.b.val), (1, v.m.toNat), (1, v.z.toNat), (1, v.w.toNat), (6, 1), (1, h.toNat)])
  | .vfredmax v h => some (pack [(1, 0), (6, 27), (5, v.d.val), (5, v.a.val), (5, v.b.val), (1, v.m.toNat), (1, v.z.toNat), (1, v.w.toNat), (6, 2), (1, h.toNat)])
  | .vfredmin v h => some (pack [(1, 0), (6, 27), (5, v.d.val), (5, v.a.val), (5, v.b.val), (1, v.m.toNat), (1, v.z.toNat), (1, v.w.toNat), (6, 3), (1, h.toNat)])
  | .vfredsumSg d a b z w h => some (pack [(1, 0), (6, 27), (5, d.val), (5, a.val), (5, b.val), (1, 0), (1, z.toNat), (1, w.toNat), (6, 4), (1, h.toNat)])
  | .vfscan v h => some (pack [(1, 0), (6, 27), (5, v.d.val), (5, v.a.val), (5, v.b.val), (1, v.m.toNat), (1, v.z.toNat), (1, v.w.toNat), (6, 5), (1, h.toNat)])
  | .vfscanO v h => some (pack [(1, 0), (6, 27), (5, v.d.val), (5, v.a.val), (5, v.b.val), (1, v.m.toNat), (1, v.z.toNat), (1, v.w.toNat), (6, 6), (1, h.toNat)])
  | .vfscanSg d a b z w h => some (pack [(1, 0), (6, 27), (5, d.val), (5, a.val), (5, b.val), (1, 0), (1, z.toNat), (1, w.toNat), (6, 7), (1, h.toNat)])
  | .vfargmax d a m h => some (pack [(1, 0), (6, 27), (5, d.val), (5, a.val), (5, 0), (1, m.toNat), (2, 0), (6, 8), (1, h.toNat)])
  | .vfargmin d a m h => some (pack [(1, 0), (6, 27), (5, d.val), (5, a.val), (5, 0), (1, m.toNat), (2, 0), (6, 9), (1, h.toNat)])
  | .vredsum v => some (pack [(1, 0), (6, 27), (5, v.d.val), (5, v.a.val), (5, v.b.val), (1, v.m.toNat), (1, v.z.toNat), (1, v.w.toNat), (6, 32), (1, 0)])
  | .vredmaxS v => some (pack [(1, 0), (6, 27), (5, v.d.val), (5, v.a.val), (5, v.b.val), (1, v.m.toNat), (1, v.z.toNat), (1, v.w.toNat), (6, 33), (1, 0)])
  | .vredmaxZ v => some (pack [(1, 0), (6, 27), (5, v.d.val), (5, v.a.val), (5, v.b.val), (1, v.m.toNat), (1, v.z.toNat), (1, v.w.toNat), (6, 34), (1, 0)])
  | .vredminS v => some (pack [(1, 0), (6, 27), (5, v.d.val), (5, v.a.val), (5, v.b.val), (1, v.m.toNat), (1, v.z.toNat), (1, v.w.toNat), (6, 35), (1, 0)])
  | .vredminZ v => some (pack [(1, 0), (6, 27), (5, v.d.val), (5, v.a.val), (5, v.b.val), (1, v.m.toNat), (1, v.z.toNat), (1, v.w.toNat), (6, 36), (1, 0)])
  | .vredand v => some (pack [(1, 0), (6, 27), (5, v.d.val), (5, v.a.val), (5, v.b.val), (1, v.m.toNat), (1, v.z.toNat), (1, v.w.toNat), (6, 37), (1, 0)])
  | .vredor v => some (pack [(1, 0), (6, 27), (5, v.d.val), (5, v.a.val), (5, v.b.val), (1, v.m.toNat), (1, v.z.toNat), (1, v.w.toNat), (6, 38), (1, 0)])
  | .vredxor v => some (pack [(1, 0), (6, 27), (5, v.d.val), (5, v.a.val), (5, v.b.val), (1, v.m.toNat), (1, v.z.toNat), (1, v.w.toNat), (6, 39), (1, 0)])
  | .vredsumSg d a b z w => some (pack [(1, 0), (6, 27), (5, d.val), (5, a.val), (5, b.val), (1, 0), (1, z.toNat), (1, w.toNat), (6, 40), (1, 0)])
  | .vexp2 d a m z h => some (pack [(1, 0), (6, 30), (5, d.val), (5, a.val), (5, 0), (1, m.toNat), (1, z.toNat), (1, 0), (6, 0), (1, h.toNat)])
  | .vlog2 d a m z h => some (pack [(1, 0), (6, 30), (5, d.val), (5, a.val), (5, 0), (1, m.toNat), (1, z.toNat), (1, 0), (6, 1), (1, h.toNat)])
  | .vrcp d a m z h => some (pack [(1, 0), (6, 30), (5, d.val), (5, a.val), (5, 0), (1, m.toNat), (1, z.toNat), (1, 0), (6, 2), (1, h.toNat)])
  | .vrsqrt d a m z h => some (pack [(1, 0), (6, 30), (5, d.val), (5, a.val), (5, 0), (1, m.toNat), (1, z.toNat), (1, 0), (6, 3), (1, h.toNat)])
  | .vsqrt d a m z h => some (pack [(1, 0), (6, 30), (5, d.val), (5, a.val), (5, 0), (1, m.toNat), (1, z.toNat), (1, 0), (6, 4), (1, h.toNat)])
  | .vrand d m z => some (pack [(1, 0), (6, 30), (5, d.val), (10, 0), (1, m.toNat), (1, z.toNat), (1, 0), (6, 8), (1, 0)])
  | .vrandf d m z h => some (pack [(1, 0), (6, 30), (5, d.val), (10, 0), (1, m.toNat), (1, z.toNat), (1, 0), (6, 9), (1, h.toNat)])
  | .vcdfsel d a b m h => some (pack [(1, 0), (6, 30), (5, d.val), (5, a.val), (5, b.val), (1, m.toNat), (2, 2), (6, 12), (1, h.toNat)])
  | .vsmmerge d a z => some (pack [(1, 0), (6, 30), (5, d.val), (5, a.val), (6, 0), (1, z.toNat), (1, 0), (6, 13), (1, 0)])
  | .vstrip d a e p g => some (pack [(1, 0), (6, 31), (5, d.val), (5, a.val), (5, 0), (2, e.toNat), (1, p.toNat), (2, g.toNat), (5, 0)])
  | .vstrend  => some (pack [(1, 0), (6, 31), (20, 0), (5, 1)])
  | .vexitI d a b => some (pack [(1, 0), (6, 31), (5, d.val), (5, a.val), (5, b.val), (5, 0), (5, 2)])
  | .vexitB d a b => some (pack [(1, 0), (6, 31), (5, d.val), (5, a.val), (5, b.val), (5, 0), (5, 3)])
  | .kvxl d a b c => some (pack [(1, 0), (6, 32), (5, d.val), (5, a.val), (5, b.val), (5, c.val), (5, 0)])
  | .kvxlm d a b c => some (pack [(1, 0), (6, 32), (5, d.val), (5, a.val), (5, b.val), (5, c.val), (5, 1)])
  | .kvapp d a b c => some (pack [(1, 0), (6, 32), (5, d.val), (5, a.val), (5, b.val), (5, c.val), (5, 2)])
  | .kvcommit a b => some (pack [(1, 0), (6, 32), (5, 0), (5, a.val), (5, b.val), (5, 0), (5, 3)])
  | .kvtrunc a b => some (pack [(1, 0), (6, 32), (5, 0), (5, a.val), (5, b.val), (5, 0), (5, 4)])
  | .kvevict d a b c => some (pack [(1, 0), (6, 32), (5, d.val), (5, a.val), (5, b.val), (5, c.val), (5, 5)])
  | .kvalloc d a b => some (pack [(1, 0), (6, 32), (5, d.val), (5, a.val), (5, b.val), (5, 0), (5, 6)])
  | .kvfree d a b c => some (pack [(1, 0), (6, 32), (5, d.val), (5, a.val), (5, b.val), (5, c.val), (5, 7)])
  | .kvfork d a b => some (pack [(1, 0), (6, 32), (5, d.val), (5, a.val), (5, b.val), (5, 0), (5, 8)])
  | .cpyLin d a b c e => some (pack [(1, 0), (6, 33), (5, d.val), (5, a.val), (5, b.val), (5, c.val), (2, e.toNat), (3, 0)])
  | .cpy2d d a b c e => some (pack [(1, 0), (6, 33), (5, d.val), (5, a.val), (5, b.val), (5, c.val), (2, e.toNat), (3, 1)])
  | .cpyGath d a b c e => some (pack [(1, 0), (6, 33), (5, d.val), (5, a.val), (5, b.val), (5, c.val), (2, e.toNat), (3, 2)])
  | .cpyConv d a b c e => some (pack [(1, 0), (6, 33), (5, d.val), (5, a.val), (5, b.val), (5, c.val), (2, e.toNat), (3, 3)])
  | .cpyFill d a b c e => some (pack [(1, 0), (6, 33), (5, d.val), (5, a.val), (5, b.val), (5, c.val), (2, e.toNat), (3, 4)])
  | .cpywait a e => some (pack [(1, 0), (6, 33), (5, 0), (5, a.val), (10, 0), (2, e.toNat), (3, 5)])
  | .cpyqry d e => some (pack [(1, 0), (6, 33), (5, d.val), (15, 0), (2, e.toNat), (3, 6)])
  | .bmode d a b => some (pack [(1, 0), (6, 34), (5, d.val), (5, a.val), (5, b.val), (5, 0), (5, 0)])
  | .bslot d a b => some (pack [(1, 0), (6, 34), (5, d.val), (5, a.val), (5, b.val), (5, 0), (5, 1)])
  | .bqry d a => some (pack [(1, 0), (6, 34), (5, d.val), (5, a.val), (10, 0), (5, 2)])
  | .fpush d a => some (pack [(1, 0), (6, 34), (5, d.val), (5, a.val), (10, 0), (5, 3)])
  | .fpop d a => some (pack [(1, 0), (6, 34), (5, d.val), (5, a.val), (10, 0), (5, 4)])
  | .lpfL2 a b => some (pack [(1, 0), (6, 34), (5, 0), (5, a.val), (5, b.val), (5, 0), (5, 5)])
  | .lpfL1 a b => some (pack [(1, 0), (6, 34), (5, 0), (5, a.val), (5, b.val), (5, 0), (5, 6)])
  | .lclean a b => some (pack [(1, 0), (6, 34), (5, 0), (5, a.val), (5, b.val), (5, 0), (5, 7)])
  | .linv a b => some (pack [(1, 0), (6, 34), (5, 0), (5, a.val), (5, b.val), (5, 0), (5, 8)])
  | .discard a b => some (pack [(1, 0), (6, 34), (5, 0), (5, a.val), (5, b.val), (5, 0), (5, 9)])
  | .crget d => some (pack [(1, 0), (6, 35), (5, d.val), (15, 0), (5, 0)])
  | .park d a => some (pack [(1, 0), (6, 35), (5, d.val), (5, a.val), (10, 0), (5, 1)])
  | .crfree d a => some (pack [(1, 0), (6, 35), (5, d.val), (5, a.val), (10, 0), (5, 2)])
  | .promote a b c => some (pack [(1, 0), (6, 35), (5, 0), (5, a.val), (5, b.val), (5, c.val), (5, 3)])
  | .tqry d a => some (pack [(1, 0), (6, 35), (5, d.val), (5, a.val), (10, 0), (5, 4)])
  | .crqry d a => some (pack [(1, 0), (6, 35), (5, d.val), (5, a.val), (10, 0), (5, 5)])
  | .launch d a b => some (pack [(1, 0), (6, 36), (5, d.val), (5, a.val), (5, b.val), (5, 0), (5, 0)])
  | .gbar  => some (pack [(1, 0), (6, 36), (20, 0), (5, 1)])
  | .signal a b => some (pack [(1, 0), (6, 36), (5, 0), (5, a.val), (5, b.val), (5, 0), (5, 2)])
  | .waitge d a b c => some (pack [(1, 0), (6, 36), (5, d.val), (5, a.val), (5, b.val), (5, c.val), (5, 3)])
  | .hend  => some (pack [(1, 0), (6, 36), (20, 0), (5, 4)])
  | .tzero t => some (pack [(2, 3), (4, 2), (11, 0), (15, 0), (1, 0), (6, 37), (5, t.val), (5, 0), (5, 0), (5, 0), (5, 0)])
  | .tgl l b row m => some (pack [(2, 3), (4, 2), (11, 0), (1, m.toNat), (8, 0), (6, row.toNat), (1, 0), (6, 37), (5, l.val + 4), (5, 0), (5, b.val), (5, 0), (5, 1)])
  | .top t la lb f32 oa ob ha hb za => some (pack [(2, 3), (4, 2), (11, 0), (1, 0), (1, za.toNat), (1, hb.toNat), (1, ha.toNat), (1, ob.toNat), (1, oa.toNat), (1, f32.toNat), (2, 0), (6, 0), (1, 0), (6, 37), (5, t.val), (5, la.val + 4), (5, lb.val + 4), (5, 0), (5, 2)])
  | .trd d t row colw clr => some (pack [(2, 3), (4, 2), (11, 0), (7, 0), (1, colw.toNat), (1, clr.toNat), (6, row.toNat), (1, 0), (6, 37), (5, d.val), (5, t.val), (5, 0), (5, 0), (5, 3)])
  | .twr t b row colw => some (pack [(2, 3), (4, 2), (11, 0), (7, 0), (1, colw.toNat), (1, 0), (6, row.toNat), (1, 0), (6, 37), (5, t.val), (5, 0), (5, b.val), (5, 0), (5, 4)])
  | .tfinit t a => some (pack [(2, 3), (4, 3), (12, 0), (2, 0), (6, 0), (6, 0), (1, 0), (6, 38), (5, t.val), (5, a.val), (5, 0), (5, 0), (5, 0)])
  | .tfupd t b => some (pack [(2, 3), (4, 3), (12, 0), (2, 0), (6, 0), (6, 0), (1, 0), (6, 38), (5, t.val), (5, 0), (5, b.val), (5, 0), (5, 1)])
  | .tfdnd t b dlt => some (pack [(2, 3), (4, 3), (12, 0), (2, 0), (6, dlt.toNat), (6, 0), (1, 0), (6, 38), (5, t.val), (5, 0), (5, b.val), (5, 0), (5, 2)])
  | .tfsolv d t b part => some (pack [(2, 3), (4, 3), (12, 0), (2, part.toNat), (6, 0), (6, 0), (1, 0), (6, 38), (5, d.val), (5, t.val), (5, b.val), (5, 0), (5, 3)])
  | .tfrd d t row => some (pack [(2, 3), (4, 3), (12, 0), (2, 0), (6, 0), (6, row.toNat), (1, 0), (6, 38), (5, d.val), (5, t.val), (5, 0), (5, 0), (5, 4)])
  | .tfwr t b row => some (pack [(2, 3), (4, 3), (12, 0), (2, 0), (6, 0), (6, row.toNat), (1, 0), (6, 38), (5, t.val), (5, 0), (5, b.val), (5, 0), (5, 5)])
  | .tfsave t a => some (pack [(2, 3), (4, 3), (12, 0), (2, 0), (6, 0), (6, 0), (1, 0), (6, 38), (5, t.val), (5, a.val), (5, 0), (5, 0), (5, 6)])
  | .tfload t a => some (pack [(2, 3), (4, 3), (12, 0), (2, 0), (6, 0), (6, 0), (1, 0), (6, 38), (5, t.val), (5, a.val), (5, 0), (5, 0), (5, 7)])
  | _ => none

/-- The number whose little-endian bytes these are (R3). -/
def ofBytes : List Byte → Nat
  | [] => 0
  | b :: r => b.toNat + 256 * ofBytes r

/-- The low `n` bytes of a number, lowest first (R3). -/
def toBytes : Nat → Nat → List Byte
  | 0, _ => []
  | n + 1, w => BitVec.ofNat 8 w :: toBytes n (w / 256)

/-- Decoding bytes, lowest address first: the instruction and the bytes after it. -/
noncomputable def decodeBytes (bs : List Byte) : Except DecodeErr (Instr × List Byte) :=
  let w := ofBytes bs
  let n := lengthOf w
  if bs.length < n then .error .truncated
  else match decode w with
  | .ok i => .ok (i, bs.drop n)
  | .error e => .error e

/-- The instruction of an opcode-table word of `nbits` bits: its bytes as memory holds them, then decoded. -/
noncomputable def decodeTableWord (nbits w : Nat) : Option Instr :=
  match decodeBytes (toBytes 8 (w % 2 ^ nbits)) with
  | .ok (i, _) => some i
  | .error _ => none

end Sys2Proof
end

