-- ==== Sys2Proof/Config.lean ====
section
/-! DEFINITION. What one implementation fixes, and the values the spec leaves open. A constant without a body is a
free value: nothing in Lean can evaluate it, so a statement about it holds whatever it is. -/

namespace Sys2Proof.Config

/-- CAPS0 and CAPS1 of this device (R304). -/
def caps0 : Word := 0x0FFF
def caps1 : Word := 0

/-- Clock cycles per nanosecond of TIME (R60: 1,440 cycles are 480 ns). DEDUCED, notes/assumptions/4.md. -/
def cyclesPerNs : Nat := 3

/-- N of a tile that product-mode work or a failed load left without one (R228), at the `n`-th use of a free value. -/
opaque tileN : Nat → BitVec 7

/-- What a KV instruction finds in bookkeeping lines that something else than a KV instruction has written (R65), at
the `n`-th use of a free value: a number of as many bytes as asked. -/
opaque kvMeta : Nat → Nat

/-- The stepping number in DEVID (R359). -/
opaque stepping : BitVec 8

/-- Bytes of the attestation report that the device's keys and fuses determine: serial number, ROM hash, signatures
(R371), at the `n`-th use of a free value, byte `k`. -/
opaque attestByte : Nat → Nat → Byte

/-- Bytes of the attestation report that are the same in every report of one boot: the hash of the Esmen image, and the
boot certificate (R371), by boot number and byte. -/
opaque bootByte : Nat → Nat → Byte

/-- Byte `k` of the configuration hash (R371), a function of the words that the configuration comes to. -/
opaque configHash : List Nat → Nat → Byte

/-- What the firmware of the Causeway core has left, where a debugger stops it, in integer register `k`, for `k` = 32 in
its PC, and for `k` = 0x1000 + r in CSR r (R344), at the `n`-th use of a free value. -/
opaque causewayReg : Nat → Nat → Word

/-- Whether both signatures of the staged image verify (R369), at the `n`-th use of a free value. -/
opaque signatureOk : Nat → Bool

/-- The security version number that a staged image carries (R370), at the `n`-th use of a free value. -/
opaque imageSvn : Nat → BitVec 32

/-- The DEBUG flag of the image that a reset boots (R372), at the `n`-th use of a free value. -/
opaque imageDebug : Nat → Bool

/-- What the debug module reads as the count of a loop without a bound (R291, R346). -/
opaque unboundedCount : BitVec 63

/-- A byte of host memory, such as one of the nonce that ATTEST reads (R368): bus address and the index of a free
value. -/
opaque hostByte : Nat → Nat → Byte

end Sys2Proof.Config
end

