-- ==== Sys2Proof/Machine/State.lean ====
section
/-! DEFINITION. The machine's state as plain data: the hart that moves next, the other harts, the device, and the
model's own lists of inputs and choices. A field's default is its value when the hart launches (R13, R23, R308) or the
device leaves reset (R4, R366); where the spec gives none, the docstring says DESIGN CHOICE and
notes/assumptions/2.md names it. -/

namespace Sys2Proof.Machine

/-- Why the machine stops. -/
inductive Fault where
  /-- Raised by an access of a home at a location that is neither in the physical map of R48 nor a bank nor a flash
  block. No checked access reaches it: the extent check refuses such an address first. Safe: the model stops. -/
  | hole (key : Nat)
  deriving DecidableEq, Repr

/-- Why an instruction has no meaning. -/
inductive Refusal where
  /-- Raised by the arm of `exec` of an instruction that the model does not perform. Safe: the model stops. -/
  | notModelled (mnemonic : String)
  deriving DecidableEq, Repr

/-- Memory of every home: physical bytes at their address, bank bytes and flash bytes at keys above 2^52, as a list
with rising addresses and no zero byte (`Memory.wf`). An unlisted byte reads 0 (notes/assumptions/1.md). -/
abbrev Memory := List Host.Cell

/-- The trap causes (R320). -/
inductive Cause where
  | illegal | priv | misalign | xlate | perm | extent | stripw | stripcap | stripop | lostdef | tileown | fptrap
  | break | watch | kvdesc | syscall | mcheck | tierwait
  deriving DecidableEq, Repr

/-- Kinds of access for translation (R46, R56). -/
inductive Kind where
  | fetch | load | store | amo
  deriving DecidableEq, Repr

/-- What a waiting instruction waits for: the stall kinds of R353 that the model charges. -/
inductive WaitKind where
  | result | memory | fabric | bank | ownership | tier | sluice | queueRoom | event | tile | drain
  deriving DecidableEq, Repr

/-- A hart by its gang and rank (R9, R13). -/
structure HartRef where
  gang : Nat
  rank : Nat
  deriving DecidableEq, Repr

/-- The mapping an access was translated through, for TSYNC (R62). -/
structure Mapping where
  tenant : Nat := 0
  asid : Nat := 0
  glob : Bool := false
  base : Nat := 0
  size : Nat := 0
  /-- Location of the page's first byte. -/
  home : Nat := 0
  cycle : Nat := 0
  deriving DecidableEq, Repr

/-- One part of a store (R273): bytes within one 128-byte line of one home. -/
structure Part where
  /-- Location of the first byte. -/
  key : Nat
  bytes : List Byte
  /-- Bits of the byte that a sub-byte update writes (R148, R157); none: whole bytes. -/
  mask : Option Byte := none
  /-- NONIDEM store (R49, R280). -/
  nonidem : Bool := false
  /-- Release order it waits for (R274): none, or a scope 0-4. -/
  rel : Option Nat := none
  /-- Virtual address, for reports (R342). -/
  va : Nat := 0
  map : Mapping := {}
  /-- A line of a DISCARD that has entered the queue ahead of its completion (R271): how many DISCARDs at its address have
  still to complete, its own the last of them; 0 for any other store. -/
  early : Nat := 0
  /-- The leaf of a page that was TIERED when a strip held the store: the part has no location yet (R250). -/
  tier : Option Nat := none
  /-- Time of the first attempt to drain it to a TIERED page (R57). -/
  asked : Option Nat := none
  /-- Address of the instruction that stored it, a stall's producer (R353). -/
  pc : BitVec 52 := 0
  deriving DecidableEq, Repr

/-- A held store of a strip with its element tag (R250); scalar and whole-register stores have none. -/
structure Held where
  tag : Option Nat
  part : Part
  deriving DecidableEq, Repr

/-- What VSTRIP checkpoints (R243). -/
structure Checkpoint where
  x : Vector Word 32
  vl : Nat
  ew : BitVec 2
  grp : BitVec 2
  vlmaxr : Nat
  vff : Word
  vpx : Word
  fflags : BitVec 5
  fidx : Vector Word 5
  fepc : Word
  fxsat : Bool
  rctrl : Word
  rctrh : Word
  loopActive : Bool
  loopCount : Option Nat
  addr : BitVec 52
  deriving DecidableEq, Repr

/-- One vector register with its dirty bit and valid-length tag in bytes (R11, R336). -/
structure VReg where
  val : BitVec 16384 := 0
  dirty : Bool := false
  vt : Nat := 0
  /-- Bytes with an uncorrectable error (R340). -/
  err : List Nat := []
  deriving DecidableEq, Repr

/-- The open strip of a hart (R241-R253): while it is open the hart's vector registers are what the strip sees and
`arch` keeps the architectural slices behind the written ones. -/
structure Strip where
  cp : Checkpoint
  /-- Sluice share in bytes (R251). -/
  share : Nat
  /-- Architectural slices of the registers in Written (R247). -/
  arch : List (Nat × VReg) := []
  /-- Held stores in order of entry (R250). -/
  held : List Held := []
  /-- Recorded watch matches: byte, tag, ACT (R349). -/
  watch : List (Nat × Option Nat × Bool) := []
  deriving DecidableEq, Repr

/-- The SLOOP state (R291): the body holds each instruction's address and word as captured. -/
structure LoopState where
  active : Bool := false
  start : BitVec 52 := 0
  fin : BitVec 52 := 0
  /-- none: unbounded -/
  count : Option Nat := some 0
  body : List (BitVec 52 × Nat) := []
  deriving DecidableEq, Repr

/-- HSTAT without the derived TIP (R322). -/
structure Hstat where
  dip : Bool := false
  ie : Bool := false
  ecmv : Bool := false
  pm : Bool := false
  vlost : Bool := false
  stacked : Bool := false
  deriving DecidableEq, Repr

/-- The handler-only registers and the hart's own handler state (R14, R322, R323, R329, R331). -/
structure HandlerRegs where
  hstat : Hstat := {}
  epc : BitVec 52 := 0
  ecauseIntr : Bool := false
  ecause : BitVec 8 := 0
  eaddr : Word := 0
  eelem : BitVec 48 := 0
  evl : BitVec 16 := 0
  evtype : Word := 0
  evstart : BitVec 48 := 0
  hvec : BitVec 52 := 0
  /-- PTROOT.ROOT << 15 (R55). From the tenant; DESIGN CHOICE 0 where no tenant is. -/
  ptroot : BitVec 52 := 0
  /-- From the tenant; DESIGN CHOICE 0 where no tenant is. -/
  asid : BitVec 16 := 0
  /-- VLCAP as stored (R17, R19). From the record; DESIGN CHOICE 0 where no record is. -/
  vlcap : BitVec 4 := 0
  watch : Vector Word 4 := Vector.replicate 4 0
  hscr : Word := 0
  tdl : Word := 0
  /-- The completion mask that the hart holds while ECMV = 1 (R330). -/
  hecm : BitVec 16384 := 0
  deriving DecidableEq, Repr

/-- Vector configuration (R13, R15, R18, R19). -/
structure VCfg where
  vl : Nat := 0
  ew : BitVec 2 := 0
  grp : BitVec 2 := 0
  vspec : Bool := false
  vstart : BitVec 48 := 0
  /-- VLMAXR; VLMAX of the launch VTYPE at 4 lanes and CAP 0 is 128. -/
  vlmaxr : Nat := 128
  /-- The CAP in force (R19). From the record; DESIGN CHOICE 0. -/
  cap : BitVec 4 := 0
  vff : Word := 0
  vpx : Word := 0
  /-- The element completion mask (R21, R330). -/
  ecm : BitVec 16384 := 0
  deriving DecidableEq, Repr

/-- Floating-point, fixed-point and random registers (R13, R154, R172, R187-R190, R208). -/
structure FRegs where
  fflags : BitVec 5 := 0
  frm : BitVec 3 := 0
  /-- Trap enables FRM[12:8]. -/
  fen : BitVec 5 := 0
  fxrnd : BitVec 2 := 0
  fxsat : Bool := false
  /-- FIDX_NV, FIDX_DZ, FIDX_OF, FIDX_UF, FIDX_NX in this order. -/
  fidx : Vector Word 5 := Vector.replicate 5 0
  fepc : Word := 0
  /-- FMT0, FMT0B, FMT0S, FMT1, ... FMT3S. -/
  fmt : Vector Word 12 := Vector.replicate 12 0
  rctrl : Word := 0
  rctrh : Word := 0
  rkey : Word := 0
  deriving DecidableEq, Repr

/-- One accumulator tile: 64 x 64 elements of 32 bits, element (r, c) at bit 32(64r + c), with the mode state of R228:
`n` is a free value once product-mode work has undefined it. At launch N is DESIGN CHOICE 0. -/
structure TileReg where
  val : BitVec 131072 := 0
  factor : Bool := false
  n : BitVec 7 := 0
  broken : Bool := false
  /-- Elements 64r + c with an uncorrectable error (R340). -/
  err : List Nat := []
  deriving DecidableEq, Repr

/-- Tile engine state of a hart (R11, R214, R216, R228): latch byte b of row r at bit 8(256r + b). -/
structure TileState where
  rows : BitVec 7 := 0
  cols : BitVec 7 := 0
  facN : BitVec 7 := 0
  /-- TOWN; from the grant, DESIGN CHOICE 0 where none is. -/
  town : BitVec 6 := 0
  tile : Vector TileReg 4 := Vector.replicate 4 {}
  latch : Vector (BitVec 131072) 2 := Vector.replicate 2 0
  /-- Bytes 256r + b of the latches with an uncorrectable error (R340). -/
  latchErr : Vector (List Nat) 2 := Vector.replicate 2 []
  deriving DecidableEq, Repr

/-- What a hart is (R7, R9, R13, R16, R17). All from grant and record; DESIGN CHOICE as shown where none is. -/
structure Identity where
  gang : BitVec 16 := 0
  gangsz : Nat := 1
  rank : Nat := 0
  hartid : BitVec 11 := 0
  lanes : Nat := 4
  lshare : Nat := 4
  lmin : Nat := 4
  tenant : Nat := 0
  deriving DecidableEq, Repr

/-- Residency of a hart (R9, R335, R337). -/
inductive Status where
  /-- no hart; the lane group is free -/
  | vacant
  | running
  /-- stopped at a point for a pre-emption (R335 step 1) -/
  | stopped
  | saved
  | ended
  deriving DecidableEq, Repr

/-- A copy-engine failure record (R135). -/
structure FailRec where
  num : Word
  cause : Cause
  addr : Word
  deriving DecidableEq, Repr

/-- A WAIT or WAITGE that waits: where it stands, which of the two, and its register operands (R297, R316). -/
structure PendWait where
  pc : BitVec 52
  ge : Bool
  d : Reg
  a : Reg
  b : Reg
  c : Reg
  deriving DecidableEq, Repr

/-- A unit-based instruction stopped part-way (R77): where it stands, what its units so far count for the result, steps
done inside the next unit, and the mode in which it was stopped. -/
structure UnitCount where
  pc : BitVec 52
  vstart : Nat
  count : Nat
  sub : Nat
  handler : Bool := false
  deriving DecidableEq, Repr

/-- Events, copy engines and barrier of a hart (R124, R135, R297, R314). -/
structure SyncState where
  evt : Bool := false
  /-- Location of the monitored line's first byte. -/
  mon : Option Nat := none
  /-- Its address, as the debug module shows it (R346). -/
  monAddr : BitVec 52 := 0
  cseq : Vector Word 4 := Vector.replicate 4 0
  fail : Vector (Option FailRec) 4 := Vector.replicate 4 none
  barGen : Nat := 0
  arrived : Bool := false
  /-- Promotion waits of the present instruction: page and time of first attempt (R57). -/
  tierClock : List (Nat × Nat) := []
  /-- The promotion wait that the present instruction is in: element, address, location of the leaf (R57). -/
  tierAsk : Option (Nat × Nat × Nat) := none
  /-- The WAIT or WAITGE that the hart is in. -/
  pendWait : Option PendWait := none
  /-- VSTART at the start of the present vector instruction, kept over its waits (R47). -/
  fromElem : Option Nat := none
  /-- Unit-based instructions stopped part-way (R77). -/
  units : List UnitCount := []
  /-- TINVs issued since the last TSYNC: kind 0 VA, 1 ASID, 2 ALL; operand; ASID; cycle (R62). -/
  tinvs : List (Nat × Nat × Nat × Nat) := []
  deriving DecidableEq, Repr

/-- A load element that has bound ahead of its instruction's turn (R266), or whose fault a speculative strip has
suppressed or recorded (R248, R249). -/
structure BoundElem where
  el : Nat
  /-- The accesses that have bound: virtual address and length. -/
  vas : List (Nat × Nat) := []
  /-- Their bytes: location and value of each part, in order. -/
  parts : List (Nat × List Byte) := []
  /-- The cause recorded in place of a value, with its address. -/
  fault : Option (Cause × Word) := none
  /-- TIERWAIT recorded at the element: the leaf, and the time of the attempt (R57). -/
  asked : Option (Nat × Nat) := none
  /-- A condition of R268 holds: the element is unbound before it is used. -/
  stale : Bool := false
  /-- The stores of older instructions that gave it their data before they were entered (R267): address of the
  instruction, location and length. -/
  knew : List (BitVec 52 × Nat × Nat) := []
  /-- Locations of its bytes that other agents have written since it bound (R268). -/
  later : List Nat := []
  /-- A number of its own, and those of the elements that it derives from (R268). -/
  id : Nat := 0
  deps : List Nat := []
  deriving DecidableEq, Repr

/-- A look ahead of the hart along a path, in which loads that have not bound give guessed bytes: the model's own means
of telling what an address depends on (R266, R267). No state between steps holds one. -/
structure Look where
  guess : List Byte := []
  /-- The element looked for. -/
  aim : Option Nat := none
  /-- It is to bind, or only its accesses are asked for. -/
  real : Bool := false
  /-- A fault of the element is recorded (R249), or suppressed (R248). -/
  record : Bool := false
  /-- Locations that older loads which have not bound read. -/
  older : List Nat := []
  /-- Locations of bytes that were guessed. -/
  missed : List Nat := []
  /-- What was found: the accesses, the element. -/
  asked : List (Nat × Nat) := []
  got : Option BoundElem := none
  deriving DecidableEq, Repr

/-- An issued load whose home lies on another device (R263, R276): its instruction and element, location and length;
once it has arrived, its bytes, or none where the device did not answer (R48). -/
structure RemoteLoad where
  pc : BitVec 52
  el : Nat
  key : Nat
  len : Nat
  bytes : Option (List Byte) := none
  deriving DecidableEq, Repr

/-- An instruction in the run-ahead access stream (R263): its address and the elements bound. -/
structure Issued where
  pc : BitVec 52
  elems : List BoundElem := []
  /-- Its trace record, of a transfer in a speculative strip, is written already (R352). -/
  traced : Bool := false
  deriving DecidableEq, Repr

/-- Queues and streams of a hart (R263). -/
structure MemState where
  strip : Option Strip := none
  /-- The VSTRIPs of the strips that interrupts have abandoned and to which no return has led yet, the latest first
(R260). -/
  resumeHold : List (BitVec 52) := []
  /-- The hart has just been returned to this VSTRIP, which opens a strip with the hold of R260. -/
  holdNext : Option (BitVec 52) := none
  /-- The hold in force: cycle at which it ends (R260). -/
  hold : Option Nat := none
  storeQ : List Part := []
  /-- Fabric queues (R263): device and drained store, oldest first; behind them stand the issued loads of `loadQ`, since
  no store of the hart drains behind a load that has not arrived (R265). -/
  fabricQ : List (Nat × Part) := []
  loadQ : List (Nat × RemoteLoad) := []
  /-- The run-ahead access stream from the hart's next instruction on (R263): the path that it runs ahead on. -/
  bound : List Issued := []
  look : Option Look := none
  /-- The loads of the hart's present instruction that have arrived at another device (R276). -/
  landed : List RemoteLoad := []
  /-- The DISCARDs whose lines have entered the store queue ahead of their completion (R266, R271), by address, in program
  order. -/
  early : List (BitVec 52) := []
  /-- Stores queued before the entry into the handler have still to drain (R281, R324). -/
  entryDrain : Bool := false
  /-- The handler's accesses have still to be performed before the task goes on (R328). -/
  retDrain : Bool := false
  /-- A held failure of a drained remote store (R342). -/
  fabFail : Option Word := none
  /-- A released store that a TIERED page has not taken within 10 ms (R57), held for report as a fabric failure is. -/
  tierFail : Option Word := none
  /-- Contents of parcels that the hart has fetched since the last FENCE: location and content (R43). -/
  ibuf : List (Nat × Nat) := []
  /-- Memory as it stood at the hart's last FENCE of scope core or wider, or at its launch: what a fetch may still give
  (R43). -/
  codeMem : Memory := []
  /-- A watch match to be acted on after the element or the instruction (R349): byte and ACT. -/
  watchHit : Option (Nat × Bool) := none
  deriving DecidableEq, Repr

/-- One entry of the stall-pair table (R354). -/
structure StallEntry where
  lost : BitVec 64
  events : BitVec 32
  elag : BitVec 16
  cpc : BitVec 52
  kind : BitVec 4
  ppc : BitVec 52
  deriving DecidableEq, Repr

/-- Debug registers and stall accounting of a hart (R345-R348, R354). -/
structure DebugState where
  ebrk : Bool := false
  step : Bool := false
  stepie : Bool := false
  ghalt : Bool := false
  cause : BitVec 4 := 0
  dpc : BitVec 52 := 0
  delem : BitVec 48 := 0
  didxSel : BitVec 8 := 0
  didxIdx : BitVec 16 := 0
  halted : Bool := false
  /-- A halt that the next point takes, with its CAUSE. -/
  haltReq : Option (BitVec 4) := none
  /-- A single step is running. -/
  stepping : Bool := false
  table : List StallEntry := []
  /-- Counters 128-131. -/
  counter : Vector Word 4 := Vector.replicate 4 0
  /-- The stall going on: its kind, its producer and the cycle from which it is not yet charged. -/
  stall : Option (WaitKind × BitVec 52 × Nat) := none
  /-- The cycle of the step in which the hart last waited. -/
  waited : Option Nat := none
  deriving DecidableEq, Repr

/-- A hart (R11). -/
structure Hart where
  status : Status := .vacant
  id : Identity := {}
  handler : Bool := false
  x : Vector Word 32 := Vector.replicate 32 0
  /-- From the record; DESIGN CHOICE 0 where none is. -/
  pc : BitVec 52 := 0
  /-- Bits 63:52 of the target that a transfer or the last advance left; nonzero makes the fetch raise XLATE (R50,
  R290). -/
  pcHi : BitVec 12 := 0
  v : Vector VReg 32 := Vector.replicate 32 {}
  vc : VCfg := {}
  f : FRegs := {}
  t : TileState := {}
  hr : HandlerRegs := {}
  lp : LoopState := {}
  sy : SyncState := {}
  ms : MemState := {}
  db : DebugState := {}
  deriving DecidableEq, Repr

/-! ### The device -/

/-- An extent-table entry of a source (R58, R362): tenants 0-31, domain devices 0x100-0x1FF, CXL ports 0x200-0x203. -/
structure Extent where
  src : Nat
  idx : Nat
  base : Nat
  last : Nat
  w : Bool
  y : Bool
  v : Bool
  deriving DecidableEq, Repr

/-- Bank modes (R113). -/
inductive BankMode where
  | cache | scratch | fifo
  deriving DecidableEq, Repr

/-- A granted bank (R111-R116); its bytes stand in `mem`. A bank that is not listed is an L1 way. -/
structure Bank where
  die : Nat
  core : Nat
  num : Nat
  gang : Nat
  mode : BankMode := .scratch
  trk : Bool := false
  /-- Slot state code of R114. -/
  st : Nat := 0
  hold : Bool := false
  fifo : List (BitVec 1024) := []
  deriving DecidableEq, Repr

/-- Forms of a copy command (R126). -/
inductive CpyForm where
  | lin | twoD | gath | conv | fill
  deriving DecidableEq, Repr

/-- An issued copy command (R124-R133) with everything captured at issue (R129). -/
structure Cmd where
  owner : HartRef
  die : Nat
  core : Nat
  eng : Nat
  num : Word
  form : CpyForm
  dst : Word
  src : Word
  cnt : Word
  aux : Word
  tenant : Nat
  root : BitVec 52
  asid : BitVec 16
  fmt : Word := 0
  fmtB : Word := 0
  fmtS : Word := 0
  frm : BitVec 3 := 0
  /-- Trap enables FRM[12:8]. -/
  fen : BitVec 5 := 0
  rkey : Word := 0
  rctrl : Word := 0
  rctrh : Word := 0
  hartid : BitVec 11 := 0
  gangsz : Nat := 1
  rank : Nat := 0
  /-- Address of its CPY, a stall's producer (R353). -/
  pc : BitVec 52 := 0
  /-- Destination lines not yet written: line of the home and line of the virtual address (R131). -/
  lines : List (Nat × Nat) := []
  /-- Source lines read: line of the virtual address and its 128 bytes (R132). -/
  got : List (Nat × List Byte) := []
  /-- First attempts at tiered source pages (R57, R135). -/
  tierClock : List (Nat × Nat) := []
  /-- Banks named as destination and as source, as (core, number) on the die. -/
  dbanks : List (Nat × Nat) := []
  sbanks : List (Nat × Nat) := []
  map : List Mapping := []
  deriving DecidableEq, Repr

/-- A translation kept in a TLB (R59). `die = 8` stands for no core: an L2 TLB entry is kept per die with core 64. -/
structure TlbEntry where
  die : Nat
  core : Nat
  tenant : Nat
  asid : Nat
  base : Nat
  size : Nat
  pte : Word
  ptea : Nat
  deriving DecidableEq, Repr

/-- A page move going on (R93): the leaf and where the page goes. -/
structure Move where
  /-- Location of the leaf entry. -/
  ptea : Nat
  tenant : Nat
  /-- Destination tier: 0 HBM, 1 CXL, 2 flash. -/
  tier : Nat
  /-- Destination frame or flash block. -/
  dest : Nat
  /-- CR slot it belongs to, if any. -/
  slot : Option Nat := none
  /-- A request of R97, outside the limit of four. -/
  extra : Bool := false
  /-- Number of the PROMOTE that asked for it, for a page on its way into the expert cache (R99). -/
  expert : Option Nat := none
  deriving DecidableEq, Repr

/-- A promotion request (R57), or a page of an expert region to be cached (R99), waiting at the Peat engine. -/
structure PromReq where
  ptea : Nat
  tenant : Nat
  /-- Page-table root and virtual page it was asked for. -/
  root : BitVec 52
  asid : Nat
  va : Nat
  /-- Number of the PROMOTE that asked for it, for a page of an expert region. -/
  region : Option Nat := none
  deriving DecidableEq, Repr

/-- CR states (R92). -/
inductive CrState where
  | free | open | parked | waking | launched | failed
  deriving DecidableEq, Repr

/-- A continuation record's entry in the engine's own table (R89). -/
structure Cr where
  slot : Nat
  tenant : Nat
  st : CrState := .free
  tier : Nat := 0
  queue : Nat := 0
  asid : BitVec 16 := 0
  root : BitVec 52 := 0
  ptime : Nat := 0
  wtime : Nat := 0
  /-- Timers: due TIME in ns of T_hbm and of T_cxl (R94). -/
  thbm : Option Nat := none
  tcxl : Option Nat := none
  /-- The timer in use waits in the overflow list (R94). -/
  overflow : Bool := false
  /-- Pages listed at the last PARK or re-read at wake: layer and virtual address (R104). -/
  pages : List (Nat × Nat) := []
  /-- A listed page has failed after launch (R92). -/
  pageFailed : Bool := false
  /-- A demotion pass going on: to flash or to CXL, and the pages it has still to visit (R94). -/
  pass : Option (Bool × List (Nat × Nat)) := none
  /-- The record has been read again after the wake (R96 step 2). -/
  staged : Bool := false
  /-- Listed pages whose promotion has not been issued, in the order of R96. -/
  todo : List (Nat × Nat) := []
  deriving DecidableEq, Repr

/-- A page of an expert region cached in HBM, with its frames (R99). -/
structure ExpertPage where
  tenant : Nat
  ptea : Nat
  cxlFrame : Nat
  hbmFrame : Nat
  /-- Number of the PROMOTE that named its region last: pages with one number are a region. -/
  order : Nat
  deriving DecidableEq, Repr

/-- An entry of the next-layer predictor (R99). -/
structure Predict where
  tenant : Nat
  layer : Nat
  expert : Nat
  base : Nat
  len : Nat
  root : BitVec 52
  asid : BitVec 16
  /-- successor layer, expert, confidence; oldest first -/
  succ : List (Nat × Nat × Nat) := []
  deriving DecidableEq, Repr

/-- A report in a tenant's ring (R361), newest last; the fields in the order of the record. -/
structure Report where
  time : Nat := 0
  eaddr : Word := 0
  epc : Word := 0
  eelem : Nat := 0
  cause : Nat := 0
  gang : Nat := 0
  queue : Nat := 0
  index : Nat := 0
  code : Nat := 0
  kind : Nat := 0
  deriving DecidableEq, Repr

/-- A tenant as Esmen holds it (R17, R55, R68, R74, R91, R360, R402). -/
structure Tenant where
  num : Nat
  /-- Registered by TCREATE (R368). -/
  live : Bool := false
  root : BitVec 52 := 0
  asid : BitVec 16 := 0
  cap : BitVec 4 := 0
  poolBase : Nat := 0
  poolSize : Nat := 0
  /-- Block IDs that Esmen holds free. -/
  freeIds : List Nat := []
  crGroups : List Nat := []
  thbm : BitVec 32 := 200
  tcxl : BitVec 32 := 30000
  rdepth : BitVec 8 := 1
  excap : BitVec 16 := 0
  /-- Free frames, PA / 2^16: HBM promotion list and CXL spill list (R402). -/
  hbmFrames : List Nat := []
  cxlFrames : List Nat := []
  /-- Free flash blocks, the handle of R93. -/
  flashFree : List Nat := []
  /-- A demotion has been started because the HBM list is empty (R402). -/
  coldAsked : Bool := false
  wrej : Word := 0
  rhead : Nat := 0
  rtail : Nat := 0
  rlost : Word := 0
  /-- Report slots 0-15 of the page. -/
  ring : List (Nat × Report) := []
  /-- Times that MSI-X vector 0 of the tenant's function has been raised (R360). -/
  msix : Nat := 0
  /-- Last eight hints: layer and expert (R99), newest first. -/
  hints : List (Nat × Nat) := []
  mbArg : Vector Word 4 := Vector.replicate 4 0
  mbDone : Bool := false
  mbStatus : BitVec 8 := 0
  deriving DecidableEq, Repr

/-- A queue (R300, R301). -/
structure Queue where
  num : Nat
  base : BitVec 52 := 0
  dies : BitVec 8 := 0
  tenant : Nat := 0
  pmax : Nat := 0
  log2n : Nat := 0
  en : Bool := false
  tail : BitVec 32 := 0
  head : BitVec 32 := 0
  valid : Bool := false
  ovf : Bool := false
  index : BitVec 32 := 0
  code : BitVec 8 := 0
  /-- The HEAD at which a record stands and TIME in ns at which it reached it (R306). -/
  reached : Option (BitVec 32 × Nat) := none
  /-- The record at HEAD once it has passed the checks of R303, and HANDLER of its code header (R326). -/
  checked : Option (Nat × Word) := none
  /-- First attempts of the checks at tiered pages (R57). -/
  tierClock : List (Nat × Nat) := []
  /-- Value last read at DEP (R305). -/
  depSeen : Option Word := none
  /-- Page-table root and ASID of a relaunched record (R318), by ring index. -/
  relaunch : List (Nat × BitVec 52 × BitVec 16) := []
  deriving DecidableEq, Repr

/-- A gang (R9, R299-R311, R335). -/
structure Gang where
  id : Nat
  die : Nat
  size : Nat
  tenant : Nat
  ctr : Word
  inc : Word
  prio : Nat
  queue : Nat
  index : Nat
  headTime : Nat
  /-- Order of grant, for the choice of victims (R310). -/
  grantNo : Nat
  /-- A stop for a save has been asked for; true for a core retirement (R335, R338). -/
  stopReq : Option Bool := none
  saved : Bool := false
  /-- Every hart has ended; true: the completion add of R311 is still to be made. -/
  ending : Option Bool := none
  /-- Root and ASID of the hart whose HEND ended the gang (R311). -/
  endRoot : BitVec 52 := 0
  endAsid : BitVec 16 := 0
  endHart : BitVec 11 := 0
  /-- First attempts of the completion add at tiered pages (R57). -/
  addClock : List (Nat × Nat) := []
  /-- Saved bank images (R123) and copy commands to be issued again (R136). -/
  savedBanks : List Bank := []
  savedMem : Memory := []
  /-- Errors recorded in the saved bank images (R338, R340). -/
  savedErrs : List (Nat × Nat) := []
  savedCmds : List Cmd := []
  deriving DecidableEq, Repr

/-- A core's allocator stash (R74). -/
structure Stash where
  die : Nat
  core : Nat
  tenant : Nat := 0
  ids : List Nat := []
  /-- IDs asked for by the refill request outstanding, 0 for none, and the tenant they are for. -/
  asked : Nat := 0
  askedFor : Nat := 0
  /-- The last reply reported the pool dry. -/
  dry : Bool := false
  deriving DecidableEq, Repr

/-- A write-watch entry (R350). -/
structure WriteWatch where
  die : Nat
  idx : Nat
  pa : BitVec 52 := 0
  en : Bool := false
  agents : BitVec 8 := 0
  act : Bool := false
  gang : BitVec 16 := 0
  len : BitVec 8 := 0
  hitV : Bool := false
  hitKind : BitVec 3 := 0
  hitSrc : BitVec 16 := 0
  hitCount : BitVec 32 := 0
  hitTime : Word := 0
  deriving DecidableEq, Repr

/-- Trace unit of a die (R352): buffer as the debug module set it, and what it has written. -/
structure TraceUnit where
  die : Nat
  base : Nat := 0
  /-- Records the buffer holds; 0 turns tracing off. -/
  size : Nat := 0
  /-- Harts traced, by HARTID[7:0]. -/
  harts : List Nat := []
  sper : Nat := 0
  /-- Next record, and records not yet taken out. -/
  wptr : Nat := 0
  used : Nat := 0
  dropped : Nat := 0
  /-- Number of the sample period last written. -/
  sampled : Nat := 0
  deriving DecidableEq, Repr

/-- An access-memory command of a debug module (R347): the hart by hartsel, whether the address is virtual, whether it
writes, the log2 of its bytes, the address and the data. -/
structure DmAccess where
  sel : Nat
  virt : Bool
  wr : Bool
  size : Nat
  addr : Word
  v : Word
  deriving DecidableEq, Repr

/-- A die's debug module, 8 for the I/O die: the outcome of the last abstract command, its data and its address argument
(R344, R346), the memory access that waits, and what dmcontrol holds; reset values are those of the standard that R344
names (notes/assumptions/54.md). -/
structure DebugModule where
  die : Nat
  cmderr : BitVec 3 := 0
  data : Word := 0
  arg : Word := 0
  pending : Option DmAccess := none
  sel : Nat := 0
  active : Bool := false
  resumeAck : Bool := false
  /-- Harts of the die, by HARTID[7:0], whose reset with the device a debugger has acknowledged. -/
  acked : List Nat := []
  deriving DecidableEq, Repr

/-- The Causeway core (R1, R344): an RV64 hart, of which the debug module of the I/O die shows the integer registers,
the PC, the machine-level CSRs and its DCSR. What its firmware does stands in the events of Esmen
(notes/assumptions/55.md). At reset 0, DCSR apart: DESIGN CHOICE. -/
structure Causeway where
  x : Vector Word 32 := Vector.replicate 32 0
  pc : Word := 0
  halted : Bool := false
  /-- Its machine-level CSRs, by number; one not listed reads 0. -/
  csrs : List (Nat × Word) := []
  /-- DCSR of the standard that R344 names: version 4, machine mode. -/
  dcsr : BitVec 32 := 0x40000003
  deriving DecidableEq, Repr

/-- Physical parts of a die that fail (R338, R339, R341). -/
structure DieParts where
  die : Nat
  spares : Nat := 4
  absent : List Nat := []
  /-- L2 ways disabled: slice and way (R341). -/
  l2off : List (Nat × Nat) := []
  deriving DecidableEq, Repr

/-- An Aqtex link (R342): at its full width, at a reduced one, or removed. -/
inductive LinkState where
  | full | reduced | removed
  deriving DecidableEq, Repr

/-- The mailbox command that runs (R359, R368): its number, the arguments as they stood when it began, whether its
effect has been made, and the cycle of that, for the synchronisation that R58 and R367 ask for before it is done. -/
structure MbRun where
  code : Nat
  args : Vector Word 4
  made : Bool := false
  since : Nat := 0
  deriving DecidableEq, Repr

/-- Host-facing registers (R356-R372). -/
structure HostRegs where
  semGen : BitVec 32 := 0
  semOwner : Bool := false
  semHeld : Bool := false
  hdeny : Word := 0
  ready : Bool := false
  dbgopen : Bool := false
  fail : Bool := false
  /-- Running SVN; DESIGN CHOICE 0, notes/assumptions/11.md. -/
  svn : BitVec 32 := 0
  minsvn : Word := 0
  mbArg : Vector Word 4 := Vector.replicate 4 0
  mbRun : Option MbRun := none
  mbDone : Bool := false
  mbStatus : BitVec 8 := 0
  domEn : Bool := false
  domId : BitVec 8 := 0
  peers : BitVec 256 := 0
  /-- The staged image: its SVN and whether it boots at the next reset. -/
  staged : Option (BitVec 32 × Bool) := none
  bootNo : Nat := 0
  reports : Nat := 0
  deriving DecidableEq, Repr

/-- The device apart from its harts. -/
structure Device where
  mem : Memory := []
  /-- Uncorrectable-error records: first location and length (R340). -/
  errs : List (Nat × Nat) := []
  extents : List Extent := []
  tenants : List Tenant := []
  queues : List Queue := []
  gangs : List Gang := []
  grantNo : Nat := 0
  banks : List Bank := []
  stashes : List Stash := []
  cmds : List Cmd := []
  tlb : List TlbEntry := []
  moves : List Move := []
  proms : List PromReq := []
  crs : List Cr := []
  crpa : Nat := 0
  experts : List ExpertPage := []
  expertNo : Nat := 0
  predictor : List Predict := []
  writeWatch : List WriteWatch := []
  trace : List TraceUnit := []
  parts : List DieParts := []
  hosts : HostRegs := {}
  /-- Domain devices whose links have failed, and links that run at reduced width (R342). -/
  linkDown : List Nat := []
  linkSlow : List Nat := []
  /-- The twelve Aqtex links (R1, R342). -/
  links : Vector LinkState 12 := Vector.replicate 12 .full
  /-- Domain devices toward which the next access fails although the link retried it (R342). -/
  failNext : List Nat := []
  /-- Corrected errors counted toward a threshold (R340). -/
  corrected : List (Place × Nat) := []
  retiredFrames : List Nat := []
  /-- Lines whose metadata KV instructions have written, and those whose metadata something else has written since
(R65). -/
  kvLines : List Nat := []
  kvForeign : List Nat := []
  dms : List DebugModule := []
  causeway : Causeway := {}
  /-- What the last inbound read returned to its source (R362). -/
  reply : Option (Source × List Byte) := none
  /-- Attestation reports written to host memory: bus address and bytes (R368, R371). -/
  hostOut : List (Word × List Byte) := []
  /-- Tenants whose function-level reset waits for the synchronisation of R62, with the cycle of the reset (R367). -/
  resets : List (Nat × Nat) := []
  /-- Esmen's log of the MCHECKs raised: TIME and EADDR, newest first (R340). -/
  mchecks : List (Nat × Word) := []
  /-- The die for which a candidate has reserved (R306): die and queue, or die and gang of the resume list. -/
  reserved : List (Nat × Bool × Nat) := []
  deriving DecidableEq, Repr

/-- The machine. -/
structure State where
  /-- The hart that moves next. -/
  h : Hart := {}
  others : List Hart := []
  dev : Device := {}
  /-- Inputs to come: the cycle from which each may be taken, and the event. -/
  inbox : List (Nat × Instr) := []
  /-- Choices that the spec leaves to the device, one number for each; none left means 0, the default. -/
  oracle : List Nat := []
  /-- Cycles that the steps take beyond one; none left means 0. -/
  pace : List Nat := []
  cycle : Nat := 0
  /-- Index of the next free value. -/
  tick : Nat := 0
  /-- Within a step that looks ahead of a hart (R266): the words on its path and the instructions they hold. -/
  issue : List (Nat × Instr) := []
  /-- Within a step: the event that it takes has to wait and is to be tried again (R131, R278). -/
  retry : Bool := false
  deriving DecidableEq, Repr

/-- The machine right after reset (R366): no hart resident, no queue enabled, nothing in memory, four spare cores on
each die, READY = 0. -/
def State.reset : State :=
  { dev := { parts := [{ die := 0 }, { die := 1 }, { die := 2 }, { die := 3 }, { die := 4 }, { die := 5 },
      { die := 6 }, { die := 7 }] } }

end Sys2Proof.Machine
end

