-- ==== Sys2Proof/Machine/Ops.lean ====
section
/-! DEFINITION. The named operations over memory, registers and the machine: reading and writing memory cells, the
scalar and vector registers, how an instruction ends, taking a trap or an interrupt (R324) and returning (R328). -/

namespace Sys2Proof.Machine

/-! ### Memory -/

/-- The byte at a location; an unlisted one reads 0 (notes/assumptions/1.md). -/
def Memory.get : Memory → Nat → Byte
  | [], _ => 0
  | (k, b) :: r, a => if a < k then 0 else if a = k then b else Memory.get r a

/-- Writing a byte keeps the canonical form. -/
def Memory.set : Memory → Nat → Byte → Memory
  | [], a, b => if b = 0 then [] else [(a, b)]
  | (k, c) :: r, a, b =>
    if a < k then (if b = 0 then (k, c) :: r else (a, b) :: (k, c) :: r)
    else if a = k then (if b = 0 then r else (a, b) :: r)
    else (k, c) :: Memory.set r a b

/-- Rising addresses from `lo` on, no zero byte. -/
def Memory.wfFrom : Nat → Memory → Bool
  | _, [] => true
  | lo, (k, b) :: r => lo ≤ k && b != 0 && Memory.wfFrom (k + 1) r

/-- The canonical form of a memory. -/
def Memory.wf (m : Memory) : Bool := m.wfFrom 0

/-- `n` bytes from `a` on. -/
def Memory.getBytes (m : Memory) (a : Nat) : Nat → List Byte
  | 0 => []
  | n + 1 => m.get a :: Memory.getBytes m (a + 1) n

/-- Writes bytes from `a` on. -/
def Memory.setBytes (m : Memory) (a : Nat) : List Byte → Memory
  | [] => m
  | b :: r => Memory.setBytes (m.set a b) (a + 1) r

/-- The little-endian number of `n` bytes at `a` (R3). -/
def Memory.getNat (m : Memory) (a n : Nat) : Nat := ofBytes (m.getBytes a n)

/-! ### Numbers -/

/-- x[n-1:0] read as a signed number (R46). -/
def sext (n x : Nat) : Int := if 2 * (x % 2 ^ n) < 2 ^ n then (x % 2 ^ n : Nat) else (x % 2 ^ n : Nat) - 2 ^ n

/-- A number modulo 2^n. -/
def wrap (n : Nat) (x : Int) : Nat := (x % (2 ^ n : Nat)).toNat

/-- Bits [lo+n-1 : lo] of a number. -/
def bits (x lo n : Nat) : Nat := x / 2 ^ lo % 2 ^ n

/-- `x` with bits [lo+n-1 : lo] replaced. -/
def putBits (x lo n y : Nat) : Nat := x - bits x lo n * 2 ^ lo + y % 2 ^ n * 2 ^ lo

/-- The least multiple of `m` that is not below `x`. -/
def roundUp (x m : Nat) : Nat := (x + m - 1) / m * m

/-- The number of ones among the low `n` bits. -/
def popcount : Nat → Nat → Nat
  | 0, _ => 0
  | n + 1, x => x % 2 + popcount n (x / 2)

/-! ### Scalar registers -/

/-- X(r): register 0 reads zero (R11). -/
def Hart.getX (h : Hart) (r : Reg) : Word := if r = 0 then 0 else h.x[r]

/-- Writing X(r): a write to register 0 is discarded (R11). -/
def Hart.setX (h : Hart) (r : Reg) (v : Word) : Hart := if r = 0 then h else { h with x := h.x.set r v }

def State.getX (s : State) (r : Reg) : Word := s.h.getX r

def State.setX (s : State) (r : Reg) (v : Word) : State := { s with h := s.h.setX r v }

def State.setPc (s : State) (p : BitVec 52) : State := { s with h := { s.h with pc := p } }

/-- Device time in nanoseconds (R13; notes/assumptions/4.md). -/
def State.time (s : State) : Nat := s.cycle / Config.cyclesPerNs

/-! ### Vector registers -/

/-- Element width in bits (R15). -/
def ewBits (c : BitVec 2) : Nat := 8 * 2 ^ c.toNat

/-- Group factor (R15). -/
def grpOf (c : BitVec 2) : Nat := 2 ^ c.toNat

/-- VLEN of a group of `lanes` lanes under CAP (R18). -/
def vlenOf (lanes cap : Nat) : Nat := min (1024 * lanes) (1024 * 2 ^ cap)

/-- Effective VLEN in bits (R18). -/
def Hart.vlen (h : Hart) : Nat := vlenOf h.id.lanes h.vc.cap.toNat

def Hart.ew (h : Hart) : Nat := ewBits h.vc.ew
def Hart.grp (h : Hart) : Nat := grpOf h.vc.grp

/-- VLMAX (R18). -/
def Hart.vlmax (h : Hart) : Nat := h.vlen / h.ew * h.grp

/-- Element slots S (R18). -/
def Hart.slots (h : Hart) : Nat := h.id.lanes * 64 / h.ew

/-- A register number of a group, past v31 wrapping (no checked group does). -/
def vreg (n : Nat) : Reg := Fin.ofNat 32 n

/-- Elem(v, i, w) (R46): element `i` of `w` bits of the group that starts at `v`. -/
def Hart.elem (h : Hart) (v i w : Nat) : Nat :=
  let per := h.vlen / w
  bits (h.v[vreg (v + i / per)]).val.toNat (i % per * w) w

/-- Failed bytes that a write of `w` bits at bit `lo` does not cover (R340). -/
def uncovered (err : List Nat) (lo w : Nat) : List Nat :=
  err.filter fun e => !(decide (lo ≤ 8 * e) && decide (8 * e + 8 ≤ lo + w))

/-- A vector register after a write of `w` bits at bit `lo`: dirty, and VT covers the bytes written (R336). -/
def VReg.write (r : VReg) (lanes vlen lo w x : Nat) : VReg :=
  { val := BitVec.ofNat 16384 (putBits r.val.toNat lo w x)
    dirty := true
    vt := max r.vt (min (roundUp ((lo + w + 7) / 8) (8 * lanes)) (vlen / 8))
    err := uncovered r.err lo w }

/-- Zeroing does not raise VT (R336). -/
def VReg.clear (r : VReg) (lo w : Nat) : VReg :=
  { r with
    val := BitVec.ofNat 16384 (putBits r.val.toNat lo w 0)
    dirty := true
    err := uncovered r.err lo w }

/-- SetElem(v, i, w, x) (R46). -/
def Hart.setElem (h : Hart) (v i w x : Nat) : Hart :=
  let per := h.vlen / w
  let r := vreg (v + i / per)
  { h with v := h.v.set r ((h.v[r]).write h.id.lanes h.vlen (i % per * w) w x) }

/-- SetElem with 0 as the step of R47 does it. -/
def Hart.zeroElem (h : Hart) (v i w : Nat) : Hart :=
  let per := h.vlen / w
  let r := vreg (v + i / per)
  { h with v := h.v.set r ((h.v[r]).clear (i % per * w) w) }

/-- Writing a whole register of `n` bits sets VT to VLEN / 8 (R336). -/
def Hart.setWhole (h : Hart) (r : Reg) (x : Nat) : Hart :=
  { h with v := h.v.set r { val := BitVec.ofNat 16384 (x % 2 ^ h.vlen), dirty := true, vt := h.vlen / 8 } }

/-- Bit i of a mask register (R140). -/
def Hart.maskBit (h : Hart) (r : Reg) (i : Nat) : Bool := (h.v[r]).val.getLsbD i

/-- Shrinking VLEN makes the contents beyond it zero (R19). -/
def Hart.cutVlen (h : Hart) (vlen : Nat) : Hart :=
  { h with v := h.v.map fun r => { r with val := BitVec.ofNat 16384 (r.val.toNat % 2 ^ vlen), vt := min r.vt (vlen / 8) } }

/-! ### How an instruction goes on -/

/-- How a meaning leaves its instruction before completing it. -/
inductive Stop where
  /-- A trap (R46, R320): cause, element and address. -/
  | trap (c : Cause) (elem : Nat) (addr : Word)
  /-- A trap of an instruction that is one unit: VSTART stays 0 (R230). -/
  | trapUnit (c : Cause) (elem : Nat) (addr : Word)
  /-- A trap of a unit of several elements that resumes at the unit's first element `start` (R159, R161). -/
  | trapFrom (c : Cause) (start elem : Nat) (addr : Word)
  /-- A wait (R46): the instruction runs again at the next step. With the address of the hart's own instruction that it
  waits for, or 0 (R353). -/
  | wait (k : WaitKind) (on : BitVec 52)
  /-- A point inside the instruction (R334): what is done stays done. -/
  | pause
  /-- The hart has left the instruction for good: a halt or the end of its gang. -/
  | left
  | fault (f : Fault)
  deriving DecidableEq, Repr

/-- Meanings of the longer instructions: they change the state as they go, and may stop. -/
abbrev M := ExceptT Stop (StateM State)

def getH : M Hart := do return (← get).h
def modH (f : Hart → Hart) : M Unit := modify fun s => { s with h := f s.h }
def getD : M Device := do return (← get).dev
def modD (f : Device → Device) : M Unit := modify fun s => { s with dev := f s.dev }

def trap {α : Type} (c : Cause) (elem : Nat) (addr : Word) : M α := throw (.trap c elem addr)
def wait {α : Type} (k : WaitKind) (on : BitVec 52 := 0) : M α := throw (.wait k on)

/-- ILLEGAL, PRIV, STRIPOP and TILEOWN of the instruction as a whole (R41). -/
def trapInstr {α : Type} (c : Cause) : M α := do
  let h ← getH
  trap c 0 (h.pc.setWidth 64)

/-- A choice the spec leaves open; 0 when the list of choices is used up (notes/assumptions/5.md). -/
def choose : M Nat := do
  let s ← get
  match s.oracle with
  | [] => return 0
  | c :: r => set { s with oracle := r }; return c

/-- The index of the next free value. -/
def freshTick : M Nat := do
  let s ← get
  set { s with tick := s.tick + 1 }
  return s.tick

def getTime : M Nat := do return (← get).time

def readX (r : Reg) : M Word := do return (← getH).getX r
def writeX (r : Reg) (v : Word) : M Unit := modH (·.setX r v)

/-! ### Trace (R352) -/

/-- The two words of a trace record of the moving hart. -/
def Hart.traceWord (h : Hart) (kind elem data : Nat) : Nat :=
  h.pc.toNat * 2 ^ 76 + elem % 2 ^ 16 * 2 ^ 60 + h.vc.vspec.toNat * 2 ^ 59 + kind % 256 * 2 ^ 48 +
    h.id.hartid.toNat * 2 ^ 32 + data % 2 ^ 32

/-- A record into the die's circular buffer, or dropped when the buffer is full; the first record after room returns is
a loss record. Trace writes are no accesses of a hart. -/
def TraceUnit.put (u : TraceUnit) (m : Memory) (w : Nat) : TraceUnit × Memory :=
  if u.size ≤ u.used then ({ u with dropped := u.dropped + 1 }, m)
  else
    let loss := u.dropped != 0
    let w' := if loss then w / 2 ^ 76 * 2 ^ 76 + 9 * 2 ^ 48 + w / 2 ^ 32 % 2 ^ 16 * 2 ^ 32 + u.dropped % 2 ^ 32 else w
    let m := m.setBytes (u.base + 16 * (u.wptr % u.size)) (toBytes 16 w')
    let u := { u with wptr := u.wptr + 1, used := u.used + 1, dropped := 0 }
    if loss then
      if u.size ≤ u.used then ({ u with dropped := 1 }, m)
      else ({ u with wptr := u.wptr + 1, used := u.used + 1 },
            m.setBytes (u.base + 16 * (u.wptr % u.size)) (toBytes 16 w))
    else (u, m)

/-- Whether the moving hart is traced, and its die's unit. -/
def State.traceUnit (s : State) : Option TraceUnit :=
  s.dev.trace.find? fun u =>
    u.die == s.h.id.hartid.toNat / 256 && u.size != 0 && u.harts.contains (s.h.id.hartid.toNat % 256)

/-- Writes a trace record of the moving hart, when it is traced. -/
def State.traceRec (s : State) (kind elem data : Nat) : State :=
  match s.traceUnit with
  | none => s
  | some u =>
    let r := u.put s.dev.mem (s.h.traceWord kind elem data)
    { s with dev := { s.dev with mem := r.2, trace := s.dev.trace.map fun x => if x.die == u.die then r.1 else x } }

/-! ### Control flow -/

/-- Whether an address lies in the body of the active loop (R292). -/
def Hart.inLoop (h : Hart) (a : BitVec 52) : Bool :=
  h.lp.active && decide (h.lp.start.toNat ≤ a.toNat) && decide (a.toNat < h.lp.fin.toNat)

/-- The PC at a 64-bit address (R50, R290). -/
def Hart.goTo (h : Hart) (t : Word) : Hart := { h with pc := t.setWidth 52, pcHi := t.extractLsb' 52 12 }

/-- The PC after an instruction of `n` bytes that completes without a taken transfer (R25, R292): at the end of an
active loop body, back to its start while passes remain. -/
def Hart.advance (h : Hart) (n : Nat) : Hart :=
  let next := h.pc.setWidth 64 + BitVec.ofNat 64 n
  if h.inLoop h.pc && next == h.lp.fin.setWidth 64 then
    match h.lp.count with
    | none => { h with pc := h.lp.start }
    | some c =>
      if 1 < c then { h with pc := h.lp.start, lp := { h.lp with count := some (c - 1) } }
      else ({ h with lp := { h.lp with active := false, count := some 0 } }).goTo next
  else h.goTo next

/-- A taken transfer (R290, R292): one that leaves the body of an active loop ends the loop. -/
def Hart.jump (h : Hart) (t : Word) : Hart :=
  let stays := decide (t.toNat < 2 ^ 52) && h.inLoop (t.setWidth 52)
  ({ h with lp := { h.lp with active := h.lp.active && !(h.inLoop h.pc && !stays) } }).goTo t

def State.advance (s : State) (n : Nat) : State := { s with h := s.h.advance n }

/-- The trace record of the hart's next instruction has been written while a speculative strip ran ahead (R352). -/
def MemState.traced (m : MemState) : Bool := (m.bound.head?.map (·.traced)).getD false

/-- A taken transfer with its trace record. -/
def State.jump (s : State) (t : Word) : State :=
  let s := if s.h.ms.traced then s else s.traceRec 1 0 t.toNat
  { s with h := s.h.jump t }

/-! ### Reports and the end of a gang -/

/-- The tenant with a number; an unregistered one has the defaults of R91. -/
def Device.tenant (d : Device) (t : Nat) : Tenant := (d.tenants.find? (·.num == t)).getD { num := t }

def Device.setTenant (d : Device) (x : Tenant) : Device :=
  if d.tenants.any (·.num == x.num) then { d with tenants := d.tenants.map fun y => if y.num == x.num then x else y }
  else { d with tenants := d.tenants ++ [x] }

/-- Esmen writes a report at RTAIL and raises MSI-X vector 0 of the function, or drops the report when 15 are unread
(R360). -/
def Tenant.report (t : Tenant) (r : Report) : Tenant :=
  if (t.rtail + 16 - t.rhead) % 16 < 15 then
    { t with ring := (t.ring.filter (·.1 != t.rtail)) ++ [(t.rtail, r)], rtail := (t.rtail + 1) % 16, msix := t.msix + 1 }
  else { t with rlost := t.rlost + 1 }

def Device.report (d : Device) (t : Nat) (r : Report) : Device := d.setTenant ((d.tenant t).report r)

/-- Every hart of gang `g` ends; its lane groups are free (R317 step 2, R326). -/
def Hart.endIf (g : Nat) (h : Hart) : Hart :=
  if h.id.gang.toNat = g ∧ h.status ≠ .vacant then { h with status := .ended, ms := { h.ms with strip := none } } else h

/-- Ends a gang without the completion add (R326, R328, R339, R367): its harts end now; its banks return once its
stores and commands are done. -/
def State.stopGang (s : State) (g : Nat) : State :=
  { s with
    h := s.h.endIf g
    others := s.others.map (Hart.endIf g)
    dev := { s.dev with gangs := s.dev.gangs.map fun x => if x.id = g then { x with ending := some false } else x } }

/-! ### Strips: abandonment -/

/-- Puts back the architectural slices (R258 step 2). -/
def restoreSlices (v : Vector VReg 32) : List (Nat × VReg) → Vector VReg 32
  | [] => v
  | (r, x) :: l => restoreSlices (v.set (vreg r) x) l

/-- Abandonment of the open strip (R258): held stores and shadows go, the checkpoint returns. -/
def Hart.abandon (h : Hart) : Hart :=
  match h.ms.strip with
  | none => h
  | some st =>
    { h with
      x := st.cp.x
      pc := st.cp.addr
      pcHi := 0
      v := restoreSlices h.v st.arch
      vc := { h.vc with
        vl := st.cp.vl
        ew := st.cp.ew
        grp := st.cp.grp
        vlmaxr := st.cp.vlmaxr
        vff := st.cp.vff
        vpx := st.cp.vpx
        vspec := false
        vstart := 0
        ecm := 0 }
      f := { h.f with
        fflags := st.cp.fflags
        fidx := st.cp.fidx
        fepc := st.cp.fepc
        fxsat := st.cp.fxsat
        rctrl := st.cp.rctrl
        rctrh := st.cp.rctrh }
      lp := { h.lp with active := st.cp.loopActive, count := st.cp.loopCount }
      ms := { h.ms with strip := none, hold := none } }

/-! ### Traps -/

/-- Cause codes (R320). -/
def Cause.code : Cause → BitVec 8
  | .illegal => 0x01 | .priv => 0x02 | .misalign => 0x03 | .xlate => 0x04 | .perm => 0x05 | .extent => 0x06
  | .stripw => 0x07 | .stripcap => 0x08 | .stripop => 0x09 | .lostdef => 0x0A | .tileown => 0x0B | .fptrap => 0x0C
  | .break => 0x0D | .watch => 0x0E | .kvdesc => 0x0F | .syscall => 0x10 | .mcheck => 0x11 | .tierwait => 0x12

/-- Causes that resume at (PC, EELEM): VSTART takes the element (R46, R320). -/
def Cause.atElem : Cause → Bool
  | .misalign | .xlate | .perm | .extent | .fptrap | .watch | .mcheck | .tierwait => true
  | _ => false

/-- Causes whose EADDR is the address of the instruction (R259, R320). -/
def Cause.atInstr : Cause → Bool
  | .illegal | .priv | .stripw | .stripcap | .stripop | .tileown | .break => true
  | _ => false

/-- VTYPE as a word, VSPEC given (R15). -/
def vtypeWord (ew grp : BitVec 2) (vspec : Bool) : Word :=
  BitVec.ofNat 64 (ew.toNat + 16 * grp.toNat + 128 * vspec.toNat)

/-- Nothing stays bound ahead, no load is on its way to another device, and no DISCARD stands ahead of its completion:
its lines are older stores now (R266). -/
def MemState.unbind (m : MemState) : MemState :=
  let m := { m with bound := [], loadQ := [], landed := [] }
  if m.early = [] then m else { m with early := [], storeQ := m.storeQ.map fun p => { p with early := 0 } }

/-- Entry into the handler (R324), the hart standing at the resumable position. -/
def Hart.enter (h : Hart) (intr : Bool) (code : BitVec 8) (addr : Word) (elem : Nat) : Hart :=
  let ecmv := h.vc.ecm != 0
  { h with
    hr := { h.hr with
      hstat := { h.hr.hstat with
        vlost := if h.handler then h.hr.hstat.vlost || !h.hr.hstat.stacked else false
        pm := h.handler
        stacked := false
        ie := false
        ecmv := ecmv }
      epc := h.pc
      ecauseIntr := intr
      ecause := code
      eaddr := addr
      eelem := BitVec.ofNat 48 elem
      evl := BitVec.ofNat 16 h.vc.vl
      evtype := vtypeWord h.vc.ew h.vc.grp false
      evstart := h.vc.vstart
      hecm := if ecmv then h.vc.ecm else h.hr.hecm }
    vc := { h.vc with vstart := 0, ecm := 0 }
    handler := true
    pc := h.hr.hvec
    pcHi := 0
    ms := { h.ms.unbind with
      entryDrain := true
      resumeHold := if h.ms.holdNext = some h.pc then h.pc :: h.ms.resumeHold else h.ms.resumeHold
      holdNext := none }
    sy := { h.sy with tierClock := [], tierAsk := none, pendWait := none, fromElem := none } }

/-- Where a trap leaves the hart before the handler is entered: VSTART at the element `start`, or the strip abandoned.
-/
def Hart.atTrap (h : Hart) (c : Cause) (start : Nat) : Hart :=
  match h.ms.strip with
  | some _ => h.abandon
  | none => if c.atElem then { h with vc := { h.vc with vstart := BitVec.ofNat 48 start } } else h

/-- EADDR of a trap. -/
def Hart.trapAddr (h : Hart) (c : Cause) (addr : Word) : Word := if c.atInstr then h.pc.setWidth 64 else addr

/-- The trace record of an abandonment, when a strip is open. -/
def State.traceAbandon (s : State) : State :=
  match s.h.ms.strip with
  | some _ => s.traceRec 5 0 0
  | none => s

/-- A report about a gang: with its queue and ring index (R361). -/
def Device.gangReport (d : Device) (tenant g : Nat) (r : Report) : Device :=
  match d.gangs.find? (·.id == g) with
  | some x => d.report tenant { r with gang := g, queue := x.queue, index := x.index }
  | none => d.report tenant { r with gang := g }

/-- Esmen logs every MCHECK (R340). -/
def State.logMcheck (s : State) (c : Cause) (a : Word) : State :=
  if c = .mcheck then { s with dev := { s.dev with mchecks := (s.time, a) :: s.dev.mchecks } } else s

/-- Taking a trap (R324; R259 inside a strip) at VSTART = `start`. With no handler the gang ends and the cause is
reported (R326). -/
def takeTrapAt (c : Cause) (start elem : Nat) (addr : Word) (s : State) : State :=
  let a := s.h.trapAddr c addr
  let h := s.h.atTrap c start
  let s := s.logMcheck c a
  if h.hr.hvec = 0 then
    let g := h.id.gang.toNat
    let s := { s.traceAbandon with h := h }.stopGang g
    let rep : Report :=
      { time := s.time, eaddr := a, epc := h.pc.setWidth 64, eelem := elem, cause := c.code.toNat, kind := 2 }
    { s with dev := s.dev.gangReport h.id.tenant g rep }
  else
    let s := s.traceAbandon.traceRec 2 elem c.code.toNat
    { s with h := h.enter false c.code a elem }

/-- Taking a trap that resumes at its element. -/
def takeTrap (c : Cause) (elem : Nat) (addr : Word) (s : State) : State := takeTrapAt c elem elem addr s

/-- Taking a timer or doorbell interrupt (R332) at a point of R334; the handler exists. Inside a strip the strip is
abandoned, and its VSTRIP, when resumed, opens a strip that holds further interrupts (R260). -/
def takeInterrupt (code : BitVec 8) (s : State) : State :=
  let h := match s.h.ms.strip with
    | some st =>
      let h := s.h.abandon
      { h with ms := { h.ms with holdNext := some st.cp.addr } }
    | none => s.h
  let s := s.traceAbandon.traceRec 2 h.vc.vstart.toNat (2 ^ 31 + code.toNat)
  { s with h := h.enter true code 0 h.vc.vstart.toNat }

/-- VLMAX for a VTYPE under the VLEN in force (R18, R19). -/
def Hart.vlmaxFor (h : Hart) (ew grp : BitVec 2) : Nat := h.vlen / ewBits ew * grpOf grp

/-- What a return to `pc` leaves of the holds of R260: a VSTRIP that an interrupt has abandoned gets its hold, and the
interrupts taken since are over; a return to task mode ends them all. -/
def MemState.returnTo (m : MemState) (pc : BitVec 52) (handler : Bool) : MemState :=
  match m.resumeHold.dropWhile (· != pc) with
  | a :: r => { m with resumeHold := r, holdNext := some a }
  | [] => { m with resumeHold := if handler then m.resumeHold else [], holdNext := none }

/-- A mask of the low `n` bits. -/
def lowMask (n : Nat) : BitVec 16384 := BitVec.ofNat 16384 (2 ^ min n 16384 - 1)

/-- Return from the handler (R328): an acquire, for which what comes next waits until the handler's stores are
performed. -/
def doTret : M Unit := do
  let s ← get
  let h := s.h
  if h.hr.hstat.vlost ∧ !h.hr.hstat.pm then
    let g := h.id.gang.toNat
    let s' := s.stopGang g
    let rep : Report :=
      { time := s.time, eaddr := h.hr.eaddr, epc := h.hr.epc.setWidth 64, eelem := h.hr.eelem.toNat, kind := 3 }
    set { s' with dev := s'.dev.gangReport h.id.tenant g rep }
    throw .left
  else if bits h.hr.evtype.toNat 0 3 > 3 ∨ bits h.hr.evtype.toNat 3 1 ≠ 0 ∨ bits h.hr.evtype.toNat 6 1 ≠ 0
      ∨ bits h.hr.evtype.toNat 8 56 ≠ 0 then trapInstr .illegal
  else
    let ew := BitVec.ofNat 2 (bits h.hr.evtype.toNat 0 2)
    let grp := BitVec.ofNat 2 (bits h.hr.evtype.toNat 4 2)
    let vm := h.vlmaxFor ew grp
    let vl := min h.hr.evl.toNat vm
    let s := s.traceRec 3 0 0
    set { s with h := { h with
      vc := { h.vc with
        ew := ew
        grp := grp
        vspec := false
        vlmaxr := vm
        vl := vl
        vstart := h.hr.evstart
        ecm := if h.hr.hstat.ecmv then h.hr.hecm &&& lowMask vl else 0 }
      handler := h.hr.hstat.pm
      pc := h.hr.epc
      pcHi := 0
      ms := { h.ms.returnTo h.hr.epc h.hr.hstat.pm with bound := [], retDrain := true }
      sy := { h.sy with tierClock := [], tierAsk := none, pendWait := none, fromElem := none }
      hr := { h.hr with hstat := { h.hr.hstat with pm := h.hr.hstat.pm && !h.hr.hstat.vlost } } } }

/-! ### Completion -/

/-- An instruction of `n` bytes completes (R25). -/
def retire (n : Nat) : M Unit := modH (·.advance n)

/-- Completion of a vector or unit-based instruction of `n` bytes: VSTART becomes 0 (R13). -/
def Hart.retireBy (n : Nat) (h : Hart) : Hart :=
  let h := h.advance n
  { h with vc := { h.vc with vstart := 0, ecm := 0 }, sy := { h.sy with fromElem := none } }

/-- Completion of one of 4 bytes. -/
def Hart.retireV (h : Hart) : Hart := h.retireBy 4

def retireV : M Unit := modH Hart.retireV

/-! ### Stalls (R353, R354) -/

/-- Stall kind codes (R353). -/
def WaitKind.code : WaitKind → BitVec 4
  | .result => 1 | .memory => 2 | .fabric => 3 | .bank => 4 | .ownership => 5 | .tier => 6 | .sluice => 7 | .queueRoom => 8
  | .event => 9 | .tile => 10 | .drain => 11

/-- The entry with the fewest LOST cycles, with its place. -/
def leastLost : List StallEntry → Nat → Option (Nat × StallEntry)
  | [], _ => none
  | e :: r, i => match leastLost r (i + 1) with
    | none => some (i, e)
    | some (j, f) => if e.lost.toNat ≤ f.lost.toNat then some (i, e) else some (j, f)

/-- A saturating sum. -/
def satAdd (w : Word) (n : Nat) : Word := BitVec.ofNat 64 (min (w.toNat + n) (2 ^ 64 - 1))

/-- Charges `n` stall cycles of the instruction at `pc`, which waits for its hart's instruction at `on` or for another
agent, 0 (R353, R354); `fin` when the stall ends. Only a wait for a register result lies between elements of two
instructions, by which the consumer trailed: `lag` of them (notes/assumptions/24.md). -/
def DebugState.charge (d : DebugState) (pc : BitVec 52) (k : WaitKind) (on : BitVec 52) (n : Nat) (fin : Bool)
    (lag : Nat := 0) : DebugState :=
  let elag := BitVec.ofNat 16 (min lag 65535)
  let hit (e : StallEntry) : Bool := e.cpc == pc && e.kind == k.code && e.ppc == on
  if d.table.any hit then
    let add (e : StallEntry) : StallEntry :=
      { e with
        lost := satAdd e.lost n
        elag := if k = .result then elag else e.elag
        events := if fin && e.events != BitVec.allOnes 32 then e.events + 1 else e.events }
    { d with table := d.table.map fun e => if hit e then add e else e }
  else
    let e : StallEntry :=
      { lost := BitVec.ofNat 64 n, events := if fin then 1 else 0, elag := elag, cpc := pc, kind := k.code, ppc := on }
    if d.table.length < 32 then { d with table := d.table ++ [e] }
    else match leastLost d.table 0 with
      | some (i, f) =>
        if f.lost.toNat < n then
          { d with
            table := d.table.set i e
            counter := (d.counter.set 0 (satAdd d.counter[0] f.lost.toNat)).set 3 (satAdd d.counter[3] 1) }
        else { d with counter := d.counter.set 0 (satAdd d.counter[0] n) }
      | none => d

/-- The instruction waits: a stall goes on, charged every 1,024 cycles; another kind or producer is another stall, and
ends the one before (R353, R354). -/
def Hart.stalled (h : Hart) (k : WaitKind) (on : BitVec 52) (cycle : Nat) : Hart :=
  match h.db.stall with
  | none => { h with db := { h.db with stall := some (k, on, cycle), waited := some cycle } }
  | some (k', on', c) =>
    if k' ≠ k ∨ on' ≠ on then
      { h with db := { h.db.charge h.pc k' on' (cycle - c) true with stall := some (k, on, cycle), waited := some cycle } }
    else if 1024 ≤ cycle - c then
      { h with db := { h.db.charge h.pc k on (cycle - c) false with stall := some (k, on, cycle), waited := some cycle } }
    else { h with db := { h.db with waited := some cycle } }

/-- The stall of the instruction at `pc` ends and is charged (R354). -/
def Hart.endStall (h : Hart) (pc : BitVec 52) (cycle : Nat) : Hart :=
  match h.db.stall with
  | none => h
  | some (k, on, c) => { h with db := { h.db.charge pc k on (cycle - c) true with stall := none } }

def State.endStall (s : State) (pc : BitVec 52) : State := { s with h := s.h.endStall pc s.cycle }

/-- The outcome of a meaning. -/
def runM (m : M Unit) (s : State) : Host.Outcome State Fault Refusal :=
  match m.run s with
  | (.ok (), s') => .next s'
  | (.error (.trap c e a), s') => .next (takeTrap c e a s')
  | (.error (.trapUnit c e a), s') => .next (takeTrapAt c 0 e a s')
  | (.error (.trapFrom c b e a), s') => .next (takeTrapAt c b e a s')
  | (.error (.wait k on), s') => .next { s' with h := s'.h.stalled k on s'.cycle }
  | (.error .pause, s') => .next s'
  | (.error .left, s') => .next s'
  | (.error (.fault f), _) => .fault f

end Sys2Proof.Machine
end

