-- ==== Sys2Proof/Machine/Home.lean ====
section
/-! DEFINITION. Homes: the physical map (R48), extents (R58), lines and what a write at a home sets off (R264, R297,
R340, R351), the registers of the device window (R356-R360). -/

namespace Sys2Proof.Machine

/-! ### Locations -/

/-- Location of a bank byte: above every physical address. -/
def bankKey (die core bank off : Nat) : Nat := 2 ^ 52 + ((die * 64 + core) * 48 + bank) * 0x4000 + off

/-- Location of a flash block's first byte (R93): root port in bits 35:34 of the handle, block below. -/
def flashKey (handle : Nat) : Nat := 2 ^ 60 + handle * 0x10000

/-- What stands at a location (R48). -/
inductive Region where
  | hbm | cxl
  | domain (d : Nat)
  | regs (off : Nat)
  | wake (c : Nat)
  | bank
  | flash
  | hole
  deriving DecidableEq, Repr

/-- First address of the device register window (R357). -/
def drBase : Nat := 0xE000000000000

/-- The region of a location (R48). The spec gives no size of the memory attached behind the CXL pool: the model has
memory behind the whole window of 16 TiB (notes/assumptions/58.md). -/
def regionOf (k : Nat) : Region :=
  if k < 0x8000000000 then .hbm
  else if k < 0x100000000000 then .hole
  else if k < 0x200000000000 then .cxl
  else if k < 0x8000000000000 then .hole
  else if k < 0x8800000000000 then .domain ((k - 0x8000000000000) / 0x8000000000)
  else if k < drBase then .hole
  else if k < drBase + 0x10000000000 then .regs (k - drBase)
  else if k < drBase + 0x10000000000 + 0x80000 then .wake ((k - drBase - 0x10000000000) / 8)
  else if k < 2 ^ 52 then .hole
  else if k < 2 ^ 60 then .bank
  else .flash

/-- A physical address at its home: the domain slot of the device itself is its HBM (R48). -/
def Device.homeOf (d : Device) (pa : Nat) : Nat :=
  match regionOf pa with
  | .domain n => if d.hosts.domEn ∧ n = d.hosts.domId.toNat then pa % 0x8000000000 else pa
  | _ => pa

/-- Whether a domain device answers (R48, R363): in PEERS and no failed link. -/
def Device.peerUp (d : Device) (n : Nat) : Bool := d.hosts.peers.getLsbD n && !d.linkDown.contains n

/-- An access of domain device `n` reaches it, or completes with MCHECK (R48, R342). A failure that is to come to the
next access toward the device comes to this one. -/
def State.remoteAccess (s : State) (n : Nat) : Bool × State :=
  if !s.dev.peerUp n then (false, s)
  else if s.dev.failNext.contains n then (false, { s with dev := { s.dev with failNext := s.dev.failNext.erase n } })
  else (true, s)

/-- Whether an access of a location reaches its home: this device's always does, a domain device's as it answers. -/
def State.reaches (s : State) (k : Nat) : Bool × State :=
  match regionOf k with
  | .domain n => s.remoteAccess n
  | _ => (true, s)

/-- Attributes that the map forces (R48). -/
def forcedNonidem (k : Nat) : Bool :=
  match regionOf k with
  | .regs _ | .wake _ => true
  | _ => false

/-- The line of a location (R107). -/
def lineOf (k : Nat) : Nat := k / 128

/-- Home die of a physical line: XOR of the 3-bit groups of PA[51:7] (R107). -/
def homeDie (pa : Nat) : Nat :=
  (List.range 15).foldl (fun acc i => acc ^^^ bits pa (7 + 3 * i) 3) 0

/-- Slice of a physical line on its home die: XOR of the 5-bit groups of PA[51:7] (R107). -/
def homeSlice (pa : Nat) : Nat :=
  (List.range 9).foldl (fun acc i => acc ^^^ bits pa (7 + 5 * i) 5) 0

/-- The home of a location is an L2 slice of this device: HBM and the CXL pool (R107). -/
def homedHere (k : Nat) : Bool :=
  match regionOf k with
  | .hbm | .cxl => true
  | _ => false

/-! ### Extents -/

/-- ExtentGrants for a source (R58, R362). -/
def Device.grants (d : Device) (src pa : Nat) (k : Kind) : Bool :=
  regionOf pa != .hole && d.extents.any fun e =>
    e.src == src && e.v && e.base ≤ pa / 0x10000 && pa / 0x10000 ≤ e.last &&
    (match k with
     | .load | .fetch => e.y
     | .store => e.w
     | .amo => e.y && e.w)

/-! ### Errors -/

/-- Whether bytes hold an uncorrectable error (R340). -/
def Device.bad (d : Device) (k n : Nat) : Bool := d.errs.any fun (a, l) => a < k + n && k < a + l

/-- A write clears a record whose every byte it covers (R340). -/
def Device.clearErr (d : Device) (k n : Nat) : Device :=
  if d.errs = [] then d else { d with errs := d.errs.filter fun (a, l) => !(k ≤ a && a + l ≤ k + n) }

/-! ### Who writes -/

/-- The agent of a write: kind of R350 and identity; kind 7 stands for agents no filter names (walkers). -/
structure Agent where
  kind : Nat
  src : Nat
  deriving DecidableEq, Repr

def walkerAgent : Agent := ⟨7, 0⟩
def peatAgent : Agent := ⟨2, 0⟩
def esmenAgent : Agent := ⟨6, 0⟩
def hartAgent (h : Hart) : Agent := ⟨0, h.id.hartid.toNat⟩
def engineAgent (c : Cmd) : Agent := ⟨1, c.hartid.toNat / 4 * 4 + c.eng⟩

/-- A change of every hart. -/
def State.mapHarts (s : State) (f : Hart → Hart) : State := { s with h := f s.h, others := s.others.map f }

/-- All harts, the one that moves first. -/
def State.harts (s : State) : List Hart := s.h :: s.others

/-- A write to a monitored line sets EVT (R297). -/
def Hart.noteWrite (ln : Nat) (h : Hart) : Hart :=
  if h.sy.mon = some (ln * 128) then { h with sy := { h.sy with evt := true } } else h

/-- An element that has bound meets a later write of its bytes (R268). -/
def BoundElem.noteLater (k n : Nat) (b : BoundElem) : BoundElem :=
  { b with later := b.later ++ b.parts.flatMap fun p =>
      ((List.range p.2.length).map (p.1 + ·)).filter fun j => decide (k ≤ j) && decide (j < k + n) }

/-- A write comes later in its line's order than what the hart's elements have bound (R268). -/
def Hart.noteAll (k n : Nat) (h : Hart) : Hart :=
  { h with ms := { h.ms with
    bound := h.ms.bound.map fun e => { e with elems := e.elems.map (BoundElem.noteLater k n) } } }

/-- A write by another agent than the hart, whose own stores meet its elements when they are entered. -/
def Hart.noteLater (a : Agent) (k n : Nat) (h : Hart) : Hart :=
  if h.ms.bound = [] ∨ a = hartAgent h then h else h.noteAll k n

/-- Bytes an entry watches: LEN of them, at most 128 and no further than the end of PA's line (R350). -/
def WriteWatch.span (w : WriteWatch) : Nat := min w.len.toNat (128 - w.pa.toNat % 128)

/-- One write-watch entry meets a write at a line homed on its die (R350, R351). -/
def WriteWatch.meet (w : WriteWatch) (a : Agent) (k n time : Nat) : WriteWatch × Bool :=
  let hit := w.en && w.len != 0 && homedHere k && w.die == homeDie k && w.agents.getLsbD a.kind && a.kind < 7 &&
    decide (w.pa.toNat < k + n) && decide (k < w.pa.toNat + w.span)
  if !hit then (w, false)
  else
    let w := if w.hitV then w else
      { w with hitV := true, hitKind := BitVec.ofNat 3 a.kind, hitSrc := BitVec.ofNat 16 a.src, hitTime := BitVec.ofNat 64 time }
    ({ w with hitCount := if w.hitCount = BitVec.allOnes 32 then w.hitCount else w.hitCount + 1 }, w.act)

/-- A halt at the hart's next point (R348), the first cause asked for staying. -/
def Hart.askHalt (c : BitVec 4) (h : Hart) : Hart :=
  if h.db.halted then h else { h with db := { h.db with haltReq := some (h.db.haltReq.getD c) } }

/-- The write-watch filter at a write's place (R351): entries record, and an entry with ACT = 1 halts its gang. -/
def State.watchWrite (s : State) (a : Agent) (k n : Nat) : State :=
  if s.dev.writeWatch = [] then s
  else
    let r := s.dev.writeWatch.map fun w => (w.meet a k n s.time, w.gang.toNat)
    let gangs : List Nat := r.filterMap fun p => if p.1.2 then some p.2 else none
    let s1 : State := { s with dev := { s.dev with writeWatch := r.map fun p => p.1.1 } }
    s1.mapHarts fun h => if gangs.contains h.id.gang.toNat && h.status != .vacant then h.askHalt 6 else h

/-- A write by any agent to the line of a location sets EVT of the harts that monitor it (R297). -/
def State.touch (s : State) (k : Nat) : State := s.mapHarts (Hart.noteWrite (lineOf k))

/-- Bookkeeping for R65: something else than a KV instruction writes metadata, bytes 0-15 of a line that KV instructions
keep. -/
def Device.noteForeign (d : Device) (k n : Nat) : Device :=
  if d.kvLines.contains (lineOf k) && decide (k % 128 < 16) && n != 0 && !d.kvForeign.contains (lineOf k) then
    { d with kvForeign := lineOf k :: d.kvForeign } else d

/-- Bytes take their place at a home in memory (R264): within one line. -/
def State.putMem (s : State) (a : Agent) (k : Nat) (bs : List Byte) : State :=
  let n := bs.length
  let d := { s.dev with mem := s.dev.mem.setBytes k bs }
  let d := (d.clearErr k n).noteForeign k n
  let s := { s with dev := d }.mapHarts fun h => (h.noteLater a k n).noteWrite (lineOf k)
  s.watchWrite a k n

/-! ### Device registers -/

/-- Where a write to the register window comes from (R356, R358). -/
inductive RegSrc where
  | pf (port : Nat)
  | vf (tenant : Nat)
  | hart (tenant : Nat)
  | esmen
  | other
  deriving DecidableEq, Repr

/-- A source outside the device as a writer of registers. -/
def regSrc : Source → RegSrc
  | .pf p => .pf p
  | .vf t => .vf t
  | .esmen => .esmen
  | _ => .other

/-- Whether a source is the HSEM holder (R358). -/
def HostRegs.holder (r : HostRegs) : RegSrc → Bool
  | .pf p => r.semHeld && (r.semOwner == (p == 1))
  | _ => false

/-- Whether a source may write a gated register at `off`: the HSEM holder (R358), and Esmen for QCFG, QSTATE (R300) and
TIERCFG (R91). -/
def HostRegs.mayWrite (r : HostRegs) (src : RegSrc) (off : Nat) : Bool :=
  r.holder src || (src == .esmen && ((0x100000 ≤ off && off < 0x102000) || (0x200000 ≤ off && off < 0x200200)))

def Device.queue (d : Device) (q : Nat) : Queue := (d.queues.find? (·.num == q)).getD { num := q }

def Device.setQueue (d : Device) (q : Queue) : Device :=
  if d.queues.any (·.num == q.num) then { d with queues := d.queues.map fun y => if y.num == q.num then q else y }
  else { d with queues := d.queues ++ [q] }

/-- The instant at which the record at HEAD reached it (R306). -/
def Queue.noteHead (now : Nat) (q : Queue) : Queue :=
  if q.head = q.tail then { q with reached := none, checked := none, tierClock := [], depSeen := none }
  else match q.reached with
    | some (i, _) => if i = q.head then q else { q with reached := some (q.head, now) }
    | none => { q with reached := some (q.head, now) }

/-- A TAIL write (R301): one that would make the queue longer than its ring is ignored and sets OVF. -/
def Queue.writeTail (q : Queue) (v : BitVec 32) : Queue :=
  if (v - q.head).toNat > 2 ^ q.log2n then { q with ovf := true } else { q with tail := v }

/-- A write to the low or the high word of QSTATE (R301). -/
def Queue.writeState (q : Queue) (hi : Bool) (v : Word) : Queue :=
  if hi then q.writeTail (BitVec.ofNat 32 (v.toNat / 2 ^ 32))
  else { q with valid := q.valid && !v.getLsbD 63, ovf := q.ovf && !v.getLsbD 62 }

/-- A write to the low or the high word of QCFG (R300). -/
def Queue.writeCfg (q : Queue) (hi : Bool) (v : Word) : Queue :=
  if hi then { q with base := BitVec.ofNat 52 (bits v.toNat 12 40 * 4096) }
  else
    let dies := BitVec.ofNat 8 (bits v.toNat 32 8)
    let log2n := bits v.toNat 8 4
    { q with
      dies := dies
      tenant := bits v.toNat 24 5
      pmax := bits v.toNat 16 2
      log2n := log2n
      en := v.getLsbD 0 && decide (4 ≤ log2n) && dies != 0 }

/-- The words of QCFG and QSTATE as they read (R300, R301). -/
def Queue.cfgLo (q : Queue) : Nat :=
  q.dies.toNat * 2 ^ 32 + q.tenant * 2 ^ 24 + q.pmax * 2 ^ 16 + q.log2n * 2 ^ 8 + q.en.toNat
def Queue.cfgHi (q : Queue) : Nat := q.base.toNat / 4096 * 2 ^ 12
def Queue.stateLo (q : Queue) : Nat :=
  q.valid.toNat * 2 ^ 63 + q.ovf.toNat * 2 ^ 62 + q.index.toNat * 2 ^ 8 + q.code.toNat
def Queue.stateHi (q : Queue) : Nat := q.tail.toNat * 2 ^ 32 + q.head.toNat

/-- A doorbell write reaches the hart with HARTID `n` (R333, R359): from a host port, Esmen or a hart; a hart or a VF
must be of the same tenant. -/
def Hart.ring (n : Nat) (src : RegSrc) (h : Hart) : Hart :=
  let same := match src with
    | .hart t | .vf t => t == h.id.tenant
    | .pf _ | .esmen => true
    | .other => false
  if h.id.hartid.toNat = n ∧ (h.status = .running ∨ h.status = .stopped ∨ h.status = .saved) ∧ same = true then
    { h with hr := { h.hr with hstat := { h.hr.hstat with dip := true } } }
  else h

/-- TIERCFG words (R91). -/
def Tenant.writeTier (t : Tenant) (hi : Bool) (v : Word) : Tenant :=
  if hi then
    let rd := bits v.toNat 16 8
    { t with excap := BitVec.ofNat 16 (bits v.toNat 32 16), rdepth := BitVec.ofNat 8 (if rd = 0 then 1 else rd) }
  else { t with tcxl := BitVec.ofNat 32 (bits v.toNat 32 32), thbm := BitVec.ofNat 32 (bits v.toNat 0 32) }

def Tenant.tierLo (t : Tenant) : Nat := t.tcxl.toNat * 2 ^ 32 + t.thbm.toNat
def Tenant.tierHi (t : Tenant) : Nat := t.excap.toNat * 2 ^ 32 + t.rdepth.toNat * 2 ^ 16

/-- A report record as the tenant page shows it, word `w` of 8, lowest first (R361). -/
def Report.word (r : Report) (w : Nat) : Nat :=
  match w with
  | 0 => r.code % 256 * 256 + r.kind % 256
  | 3 => (r.index % 2 ^ 16) * 2 ^ 48 + (r.eelem / 2 ^ 16) % 2 ^ 32 * 2 ^ 16
  | 4 => (r.eelem % 2 ^ 16) * 2 ^ 48 + r.cause % 256 * 2 ^ 40 + r.gang % 2 ^ 16 * 2 ^ 24 + r.queue % 256 * 2 ^ 16 +
      r.index / 2 ^ 16 % 2 ^ 16
  | 5 => r.epc.toNat
  | 6 => r.eaddr.toNat
  | 7 => r.time % 2 ^ 64
  | _ => 0

/-- The configuration of tenant `t`, or of all tenants, in a fixed order: TIERCFG, extents and queues (R371). -/
def Device.configWords (d : Device) (t : Option Nat) : List Nat :=
  let extent (n i : Nat) : List Nat := match d.extents.find? fun e => e.src == n && e.idx == i && e.v with
    | some e => [e.base, e.last, e.w.toNat, e.y.toNat, 1]
    | none => [0, 0, 0, 0, 0]
  let queues (n : Nat) : List Nat := (List.range 256).flatMap fun q =>
    if (d.queue q).tenant = n then [q, (d.queue q).cfgLo, (d.queue q).cfgHi] else []
  ((List.range 32).filter fun n => t.all (· == n)).flatMap fun n =>
    (d.tenant n).tierLo :: (d.tenant n).tierHi :: ((List.range 64).flatMap (extent n) ++ queues n)

/-- Byte `k` of the attestation report (R371). What keys, fuses and hashes determine is a free value: of the device
(serial number, ROM), of the boot (Esmen image, certificate), of the configuration, or of the report (nonce,
signatures). -/
def State.reportByte (s : State) (t : Option Nat) (nonce : Word) (k : Nat) : Byte :=
  let r := s.dev.hosts
  let ofWord (w : Nat) (lo : Nat) : Byte := BitVec.ofNat 8 (bits w (8 * (k - lo)) 8)
  if k = 0 then 1
  else if k < 4 then 0
  else if k = 4 then BitVec.ofNat 8 (t.getD 0xFF)
  else if k = 5 then BitVec.ofNat 8 r.dbgopen.toNat
  else if k < 8 then 0
  else if k < 16 then ofWord r.svn.toNat 8
  else if k < 24 then ofWord r.minsvn.toNat 16
  else if k < 40 then Config.attestByte 0 k
  else if k < 72 then Config.hostByte (nonce.toNat + (k - 40)) s.tick
  else if k < 120 then Config.attestByte 0 k
  else if k < 168 then Config.bootByte r.bootNo k
  else if k < 216 then Config.configHash (s.dev.configWords t) k
  else if k < 224 then ofWord s.time 216
  else if k < 256 then 0
  else if k < 3020 then Config.attestByte s.tick k
  else if k < 3028 then ofWord r.bootNo 3020
  else Config.bootByte r.bootNo k

/-- ATTEST (R368, R371): the report goes to host memory at `dst`; status 4 beyond 32,768 boots or reports of a boot. -/
def State.attest (s : State) (t : Option Nat) (nonce dst : Word) : Nat × State :=
  let r := s.dev.hosts
  if 32768 ≤ r.reports ∨ 32768 < r.bootNo then (4, s)
  else
    let bytes := (List.range 5944).map (s.reportByte t nonce)
    (0, { s with
      tick := s.tick + 1
      dev := { s.dev with
        hostOut := s.dev.hostOut ++ [(dst, bytes)]
        hosts := { r with reports := r.reports + 1 } } })

/-- A command to the tenant mailbox (R360): ATTEST only; nothing before READY (R366). -/
def State.tenantCommand (s : State) (t : Nat) (v : Word) : State :=
  let done (s : State) (c : Nat) : State :=
    let x := s.dev.tenant t
    { s with dev := s.dev.setTenant { x with mbDone := true, mbStatus := BitVec.ofNat 8 c } }
  if !s.dev.hosts.ready then s
  else if v = 4 then
    let x := s.dev.tenant t
    let r := s.attest (some t) x.mbArg[0] x.mbArg[1]
    done r.2 r.1
  else done s 1

/-- A write to the tenant page of tenant `t` (R360). -/
def State.writeTenantPage (s : State) (t off : Nat) (v : Word) : State :=
  let d := s.dev
  let tn := d.tenant t
  if off = 0x20 then { s with dev := d.setTenant { tn with rhead := bits v.toNat 0 4 } }
  else if off = 0x40 then s.tenantCommand t v
  else if 0x48 ≤ off ∧ off ≤ 0x60 then
    { s with dev := d.setTenant { tn with mbArg := tn.mbArg.set (Fin.ofNat 4 ((off - 0x48) / 8)) v } }
  else if 0x1000 ≤ off ∧ off < 0x1800 then
    let q := d.queue ((off - 0x1000) / 8)
    if q.tenant = t then
      { s with dev := d.setQueue ((q.writeTail (BitVec.ofNat 32 v.toNat)).noteHead s.time) } else s
  else s

/-- A read of the tenant page (R360, R361). -/
def Device.readTenantPage (d : Device) (t off : Nat) : Nat :=
  let tn := d.tenant t
  if off = 0 then d.crpa
  else if off = 0x08 then tn.poolBase
  else if off = 0x10 then tn.poolSize % 2 ^ 32 + tn.crGroups.length * 2 ^ 32
  else if off = 0x18 then tn.wrej.toNat
  else if off = 0x20 then tn.rhead
  else if off = 0x28 then tn.rtail
  else if off = 0x30 then tn.rlost.toNat
  else if 0x48 ≤ off ∧ off ≤ 0x60 then (tn.mbArg[Fin.ofNat 4 ((off - 0x48) / 8)]).toNat
  else if off = 0x68 then tn.mbDone.toNat * 2 ^ 63 + tn.mbStatus.toNat
  else if 0x2000 ≤ off ∧ off < 0x2400 then
    match tn.ring.find? (·.1 == (off - 0x2000) / 64) with
    | some (_, r) => r.word (off / 8 % 8)
    | none => 0
  else 0

/-- Increments HDENY (R358). -/
def Device.deny (d : Device) : Device := { d with hosts := { d.hosts with hdeny := d.hosts.hdeny + 1 } }

/-- HSEM (R357): a PF grants itself the free semaphore; its owner releases it. -/
def HostRegs.writeSem (r : HostRegs) (port : Nat) (v : Word) : HostRegs :=
  if v.getLsbD 0 then
    if r.semHeld then r else { r with semHeld := true, semOwner := port == 1, semGen := r.semGen + 1 }
  else if r.semHeld ∧ r.semOwner = (port == 1) then { r with semHeld := false } else r

/-- A change of tenant `t`. -/
def Device.modTenant (d : Device) (t : Nat) (f : Tenant → Tenant) : Device := d.setTenant (f (d.tenant t))

/-- A gated register (R358): control page, QCFG, QSTATE, TIERCFG, debug-module windows. -/
def gatedReg (off : Nat) : Bool :=
  off < 0x1000 || (0x100000 ≤ off && off < 0x102000) || (0x200000 ≤ off && off < 0x200200) ||
  (0x20000000 ≤ off && off < 0x20090000)

/-- What a write to a device register does (R357-R360), other than one to MBCMD, DOMCFG or a debug module (HostPorts).
-/
def State.storeReg (s : State) (src : RegSrc) (off : Nat) (v : Word) : State :=
  let d := s.dev
  if off = 0 then
    match src with
    | .pf p => { s with dev := { d with hosts := d.hosts.writeSem p v } }
    | _ => { s with dev := d.deny }
  else if gatedReg off then
    if !d.hosts.mayWrite src off then { s with dev := d.deny }
    else if 0x28 ≤ off ∧ off ≤ 0x40 then
      { s with dev := { d with hosts := { d.hosts with mbArg := d.hosts.mbArg.set (Fin.ofNat 4 ((off - 0x28) / 8)) v } } }
    else if 0x100000 ≤ off ∧ off < 0x102000 then
      let q := d.queue ((off - 0x100000) / 32)
      let w := (off - 0x100000) / 8 % 4
      let q' := match w with
        | 0 => q.writeCfg false v
        | 1 => q.writeCfg true v
        | 2 => q.writeState false v
        | _ => q.writeState true v
      { s with dev := d.setQueue (q'.noteHead s.time) }
    else if 0x200000 ≤ off ∧ off < 0x200200 then
      let t := (off - 0x200000) / 16
      { s with dev := d.modTenant t (·.writeTier ((off - 0x200000) / 8 % 2 == 1) v) }
    else s
  else if 0x1000000 ≤ off ∧ off < 0x1000000 + 8 * 2048 then
    s.mapHarts (Hart.ring ((off - 0x1000000) / 8) src)
  else if 0x10000000 ≤ off ∧ off < 0x10000000 + 0x10000 * 32 then
    s.writeTenantPage ((off - 0x10000000) / 0x10000) (off % 0x10000) v
  else s

/-- A write to a device register (R357-R360), at its line (R297). -/
def State.writeReg (s : State) (src : RegSrc) (off : Nat) (v : Word) : State := (s.storeReg src off v).touch (drBase + off)

/-- A write-watch register as it reads (R350). -/
def WriteWatch.word (w : WriteWatch) (i : Nat) : Nat :=
  match i with
  | 0 => w.pa.toNat
  | 1 => w.en.toNat * 2 ^ 63 + w.agents.toNat * 2 ^ 48 + w.act.toNat * 2 ^ 46 + w.gang.toNat * 2 ^ 16 + w.len.toNat
  | 2 => w.hitV.toNat * 2 ^ 63 + w.hitKind.toNat * 2 ^ 60 + w.hitSrc.toNat * 2 ^ 32 + w.hitCount.toNat
  | _ => w.hitTime.toNat

def Device.watchEntry (d : Device) (die n : Nat) : WriteWatch :=
  (d.writeWatch.find? fun w => w.die == die && w.idx == n).getD { die := die, idx := n }

/-- A read of a device register (R359); offsets that no row defines read 0. -/
def Device.readReg (d : Device) (off : Nat) : Nat :=
  let r := d.hosts
  if off = 0 then r.semGen.toNat * 2 ^ 32 + r.semOwner.toNat * 2 + r.semHeld.toNat
  else if off = 8 then 0x5512 + Config.stepping.toNat * 2 ^ 16 + r.domId.toNat * 2 ^ 24
  else if off = 0x10 then r.ready.toNat + r.dbgopen.toNat * 2 + r.fail.toNat * 4 + r.svn.toNat * 2 ^ 16
  else if off = 0x18 then r.hdeny.toNat
  else if 0x28 ≤ off ∧ off ≤ 0x40 then (r.mbArg[Fin.ofNat 4 ((off - 0x28) / 8)]).toNat
  else if off = 0x48 then r.mbDone.toNat * 2 ^ 63 + r.mbStatus.toNat
  else if off = 0x50 then r.domEn.toNat * 2 ^ 8 + r.domId.toNat
  else if 0x60 ≤ off ∧ off ≤ 0x78 then bits r.peers.toNat (64 * ((off - 0x60) / 8)) 64
  else if 0x100000 ≤ off ∧ off < 0x102000 then
    let q := d.queue ((off - 0x100000) / 32)
    match (off - 0x100000) / 8 % 4 with
    | 0 => q.cfgLo
    | 1 => q.cfgHi
    | 2 => q.stateLo
    | _ => q.stateHi
  else if 0x200000 ≤ off ∧ off < 0x200200 then
    let t := d.tenant ((off - 0x200000) / 16)
    if (off - 0x200000) / 8 % 2 = 1 then t.tierHi else t.tierLo
  else if 0x300000 ≤ off ∧ off < 0x300800 then
    (d.watchEntry ((off - 0x300000) / 256) ((off - 0x300000) / 32 % 8)).word ((off - 0x300000) / 8 % 4)
  else if 0x10000000 ≤ off ∧ off < 0x10000000 + 0x10000 * 32 then
    d.readTenantPage ((off - 0x10000000) / 0x10000) (off % 0x10000)
  else 0

/-! ### Debug-module windows (R344, R359) -/

def Device.dm (d : Device) (die : Nat) : DebugModule := (d.dms.find? (·.die == die)).getD { die := die }

/-- What hartsel names on a die (R344): a lane group without a hart is nonexistent, a hart of a saved gang unavailable.
-/
inductive Selected where
  | none'
  | unavailable
  | running
  | halted
  deriving DecidableEq, Repr

/-- The state of the hart that hartsel names; on the I/O die, hart 0 is the Causeway core. -/
def State.hartState (s : State) (die sel : Nat) : Selected :=
  if die = 8 then
    if sel = 0 then (if s.dev.causeway.halted then .halted else .running) else .none'
  else
    let named (h : Hart) : Bool := decide (sel < 256) && h.id.hartid.toNat == 256 * die + sel
    match s.harts.find? fun h => named h && (h.status == .running || h.status == .stopped) with
    | some h => if h.db.halted then .halted else .running
    | none => if s.harts.any fun h => named h && h.status == .saved then .unavailable else .none'

/-- Whether the hart of a die that has number `n` is halted. -/
def State.haltedAt (s : State) (die n : Nat) : Bool := s.hartState die n == .halted

/-- Register `r` of a debug module, numbered as its DMI is in the RISC-V External Debug Support specification 1.0 (R344;
notes/assumptions/54.md): data0-3, dmcontrol, dmstatus, haltsum1, abstractcs, haltsum0; progbufsize and sbcs read 0. -/
def State.dmReg (s : State) (die r : Nat) : Nat :=
  let m := s.dev.dm die
  let both (b : Bool) (lo : Nat) : Nat := b.toNat * 3 * 2 ^ lo
  match r with
  | 0x04 => bits m.data.toNat 0 32
  | 0x05 => bits m.data.toNat 32 32
  | 0x06 => bits m.arg.toNat 0 32
  | 0x07 => bits m.arg.toNat 32 32
  | 0x10 => m.sel % 1024 * 2 ^ 16 + m.sel / 1024 % 1024 * 2 ^ 6 + m.active.toNat
  | 0x11 =>
    let h := s.hartState die m.sel
    both (h != .none' && !m.acked.contains m.sel) 18 + both m.resumeAck 16 + both (h == .none') 14 +
      both (h == .unavailable) 12 + both (h == .running) 10 + both (h == .halted) 8 + 2 ^ 7 + 3
  | 0x13 => (List.range 32).foldl (fun n j =>
      n + ((List.range 32).any fun i => s.haltedAt die (m.sel / 1024 * 1024 + 32 * j + i)).toNat * 2 ^ j) 0
  | 0x16 => m.pending.isSome.toNat * 2 ^ 12 + m.cmderr.toNat * 2 ^ 8 + 4
  | 0x40 => (List.range 32).foldl (fun n i => n + (s.haltedAt die (m.sel / 32 * 32 + i)).toNat * 2 ^ i) 0
  | _ => 0

/-- A trace setting as it reads in the module's window (R352; notes/assumptions/54.md). -/
def Device.traceReg (d : Device) (die i : Nat) : Nat :=
  match d.trace.find? (·.die == die) with
  | none => 0
  | some u => match i with
    | 0 => u.base
    | 1 => u.size
    | 2 => u.sper
    | 3 => u.used
    | _ => if i < 8 then (u.harts.filter fun h => h / 64 == i - 4).foldl (fun n h => n ||| 2 ^ (h % 64)) 0 else 0

/-- A read of a device register, debug-module windows included (R359): register `r` of a module's DMI at offset 8r, its
write-watch entries from 0x8000 on, its trace settings from 0x9000 on (notes/assumptions/54.md). -/
def State.readReg (s : State) (off : Nat) : Nat :=
  if 0x20000000 ≤ off ∧ off < 0x20090000 then
    let die := (off - 0x20000000) / 0x10000
    let o := off % 0x10000
    if o < 0x400 then s.dmReg die (o / 8)
    else if die < 8 ∧ 0x8000 ≤ o ∧ o < 0x8100 then (s.dev.watchEntry die ((o - 0x8000) / 32)).word (o / 8 % 4)
    else if die < 8 ∧ 0x9000 ≤ o ∧ o < 0x9040 then s.dev.traceReg die ((o - 0x9000) / 8)
    else 0
  else s.dev.readReg off

end Sys2Proof.Machine
end

