-- ==== Sys2Proof/Machine/Translate.lean ====
section
/-! DEFINITION. Translation (R50-R59): fixed windows, the walk, TLBs, tiered pages, extents. -/

namespace Sys2Proof.Machine

/-- Whose translation it is: a hart's, or a copy command's as captured at issue (R56, R124). -/
structure Ctx where
  tenant : Nat
  root : BitVec 52
  asid : BitVec 16
  gang : Nat
  gangsz : Nat
  rank : Nat
  die : Nat
  core : Nat
  deriving DecidableEq, Repr

def dieOf (id : BitVec 11) : Nat := id.toNat / 256
def coreOf (id : BitVec 11) : Nat := id.toNat / 4 % 64

def Hart.ctx (h : Hart) : Ctx :=
  { tenant := h.id.tenant, root := h.hr.ptroot, asid := h.hr.asid, gang := h.id.gang.toNat, gangsz := h.id.gangsz,
    rank := h.id.rank, die := dieOf h.id.hartid, core := coreOf h.id.hartid }

def Cmd.ctx (c : Cmd) : Ctx :=
  { tenant := c.tenant, root := c.root, asid := c.asid, gang := c.owner.gang, gangsz := c.gangsz, rank := c.rank,
    die := c.die, core := c.core }

/-- Where a virtual address leads. -/
structure Loc where
  key : Nat
  /-- ATTR of R49: 0 NORMAL, 1 NOCACHE, 2 NONIDEM. -/
  attr : Nat := 0
  /-- Page size code SZ (R51). -/
  sz : Nat := 0
  map : Mapping := {}
  /-- The leaf of a TIERED page: a store that a strip holds has no location yet (R250). -/
  tier : Option Nat := none
  deriving DecidableEq, Repr

/-! ### Fixed windows (R50) -/

inductive Window where
  | bank (die core num off : Nat)
  | wake (slot : Nat)
  deriving DecidableEq, Repr

def inWindow (va : Nat) : Bool := 0x7F0000000000 ≤ va && va ≤ 0x7FFFFFFFFFFF

/-- The core that holds gang rank `k` (R50). -/
def State.coreOfRank (s : State) (c : Ctx) (k : Nat) : Option Nat :=
  if k = c.rank then some c.core
  else (s.harts.find? fun h => h.id.gang.toNat == c.gang && h.id.rank == k && h.status != .vacant).map
    fun h => coreOf h.id.hartid

/-- The window that a fixed-window address names; none where no row covers it (R50). -/
def State.window (s : State) (c : Ctx) (va : Nat) : Option Window :=
  if va < 0x7F0000000000 + 0xC0000 then
    some (.bank c.die c.core ((va - 0x7F0000000000) / 0x4000) (va % 0x4000))
  else if 0x7F1000000000 ≤ va ∧ va < 0x7F8000000000 then
    let k := (va - 0x7F1000000000) / 0x100000
    let o := va % 0x100000
    if k < c.gangsz ∧ o < 0xC0000 then
      match s.coreOfRank c k with
      | some core => some (.bank c.die core (o / 0x4000) (o % 0x4000))
      | none => none
    else none
  else if 0x7F8000000000 ≤ va ∧ va < 0x7F8000080000 then some (.wake ((va - 0x7F8000000000) / 8))
  else none

def Device.bank? (d : Device) (die core num : Nat) : Option Bank :=
  d.banks.find? fun b => b.die == die && b.core == core && b.num == num

def Device.setBank (d : Device) (b : Bank) : Device :=
  { d with banks := d.banks.map fun y => if y.die == b.die && y.core == b.core && y.num == b.num then b else y }

/-- Whether CR slot `c` belongs to tenant `t` (R50, R88). -/
def Device.slotOf (d : Device) (t c : Nat) : Bool := decide (c < 65536) && (d.tenant t).crGroups.contains (c / 16)

/-- The window checks of R50: mode and owner of a bank, tenant of a wake slot. `n` bytes are asked for. -/
def State.fixed (s : State) (c : Ctx) (va : Nat) (k : Kind) (n : Nat) : Except Cause Loc :=
  match s.window c va with
  | none => .error .xlate
  | some w =>
    if k = .fetch then .error .perm
    else match w with
    | .bank die core num off =>
      match s.dev.bank? die core num with
      | some b => if b.gang = c.gang ∧ b.mode = .scratch then .ok { key := bankKey die core num off } else .error .perm
      | none => .error .perm
    | .wake slot =>
      if n ≠ 8 ∨ va % 8 ≠ 0 ∨ k = .amo then .error .perm
      else if !s.dev.slotOf c.tenant slot then .error .extent
      else .ok { key := drBase + 0x10000000000 + slot * 8, attr := 2 }

/-! ### The walk (R51-R56) -/

/-- Malformed(e) of R56 for a table entry, a leaf or a tiered entry. -/
def malformed (e : Nat) : Bool :=
  match e % 4 with
  | 1 => bits e 52 12 != 0 || bits e 2 13 != 0
  | 2 => bits e 63 1 != 0 || bits e 13 3 != 0 || bits e 8 2 == 3 || decide (3 ≤ bits e 10 3) ||
         (bits e 8 2 == 1 && bits e 16 5 != 0) || (bits e 8 2 == 2 && bits e 16 14 != 0) || bits e 61 2 != 0
  | 3 => bits e 63 1 != 0 || bits e 13 3 != 0 || bits e 8 2 == 3 || decide (3 ≤ bits e 10 3)
  | _ => false

/-- Page size in bytes of a size code (R51). -/
def pageSize (sz : Nat) : Nat := match sz with | 0 => 0x10000 | 1 => 0x200000 | _ => 0x40000000

/-- What a walk finds: the authoritative leaf, its location, and the page. -/
structure Leaf where
  pte : Nat
  ptea : Nat
  deriving DecidableEq, Repr

def Leaf.sz (l : Leaf) : Nat := bits l.pte 8 2
def Leaf.size (l : Leaf) : Nat := pageSize l.sz
def Leaf.tiered (l : Leaf) : Bool := l.pte % 4 == 3

/-- Why a walk gives no leaf: a cause, or a leaf in the move table (R93). -/
inductive WalkErr where
  | cause (c : Cause)
  | moving
  deriving DecidableEq, Repr

/-- One page-table entry read as the walker reads it (R51, R56): checked as a load, MCHECK on an error (R340) or an
absent device (R48). -/
def State.readPte (s : State) (tenant pa : Nat) : Except WalkErr Nat :=
  let k := s.dev.homeOf pa
  if !s.dev.grants tenant pa .load then .error (.cause .extent)
  else if s.dev.bad k 8 then .error (.cause .mcheck)
  else match regionOf k with
    | .domain d => if s.dev.peerUp d then .ok (s.dev.mem.getNat k 8) else .error (.cause .mcheck)
    | .regs off => .ok (s.readReg off)
    | .wake _ => .ok 0
    | _ => .ok (s.dev.mem.getNat k 8)

/-- The leaf behind an entry of level `lvl` at `base + idx * 8` (R56). -/
def State.leafAt (s : State) (tenant base idx lvl pte : Nat) : Except WalkErr Leaf :=
  let sz := bits pte 8 2
  if lvl = 2 ∨ (lvl = 1 ∧ sz ≠ 2) ∨ (lvl = 0 ∧ sz = 2) then .error (.cause .xlate)
  else if sz = 0 then .ok ⟨pte, s.dev.homeOf (base + idx * 8)⟩
  else
    let g := if sz = 1 then 32 else 4
    let fa := base + idx / g * g * 8
    match s.readPte tenant fa with
    | .error e => .error e
    | .ok first =>
      if bits first 8 2 ≠ sz ∨ first % 4 < 2 ∨ malformed first then .error (.cause .xlate)
      else .ok ⟨first, s.dev.homeOf fa⟩

/-- The levels still to be walked, from the table at `base` (R56). -/
def State.walkFrom (s : State) (tenant va base : Nat) : Nat → Except WalkErr Leaf
  | 0 => .error (.cause .xlate)
  | n + 1 =>
    let idx := bits va (16 + 12 * n) 12
    match s.readPte tenant (base + idx * 8) with
    | .error e => .error e
    | .ok pte =>
      if pte % 4 = 0 ∨ malformed pte then .error (.cause .xlate)
      else if pte % 4 = 1 then
        if n = 0 then .error (.cause .xlate) else s.walkFrom tenant va (bits pte 15 37 * 2 ^ 15) n
      else s.leafAt tenant base idx n pte

/-- Walk(va) without the A bit (R56); a leaf in the move table makes the walk wait (R93). A tiered leaf there is waited
for as every tiered page is (R57). -/
def State.walk (s : State) (tenant : Nat) (root : BitVec 52) (va : Nat) : Except WalkErr Leaf :=
  match s.walkFrom tenant va (root.toNat / 2 ^ 15 * 2 ^ 15) 3 with
  | .ok l => if !l.tiered && s.dev.moves.any (·.ptea == l.ptea) then .error .moving else .ok l
  | .error e => .error e

/-- Allowed(e, kind) (R56). -/
def allowed (pte : Nat) : Kind → Bool
  | .fetch => bits pte 4 1 == 1
  | .load => bits pte 2 1 == 1
  | .store => bits pte 3 1 == 1
  | .amo => bits pte 2 1 == 1 && bits pte 3 1 == 1

/-- An atomic OR of one bit at the leaf's home (R54). -/
def State.orLeaf (s : State) (l : Leaf) (bit : Nat) : State × Leaf :=
  let cur := s.dev.mem.getNat l.ptea 8
  if bits cur bit 1 = 1 ∨ cur % 4 ≠ 2 then (s, { l with pte := if bits l.pte bit 1 = 1 then l.pte else l.pte + 2 ^ bit })
  else (s.putMem walkerAgent l.ptea (toBytes 8 (cur + 2 ^ bit)), { l with pte := if bits l.pte bit 1 = 1 then l.pte else l.pte + 2 ^ bit })

/-- A TLB entry that covers an address (R59). -/
def TlbEntry.covers (t : TlbEntry) (c : Ctx) (va : Nat) : Bool :=
  t.die == c.die && (t.core == c.core || t.core == 64) && t.tenant == c.tenant &&
  (t.asid == c.asid.toNat || t.pte.getLsbD 5) && decide (t.base ≤ va) && decide (va < t.base + t.size)

/-- Entries of an L1 TLB, which each core has, and of an L2 TLB, which each die has (R59). -/
def l1Entries : Nat := 128
def l2Entries : Nat := 16384

/-- The list without its first `n` members that satisfy `p`. -/
def dropOld {α : Type} (p : α → Bool) : Nat → List α → List α
  | 0, l => l
  | _, [] => []
  | n + 1, x :: r => if p x then dropOld p n r else x :: dropOld p (n + 1) r

/-- An entry filled into its TLB; the oldest ones make room (R59; which one leaves is open, notes/assumptions/13.md). -/
def Device.fillTlb (d : Device) (e : TlbEntry) : Device :=
  let same (t : TlbEntry) : Bool := t.die == e.die && t.core == e.core
  let room := if e.core = 64 then l2Entries else l1Entries
  { d with tlb := dropOld same ((d.tlb.filter same).length + 1 - room) d.tlb ++ [e] }

/-- The translation to use: choice 0 walks afresh, 1 walks and keeps the translation in the TLBs, a larger one uses a
translation that a TLB holds (R59). A held translation whose D is clear serves no store: D is set by a walk (R54). That
a TLB is filled at an access only, that no walk cache is kept and that a walk reads its entries at one instant is the
model's choice among what R59 leaves to the hardware (notes/assumptions/64.md). -/
def lookup (c : Ctx) (va : Nat) (kind : Kind) : M (Except WalkErr Leaf) := do
  let k ← choose
  let s ← get
  let ok (t : TlbEntry) : Bool := t.covers c va && (t.pte.getLsbD 7 || kind == .load || kind == .fetch)
  match (s.dev.tlb.filter ok)[k - 2]? with
  | some t => if 2 ≤ k then return .ok ⟨t.pte.toNat, t.ptea⟩ else walkIt k s
  | none => walkIt k s
where
  walkIt (k : Nat) (s : State) : M (Except WalkErr Leaf) := do
    match s.walk c.tenant c.root va with
    | .error e => return .error e
    | .ok l =>
      if l.tiered then return .ok l
      else
        let (s', l') := s.orLeaf l 6
        let e : TlbEntry :=
          { die := c.die
            core := c.core
            tenant := c.tenant
            asid := c.asid.toNat
            base := va / l'.size * l'.size
            size := l'.size
            pte := BitVec.ofNat 64 l'.pte
            ptea := l'.ptea }
        set (if k = 1 then { s' with dev := (s'.dev.fillTlb e).fillTlb { e with core := 64 } } else s')
        return .ok l'

/-- The promotion request of an access (R57): requests for one page merge. -/
def Device.askPromotion (d : Device) (c : Ctx) (l : Leaf) (va : Nat) : Device :=
  if d.proms.any (·.ptea == l.ptea) || d.moves.any (·.ptea == l.ptea) then d
  else { d with proms := d.proms ++
    [{ ptea := l.ptea, tenant := c.tenant, root := c.root, asid := c.asid.toNat, va := va }] }

/-- The physical place behind a leaf, with the extent and error checks left to the caller. -/
def Leaf.loc (l : Leaf) (s : State) (c : Ctx) (va : Nat) : Nat × Loc :=
  let pa := bits l.pte 16 36 * 0x10000 / l.size * l.size + va % l.size
  let k := s.dev.homeOf pa
  let map : Mapping :=
    { tenant := c.tenant
      asid := c.asid.toNat
      glob := bits l.pte 5 1 == 1
      base := va / l.size * l.size
      size := l.size
      home := k - va % l.size
      cycle := s.cycle }
  (pa, { key := k, attr := if forcedNonidem k then 2 else bits l.pte 10 3, sz := l.sz, map := map })

/-- A location that no memory has, for a byte of a TIERED page (R250). -/
def tierKey (va : Nat) : Nat := 2 ^ 62 + va

/-- The mapping of a TIERED page that a store has been translated through (R62). -/
def Leaf.tierMap (l : Leaf) (c : Ctx) (va cycle : Nat) : Mapping :=
  { tenant := c.tenant
    asid := c.asid.toNat
    glob := bits l.pte 5 1 == 1
    base := va / l.size * l.size
    size := l.size
    home := tierKey (va / l.size * l.size)
    cycle := cycle }

/-- Limit of an unstaged promotion wait: 10 ms of TIME (R57). -/
def tierLimit : Nat := 10000000

/-- Why an access gets no place: a cause at this address, or it waits for a tiered or moving page. -/
inductive XErr where
  | cause (c : Cause)
  | tier (l : Leaf)
  | moving
  deriving DecidableEq, Repr

/-- Translate(va, kind) of R56 up to what is done about a tiered page, for `n` bytes that lie in one 64 KiB frame. PERM
of a place that `bad` refuses (R49, R287) comes before EXTENT. D is set once the extents have granted the access: R54
sets it where the store then proceeds, while the worked example of R58 sets it ahead of the extent step; the order is
the model's choice (notes/assumptions/63.md). -/
def translateAt (bad : Loc → Bool) (c : Ctx) (va : Nat) (k : Kind) (n : Nat) : M (Except XErr Loc) := do
  if va / 2 ^ 52 ≠ 0 then return .error (.cause .xlate)
  else if inWindow va then
    match (← get).fixed c va k n with
    | .ok l => return if bad l then .error (.cause .perm) else .ok l
    | .error e => return .error (.cause e)
  else
    match ← lookup c va k with
    | .error .moving => return .error .moving
    | .error (.cause e) => return .error (.cause e)
    | .ok l =>
      if !allowed l.pte k then return .error (.cause .perm)
      else if l.tiered then
        if bits l.pte 61 1 = 1 then return .error (.cause .mcheck) else return .error (.tier l)
      else
        let s ← get
        let (pa, loc) := l.loc s c va
        if loc.attr = 2 ∧ (k = .fetch ∨ k = .amo) ∨ bad loc = true then return .error (.cause .perm)
        else if !s.dev.grants c.tenant pa k then return .error (.cause .extent)
        else
          if (k = .store ∨ k = .amo) ∧ bits l.pte 7 1 = 0 then set (s.orLeaf l 7).1
          return .ok loc

/-- Translate(va, kind) where the place itself refuses nothing. -/
def translate : Ctx → Nat → Kind → Nat → M (Except XErr Loc) := translateAt fun _ => false

/-- The promotion wait of a hart's access (R57): without a limit for a page under staged promotion, 10 ms otherwise,
counted from the access's own first attempt on the page, whether or not STG was set then. -/
def awaitTier (c : Ctx) (el : Nat) (va : Nat) (l : Leaf) : M Unit := do
  modD (·.askPromotion c l va)
  modH fun h => { h with sy := { h.sy with tierAsk := some (el, va, l.ptea) } }
  let s ← get
  match s.h.sy.tierClock.find? (·.1 == l.ptea) with
  | some (_, t0) => if bits l.pte 62 1 = 0 ∧ s.time ≥ t0 + tierLimit then trap .tierwait el (BitVec.ofNat 64 va) else wait .tier
  | none =>
    modH fun h => { h with sy := { h.sy with tierClock := (l.ptea, s.time) :: h.sy.tierClock } }
    wait .tier

/-- Translation of a hart's own access (R56, R57), a place that `bad` refuses raising PERM. A speculative element of a
strip does not wait: it gets TIERWAIT at once (R57), which the load suppresses. -/
def translateHAt (bad : Loc → Bool) (el va : Nat) (k : Kind) (n : Nat) (spec : Bool) : M Loc := do
  let h ← getH
  let c := h.ctx
  match ← translateAt bad c va k n with
  | .ok l => return l
  | .error (.cause e) => trap e el (BitVec.ofNat 64 va)
  | .error .moving => wait .tier
  | .error (.tier l) =>
    if spec then
      modD (·.askPromotion c l va)
      trap .tierwait el (BitVec.ofNat 64 va)
    else
      awaitTier c el va l
      wait .tier

/-- Translation of a hart's access where the place itself refuses nothing. -/
def translateH : Nat → Nat → Kind → Nat → Bool → M Loc := translateHAt fun _ => false

/-- What one translation or one window check covers at an address: the rest of a 64 KiB frame (R56, R58), or of a bank
in a fixed window (R50). -/
def stretch (va : Nat) : Nat := if inWindow va then 0x4000 - va % 0x4000 else 0x10000 - va % 0x10000

/-- The stretches of an access that each lie in one 64 KiB frame or one bank: address and length, lowest first (R50,
R56, R58). -/
def frames (va : Nat) : Nat → Nat → List (Nat × Nat)
  | 0, _ => []
  | fuel + 1, n =>
    if n = 0 then []
    else
      let m := min n (stretch va)
      (va, m) :: frames ((va + m) % 2 ^ 64) fuel (n - m)

/-- The pieces of a stretch within single lines (R273): location and length. -/
def linePieces (key : Nat) : Nat → Nat → List (Nat × Nat)
  | 0, _ => []
  | fuel + 1, n =>
    if n = 0 then []
    else
      let m := min n (128 - key % 128)
      (key, m) :: linePieces (key + m) fuel (n - m)

/-- TPROBE's translation (R61): nothing set, nothing asked, no wait. A window address is checked as a naturally aligned
access of 8 bytes. A page-table read that meets an error or an absent device gives MCHECK, a cause that R61 does not
list: the model's choice (notes/assumptions/48.md). It walks afresh and uses no translation that a TLB holds, which R61
leaves open: the model's choice (notes/assumptions/65.md). -/
def State.probe (s : State) (c : Ctx) (va : Nat) (k : Kind) : Except Cause (Loc × Nat × Bool) :=
  if va / 2 ^ 52 ≠ 0 then .error .xlate
  else if inWindow va then
    match s.fixed c (va / 8 * 8) k 8 with
    | .ok l => .ok (l, va, true)
    | .error e => .error e
  else
    match s.walkFrom c.tenant va (c.root.toNat / 2 ^ 15 * 2 ^ 15) 3 with
    | .error (.cause e) => .error e
    | .error .moving => .error .tierwait
    | .ok l =>
      if !allowed l.pte k then .error .perm
      else if l.tiered then .error .tierwait
      else
        let (pa, loc) := l.loc s c va
        if loc.attr = 2 ∧ (k = .fetch ∨ k = .amo) then .error .perm
        else if !s.dev.grants c.tenant pa k then .error .extent
        else .ok (loc, pa, false)

end Sys2Proof.Machine
end

