-- ==== Sys2Proof/Machine/Access.lean ====
section
/-! DEFINITION. Accesses of a hart (R263-R281, R286-R289): loads with forwarding, stores into the Sluice or the store
queue, draining and arriving, wake writes at a slot's home, data triggers, fetching an instruction. -/

namespace Sys2Proof.Machine

/-! ### Continuation records at their home (R88, R89, R95) -/

def Device.slotTenant (d : Device) (slot : Nat) : Option Nat :=
  (d.tenants.find? fun t => t.crGroups.contains (slot / 16)).map (·.num)

def Device.cr (d : Device) (slot : Nat) : Cr :=
  (d.crs.find? (·.slot == slot)).getD { slot := slot, tenant := (d.slotTenant slot).getD 0 }

def Device.setCr (d : Device) (c : Cr) : Device :=
  if d.crs.any (·.slot == c.slot) then { d with crs := d.crs.map fun y => if y.slot == c.slot then c else y }
  else { d with crs := d.crs ++ [c] }

def CrState.code : CrState → Nat
  | .free => 0 | .open => 1 | .parked => 2 | .waking => 3 | .launched => 4 | .failed => 5

def Device.crAddr (d : Device) (slot : Nat) : Nat := d.crpa + slot * 4096

/-- The engine's fields in the 64-byte header (R89). -/
def Cr.header (c : Cr) (old : Nat) : Nat :=
  let x := putBits old 448 64 c.wtime
  let x := putBits x 384 64 c.ptime
  let x := putBits x 320 52 c.root.toNat
  let x := putBits x 240 16 c.asid.toNat
  let x := putBits x 232 5 c.tenant
  let x := putBits x 208 8 c.queue
  let x := putBits x 200 2 c.tier
  putBits x 192 8 c.st.code

/-- A change of the engine's table, written into the header (R89). -/
def State.putCr (s : State) (c : Cr) : State :=
  let s := { s with dev := s.dev.setCr c }
  let a := s.dev.crAddr c.slot
  s.putMem peatAgent a (toBytes 64 (c.header (s.dev.mem.getNat a 64)))

/-- A saturating increment. -/
def satInc (w : Word) : Word := if w = BitVec.allOnes 64 then w else w + 1

/-- A wake write at the slot's home (R95): accepted when PARKED and equal to COOKIE, counted otherwise. -/
def State.wakeWrite (s : State) (slot : Nat) (v : Word) : State :=
  let s := s.touch (drBase + 0x10000000000 + slot * 8)
  let c := s.dev.cr slot
  if c.st = .parked ∧ v.toNat = s.dev.mem.getNat (s.dev.crAddr slot) 8 then
    s.putCr { c with
      st := .waking
      wtime := s.time
      thbm := none
      tcxl := none
      overflow := false
      pass := none
      staged := false
      pageFailed := false
      todo := [] }
  else
    match s.dev.slotTenant slot with
    | some t => { s with dev := s.dev.modTenant t fun x => { x with wrej := satInc x.wrej } }
    | none => s

/-! ### Waits at homes -/

/-- A copy command owns the line (R131). -/
def Device.owned (d : Device) (k : Nat) : Bool := d.cmds.any fun c => c.lines.any (·.1 == lineOf k)

/-- The bank a location lies in. -/
def Device.bankAt (d : Device) (k : Nat) : Option Bank :=
  let i := (k - 2 ^ 52) / 0x4000
  d.bank? (i / 48 / 64) (i / 48 % 64) (i % 48)

/-- A tracked bank that is not READY makes hart accesses wait (R115). -/
def Device.bankWaits (d : Device) (k : Nat) : Bool :=
  match regionOf k with
  | .bank => match d.bankAt k with
    | some b => b.trk && b.st != 2
    | none => false
  | _ => false

/-! ### Forwarding (R252, R267) -/

/-- Bytes at `k` with a younger part laid over them. -/
def overlay (k : Nat) (p : Part) : List Byte → List Byte
  | [] => []
  | b :: r =>
    let nb := if p.key ≤ k ∧ k < p.key + p.bytes.length then
        let x := (p.bytes[k - p.key]?).getD 0
        match p.mask with
        | none => x
        | some m => (b &&& ~~~m) ||| (x &&& m)
      else b
    nb :: overlay (k + 1) p r

/-- The hart's own stores not yet at home, oldest first: store queue, then held stores (R252). -/
def Hart.ownStores (h : Hart) : List Part :=
  match h.ms.strip with
  | some st => h.ms.storeQ ++ st.held.map (·.part)
  | none => h.ms.storeQ

/-- Whether own stores give every byte whole, so that none comes from the home. -/
def covered (ps : List Part) (k : Nat) : Nat → Bool
  | 0 => true
  | n + 1 => ps.any (fun p => p.mask == none && decide (p.key ≤ k) && decide (k < p.key + p.bytes.length)) &&
      covered ps (k + 1) n

/-- Bytes as the hart sees them over the bytes of the home. -/
def forward (ps : List Part) (k : Nat) (home : List Byte) : List Byte := ps.foldl (fun bs p => overlay k p bs) home

/-! ### Performing stores at homes -/

/-- A part takes its place at its home (R264): memory and banks, a wake word, a device register. `t` is the tenant of
the storing hart. -/
def State.place (s : State) (a : Agent) (t : Nat) (p : Part) : State :=
  match regionOf p.key with
  | .regs off => s.writeReg (.hart t) off (BitVec.ofNat 64 (ofBytes p.bytes))
  | .wake c => s.wakeWrite c (BitVec.ofNat 64 (ofBytes p.bytes))
  | _ => s.putMem a p.key (overlay p.key p (s.dev.mem.getBytes p.key p.bytes.length))

/-- A counter of the stall-pair table, saturating (R354). -/
def Hart.countUp (h : Hart) (i : Fin 4) : Hart :=
  { h with db := { h.db with counter := h.db.counter.set i (satInc h.db.counter[i]) } }

/-- A drained remote store fails (R342): held for report, a second one only counted. -/
def Hart.fabricFails (h : Hart) (va : Nat) : Hart :=
  match h.ms.fabFail with
  | none => { h with ms := { h.ms with fabFail := some (BitVec.ofNat 64 va) } }
  | some _ => h.countUp 2

/-- A released store that its page has not taken within 10 ms is lost (R57): the first is held for report
(notes/assumptions/53.md). -/
def Hart.tierFails (h : Hart) (va : Nat) : Hart :=
  { h with ms := { h.ms with tierFail := some (h.ms.tierFail.getD (BitVec.ofNat 64 va)) } }

/-- A hart by its gang and rank. -/
def Hart.ref (h : Hart) : HartRef := ⟨h.id.gang.toNat, h.id.rank⟩

/-- Address of the CPY of the moving hart whose command satisfies `p`, a stall's producer; 0 for another agent (R353).
-/
def State.ownCpy (s : State) (p : Cmd → Bool) : BitVec 52 :=
  ((s.dev.cmds.find? fun c => c.owner == s.h.ref && p c).map (·.pc)).getD 0

/-- Address of the instruction whose store is the oldest in a list, a stall's producer. -/
def firstPc (ps : List Part) : BitVec 52 := (ps.head?.map (·.pc)).getD 0

/-! ### Held stores of TIERED pages (R250) -/

/-- What a walk finds for a part without a location: the part at its home, a page still to be promoted (its leaf, or one
that is moving), or a page that takes no store any more. -/
inductive Resolved where
  | at' (s : State) (p : Part)
  | waits (l : Option Leaf)
  | lost

/-- A held store of a page that was TIERED walks again (R57): once the page is resident it has its location, A and D are
set, and the extents have their say (R54, R56, R58; notes/assumptions/53.md). -/
def State.resolve (s : State) (p : Part) : Resolved :=
  match p.tier with
  | none => .at' s p
  | some _ =>
    let c := s.h.ctx
    match s.walk c.tenant c.root p.va with
    | .error .moving => .waits none
    | .error (.cause _) => .lost
    | .ok l =>
      if !allowed l.pte .store then .lost
      else if l.tiered then (if bits l.pte 61 1 = 1 then .lost else .waits (some l))
      else
        let (pa, loc) := l.loc s c p.va
        if !s.dev.grants c.tenant pa .store then .lost
        else
          let r := s.orLeaf l 6
          .at' (r.1.orLeaf r.2 7).1
            { p with key := loc.key, nonidem := loc.attr == 2, map := loc.map, tier := none, asked := none }

/-! ### Elements bound ahead (R267, R268) -/

/-- An element has bound bytes that a part writes. -/
def BoundElem.meets (b : BoundElem) (p : Part) : Bool :=
  (b.parts.any fun q => decide (q.1 < p.key + p.bytes.length) && decide (p.key < q.1 + q.2.length)) ||
  (p.tier.isSome && b.vas.any fun q => decide (q.1 < p.va + p.bytes.length) && decide (p.va < q.1 + q.2))

/-- A part as the store of an older instruction that an element knew when it bound. -/
def Part.mark (p : Part) : BitVec 52 × Nat × Nat := (p.pc, p.key, p.bytes.length)

/-- Elements that `p` picks are to be replayed, and what derives from them (R268): oldest first, `gone` so far. -/
def staleElems (p : BoundElem → Bool) : List Nat → List BoundElem → List Nat × List BoundElem
  | gone, [] => (gone, [])
  | gone, b :: r =>
    let hit := b.stale || p b || b.deps.any gone.contains
    let t := staleElems p (if hit then b.id :: gone else gone) r
    (t.1, { b with stale := hit } :: t.2)

def staleIssued (p : BoundElem → Bool) : List Nat → List Issued → List Issued
  | _, [] => []
  | gone, e :: r =>
    let t := staleElems p gone e.elems
    { e with elems := t.2 } :: staleIssued p t.1 r

/-- Elements of younger instructions that `p` picks are to be replayed (R268). -/
def Hart.unsettle (p : BoundElem → Bool) (h : Hart) : Hart :=
  match h.ms.bound with
  | [] => h
  | e :: r =>
    if h.ms.look.isSome then h else { h with ms := { h.ms with bound := e :: staleIssued p [] r } }

/-- A load that binds meets younger elements that had bound one of its bytes before another agent wrote it (R268). -/
def Hart.dropRead (h : Hart) (parts : List (Nat × List Byte)) : Hart :=
  h.unsettle fun b => b.later.any fun k => parts.any fun p => decide (p.1 ≤ k) && decide (k < p.1 + p.2.length)

/-- A store meets the younger elements that have bound its bytes (R268): they are replayed, but for those that had its
data when they bound (R267). -/
def Hart.meetStore (h : Hart) (p : Part) : Hart :=
  let h := h.unsettle fun b => b.meets p && !b.knew.contains p.mark
  let forget (b : BoundElem) : BoundElem := if b.meets p then { b with knew := b.knew.erase p.mark } else b
  { h with ms := { h.ms with bound := h.ms.bound.map fun e => { e with elems := e.elems.map forget } } }

/-- The stores of an instruction meet what younger ones have bound. -/
def Hart.dropBound (h : Hart) (parts : List Part) : Hart :=
  if h.ms.bound = [] ∨ h.ms.look.isSome = true then h else parts.foldl Hart.meetStore h

/-- A store that only now has its location meets what the hart's present and later instructions have bound. -/
def Hart.meetLate (h : Hart) (p : Part) : Hart :=
  { h with ms := { h.ms with bound := staleIssued (·.meets p) [] h.ms.bound } }

/-- Every own store whose page has become resident gets its location. -/
def State.resolveOwn (s : State) : State :=
  let one (s : State) (p : Part) : State × Part := if p.tier.isNone then (s, p) else match s.resolve p with
    | .at' s' p' => ({ s' with h := s'.h.meetLate p' }, p')
    | _ => (s, p)
  let all (s : State) (ps : List Part) : State × List Part :=
    ps.foldl (fun r p => let x := one r.1 p; (x.1, r.2 ++ [x.2])) (s, [])
  if s.h.ownStores.any (·.tier.isSome) then
    let (s, q) := all s s.h.ms.storeQ
    match s.h.ms.strip with
    | none => { s with h := { s.h with ms := { s.h.ms with storeQ := q } } }
    | some st =>
      let (s, hs) := all s (st.held.map (·.part))
      let held := (st.held.zip hs).map fun x => { x.1 with part := x.2 }
      { s with h := { s.h with ms := { s.h.ms with storeQ := q, strip := some { st with held := held } } } }
  else s

/-- DRAIN of the oldest store-queue entry of the moving hart (R266), none when it must wait: an owned line (R131), a
TIERED page, whose promotion is asked for first and which is waited for no longer than 10 ms (R57), a domain release or
a wake write behind entries in fabric queues (R274, R279), a NONIDEM store behind one that another device has still to
perform (R49). -/
def State.drainOne (s : State) : Option State :=
  match s.h.ms.storeQ with
  | [] => none
  | p :: r =>
    match s.resolve p with
    | .lost => some { s with h := { s.h with ms := { s.h.ms with storeQ := r } }.fabricFails p.va }
    | .waits none => none
    | .waits (some l) =>
      let d := s.dev.askPromotion s.h.ctx l p.va
      match p.asked with
      | none => some { s with
          dev := d
          h := { s.h with ms := { s.h.ms with storeQ := { p with asked := some s.time } :: r } } }
      | some t0 =>
        if bits l.pte 62 1 = 0 ∧ t0 + tierLimit ≤ s.time then
          some { s with h := { s.h with ms := { s.h.ms with storeQ := r } }.tierFails p.va }
        else if d = s.dev then none else some { s with dev := d }
    | .at' s1 q =>
      let s := if p.tier.isSome then { s1 with h := s1.h.meetLate q } else s1
      let s' := { s with h := { s.h with ms := { s.h.ms with storeQ := r } } }
      let wakeOrRel := (match regionOf q.key with | .wake _ => true | _ => false) || q.rel == some 4
      let peer := match regionOf q.key with | .domain d => some d | _ => none
      if s.dev.owned q.key then none
      else if wakeOrRel && s.h.ms.fabricQ != [] then none
      else if q.nonidem && s.h.ms.fabricQ.any (fun x => x.2.nonidem && some x.1 != peer) then none
      else match peer with
        | some d => some { s' with h := { s'.h with ms := { s'.h.ms with fabricQ := s'.h.ms.fabricQ ++ [(d, q)] } } }
        | none => some (s'.place (hartAgent s.h) s.h.id.tenant q)

/-- A load of the moving hart that has come to device `d` binds from its home (R276): its bytes, or none where the
device does not answer or they hold an error (R48, R340). -/
def State.landLoad (s : State) (d : Nat) (l : RemoteLoad) : State :=
  let r := s.remoteAccess d
  let bs := if r.1 && !r.2.dev.bad l.key l.len then some (r.2.dev.mem.getBytes l.key l.len) else none
  { r.2 with h := { s.h with ms := { s.h.ms with
    loadQ := s.h.ms.loadQ.erase (d, l)
    landed := s.h.ms.landed ++ [{ l with bytes := bs }] } } }

/-- ARRIVE of the oldest fabric entry of the moving hart toward device `d` (R276): a drained store, behind all of them
an issued load. -/
def State.arriveOne (s : State) (d : Nat) : Option State :=
  match s.h.ms.fabricQ.find? (·.1 == d) with
  | none => match s.h.ms.loadQ.find? (·.1 == d) with
    | none => none
    | some (_, l) => if s.dev.owned l.key then none else some (s.landLoad d l)
  | some (e, p) =>
    if s.dev.owned p.key then none
    else
      let s' := { s with h := { s.h with ms := { s.h.ms with fabricQ := s.h.ms.fabricQ.erase (e, p) } } }
      match s'.remoteAccess d with
      | (true, t) => some (t.putMem (hartAgent s.h) p.key (overlay p.key p (s.dev.mem.getBytes p.key p.bytes.length)))
      | (false, t) => some { t with h := t.h.fabricFails p.va }

/-- Repeats a step while it can be taken, at most `n` times. -/
def repeatStep (f : State → Option State) : Nat → State → State
  | 0, s => s
  | n + 1, s => match f s with
    | some s' => repeatStep f n s'
    | none => s

/-- Every queued store of the moving hart that can be performed is performed, in order. -/
def State.drainQueues (s : State) : State :=
  let arriveAny (s : State) : Option State :=
    match s.h.ms.fabricQ with
    | [] => none
    | (d, _) :: _ => s.arriveOne d
  let stepQ (s : State) : Option State :=
    match arriveAny s with
    | some s' => some s'
    | none => s.drainOne
  repeatStep stepQ (2 * s.h.ms.storeQ.length + s.h.ms.fabricQ.length) s

/-- The next hart comes to the front. -/
def State.rotate (s : State) : State :=
  match s.others with
  | [] => s
  | a :: r => { s with h := a, others := r ++ [s.h] }

/-- A change made at each hart in turn, the order of the harts kept. -/
def State.eachHart (f : State → State) (s : State) : State :=
  (List.range (s.others.length + 1)).foldl (fun s _ => (f s).rotate) s

/-- Waits until the hart's store queue is empty; what can be performed is performed now. On a look ahead nothing drains.
-/
def flushStores : M Unit := do
  if (← getH).ms.look.isSome then return ()
  modify State.drainQueues
  let q := (← getH).ms.storeQ
  if q ≠ [] then wait .drain (firstPc q)

/-- The conditions of a release of the given scope (R274). -/
def releaseWait (scope : Nat) : M Unit := do
  flushStores
  let h ← getH
  let q := h.ms.fabricQ.map (·.2)
  if scope = 4 ∧ q ≠ [] ∧ h.ms.look.isNone = true then wait .fabric (firstPc q)

/-- A held failure of a drained remote store is raised at a domain ordering point (R342), and so is TIERWAIT of a
released store, the model's choice (R57; notes/assumptions/53.md). -/
def raiseFabric : M Unit := do
  let h ← getH
  match h.ms.fabFail, h.ms.tierFail with
  | none, none => return ()
  | none, some a =>
    modH fun h => { h with ms := { h.ms with tierFail := none } }
    trap .tierwait 0 a
  | some a, _ =>
    modH fun h => { h with ms := { h.ms with fabFail := none } }
    trap .mcheck 0 a

/-! ### Data triggers (R349) -/

/-- The lowest byte of an access that a WATCH register matches, with its ACT. -/
def watchMatch (w : Word) (k : Kind) (va n : Nat) : Option (Nat × Bool) :=
  let kind := bits w.toNat 61 2
  let on := w.getLsbD 63 && (match k with
    | .load => kind == 1 || kind == 3
    | .store => kind == 2 || kind == 3
    | .amo => kind != 0
    | .fetch => false)
  let sz := 2 ^ min 40 (bits w.toNat 54 6)
  let lo := bits w.toNat 0 52 / sz * sz
  if on && decide (va < lo + sz) && decide (lo < va + n) then some (max va lo, w.getLsbD 60) else none

/-- The first match among the four triggers at the lowest byte. -/
def Hart.watchHit (h : Hart) (k : Kind) (va n : Nat) : Option (Nat × Bool) :=
  (h.hr.watch.toList.filterMap (watchMatch · k va n)).foldl
    (fun best m => match best with | none => some m | some b => if m.1 < b.1 then some m else best) none

/-- Of two matches the one at the lower byte. -/
def lowerHit (old : Option (Nat × Bool)) (a : Nat) (act : Bool) : Option (Nat × Bool) :=
  match old with
  | some o => if a < o.1 then some (a, act) else some o
  | none => some (a, act)

/-- What has not been performed meets no trigger (R349): a stop takes back the matches of the accesses before it. -/
def guardWatch {α : Type} (x : M α) : M α := do
  let w := (← getH).ms.watchHit
  tryCatch x fun st => do
    modH fun h => { h with ms := { h.ms with watchHit := w } }
    throw st

/-- A performed access meets the triggers (R349): acted on after the element, or recorded in a strip for a held store or
a speculative load (`tag` is the element). -/
def noteWatch (k : Kind) (va n : Nat) (spec : Bool) (tag : Option Nat) : M Unit := do
  let h ← getH
  match h.watchHit k va n with
  | none => return ()
  | some (a, act) =>
    match h.ms.strip with
    | some st =>
      if spec || k == .store then
        modH fun h => { h with ms := { h.ms with strip := some { st with watch := st.watch ++ [(a, tag, act)] } } }
      else modH fun h => { h with ms := { h.ms with watchHit := lowerHit h.ms.watchHit a act } }
    | none => modH fun h => { h with ms := { h.ms with watchHit := lowerHit h.ms.watchHit a act } }

/-! ### Loads -/

/-- Bytes at a home as memory or a register gives them; the caller has checked everything. -/
def State.readHome (s : State) (k n : Nat) : List Byte :=
  match regionOf k with
  | .wake _ => List.replicate n 0
  | .regs off => toBytes n (s.readReg (off / 8 * 8))
  | _ => s.dev.mem.getBytes k n

/-- The hart's older accesses of a device arrive before a further one, those in the store queue too (R276). -/
def arriveAll (d : Nat) : M Unit := do
  let at' (p : Part) : Bool := match regionOf p.key with | .domain e => e == d | _ => false
  let ms := (← getH).ms
  if ms.storeQ.any at' || ms.fabricQ.any (·.1 == d) then modify State.drainQueues
  let q := (← getH).ms.storeQ.filter at'
  if q ≠ [] then wait .drain (firstPc q)
  let q := ((← getH).ms.fabricQ.filter (·.1 == d)).map (·.2)
  if q ≠ [] then wait .fabric (firstPc q)

/-- A load reaches a device of the domain (R48, R342). -/
def reachPeer (el va d : Nat) : M Unit := do
  let r := (← get).remoteAccess d
  set r.2
  if !r.1 then trap .mcheck el (BitVec.ofNat 64 va)

/-- The home's bytes of one piece (R267): waits for an owned line (R131) and for older entries of the fabric queue
(R276), MCHECK for an absent device or an uncorrectable error (R48, R340). -/
def bindHome (el va k n : Nat) : M (List Byte) := do
  let s ← get
  if s.dev.owned k then wait .ownership (s.ownCpy fun c => c.lines.any (·.1 == lineOf k))
  match regionOf k with
  | .domain d =>
    arriveAll d
    reachPeer el va d
  | .hole => throw (.fault (.hole k))
  | _ => pure ()
  let s ← get
  if s.dev.bad k n then trap .mcheck el (BitVec.ofNat 64 va)
  return s.readHome k n

/-- A part that lies on another device than this one. -/
def awayFrom (k : Nat) : Option Nat := match regionOf k with | .domain d => some d | _ => none

/-- The hart's older stores toward a device have left the store queue for its fabric queue (R276). -/
def sendStores (d : Nat) : M Unit := do
  let toward (p : Part) : Bool := awayFrom p.key == some d
  if (← getH).ms.storeQ.any toward then modify State.drainQueues
  let q := (← getH).ms.storeQ.filter toward
  if q ≠ [] then wait .drain (firstPc q)

/-- One piece of a load of another device (R276): it enters that device's fabric queue behind the hart's older accesses
and binds when it arrives. -/
def bindRemote (el va k n d : Nat) : M (List Byte) := do
  let h ← getH
  let l : RemoteLoad := { pc := h.pc, el := el, key := k, len := n }
  let same (x : RemoteLoad) : Bool := { x with bytes := none } == l
  if !h.ms.landed.any same then
    if !h.ms.loadQ.contains (d, l) then
      sendStores d
      modH fun h => { h with ms := { h.ms with loadQ := h.ms.loadQ ++ [(d, l)] } }
    let ms := (← getH).ms
    modify (repeatStep (·.arriveOne d) (ms.fabricQ.length + ms.loadQ.length))
  let ms := (← getH).ms
  match ms.landed.find? same with
  | some x => match x.bytes with
    | some bs => return bs
    | none => trap .mcheck el (BitVec.ofNat 64 va)
  | none => wait .fabric (firstPc ((ms.fabricQ.filter (·.1 == d)).map (·.2)))

/-- One piece of a load from its home. -/
def bindLoad (el va k n : Nat) : M (List Byte) :=
  match awayFrom k with
  | some d => bindRemote el va k n d
  | none => bindHome el va k n

/-- The next guessed bytes of a look ahead. -/
def Look.take (l : Look) (k n : Nat) : Look × List Byte :=
  ({ l with guess := l.guess.drop n, missed := k :: l.missed }, l.guess.take n ++ List.replicate (n - l.guess.length) 0)

/-- One piece of a load: own stores over the home, but for lines of a DISCARD that is ahead of the load (R271). -/
def bindPiece (el va k n : Nat) : M (List Byte) := do
  let h ← getH
  let ps := h.ownStores.filter (·.early == 0)
  if covered ps k n then return forward ps k (List.replicate n 0)
  else match h.ms.look with
    | none => return forward ps k (← bindLoad el va k n)
    | some l =>
      modH fun h => { h with ms := { h.ms with look := some (l.take k n).1 } }
      return forward ps k (l.take k n).2

/-- Which places refuse a piece with PERM: bytes of the whole access, address and bytes of the piece. -/
abbrev Refuses := Nat → Nat → Nat → Loc → Bool

/-- A scalar access of a NONIDEM page may not be misaligned, and one of the register window or a wake word must be a
doubleword (R50, R287, R359). -/
def scalarRule : Refuses := fun whole va n l =>
  l.attr == 2 && (va % whole != 0 || n != whole || (forcedNonidem l.key && n != 8))

/-- A vector access may have any alignment (R149) but in the register window and on wake words (R50, R359). -/
def vectorRule : Refuses := fun whole va n l => forcedNonidem l.key && (whole != 8 || va % 8 != 0 || n != 8)

/-- No NONIDEM place at all (R117, R141). -/
def idemRule : Refuses := fun _ _ _ l => l.attr == 2

/-- Pieces of an access, translated lowest first (R56): virtual address, place and length. `bad` says which places
refuse a piece with PERM. -/
def placesGo (bad : Nat → Nat → Loc → Bool) (el : Nat) (k : Kind) (spec : Bool) :
    List (Nat × Nat) → M (List (Nat × Loc × Nat))
  | [] => return []
  | (a, m) :: r => do
    let l ← translateHAt (bad a m) el a k m spec
    return (a, l, m) :: (← placesGo bad el k spec r)

def places (el va n : Nat) (k : Kind) (spec : Bool) (bad : Refuses := scalarRule) : M (List (Nat × Loc × Nat)) :=
  placesGo (bad n) el k spec (frames va (n + 1) n)

/-- A wait for a tracked bank that is not READY (R115), which a command of the hart itself may be filling. -/
def bankWait (k : Nat) : M Unit := do
  let s ← get
  if s.dev.bankWaits k then
    let i := (k - 2 ^ 52) / 0x4000 % (64 * 48)
    wait .bank (s.ownCpy fun c => c.dbanks.contains (i / 48, i % 48))

/-- Waits for the tracked banks an access touches, in address order (R115). -/
def bankReady : List (Nat × Loc × Nat) → M Unit
  | [] => return ()
  | (_, l, m) :: r => do
    bankWait l.key
    bankWait (l.key + m - 1)
    bankReady r

def bindPieces (el : Nat) : List (Nat × Nat × Nat) → M (List Byte)
  | [] => return []
  | (va, k, n) :: r => do
    let b ← bindPiece el va k n
    return b ++ (← bindPieces el r)

/-- Line pieces of placed stretches: virtual address, location, length. -/
def lineParts (ps : List (Nat × Loc × Nat)) : List (Nat × Nat × Nat) :=
  ps.flatMap fun (a, l, m) => (linePieces l.key (m + 1) m).map fun (k, n) => (a + (k - l.key), k, n)

/-- What the element `el` of the hart's next instruction has bound, or has recorded, ahead of its turn (R266, R249). -/
def Hart.boundElem (h : Hart) (el : Nat) : Option BoundElem :=
  match h.ms.bound with
  | e :: _ => if e.pc == h.pc then e.elems.find? fun b => b.el == el && !b.stale else none
  | [] => none

/-- One placed access of a load: bound ahead of its turn (R266), or bound now. -/
def bindPlaced (el : Nat) (ps : List (Nat × Loc × Nat)) : M (List Byte × Nat) := do
  let h ← getH
  let parts := lineParts ps
  let early : Option (List (List Byte)) := (h.boundElem el).bind fun b => parts.mapM fun p =>
    (b.parts.find? fun q => q.1 == p.2.1 && q.2.length == p.2.2).map (·.2)
  let bss ← match early with
    | some bss => pure bss
    | none => do
      let bss ← parts.mapM fun p => bindPiece el p.1 p.2.1 p.2.2
      modH (·.dropRead ((parts.zip bss).map fun p => (p.1.2.1, p.2)))
      pure bss
  return (bss.flatten, (parts.head?.map (·.2.1)).getD 0)

/-- A cause that a speculative strip has recorded at this element is raised now that the strip is not speculative
(R249). A recorded TIERWAIT becomes a wait that has begun at the speculative attempt (notes/assumptions/52.md). -/
def raiseRecorded (el : Nat) (spec : Bool) : M Unit := do
  match ((← getH).boundElem el).bind fun b => b.fault.map fun f => (f, b.asked) with
  | none => return ()
  | some ((c, a), asked) =>
    if c = .tierwait ∧ !spec then
      match asked with
      | some t => modH fun h =>
        if h.sy.tierClock.any (·.1 == t.1) then h else { h with sy := { h.sy with tierClock := t :: h.sy.tierClock } }
      | none => pure ()
    else trap c el a

/-- A byte with its location put into a list in address order. -/
def insertByte (x : Nat × Nat) : List (Nat × Nat) → List (Nat × Nat)
  | [] => [x]
  | y :: r => if x.1 ≤ y.1 then x :: y :: r else y :: insertByte x r

/-- First and last byte of an access through the fixed windows, with their locations. -/
def State.windowEnds (s : State) (a : Nat × Nat) : List (Nat × Nat) :=
  (frames a.1 (a.2 + 1) a.2).flatMap fun f => match s.fixed s.h.ctx f.1 .load f.2 with
    | .ok l => [(f.1, l.key), (f.1 + f.2 - 1, l.key + f.2 - 1)]
    | .error _ => []

/-- The tracked banks that an instruction touches through the fixed windows are READY, or it does not issue: they are
waited for in address order (R115). `as`: addresses and lengths of all that it has still to access. -/
def banksReady (as : List (Nat × Nat)) : M Unit := do
  let s ← get
  let ends := (as.filter fun a => inWindow a.1).flatMap s.windowEnds
  (ends.foldr insertByte []).forM fun b => bankWait b.2

/-- Causes that a speculative strip records in place of raising them (R248, R249). -/
def Cause.recorded : Cause → Bool
  | .xlate | .perm | .extent | .tierwait | .stripop => true
  | _ => false

/-- What a look ahead leaves of the element that it has looked for. -/
def lookFound {α : Type} (l : Look) : M α := do
  modH fun h => { h with ms := { h.ms with look := some l } }
  throw .left

/-- The element that a look ahead has looked for binds (R266, R267): at no NONIDEM place, and on another device only
where no older store of the hart to it is left (R276), which it then reaches at one instant. A held store whose page has become resident has its location
first. -/
def bindAimed (l : Look) (el : Nat) (as : List (Nat × Nat)) (spec : Bool) (bad : Refuses) : M BoundElem := do
  modify State.resolveOwn
  let ps ← as.mapM fun a => places el a.1 a.2 .load spec bad
  if ps.any (·.any (·.2.1.attr == 2)) then
    if l.record then trap .stripop el 0 else throw .left
  ps.forM bankReady
  let parts := ps.flatMap lineParts
  let own := (← getH).ownStores ++ ((← getH).ms.fabricQ.map (·.2))
  let early (k : Nat) : Bool := match awayFrom k with
    | some d => own.any fun p => awayFrom p.key == some d
    | none => false
  if parts.any fun p => early p.2.1 then throw .left
  let bss ← parts.mapM fun p => bindPiece el p.1 p.2.1 p.2.2
  let got := (parts.zip bss).map fun p => (p.1.2.1, p.2)
  modH (·.dropRead got)
  return { el := el, vas := as, parts := got }

/-- The leaf of a TIERED page with the time, for a recorded TIERWAIT. -/
def askedLeaf (a : Word) : M (Option (Nat × Nat)) := do
  let s ← get
  match ← translateAt (fun _ => false) s.h.ctx a.toNat .load 1 with
  | .error (.tier l) => return some (l.ptea, s.time)
  | _ => return none

/-- A look ahead arrives at the element that it looks for. -/
def aimed {α : Type} (l : Look) (el : Nat) (as : List (Nat × Nat)) (spec : Bool) (bad : Refuses) : M α := do
  if !l.real then lookFound { l with asked := as }
  modH fun h => { h with ms := { h.ms with look := none } }
  let b : BoundElem ← tryCatch (bindAimed l el as (spec || l.record) bad) fun
    | .trap c e a => do
      if !l.record || !c.recorded then throw .left
      let leaf ← if c = .tierwait then askedLeaf a else pure none
      return { el := e, vas := as, fault := some (c, a), asked := leaf }
    | st => throw st
  lookFound { l with got := some b }

/-- Whether an element has bound these accesses. -/
def Hart.hasBound (h : Hart) (el : Nat) (as : List (Nat × Nat)) : Bool :=
  match h.boundElem el with
  | some b => b.fault.isSome || as.all b.vas.contains
  | none => false

/-- The reads of one load element, or of a scalar load (R149): every byte is translated before any is bound. `spec`: a
speculative element of a strip (R248), whose NONIDEM access raises STRIPOP as every NONIDEM load of a strip does. -/
def loadMany (el : Nat) (as : List (Nat × Nat)) (spec : Bool) (bad : Refuses) : M (List (List Byte × Nat)) := do
  match (← getH).ms.look with
  | some l => if l.aim = some el ∧ (← getH).hasBound el as = false then aimed l el as spec bad
  | none => pure ()
  raiseRecorded el spec
  modify State.resolveOwn
  let ps ← as.mapM fun a => places el a.1 a.2 .load spec bad
  if ps.any (·.any (·.2.1.attr == 2)) then
    if (← getH).ms.strip.isSome then trap .stripop el 0
    if (← getH).ms.look.isNone then modify State.drainQueues
    let h ← getH
    let q := (h.ms.storeQ ++ h.ms.fabricQ.map (·.2)).filter (·.nonidem)
    if q ≠ [] ∧ h.ms.look = none then wait .drain (firstPc q)
  ps.forM bankReady
  let bs ← ps.mapM (bindPlaced el)
  as.forM fun a => noteWatch .load a.1 a.2 spec (some el)
  return bs

/-- Mem(va, n) read by the hart with the location of its first byte. -/
def loadPlaced (el va n : Nat) (spec : Bool) (bad : Refuses := scalarRule) : M (List Byte × Nat) := do
  return ((← loadMany el [(va, n)] spec bad).head?).getD ([], 0)

/-- Mem(va, n) read by the hart (R46). -/
def loadBytes (el va n : Nat) (spec : Bool) (bad : Refuses := scalarRule) : M (List Byte) := do
  return (← loadPlaced el va n spec bad).1

/-- A load as a number, little-endian. -/
def loadNat (el va n : Nat) (spec : Bool) (bad : Refuses := scalarRule) : M Nat := do
  return ofBytes (← loadBytes el va n spec bad)

/-! ### Stores -/

/-- The parts of a store whose bytes lie at the placed stretches. -/
def storeParts (ps : List (Nat × Loc × Nat)) (bs : List Byte) (mask : Option Byte) (rel : Option Nat) : List Part :=
  (lineParts ps).foldl (fun (acc : List Part × List Byte) (p : Nat × Nat × Nat) =>
      let l := (ps.find? fun q => decide (q.1 ≤ p.1) && decide (p.1 < q.1 + q.2.2)).map (·.2.1)
      let part : Part :=
        { key := p.2.1
          bytes := acc.2.take p.2.2
          mask := mask
          nonidem := (l.map (·.attr)).getD 0 == 2
          rel := rel
          va := p.1
          map := (l.map (·.map)).getD {}
          tier := l.bind (·.tier) }
      (acc.1 ++ [part], acc.2.drop p.2.2)) ([], bs) |>.1

/-- Live held bytes of the strip (R251). -/
def Strip.liveBytes (st : Strip) : Nat := st.held.foldl (fun n x => n + x.part.bytes.length) 0

/-- Hold (R46, R250, R251): the parts of one element or scalar store enter the Sluice, or STRIPCAP. -/
def holdParts (tag : Option Nat) (parts : List Part) : M Unit := do
  let h ← getH
  match h.ms.strip with
  | none => return ()
  | some st =>
    let n := parts.foldl (fun n x => n + x.bytes.length) 0
    if st.liveBytes + n > st.share then trap .stripcap (tag.getD 0) (h.pc.setWidth 64)
    modH fun h => { h with ms := { h.ms with strip := some { st with held := st.held ++ parts.map (⟨tag, ·⟩) } } }

/-- Parts enter the store queue, or the Sluice inside a strip (R250, R265). -/
def enterStore (tag : Option Nat) (parts : List Part) : M Unit := do
  let pc := (← getH).pc
  let parts := parts.map fun p => { p with pc := pc }
  modH (·.dropBound parts)
  if (← getH).ms.strip.isSome then holdParts tag parts
  else modH fun h =>
    { h with ms := { h.ms with storeQ := h.ms.storeQ ++ parts } }

/-- One write of a store: address, bytes, and the bits written where not all are. -/
structure Write where
  va : Nat
  bs : List Byte
  mask : Option Byte := none
  deriving DecidableEq, Repr

/-- Translation of a piece of a store: a strip holds a store to a TIERED page without a wait (R250),
with the mapping it was translated through (R62). -/
def storePlace (bad : Loc → Bool) (el a m : Nat) : M Loc := do
  let h ← getH
  if h.ms.strip.isNone then translateHAt bad el a .store m false
  else match ← translateAt bad h.ctx a .store m with
    | .ok l => return l
    | .error (.cause e) => trap e el (BitVec.ofNat 64 a)
    | .error .moving => wait .tier
    | .error (.tier l) =>
    return { key := tierKey a, tier := some l.ptea, map := l.tierMap h.ctx a (← get).cycle }

def storePlacesGo (bad : Nat → Nat → Loc → Bool) (el : Nat) : List (Nat × Nat) → M (List (Nat × Loc × Nat))
  | [] => return []
  | (a, m) :: r => do
    let l ← storePlace (bad a m) el a m
    return (a, l, m) :: (← storePlacesGo bad el r)

/-- Pieces of a store that is about to be entered, translated lowest first. -/
def storePlaces (el va n : Nat) (bad : Refuses) : M (List (Nat × Loc × Nat)) :=
  storePlacesGo (bad n) el (frames va (n + 1) n)

/-- The writes of one store element, or of a scalar store (R46, R149, R250, R265): every byte is translated before one
is entered. -/
def storeMany (el : Nat) (ws : List Write) (tag rel : Option Nat) (bad : Refuses := vectorRule) : M Unit := do
  let ps ← ws.mapM fun w => return (w, ← storePlaces el w.va w.bs.length bad)
  ps.forM fun p => bankReady p.2
  enterStore tag (ps.flatMap fun p => storeParts p.2 p.1.bs p.1.mask rel)
  ws.forM fun w => noteWatch .store w.va w.bs.length false tag

/-- Mem(va, n) ← bytes. -/
def storeBytes (el va : Nat) (bs : List Byte) (tag rel : Option Nat) : M Unit :=
  storeMany el [{ va := va, bs := bs }] tag rel scalarRule

/-! ### Fetch (R25, R42, R43) -/

/-- Contents of a parcel older than its present one that a fetch may still give: as it stood at the hart's last FENCE,
and as the hart has fetched it since (R43; notes/assumptions/73.md). -/
def Hart.oldParcels (h : Hart) (k new : Nat) : List Nat :=
  ((h.ms.codeMem.getNat k 2 :: (h.ms.ibuf.filter (·.1 == k)).map (·.2)).filter (· != new)).eraseDups

/-- FetchParcel's content: old or new, as long as no FENCE has come between (R43). -/
def parcelAt (k : Nat) : M Nat := do
  let s ← get
  let new := s.dev.mem.getNat k 2
  match s.h.oldParcels k new with
  | [] => return new
  | o :: r =>
    let c ← choose
    return if c = 0 then new else ((o :: r)[c - 1]?).getD new

/-- A translated parcel read: MCHECK for an absent device or an error (R41 order 3); it stays in the hart's record of
fetched parcels (R43). -/
def readParcel (el a : Nat) (l : Loc) : M Nat := do
  let s ← get
  match regionOf l.key with
  | .domain d => reachPeer el a d
  | _ => pure ()
  if s.dev.bad l.key 2 then trap .mcheck el (BitVec.ofNat 64 a)
  let p ← parcelAt l.key
  modH fun h => { h with ms := { h.ms with ibuf := (l.key, p) :: h.ms.ibuf.filter (· != (l.key, p)) } }
  return p

/-- The word of the instruction at an address (R25): the first parcel gives the length; every other parcel is translated
before one is read (R41). The element of a fault is where the hart resumes, `el` (R21, R46). That a first parcel with an
error gives MCHECK before the others, which its length counts, are translated is the model's choice
(notes/assumptions/47.md). -/
def fetchWord (el a : Nat) : M Nat := do
  let p0 ← readParcel el a (← translateH el a .fetch 2 false)
  match lengthOf p0 with
  | 2 => return p0
  | 4 => do
    let l1 ← translateH el (a + 2) .fetch 2 false
    let p1 ← readParcel el (a + 2) l1
    return p0 + p1 * 2 ^ 16
  | _ => do
    let l1 ← translateH el (a + 2) .fetch 2 false
    let l2 ← translateH el (a + 4) .fetch 2 false
    let l3 ← translateH el (a + 6) .fetch 2 false
    let p1 ← readParcel el (a + 2) l1
    let p2 ← readParcel el (a + 4) l2
    let p3 ← readParcel el (a + 6) l3
    return p0 + p1 * 2 ^ 16 + p2 * 2 ^ 32 + p3 * 2 ^ 48

end Sys2Proof.Machine
end

