-- ==== Sys2Proof/Machine/Operands.lean ====
section
/-! DEFINITION. Integer results of operands of any width, shared by the scalar and the vector forms (R168, R283), and how
an immediate reads (R26, R34). Operands and results are numbers below 2^w. -/

namespace Sys2Proof.Machine

/-- An immediate widened to a register value (R26, R34). -/
def immWord {n : Nat} (i : BitVec n) : Word := i.signExtend 64

/-- A byte displacement of a branch: disp × 2 (R26). -/
def disp2 {n : Nat} (i : BitVec n) : BitVec 52 := BitVec.ofInt 52 (2 * i.toInt)

def addW (w a b : Nat) : Nat := (a + b) % 2 ^ w
def subW (w a b : Nat) : Nat := wrap w ((a : Int) - b)
def mulW (w a b : Nat) : Nat := a * b % 2 ^ w

def minS (w a b : Nat) : Nat := if sext w a ≤ sext w b then a % 2 ^ w else b % 2 ^ w
def maxS (w a b : Nat) : Nat := if sext w b ≤ sext w a then a % 2 ^ w else b % 2 ^ w
def minZ (w a b : Nat) : Nat := min (a % 2 ^ w) (b % 2 ^ w)
def maxZ (w a b : Nat) : Nat := max (a % 2 ^ w) (b % 2 ^ w)

def sllW (w a k : Nat) : Nat := a * 2 ^ k % 2 ^ w
def srlW (w a k : Nat) : Nat := a % 2 ^ w / 2 ^ k
def sraW (w a k : Nat) : Nat := wrap w (sext w a / (2 ^ k : Nat))

def mulhS (w a b : Nat) : Nat := wrap w (sext w a * sext w b / (2 ^ w : Nat))
def mulhZ (w a b : Nat) : Nat := a % 2 ^ w * (b % 2 ^ w) / 2 ^ w

/-- Division and remainder, which never trap (R168). -/
def divS (w a b : Nat) : Nat := if b % 2 ^ w = 0 then 2 ^ w - 1 else wrap w ((sext w a).tdiv (sext w b))
def divZ (w a b : Nat) : Nat := if b % 2 ^ w = 0 then 2 ^ w - 1 else a % 2 ^ w / (b % 2 ^ w)
def remS (w a b : Nat) : Nat := if b % 2 ^ w = 0 then a % 2 ^ w else wrap w ((sext w a).tmod (sext w b))
def remZ (w a b : Nat) : Nat := if b % 2 ^ w = 0 then a % 2 ^ w else a % 2 ^ w % (b % 2 ^ w)

/-- Bitwise forms. -/
def andW (w a b : Nat) : Nat := (a &&& b) % 2 ^ w
def orW (w a b : Nat) : Nat := (a ||| b) % 2 ^ w
def xorW (w a b : Nat) : Nat := (a ^^^ b) % 2 ^ w

/-- Leading zero bits of a number below 2^w (R283). -/
def clzW : Nat → Nat → Nat
  | 0, _ => 0
  | w + 1, a => if a / 2 ^ w % 2 = 1 then 0 else clzW w a + 1

/-- Trailing zero bits of a number below 2^w (R283). -/
def ctzW : Nat → Nat → Nat
  | 0, _ => 0
  | w + 1, a => if a % 2 = 1 then 0 else ctzW w (a / 2) + 1

/-- `n` bit steps of CRC-32C, reflected (R66). -/
def crcSteps : Nat → Nat → Nat
  | 0, c => c
  | n + 1, c => crcSteps n (if c % 2 = 1 then (c / 2) ^^^ 0x82F63B78 else c / 2)

/-- CRC-32C of bytes from a running state, with no final XOR. -/
def crcFrom : Nat → List Byte → Nat
  | c, [] => c
  | c, b :: r => crcFrom (crcSteps 8 (c ^^^ b.toNat)) r

/-- CRC-32C of bytes (R66). -/
def crc32c (bs : List Byte) : Nat := crcFrom 0xFFFFFFFF bs ^^^ 0xFFFFFFFF

end Sys2Proof.Machine
end

