-- ==== Sys2Proof/Machine/Float.lean ====
section
/-! DEFINITION. Floating-point arithmetic (R185-R188, R194-R201): values are exact dyadic numbers, rounded once.
Formats and results are plain numbers: a format's code is a number below 2^w. -/

namespace Sys2Proof.Machine

/-- A binary interchange format with `eb` exponent and `mb` mantissa bits (R185). -/
structure FFmt where
  eb : Nat
  mb : Nat
  deriving DecidableEq, Repr

def f64 : FFmt := ⟨11, 52⟩
def f32 : FFmt := ⟨8, 23⟩
def f16 : FFmt := ⟨5, 10⟩
def bf16 : FFmt := ⟨8, 7⟩

namespace FFmt
variable (f : FFmt)
def width : Nat := 1 + f.eb + f.mb
/-- Precision p. -/
def prec : Nat := f.mb + 1
def emax : Int := (2 : Int) ^ (f.eb - 1) - 1
/-- Exponent of the last place of a subnormal. -/
def qmin : Int := 1 - f.emax - f.mb
def infBits : Nat := (2 ^ f.eb - 1) * 2 ^ f.mb
/-- Canonical NaN (R186). -/
def nanBits : Nat := f.infBits + 2 ^ (f.mb - 1)
def signBit : Nat := 2 ^ (f.eb + f.mb)
def signed (neg : Bool) (x : Nat) : Nat := if neg then f.signBit + x else x
end FFmt

/-- A dyadic number (-1)^neg m 2^e; a zero keeps its sign. -/
structure Dy where
  neg : Bool
  m : Nat
  e : Int
  deriving DecidableEq, Repr

/-- The value of an operand. -/
inductive FVal where
  | nan (sig : Bool)
  | inf (neg : Bool)
  | fin (d : Dy)
  deriving DecidableEq, Repr

/-- Rounding modes (R187); `sto` carries the random word of R160. -/
inductive RM where
  | rne | rtz | rdn | rup | rmm
  | sto (w : Nat)
  deriving DecidableEq, Repr

/-- The mode of FRM[2:0]; none for 5-7 (R187). -/
def rmOf (b : BitVec 3) : Option RM :=
  match b.toNat with
  | 0 => some .rne | 1 => some .rtz | 2 => some .rdn | 3 => some .rup | 4 => some .rmm | _ => none

/-- Flag classes in the order of FFLAGS (R13). -/
abbrev Fl := BitVec 5
def flNV : Fl := 0x10
def flDZ : Fl := 0x08
def flOF : Fl := 0x04
def flUF : Fl := 0x02
def flNX : Fl := 0x01

/-- An exact result before rounding. With `st` the magnitude lies strictly between m 2^e and (m + 1) 2^e, and m has at
least ten bits more than the format's precision. -/
structure Exact where
  v : FVal
  st : Bool := false
  fl : Fl := 0
  deriving DecidableEq, Repr

/-- A rounded result and the flags it raised. -/
structure FRes where
  bits : Nat
  fl : Fl
  deriving DecidableEq, Repr

/-! ### Codes and values -/

/-- The value of a code (R185, R186). -/
def FFmt.value (f : FFmt) (x : Nat) : FVal :=
  let neg := bits x (f.eb + f.mb) 1 == 1
  let e := bits x f.mb f.eb
  let m := bits x 0 f.mb
  if e = 2 ^ f.eb - 1 then
    if m = 0 then .inf neg else .nan (m / 2 ^ (f.mb - 1) == 0)
  else if e = 0 then .fin ⟨neg, m, f.qmin⟩
  else .fin ⟨neg, m + 2 ^ f.mb, f.qmin + e - 1⟩

def FVal.isNan : FVal → Bool
  | .nan _ => true
  | _ => false

def FVal.isSnan : FVal → Bool
  | .nan s => s
  | _ => false

def FVal.isInf : FVal → Bool
  | .inf _ => true
  | _ => false

def FVal.isZero : FVal → Bool
  | .fin d => d.m == 0
  | _ => false

def FVal.isNeg : FVal → Bool
  | .nan _ => false
  | .inf n => n
  | .fin d => d.neg

def FVal.negate : FVal → FVal
  | .nan s => .nan s
  | .inf n => .inf !n
  | .fin d => .fin { d with neg := !d.neg }

/-- NV for a signalling operand (R186). -/
def snanFl (xs : List FVal) : Fl := if xs.any (·.isSnan) then flNV else 0

/-! ### Rounding -/

/-- Bits of a number. -/
def bitLen (n : Nat) : Nat := if n = 0 then 0 else Nat.log2 n + 1

/-- The magnitude m 2^e (or just above it) in units of 2^q, and whether it is inexact. -/
def quantise (rm : RM) (neg : Bool) (m : Nat) (e : Int) (st : Bool) (q : Int) : Nat × Bool :=
  if q ≤ e then (m * 2 ^ (e - q).toNat, st)
  else
    let k := (q - e).toNat
    let hi := m / 2 ^ k
    let lo := m % 2 ^ k
    let half := 2 ^ (k - 1)
    let nx := lo != 0 || st
    let up := match rm with
      | .rne => decide (half < lo) || (lo == half && (st || hi % 2 == 1))
      | .rtz => false
      | .rdn => neg && nx
      | .rup => !neg && nx
      | .rmm => decide (half ≤ lo)
      | .sto w => decide (2 ^ (32 + k) ≤ lo * 2 ^ 32 + w * 2 ^ k)
    (hi + up.toNat, nx)

/-- Rounds to `p` bits with quanta of at least 2^qmin: (k, q, inexact) with k < 2^p. -/
def roundPrec (rm : RM) (p : Nat) (qmin : Int) (neg : Bool) (m : Nat) (e : Int) (st : Bool) : Nat × Int × Bool :=
  let q := max (bitLen m + e - p) qmin
  let r := quantise rm neg m e st q
  if r.1 = 2 ^ p then (2 ^ (p - 1), q + 1, r.2) else (r.1, q, r.2)

/-- Whether overflow delivers an infinity (R188). -/
def RM.toInf (rm : RM) (neg : Bool) : Bool :=
  match rm with
  | .rne | .rmm => true
  | .rdn => neg
  | .rup => !neg
  | .rtz | .sto _ => false

/-- RoundTo of a nonzero magnitude with the flags of R188. -/
def FFmt.roundFin (f : FFmt) (rm : RM) (neg : Bool) (m : Nat) (e : Int) (st : Bool) : FRes :=
  let (k, q, nx) := roundPrec rm f.prec f.qmin neg m e st
  if f.emax - f.mb < q then
    ⟨f.signed neg (if rm.toInf neg then f.infBits else f.infBits - 1), flOF ||| flNX⟩
  else
    let (ku, qu, _) := roundPrec rm f.prec (bitLen m + e - f.prec) neg m e st
    let tiny := decide (bitLen ku + qu - 1 < 1 - f.emax)
    let code := if k < 2 ^ f.mb then k else (q - f.qmin + 1).toNat * 2 ^ f.mb + (k - 2 ^ f.mb)
    ⟨f.signed neg code, (if nx then flNX else 0) ||| (if nx && tiny then flUF else 0)⟩

/-- RoundTo(x, format, mode) (R187, R188). -/
def FFmt.round (f : FFmt) (rm : RM) (x : Exact) : FRes :=
  match x.v with
  | .nan _ => ⟨f.nanBits, x.fl⟩
  | .inf n => ⟨f.signed n f.infBits, x.fl⟩
  | .fin d =>
    if d.m = 0 ∧ !x.st then ⟨f.signed d.neg 0, x.fl⟩
    else
      let r := f.roundFin rm d.neg d.m d.e x.st
      ⟨r.bits, r.fl ||| x.fl⟩

/-! ### Exact operations -/

/-- A dyadic number in units of 2^q, q not above its exponent. -/
def Dy.inUnits (d : Dy) (q : Int) : Int :=
  let x : Int := (d.m * 2 ^ (d.e - q).toNat : Nat)
  if d.neg then -x else x

/-- An exact sum; an exact zero sum is +0, or -0 under RDN, and zeros of one sign keep it (R194). -/
def Dy.add (rm : RM) (a b : Dy) : Dy :=
  let q := min a.e b.e
  let s := a.inUnits q + b.inUnits q
  if s = 0 then ⟨if a.m = 0 ∧ b.m = 0 ∧ a.neg = b.neg then a.neg else rm == .rdn, 0, q⟩
  else ⟨decide (s < 0), s.natAbs, q⟩

def Dy.mul (a b : Dy) : Dy := ⟨a.neg != b.neg, a.m * b.m, a.e + b.e⟩

def sumDy (rm : RM) : List Dy → Dy
  | [] => ⟨false, 0, 0⟩
  | d :: r => r.foldl (Dy.add rm) d

/-- A product of values that are no NaN; none for 0 × ∞. -/
def FVal.times (a b : FVal) : Option FVal :=
  match a, b with
  | .fin x, .fin y => some (.fin (x.mul y))
  | x, y => if x.isZero || y.isZero then none else some (.inf (x.isNeg != y.isNeg))

/-- Addends plus exact products, unrounded (R188, R194, R200): a NaN operand gives NaN with NV only when one signals;
then 0 × ∞ and ∞ − ∞ give NaN with NV. -/
def sumProducts (rm : RM) (addends : List FVal) (prods : List (FVal × FVal)) : Exact :=
  let ops := addends ++ prods.flatMap fun p => [p.1, p.2]
  if ops.any (·.isNan) then { v := .nan false, fl := snanFl ops }
  else
    let ps := prods.map fun p => p.1.times p.2
    let terms := addends ++ ps.filterMap id
    let infs := terms.filter (·.isInf)
    if ps.any (·.isNone) then { v := .nan false, fl := flNV }
    else if infs.any (·.isNeg) && infs.any (!·.isNeg) then { v := .nan false, fl := flNV }
    else match infs with
      | x :: _ => { v := x }
      | [] => { v := .fin (sumDy rm (terms.filterMap fun | .fin d => some d | _ => none)) }

/-- a / b (R188). -/
def divide (a b : FVal) : Exact :=
  if a.isNan || b.isNan then { v := .nan false, fl := snanFl [a, b] }
  else
    let neg := a.isNeg != b.isNeg
    match a, b with
    | .inf _, .inf _ => { v := .nan false, fl := flNV }
    | .inf _, _ => { v := .inf neg }
    | _, .inf _ => { v := .fin ⟨neg, 0, 0⟩ }
    | .fin x, .fin y =>
      if y.m = 0 then if x.m = 0 then { v := .nan false, fl := flNV } else { v := .inf neg, fl := flDZ }
      else if x.m = 0 then { v := .fin ⟨neg, 0, 0⟩ }
      else
        let k := bitLen y.m + 80
        let n := x.m * 2 ^ k
        { v := .fin ⟨neg, n / y.m, x.e - y.e - k⟩, st := n % y.m != 0 }
    | _, _ => { v := .nan false }

/-- The integer square root, found from bit `k - 1` of the root down. -/
def isqrt : Nat → Nat → Nat → Nat
  | 0, _, r => r
  | k + 1, n, r => let t := r + 2 ^ k; if t * t ≤ n then isqrt k n t else isqrt k n r

/-- √a with the special values of R201. -/
def squareRoot (a : FVal) : Exact :=
  match a with
  | .nan s => { v := .nan false, fl := if s then flNV else 0 }
  | .inf true => { v := .nan false, fl := flNV }
  | .inf false => { v := .inf false }
  | .fin d =>
    if d.m = 0 then { v := .fin d }
    else if d.neg then { v := .nan false, fl := flNV }
    else
      let n := d.m * 2 ^ (if d.e % 2 = 0 then 160 else 161)
      let r := isqrt (bitLen n / 2 + 1) n 0
      { v := .fin ⟨false, r, (d.e - (if d.e % 2 = 0 then 160 else 161)) / 2⟩, st := r * r != n }

/-- 1 / √a (R201). -/
def invRoot (a : FVal) : Exact :=
  match a with
  | .nan s => { v := .nan false, fl := if s then flNV else 0 }
  | .inf true => { v := .nan false, fl := flNV }
  | .inf false => { v := .fin ⟨false, 0, 0⟩ }
  | .fin d =>
    if d.m = 0 then { v := .inf d.neg, fl := flDZ }
    else if d.neg then { v := .nan false, fl := flNV }
    else
      -- 2^(2k) / (m 2^e) with e even, then the root
      let m := if d.e % 2 = 0 then d.m else d.m * 2
      let e := if d.e % 2 = 0 then d.e else d.e - 1
      let k := bitLen m + 80
      let n := 2 ^ (2 * k)
      let r := isqrt (k + 1) (n / m) 0
      { v := .fin ⟨false, r, -(k : Int) - e / 2⟩, st := r * r * m != n }

/-- 1 / a (R201). -/
def reciprocal (a : FVal) : Exact := divide (.fin ⟨false, 1, 0⟩) a

/-! ### 2^x and log2 x (R201)

Both are computed to 250 bits, which decides every rounding (notes/assumptions/26.md). -/

/-- ln 2 in units of 2^-256. -/
def ln2 : Nat := 0xb17217f7d1cf79abc9e3b39803f2f6af40f343267298b62d8a0d175b8baafa2b

/-- The exponential series of `arg` from term `k` on, all in units of 2^-256. -/
def expSeries (arg : Nat) : Nat → Nat → Nat → Nat → Nat
  | 0, _, _, acc => acc
  | n + 1, k, term, acc =>
    let t := term * arg / 2 ^ 256 / k
    expSeries arg n (k + 1) t (acc + t)

/-- 2^f for 0 < f < 1 in units of 2^-256, as units of 2^-240. -/
def exp2Frac (f : Nat) : Nat :=
  let s := expSeries (f * ln2 / 2 ^ 256) 80 1 (2 ^ 256) (2 ^ 256)
  min (max (s / 2 ^ 16) (2 ^ 240)) (2 ^ 241 - 1)

/-- 2^d, exact only for an integer d. -/
def exp2Dy (d : Dy) : Exact :=
  let lim : Nat := 2 ^ 20
  if d.m = 0 then { v := .fin ⟨false, 1, 0⟩ }
  else if 0 < bitLen d.m + d.e - 20 then
    if d.neg then { v := .fin ⟨false, 2 ^ 70, -(lim : Int) - 70⟩, st := true }
    else { v := .fin ⟨false, 2 ^ 70, lim⟩, st := true }
  else if 0 ≤ d.e then { v := .fin ⟨false, 1, d.inUnits 0⟩ }
  else
    let n := (-d.e).toNat
    let x : Int := if d.neg then -(d.m : Int) else d.m
    let i := x / (2 ^ n : Nat)
    let fr := (x % (2 ^ n : Nat)).toNat
    if fr = 0 then { v := .fin ⟨false, 1, i⟩ }
    else { v := .fin ⟨false, exp2Frac (fr * 2 ^ 256 / 2 ^ n), i - 240⟩, st := true }

/-- 2^a (R201). -/
def exp2 (a : FVal) : Exact :=
  match a with
  | .nan s => { v := .nan false, fl := if s then flNV else 0 }
  | .inf true => { v := .fin ⟨false, 0, 0⟩ }
  | .inf false => { v := .inf false }
  | .fin d => exp2Dy d

/-- `n` bits of the base-2 logarithm of y, 1 ≤ y < 2, y in units of 2^-512. -/
def log2Bits : Nat → Nat → Nat → Nat
  | 0, _, acc => acc
  | n + 1, y, acc =>
    let s := y * y / 2 ^ 512
    if 2 ^ 513 ≤ s then log2Bits n (s / 2) (2 * acc + 1) else log2Bits n s (2 * acc)

/-- log2 a (R201); exact only for a power of two. -/
def logTwo (a : FVal) : Exact :=
  match a with
  | .nan s => { v := .nan false, fl := if s then flNV else 0 }
  | .inf true => { v := .nan false, fl := flNV }
  | .inf false => { v := .inf false }
  | .fin d =>
    if d.m = 0 then { v := .inf true, fl := flDZ }
    else if d.neg then { v := .nan false, fl := flNV }
    else
      let l := bitLen d.m
      let e : Int := l - 1 + d.e
      if d.m = 2 ^ (l - 1) then { v := .fin ⟨decide (e < 0), e.natAbs, 0⟩ }
      else
        let y := d.m * 2 ^ 512 / 2 ^ (l - 1)
        let v : Int := e * (2 ^ 256 : Nat) + log2Bits 256 y 0
        if v < 0 then { v := .fin ⟨true, (-(v + 1)).toNat, -256⟩, st := true }
        else { v := .fin ⟨false, v.toNat, -256⟩, st := true }

/-! ### Comparison, selection, class, signs -/

/-- a < b on values that are no NaN; zeros are equal. -/
def FVal.lt (a b : FVal) : Bool :=
  match a, b with
  | .inf x, .inf y => x && !y
  | .inf x, .fin _ => x
  | .fin _, .inf y => !y
  | .fin x, .fin y => let q := min x.e y.e; decide (x.inUnits q < y.inUnits q)
  | _, _ => false

def FVal.eq (a b : FVal) : Bool := !a.isNan && !b.isNan && !a.lt b && !b.lt a

/-- NV of a comparison: any NaN, or a signalling one only (R195). -/
def cmpFl (quiet : Bool) (a b : FVal) : Fl :=
  if quiet then snanFl [a, b] else if a.isNan || b.isNan then flNV else 0

/-- VFMIN and VFMAX on codes (R194): -0 is below +0, one NaN gives the other operand. -/
def FFmt.select (f : FFmt) (big : Bool) (x y : Nat) : FRes :=
  let a := f.value x
  let b := f.value y
  let fl := snanFl [a, b]
  if a.isNan && b.isNan then ⟨f.nanBits, fl⟩
  else if a.isNan then ⟨y, fl⟩
  else if b.isNan then ⟨x, fl⟩
  else
    let below := a.lt b || (a.eq b && a.isNeg && !b.isNeg)
    ⟨if below != big then x else y, fl⟩

/-- The class word (R196). -/
def FFmt.classOf (f : FFmt) (x : Nat) : Nat :=
  match f.value x with
  | .inf true => 1
  | .inf false => 128
  | .nan true => 256
  | .nan false => 512
  | .fin d =>
    if d.m = 0 then if d.neg then 8 else 16
    else if d.m < 2 ^ f.mb then if d.neg then 4 else 32
    else if d.neg then 2 else 64

/-- Sign injection on codes (R194): `k` 0 copies, 1 inverts, 2 XORs. -/
def FFmt.inject (f : FFmt) (k : Nat) (x y : Nat) : Nat :=
  let sx := bits x (f.eb + f.mb) 1 == 1
  let sy := bits y (f.eb + f.mb) 1 == 1
  f.signed (match k with | 0 => sy | 1 => !sy | _ => sx != sy) (x % f.signBit)

/-! ### Integer conversions (R197, R198) -/

/-- A float rounded to a signed or unsigned integer of `w` bits. -/
def toInteger (rm : RM) (signed : Bool) (w : Nat) (a : FVal) : FRes :=
  let top : Nat := if signed then 2 ^ (w - 1) - 1 else 2 ^ w - 1
  let bot : Int := if signed then -(2 ^ (w - 1) : Nat) else 0
  match a with
  | .nan _ => ⟨top, flNV⟩
  | .inf n => ⟨wrap w (if n then bot else top), flNV⟩
  | .fin d =>
    let (k, nx) := quantise rm d.neg d.m d.e false 0
    let v : Int := if d.neg then -(k : Int) else k
    if v < bot then ⟨wrap w bot, flNV⟩
    else if top < v then ⟨top, flNV⟩
    else ⟨wrap w v, if nx then flNX else 0⟩

/-- An integer as an exact value. -/
def ofInteger (x : Int) : Exact := { v := .fin ⟨decide (x < 0), x.natAbs, 0⟩ }

/-- A code read in one format and rounded to another; a signalling NaN raises NV (R199, R284). -/
def convert (src dst : FFmt) (rm : RM) (x : Nat) : FRes :=
  let v := src.value x
  dst.round rm { v := v, fl := snanFl [v] }

/-! ### Random words (R208) -/

def philoxRounds : Nat → Nat → Nat → Nat → Nat → Nat → Nat → Nat × Nat × Nat × Nat
  | 0, x0, x1, x2, x3, _, _ => (x0, x1, x2, x3)
  | n + 1, x0, x1, x2, x3, k0, k1 =>
    let q0 := 0xD2511F53 * x0
    let q1 := 0xCD9E8D57 * x2
    philoxRounds n ((q1 / 2 ^ 32) ^^^ x1 ^^^ k0) (q1 % 2 ^ 32) ((q0 / 2 ^ 32) ^^^ x3 ^^^ k1) (q0 % 2 ^ 32)
      ((k0 + 0x9E3779B9) % 2 ^ 32) ((k1 + 0xBB67AE85) % 2 ^ 32)

/-- Philox(K, C). -/
def philox (key ctr : Nat) : Nat × Nat × Nat × Nat :=
  philoxRounds 10 (bits ctr 0 32) (bits ctr 32 32) (bits ctr 64 32) (bits ctr 96 32) (bits key 0 32) (bits key 32 32)

/-- Word `t` counted from counter `c0` on (R160, R209). -/
def randWord (key c0 t : Nat) : Nat :=
  let (a, b, c, d) := philox key ((c0 + t / 4) % 2 ^ 128)
  match t % 4 with | 0 => a | 1 => b | 2 => c | _ => d

end Sys2Proof.Machine
end

