-- ==== Sys2Proof/Machine/Flags.lean ====
section
/-! DEFINITION. Flag reporting and FPTRAP (R189, R190), rounding modes at use (R187), FXSAT, boxed scalar floats (R11). -/

namespace Sys2Proof.Machine

/-- The format that FT or B and EW name (R185, R284). -/
def fmtOf (t : BitVec 2) : FFmt := match t.toNat with | 0 => f64 | 1 => f32 | 2 => f16 | _ => bf16

/-- The classes of `fl` that an instruction raises for element `el`, into FFLAGS, FIDX and FEPC (R189). -/
def Hart.raise (h : Hart) (el : Nat) (fl : Fl) : Hart :=
  if fl = 0 then h
  else
    let e : Word := BitVec.ofNat 64 el
    let new := fl &&& ~~~h.f.fflags
    let put (i : Fin 5) (b : Nat) (v : Vector Word 5) : Vector Word 5 := if new.getLsbD b then v.set i e else v
    { h with f := { h.f with
      fflags := h.f.fflags ||| fl
      fidx := put 0 4 (put 1 3 (put 2 2 (put 3 1 (put 4 0 h.f.fidx))))
      fepc := if h.f.fflags = 0 then h.pc.setWidth 64 else h.f.fepc } }

/-- Element `el` raises its flags, and FPTRAP when a class is enabled (R190). -/
def raiseAt (el : Nat) (fl : Fl) : M Unit := do
  modH (·.raise el fl)
  if fl &&& (← getH).f.fen ≠ 0 then trap .fptrap el 0

/-- A whole form raises every flag of its computation at the given elements, and FPTRAP with element 0 (R190). -/
def raiseWhole (fls : List (Nat × Fl)) : M Unit := do
  modH fun h => fls.foldl (fun h p => h.raise p.1 p.2) h
  if (fls.foldl (fun a p => a ||| p.2) 0) &&& (← getH).f.fen ≠ 0 then trap .fptrap 0 0

/-- The rounding mode of FRM; an instruction that rounds raises ILLEGAL for 5-7 (R187). -/
def rmode : M RM := do
  match rmOf (← getH).f.frm with
  | some r => return r
  | none => trapInstr .illegal

/-- FXSAT[0] is set (R46 Sat). -/
def Hart.saturated (h : Hart) (b : Bool) : Hart := if b then { h with f := { h.f with fxsat := true } } else h

/-- A code as a scalar register holds it: ones above its width (R11). -/
def FFmt.box (f : FFmt) (x : Nat) : Word := BitVec.ofNat 64 (2 ^ 64 - 2 ^ f.width + x)

/-- An operand of a scalar form: the canonical NaN where the bits above its width are not all ones (R284). -/
def FFmt.unbox (f : FFmt) (w : Word) : Nat :=
  if w.toNat / 2 ^ f.width = 2 ^ (64 - f.width) - 1 then w.toNat % 2 ^ f.width else f.nanBits

end Sys2Proof.Machine
end

