-- ==== Sys2Proof/Machine/Vector.lean ====
section
/-! DEFINITION. What the vector instructions share: register groups (R18), shadows of a strip (R247), active elements
and the final step (R46, R47), the frame of a form that works on registers only. -/

namespace Sys2Proof.Machine

/-- A register group of `n` registers that starts at `v` (R18). -/
def groupOk (v : Reg) (n : Nat) : Bool := v.val % n == 0

/-- The registers of two groups meet. -/
def overlaps (a : Reg) (n : Nat) (b : Reg) (k : Nat) : Bool := decide (a.val < b.val + k) && decide (b.val < a.val + n)

/-- Registers about to be written inside a strip: the architectural slices of those new to Written are kept, or none
when Written would pass 16 (R247). -/
def Hart.claim (h : Hart) (v n : Nat) : Option Hart :=
  match h.ms.strip with
  | none => some h
  | some st =>
    let new := ((List.range n).map (· + v)).filter fun r => !st.arch.any (·.1 == r)
    if 16 < st.arch.length + new.length then none
    else some { h with ms := { h.ms with strip := some { st with arch := st.arch ++ new.map fun r => (r, h.v[vreg r]) } } }

/-- The claim of an instruction, STRIPW before it changes anything (R247). -/
def claim (v : Reg) (n : Nat) : M Unit := do
  match (← getH).claim v.val n with
  | some h => modH fun _ => h
  | none => trapInstr .stripw

/-- Active(i) (R46), apart from the bounds on `i`. -/
def Hart.unmasked (h : Hart) (m : Bool) (i : Nat) : Bool := !m || h.maskBit 0 i

/-- Active(i) (R46). -/
def Hart.active (h : Hart) (m : Bool) (i : Nat) : Bool :=
  decide (h.vc.vstart.toNat ≤ i) && decide (i < h.vc.vl) && h.unmasked m i

/-- A change made at `n` indices from `i` on, in increasing order. -/
def Hart.over (f : Hart → Nat → Hart) : Nat → Nat → Hart → Hart
  | 0, _, h => h
  | n + 1, i, h => Hart.over f n (i + 1) (f h i)

/-- The active elements from VSTART to VL - 1 in increasing order, each mask bit read at its turn (R167). -/
def Hart.eachActive (h : Hart) (m : Bool) (f : Hart → Nat → Hart) : Hart :=
  Hart.over (fun h i => if h.unmasked m i then f h i else h) (h.vc.vl - h.vc.vstart.toNat) h.vc.vstart.toNat h

/-- The final step (R47) for a destination of `w`-bit elements: with z = 1 inactive and tail elements from `s0` to
`top` - 1 become 0, but for completed ones of an unordered form. -/
def Hart.tail (h : Hart) (s0 : Nat) (m z : Bool) (v : Reg) (w top : Nat) (done : BitVec 16384 := 0) : Hart :=
  if z then
    Hart.over (fun h i =>
      if (decide (i < h.vc.vl) && h.unmasked m i) || done.getLsbD i then h else h.zeroElem v.val i w) (top - s0) s0 h
  else h

/-- The final step of a register form: from VSTART over the whole VLMAX. -/
def Hart.tailAll (h : Hart) (m z : Bool) (v : Reg) (w : Nat) : Hart := h.tail h.vc.vstart.toNat m z v w h.vlmax

/-- Bits of element `i` of `w` bits are in error (R340). -/
def Hart.badElem (h : Hart) (v i w : Nat) : Bool :=
  let per := h.vlen / w
  let lo := i % per * w
  (h.v[vreg (v + i / per)]).err.any fun e => decide (8 * e < lo + w) && decide (lo < 8 * e + 8)

/-- The register bits of an element that a store is about to read are whole, or MCHECK at element `el` (R166, R340). -/
def intact (el v i w : Nat) : M Unit := do
  if (← getH).badElem v i w then trap .mcheck el 0

/-- ILLEGAL of the instruction as a whole. -/
def State.illegal (s : State) : State := takeTrap .illegal 0 (s.h.pc.setWidth 64) s

/-- An instruction that works on registers only: ILLEGAL when `bad`, STRIPW for the registers `v` to `v + n - 1` it
writes, then `f`, then completion. -/
def registerForm (bad : Bool) (v : Reg) (n : Nat) (f : Hart → Hart) (s : State) : State :=
  if bad then s.illegal
  else match s.h.claim v.val n with
    | none => takeTrap .stripw 0 (s.h.pc.setWidth 64) s
    | some h => { s with h := (f h).retireV }

/-- One that writes a scalar register. -/
def scalarForm (bad : Bool) (d : Reg) (f : Hart → Word) (s : State) : State :=
  if bad then s.illegal else { s with h := (s.h.setX d (f s.h)).retireV }

end Sys2Proof.Machine
end

