-- ==== Sys2Proof/Machine/VMem.lean ====
section
/-! DEFINITION. Vector loads and stores in native formats (R145-R153): element addresses, the loops over elements,
suppressed faults (R153, R248), whole-register and mask forms. -/

namespace Sys2Proof.Machine

/-! ### Frames of a vector memory instruction -/

/-- VSTART at the start of the instruction, kept over its waits (R47). -/
def startElem : M Nat := do
  let h ← getH
  match h.sy.fromElem with
  | some s0 => return s0
  | none =>
    modH fun h => { h with sy := { h.sy with fromElem := some h.vc.vstart.toNat } }
    return h.vc.vstart.toNat

/-- Annul(v) (R253): held stores and watch records with a tag at or above `v` go, and younger elements that have bound
bytes where they stood are replayed (R257). -/
def Hart.annul (h : Hart) (v : Nat) : Hart :=
  match h.ms.strip with
  | none => h
  | some st =>
    let young (t : Option Nat) : Bool := match t with | some t => decide (v ≤ t) | none => false
    let gone := (st.held.filter fun x => young x.tag).map (·.part)
    ({ h with ms := { h.ms with strip := some { st with
      held := st.held.filter fun x => !young x.tag
      watch := st.watch.filter fun x => !young x.2.1 } } }).unsettle fun b => gone.any b.meets

/-- A suppression at element j (R153, R248): VFF, VL, and Annul(j) inside a strip. -/
def Hart.suppress (h : Hart) (j : Nat) (c : Cause) : Hart :=
  let vff : Word := BitVec.ofNat 64 (2 ^ 63 + c.code.toNat * 2 ^ 32 + j)
  { h with vc := { h.vc with vff := vff, vl := j } }.annul j

/-- Whether a load's fault at element `j` is suppressed: VLDF outside a strip, every vector load inside one. -/
def suppressible (strip ff : Bool) (j : Nat) (c : Cause) : Bool :=
  (strip || ff) && j != 0 &&
  (match c with
   | .xlate | .perm | .extent | .tierwait => true
   | .stripop => strip
   | _ => false)

/-- The element whose access a trap reports, with its cause and address; every other stop goes on. One that is not
performed meets no trigger (R349). -/
def caught (x : M Unit) : M (Option (Cause × Nat × Word)) :=
  tryCatch (do guardWatch x; return none) fun
    | .trap c e a => return some (c, e, a)
    | st => throw st

/-- After an element, more being left: a watch match leaves the instruction (R349), but for a halt inside a strip, which
waits for an instruction boundary (R261); outside a strip any element boundary may be a point (R334), but for a single
step (R348). -/
def elemPoint (more : Bool) : M Unit := do
  let h ← getH
  if more then
    if h.ms.watchHit.any fun w => !(w.2 && h.ms.strip.isSome) then throw .pause
    else if h.ms.strip.isNone && !h.db.stepping then
      if (← choose) = 1 then throw .pause

/-- Some active element stands at or above `i`, `n` being left. -/
def Hart.anyActive (h : Hart) (m : Bool) : Nat → Nat → Bool
  | 0, _ => false
  | n + 1, i => h.unmasked m i || Hart.anyActive h m n (i + 1)

/-- The ordered loop (R147): active elements from `i` on, `n` left; VSTART follows. Answers the suppressed fault, if
one ended the loop. -/
def orderedLoop (m strip ff load : Bool) (perform : Nat → M Unit) : Nat → Nat → M (Option (Nat × Cause))
  | 0, _ => return none
  | n + 1, i => do
    if !(← getH).unmasked m i then orderedLoop m strip ff load perform n (i + 1)
    else
      match ← caught (perform i) with
      | some (c, e, a) => if load && suppressible strip ff i c then return some (i, c) else trap c e a
      | none =>
        modH fun h => { h with vc := { h.vc with vstart := BitVec.ofNat 48 (i + 1) } }
        elemPoint ((← getH).anyActive m n (i + 1))
        orderedLoop m strip ff load perform n (i + 1)

/-- Elements of an unordered form still to be performed below `top` (R21). -/
def Hart.incomplete (h : Hart) (m : Bool) (top : Nat) : List Nat :=
  (List.range top).filter fun i => decide (h.vc.vstart.toNat ≤ i) && h.unmasked m i && !h.vc.ecm.getLsbD i

/-- VSTART as the lowest element from it on whose completion bit is clear (R21). -/
def Hart.raiseStart (h : Hart) : Hart :=
  let v := h.vc.vstart.toNat
  { h with vc := { h.vc with vstart := BitVec.ofNat 48 (lowClear h.vc.ecm v 16384) } }
where
  lowClear (m : BitVec 16384) (i : Nat) : Nat → Nat
    | 0 => i
    | n + 1 => if m.getLsbD i then lowClear m (i + 1) n else i

/-- The unordered loop (R151, R152): the next element is the device's choice among those not complete; a fault ends the
elements at and above it, and is reported once every lower one is complete or has faulted. -/
def unorderedLoop (m : Bool) (perform : Nat → M Unit) : Nat → Nat → Option (Cause × Nat × Word) → M Unit
  | 0, _, f => match f with | some (c, e, a) => trap c e a | none => return ()
  | n + 1, top, f => do
    let todo := (← getH).incomplete m top
    match todo with
    | [] => match f with | some (c, e, a) => trap c e a | none => return ()
    | i0 :: _ => do
      let k ← choose
      let i := (todo[k % todo.length]?).getD i0
      match ← caught (perform i) with
      | some t => unorderedLoop m perform n i (some t)
      | none =>
        modH fun h => { h with vc := { h.vc with ecm := h.vc.ecm ||| 1 <<< i } }.raiseStart
        elemPoint ((← getH).incomplete m top != [] || f.isSome)
        unorderedLoop m perform n top f

/-- The loop of a first-fault gather outside a strip (R151, R153): elements complete in index order, which R151 allows
(notes/assumptions/49.md), each recorded in the completion mask. Answers the suppressed fault, if one ended the loop. -/
def firstFaultLoop (m : Bool) (perform : Nat → M Unit) (top : Nat) : Nat → M (Option (Nat × Cause))
  | 0 => return none
  | n + 1 => do
    match (← getH).incomplete m top with
    | [] => return none
    | i :: _ => match ← caught (perform i) with
      | some (c, e, a) => if suppressible false true i c then return some (i, c) else trap c e a
      | none =>
        modH fun h => { h with vc := { h.vc with ecm := h.vc.ecm ||| 1 <<< i } }.raiseStart
        elemPoint ((← getH).incomplete m top != [])
        firstFaultLoop m perform top n

/-- Every active element of an unordered form is translated before one is performed (R49): PERM at the lowest active
element when one of them reaches a NONIDEM page and none faults. A store of a strip waits for no TIERED page (R250). -/
def unorderedCheck (m : Bool) (k : Kind) (spec : Nat → Bool) (addr : Nat → M (Nat × Nat)) (top : Nat) : M Unit := do
  let todo := (← getH).incomplete m top
  match todo with
  | [] => return ()
  | i0 :: _ => match ← go none todo with
    | some a => trap .perm i0 (BitVec.ofNat 64 a)
    | none => return ()
where
  go (hit : Option Nat) : List Nat → M (Option Nat)
    | [] => return hit
    | i :: r => do
      let (va, n) ← addr i
      let ok ← tryCatch (do return some (← translateAll i k (spec i) (frames va (n + 1) n))) fun
        | .trap _ _ _ => return none
        | st => throw st
      match ok with
      | none => return none
      | some ps => go (hit <|> (ps.find? (·.2 == 2)).map (·.1)) r
  translateAll (i : Nat) (k : Kind) (sp : Bool) : List (Nat × Nat) → M (List (Nat × Nat))
    | [] => return []
    | (a, n) :: r => do
      let l ← if k = .store then storePlace (fun _ => false) i a n else translateH i a k n sp
      return (a, l.attr) :: (← translateAll i k sp r)

/-! ### Modes 0-4 (R147) -/

/-- Addressing of a vector access. -/
inductive VMode where
  | unit
  | strided (b : Reg)
  | indexed (b : Reg) (ordered : Bool)
  | seg (nf : Nat)
  deriving DecidableEq, Repr

def VMode.fields : VMode → Nat
  | .seg n => n
  | _ => 1

/-- The addresses of the fields of element `i`, `mb` bytes each (R147). -/
def Hart.elemAddrs (h : Hart) (mode : VMode) (a : Reg) (mb i : Nat) : List Nat :=
  let base := (h.getX a).toNat
  match mode with
  | .unit => [(base + i * mb) % 2 ^ 64]
  | .strided b => [(h.getX a + BitVec.ofNat 64 i * h.getX b).toNat]
  | .indexed b _ => [(base + h.elem b.val i h.ew) % 2 ^ 64]
  | .seg n => (List.range n).map fun f => (base + (i * n + f) * mb) % 2 ^ 64

/-- Widths, groups and overlaps that make a native access ILLEGAL (R146). -/
def Hart.vmemIllegal (h : Hart) (load : Bool) (mode : VMode) (d : Reg) (f : Nat) (sx : Bool) : Bool :=
  let g := h.grp
  decide (h.ew < 8 * 2 ^ f) || (sx && h.ew == 8 * 2 ^ f) || !groupOk d g || decide (32 < d.val + mode.fields * g) ||
  (match mode with
   | .indexed b _ => !groupOk b g || (load && overlaps d g b g)
   | _ => false)

/-- Element `i` of a native load: all its fields are read before one enters a register (R149). -/
def loadElem (mode : VMode) (d a : Reg) (mb : Nat) (sx ff : Bool) (i : Nat) : M Unit := do
  let h ← getH
  let as := (h.elemAddrs mode a mb i).map fun x => (x, mb)
  let spec := (h.ms.strip.isSome || ff) && i != 0
  let bs ← loadMany i as spec vectorRule
  modH fun h => (bs.zipIdx.foldl (fun h p =>
    let x := ofBytes p.1.1
    h.setElem (d.val + p.2 * h.grp) i h.ew (if sx then wrap h.ew (sext (8 * mb) x) else x)) h)

/-- Element `i` of a native store. -/
def storeElem (mode : VMode) (r a : Reg) (mb : Nat) (i : Nat) : M Unit := do
  let h ← getH
  let ws := (h.elemAddrs mode a mb i).zipIdx.map fun p =>
    { va := p.1, bs := toBytes mb (h.elem (r.val + p.2 * h.grp) i h.ew) : Write }
  storeMany i ws (some i) none

/-- The final step over every field of a load. -/
def Hart.tailFields (h : Hart) (s0 : Nat) (m z : Bool) (d : Reg) (nf : Nat) (done : BitVec 16384) : Hart :=
  Hart.over (fun h f => h.tail s0 m z (vreg (d.val + f * h.grp)) h.ew h.vlmax done) nf 0 h

/-- The elements of a load or store in their order. -/
def vmemLoop (mode : VMode) (m ff load : Bool) (a : Reg) (mb : Nat) (perform : Nat → M Unit) :
    M (Option (Nat × Cause)) := do
  let h ← getH
  let strip := h.ms.strip.isSome
  let vl := h.vc.vl
  let unordered := match mode with | .indexed _ o => !o | _ => false
  banksReady ((h.incomplete m vl).flatMap fun i => (h.elemAddrs mode a mb i).map fun x => (x, mb))
  if unordered && !(load && strip) then
    let addr (i : Nat) : M (Nat × Nat) := do
      return (((← getH).elemAddrs mode a mb i).headD 0, mb)
    match ← caught (unorderedCheck m (if load then .load else .store) (fun i => ff && i != 0) addr vl) with
    | some (c, e, x) => if load && suppressible strip ff e c then return some (e, c) else trap c e x
    | none => pure ()
  if unordered && !strip && !ff then
    unorderedLoop m perform vl vl none
    return none
  else if unordered && !strip then firstFaultLoop m perform vl vl
  else
    let r ← orderedLoop m strip ff load perform (vl - h.vc.vstart.toNat) h.vc.vstart.toNat
    return r

/-- A native vector load (R145-R153, R248). -/
def vload (mode : VMode) (d a : Reg) (m z : Bool) (f : BitVec 3) (sx ff : Bool) : M Unit := do
  let h ← getH
  if h.vmemIllegal true mode d f.toNat sx then trapInstr .illegal
  claim d (mode.fields * h.grp)
  let s0 ← startElem
  let mb := 2 ^ f.toNat
  match ← vmemLoop mode m ff true a mb (loadElem mode d a mb sx ff) with
  | some (j, c) => modH (·.suppress j c)
  | none => if ff && h.ms.strip.isNone then modH fun h => { h with vc := { h.vc with vff := 0 } }
  modH fun h =>
    let done := match mode with | .indexed _ false => h.vc.ecm &&& lowMask h.vc.vl | _ => 0
    (h.tailFields s0 m z d mode.fields done).retireV

/-- A native vector store (R145-R152, R250). -/
def vstore (mode : VMode) (r a : Reg) (m : Bool) (f : BitVec 3) : M Unit := do
  let h ← getH
  if h.vmemIllegal false mode r f.toNat false then trapInstr .illegal
  let _ ← startElem
  let mb := 2 ^ f.toNat
  let _ ← vmemLoop mode m false false a mb (storeElem mode r a mb)
  retireV

/-! ### Whole registers and masks (R148) -/

/-- Units `i` to `i + n - 1` in order, each performed and then counted in VSTART by `perform`, which answers the next
unit. -/
def unitLoop (perform : Nat → M Nat) (top : Nat) : Nat → Nat → M Unit
  | 0, _ => return ()
  | n + 1, i => do
    if top ≤ i then return ()
    else
      let j ← guardWatch (perform i)
      modH fun h => { h with vc := { h.vc with vstart := BitVec.ofNat 48 j } }
      elemPoint (decide (j < top))
      unitLoop perform top n j

/-- What is left of `n` bytes from `a` on when `i` of them are done. -/
def unitBytes (a : Word) (n i : Nat) : List (Nat × Nat) := [((a.toNat + i) % 2 ^ 64, n - i)]

/-- Mode 6, a load: VLEN × g / 8 bytes, whatever VL and the mask. -/
def vloadWhole (d a : Reg) : M Unit := do
  let h ← getH
  if !groupOk d h.grp then trapInstr .illegal
  claim d h.grp
  let n := h.vlen * h.grp / 8
  banksReady (unitBytes (h.getX a) n h.vc.vstart.toNat)
  let byte (b : Nat) : M Nat := do
    let x ← loadNat b (((← readX a).toNat + b) % 2 ^ 64) 1 false
    modH (·.setElem d.val b 8 x)
    return b + 1
  unitLoop byte n n h.vc.vstart.toNat
  retireV

/-- Mode 6, a store: its bytes have no tag inside a strip (R250). -/
def vstoreWhole (r a : Reg) : M Unit := do
  let h ← getH
  if !groupOk r h.grp then trapInstr .illegal
  let n := h.vlen * h.grp / 8
  banksReady (unitBytes (h.getX a) n h.vc.vstart.toNat)
  let byte (b : Nat) : M Nat := do
    intact b r.val b 8
    let x := (← getH).elem r.val b 8
    storeBytes b (((← readX a).toNat + b) % 2 ^ 64) [BitVec.ofNat 8 x] none none
    return b + 1
  unitLoop byte n n h.vc.vstart.toNat
  retireV

/-- Bits of a byte of a mask access from bit `i` on, below VL: how many, and which. -/
def maskPiece (i vl : Nat) : Nat × Nat :=
  let n := min (8 - i % 8) (vl - i)
  (n, (2 ^ n - 1) * 2 ^ (i % 8))

/-- Mode 7, a load: bits 0 to VL - 1, a byte at a time. -/
def vloadMask (d a : Reg) : M Unit := do
  let h ← getH
  claim d 1
  let vl := h.vc.vl
  banksReady (unitBytes (h.getX a) ((vl + 7) / 8) (h.vc.vstart.toNat / 8))
  let byte (i : Nat) : M Nat := do
    let x ← loadNat i (((← readX a).toNat + i / 8) % 2 ^ 64) 1 false
    let (n, _) := maskPiece i vl
    modH (·.over (fun h k => h.setElem d.val k 1 (bits x (k % 8) 1)) n i)
    return i + n
  unitLoop byte vl (vl + 1) h.vc.vstart.toNat
  retireV

/-- Mode 7, a store: a byte of which not every bit is written is merged at its home (R148). -/
def vstoreMask (r a : Reg) : M Unit := do
  let h ← getH
  if h.ms.strip.isSome then trapInstr .stripop
  let vl := h.vc.vl
  banksReady (unitBytes (h.getX a) ((vl + 7) / 8) (h.vc.vstart.toNat / 8))
  let byte (i : Nat) : M Nat := do
    intact i r.val (i / 8) 8
    let x := (← getH).elem r.val (i / 8) 8
    let (n, mask) := maskPiece i vl
    let w : Write :=
      { va := ((← readX a).toNat + i / 8) % 2 ^ 64
        bs := [BitVec.ofNat 8 x]
        mask := if mask = 255 then none else some (BitVec.ofNat 8 mask) }
    storeMany i [w] (some i) none
    return i + n
  unitLoop byte vl (vl + 1) h.vc.vstart.toNat
  retireV

end Sys2Proof.Machine
end

