-- ==== Sys2Proof/Machine/Narrow.lean ====
section
/-! DEFINITION. Narrow formats (R71, R154-R162): codes, scales, quantisation, trailers, and the vector loads and stores
that convert. The copy engines' CONV uses the same conversions (R130). -/

namespace Sys2Proof.Machine

/-! ### Formats and codes -/

/-- A format whose every code is finite (R156), with `eb` exponent and `mb` mantissa bits. -/
structure NFmt where
  s : Bool
  eb : Nat
  mb : Nat
  bias : Int
  deriving DecidableEq, Repr

namespace NFmt
variable (f : NFmt)
/-- Exponent of the last place of the smallest codes. -/
def qmin : Int := if f.eb = 0 then -f.bias else 1 - f.bias - f.mb
/-- Precision in bits. -/
def prec : Nat := if f.eb = 0 then f.mb else f.mb + 1
/-- MAXF. -/
def maxF : Dy :=
  if f.eb = 0 then ⟨false, 2 ^ f.mb - 1, f.qmin⟩
  else ⟨false, 2 ^ (f.mb + 1) - 1, f.qmin + ((2 ^ f.eb - 2 : Nat) : Int)⟩
/-- B. -/
def codeBits : Nat := f.s.toNat + f.eb + f.mb
/-- C (R157). -/
def container : Nat := if f.codeBits = 2 then 2 else if f.codeBits ≤ 4 then 4 else 8
end NFmt

/-- The value of a code (R156). -/
def NFmt.value (f : NFmt) (x : Nat) : Dy :=
  let neg := f.s && bits x (f.eb + f.mb) 1 == 1
  let e := bits x f.mb f.eb
  let m := bits x 0 f.mb
  if f.eb = 0 ∨ e = 0 then ⟨neg, m, f.qmin⟩ else ⟨neg, m + 2 ^ f.mb, f.qmin + e - 1⟩

/-- The code of a magnitude k 2^q that the format holds. -/
def NFmt.code (f : NFmt) (neg : Bool) (k : Nat) (q : Int) : Nat :=
  let body :=
    if f.eb = 0 then k * 2 ^ (q - f.qmin).toNat
    else if k < 2 ^ f.mb then k
    else (q - f.qmin + 1).toNat * 2 ^ f.mb + (k - 2 ^ f.mb)
  if neg && f.s then 2 ^ (f.eb + f.mb) + body else body

/-- |a| ≤ |b| on dyadic magnitudes. -/
def Dy.absLe (a b : Dy) : Bool :=
  let q := min a.e b.e
  decide (a.m * 2 ^ (a.e - q).toNat ≤ b.m * 2 ^ (b.e - q).toNat)

/-- A quantised element: code, flags, and whether it was a saturation event (R159). -/
structure QRes where
  code : Nat
  fl : Fl := 0
  sat : Bool := false
  deriving DecidableEq, Repr

/-- RoundTo(y, format, RND) and the clamps of R159, y exact. A format with E = 0 underflows below its full precision
(notes/assumptions/27.md). -/
def NFmt.quantDy (f : NFmt) (rm : RM) (y : Dy) : QRes :=
  if !f.s && y.neg && y.m != 0 then { code := 0, fl := flNX, sat := true }
  else if y.m = 0 then { code := f.code y.neg 0 f.qmin }
  else
    let (k, q, nx) := roundPrec rm f.prec f.qmin y.neg y.m y.e false
    if !(Dy.absLe ⟨false, k, q⟩ f.maxF) then
      { code := f.code y.neg f.maxF.m f.maxF.e, fl := flOF ||| flNX, sat := true }
    else
      let (ku, qu, _) := roundPrec rm f.prec (bitLen y.m + y.e - f.prec) y.neg y.m y.e false
      let tiny := decide (bitLen ku + qu < f.qmin + f.prec)
      { code := f.code y.neg k q, fl := (if nx then flNX else 0) ||| (if nx && tiny then flUF else 0) }

/-- Quant(x) with a scale of 2^e (R159). -/
def NFmt.quant (f : NFmt) (rm : RM) (x : FVal) (e : Int) : QRes :=
  match x with
  | .nan _ => { code := 0, fl := flNV }
  | .inf neg =>
    if neg && !f.s then { code := 0, fl := flNX, sat := true }
    else { code := f.code neg f.maxF.m f.maxF.e, fl := flOF ||| flNX, sat := true }
  | .fin d => f.quantDy rm { d with e := d.e - e }

/-- E(a) (R71, R159): the least e from -127 to 127 with a ≤ maxf × 2^e, or 127. -/
def scaleExpFrom (maxf a : Dy) : Nat → Int → Int
  | 0, _ => 127
  | n + 1, e => if a.absLe { maxf with e := maxf.e + e } then e else scaleExpFrom maxf a n (e + 1)

/-- E of a magnitude: a NaN counts as 0, an infinity gives 127 (R159). -/
def scaleExp (maxf : Dy) (a : FVal) : Int :=
  match a with
  | .inf _ => 127
  | .nan _ => scaleExpFrom maxf ⟨false, 0, 0⟩ 255 (-127)
  | .fin d => scaleExpFrom maxf d 255 (-127)

/-- The larger magnitude of two elements; a NaN counts as 0. -/
def absMax (a b : FVal) : FVal :=
  match a, b with
  | .inf _, _ => .inf false
  | _, .inf _ => .inf false
  | .nan _, .nan _ => .fin ⟨false, 0, 0⟩
  | .nan _, x => x
  | x, .nan _ => x
  | .fin x, .fin y => if x.absLe y then .fin { y with neg := false } else .fin { x with neg := false }

def maxMagnitude (xs : List FVal) : FVal := xs.foldl absMax (.fin ⟨false, 0, 0⟩)

/-! ### Descriptors (R154, R155) -/

/-- A narrow descriptor as an instruction reads it. -/
structure Desc where
  w : Nat
  base : Word
  scale : Word
  deriving DecidableEq, Repr

def Hart.desc (h : Hart) (n : Nat) : Desc :=
  { w := (h.f.fmt[Fin.ofNat 12 (3 * n)]).toNat
    base := h.f.fmt[Fin.ofNat 12 (3 * n + 1)]
    scale := h.f.fmt[Fin.ofNat 12 (3 * n + 2)] }

namespace Desc
variable (d : Desc)
def fmt : NFmt := ⟨bits d.w 7 1 == 1, bits d.w 4 3, bits d.w 0 3, sext 8 (bits d.w 8 8)⟩
def smode : Nat := bits d.w 18 2
def flg : Bool := bits d.w 20 1 == 1
def trl : Bool := bits d.w 21 1 == 1
def rnd : Nat := bits d.w 22 2
def chn : Nat := bits d.w 24 16
def toff : Nat := bits d.w 40 24
def valid : Bool :=
  decide (2 ≤ d.fmt.codeBits) && decide (d.fmt.codeBits ≤ 8) && d.smode != 3 && d.rnd != 3 &&
  !(d.smode == 2 && d.chn == 0) && !(d.trl && d.scale.toNat % 16 != 0)
/-- Tensor index of the element whose container starts at bit `bit` from `a` (R157). -/
def index (a : Word) (i : Nat) : Nat := (a - d.base).toNat * 8 / d.fmt.container + i
/-- Address of the scale byte of element `k`; none with SMODE = 0. -/
def scaleAddr (k : Nat) : Option Nat :=
  match d.smode with
  | 1 => some ((d.scale.toNat + k / 32) % 2 ^ 64)
  | 2 => some ((d.scale.toNat + k % d.chn) % 2 ^ 64)
  | _ => none
/-- Address of element `i` of an access at `a`, and its place in the byte. -/
def elemAddr (a : Word) (i : Nat) : Nat := (a.toNat + i * d.fmt.container / 8) % 2 ^ 64
def elemBit (i : Nat) : Nat := i * d.fmt.container % 8
/-- Chunk of an address, and addresses of chunk and trailer (R161). -/
def chunkOf (va : Nat) : Nat := (BitVec.ofNat 64 va - d.base).toNat / 4096
def chunkAddr (c : Nat) : Nat := (d.base.toNat + 4096 * c) % 2 ^ 64
def trailerAddr (c : Nat) : Nat := (d.scale.toNat + d.toff * 4096 + 16 * c) % 2 ^ 64
end Desc

/-- Word of the RND field: stochastic rounding takes a word (R160). -/
def rndMode (rnd word : Nat) : RM := match rnd with | 0 => .rne | 1 => .rtz | _ => .sto word

/-- The wide format at EW (R158, R159). -/
def wideFmt (ew : Nat) : FFmt := if ew = 16 then bf16 else f32

/-- A container read and widened: value × scale rounded RNE; a scale byte of 255 gives NaN and NV (R158). -/
def Desc.widen (d : Desc) (wide : FFmt) (byte bit : Nat) (scale : Option Nat) : FRes :=
  let v := d.fmt.value (bits byte bit d.fmt.codeBits)
  match scale with
  | some 255 => ⟨wide.nanBits, flNV⟩
  | some b => wide.round .rne { v := .fin { v with e := v.e + b - 127 } }
  | none => wide.round .rne { v := .fin v }

/-! ### Loads (R157, R158, R161) -/

/-- Accesses in address order. -/
def byAddress (as : List (Nat × Nat)) : List (Nat × Nat) :=
  match as with
  | [x, y] => if y.1 < x.1 then [y, x] else [x, y]
  | l => l

/-- Consecutive addresses as runs: first address and length. -/
def runs : List Nat → List (Nat × Nat)
  | [] => []
  | a :: r => match runs r with
    | (b, n) :: t => if a + 1 = b then (a, n + 1) :: t else (a, 1) :: (b, n) :: t
    | [] => [(a, 1)]

/-- The bytes of a chunk that are none of `own`, as runs (R161). -/
def Desc.outside (d : Desc) (c : Nat) (own : List Nat) : List (Nat × Nat) :=
  runs (((List.range 4096).map fun b => (d.chunkAddr c + b) % 2 ^ 64).filter fun a => !own.contains a)

/-- The check of a chunk as part of its lowest active element `i` (R161): its trailer's CRC over its 4,096 bytes. Bytes
outside the access's own elements are translated as part of element `i`; an own byte that does not translate, `own` with
its element, is that element's fault, and the check is left to the resumption there (notes/assumptions/50.md). -/
def checkChunk (d : Desc) (i c : Nat) (own : List (Nat × Nat)) (spec : Nat → Bool) : M Unit := do
  let t ← loadNat i (d.trailerAddr c) 16 (spec i) vectorRule
  for r in d.outside c (own.map (·.2)) do
    let _ ← places i r.1 r.2 .load (spec i) vectorRule
  let reached ← tryCatch (do
      for p in own do
        let _ ← places p.1 p.2 1 .load (spec p.1) vectorRule
      return true) fun
    | .trap _ _ _ => return false
    | st => throw st
  if reached then
    let bs ← loadBytes i (d.chunkAddr c) 4096 (spec i) vectorRule
    if bits t 64 32 ≠ crc32c bs then trap .mcheck i (BitVec.ofNat 64 (d.chunkAddr c))

/-- The lowest active element of the access that lies in the chunk of element `i`, from VSTART on, is `i`. -/
def Hart.firstOfChunk (h : Hart) (d : Desc) (a : Word) (m : Bool) (s i : Nat) : Bool :=
  !(List.range i).any fun j => decide (s ≤ j) && h.unmasked m j &&
    d.chunkOf (d.elemAddr a j) == d.chunkOf (d.elemAddr a i)

/-- The active elements above `i` that lie in chunk `c`, each with the address of its byte. -/
def Hart.ownOfChunk (h : Hart) (d : Desc) (a : Word) (m : Bool) (i c : Nat) : List (Nat × Nat) :=
  (((List.range h.vc.vl).filter fun j => decide (i ≤ j) && h.unmasked m j).map fun j => (j, d.elemAddr a j)).filter
    fun p => d.chunkOf p.2 == c

/-- Element `i` of a widening load. -/
def widenElem (dsc : Desc) (v a : Reg) (m ff : Bool) (s0 i : Nat) : M Unit := do
  let h ← getH
  let x := h.getX a
  let spec (j : Nat) : Bool := (h.ms.strip.isSome || ff) && j != 0
  if dsc.trl && h.firstOfChunk dsc x m s0 i then
    let c := dsc.chunkOf (dsc.elemAddr x i)
    checkChunk dsc i c (h.ownOfChunk dsc x m i c) spec
  let ea := dsc.elemAddr x i
  let as := match dsc.scaleAddr (dsc.index x i) with
    | some sa => byAddress [(ea, 1), (sa, 1)]
    | none => [(ea, 1)]
  let bs ← loadMany i as (spec i) vectorRule
  let at' (va : Nat) : Nat := ((as.zip bs).find? (·.1.1 == va)).elim 0 fun p => ofBytes p.2.1
  let r := dsc.widen (wideFmt h.ew) (at' ea) (dsc.elemBit i) ((dsc.scaleAddr (dsc.index x i)).map at')
  if dsc.flg then raiseAt i r.fl
  modH fun h => h.setElem v.val i h.ew r.bits

/-- The bytes that active elements `is` of a narrow access touch: containers, scales, and chunks with their trailers. -/
def Desc.touched (d : Desc) (x : Word) (is : List Nat) : List (Nat × Nat) :=
  is.flatMap fun i =>
    (d.elemAddr x i, 1) :: ((d.scaleAddr (d.index x i)).toList.map fun sa => (sa, 1)) ++
      (if d.trl then [(d.chunkAddr (d.chunkOf (d.elemAddr x i)), 4096), (d.trailerAddr (d.chunkOf (d.elemAddr x i)), 16)]
       else [])

/-- ILLEGAL of a narrow access as far as the word and VTYPE tell (R146). -/
def Hart.narrowIllegal (h : Hart) (d : Reg) : Bool := !(h.ew == 16 || h.ew == 32) || !groupOk d h.grp

/-- The checks of the descriptor when the instruction executes (R146, R157). -/
def narrowCheck (dsc : Desc) (x : Word) (maskedStore : Bool) : M Unit := do
  if !dsc.valid || (maskedStore && dsc.smode == 1) then trapInstr .illegal
  if x.toNat < dsc.base.toNat then trap .misalign 0 x

/-- A widening load, mode 0 (R157, R158). -/
def vloadNarrow (v a : Reg) (m z : Bool) (f : BitVec 3) (ff : Bool) : M Unit := do
  let h ← getH
  if h.narrowIllegal v then trapInstr .illegal
  let dsc := h.desc (f.toNat - 4)
  narrowCheck dsc (h.getX a) false
  claim v h.grp
  let s0 ← startElem
  banksReady (dsc.touched (h.getX a) (h.incomplete m h.vc.vl))
  match ← orderedLoop m h.ms.strip.isSome ff true (widenElem dsc v a m ff s0)
      (h.vc.vl - h.vc.vstart.toNat) h.vc.vstart.toNat with
  | some (j, c) => modH (·.suppress j c)
  | none => if ff && h.ms.strip.isNone then modH fun h => { h with vc := { h.vc with vff := 0 } }
  modH fun h => (h.tail s0 m z v h.ew h.vlmax).retireV

/-! ### Stores (R159-R161) -/

/-- Selected elements below `i` (R160, R209). -/
def Hart.selectedBelow (h : Hart) (m : Bool) (i : Nat) : Nat := ((List.range i).filter fun j => h.unmasked m j).length

/-- RCTRH:RCTRL. -/
def Hart.counter (h : Hart) : Nat := h.f.rctrh.toNat * 2 ^ 64 + h.f.rctrl.toNat

/-- The counter advanced by `n`, modulo 2^128 (R208). -/
def Hart.bumpCounter (h : Hart) (n : Nat) : Hart :=
  let c := (h.counter + n) % 2 ^ 128
  { h with f := { h.f with rctrl := BitVec.ofNat 64 (c % 2 ^ 64), rctrh := BitVec.ofNat 64 (c / 2 ^ 64) } }

/-- The store rounding of element `i`. -/
def Hart.storeRound (h : Hart) (dsc : Desc) (m : Bool) (i : Nat) : RM :=
  rndMode dsc.rnd (if dsc.rnd = 2 then randWord h.f.rkey.toNat h.counter (h.selectedBelow m i) else 0)

/-- Element `i` as a value. -/
def Hart.wideElem (h : Hart) (v : Reg) (i : Nat) : FVal := (wideFmt h.ew).value (h.elem v.val i h.ew)

/-- A conversion's reports, when FLG asks for them (R159, R162): the flags of an element, and FXSAT. -/
def reportQuant (dsc : Desc) (i : Nat) (q : QRes) : M Unit := do
  if dsc.flg then
    modH (·.saturated q.sat)
    raiseAt i q.fl

/-- The write of a container: a whole byte, or its bits merged (R157). -/
def Desc.write (d : Desc) (a : Word) (i code : Nat) : Write :=
  let c := d.fmt.container
  { va := d.elemAddr a i
    bs := [BitVec.ofNat 8 (code * 2 ^ d.elemBit i)]
    mask := if c = 8 then none else some (BitVec.ofNat 8 ((2 ^ c - 1) * 2 ^ d.elemBit i)) }

/-- Quant(x) of an element with SMODE 0 or 2; a scale byte of 255 writes code 0 and raises NV. -/
def quantScaled (dsc : Desc) (rm : RM) (x : FVal) (scale : Option Nat) : QRes :=
  match scale with
  | some 255 => { code := 0, fl := flNV }
  | some b => dsc.fmt.quant rm x ((b : Int) - 127)
  | none => dsc.fmt.quant rm x 0

/-- The scale byte of an element, read as a load. -/
def readScale (dsc : Desc) (i k : Nat) : M (Option Nat) := do
  match dsc.scaleAddr k with
  | some sa => return some (← loadNat i sa 1 false vectorRule)
  | none => return none

/-- Translations of an element's accesses, in the order given (R56). -/
def reach (i : Nat) : List (Nat × Nat × Kind) → M Unit
  | [] => return ()
  | (va, n, k) :: r => do
    let _ ← places i va n k false vectorRule
    reach i r

/-- Element `i` of a narrowing store reaches its container and its channel scale, in address order (R149, R159). -/
def reachElem (dsc : Desc) (x : Word) (i : Nat) : M Unit :=
  let data : Nat × Nat × Kind := (dsc.elemAddr x i, 1, .store)
  match (if dsc.smode = 2 then dsc.scaleAddr (dsc.index x i) else none) with
  | some sa => reach i (if sa < data.1 then [(sa, 1, .load), data] else [data, (sa, 1, .load)])
  | none => reach i [data]

/-- Element `i` of a narrowing store without blocks or trailers. -/
def narrowElem (dsc : Desc) (v a : Reg) (m : Bool) (i : Nat) : M Unit := do
  let h ← getH
  intact i v.val i h.ew
  let x := h.getX a
  reachElem dsc x i
  let scale ← readScale dsc i (dsc.index x i)
  let q := quantScaled dsc (h.storeRound dsc m i) (h.wideElem v i) scale
  reportQuant dsc i q
  storeMany i [dsc.write x i q.code] (some i) none

/-- What a unit of several elements raises, it raises with nothing of the unit done: the hart resumes at the unit's
first element (R159, R161; notes/assumptions/50.md). -/
def asUnit {α : Type} (start : Nat) (x : M α) : M α :=
  tryCatch x fun
    | .trap c e a => throw (.trapFrom c start e a)
    | st => throw st

/-- The elements of the block that starts at element `i`: their values, +0 for those at or above VL. -/
def Hart.blockElems (h : Hart) (v : Reg) (i : Nat) : List FVal :=
  (List.range 32).map fun j => if i + j < h.vc.vl then h.wideElem v (i + j) else .fin ⟨false, 0, 0⟩

/-- The codes of a block and its scale exponent (R159). -/
def Hart.quantBlock (h : Hart) (dsc : Desc) (v : Reg) (i : Nat) : Int × List QRes :=
  let xs := h.blockElems v i
  let e := scaleExp dsc.fmt.maxF (maxMagnitude xs)
  (e, xs.zipIdx.map fun p => dsc.fmt.quant (h.storeRound dsc false (i + p.2)) p.1 e)

/-- The bytes of codes packed from a byte boundary on. -/
def packCodes (c : Nat) (codes : List Nat) : List Byte :=
  toBytes ((codes.length * c + 7) / 8) (codes.zipIdx.foldl (fun n p => n + p.1 * 2 ^ (c * p.2)) 0)

/-- Reports of the elements of a unit, in order; an enabled class traps at its element and the unit is not written. -/
def reportAll (dsc : Desc) (i : Nat) : List QRes → M Unit
  | [] => return ()
  | q :: r => do
    reportQuant dsc i q
    reportAll dsc (i + 1) r

/-- The accesses of the block that starts at element `i`, as its elements reach them: the first with the block's scale
byte, then those below VL, then the rest of the block as part of the first. -/
def reachBlock (dsc : Desc) (x : Word) (i vl : Nat) : M Unit := do
  let sa := (dsc.scaleAddr (dsc.index x i)).getD 0
  let data : Nat × Nat × Kind := (dsc.elemAddr x i, 1, .store)
  reach i (if sa < data.1 then [(sa, 1, .store), data] else [data, (sa, 1, .store)])
  for j in List.range (min 32 (vl - i)) do reach (i + j) [(dsc.elemAddr x (i + j), 1, .store)]
  reach i [(dsc.elemAddr x i, 32 * dsc.fmt.container / 8, .store)]

/-- The writes of the block that starts at element `i`, lowest address first, and its elements' results. -/
def Hart.blockWrites (h : Hart) (dsc : Desc) (v : Reg) (x : Word) (i : Nat) : List Write × List QRes :=
  let (e, qs) := h.quantBlock dsc v i
  let data : Write := { va := dsc.elemAddr x i, bs := packCodes dsc.fmt.container (qs.map (·.code)) }
  let sc : Write := { va := (dsc.scaleAddr (dsc.index x i)).getD 0, bs := [BitVec.ofNat 8 (e + 127).toNat] }
  (if sc.va < data.va then [sc, data] else [data, sc], qs)

/-- The block that starts at element `i`, with its scale byte: one unit (R159). -/
def narrowBlock (dsc : Desc) (v a : Reg) (i : Nat) : M Nat := do
  let h ← getH
  let x := h.getX a
  (List.range (min 32 (h.vc.vl - i))).forM fun j => intact (i + j) v.val (i + j) h.ew
  reachBlock dsc x i h.vc.vl
  let (ws, qs) := h.blockWrites dsc v x i
  reportAll dsc i (qs.take (h.vc.vl - i))
  storeMany i ws (some i) none
  return i + 32

/-! ### Stores with trailers (R161) -/

/-- A dyadic magnitude rounded RUP to binary32. -/
def magBits (d : Dy) : Nat := (f32.round .rup { v := .fin { d with neg := false } }).bits

/-- Codes of positive binary32 numbers are ordered as their values. -/
def magMax (xs : List Nat) : Nat := xs.foldl max 0

/-- The new trailer (R66, R161): MAXMAG, SATCNT and the CRC over the chunk. -/
def trailerBytes (old : Nat) (mag sat : Nat) (chunk : List Byte) : List Byte :=
  toBytes 16 (max (bits old 0 32) mag + min (bits old 32 32 + sat) (2 ^ 32 - 1) * 2 ^ 32 + crc32c chunk * 2 ^ 64)

/-- What a unit's elements become: their writes, results, and how many elements it takes. -/
structure Conv where
  writes : List Write
  res : List (Nat × QRes)
  deriving DecidableEq, Repr

/-- Conversions of the active elements `is` (SMODE 0 or 2), scales read as loads. -/
def convElems (dsc : Desc) (v a : Reg) (m : Bool) : List Nat → M Conv
  | [] => return ⟨[], []⟩
  | i :: r => do
    let h ← getH
    let x := h.getX a
    let scale ← readScale dsc i (dsc.index x i)
    let q := quantScaled dsc (h.storeRound dsc m i) (h.wideElem v i) scale
    let c ← convElems dsc v a m r
    return ⟨dsc.write x i q.code :: c.writes, (i, q) :: c.res⟩

/-- Conversions of the whole blocks that start at the elements given. -/
def convBlocks (dsc : Desc) (v a : Reg) (h : Hart) : List Nat → Conv
  | [] => ⟨[], []⟩
  | i :: r =>
    let (ws, qs) := h.blockWrites dsc v (h.getX a) i
    let c := convBlocks dsc v a h r
    ⟨ws ++ c.writes, (qs.zipIdx.map fun p => (i + p.2, p.1)) ++ c.res⟩

/-- Writes of element `i`'s unit that take their place at once: the hart's queues are empty and the unit owns what it
writes. Older entries of the hart's fabric queue toward a device arrive first (R276); younger loads that have bound the
bytes meet them (R268), and a look ahead sees them as stores of its path (R267). -/
def placeNow (i : Nat) (ps : List Part) : M Unit := do
  let h ← getH
  let ps := ps.map fun p => { p with pc := h.pc }
  if h.ms.look.isSome then enterStore none ps
  else
    for p in ps do
      match regionOf p.key with
      | .domain d =>
        if !(← getD).peerUp d then trap .mcheck i (BitVec.ofNat 64 p.va)
        arriveAll d
      | _ => pure ()
    let under (l : RemoteLoad) : Bool := ps.any fun p =>
      decide (l.key < p.key + p.bytes.length) && decide (p.key < l.key + l.len)
    modH fun h =>
      let h := h.dropBound ps
      { h with ms := { h.ms with landed := h.ms.landed.filter (!under ·) } }
    modify fun s => ps.foldl (fun s p => s.place (hartAgent s.h) s.h.id.tenant p) s

/-- The body of a chunk once the unit's containers stand in it; an error found in reading it undoes them (R161). -/
def placeBody (i : Nat) (ps : List Part) (chunk : List (Nat × Loc × Nat)) : M (List Byte) := do
  let s ← get
  placeNow i ps
  tryCatch (bindPieces i (lineParts chunk)) fun st => do
    set s
    throw st

/-- The chunk's part of a narrowing store, from element `i` to `j` - 1: one unit, `is` its active elements, the first of
which reaches the trailer and what lies outside the access's own bytes. Its trailer line is owned from the start to the
trailer's update, so nothing comes between (R161). That the bytes which are only read for the CRC are translated as a
store is the model's choice (notes/assumptions/72.md). -/
def narrowChunk (dsc : Desc) (v a : Reg) (m : Bool) (i j : Nat) (is : List Nat) : M Unit := do
  flushStores
  let h ← getH
  let x := h.getX a
  let i0 := is.headD i
  is.forM fun k => intact k v.val k h.ew
  let c := dsc.chunkOf (dsc.elemAddr x i)
  let blocks := (List.range ((j - i + 31) / 32)).map fun b => i + 32 * b
  let tr ← places i0 (dsc.trailerAddr c) 16 .store false vectorRule
  for r in dsc.outside c (is.map (dsc.elemAddr x ·)) do reach i0 [(r.1, r.2, .store)]
  if dsc.smode = 1 then blocks.forM fun b => reachBlock dsc x b h.vc.vl
  else is.forM (reachElem dsc x)
  let chunk ← places i0 (dsc.chunkAddr c) 4096 .store false vectorRule
  let conv ← if dsc.smode = 1 then pure (convBlocks dsc v a h blocks) else convElems dsc v a m is
  let ps ← conv.writes.mapM fun w => return (w, ← places i0 w.va w.bs.length .store false vectorRule)
  (chunk :: tr :: ps.map (·.2)).forM bankReady
  let dev ← getD
  if (lineParts (chunk ++ tr ++ ps.flatMap (·.2))).any fun p => dev.owned p.2.1 then wait .ownership
  for q in conv.res do
    if q.1 < h.vc.vl then reportQuant dsc q.1 q.2
  let old ← bindPieces i0 (lineParts tr)
  let body ← placeBody i0 (ps.flatMap fun p => storeParts p.2 p.1.bs p.1.mask none) chunk
  let live := conv.res.filter fun q => decide (q.1 < h.vc.vl)
  let mag := magMax (live.map fun q => magBits (dsc.fmt.value q.2.code))
  let sat := (live.filter fun q => q.2.sat).length
  placeNow i0 (storeParts tr (trailerBytes (ofBytes old) mag sat body) none none)
  for w in conv.writes do noteWatch .store w.va w.bs.length false none

/-- The end of the run of elements from `i` on that lie in one chunk. -/
def Desc.chunkEnd (d : Desc) (a : Word) (c : Nat) : Nat → Nat → Nat
  | 0, i => i
  | n + 1, i => if d.chunkOf (d.elemAddr a i) = c then d.chunkEnd a c n (i + 1) else i

/-- A narrowing store (R159-R162). Under stochastic rounding the counter advances when the instruction completes. -/
def vstoreNarrow (r a : Reg) (m : Bool) (f : BitVec 3) : M Unit := do
  let h ← getH
  if h.narrowIllegal r then trapInstr .illegal
  if h.ms.strip.isSome then trapInstr .stripop
  let dsc := h.desc (f.toNat - 4)
  let x := h.getX a
  narrowCheck dsc x m
  let _ ← startElem
  let vl := h.vc.vl
  let s := h.vc.vstart.toNat
  if dsc.smode = 1 ∧ s < vl ∧ dsc.index x s % 32 ≠ 0 then trap .misalign 0 x
  banksReady (dsc.touched x (h.incomplete m vl))
  if dsc.trl then
    let chunk (i : Nat) : M Nat := asUnit i (do
      let j := dsc.chunkEnd x (dsc.chunkOf (dsc.elemAddr x i)) (vl - i) i
      match ((List.range (j - i)).map (· + i)).filter (h.unmasked m ·) with
      | [] => pure ()
      | is => narrowChunk dsc r a m i j is
      return j)
    unitLoop chunk vl (vl + 1) s
  else if dsc.smode = 1 then unitLoop (fun i => asUnit i (narrowBlock dsc r a i)) vl (vl + 1) s
  else
    let _ ← orderedLoop m false false false (narrowElem dsc r a m) (vl - s) s
  if dsc.rnd = 2 then modH fun h => h.bumpCounter ((h.selectedBelow m vl + 3) / 4)
  retireV

end Sys2Proof.Machine
end

