-- ==== Sys2Proof/Machine/ScalarMem.lean ====
section
/-! DEFINITION. Scalar loads and stores (R286, R287), ordered accesses and atomics (R288, R289), FENCE (R275). -/

namespace Sys2Proof.Machine

/-- A number of `n` bytes as a register value, sign-extended or not (R27). -/
def extend (n : Nat) (signed : Bool) (x : Nat) : Word :=
  if signed then BitVec.ofInt 64 (sext (8 * n) x) else BitVec.ofNat 64 x

/-- A scalar load (R286): rd, base, displacement, bytes, extension, length of the instruction. A load into x0 is
performed, and its value discarded. -/
def loadScalar (d a : Reg) (disp : Word) (n : Nat) (signed : Bool) (len : Nat) : M Unit := do
  let base ← readX a
  let x ← loadNat 0 (base + disp).toNat n false
  writeX d (extend n signed x)
  retire len

/-- A scalar store (R286). -/
def storeScalar (r a : Reg) (disp : Word) (n len : Nat) : M Unit := do
  let base ← readX a
  let x ← readX r
  storeBytes 0 (base + disp).toNat (toBytes n x.toNat) none none
  retire len

/-- Every form of major 0x0E and of SYS raises STRIPOP inside a strip (R254). -/
def noStrip : M Unit := do
  if (← getH).ms.strip.isSome then trapInstr .stripop

/-- An ordered access must be naturally aligned (R289). -/
def aligned (va n : Nat) : M Unit := do
  if va % n ≠ 0 then trap .misalign 0 (BitVec.ofNat 64 va)

/-- No younger load of the hart stays bound from before this point (R267, R268). -/
def acquire : M Unit := modH fun h => { h with ms := { h.ms with bound := [] } }

/-- The line at location `k`, read at address `va`, is monitored from now on (R297). -/
def Hart.monitor (k va : Nat) (h : Hart) : Hart :=
  { h with sy := { h.sy with mon := some (k / 128 * 128), monAddr := BitVec.ofNat 52 va } }

/-- Whether the hart's next instruction has bound its element 0 at location `k` ahead of its turn. -/
def Hart.boundAt (h : Hart) (k : Nat) : Bool :=
  (h.boundElem 0).any fun b => b.fault.isNone && (b.parts.head?.any (·.1 == k))

/-- An acquire load (R274, R289), which sets the monitored line when it binds (R297). Where it has bound ahead of its
turn, that is done, and younger loads have bound after it. -/
def loadAcquire (d a : Reg) (n : Nat) : M Unit := do
  noStrip
  let va := (← readX a).toNat
  aligned va n
  let (bs, k) ← loadPlaced 0 va n false
  if !(← getH).boundAt k then
    acquire
    modH (·.monitor k va)
  writeX d (extend n false (ofBytes bs))
  retire 4

/-- A release store (R274, R289): it drains under the conditions of its scope. A domain release reports a held failure
of a remote store first (R342). -/
def storeRelease (r a : Reg) (n scope : Nat) : M Unit := do
  noStrip
  let va := (← readX a).toNat
  aligned va n
  if scope = 4 then raiseFabric
  let x ← readX r
  storeBytes 0 va (toBytes n x.toNat) none (some scope)
  retire 4

/-- The home of an atomic: waits of its line, which stores that only now have a location may be to, then its present
value (R274, R289). -/
def atomicHome (va w : Nat) (l : Loc) : M Nat := do
  bankWait l.key
  modify State.resolveOwn
  let near (h : Hart) : Bool := h.ms.storeQ.any fun p => lineOf p.key == lineOf l.key
  if near (← getH) then flushStores
  return ofBytes (← bindHome 0 va l.key w)

/-- An atomic operation (R289). `f` gives the new value from the old one and X(rb), both of `w` bits; `cas` writes only
a change. -/
def atomic (d a b : Reg) (rl aq : Bool) (scope : Nat) (z : Bool) (cas : Bool) (f : Nat → Nat → Nat → Nat) : M Unit := do
  noStrip
  let w := if z then 8 else 4
  let va := (← readX a).toNat
  aligned va w
  let l ← translateH 0 va .amo w false
  if rl then
    releaseWait scope
    if scope = 4 then raiseFabric
  let old ← atomicHome va w l
  let new := f (8 * w) old ((← readX b).toNat % 2 ^ (8 * w))
  if !cas || new != old then
    modify fun s => s.putMem (hartAgent s.h) l.key (toBytes w new)
    modH (·.dropBound [{ key := l.key, bytes := toBytes w new }])
  modH (·.dropRead [(l.key, toBytes w old)])
  if aq then acquire
  noteWatch .amo va w false none
  writeX d (extend w true old)
  retire 4

/-- FENCE (R275): the hart's queues empty as the scope asks; parcels fetched before a FENCE of scope core or wider are
fetched anew, and give what memory holds now (R43). -/
def fence (scope : Nat) : M Unit := do
  noStrip
  if 1 ≤ scope then flushStores
  if scope = 4 then
    let q := (← getH).ms.fabricQ.map (·.2)
    if q ≠ [] then wait .fabric (firstPc q)
    raiseFabric
  acquire
  if 1 ≤ scope then modify fun s => { s with h := { s.h with ms := { s.h.ms with ibuf := [], codeMem := s.dev.mem } } }
  retire 4

def execLd8Z (d a : Reg) (i : BitVec 12) (s : State) : Host.Outcome State Fault Refusal :=
  runM (loadScalar d a (immWord i) 1 false 4) s
def execLd8ZPxi (d a : Reg) (i : BitVec 38) (s : State) : Host.Outcome State Fault Refusal :=
  runM (loadScalar d a (immWord i) 1 false 8) s
def execLd16Z (d a : Reg) (i : BitVec 12) (s : State) : Host.Outcome State Fault Refusal :=
  runM (loadScalar d a (immWord i) 2 false 4) s
def execLd16ZPxi (d a : Reg) (i : BitVec 38) (s : State) : Host.Outcome State Fault Refusal :=
  runM (loadScalar d a (immWord i) 2 false 8) s
def execLd32Z (d a : Reg) (i : BitVec 12) (s : State) : Host.Outcome State Fault Refusal :=
  runM (loadScalar d a (immWord i) 4 false 4) s
def execLd32ZPxi (d a : Reg) (i : BitVec 38) (s : State) : Host.Outcome State Fault Refusal :=
  runM (loadScalar d a (immWord i) 4 false 8) s
def execLd64 (d a : Reg) (i : BitVec 12) (s : State) : Host.Outcome State Fault Refusal :=
  runM (loadScalar d a (immWord i) 8 false 4) s
def execLd64Pxi (d a : Reg) (i : BitVec 38) (s : State) : Host.Outcome State Fault Refusal :=
  runM (loadScalar d a (immWord i) 8 false 8) s
def execLd8S (d a : Reg) (i : BitVec 12) (s : State) : Host.Outcome State Fault Refusal :=
  runM (loadScalar d a (immWord i) 1 true 4) s
def execLd8SPxi (d a : Reg) (i : BitVec 38) (s : State) : Host.Outcome State Fault Refusal :=
  runM (loadScalar d a (immWord i) 1 true 8) s
def execLd16S (d a : Reg) (i : BitVec 12) (s : State) : Host.Outcome State Fault Refusal :=
  runM (loadScalar d a (immWord i) 2 true 4) s
def execLd16SPxi (d a : Reg) (i : BitVec 38) (s : State) : Host.Outcome State Fault Refusal :=
  runM (loadScalar d a (immWord i) 2 true 8) s
def execLd32S (d a : Reg) (i : BitVec 12) (s : State) : Host.Outcome State Fault Refusal :=
  runM (loadScalar d a (immWord i) 4 true 4) s
def execLd32SPxi (d a : Reg) (i : BitVec 38) (s : State) : Host.Outcome State Fault Refusal :=
  runM (loadScalar d a (immWord i) 4 true 8) s
def execSt8 (r a : Reg) (i : BitVec 12) (s : State) : Host.Outcome State Fault Refusal :=
  runM (storeScalar r a (immWord i) 1 4) s
def execSt8Pxi (r a : Reg) (i : BitVec 38) (s : State) : Host.Outcome State Fault Refusal :=
  runM (storeScalar r a (immWord i) 1 8) s
def execSt16 (r a : Reg) (i : BitVec 12) (s : State) : Host.Outcome State Fault Refusal :=
  runM (storeScalar r a (immWord i) 2 4) s
def execSt16Pxi (r a : Reg) (i : BitVec 38) (s : State) : Host.Outcome State Fault Refusal :=
  runM (storeScalar r a (immWord i) 2 8) s
def execSt32 (r a : Reg) (i : BitVec 12) (s : State) : Host.Outcome State Fault Refusal :=
  runM (storeScalar r a (immWord i) 4 4) s
def execSt32Pxi (r a : Reg) (i : BitVec 38) (s : State) : Host.Outcome State Fault Refusal :=
  runM (storeScalar r a (immWord i) 4 8) s
def execSt64 (r a : Reg) (i : BitVec 12) (s : State) : Host.Outcome State Fault Refusal :=
  runM (storeScalar r a (immWord i) 8 4) s
def execSt64Pxi (r a : Reg) (i : BitVec 38) (s : State) : Host.Outcome State Fault Refusal :=
  runM (storeScalar r a (immWord i) 8 8) s
/-- c.ldsp and c.stsp: base x2, offset a multiple of 8 (R32). -/
def execCLdsp (d : Reg) (o : BitVec 5) (s : State) : Host.Outcome State Fault Refusal :=
  runM (loadScalar d 2 (BitVec.ofNat 64 (8 * o.toNat)) 8 false 2) s
def execCStsp (r : Reg) (o : BitVec 5) (s : State) : Host.Outcome State Fault Refusal :=
  runM (storeScalar r 2 (BitVec.ofNat 64 (8 * o.toNat)) 8 2) s

def execLd8ZAq (d a : Reg) (_k : BitVec 3) (s : State) : Host.Outcome State Fault Refusal :=
  runM (loadAcquire d a 1) s
def execLd16ZAq (d a : Reg) (_k : BitVec 3) (s : State) : Host.Outcome State Fault Refusal :=
  runM (loadAcquire d a 2) s
def execLd32ZAq (d a : Reg) (_k : BitVec 3) (s : State) : Host.Outcome State Fault Refusal :=
  runM (loadAcquire d a 4) s
def execLd64Aq (d a : Reg) (_k : BitVec 3) (s : State) : Host.Outcome State Fault Refusal :=
  runM (loadAcquire d a 8) s
def execSt8Rl (r a : Reg) (k : BitVec 3) (s : State) : Host.Outcome State Fault Refusal :=
  runM (storeRelease r a 1 k.toNat) s
def execSt16Rl (r a : Reg) (k : BitVec 3) (s : State) : Host.Outcome State Fault Refusal :=
  runM (storeRelease r a 2 k.toNat) s
def execSt32Rl (r a : Reg) (k : BitVec 3) (s : State) : Host.Outcome State Fault Refusal :=
  runM (storeRelease r a 4 k.toNat) s
def execSt64Rl (r a : Reg) (k : BitVec 3) (s : State) : Host.Outcome State Fault Refusal :=
  runM (storeRelease r a 8 k.toNat) s

def execAmoswap (d a b : Reg) (l q : Bool) (k : BitVec 3) (z : Bool) (s : State) : Host.Outcome State Fault Refusal :=
  runM (atomic d a b l q k.toNat z false (fun _ _ b => b)) s
def execAmoadd (d a b : Reg) (l q : Bool) (k : BitVec 3) (z : Bool) (s : State) : Host.Outcome State Fault Refusal :=
  runM (atomic d a b l q k.toNat z false addW) s
def execAmoand (d a b : Reg) (l q : Bool) (k : BitVec 3) (z : Bool) (s : State) : Host.Outcome State Fault Refusal :=
  runM (atomic d a b l q k.toNat z false andW) s
def execAmoor (d a b : Reg) (l q : Bool) (k : BitVec 3) (z : Bool) (s : State) : Host.Outcome State Fault Refusal :=
  runM (atomic d a b l q k.toNat z false orW) s
def execAmoxor (d a b : Reg) (l q : Bool) (k : BitVec 3) (z : Bool) (s : State) : Host.Outcome State Fault Refusal :=
  runM (atomic d a b l q k.toNat z false xorW) s
def execAmominS (d a b : Reg) (l q : Bool) (k : BitVec 3) (z : Bool) (s : State) : Host.Outcome State Fault Refusal :=
  runM (atomic d a b l q k.toNat z false minS) s
def execAmominZ (d a b : Reg) (l q : Bool) (k : BitVec 3) (z : Bool) (s : State) : Host.Outcome State Fault Refusal :=
  runM (atomic d a b l q k.toNat z false minZ) s
def execAmomaxS (d a b : Reg) (l q : Bool) (k : BitVec 3) (z : Bool) (s : State) : Host.Outcome State Fault Refusal :=
  runM (atomic d a b l q k.toNat z false maxS) s
def execAmomaxZ (d a b : Reg) (l q : Bool) (k : BitVec 3) (z : Bool) (s : State) : Host.Outcome State Fault Refusal :=
  runM (atomic d a b l q k.toNat z false maxZ) s
/-- cas: the new value when the old one equals X(rd) (R288). -/
def execAmocas (d a b : Reg) (l q : Bool) (k : BitVec 3) (z : Bool) (s : State) : Host.Outcome State Fault Refusal :=
  runM (atomic d a b l q k.toNat z true fun w old x => if old = (s.getX d).toNat % 2 ^ w then x else old) s

def execFence (k : BitVec 5) (s : State) : Host.Outcome State Fault Refusal :=
  runM (fence k.toNat) s

end Sys2Proof.Machine
end

