-- ==== Sys2Proof/Machine/Copy.lean ====
section
/-! DEFINITION. Copy engines (R124-R136): what a command covers, its issue, the engine's reads and writes, completion,
failure, cancellation and re-issue, CPYWAIT and CPYQRY. -/

namespace Sys2Proof.Machine

/-! ### Lines and stretches -/

/-- A number put into a rising list once. -/
def insertUp (x : Nat) : List Nat → List Nat
  | [] => [x]
  | y :: r => if x < y then x :: y :: r else if x = y then y :: r else y :: insertUp x r

/-- The virtual lines of a stretch of `n` bytes. -/
def stretchLines (va n : Nat) : List Nat :=
  if n = 0 then [] else (List.range ((va % 128 + n + 127) / 128)).map fun i => (va / 128 + i) % 2 ^ 57

/-- The virtual lines of stretches, each once, rising. -/
def linesOf (rs : List (Nat × Nat)) : List Nat := (rs.flatMap fun r => stretchLines r.1 r.2).foldr insertUp []

/-- The lowest byte of line `l` that a stretch covers. -/
def lowestByte (rs : List (Nat × Nat)) (l : Nat) : Nat :=
  rs.foldl (fun best r =>
    let d := (l + 2 ^ 57 - r.1 / 128) % 2 ^ 57
    if r.2 != 0 && decide (d * 128 < r.1 % 128 + r.2) then min best (if d = 0 then r.1 else l * 128) else best) (l * 128 + 127)

/-- `va` less `base` as an offset (R46). -/
def offset (va base : Nat) : Nat := (va + 2 ^ 64 - base) % 2 ^ 64

/-! ### What a command covers (R126, R127, R130) -/

namespace Cmd
variable (c : Cmd)

def dstA : Nat := c.dst.toNat
def srcA : Nat := c.src.toNat
/-- COUNT. -/
def count : Nat := match c.form with | .gath => bits c.cnt.toNat 0 32 | _ => c.cnt.toNat
/-- RB. -/
def rb : Nat := match c.form with | .gath => bits c.cnt.toNat 32 16 | _ => bits c.aux.toNat 0 16
def sstr : Int := sext 24 (bits c.aux.toNat 40 24)
def dstr : Int := sext 24 (bits c.aux.toNat 16 24)
/-- Row `k` of a 2D side. -/
def rowAt (base : Nat) (str : Int) (k : Nat) : Nat := wrap 64 (base + k * str)

/-- Width of the wide side of a CONV in bits. -/
def wideBits : Nat := if c.aux.getLsbD 3 then 32 else 16
/-- DIR: narrow. -/
def narrows : Bool := c.aux.getLsbD 2
def desc : Desc := ⟨c.fmt.toNat, c.fmtB, c.fmtS⟩
/-- The address of the narrow side. -/
def narrowA : Word := if c.narrows then c.dst else c.src
/-- Elements whose containers are read or written: a block of SMODE = 1 is written whole (R159). -/
def elems : Nat := if c.narrows && c.desc.smode == 1 then roundUp c.count 32 else c.count
def containers : List (Nat × Nat) := [(c.narrowA.toNat, (c.elems * c.desc.fmt.container + 7) / 8)]
def wideSide : List (Nat × Nat) := [(if c.narrows then c.srcA else c.dstA, c.count * (c.wideBits / 8))]
/-- Scale bytes of the elements. -/
def scales : List (Nat × Nat) :=
  let d := c.desc
  let k := d.index c.narrowA 0
  match d.smode with
  | 1 => [((d.scale.toNat + k / 32) % 2 ^ 64, (k % 32 + c.elems + 31) / 32)]
  | 2 =>
    let o := k % d.chn
    if d.chn ≤ c.count then [(d.scale.toNat, d.chn)]
    else if o + c.count ≤ d.chn then [((d.scale.toNat + o) % 2 ^ 64, c.count)]
    else [((d.scale.toNat + o) % 2 ^ 64, d.chn - o), (d.scale.toNat, o + c.count - d.chn)]
  | _ => []
/-- Chunks that the elements lie in (R161). -/
def chunks : List Nat :=
  if !c.desc.trl then []
  else
    let a := c.desc.chunkOf c.narrowA.toNat
    let b := c.desc.chunkOf (c.desc.elemAddr c.narrowA (c.elems - 1))
    (List.range (b + 1 - a)).map (· + a)
def trailers : List (Nat × Nat) := c.chunks.map fun k => (c.desc.trailerAddr k, 16)
def bodies : List (Nat × Nat) := c.chunks.map fun k => (c.desc.chunkAddr k, 4096)

/-- The narrow side begins below FMTnB: the command fails with MISALIGN (R157, R130), and no scale or trailer of it has
an address. -/
def below : Bool := c.form == .conv && decide (c.narrowA.toNat < c.desc.base.toNat)

/-- Destination stretches. The destination of a narrowing CONV is every byte that the VST writes: containers, the scale
bytes of SMODE = 1, trailers (notes/assumptions/28.md). -/
def dests : List (Nat × Nat) :=
  match c.form with
  | .lin | .fill => [(c.dstA, c.count)]
  | .twoD =>
    if c.dstr = 0 then [(c.dstA, c.rb)] else (List.range c.count).map fun k => (rowAt c.dstA c.dstr k, c.rb)
  | .gath => [(c.dstA, c.count * c.rb)]
  | .conv =>
    if !c.narrows then c.wideSide
    else if c.below then c.containers
    else c.containers ++ (if c.desc.smode = 1 then c.scales else []) ++ c.trailers

/-- Source stretches that the operands tell: of a GATH the index table. -/
def sources : List (Nat × Nat) :=
  match c.form with
  | .lin => [(c.srcA, c.count)]
  | .fill => []
  | .twoD => (List.range c.count).map fun k => (rowAt c.srcA c.sstr k, c.rb)
  | .gath => [(c.aux.toNat, 4 * c.count)]
  | .conv =>
    if c.below then (if c.narrows then c.wideSide else c.containers)
    else if c.narrows then c.wideSide ++ (if c.desc.smode = 2 then c.scales else [])
    else c.containers ++ c.scales ++ c.trailers ++ c.bodies

/-- A source byte as the engine read it. -/
def byteAt (va : Nat) : Byte :=
  match c.got.find? (·.1 == va / 128) with
  | some (_, bs) => (bs[va % 128]?).getD 0
  | none => 0

def numAt (va n : Nat) : Nat := ofBytes ((List.range n).map fun j => c.byteAt ((va + j) % 2 ^ 64))

def has (l : Nat) : Bool := c.got.any (·.1 == l)

/-- Source lines known so far and not yet read. -/
def openLines : List Nat := (linesOf c.sources).filter fun l => !c.has l

/-- Idx(k) of a GATH (R127). -/
def idx (k : Nat) : Nat := c.numAt (c.aux.toNat + 4 * k) 4

/-- Rows of a GATH, once its index table is read. -/
def gathRows : List (Nat × Nat) :=
  if c.form = .gath ∧ c.openLines = [] then
    (List.range c.count).map fun k => ((c.srcA + c.idx k * c.rb) % 2 ^ 64, c.rb)
  else []

/-- Source lines not yet read. -/
def unread : List Nat :=
  match c.openLines with
  | [] => (linesOf c.gathRows).filter fun l => !c.has l
  | l => l

/-- The highest row below `n` of a 2D destination that covers a byte (R127). -/
def lastRow (va : Nat) : Nat → Option Nat
  | 0 => none
  | k + 1 => if offset va (rowAt c.dstA c.dstr k) < c.rb then some k else lastRow va k

/-- Where the value of a destination byte comes from, for the forms without conversion. -/
inductive Origin where
  | none
  | byte (b : Byte)
  | mem (va : Nat)
  deriving DecidableEq, Repr

def origin (va : Nat) : Origin :=
  let o := offset va c.dstA
  match c.form with
  | .lin => if o < c.count then .mem ((c.srcA + o) % 2 ^ 64) else .none
  | .fill => if o < c.count then .byte (BitVec.ofNat 8 (bits c.srcA (8 * (va % 8)) 8)) else .none
  | .twoD => match c.lastRow va c.count with
    | some k => .mem ((rowAt c.srcA c.sstr k + offset va (rowAt c.dstA c.dstr k)) % 2 ^ 64)
    | none => .none
  | .gath => if o < c.count * c.rb then .mem ((c.srcA + c.idx (o / c.rb) * c.rb + o % c.rb) % 2 ^ 64) else .none
  | .conv => .none

/-! ### Conversion (R130) -/

/-- Element `i` of the wide source. -/
def wideElem (i : Nat) : FVal :=
  let n := c.wideBits / 8
  (wideFmt c.wideBits).value (c.numAt (c.srcA + i * n) n)

/-- Rounding of element `i`, with the captured key and counter. -/
def rounding (i : Nat) : RM :=
  rndMode c.desc.rnd (if c.desc.rnd = 2 then randWord c.rkey.toNat (c.rctrh.toNat * 2 ^ 64 + c.rctrl.toNat) i else 0)

/-- What a CONV writes, and each element's result; trailers apart. -/
def conv : Conv :=
  let d := c.desc
  let n := c.wideBits / 8
  if !c.narrows then
    let rs : List Write × List (Nat × QRes) := ((List.range c.count).map fun i =>
      let sc := (d.scaleAddr (d.index c.src i)).map fun a => (c.byteAt a).toNat
      let r := d.widen (wideFmt c.wideBits) (c.byteAt (d.elemAddr c.src i)).toNat (d.elemBit i) sc
      ({ va := (c.dstA + i * n) % 2 ^ 64, bs := toBytes n r.bits }, (i, { code := r.bits, fl := r.fl }))).unzip
    ⟨rs.1, rs.2⟩
  else if d.smode = 1 then
    (List.range (c.elems / 32)).foldr (fun b acc =>
      let i := 32 * b
      let xs := (List.range 32).map fun j => if i + j < c.count then c.wideElem (i + j) else .fin ⟨false, 0, 0⟩
      let e := scaleExp d.fmt.maxF (maxMagnitude xs)
      let qs := xs.zipIdx.map fun p => d.fmt.quant (c.rounding (i + p.2)) p.1 e
      let data : Write := { va := d.elemAddr c.dst i, bs := packCodes d.fmt.container (qs.map (·.code)) }
      let sc : Write := { va := (d.scaleAddr (d.index c.dst i)).getD 0, bs := [BitVec.ofNat 8 (e + 127).toNat] }
      ⟨data :: sc :: acc.writes, (qs.zipIdx.map fun p => (i + p.2, p.1)) ++ acc.res⟩) ⟨[], []⟩
  else
    let res := (List.range c.count).map fun i =>
      let sc := (d.scaleAddr (d.index c.dst i)).map fun a => (c.byteAt a).toNat
      (i, quantScaled d (c.rounding i) (c.wideElem i) sc)
    ⟨res.map fun p => d.write c.dst p.1 p.2.code, res⟩

/-- The first element whose conversion raises a class that the captured FRM enables, with FLG = 1 (R129, R162, R190). -/
def trapElem : Option Nat :=
  if c.desc.flg && c.fen != 0 then
    (c.conv.res.find? fun q => decide (q.1 < c.count) && q.2.fl &&& c.fen != 0).map (·.1)
  else none

/-- The first chunk whose trailer does not match what a widening CONV has read (R161). -/
def badChunk : Option Nat :=
  let d := c.desc
  if c.narrows then none
  else c.chunks.find? fun k =>
    bits (c.numAt (d.trailerAddr k) 16) 64 32 != crc32c ((List.range 4096).map fun j => c.byteAt ((d.chunkAddr k + j) % 2 ^ 64))

/-- What makes a CONV fail before it writes (R130): the causes of the vector access, in the order of its elements: a
trailer that does not match (R161), FPTRAP with address 0 (R190; notes/assumptions/29.md). -/
def convFault : Option (Cause × Nat) :=
  let d := c.desc
  if c.form ≠ .conv then none
  else if c.below then some (.misalign, c.narrowA.toNat)
  else if c.narrows && d.smode == 1 && d.index c.narrowA 0 % 32 != 0 then some (.misalign, c.narrowA.toNat)
  else if c.unread != [] then none
  else match c.badChunk, c.trapElem with
    | none, none => none
    | none, some _ => some (.fptrap, 0)
    | some k, none => some (.mcheck, d.chunkAddr k)
    | some k, some i => if d.chunkOf (d.elemAddr c.narrowA i) < k then some (.fptrap, 0) else some (.mcheck, d.chunkAddr k)

/-- A trailer after the conversion (R161), from its old value and the chunk as it stands. -/
def trailer (cv : Conv) (k : Nat) (old : Nat) (chunk : List Byte) : List Byte :=
  let d := c.desc
  let live := cv.res.filter fun q => decide (q.1 < c.count) && d.chunkOf (d.elemAddr c.dst q.1) == k
  trailerBytes old (magMax (live.map fun q => magBits (d.fmt.value q.2.code))) (live.filter fun q => q.2.sat).length chunk

end Cmd

/-! ### Slots (R114) -/

/-- Commands issued against a bank and not complete (R114): PEND. -/
def Device.pend (d : Device) (die core num : Nat) : Nat :=
  (d.cmds.filter fun c => c.die == die && (c.dbanks.contains (core, num) || c.sbanks.contains (core, num))).length

/-- A change of one bank. -/
def Device.modBank (d : Device) (die core num : Nat) (f : Bank → Bank) : Device :=
  { d with banks := d.banks.map fun b => if b.die == die && b.core == core && b.num == num then f b else b }

def Bank.issue (src : Bool) (b : Bank) : Bank :=
  if !b.trk then b
  else if src then (if b.st = 2 then { b with st := 3 } else b)
  else if b.st = 0 then { b with st := 1 } else b

/-- The completion transition; `pend` is what remains. -/
def Bank.complete (src : Bool) (pend : Nat) (b : Bank) : Bank :=
  if !b.trk || pend != 0 then b
  else if src then (if b.st = 3 then { b with st := 0 } else b)
  else if b.st = 1 ∧ !b.hold then { b with st := 2 } else b

/-- Whether slot states permit the issue (R115). -/
def Bank.permits (src : Bool) (b : Bank) : Bool :=
  !b.trk || (if src then b.st == 2 || b.st == 3 else b.st == 0 || b.st == 1)

/-! ### The engine's place in the device -/

def Cmd.same (c x : Cmd) : Bool := c.owner == x.owner && c.eng == x.eng && c.num == x.num

/-- A command of the queues, or one to be issued again, replaced. -/
def Device.setCmd (d : Device) (c : Cmd) : Device :=
  let put (l : List Cmd) : List Cmd := l.map fun x => if x.same c then c else x
  { d with cmds := put d.cmds, gangs := d.gangs.map fun g => { g with savedCmds := put g.savedCmds } }

/-- The command that an engine runs: the first of its queue (R124). -/
def Device.head (d : Device) (die core eng : Nat) : Option Cmd :=
  d.cmds.find? fun c => c.die == die && c.core == core && c.eng == eng

/-- A command leaves the device; its lines are released. -/
def Device.dropCmd (d : Device) (c : Cmd) : Device := { d with cmds := d.cmds.filter fun x => !x.same c }

/-- Completion transitions of every bank that a command names (R114, R133). -/
def Device.completeBanks (d : Device) (c : Cmd) : Device :=
  let d := c.dbanks.foldl (fun d b => d.modBank c.die b.1 b.2 fun x => x.complete false (d.pend c.die b.1 b.2)) d
  c.sbanks.foldl (fun d b => d.modBank c.die b.1 b.2 fun x => x.complete true (d.pend c.die b.1 b.2)) d

/-- A command completes when it has no line to write and none to read (R133). -/
def State.finishCmd (s : State) (c : Cmd) : State :=
  if c.lines = [] ∧ c.unread = [] then { s with dev := (s.dev.dropCmd c).completeBanks c }
  else { s with dev := s.dev.setCmd c }

/-- A command fails (R135): it completes with the failure, its unwritten lines released unchanged; the failure goes into
the owner's record, or is counted when that is full. -/
def State.failCmd (s : State) (c : Cmd) (f : Cause × Nat) : State :=
  let note (h : Hart) : Hart :=
    if h.id.gang.toNat = c.owner.gang ∧ h.id.rank = c.owner.rank ∧ h.status ≠ .vacant then
      let e := Fin.ofNat 4 c.eng
      match h.sy.fail[e] with
      | some _ => h.countUp 1
      | none =>
        let r : FailRec := { num := c.num, cause := f.1, addr := BitVec.ofNat 64 f.2 }
        { h with sy := { h.sy with fail := h.sy.fail.set e (some r) } }
    else h
  ({ s with dev := (s.dev.dropCmd c).completeBanks c }).mapHarts note

/-! ### Reading a source line (R132) -/

/-- What an engine's attempt on a line gives: the line and the mapping it was translated through (R62). -/
inductive Attempt where
  | ok (bs : List Byte) (m : Mapping)
  | waits
  | fails (c : Cause)
  deriving DecidableEq, Repr

/-- The first attempt of the command on a tiered page, kept; TIERWAIT 10 ms after it, but not under staged promotion
(R57, R135). -/
def engineTier (c : Cmd) (va : Nat) (l : Leaf) : M Attempt := do
  modD (·.askPromotion c.ctx l va)
  let t ← getTime
  match c.tierClock.find? (·.1 == l.ptea) with
  | some (_, t0) => return if bits l.pte 62 1 = 0 ∧ t0 + tierLimit ≤ t then .fails .tierwait else .waits
  | none =>
    modD (·.setCmd { c with tierClock := (l.ptea, t) :: c.tierClock })
    return .waits

/-- The 128 bytes of a line at its home, or MCHECK (R135, R340). -/
def State.lineAt (s : State) (k : Nat) (m : Mapping) : Attempt :=
  if s.dev.bad k 128 then .fails .mcheck else .ok (s.dev.mem.getBytes k 128) m

/-- A line read at its home, never waiting for its owner (R132, R277); `row` for a row of a GATH. The issuing hart's
older stores have all arrived (R131). -/
def engineLine (c : Cmd) (va : Nat) (row : Bool) : M Attempt := do
  match ← translate c.ctx va .load 1 with
  | .error (.cause x) => return .fails x
  | .error .moving => return .waits
  | .error (.tier lf) => engineTier c va lf
  | .ok p =>
    let s ← get
    let k := p.key / 128 * 128
    if p.attr = 2 then return .fails .perm
    else if row && (s.dev.bankAt k).any (·.trk) && regionOf k == .bank then return .fails .perm
    else match regionOf k with
      | .domain d =>
        let (up, s') := s.remoteAccess d
        set s'
        return if up then s'.lineAt k p.map else .fails .mcheck
      | _ => return s.lineAt k p.map

/-- The attempt on an unread line as a step of the machine. -/
def State.attempt (s : State) (c : Cmd) (va : Nat) (row : Bool) : Attempt × State :=
  match (engineLine c va row).run s with
  | (.ok a, s') => (a, s')
  | (.error _, s') => (.waits, s')

/-- The attempt on unread line `l`, at the lowest byte of it that the command reads. -/
def State.tryRead (s : State) (c : Cmd) (l : Nat) : Attempt × State :=
  s.attempt c (lowestByte (c.sources ++ c.gathRows) l) (c.form == .gath && c.openLines == [])

/-- A row of a GATH in a tracked bank, in a line that the command has read for its index table (R128). -/
def State.rowFault (s : State) (c : Cmd) : Option (Cause × Nat) :=
  ((linesOf c.gathRows).find? fun l => c.has l && inWindow (l * 128) && (match s.window c.ctx (l * 128) with
    | some (.bank die core num _) => (s.dev.bank? die core num).any (·.trk)
    | _ => false)).map fun l => (.perm, lowestByte c.gathRows l)

/-- What makes a command fail whatever it still reads. -/
def State.cmdFault (s : State) (c : Cmd) : Option (Cause × Nat) := c.convFault <|> s.rowFault c

/-- READ (R132) of the command's unread line number `n`; an attempt that waits leaves its promotion request. -/
def State.engineRead (s : State) (c : Cmd) (n : Nat) : State :=
  match c.unread[n]? with
  | none => s
  | some l => match s.tryRead c l with
    | (.ok bs m, s') => s'.finishCmd { c with got := (l, bs) :: c.got, map := m :: c.map }
    | (.waits, s') => s'
    | (.fails _, _) => s

/-- The failure of a command (R135) whose conversion, or whose unread line number `n`, meets a fault. -/
def State.engineFail (s : State) (c : Cmd) (n : Nat) : State :=
  match s.cmdFault c with
  | some f => s.failCmd c f
  | none => match c.unread[n]? with
    | none => s
    | some l => match s.tryRead c l with
      | (.fails x, s') => s'.failCmd c (x, lowestByte (c.sources ++ c.gathRows) l)
      | _ => s

/-! ### Writing a destination line (R133) -/

/-- The content of a byte of a line that conversions write: their writes laid over the home, in order. -/
def convLine (ws : List Write) (l : Nat) (home : List Byte) : List Byte :=
  forward (ws.map fun w => { key := w.va, bytes := w.bs, mask := w.mask }) (l * 128) home

/-- Bytes of a line that writes cover. -/
def writesCover (ws : List Write) (va : Nat) : Bool := ws.any fun w => decide (offset va w.va < w.bs.length)

/-- The stretches of the bytes that are to be written, within one line. -/
def runsOf (k : Nat) (run : List Byte) : List (Option Byte) → List (Nat × List Byte)
  | [] => if run = [] then [] else [(k - run.length, run)]
  | some b :: r => runsOf (k + 1) (run ++ [b]) r
  | none :: r => (if run = [] then [] else [(k - run.length, run)]) ++ runsOf (k + 1) [] r

/-- A write-watch entry meets the write of one line, made of stretches (R351). -/
def State.watchRuns (s : State) (a : Agent) (runs : List (Nat × List Byte)) : State :=
  let r := s.dev.writeWatch.map fun w =>
    match runs.find? fun x => decide (w.pa.toNat < x.1 + x.2.length) && decide (x.1 < w.pa.toNat + w.span) with
    | some x => (w.meet a x.1 x.2.length s.time, w.gang.toNat)
    | none => ((w, false), w.gang.toNat)
  let gangs : List Nat := r.filterMap fun p => if p.1.2 then some p.2 else none
  let s1 : State := { s with dev := { s.dev with writeWatch := r.map fun p => p.1.1 } }
  s1.mapHarts fun h => if gangs.contains h.id.gang.toNat && h.status != .vacant then h.askHalt 6 else h

/-- The bytes of one line take their place at one instant (R133); a byte that is none stays as it is. -/
def State.putLine (s : State) (a : Agent) (k : Nat) (bs : List (Option Byte)) : State :=
  let runs := runsOf k [] bs
  let d := runs.foldl (fun (d : Device) r =>
    (({ d with mem := d.mem.setBytes r.1 r.2 } : Device).clearErr r.1 r.2.length).noteForeign r.1 r.2.length) s.dev
  let s := { s with dev := d }.mapHarts fun h =>
    (runs.foldl (fun (h : Hart) (r : Nat × List Byte) => h.noteLater a r.1 r.2.length) h).noteWrite (lineOf k)
  s.watchRuns a runs

/-- Every source of a line is read, and no line still to be read is this line (R127). -/
def State.lineReady (s : State) (c : Cmd) (key l : Nat) : Bool :=
  c.openLines == [] &&
  (match c.form with
   | .conv => c.unread == []
   | _ => (List.range 128).all fun j =>
      match c.origin (l * 128 + j) with
      | .mem va => c.has (va / 128)
      | _ => true) &&
  !(c.unread.any fun u => match s.probe c.ctx (lowestByte (c.sources ++ c.gathRows) u) .load with
    | .ok (p, _, _) => p.key / 128 == key
    | .error _ => false)

/-- The chunk's lines as they stand at home, with the mappings used (R62); waits or fails where a byte does not
translate, with its address. That the bytes which are only read for the CRC are translated as loads is the model's
choice (notes/assumptions/70.md). -/
def State.chunkBytes (c : Cmd) : List Nat → State → Except (Attempt × Nat) (List (Nat × List Byte) × List Mapping) × State
  | [], s => (.ok ([], []), s)
  | l :: r, s => match s.attempt c (lowestByte c.bodies l) false with
    | (.ok bs p, s1) => match State.chunkBytes c r s1 with
      | (.ok (m, ps), s2) => (.ok ((l, bs) :: m, p :: ps), s2)
      | e => e
    | (a, s1) => (.error (a, lowestByte c.bodies l), s1)

/-- Trailers that lie in a line. -/
def Cmd.trailersIn (c : Cmd) (l : Nat) : List Nat :=
  if c.form = .conv ∧ c.narrows then c.chunks.filter fun k => c.desc.trailerAddr k / 128 == l else []

/-- Other lines that a chunk's content still waits for. -/
def Cmd.chunkOpen (c : Cmd) (l k : Nat) : Bool :=
  c.lines.any fun x => x.2 != l && c.trailersIn x.2 == [] && (stretchLines (c.desc.chunkAddr k) 4096).contains x.2

/-- A line with its trailers updated, one after the other, and the mappings used. -/
def State.withTrailers (c : Cmd) (cv : Conv) (l : Nat) :
    List Nat → List Byte × List Mapping → State → Except (Attempt × Nat) (List Byte × List Mapping) × State
  | [], line, s => (.ok line, s)
  | k :: r, (line, ps), s =>
    match State.chunkBytes c (stretchLines (c.desc.chunkAddr k) 4096) s with
    | (.error a, s1) => (.error a, s1)
    | (.ok (m, qs), s1) =>
      let at' (va : Nat) : Byte :=
        if va / 128 = l then (line.getD (va % 128) 0)
        else match m.find? (·.1 == va / 128) with
          | some p => p.2.getD (va % 128) 0
          | none => 0
      let body := (List.range 4096).map fun j => at' ((c.desc.chunkAddr k + j) % 2 ^ 64)
      let o := c.desc.trailerAddr k % 128
      let old := ofBytes ((line.drop o).take 16)
      State.withTrailers c cv l r (line.take o ++ c.trailer cv k old body ++ line.drop (o + 16), qs ++ ps) s1

/-- The bytes that WRITE puts into a line, and the mappings of what it reads for them; an old trailer with an error is
not read (R340). -/
def State.lineContent (s : State) (c : Cmd) (cv : Conv) (key l : Nat) :
    Except (Attempt × Nat) (List (Option Byte) × List Mapping) × State :=
  match c.form with
  | .conv =>
    let home := s.dev.mem.getBytes (key * 128) 128
    let ts := c.trailersIn l
    let inTrailer (j : Nat) : Bool := ts.any fun k => decide (offset (l * 128 + j) (c.desc.trailerAddr k) < 16)
    match ts.find? fun k => s.dev.bad (key * 128 + c.desc.trailerAddr k % 128) 16 with
    | some k => (.error (.fails .mcheck, c.desc.trailerAddr k), s)
    | none => match State.withTrailers c cv l ts (convLine cv.writes l home, []) s with
    | (.ok (line, ms), s1) =>
      (.ok (line.zipIdx.map fun p =>
        if writesCover cv.writes (l * 128 + p.2) || inTrailer p.2 then some p.1 else none, ms), s1)
    | (.error a, s1) => (.error a, s1)
  | _ =>
    (.ok ((List.range 128).map fun j => match c.origin (l * 128 + j) with
      | .none => none
      | .byte b => some b
      | .mem va => some (c.byteAt va), []), s)

/-- WRITE (R133) of the command's unwritten line number `n`: the line is written and released. A chunk byte of a trailer
that does not translate fails the command with its address; one of a TIERED page is asked for and waited for (R135). -/
def State.engineWrite (s : State) (c : Cmd) (cv : Conv) (n : Nat) : Option State :=
  match c.lines[n]? with
  | none => none
  | some (key, l) =>
    if s.cmdFault c != none || !s.lineReady c key l || (c.trailersIn l).any (c.chunkOpen l) then none
    else match s.lineContent c cv key l with
      | (.ok (bs, ms), s1) =>
        let (up, s1) := match regionOf (key * 128) with | .domain d => s1.remoteAccess d | _ => (true, s1)
        let c' := { c with lines := c.lines.erase (key, l), map := ms ++ c.map }
        if up then some ((s1.putLine (engineAgent c) (key * 128) bs).finishCmd c')
        else some (s1.failCmd c' (.mcheck, lowestByte c.dests l))
      | (.error (.fails x, va), s1) => some (s1.failCmd c (x, va))
      | (.error _, s1) => if s1.dev = s.dev then none else some s1

/-- The conversions of a command, once all its sources are read. -/
def Cmd.convNow (c : Cmd) : Conv := if c.form = .conv ∧ c.unread = [] then c.conv else ⟨[], []⟩

/-! ### Issue (R128, R129) -/

/-- A command with everything the hart has at issue (R129). -/
def newCmd (h : Hart) (form : CpyForm) (dst src cnt aux : Word) (e : Nat) : Cmd :=
  let n := bits aux.toNat 0 2
  { owner := h.ref
    pc := h.pc
    die := dieOf h.id.hartid
    core := coreOf h.id.hartid
    eng := e
    num := h.sy.cseq[Fin.ofNat 4 e] + 1
    form := form
    dst := dst
    src := src
    cnt := cnt
    aux := aux
    tenant := h.id.tenant
    root := h.hr.ptroot
    asid := h.hr.asid
    fmt := h.f.fmt[Fin.ofNat 12 (3 * n)]
    fmtB := h.f.fmt[Fin.ofNat 12 (3 * n + 1)]
    fmtS := h.f.fmt[Fin.ofNat 12 (3 * n + 2)]
    frm := h.f.frm
    fen := h.f.fen
    rkey := h.f.rkey
    rctrl := h.f.rctrl
    rctrh := h.f.rctrh
    hartid := h.id.hartid
    gangsz := h.id.gangsz
    rank := h.id.rank }

/-- The refusal code of R128, 0 for none; a wrong field is told before a span (notes/assumptions/28.md). -/
def Cmd.refusal (c : Cmd) : Nat :=
  let bad := match c.form with
    | .lin | .fill => false
    | .twoD => c.rb == 0
    | .gath => bits c.cnt.toNat 48 16 != 0 || c.rb == 0 || c.aux.toNat % 4 != 0
    | .conv => bits c.aux.toNat 4 60 != 0
  if bad then 2
  else if c.form = .conv ∧ !c.desc.valid then 3
  else if c.dests.any (fun r => decide (8192 * 128 < r.1 % 128 + r.2)) || decide (8192 < (linesOf c.dests).length) then 1
  else 0

/-- Destination lines translated as stores, lowest first: location and virtual line, with the mappings used. A page is
translated once, a line of a fixed window by itself. Two virtual lines with one location are held and written each by
itself, the model's choice (notes/assumptions/71.md). -/
def placeLines (c : Cmd) (tr : Nat → M Loc) : List Nat → Option (Nat × Nat) → M (List (Nat × Nat) × List Mapping)
  | [], _ => return ([], [])
  | l :: r, last => do
    let va := lowestByte c.dests l
    match last with
    | some (frame, key) =>
      if l / 512 = frame ∧ !inWindow va then
        let (ls, ms) ← placeLines c tr r last
        return ((key + l % 512, l) :: ls, ms)
      else fresh l r va
    | none => fresh l r va
where
  fresh (l : Nat) (r : List Nat) (va : Nat) : M (List (Nat × Nat) × List Mapping) := do
    let p ← tr va
    let key := lineOf p.key
    let (ls, ms) ← placeLines c tr r (some (l / 512, key - l % 512))
    return ((key, l) :: ls, p.map :: ms)

/-- Translation of a destination byte at issue: NONIDEM raises PERM (R128). -/
def issuePlace (va : Nat) : M Loc := translateHAt (fun l => l.attr == 2) 0 va .store 1 false

/-- Source bytes in fixed windows are checked at issue as loads (R128). The first that fails is the one at the lowest
address, the model's choice (notes/assumptions/69.md). -/
def checkWindows (c : Cmd) : List Nat → M Unit
  | [] => return ()
  | l :: r => do
    let va := lowestByte c.sources l
    if inWindow va then
      match (← get).fixed c.ctx va .load 1 with
      | .ok _ => pure ()
      | .error x => trap x 0 (BitVec.ofNat 64 va)
    checkWindows c r

/-- Banks that lines of a fixed window name, as core and number. -/
def State.banksOf (s : State) (c : Cmd) (ls : List Nat) : List (Nat × Nat) :=
  (ls.filterMap fun l =>
    if inWindow (l * 128) then match s.window c.ctx (l * 128) with
      | some (.bank _ core num _) => some (core, num)
      | _ => none
    else none).eraseDups

/-- Lines that commands of an engine own and have not written. -/
def Device.ownedBy (d : Device) (c : Cmd) : Nat :=
  (d.cmds.filter fun x => x.die == c.die && x.core == c.core && x.eng == c.eng).foldl (fun n x => n + x.lines.length) 0

/-- Room in the queue and the ownership set of the engine, and no line owned by another command (R128). -/
def Device.room (d : Device) (c : Cmd) : Option WaitKind :=
  let mine := d.cmds.filter fun x => x.die == c.die && x.core == c.core && x.eng == c.eng
  if 16 ≤ mine.length then some .queueRoom
  else if 16384 < d.ownedBy c + c.lines.length then some .queueRoom
  else if c.lines.any fun x => d.cmds.any fun y => y.lines.any (·.1 == x.1) then some .ownership
  else none

/-- Ownership of every line, PEND and the slot transitions of issue, at one instant (R114, R131). -/
def Device.takeLines (d : Device) (c : Cmd) : Device :=
  let d := { d with cmds := d.cmds ++ [c] }
  let d := c.dbanks.foldl (fun d b => d.modBank c.die b.1 b.2 (Bank.issue false)) d
  c.sbanks.foldl (fun d b => d.modBank c.die b.1 b.2 (Bank.issue true)) d

/-- CSEQ of an engine goes up by one. -/
def Hart.nextSeq (h : Hart) (e : Nat) : Hart :=
  let i := Fin.ofNat 4 e
  { h with sy := { h.sy with cseq := h.sy.cseq.set i (h.sy.cseq[i] + 1) } }

/-- The hart's own CPY that a CPY waits for at issue, a stall's producer (R353). -/
def State.roomFor (s : State) (c : Cmd) : WaitKind → BitVec 52
  | .ownership => s.ownCpy fun y => y.lines.any fun x => c.lines.any (·.1 == x.1)
  | _ => s.ownCpy fun y => y.eng == c.eng

/-- The issue of a CPY (R128). Every earlier access of the hart is performed before it (R131), those of other devices
too. -/
def issueCpy (form : CpyForm) (d a b c : Reg) (e : Nat) : M Unit := do
  let pair := match form with | .twoD | .gath | .conv => true | _ => false
  if pair && (c.val == 0 || c.val == 31) then trapInstr .illegal
  let h ← getH
  if h.ms.strip.isSome then trapInstr .stripop
  let aux := if pair then h.getX (vreg (c.val + 1)) else 0
  let cmd := newCmd h form (h.getX a) (h.getX b) (h.getX c) aux e
  if cmd.count = 0 then
    modH (·.nextSeq e)
    writeX d cmd.num
    retire 4
  else if cmd.refusal ≠ 0 then
    writeX d (BitVec.ofNat 64 (2 ^ 63 + cmd.refusal))
    retire 4
  else
    releaseWait 4
    let dl := linesOf cmd.dests
    let (ls, ms) ← placeLines cmd issuePlace dl none
    let sl := match form with | .gath | .fill => [] | _ => linesOf cmd.sources
    checkWindows cmd sl
    let s ← get
    let sb := s.banksOf cmd sl
    let db := (s.banksOf cmd dl).filter fun x => !sb.contains x
    let cmd := { cmd with lines := ls, dbanks := db, sbanks := sb, map := ms }
    let ready (src : Bool) (x : Nat × Nat) : Bool :=
      ((s.dev.bank? cmd.die x.1 x.2).map (·.permits src)).getD true
    if !(db.all (ready false) && sb.all (ready true)) then
      wait .bank (s.ownCpy fun y => (db ++ sb).any fun x => y.dbanks.contains x || y.sbanks.contains x)
    match s.dev.room cmd with
    | some k => wait k (s.roomFor cmd k)
    | none => pure ()
    modD (·.takeLines cmd)
    modH (·.nextSeq e)
    if form = .conv ∧ cmd.narrows ∧ cmd.desc.rnd = 2 then modH (·.bumpCounter ((cmd.count + 3) / 4))
    writeX d cmd.num
    retire 4

/-! ### CPYQRY and CPYWAIT (R134, R135) -/

/-- DONE(e) of a hart (R124): commands outstanding and commands to be issued again are not complete. -/
def State.doneSeq (s : State) (h : Hart) (e : Nat) : Nat :=
  let me : HartRef := ⟨h.id.gang.toNat, h.id.rank⟩
  let saved := (s.dev.gangs.find? (·.id == me.gang)).elim [] (·.savedCmds)
  ((s.dev.cmds ++ saved).filter fun c => c.owner == me && c.eng == e).foldl (fun n c => min n (c.num.toNat - 1))
    (h.sy.cseq[Fin.ofNat 4 e]).toNat

def cpyQuery (d : Reg) (e : Nat) : M Unit := do
  let s ← get
  writeX d (BitVec.ofNat 64 (s.doneSeq s.h e))
  retire 4

def cpyWait (a : Reg) (e : Nat) : M Unit := do
  let s ← get
  if s.h.ms.strip.isSome then trapInstr .stripop
  let n := (s.h.getX a).toNat
  let i := Fin.ofNat 4 e
  if s.doneSeq s.h e < min n (s.h.sy.cseq[i]).toNat then wait .memory (s.ownCpy fun c => c.eng == e)
  match s.h.sy.fail[i] with
  | some r =>
    if r.num.toNat ≤ n then
      modH fun h => { h with sy := { h.sy with fail := h.sy.fail.set i none } }
      trap r.cause 0 r.addr
  | none => pure ()
  acquire
  retire 4

/-! ### Cancellation and re-issue (R136) -/

/-- A command is cancelled: its lines are released, PEND goes down with no completion transition, its operands are kept
for the gang. -/
def Device.cancelCmd (d : Device) (c : Cmd) : Device :=
  let d := d.dropCmd c
  { d with gangs := d.gangs.map fun g =>
      if g.id == c.owner.gang then
        { g with savedCmds := g.savedCmds ++ [{ c with lines := [], got := [], tierClock := [], map := [] }] } else g }

/-- What a command has still to read: source lines, and the chunks whose trailers are not yet written. -/
def Cmd.reads (c : Cmd) : List Nat :=
  (c.unread.map (lowestByte (c.sources ++ c.gathRows))) ++
    ((c.lines.flatMap fun x => c.trailersIn x.2).flatMap fun k =>
      (stretchLines (c.desc.chunkAddr k) 4096).map (lowestByte c.bodies))

/-- A source that a command waits for without a limit: a page under staged promotion or in the move table (R136). -/
def State.waitsForever (s : State) (c : Cmd) : Bool :=
  c.reads.any fun va =>
    !inWindow va &&
    match s.walk c.tenant c.root va with
    | .error .moving => true
    | .ok lf => lf.tiered && bits lf.pte 62 1 == 1 && bits lf.pte 61 1 == 0
    | _ => false

/-- Translation of a destination byte at a re-issue: none when it must wait. -/
def reissuePlace (c : Cmd) (va : Nat) : M Loc := do
  match ← translateAt (fun l => l.attr == 2) c.ctx va .store 1 with
  | .ok p => return p
  | .error (.cause x) => trap x 0 (BitVec.ofNat 64 va)
  | .error .moving => wait .tier
  | .error (.tier lf) =>
    match ← engineTier c va lf with
    | .fails x => trap x 0 (BitVec.ofNat 64 va)
    | _ => wait .tier

/-- A cancelled command leaves the gang's list. -/
def Device.unsave (d : Device) (c : Cmd) : Device :=
  { d with gangs := d.gangs.map fun g =>
      if g.id == c.owner.gang then { g with savedCmds := g.savedCmds.filter fun x => !x.same c } else g }

/-- The harts of a gang that has been given places run, once no cancelled command is left (R136, R337). -/
def State.startHarts (s : State) (gang : Nat) : State :=
  match s.dev.gangs.find? (·.id == gang) with
  | some g =>
    if g.saved ∨ g.stopReq.isSome ∨ g.savedCmds ≠ [] then s
    else s.mapHarts fun h => if h.id.gang.toNat = gang ∧ h.status = .stopped then { h with status := .running } else h
  | none => s

/-- A cancelled command, with the place where its hart now is, is issued again: every page is translated again, a fault
fails it, and it waits for room and for lines (R136). One that waits for a TIERED page has asked for it and counts its
10 ms (R57). -/
def State.reissue (s : State) (c : Cmd) : Option State :=
  let c := match s.harts.find? fun h => h.id.gang.toNat == c.owner.gang && h.id.rank == c.owner.rank && h.status != .vacant with
    | some h => { c with die := dieOf h.id.hartid, core := coreOf h.id.hartid, hartid := h.id.hartid }
    | none => c
  match (placeLines c (reissuePlace c) (linesOf c.dests) none).run s with
  | (.ok (ls, ms), s1) =>
    let sl := match c.form with | .gath | .fill => [] | _ => linesOf c.sources
    let sb := s1.banksOf c sl
    let db := (s1.banksOf c (linesOf c.dests)).filter fun x => !sb.contains x
    let c := { c with lines := ls, map := ms, dbanks := db, sbanks := sb }
    match s1.dev.room c with
    | some _ => none
    | none => some ({ s1 with dev := (s1.dev.unsave c).takeLines c }.startHarts c.owner.gang)
  | (.error (.trap x _ a), s1) => some (({ s1 with dev := s1.dev.unsave c }.failCmd c (x, a.toNat)).startHarts c.owner.gang)
  | (.error _, s1) => if s1.dev = s.dev then none else some s1

/-! ### The engines by themselves -/

/-- The next thing an engine does when nothing delays it: fail, read the next line, write the next one. -/
def State.engineStep (s : State) (die core eng : Nat) : Option State :=
  match s.dev.head die core eng with
  | none => none
  | some c =>
    match s.cmdFault c, c.unread with
    | some f, _ => some (s.failCmd c f)
    | none, l :: _ => match s.tryRead c l with
      | (.ok bs m, s') => some (s'.finishCmd { c with got := (l, bs) :: c.got, map := m :: c.map })
      | (.fails x, s') => some (s'.failCmd c (x, lowestByte (c.sources ++ c.gathRows) l))
      | (.waits, _) => none
    | none, [] =>
      let cv := c.convNow
      (List.range c.lines.length).findSome? fun n => s.engineWrite c cv n

/-- The promotion request and the first attempt of a command that waits (R57). -/
def State.engineAsks (s : State) (die core eng : Nat) : State :=
  match s.dev.head die core eng with
  | none => s
  | some c => match c.unread with
    | l :: _ => (s.tryRead c l).2
    | [] => s

/-- Bound on what is left to do for the commands of an engine. -/
def Device.engineWork (d : Device) (die core eng : Nat) : Nat :=
  (d.cmds.filter fun c => c.die == die && c.core == core && c.eng == eng).foldl
    (fun n c => n + c.lines.length + (linesOf c.sources).length + 513 * c.count + 2) 0

/-- Every command that can go on does, to its end. -/
def State.runEngines (s : State) : State :=
  ((s.dev.cmds.map fun c => (c.die, c.core, c.eng)).eraseDups).foldl
    (fun s x => (repeatStep (fun s => s.engineStep x.1 x.2.1 x.2.2) (s.dev.engineWork x.1 x.2.1 x.2.2) s).engineAsks
      x.1 x.2.1 x.2.2) s

/-! ### Meanings -/

def execCpyLin (d a b c : Reg) (e : BitVec 2) (s : State) : Host.Outcome State Fault Refusal :=
  runM (issueCpy .lin d a b c e.toNat) s
def execCpy2d (d a b c : Reg) (e : BitVec 2) (s : State) : Host.Outcome State Fault Refusal :=
  runM (issueCpy .twoD d a b c e.toNat) s
def execCpyGath (d a b c : Reg) (e : BitVec 2) (s : State) : Host.Outcome State Fault Refusal :=
  runM (issueCpy .gath d a b c e.toNat) s
def execCpyConv (d a b c : Reg) (e : BitVec 2) (s : State) : Host.Outcome State Fault Refusal :=
  runM (issueCpy .conv d a b c e.toNat) s
def execCpyFill (d a b c : Reg) (e : BitVec 2) (s : State) : Host.Outcome State Fault Refusal :=
  runM (issueCpy .fill d a b c e.toNat) s
def execCpywait (a : Reg) (e : BitVec 2) (s : State) : Host.Outcome State Fault Refusal :=
  runM (cpyWait a e.toNat) s
def execCpyqry (d : Reg) (e : BitVec 2) (s : State) : Host.Outcome State Fault Refusal :=
  runM (cpyQuery d e.toNat) s

/-- READ: the engine reads its command's unread source line number `n`. -/
def execRead (die core eng n : Nat) (s : State) : Host.Outcome State Fault Refusal :=
  .next ((s.dev.head die core eng).elim s fun c => s.engineRead c n)

/-- WRITE: the engine writes and releases its command's unwritten line number `n`. -/
def execWrite (die core eng n : Nat) (s : State) : Host.Outcome State Fault Refusal :=
  .next (((s.dev.head die core eng).bind fun c => s.engineWrite c c.convNow n).getD s)

/-- CPY_FAIL: the engine meets the fault of unread source line number `n`, or of the conversion. -/
def execCpyFail (die core eng n : Nat) (s : State) : Host.Outcome State Fault Refusal :=
  .next ((s.dev.head die core eng).elim s fun c => s.engineFail c n)

/-- CPY_REISSUE: the first cancelled command of a gang that has been resumed, whose harts have places, is issued again.
-/
def execCpyReissue (gang : Nat) (s : State) : Host.Outcome State Fault Refusal :=
  .next (((s.dev.gangs.find? (·.id == gang)).bind fun g => match g.savedCmds with
    | c :: _ => if g.saved || g.stopReq.isSome then none else s.reissue c
    | [] => none).getD s)

end Sys2Proof.Machine
end

