-- ==== Sys2Proof/Machine/Banks.lean ====
section
/-! DEFINITION. Core banks (R111-R123): modes, the slot table, FIFO banks, line operations. -/

namespace Sys2Proof.Machine

/-! ### Banks by address (R119) -/

/-- The granted bank that a valid bank address names (R119). -/
def State.bankNamed (s : State) (va : Nat) : Option Bank :=
  if inWindow va ∧ va % 0x4000 = 0 then
    match s.window s.h.ctx va with
    | some (.bank die core num _) =>
      if num < 4 then none
      else match s.dev.bank? die core num with
        | some b => if b.gang = s.h.id.gang.toNat then some b else none
        | none => none
    | _ => none
  else none

def BankMode.code : BankMode → Nat
  | .cache => 0 | .scratch => 1 | .fifo => 2

def bankModeOf (x : Nat) : Option BankMode :=
  match x with
  | 0 => some .cache
  | 1 => some .scratch
  | 2 => some .fifo
  | _ => none

/-- Bytes from `a` on that go back to reading 0. -/
def Memory.clearRange (m : Memory) (a n : Nat) : Memory := m.filter fun c => decide (c.1 < a) || decide (a + n ≤ c.1)

/-- A bank of a new mode (R113): zeroed or empty, untracked, EMPTY, HOLD = 0. -/
def Device.changeMode (d : Device) (b : Bank) (m : BankMode) : Device :=
  let k := bankKey b.die b.core b.num 0
  let d := { d with mem := d.mem.clearRange k 0x4000 }
  (d.clearErr k 0x4000).setBank { b with mode := m, trk := false, st := 0, hold := false, fifo := [] }

/-- The hart's earlier accesses of banks are performed, and none is bound ahead (R113, R120). -/
def bankOrder : M Unit := do
  flushStores
  acquire

/-- Waits until no copy command names the bank. -/
def bankQuiet (b : Bank) : M Unit := do
  if (← getD).pend b.die b.core b.num ≠ 0 then wait .bank

/-- BMODE (R113, R120). -/
def bankMode (d a b : Reg) : M Unit := do
  noStrip
  let s ← get
  match s.bankNamed (s.getX a).toNat, bankModeOf (s.getX b).toNat with
  | none, _ => writeX d 1
  | some _, none => writeX d 2
  | some x, some m =>
    if x.mode ≠ m then
      bankOrder
      bankQuiet x
      modD (·.changeMode x m)
    writeX d 0
  retire 4

/-- A BSLOT operation on a bank with no command outstanding, or operation 3 (R114, R120). -/
def Bank.slotOp (b : Bank) (op pend : Nat) : Bank :=
  match op with
  | 0 => { b with trk := false }
  | 1 => { b with trk := true, st := 0, hold := false }
  | 2 => { b with trk := true, st := 1, hold := true }
  | 3 => { b with hold := false, st := if b.trk ∧ b.st = 1 ∧ pend = 0 then 2 else b.st }
  | _ => { b with trk := true, st := 2, hold := false }

/-- BSLOT (R120). -/
def bankSlot (d a b : Reg) : M Unit := do
  noStrip
  let s ← get
  let op := (s.getX b).toNat
  match (s.bankNamed (s.getX a).toNat).filter fun x => x.mode == .scratch with
  | none => writeX d 1
  | some x =>
    if 4 < op then writeX d 2
    else
      bankOrder
      if op ≠ 3 then bankQuiet x
      modD fun dv => dv.modBank x.die x.core x.num fun y => y.slotOp op (dv.pend x.die x.core x.num)
      writeX d 0
  retire 4

/-- The status word of BQRY (R120). -/
def Bank.status (b : Bank) (pend : Nat) : Nat :=
  b.fifo.length * 2 ^ 16 + pend % 256 * 2 ^ 8 + b.hold.toNat * 2 ^ 6 + b.trk.toNat * 2 ^ 5 + b.st % 4 * 2 ^ 3 + b.mode.code

def bankQuery (d a : Reg) : M Unit := do
  let s ← get
  let w := match s.bankNamed (s.getX a).toNat with
    | some b => b.status (s.dev.pend b.die b.core b.num)
    | none => 2 ^ 63
  writeX d (BitVec.ofNat 64 w)
  retire 4

/-! ### FPUSH and FPOP (R116, R119, R121) -/

/-- The FIFO bank of an address, checked in the order of R119. -/
def fifoBank (va : Nat) (k : Kind) : M Bank := do
  let at' := BitVec.ofNat 64 va
  if va % 0x4000 ≠ 0 then trap .misalign 0 at'
  let s ← get
  if !inWindow va then
    match s.probe s.h.ctx va k with
    | .error .xlate => trap .xlate 0 at'
    | .error .mcheck => trap .mcheck 0 at'
    | _ => trap .perm 0 at'
  else match s.window s.h.ctx va with
    | none => trap .xlate 0 at'
    | some _ => match s.bankNamed va with
      | some b => if b.mode = .fifo then return b else trap .perm 0 at'
      | none => trap .perm 0 at'

/-- The limits of R121. -/
def fifoLimits (v : Reg) : M Unit := do
  let h ← getH
  if h.vc.vstart ≠ 0 ∨ h.vc.vl * h.ew ≠ 1024 ∨ !groupOk v h.grp then trapInstr .illegal
  noStrip

/-- The 1,024 bits of elements 0 to VL - 1. -/
def Hart.entryOf (h : Hart) (v : Reg) : BitVec 1024 :=
  BitVec.ofNat 1024 ((List.range h.vc.vl).foldl (fun n i => n + h.elem v.val i h.ew * 2 ^ (i * h.ew)) 0)

/-- Elements 0 to VL - 1 from an entry. -/
def Hart.putEntry (h : Hart) (v : Reg) (x : BitVec 1024) : Hart :=
  Hart.over (fun g i => g.setElem v.val i g.ew (bits x.toNat (i * g.ew) g.ew)) h.vc.vl 0 h

def fifoPush (v a : Reg) : M Unit := do
  fifoLimits v
  let b ← fifoBank ((← readX a)).toNat .store
  if 128 ≤ b.fifo.length ∧ (← getH).ms.look.isNone = true then wait .bank
  releaseWait 4
  let x := (← getH).entryOf v
  modD (·.modBank b.die b.core b.num fun y => { y with fifo := y.fifo ++ [x] })
  retireV

def fifoPop (v a : Reg) : M Unit := do
  fifoLimits v
  let b ← fifoBank ((← readX a)).toNat .load
  match b.fifo with
  | [] => wait .bank
  | x :: _ =>
    modD (·.modBank b.die b.core b.num fun y => { y with fifo := y.fifo.drop 1 })
    modH (·.putEntry v x)
    acquire
    retireV

/-! ### Line operations (R117, R118, R122) -/

/-- Lines that a range overlaps (R122). -/
def lineCount (xa xb : Nat) : Nat := if xb = 0 then 0 else (xa + xb + 127) / 128 - xa / 128

/-- Lines `k` to `k + n - 1`, each one unit: VSTART follows. One that is not performed meets no trigger (R349). -/
def lineLoop (f : Nat → M Unit) : Nat → Nat → M Unit
  | 0, _ => return ()
  | n + 1, k => do
    guardWatch (f k)
    modH fun h => { h with vc := { h.vc with vstart := BitVec.ofNat 48 (k + 1) } }
    elemPoint (n != 0)
    lineLoop f n (k + 1)

/-- A line operation over X(xa) and X(xb). -/
def lineOp (a b : Reg) (f : Nat → Nat → M Unit) : M Unit := do
  let h ← getH
  let xa := (h.getX a).toNat
  let n := lineCount xa (h.getX b).toNat
  let k0 := h.vc.vstart.toNat
  lineLoop (fun k => f k ((xa / 128 * 128 + 128 * k) % 2 ^ 64)) (n - k0) k0
  retireV

/-- Whether LCLEAN and LINV skip a line: a fixed window, a tiered page, a NONIDEM or NOCACHE page (R117). -/
def State.skipsLine (s : State) (va : Nat) : Bool :=
  inWindow va ||
  match s.walk s.h.id.tenant s.h.hr.ptroot va with
  | .ok l => l.tiered || (l.loc s s.h.ctx va).2.attr != 0
  | .error _ => false

/-- LCLEAN and LINV of a line: they change no value that an agent reads; a line that does not translate faults. -/
def cleanLine (k va : Nat) : M Unit := do
  if (decide (va < 2 ^ 52) && (← get).skipsLine va) then return ()
  let _ ← translateH k va .load 128 false

def cleanLines (a b : Reg) : M Unit := do
  noStrip
  lineOp a b cleanLine

/-- DISCARD of a line: one store of 128 zeros (R118). -/
def discardLine (k va : Nat) : M Unit := do
  let _ ← places k va 128 .store false idemRule
  storeBytes k va (List.replicate 128 0) none none

/-- A DISCARD that has gone ahead of its completion completes: its lines are older stores from now on (R271). -/
def MemState.settleEarly (pc : BitVec 52) (m : MemState) : MemState :=
  { m with
    early := m.early.erase pc
    storeQ := m.storeQ.map fun p => if p.pc == pc then { p with early := p.early - 1 } else p }

/-- DISCARD. One whose lines have entered the store queue ahead of it only completes (R266), and meets the data triggers
then (R349). -/
def discardLines (a b : Reg) : M Unit := do
  noStrip
  let h ← getH
  if h.ms.early.contains h.pc then
    let va ← readX a
    let n ← readX b
    modH fun h => { h with ms := h.ms.settleEarly h.pc }
    if n ≠ 0 then noteWatch .store va.toNat n.toNat false none
    retireV
    return ()
  let xa ← readX a
  let xb ← readX b
  if xa.toNat % 128 ≠ 0 ∨ xb.toNat % 128 ≠ 0 then trap .misalign 0 xa
  lineOp a b discardLine

/-! ### Meanings -/

def execBmode (d a b : Reg) (s : State) : Host.Outcome State Fault Refusal :=
  runM (bankMode d a b) s
def execBslot (d a b : Reg) (s : State) : Host.Outcome State Fault Refusal :=
  runM (bankSlot d a b) s
def execBqry (d a : Reg) (s : State) : Host.Outcome State Fault Refusal :=
  runM (bankQuery d a) s
def execFpush (v a : Reg) (s : State) : Host.Outcome State Fault Refusal :=
  runM (fifoPush v a) s
def execFpop (v a : Reg) (s : State) : Host.Outcome State Fault Refusal :=
  runM (fifoPop v a) s

/-- LPF.L2: no architectural state changes (R117); VSTART becomes 0 (R122). -/
def execLpfL2 (_a _b : Reg) (s : State) : Host.Outcome State Fault Refusal :=
  runM retireV s
/-- LPF.L1, likewise. -/
def execLpfL1 (_a _b : Reg) (s : State) : Host.Outcome State Fault Refusal :=
  runM retireV s
def execLclean (a b : Reg) (s : State) : Host.Outcome State Fault Refusal :=
  runM (cleanLines a b) s
def execLinv (a b : Reg) (s : State) : Host.Outcome State Fault Refusal :=
  runM (cleanLines a b) s
def execDiscard (a b : Reg) (s : State) : Host.Outcome State Fault Refusal :=
  runM (discardLines a b) s

end Sys2Proof.Machine
end

