-- ==== Sys2Proof/Machine/Kv.lean ====
section
/-! DEFINITION. Key-value pages (R64-R87): blocks, descriptors and selectors, the allocator's stash, and the KV
instructions. Their reads and writes are made at the homes, after the hart's older stores (R85). -/

namespace Sys2Proof.Machine

/-! ### Block layout (R64) -/

/-- Offsets of a block of head dimension `d`. -/
structure Lay where
  d : Nat
  deriving DecidableEq, Repr

namespace Lay
def ksc (_ : Lay) : Nat := 128
variable (l : Lay)
def c : Nat := (l.d + 127) / 128
def key : Nat := 128 + 128 * l.c
def vsc : Nat := l.key + 32 * l.d
def val : Nat := l.vsc + 128 * l.c
def trl : Nat := l.val + 32 * l.d
def stride : Nat := l.trl + 128
/-- Bytes of value scales of one slot. -/
def sc : Nat := l.d / 32
end Lay

/-! ### Descriptors (R68) -/

/-- A descriptor as read: its address, its 512 bits, where it lies. -/
structure Kd where
  va : Nat
  w : Nat
  ps : List (Nat × Nat × Nat) := []
  deriving DecidableEq, Repr

namespace Kd
variable (k : Kd)
def pool : Nat := bits k.w 0 64
def bt : Nat := bits k.w 64 64
def slab : Nat := bits k.w 128 64
def len : Nat := bits k.w 192 32
def dlen : Nat := bits k.w 224 7
def dhead : Nat := bits k.w 232 6
def layers : Nat := bits k.w 240 12 + 1
def heads : Nat := bits k.w 252 8 + 1
def dim : Nat := bits k.w 260 2
def kfmt : Nat := bits k.w 262 1
def vfmt : Nat := bits k.w 263 1
def chk : Bool := bits k.w 264 1 == 1
def ne : Nat := bits k.w 288 16
def poolsz : Nat := bits k.w 320 32
def caplen : Nat := bits k.w 352 32
def lay : Lay := ⟨64 * 2 ^ k.dim⟩
/-- The checks of every KV instruction: reserved fields, DIM and DLEN. -/
def bad : Bool :=
  bits k.w 231 1 != 0 || bits k.w 238 2 != 0 || bits k.w 265 23 != 0 || bits k.w 304 16 != 0 ||
  bits k.w 384 128 != 0 || k.dim == 3 || decide (64 < k.dlen)
/-- Address of a block (R67). -/
def block (id : Nat) : Nat := (k.pool + id * k.lay.stride) % 2 ^ 64
/-- Address of a table entry (R67). -/
def entry (p : Nat × Nat) (e : Nat) : Nat := (k.bt + ((p.1 * k.heads + p.2) * k.ne + e) * 4) % 2 ^ 64
/-- Address of draft `j` (R70). -/
def draft (p : Nat × Nat) (j : Nat) : Nat :=
  (k.slab + ((p.1 * k.heads + p.2) * 64 + (k.dhead + j) % 64) * (4 * k.lay.d)) % 2 ^ 64
/-- Every pair in increasing order. -/
def pairs : List (Nat × Nat) :=
  (List.range k.layers).flatMap fun l => (List.range k.heads).map fun h => (l, h)
def put (lo n x : Nat) : Kd := { k with w := putBits k.w lo n x }
end Kd

/-- Entry values (R67). -/
def entNone : Nat := 0xFFFFFFFF
def entGone : Nat := 0xFFFFFFFE

/-! ### Accesses of a unit (R78, R85) -/

/-- A trap of the unit. -/
def kvdesc {α : Type} (u a : Nat) : M α := trap .kvdesc u (BitVec.ofNat 64 a)

/-- Bytes of a range must be free of engine ownership (R85, R131). -/
def kvFree (ps : List (Nat × Nat × Nat)) : M Unit := do
  let s ← get
  let lines := ps.flatMap fun p => linePieces p.2.1 (p.2.2 + 1) p.2.2
  match lines.find? fun q => s.dev.owned q.1 with
  | some q => wait .ownership (s.ownCpy fun c => c.lines.any (·.1 == lineOf q.1))
  | none => return ()

/-- Bytes of a range must be free of errors (R340), and a device that holds them must answer (R48, R342). -/
def kvSound (u : Nat) : List (Nat × Nat × Nat) → M Unit
  | [] => return ()
  | p :: r => do
    match regionOf p.2.1 with
    | .domain n =>
      arriveAll n
      reachPeer u p.1 n
    | _ => pure ()
    if (← getD).bad p.2.1 p.2.2 then trap .mcheck u (BitVec.ofNat 64 p.1)
    kvSound u r

/-- Translation of a range, as a load and, where it is written, as a store: virtual address, location and length of each
stretch. -/
def kvPlace (u va n : Nat) (w : Bool) : M (List (Nat × Nat × Nat)) := do
  let ps ← places u va n .load false
  if w then let _ ← places u va n .store false
  bankReady ps
  return ps.map fun p => (p.1, p.2.1.key, p.2.2)

/-- Bytes at placed stretches. -/
def State.kvBytes (s : State) (ps : List (Nat × Nat × Nat)) : List Byte :=
  ps.flatMap fun p => s.readHome p.2.1 p.2.2

/-- A read of a range at its home. -/
def kvRead (u va n : Nat) : M (List Byte) := do
  let ps ← kvPlace u va n false
  kvFree ps
  kvSound u ps
  return (← get).kvBytes ps

/-- Bytes at their home, each line a part (R85); KV instructions are no foreign writers (R65). -/
def State.kvPut (s : State) (k : Nat) : List (Nat × Nat) → List Byte → State
  | [], _ => s
  | (a, n) :: r, bs =>
    let t := s.putMem (hartAgent s.h) a (bs.take n)
    State.kvPut { t with dev := { t.dev with kvForeign := s.dev.kvForeign } } k r (bs.drop n)

/-- A write of placed stretches. -/
def kvWrite : List (Nat × Nat × Nat) → List Byte → M Unit
  | [], _ => return ()
  | p :: r, bs => do
    modify fun s => s.kvPut p.2.1 (linePieces p.2.1 (p.2.2 + 1) p.2.2) (bs.take p.2.2)
    kvWrite r (bs.drop p.2.2)

/-- The start of a KV instruction: STRIPOP inside a strip (R78), the hart's older stores at their homes and no load
bound before (R85). -/
def kvStart : M Unit := do
  noStrip
  flushStores
  acquire

/-- The descriptor (R68, R78): alignment, translation, its fields. `w` marks one that is written. -/
def kvDesc (va : Nat) (w : Bool) : M Kd := do
  let u := (← getH).vc.vstart.toNat
  if va % 64 ≠ 0 then trap .misalign u (BitVec.ofNat 64 va)
  let ps ← kvPlace u va 64 w
  kvFree ps
  kvSound u ps
  let k : Kd := { va := va, w := ofBytes ((← get).kvBytes ps), ps := ps }
  if k.bad then kvdesc u va
  return k

/-- The descriptor written: one read-modify-write at its home (R85). -/
def kvUpdate (k : Kd) : M Unit := kvWrite k.ps (toBytes 64 k.w)

/-- POOL and POOLSZ against the registration (R68). -/
def kvPool (k : Kd) : M Unit := do
  let h ← getH
  let t := (← getD).tenant h.id.tenant
  if k.pool ≠ t.poolBase ∨ k.poolsz ≠ t.poolSize then kvdesc h.vc.vstart.toNat k.va

/-! ### Selectors (R69) -/

/-- Which fields an instruction uses. -/
structure SelUse where
  scope : Bool := false
  draft : Bool := false
  part : Bool := false
  deriving DecidableEq, Repr

/-- A selector is refused. -/
def Kd.badSel (k : Kd) (u : SelUse) (x : Nat) : Bool :=
  let sc := bits x 28 2
  let d := bits x 26 1
  let part := bits x 24 2
  x / 2 ^ 30 != 0 || bits x 27 1 != 0 || bits x 12 4 != 0 || sc == 3 || (sc != 0 && !u.scope) ||
  (d != 0 && !u.draft) || (part != 0 && !u.part) || (d != 0 && decide (1 < part)) ||
  (decide (sc < 2) && decide (k.layers ≤ bits x 0 12)) || (sc == 0 && decide (k.heads ≤ bits x 16 8))

/-- The pairs in scope. -/
def Kd.scope (k : Kd) (x : Nat) : List (Nat × Nat) :=
  let l := bits x 0 12
  match bits x 28 2 with
  | 0 => [(l, bits x 16 8)]
  | 1 => (List.range k.heads).map fun h => (l, h)
  | _ => k.pairs

def kvSel (k : Kd) (u : SelUse) (x : Nat) : M (List (Nat × Nat)) := do
  if k.badSel u x then kvdesc (← getH).vc.vstart.toNat k.va
  return k.scope x

/-! ### Blocks (R64-R66) -/

/-- META fields (R65). -/
structure BlockMeta where
  w : Nat
  deriving DecidableEq, Repr

namespace BlockMeta
variable (m : BlockMeta)
def bitmap : Nat := bits m.w 0 32
def fill : Nat := bits m.w 32 6
def ref : Nat := bits m.w 40 12
def resc : Nat := bits m.w 64 16
/-- Packed slots in use. -/
def used : Nat := popcount 32 m.bitmap
def has (o : Nat) : Bool := bits m.w o 1 == 1
/-- The packed slot of offset `o` (R70). -/
def slot (o : Nat) : Nat := popcount o (m.bitmap % 2 ^ o)
def setBitmap (x : Nat) : BlockMeta := ⟨putBits m.w 0 32 x⟩
def setFill (x : Nat) : BlockMeta := ⟨putBits m.w 32 6 x⟩
def setRef (x : Nat) : BlockMeta := ⟨putBits m.w 40 12 x⟩
def setResc (x : Nat) : BlockMeta := ⟨putBits m.w 64 16 x⟩
end BlockMeta

/-- What a unit reads of a block: metadata, key channel scales, per packed slot the rows and value scales, trailer. -/
structure Block where
  md : BlockMeta
  ksc : List Byte
  keys : List (List Byte)
  vals : List (List Byte)
  vscs : List (List Byte)
  trl : Nat
  deriving DecidableEq, Repr

/-- The CRC of a block (R66). -/
def Block.crc (b : Block) : Nat :=
  let rows := (List.range b.md.used).flatMap fun s =>
    (b.keys[s]?).getD [] ++ (b.vals[s]?).getD [] ++ (b.vscs[s]?).getD []
  crc32c (toBytes 16 b.md.w ++ b.ksc ++ rows)

/-- The trailer with the block's CRC. -/
def Block.seal (b : Block) : Block := { b with trl := putBits b.trl 64 32 b.crc }

/-- A block's address with the stretches of it that a unit has translated. -/
structure BlkAt where
  va : Nat
  lay : Lay
  ps : List (Nat × Nat × Nat)
  deriving DecidableEq, Repr

/-- The location of a byte of the block. -/
def BlkAt.key (b : BlkAt) (off : Nat) : Nat :=
  let a := b.va + off
  match b.ps.find? fun p => decide (p.1 ≤ a) && decide (a < p.1 + p.2.2) with
  | some p => p.2.1 + (a - p.1)
  | none => b.va + off

/-- Stretches of a range of the block, cut where the pages are. -/
def BlkAt.range (b : BlkAt) (off n : Nat) : List (Nat × Nat × Nat) :=
  (frames (b.va + off) (n + 1) n).map fun p => (p.1, b.key (p.1 - b.va), p.2)

/-- The parts of a block with `n` slots. -/
def Lay.parts (l : Lay) (n : Nat) : List (Nat × Nat) :=
  [(0, 16), (l.ksc, l.d), (l.key, n * l.d), (l.vsc, n * l.sc), (l.val, n * l.d), (l.trl, 16)]

/-- The lowest byte of some ranges in the stretch [a, a + n). -/
def lowestIn (va a n : Nat) (rs : List (Nat × Nat)) : Option Nat :=
  rs.foldl (fun best r =>
    let lo := max a (va + r.1)
    if lo < a + n ∧ lo < va + r.1 + r.2 then
      match best with
      | some b => some (min b lo)
      | none => some lo
    else best) none

/-- Translation of what a unit reaches of a block, `rs`, and writes of it, `ws`, page by page in address order (R78). -/
def kvOpen (u : Nat) (ws : List (Nat × Nat)) (va : Nat) (l : Lay) (rs : List (Nat × Nat)) : M BlkAt := do
  let ps ← go (frames va (l.stride + 1) l.stride)
  let b : BlkAt := { va := va, lay := l, ps := ps }
  let all := rs.flatMap fun r => b.range r.1 r.2
  kvFree all
  return b
where
  go : List (Nat × Nat) → M (List (Nat × Nat × Nat))
    | [] => return []
    | (a, n) :: r => do
      match lowestIn va a n rs with
      | none => go r
      | some x => do
        match ← kvPlace u x 1 (lowestIn va a n ws).isSome with
        | p :: _ => return (a, p.2.1 - (x - a), n) :: (← go r)
        | [] => go r

/-- META at a location: what no KV instruction has written, or something else has written since, is a free value
(R65). -/
def readMeta (k : Nat) : M BlockMeta := do
  let d ← getD
  if !d.kvLines.contains (lineOf k) || d.kvForeign.contains (lineOf k) then
    let t ← freshTick
    return ⟨Config.kvMeta t % 2 ^ 128⟩
  else return ⟨d.mem.getNat k 16⟩

/-- The metadata of a block as a reader sees it. -/
def kvMetaOf (u : Nat) (va : Nat) : M BlockMeta := do
  let ps ← kvPlace u va 16 false
  kvFree ps
  kvSound u ps
  readMeta ((ps.head?.map (·.2.1)).getD 0)

/-- Rows of `w` bytes at an offset. -/
def BlkAt.rows (b : BlkAt) (d : State) (off w n : Nat) : List (List Byte) :=
  (List.range n).map fun s => d.kvBytes (b.range (off + s * w) w)

/-- The block as read, its metadata given. -/
def BlkAt.read (b : BlkAt) (d : State) (m : BlockMeta) : Block :=
  let l := b.lay
  { md := m
    ksc := d.kvBytes (b.range l.ksc l.d)
    keys := b.rows d l.key l.d m.used
    vals := b.rows d l.val l.d m.used
    vscs := b.rows d l.vsc l.sc m.used
    trl := ofBytes (d.kvBytes (b.range l.trl 16)) }

/-- Rows that differ from what was there are written; `old` of a new slot is empty. -/
def putRows (b : BlkAt) (off w : Nat) : Nat → List (List Byte) → List (List Byte) → M Unit
  | _, _, [] => return ()
  | s, old, x :: r => do
    if old.head? ≠ some x then kvWrite (b.range (off + s * w) w) x
    putRows b off w (s + 1) old.tail r

/-- META and its line, kept as a line that KV instructions write (R65). -/
def putMeta (b : BlkAt) (m : BlockMeta) : M Unit := do
  kvWrite (b.range 0 16) (toBytes 16 m.w)
  modD fun d => { d with kvLines := if d.kvLines.contains (lineOf (b.key 0)) then d.kvLines
                                    else lineOf (b.key 0) :: d.kvLines }

/-- The writes leave the block in the order of R72: rows and scales, trailer, metadata. -/
def kvStore (b : BlkAt) (old new : Block) : M Unit := do
  let l := b.lay
  let new := new.seal
  if new.ksc ≠ old.ksc then kvWrite (b.range l.ksc l.d) new.ksc
  putRows b l.key l.d 0 old.keys new.keys
  putRows b l.vsc l.sc 0 old.vscs new.vscs
  putRows b l.val l.d 0 old.vals new.vals
  if new.trl ≠ old.trl then kvWrite (b.range l.trl 16) (toBytes 16 new.trl)
  putMeta b new.md

/-- A block opened to be changed, with `extra` new slots: its metadata, then its lines. -/
def kvChange (u va : Nat) (l : Lay) (extra : Nat) : M (BlkAt × BlockMeta) := do
  let m ← kvMetaOf u va
  let rs := l.parts (min 32 (m.used + extra))
  let b ← kvOpen u rs va l rs
  return (b, m)

/-- The block read, with its errors (R340) and, under CHK, its CRC (R78). -/
def kvLoad (u : Nat) (k : Kd) (b : BlkAt) (m : BlockMeta) : M Block := do
  kvSound u ((b.lay.parts m.used).flatMap fun r => b.range r.1 r.2)
  let x := b.read (← get) m
  if k.chk && bits x.trl 64 32 != x.crc then trap .mcheck u (BitVec.ofNat 64 b.va)
  return x

/-! ### Quantisation (R71) -/

/-- An FP8 format of keys and values with its largest finite value. -/
structure KvFmt where
  f : NFmt
  fmax : Dy
  deriving DecidableEq, Repr

def kvE4M3 : KvFmt := ⟨⟨true, 4, 3, 7⟩, ⟨false, 14, 5⟩⟩
def kvE5M2 : KvFmt := ⟨⟨true, 5, 2, 15⟩, ⟨false, 7, 13⟩⟩
def kvFmt (b : Nat) : KvFmt := if b = 0 then kvE4M3 else kvE5M2

/-- Rounded under RNE with unbounded exponent, then clamped: the code and whether it counts in SATCNT. -/
def KvFmt.round (k : KvFmt) (y : Dy) : Nat × Bool :=
  if y.m = 0 then (k.f.code y.neg 0 k.f.qmin, false)
  else
    let r := roundPrec .rne k.f.prec k.f.qmin y.neg y.m y.e false
    if Dy.absLe ⟨false, r.1, r.2.1⟩ k.fmax then (k.f.code y.neg r.1 r.2.1, false)
    else (k.f.code y.neg k.fmax.m k.fmax.e, true)

/-- Quant(x, e, fmt). -/
def KvFmt.quant (k : KvFmt) (x : FVal) (e : Int) : Nat × Bool :=
  match x with
  | .nan _ => (0, true)
  | .inf neg => (k.f.code neg k.fmax.m k.fmax.e, true)
  | .fin d => k.round { d with e := d.e - e }

/-- A decoded element; none for a code that no quantisation gives. -/
def KvFmt.decode (k : KvFmt) (c : Nat) (e : Int) : Option Dy :=
  let v := k.f.value c
  if v.absLe k.fmax then some { v with e := v.e + e } else none

/-! ### Append (R72) -/

/-- What an Append gathers: saturations and the largest decoded magnitude. -/
structure Tally where
  sat : Nat := 0
  big : Dy := ⟨false, 0, 0⟩
  deriving DecidableEq, Repr

/-- An element written: its saturation and its magnitude count. -/
def Tally.add (t : Tally) (k : KvFmt) (c : Nat) (e : Int) (sat : Bool) : Tally :=
  let t := { t with sat := t.sat + sat.toNat }
  match k.decode c e with
  | some v => if t.big.absLe v then { t with big := { v with neg := false } } else t
  | none => t

/-- A channel of keys: its scale, the codes of the earlier slots, the code of the new one. -/
structure Channel where
  e : Int
  old : List Nat
  code : Nat
  resc : Bool
  deriving DecidableEq, Repr

/-- One channel of an Append; `free` gives the re-rounding of a code that no quantisation gives. -/
def kvChannel (k : KvFmt) (fresh : Bool) (e : Int) (old : List Nat) (x : FVal) (free : Nat → Nat) : Channel × Tally :=
  let above : Bool := match x with
    | .inf _ => true
    | .nan _ => false
    | .fin d => !d.absLe { k.fmax with e := k.fmax.e + e }
  let rescale := !fresh && above && decide (e < 127)
  let en := if fresh || rescale then scaleExp k.fmax x else e
  let again (p : Nat × Nat) : Nat := match k.decode p.1 e with
    | some y => (k.round { y with e := y.e - en }).1
    | none => free p.2
  let old' := if rescale then old.zipIdx.map again else old
  let t := if rescale then old'.foldl (fun (t : Tally) c => t.add k c en false) {} else {}
  let q := k.quant x en
  ({ e := en, old := old', code := q.1, resc := rescale }, t.add k q.1 en q.2)

/-- Two tallies together. -/
def Tally.join (a b : Tally) : Tally := ⟨a.sat + b.sat, if a.big.absLe b.big then b.big else a.big⟩

/-- The value groups of 32 channels: scale byte and codes of each. -/
def kvGroup (k : KvFmt) (xs : List FVal) : Nat × List Nat × Tally :=
  let ev := scaleExp k.fmax (maxMagnitude xs)
  let qs := xs.map fun x => k.quant x ev
  (wrap 8 (ev + 127), qs.map (·.1), qs.foldl (fun (t : Tally) q => t.add k q.1 ev q.2) {})

def chunks (n : Nat) : Nat → List FVal → List (List FVal)
  | 0, _ => []
  | k + 1, xs => xs.take n :: chunks n k (xs.drop n)

/-- A list with the byte at place `i` replaced or added. -/
def putAt (l : List (List Byte)) (i : Nat) (x : List Byte) : List (List Byte) := l.take i ++ x :: l.drop (i + 1)

/-- MAXMAG and SATCNT after an Append (R66). -/
def kvTrailer (trl : Nat) (t : Tally) : Nat :=
  let mag := (f32.round .rup { v := .fin t.big }).bits
  let mag := if (f32.value (bits trl 0 32)).lt (f32.value mag) then mag else bits trl 0 32
  putBits (putBits trl 0 32 mag) 32 32 (min (bits trl 32 32 + t.sat) 0xFFFFFFFF)

/-- Append(blk, o, key, val) on a block that has passed its checks. -/
def Block.append (b : Block) (k : Kd) (o : Nat) (key val : List FVal) (free : Nat → Nat) : Block :=
  let fk := kvFmt k.kfmt
  let s := min b.md.used 31
  let fresh := b.md.fill == 0
  let ch (i : Nat) : Channel × Tally :=
    kvChannel fk fresh (((b.ksc[i]?).getD 0).toNat - 127)
      (b.keys.take s |>.map fun r => ((r[i]?).getD 0).toNat) ((key[i]?).getD (.fin ⟨false, 0, 0⟩))
      (fun t => bits (free i) (8 * t) 8)
  let cs := (List.range k.lay.d).map ch
  let row (t : Nat) : List Byte := cs.map fun c => BitVec.ofNat 8 ((c.1.old[t]?).getD 0)
  let gs := (chunks 32 k.lay.sc val).map (kvGroup (kvFmt k.vfmt))
  let tally := (cs.map (·.2) ++ gs.map (·.2.2)).foldl Tally.join {}
  let resc := (cs.filter (·.1.resc)).length
  let m := b.md.setBitmap (b.md.bitmap ||| 2 ^ o)
  let m := (m.setFill (b.md.fill + 1)).setResc (min (b.md.resc + resc) 0xFFFF)
  { md := m
    ksc := cs.map fun c => BitVec.ofNat 8 (wrap 8 (c.1.e + 127))
    keys := putAt ((List.range s).map row) s (cs.map fun c => BitVec.ofNat 8 c.1.code)
    vals := putAt b.vals s (gs.flatMap fun g => g.2.1.map (BitVec.ofNat 8))
    vscs := putAt b.vscs s (gs.map fun g => BitVec.ofNat 8 g.1)
    trl := kvTrailer b.trl tally }

/-- A token that an Append takes from the slab (R70), if any, opened for reading. -/
def kvToken (u : Nat) (k : Kd) (slab : Option Nat) : M (List (Nat × Nat × Nat)) := do
  match slab with
  | none => return []
  | some a =>
    let ps ← kvPlace u a (4 * k.lay.d) false
    kvFree ps
    return ps

/-- One Append unit (R78): block and token are translated in address order, then the block must be fit to be appended
to, then errors show, then come the writes. `slab` is the address of a draft; with none the token is `given`. -/
def kvAppend (u : Nat) (k : Kd) (id o : Nat) (slab : Option Nat) (given : List FVal) : M Unit := do
  let va := k.block id
  let low := slab.any fun a => decide (a < va)
  let p0 ← if low then kvToken u k slab else pure []
  let (b, m) ← kvChange u va k.lay 1
  let p1 ← if low then pure p0 else kvToken u k slab
  if m.ref ≠ 1 ∨ o ≠ m.fill then kvdesc u va
  let x ← kvLoad u k b m
  kvSound u p1
  let w := ofBytes ((← get).kvBytes p1)
  let draft := (List.range (2 * k.lay.d)).map fun i => bf16.value (bits w (16 * i) 16)
  let xs := if slab.isSome then draft else given
  let t ← freshTick
  kvStore b x (x.append k o (xs.take k.lay.d) (xs.drop k.lay.d) fun i => Config.kvMeta t / 2 ^ (256 * i))

/-! ### The stash (R74, R75) -/

def Device.stash (d : Device) (die core : Nat) : Stash :=
  (d.stashes.find? fun x => x.die == die && x.core == core).getD { die := die, core := core }

def Device.setStash (d : Device) (x : Stash) : Device :=
  if d.stashes.any fun y => y.die == x.die && y.core == x.core then
    { d with stashes := d.stashes.map fun y => if y.die == x.die && y.core == x.core then x else y }
  else { d with stashes := d.stashes ++ [x] }

/-- The core's stash for the hart's tenant: another tenant's IDs go back to Esmen first. -/
def Device.stashFor (d : Device) (die core t : Nat) : Device :=
  let x := d.stash die core
  if x.tenant = t then d.setStash x
  else (d.modTenant x.tenant fun y => { y with freeIds := y.freeIds ++ x.ids }).setStash
    { x with tenant := t, ids := [], dry := false }

/-- A refill request when fewer than 8 IDs are left and none is outstanding. -/
def Stash.refill (x : Stash) : Stash :=
  if x.ids.length < 8 ∧ x.asked = 0 then { x with asked := 32 - x.ids.length, askedFor := x.tenant } else x

/-- The hart's stash after `f`. -/
def modStash (f : Stash → Stash) : M Unit := do
  let c := (← getH).ctx
  modD fun d => let d := d.stashFor c.die c.core c.tenant; d.setStash (f (d.stash c.die c.core))

/-- What a KV instruction leaves the stash with asks for a refill (R74); a stash without an ID becomes that of the
hart's tenant (notes/assumptions/30.md). -/
def leaveStash : M Unit := do
  let c := (← getH).ctx
  let x := (← getD).stash c.die c.core
  if x.ids = [] ∧ x.asked = 0 then modStash Stash.refill else modD (·.setStash x.refill)

/-- A KV instruction with its leave of the stash: at its end, and where an event or a trap takes the hart from it. One
that an instruction-level cause stops has not come to it. -/
def kvRun (x : M Unit) : M Unit := do
  tryCatch x fun st => do
    match st with
    | .trap c _ _ => if !c.atInstr then leaveStash
    | .pause => leaveStash
    | _ => pure ()
    throw st
  leaveStash

/-- IDs for `n` new blocks, or as many as there are, each one of those left. -/
def planIds : Nat → List Nat → M (List Nat)
  | 0, _ => return []
  | _, [] => return []
  | n + 1, i :: r => do
    let k ← choose
    let x := ((i :: r)[k % (r.length + 1)]?).getD i
    return x :: (← planIds n ((i :: r).erase x))

/-- An ID for a new block, still in the stash; none when the pool is dry. With the stash empty the hart waits for a
refill, a KVEVICT too, of which R74 does not speak (notes/assumptions/57.md). -/
def pickId : M (Option Nat) := do
  modStash id
  let c := (← getH).ctx
  let d ← getD
  let x := d.stash c.die c.core
  match x.ids with
  | [] =>
    if x.asked = 0 ∧ x.dry ∧ (d.tenant c.tenant).freeIds = [] then
      modStash fun x => { x with dry := false }
      return none
    else
      modStash Stash.refill
      wait .queueRoom
  | l => return (← planIds 1 l).head?

/-- The ID is granted. -/
def takeId (i : Nat) : M Unit := modStash fun x => { x with ids := x.ids.filter (· != i) }

/-- A block whose REF has reached 0 (R74): to the stash when it has room, else to Esmen. -/
def giveId (i : Nat) : M Unit := do
  modStash id
  let c := (← getH).ctx
  if ((← getD).stash c.die c.core).ids.length < 32 then modStash fun x => { x with ids := x.ids ++ [i] }
  else modD fun d => d.modTenant c.tenant fun y => { y with freeIds := y.freeIds ++ [i] }

/-! ### Units (R77) -/

/-- What the units done so far count, and steps done inside the next unit. -/
def unitCount : M (Nat × Nat) := do
  let h ← getH
  match h.sy.units.find? fun x => x.pc == h.pc && x.vstart == h.vc.vstart.toNat with
  | some x => return (x.count, x.sub)
  | none => return (0, 0)

/-- The count kept for a stop. -/
def keepCount (u count sub : Nat) : M Unit := modH fun h =>
  { h with
    vc := { h.vc with vstart := BitVec.ofNat 48 u }
    sy := { h.sy with units :=
      { pc := h.pc, vstart := u, count := count, sub := sub, handler := h.handler } ::
        h.sy.units.filter (·.pc != h.pc) } }

/-- Between two units any event may be taken (R77). -/
def unitPoint : M Unit := do
  if !(← getH).db.stepping then
    if (← choose) = 1 then throw .pause

/-- Completion: VSTART 0, the count gone. -/
def kvDone : M Unit := modH fun h =>
  ({ h with sy := { h.sy with units := h.sy.units.filter (·.pc != h.pc) } }).retireV

/-- The value of a table entry (R67): an ID at or above POOLSZ raises KVDESC. -/
def kvEntry (u : Nat) (k : Kd) (ea : Nat) : M Nat := do
  let v := ofBytes (← kvRead u ea 4)
  if v ≠ entNone ∧ v ≠ entGone ∧ k.poolsz ≤ v then kvdesc u ea
  return v

def isBlock (v : Nat) : Bool := v != entNone && v != entGone

/-- A table entry about to be written. -/
def kvEntryAt (u ea : Nat) : M (List (Nat × Nat × Nat)) := do
  let ps ← kvPlace u ea 4 true
  kvFree ps
  return ps

/-! ### KVXL and KVXLM (R79) -/

/-- The block and packed slot of a committed position; none when it is absent (R70). -/
def kvFind (u : Nat) (k : Kd) (pr : Nat × Nat) (p : Nat) : M (Option (Nat × Nat)) := do
  if k.len ≤ p ∨ k.ne ≤ p / 32 then return none
  let v ← kvEntry u k (k.entry pr (p / 32))
  if !isBlock v then return none
  let m ← kvMetaOf u (k.block v)
  acquire
  return if m.has (p % 32) then some (k.block v, m.slot (p % 32)) else none

/-- The address that KVXL gives for a slot (R79). -/
def kvPart (l : Lay) (part va s : Nat) : Nat :=
  (va + (match part with
    | 0 => l.key + s * l.d
    | 1 => l.val + s * l.d
    | 2 => l.ksc
    | _ => l.vsc + s * l.sc)) % 2 ^ 64

/-- Position `p` translated: an address, or none. -/
def kvTranslate (u : Nat) (k : Kd) (x p : Nat) : M (Option Nat) := do
  let pr := (bits x 0 12, bits x 16 8)
  if bits x 26 1 = 1 then
    if 64 ≤ p then kvdesc u k.va
    return some ((k.draft pr p + (if bits x 24 2 = 1 then 2 * k.lay.d else 0)) % 2 ^ 64)
  else
    match ← kvFind u k pr p with
    | some (va, s) => return some (kvPart k.lay (bits x 24 2) va s)
    | none => return none

/-- The elements of KVXL and KVXLM. -/
def kvElems (k : Kd) (x : Nat) (c : Reg) (put : Nat → Option Nat → Hart → Hart) : Nat → Nat → M Unit
  | 0, _ => return ()
  | n + 1, i => do
    let r ← kvTranslate i k x ((← getH).elem c.val i 64)
    modH fun h => let h := put i r h; { h with vc := { h.vc with vstart := BitVec.ofNat 48 (i + 1) } }
    if n ≠ 0 then unitPoint
    kvElems k x c put n (i + 1)

/-- Both, the destination checked. -/
def kvxl (bad : Bool) (a b c : Reg) (u : SelUse) (put : Nat → Option Nat → Hart → Hart) : M Unit := do
  let h ← getH
  if bad || h.ew != 64 || !groupOk c h.grp then trapInstr .illegal
  kvStart
  let k ← kvDesc (h.getX a).toNat false
  let x := (h.getX b).toNat
  let _ ← kvSel k u x
  kvElems k x c put (h.vc.vl - h.vc.vstart.toNat) h.vc.vstart.toNat
  kvDone

/-! ### KVAPP, KVCOMMIT and KVTRUNC (R80-R82) -/

/-- KVAPP: one unit whatever VSTART holds on entry, of which R77 does not speak (notes/assumptions/57.md). -/
def kvapp (a b c src : Reg) : M Unit := do
  let h ← getH
  let u := h.vc.vstart.toNat
  if !(h.ew == 16 || h.ew == 32) || !groupOk src h.grp then trapInstr .illegal
  kvStart
  let k ← kvDesc (h.getX a).toNat true
  let prs ← kvSel k {} (h.getX b).toNat
  if h.vc.vl ≠ 2 * k.lay.d then trapInstr .illegal
  let p := (h.getX c).toNat
  if k.dlen ≠ 0 ∨ !(p = k.len ∨ (p + 1 = k.len)) ∨ k.ne ≤ p / 32 then kvdesc u k.va
  let ea := k.entry (prs.headD (0, 0)) (p / 32)
  let v ← kvEntry u k ea
  if !isBlock v then kvdesc u ea
  let fmt := wideFmt h.ew
  kvAppend u k v (p % 32) none ((List.range (2 * k.lay.d)).map fun i => fmt.value (h.elem src.val i h.ew))
  kvUpdate (k.put 192 32 (max k.len (p + 1)))
  kvDone

/-- The units of one draft from pair `u` on. Where the table has no entry for the position (NE is too small) there is no
entry's address to report: EADDR is the descriptor's (notes/assumptions/57.md). -/
def commitPairs (k : Kd) : Nat → List (Nat × Nat) → M Unit
  | _, [] => return ()
  | u, pr :: r => do
    if k.ne ≤ k.len / 32 then kvdesc u k.va
    let ea := k.entry pr (k.len / 32)
    let v ← kvEntry u k ea
    if !isBlock v then kvdesc u ea
    kvAppend u k v (k.len % 32) (some (k.draft pr 0)) []
    keepCount (u + 1) 0 0
    unitPoint
    commitPairs k (u + 1) r

/-- Drafts committed one by one up to the target length. -/
def commitDrafts (target : Nat) : Nat → Kd → M Unit
  | 0, _ => return ()
  | n + 1, k => do
    if target ≤ k.len then return ()
    let u := (← getH).vc.vstart.toNat
    commitPairs k u (k.pairs.drop u)
    let k' := ((k.put 192 32 (k.len + 1)).put 232 6 (k.dhead + 1)).put 224 7 (k.dlen - 1)
    kvUpdate k'
    keepCount 0 0 0
    commitDrafts target n k'

def kvcommit (a b : Reg) : M Unit := do
  kvStart
  let h ← getH
  let t := (h.getX b).toNat
  let k ← kvDesc (h.getX a).toNat false
  if t < k.len ∨ k.len + k.dlen < t then kvdesc h.vc.vstart.toNat k.va
  if k.len < t then let _ ← kvPlace h.vc.vstart.toNat k.va 64 true
  commitDrafts t (t - k.len) k
  kvDone

/-- KVTRUNC: one unit, as KVAPP (notes/assumptions/57.md). -/
def kvtrunc (a b : Reg) : M Unit := do
  kvStart
  let h ← getH
  let k ← kvDesc (h.getX a).toNat true
  kvUpdate (k.put 224 7 (min k.dlen (h.getX b).toNat))
  kvDone

/-! ### New blocks and copies (R74, R83, R84) -/

/-- META of a block as a grant writes it. -/
def newMeta : BlockMeta := ⟨2 ^ 40⟩

/-- The line of a granted block's metadata counts as written by KV instructions from now on (R65, R74). -/
def freshLine (key : Nat) : M Unit := modD fun d =>
  { d with
    kvLines := if d.kvLines.contains (lineOf key) then d.kvLines else lineOf key :: d.kvLines
    kvForeign := d.kvForeign.filter (· != lineOf key) }

/-- A granted block opened for writing: META and TRL, or all of it. -/
def openNew (u : Nat) (k : Kd) (id : Nat) (whole : Bool) : M BlkAt :=
  let rs := if whole then [(0, k.lay.stride)] else [(0, 128), (k.lay.trl, 128)]
  kvOpen u rs (k.block id) k.lay rs

/-- META and TRL of a new block written: R74 zeroes the trailer, and its CRC with it, where R66 has every change of a
block recompute the CRC; the model follows R74 (notes/assumptions/57.md). -/
def initBlock (b : BlkAt) : M Unit := do
  kvWrite (b.range b.lay.trl 128) (List.replicate 128 0)
  kvWrite (b.range 0 128) (toBytes 128 newMeta.w)
  freshLine (b.key 0)

/-- Every line of a block copied, with REF = 1 and its CRC. -/
def copyBlock (src dst : BlkAt) (x : Block) : M Unit := do
  let all := (← get).kvBytes (src.range 128 (src.lay.stride - 256))
  let y := { x with md := x.md.setRef 1 }.seal
  let tail := (← get).kvBytes (src.range (src.lay.trl + 16) 112)
  let head := (← get).kvBytes (src.range 16 112)
  kvWrite (dst.range 128 (src.lay.stride - 256)) all
  kvWrite (dst.range src.lay.trl 128) (toBytes 16 y.trl ++ tail)
  kvWrite (dst.range 0 128) (toBytes 16 y.md.w ++ head)
  freshLine (dst.key 0)

/-! ### KVEVICT (R83) -/

/-- A block without slot `s`: later slots move down. -/
def Block.evict (b : Block) (o : Nat) : Block :=
  let s := b.md.slot o
  let drop (l : List (List Byte)) : List (List Byte) := l.take s ++ l.drop (s + 1) ++ l.drop (b.md.used - 1)
  { b with
    md := b.md.setBitmap (b.md.bitmap &&& (2 ^ 32 - 1 - 2 ^ o))
    keys := drop b.keys
    vals := drop b.vals
    vscs := drop b.vscs }

/-- The block to be changed, or to be copied and then counted down, with the new block it is copied to, in address
order (R78). -/
def openPair (u : Nat) (k : Kd) (v nid : Nat) (m : BlockMeta) (shared : Bool) : M (BlkAt × BlkAt) := do
  let src : M BlkAt := if shared then kvOpen u [(0, 16), (k.lay.trl, 16)] (k.block v) k.lay [(0, k.lay.stride)]
    else kvOpen u (k.lay.parts m.used) (k.block v) k.lay (k.lay.parts m.used)
  if !shared then
    let b ← src
    return (b, b)
  else if k.block nid < k.block v then
    let n ← openNew u k nid true
    return (← src, n)
  else
    let b ← src
    return (b, ← openNew u k nid true)

/-- One pair. Answers whether the position was present and is evicted; none when the pool is dry. -/
def evictPair (u : Nat) (k : Kd) (pr : Nat × Nat) (p : Nat) : M (Option Bool) := do
  if k.ne ≤ p / 32 then return some false
  let o := p % 32
  let ea := k.entry pr (p / 32)
  let v ← kvEntry u k ea
  if !isBlock v then return some false
  let m ← kvMetaOf u (k.block v)
  if !m.has o then return some false
  let gone := m.bitmap == 2 ^ o && m.fill == 32
  let shared := decide (1 < m.ref)
  let pick ← if shared then pickId else pure (some v)
  match pick with
  | none => return none
  | some nid => do
    let at' ← if shared || gone then kvEntryAt u ea else pure []
    let (b, dst) ← openPair u k v nid m shared
    if shared then kvSound u (b.range 0 k.lay.stride)
    let x ← kvLoad u k b m
    if shared then
      takeId nid
      copyBlock b dst x
      kvStore b x { x with md := m.setRef (m.ref - 1) }
      kvWrite at' (toBytes 4 nid)
    let x := if shared then { x with md := x.md.setRef 1 }.seal else x
    let y := x.evict o
    kvStore dst x (if gone then { y with md := y.md.setRef (y.md.ref - 1) } else y)
    if gone then
      if y.md.ref ≤ 1 then giveId nid
      kvWrite at' (toBytes 4 entGone)
    return some true

/-- The pairs from unit `u` on; answers the count and whether the pool ran dry. -/
def evictPairs (k : Kd) (p : Nat) : Nat → Nat → List (Nat × Nat) → M (Nat × Bool)
  | _, c, [] => return (c, false)
  | u, c, pr :: r => do
    match ← evictPair u k pr p with
    | none => return (c, true)
    | some hit => do
      keepCount (u + 1) (c + hit.toNat) 0
      if r ≠ [] then unitPoint
      evictPairs k p (u + 1) (c + hit.toNat) r

/-- The result register: a count and DRY. -/
def kvResult (d : Reg) (c : Nat × Bool) : M Unit := do
  modH fun h => { h with vc := { h.vc with vstart := 0 } }
  writeX d (BitVec.ofNat 64 (c.1 % 2 ^ 32 + c.2.toNat * 2 ^ 63))
  kvDone

def kvevict (d a b c : Reg) : M Unit := do
  kvStart
  let h ← getH
  let k ← kvDesc (h.getX a).toNat false
  let prs ← kvSel k { scope := true } (h.getX b).toNat
  let p := (h.getX c).toNat
  let u := h.vc.vstart.toNat
  if k.len ≤ p then kvdesc u k.va
  let n ← unitCount
  kvResult d (← evictPairs k p u n.1 (prs.drop u))

/-! ### KVALLOC, KVFREE and KVFORK (R84) -/

/-- Whether every pair's entry `e` is a block or GONE. An invalid ID covers nothing and raises no KVDESC here: R67 does
not say whether this scan uses it (notes/assumptions/57.md). -/
def rowCovered (u : Nat) (k : Kd) (e : Nat) : List (Nat × Nat) → M Bool
  | [] => return true
  | pr :: r => do
    let v := ofBytes (← kvRead u (k.entry pr e) 4)
    if v = entGone ∨ v < k.poolsz then rowCovered u k e r else return false

/-- The number of leading entry indices that are covered, from `e` on among `n` (R68). -/
def covers (u : Nat) (k : Kd) : Nat → Nat → M Nat
  | 0, e => return e
  | n + 1, e => do if ← rowCovered u k e k.pairs then covers u k n (e + 1) else return e

/-- CAPLEN as R68 states. -/
def withCap (k : Kd) : M Kd := do
  let u := (← getH).vc.vstart.toNat
  return k.put 352 32 (32 * (← covers u k k.ne 0))

/-- The entries still to be looked at, entry-major. -/
def entryList (k : Kd) (prs : List (Nat × Nat)) (lo hi : Nat) : List Nat :=
  (List.range (hi - lo)).flatMap fun e => prs.map fun pr => k.entry pr (lo + e)

/-- Grants from the entries; answers the blocks granted and DRY. -/
def allocEntries (k : Kd) : Nat → List Nat → M (Nat × Bool)
  | u, [] => return (u, false)
  | u, ea :: r => do
    if (← kvEntry u k ea) ≠ entNone then allocEntries k u r
    else match ← pickId with
    | none => return (u, true)
    | some id => do
      let ps ← kvEntryAt u ea
      let b ← openNew u k id false
      takeId id
      initBlock b
      kvWrite ps (toBytes 4 id)
      keepCount (u + 1) (u + 1) 0
      if r ≠ [] then unitPoint
      allocEntries k (u + 1) r

def kvalloc (d a b : Reg) : M Unit := do
  kvStart
  let h ← getH
  let k ← kvDesc (h.getX a).toNat true
  kvPool k
  let t := (h.getX b).toNat
  if 32 * k.ne < t then kvdesc h.vc.vstart.toNat k.va
  let r ← allocEntries k h.vc.vstart.toNat (entryList k k.pairs (k.caplen / 32) ((t + 31) / 32))
  kvUpdate (← withCap k)
  kvResult d r

/-- REF lowered by one; answers whether the block is freed. -/
def dropRef (u : Nat) (k : Kd) (id : Nat) : M Bool := do
  let (b, m) ← kvChange u (k.block id) k.lay 0
  let x ← kvLoad u k b m
  kvStore b x { x with md := m.setRef (m.ref - 1) }
  if m.ref ≤ 1 then giveId id
  return decide (m.ref ≤ 1)

/-- The entries from unit `u` on; answers the blocks freed. -/
def freeEntries (k : Kd) : Nat → Nat → List Nat → M Nat
  | _, c, [] => return c
  | u, c, ea :: r => do
    let v ← kvEntry u k ea
    let freed ← if isBlock v then do
        let ps ← kvEntryAt u ea
        let f ← dropRef u k v
        kvWrite ps (toBytes 4 entNone)
        pure f
      else do
        if v = entGone then kvWrite (← kvEntryAt u ea) (toBytes 4 entNone)
        pure false
    keepCount (u + 1) (c + freed.toNat) 0
    if r ≠ [] then unitPoint
    freeEntries k (u + 1) (c + freed.toNat) r

def kvfree (d a b c : Reg) : M Unit := do
  kvStart
  let h ← getH
  let k ← kvDesc (h.getX a).toNat true
  kvPool k
  let prs ← kvSel k { scope := true } (h.getX b).toNat
  let e0 := (h.getX c).toNat
  let u := h.vc.vstart.toNat
  let n ← unitCount
  let n ← freeEntries k u n.1 ((entryList k prs e0 k.ne).drop u)
  kvUpdate (← withCap (k.put 192 32 (min k.len (32 * e0))))
  kvResult d (n, false)

/-- A list in rising order. -/
def insertNat (x : Nat) : List Nat → List Nat
  | [] => [x]
  | y :: r => if x ≤ y then x :: y :: r else y :: insertNat x r

def sortNat (l : List Nat) : List Nat := l.foldr insertNat []

/-- What the checks of a unit find behind its translations (R78): the first KVDESC before the first MCHECK. -/
def kvReport (u : Nat) (desc err : List Nat) : M Unit := do
  match desc.head? with
  | some a => kvdesc u a
  | none => match err.head? with
    | some a => trap .mcheck u (BitVec.ofNat 64 a)
    | none => return ()

/-- Stretches with an error, or of a device that does not answer: their first addresses (R48, R340). -/
def kvFaults (ps : List (Nat × Nat × Nat)) : M (List Nat) := do
  let s ← get
  let away (k : Nat) : Bool := match regionOf k with | .domain n => !(s.remoteAccess n).1 | _ => false
  return (ps.filter fun p => s.dev.bad p.2.1 p.2.2 || away p.2.1).map (·.1)

/-- A block of the parent that a fork shares (R84). -/
def BlockMeta.shares (m : BlockMeta) : Bool := m.fill == 32 && decide (m.ref < 4095)

/-- The parts of a block that a fork reads: all of one to be copied. -/
def Lay.forkParts (l : Lay) (m : BlockMeta) : List (Nat × Nat) := if m.shares then l.parts m.used else [(0, l.stride)]

/-- A block of the parent that a fork reaches, read or counted up, with its metadata. -/
def openParent (u : Nat) (k : Kd) (va : Nat) (m : BlockMeta) : M (BlkAt × BlockMeta) := do
  let rs := k.lay.forkParts m
  return (← kvOpen u (if m.shares then rs else []) va k.lay rs, m)

/-- A pair of a fork, or what is left of it, is checked before anything of it changes (R78): translations of the table
entries, of the metadata and of the data in address order, new blocks among them, then invalid IDs, then errors and, of
a block to be shared, its CRC. A block to be copied is only read (R84). Answers the IDs of the new blocks, as far as the
stash has them: what a later refill brings is checked when it has come (notes/assumptions/57.md). -/
def forkCheck (u : Nat) (k : Kd) (eas cas : List Nat) : M (List Nat) := do
  let parents : M (List (List (Nat × Nat × Nat))) := eas.mapM fun a => kvPlace u a 4 false
  let children : M Unit := cas.forM fun a => do let _ ← kvPlace u a 4 true
  let childFirst := decide (cas.headD 0 < eas.headD 0)
  if childFirst then children
  let tps ← parents
  if !childFirst then children
  tps.forM kvFree
  let s ← get
  let vals := tps.map fun ps => ofBytes (s.kvBytes ps)
  let errT ← kvFaults tps.flatten
  let known := (eas.zip vals).filter fun e => isBlock e.2 && !errT.contains e.1
  let wrong := (known.filter fun e => decide (k.poolsz ≤ e.2)).map (·.1)
  let named := (known.filter fun e => decide (e.2 < k.poolsz)).map fun e => k.block e.2
  let metas ← (sortNat named.eraseDups).mapM fun va => return (va, ← kvPlace u va 16 false)
  metas.forM fun x => kvFree x.2
  let errM ← kvFaults (metas.flatMap (·.2))
  let sound ← (metas.filter fun x => !errM.contains x.1).mapM fun x =>
    return (x.1, ← readMeta ((x.2.head?.map (·.2.1)).getD 0))
  let copies := (named.filter fun va => sound.any fun x => x.1 == va && !x.2.shares).length
  let ids ← if copies = 0 then pure [] else do
    modStash id
    let c := (← getH).ctx
    planIds copies ((← getD).stash c.die c.core).ids
  let opened ← (sortNat (sound.map (·.1) ++ ids.map k.block)).mapM fun va =>
    match sound.find? (·.1 == va) with
    | some x => return [← openParent u k va x.2]
    | none => do
      let _ ← kvOpen u [(0, k.lay.stride)] va k.lay [(0, k.lay.stride)]
      return []
  let opened := opened.flatten
  let errD ← kvFaults (opened.flatMap fun o => (k.lay.forkParts o.2).flatMap fun r => o.1.range r.1 r.2)
  let s ← get
  let crc := opened.filter fun o => o.2.shares && k.chk && decide
    (bits (o.1.read s o.2).trl 64 32 ≠ (o.1.read s o.2).crc)
  kvReport u wrong (errT ++ errM ++ errD ++ crc.map (·.1.va))
  return ids

/-- One entry of a fork: whether a block was copied; none when the pool is dry. For a parent's entry that holds NONE
R84 lists no case: the child's stays as it is (notes/assumptions/57.md). -/
def forkEntry (u : Nat) (k : Kd) (ea ca : Nat) (plan : Option Nat) : M (Option Bool) := do
  let v ← kvEntry u k ea
  let at' ← kvEntryAt u ca
  if v = entGone then
    kvWrite at' (toBytes 4 entGone)
    return some false
  else if !isBlock v then return some false
  else do
    let m ← kvMetaOf u (k.block v)
    if m.shares then
      let (b, m) ← kvChange u (k.block v) k.lay 0
      let x ← kvLoad u k b m
      kvStore b x { x with md := m.setRef (m.ref + 1) }
      kvWrite at' (toBytes 4 v)
      return some false
    else match ← (if plan.isSome then pure plan else pickId) with
    | none => return none
    | some nid => do
      let b ← kvOpen u [] (k.block v) k.lay [(0, k.lay.stride)]
      let dst ← openNew u k nid true
      kvSound u (b.range 0 k.lay.stride)
      takeId nid
      copyBlock b dst (b.read (← get) m)
      kvWrite at' (toBytes 4 nid)
      return some true

/-- The entries of one pair from `e` on, `c` blocks copied so far, `ids` the new blocks that are checked; none when the
pool is dry. -/
def forkEntries (u : Nat) (k ch : Kd) (pr : Nat × Nat) : Nat → Nat → Nat → List Nat → M (Nat × Bool)
  | 0, _, c, _ => return (c, false)
  | n + 1, e, c, ids => do
    keepCount u c e
    match ← forkEntry u k (k.entry pr e) (ch.entry pr e) ids.head? with
    | none => return (c, true)
    | some hit => forkEntries u k ch pr n (e + 1) (c + hit.toNat) (if hit then ids.tail else ids)

/-- The pairs from unit `u` on; `sub` entries of the first are done. -/
def forkPairs (k ch : Kd) (top : Nat) : Nat → Nat → Nat → List (Nat × Nat) → M (Nat × Bool)
  | _, c, _, [] => return (c, false)
  | u, c, sub, pr :: r => do
    let es := (List.range (top - sub)).map (sub + ·)
    let ids ← forkCheck u k (es.map (k.entry pr)) (es.map (ch.entry pr))
    let (c, dry) ← forkEntries u k ch pr (top - sub) sub c ids
    if dry then return (c, true)
    keepCount (u + 1) c 0
    if r ≠ [] then unitPoint
    forkPairs k ch top (u + 1) c 0 r

/-- The child and the parent do not fit (R84). -/
def forkBad (ch k : Kd) : Bool :=
  ch.layers != k.layers || ch.heads != k.heads || ch.dim != k.dim || ch.kfmt != k.kfmt || ch.vfmt != k.vfmt ||
  ch.pool != k.pool || ch.poolsz != k.poolsz || decide (ch.ne < (k.len + 31) / 32) || ch.len != 0 || ch.dlen != 0

/-- KVFORK. R78 does not say how the checks of its two descriptors mix: here both alignments come first, then the
child's translation and fields, then the parent's (notes/assumptions/57.md). -/
def kvfork (d a b : Reg) : M Unit := do
  kvStart
  let h ← getH
  let u := h.vc.vstart.toNat
  let va := (h.getX b).toNat
  if (h.getX a).toNat % 64 = 0 ∧ va % 64 ≠ 0 then trap .misalign u (h.getX b)
  let ch ← kvDesc (h.getX a).toNat true
  let k ← kvDesc va false
  kvPool ch
  kvPool k
  if forkBad ch k then kvdesc u ch.va
  let n ← unitCount
  let r ← forkPairs k ch ((k.len + 31) / 32) u n.1 n.2 (k.pairs.drop u)
  if !r.2 then kvUpdate ((← withCap (ch.put 192 32 k.len)).put 232 6 0)
  kvResult d r

/-! ### Meanings -/

def execKvxl (d a b c : Reg) (s : State) : Host.Outcome State Fault Refusal :=
  runM (kvRun (kvxl (!groupOk d s.h.grp) a b c { draft := true, part := true }
    fun i r h => h.setElem d.val i 64 (r.getD 0))) s
def execKvxlm (d a b c : Reg) (s : State) : Host.Outcome State Fault Refusal :=
  runM (kvRun (kvxl false a b c { draft := true } fun i r h => h.setElem d.val i 1 r.isSome.toNat)) s
def execKvapp (d a b c : Reg) (s : State) : Host.Outcome State Fault Refusal := runM (kvRun (kvapp a b c d)) s
def execKvcommit (a b : Reg) (s : State) : Host.Outcome State Fault Refusal := runM (kvRun (kvcommit a b)) s
def execKvtrunc (a b : Reg) (s : State) : Host.Outcome State Fault Refusal := runM (kvRun (kvtrunc a b)) s
def execKvevict (d a b c : Reg) (s : State) : Host.Outcome State Fault Refusal := runM (kvRun (kvevict d a b c)) s
def execKvalloc (d a b : Reg) (s : State) : Host.Outcome State Fault Refusal := runM (kvRun (kvalloc d a b)) s
def execKvfree (d a b c : Reg) (s : State) : Host.Outcome State Fault Refusal := runM (kvRun (kvfree d a b c)) s
def execKvfork (d a b : Reg) (s : State) : Host.Outcome State Fault Refusal := runM (kvRun (kvfork d a b)) s

end Sys2Proof.Machine
end

