-- ==== Sys2Proof/Machine/Queue.lean ====
section
/-! DEFINITION. Queues and start records (R299-R302), putting a record into a ring (R313, R318), the order in which an
allocator considers its candidates (R305, R306). -/

namespace Sys2Proof.Machine

/-! ### Start records (R302) -/

/-- A start record as a number of 512 bits. -/
structure Rec where
  w : Nat
  deriving DecidableEq, Repr

namespace Rec
variable (r : Rec)
def entry : Nat := bits r.w 0 64
def code : Nat := bits r.w 64 64
def arg : Nat := bits r.w 128 64
def ctr : Nat := bits r.w 192 64
def inc : Nat := bits r.w 256 64
def dep : Nat := bits r.w 320 64
def depval : Nat := bits r.w 384 64
/-- Harts per gang. -/
def harts : Nat := bits r.w 467 8 + 1
def latches : Nat := bits r.w 475 2
def tiles : Nat := bits r.w 477 3
def banks : Nat := bits r.w 480 6
/-- Lanes of LMIN and of LSHARE. -/
def lmin : Nat := 4 * 2 ^ bits r.w 486 2
def lanes : Nat := 4 * 2 ^ bits r.w 488 2
def vlceil : Nat := bits r.w 490 4
def prio : Nat := bits r.w 494 2
def tenant : Nat := bits r.w 499 5
/-- Gangs in the task. -/
def gangs : Nat := bits r.w 504 8 + 1
/-- BADREC (R303): a reserved bit, a field out of its range, an address that is not aligned. -/
def bad : Bool :=
  bits r.w 448 19 != 0 || bits r.w 496 3 != 0 || bits r.w 488 2 == 3 || decide (bits r.w 488 2 < bits r.w 486 2) ||
  decide (r.vlceil < 10) || decide (14 < r.vlceil) || decide (11 * (r.lanes / 4) < r.banks) || decide (4 < r.tiles) ||
  decide (2 < r.latches) || r.dep % 8 != 0 || r.ctr % 8 != 0 || r.code % 64 != 0 || decide (2 ^ 52 ≤ r.entry) ||
  r.entry % 2 != 0
end Rec

/-! ### Rings (R299) -/

/-- Records that a queue holds. -/
def Queue.count (q : Queue) : Nat := (q.tail - q.head).toNat

/-- Physical address of a ring entry. -/
def Queue.entryPa (q : Queue) (i : BitVec 32) : Nat := (q.base.toNat + 64 * (i.toNat % 2 ^ q.log2n)) % 2 ^ 52

/-- What comes of a record offered to a queue. -/
inductive Submit where
  | refused (code : Nat)
  | waits
  | written (index : Nat) (s : State)

/-- Writing a record into a ring, as one unit at the queue (R313): TENANT is set to the submitter's. `from'` carries
root and ASID of a relaunch (R318). -/
def State.submit (s : State) (a : Agent) (n rec tenant : Nat) (from' : Option (BitVec 52 × BitVec 16)) : Submit :=
  let q := s.dev.queue n
  if 255 < n ∨ !q.en ∨ q.tenant ≠ tenant then .refused 1
  else
    let pa := q.entryPa q.tail
    let k := s.dev.homeOf pa
    if !s.dev.grants q.tenant pa .store then .refused 3
    else if q.count = 2 ^ q.log2n then .refused 2
    else if s.dev.owned k then .waits
    else
      let s := s.putMem a k (toBytes 64 (putBits rec 499 5 tenant))
      let i := q.tail.toNat
      let keep := q.relaunch.filter (·.1 != i)
      let q := { q with
        tail := q.tail + 1
        relaunch := match from' with | some x => (i, x.1, x.2) :: keep | none => keep }
      .written i { s with dev := s.dev.setQueue (q.noteHead s.time) }

/-- A record consumed: HEAD advances (R299). -/
def Queue.consume (q : Queue) : Queue :=
  { q with
    head := q.head + 1
    reached := none
    checked := none
    tierClock := []
    depSeen := none
    relaunch := q.relaunch.filter (·.1 != q.head.toNat) }

/-- Every queue's record at HEAD noted. -/
def Device.noteHeads (d : Device) (now : Nat) : Device := { d with queues := d.queues.map (Queue.noteHead now) }

/-! ### Candidates (R305, R306) -/

/-- What an allocator may grant: the head record of a queue, or a saved gang. -/
structure Cand where
  isGang : Bool
  key : Nat
  prio : Nat
  since : Nat
  queue : Nat
  deriving DecidableEq, Repr

/-- Nanoseconds of a millisecond. -/
def ms : Nat := 1000000

/-- Effective priority at TIME `now` (R306). -/
def Cand.eff (c : Cand) (now : Nat) : Nat := min 3 (c.prio + (now - c.since) / (2 * ms))

/-- `a` is considered ahead of `b`. -/
def Cand.ahead (now : Nat) (a b : Cand) : Bool :=
  decide (b.eff now < a.eff now) ||
  (a.eff now == b.eff now && (decide (a.since < b.since) || (a.since == b.since && decide (a.queue < b.queue))))

/-- A candidate put into its place behind those that are not after it. -/
def Cand.place (now : Nat) (c : Cand) : List Cand → List Cand
  | [] => [c]
  | x :: r => if c.ahead now x then c :: x :: r else x :: Cand.place now c r

/-- The candidate that a queue's head record is for any die of DIES, once it has passed its checks. -/
def Queue.cand (q : Queue) : Option Cand :=
  match q.en, q.checked, q.reached with
  | true, some (w, _), some (_, t) => some ⟨false, q.num, min (Rec.prio ⟨w⟩) q.pmax, t, q.num⟩
  | _, _, _ => none

def Gang.cand (g : Gang) : Cand := ⟨true, g.id, g.prio, g.headTime, g.queue⟩

/-- The candidates of a die in the order in which its allocator considers them. -/
def Device.cands (d : Device) (die now : Nat) : List Cand :=
  let recs := (d.queues.filter fun q => q.dies.getLsbD die).filterMap Queue.cand
  let gangs := (d.gangs.filter fun g => g.saved && g.die == die).map Gang.cand
  (recs ++ gangs).foldl (fun l c => c.place now l) []

/-- The value last read at DEP reaches DEPVAL, or there is no DEP (R305). -/
def Queue.depMet (q : Queue) : Bool :=
  match q.checked with
  | some (w, _) => let r : Rec := ⟨w⟩
    r.dep == 0 || (match q.depSeen with | some v => decide (r.depval ≤ v.toNat) | none => false)
  | none => false

/-! ### Placement (R307) -/

/-- Lanes that a hart's group occupies, as bits of the core's 16. -/
def Hart.laneMask (h : Hart) : Nat := (2 ^ h.id.lanes - 1) * 2 ^ (4 * (h.id.hartid.toNat % 4))

/-- Whether a hart holds lanes: resident and not yet ended or saved. -/
def Hart.holdsLanes (h : Hart) : Bool := h.status == .running || h.status == .stopped

/-- A hart's place: logical core, lane-group index, TOWN. -/
structure Slot where
  core : Nat
  lgrp : Nat
  town : Nat
  deriving DecidableEq, Repr

/-- Lanes of a core in use, as bits, gangs of `ex` apart. -/
def State.lanesUsed (s : State) (ex : Nat → Bool) (die core : Nat) : Nat :=
  (s.harts.filter fun h => h.holdsLanes && !ex h.id.gang.toNat && dieOf h.id.hartid == die && coreOf h.id.hartid == core).foldl
    (fun m h => m ||| h.laneMask) 0

/-- Tiles and latches of a core in use, as bits of TOWN. -/
def State.townUsed (s : State) (ex : Nat → Bool) (die core : Nat) : Nat :=
  (s.harts.filter fun h => h.holdsLanes && !ex h.id.gang.toNat && dieOf h.id.hartid == die && coreOf h.id.hartid == core).foldl
    (fun m h => m ||| h.t.town.toNat) 0

/-- A bank is free: no gang holds it. -/
def State.bankFree (s : State) (ex : Nat → Bool) (die core n : Nat) : Bool :=
  match s.dev.bank? die core n with
  | some b => ex b.gang
  | none => true

def Device.coreAbsent (d : Device) (die core : Nat) : Bool := d.parts.any fun p => p.die == die && p.absent.contains core

/-- The `n` lowest codes from `lo` to `lo + m - 1` whose bits are clear, as bits. -/
def lowestFree (used lo m n : Nat) : Option Nat :=
  let free := ((List.range m).map (· + lo)).filter fun i => bits used i 1 == 0
  if free.length < n then none else some ((free.take n).foldl (fun x i => x + 2 ^ i) 0)

/-- The place at lane group `g` of a core, when lanes, tiles, latches and banks are free there beside `taken`. -/
def State.slotAt (s : State) (ex : Nat → Bool) (die : Nat) (r : Rec) (taken : List Slot) (core g : Nat) : Option Slot :=
  let mask (x : Nat) : Nat := (2 ^ r.lanes - 1) * 2 ^ (4 * x)
  let here := taken.filter (·.core == core)
  let lanes := here.foldl (fun m x => m ||| mask x.lgrp) (s.lanesUsed ex die core)
  let town := here.foldl (fun m x => m ||| x.town) (s.townUsed ex die core)
  if g % (r.lanes / 4) ≠ 0 ∨ 4 ≤ g ∨ s.dev.coreAbsent die core = true ∨ lanes &&& mask g ≠ 0 then none
  else if !((List.range r.banks).all fun i => s.bankFree ex die core (4 + 11 * g + i)) then none
  else match lowestFree town 0 4 r.tiles, lowestFree town 4 2 r.latches with
    | some t, some l => some ⟨core, g, t + l⟩
    | _, _ => none

/-- Places for up to `n` harts among groups, in their order. -/
def State.fill (s : State) (ex : Nat → Bool) (die : Nat) (r : Rec) : List (Nat × Nat) → Nat → List Slot → List Slot
  | [], _, acc => acc
  | _, 0, acc => acc
  | (c, g) :: rest, n + 1, acc => match s.slotAt ex die r acc c g with
    | some x => s.fill ex die r rest n (acc ++ [x])
    | none => s.fill ex die r rest (n + 1) acc

/-- Every lane group of a die in increasing (CORE, LGRP). -/
def allGroups : List (Nat × Nat) := (List.range 256).map fun i => (i / 4, i % 4)

/-- Places for `k` gangs, each hart in increasing (CORE, LGRP); none when they do not fit. -/
def State.placeGangs (s : State) (ex : Nat → Bool) (die : Nat) (r : Rec) : Nat → List Slot → Option (List Slot)
  | 0, acc => some acc
  | k + 1, acc =>
    let acc' := s.fill ex die r allGroups r.harts acc
    if acc'.length = acc.length + r.harts then s.placeGangs ex die r k acc' else none

/-- Harts of a record that find lanes on a die (R309), `used` being the lanes in use on core `at'`. -/
def State.laneRoom (s : State) (die : Nat) (r : Rec) (at' used : Nat) : Nat :=
  let here (c : Nat) : Nat := if c = at' then used else s.lanesUsed (fun _ => false) die c
  let free (c : Nat) : Nat := if s.dev.coreAbsent die c then 0
    else ((List.range 4).filter fun g => g % (r.lanes / 4) == 0 && here c &&& ((2 ^ r.lanes - 1) * 2 ^ (4 * g)) == 0).length
  (List.range 64).foldl (fun n c => n + free c) 0

/-! ### Acting on one hart -/

/-- The hart `r` at the front, for an event that concerns it; the order of the harts is kept. -/
def State.withHart (s : State) (r : HartRef) (f : State → State) : State :=
  let here (h : Hart) : Bool := h.id.gang.toNat == r.gang && h.id.rank == r.rank && h.status != .vacant
  (List.range (s.others.length + 1)).foldl (fun s _ => (if here s.h then f s else s).rotate) s

end Sys2Proof.Machine
end

