-- ==== Sys2Proof/Machine/Run.lean ====
section
/-! DEFINITION. What stands around an instruction in a step: events at a point (R332-R334), fetching and decoding
(R25, R41), and placing a word to be fetched. -/

namespace Sys2Proof.Machine

/-- A debug halt at a point (R345, R348): DPC and DELEM take the resumable position; a stall that still goes on ends and
is charged (R354); with GHALT the gang is asked. -/
def State.enterHalt (s : State) (c : BitVec 4) : State :=
  let s := (s.endStall s.h.pc).traceRec 8 s.h.vc.vstart.toNat c.toNat
  let h := s.h
  let h := { h with
    db := { h.db with
      halted := true
      haltReq := none
      stepping := false
      cause := c
      dpc := h.pc
      delem := h.vc.vstart }
    ms := h.ms.unbind
    sy := { h.sy with tierClock := [], tierAsk := none, pendWait := none, fromElem := none } }
  let ask (x : Hart) : Hart :=
    if h.db.ghalt && x.id.gang == h.id.gang && x.status != .vacant then x.askHalt 5 else x
  { s with h := h, others := s.others.map ask }

/-- TIP (R322, R331). -/
def State.tip (s : State) : Bool := s.h.hr.tdl != 0 && decide (s.h.hr.tdl.toNat ≤ s.time)

/-- Whether a timer or doorbell interrupt may be taken now (R326, R332, R345, R260). -/
def State.mayInterrupt (s : State) : Bool :=
  (!s.h.handler || s.h.hr.hstat.ie) && s.h.hr.hvec != 0 &&
  (match s.h.ms.hold with | some c => decide (c ≤ s.cycle) | none => true) &&
  (!s.h.db.stepping || s.h.db.stepie)

/-- The bytes of the instruction at an address as the hart would fetch them, up to a first that does not translate; of a
captured loop body its word. -/
def State.peekWord (s : State) (pc : BitVec 52) : Option Nat :=
  match (if s.h.inLoop pc then s.h.lp.body.find? (·.1 == pc) else none) with
  | some (_, w) => some w
  | none =>
    let parcel (a : Nat) : Option Nat := match s.probe s.h.ctx a .fetch with
      | .ok (l, _, _) => some (s.dev.mem.getNat l.key 2)
      | .error _ => none
    (parcel pc.toNat).bind fun p0 =>
      let rest := (List.range (lengthOf p0 / 2 - 1)).map fun k => (k + 1, parcel (pc.toNat + 2 * (k + 1)))
      if rest.all (·.2.isSome) then some (rest.foldl (fun w p => w + (p.2.getD 0) * 2 ^ (16 * p.1)) p0) else none

/-- The word of an access of mode 2 (R29, R145), which has a completion mask (R21). -/
def mode2 (w : Nat) : Bool := w % 2 == 0 && (bits w 1 6 == 0x15 || bits w 1 6 == 0x16 || bits w 1 6 == 0x17) && bits w 24 3 == 2

/-- A completion mask stands only before an access of mode 2 (R21, R324); it stays where the instruction cannot be read
(notes/assumptions/51.md). -/
def State.dropMask (s : State) : State :=
  if s.h.vc.ecm = 0 then s
  else match s.peekWord s.h.pc with
    | some w => if mode2 w then s else { s with h := { s.h with vc := { s.h.vc with ecm := 0 } } }
    | none => s

/-- A hart stopped for a save (R335 step 1): a strip is abandoned, loads are unbound, a wait begins anew. The position
of a halted hart follows (R348). -/
def Hart.stopHere (h : Hart) : Hart :=
  let h := h.abandon
  { h with
    status := .stopped
    db := if h.db.halted then { h.db with dpc := h.pc, delem := h.vc.vstart } else h.db
    ms := h.ms.unbind
    sy := { h.sy with tierClock := [], tierAsk := none, pendWait := none } }

/-- The hart at the front stops for a save, its strip recorded as abandoned (R352). A halted hart with a strip open has
its position moved back to the VSTRIP. -/
def State.stopHart (s : State) : State :=
  if s.h.status = .running then { s.traceAbandon with h := s.h.stopHere } else s

/-- The asynchronous event that a point takes, if one is pending, in the order of R332. Inside a strip a debug halt
waits for an instruction boundary (R261). -/
def State.takeEvent (s0 : State) : Option State :=
  let stop := (s0.dev.gangs.find? (·.id == s0.h.id.gang.toNat)).any (·.stopReq.isSome)
  let s := s0.dropMask.endStall s0.h.pc
  match (if s.h.ms.strip.isSome && s.h.vc.vstart != 0 then none else s.h.db.haltReq) with
  | some c => some (s.enterHalt c)
  | none =>
    if stop then some { s.traceAbandon with h := s.h.stopHere }
    else if s.mayInterrupt && s.tip then some (takeInterrupt 1 s)
    else if s.mayInterrupt && s.h.hr.hstat.dip then some (takeInterrupt 2 s)
    else none

/-- An execute trigger at an address (R349), with its ACT. -/
def Hart.execTrigger (h : Hart) (pc : BitVec 52) : Option Bool :=
  (h.hr.watch.toList.filterMap fun w =>
    let sz := 2 ^ min 40 (bits w.toNat 54 6)
    if w.getLsbD 63 && bits w.toNat 61 2 == 0 && pc.toNat / sz == bits w.toNat 0 52 / sz then some (w.getLsbD 60)
    else none).head?

/-- The word at the PC: captured, or fetched (R25, R291). A body that a resumption has emptied is captured again (R292).
An address with a bit above 51 raises XLATE (R50). A fault of the fetch leaves the elements that are done as they are:
its element is VSTART (R21, R22). -/
def instrWord : M Nat := do
  let h ← getH
  let el := h.vc.vstart.toNat
  if h.pcHi ≠ 0 then trap .xlate el (h.pcHi ++ h.pc)
  match (if h.inLoop h.pc then h.lp.body.find? (·.1 == h.pc) else none) with
  | some (_, w) => return w
  | none =>
    let w ← fetchWord el h.pc.toNat
    if h.inLoop h.pc then modH fun h => { h with lp := { h.lp with body := h.lp.body ++ [(h.pc, w)] } }
    return w

/-- What a unit-based instruction has counted is kept while the hart stands at it, or has been taken from it by a trap
or an interrupt; one that the hart has left otherwise is abandoned (R77; notes/assumptions/56.md). -/
def Hart.dropUnits (h : Hart) : Hart :=
  if h.handler && h.hr.hstat.pm then h
  else { h with sy := { h.sy with units := h.sy.units.filter fun u => u.pc == h.pc || (h.handler && !u.handler) } }

/-- Trigger, fetch and decode in the order of R41. -/
noncomputable def fetchInstr : M Instr := do
  modH Hart.dropUnits
  let h ← getH
  if h.ms.entryDrain then
    flushStores
    modH fun h => { h with ms := { h.ms with entryDrain := false } }
  if h.ms.retDrain then
    releaseWait 4
    modH fun h => { h with ms := { h.ms with retDrain := false } }
  modify State.dropMask
  match (if h.pcHi = 0 then h.execTrigger h.pc else none) with
  | some true =>
    modify fun s => s.enterHalt 2
    throw .left
  | some false => trapInstr .break
  | none => pure ()
  let w ← instrWord
  match decode w with
  | .ok i => return i
  | .error _ => trapInstr .illegal

/-- What a step does with the hart's next instruction: its meaning, or where the fetch leaves it. -/
noncomputable def fetched (s : State) : Except (Host.Outcome State Fault Refusal) (Instr × State) :=
  match fetchInstr.run s with
  | (.ok i, s') => .ok (i, s')
  | (.error e, s') => .error (runM (throw e) s')

/-- An outcome's next state changed. -/
def andThen (f : State → State) : Host.Outcome State Fault Refusal → Host.Outcome State Fault Refusal
  | .next s => .next (f s)
  | .fault e => .fault e
  | .refused e => .refused e

/-- The event of the inbox that is due, with the inbox behind it. -/
def State.dueEvent (s : State) : Option (Instr × State) :=
  match s.inbox with
  | (c, i) :: r => if c ≤ s.cycle then some (i, { s with inbox := r }) else none
  | [] => none

/-- What keeps the accesses of a source in the order sent (R278): a host port with all its functions, a link, a CXL
port. -/
def sourceLane : Source → Nat × Nat
  | .pf p => (0, p)
  | .vf t => (0, t / 16)
  | .domain d => (1, d)
  | .cxl p => (2, p)
  | .esmen => (3, 0)

/-- The lane of an event that comes from outside; the events of a debug module's JTAG port are one lane too. -/
def eventLane : Instr → Option (Nat × Nat)
  | .wakeWrite t .. => some (if t < 0x100 then (0, t / 16) else if t < 0x200 then (1, t - 0x100) else (2, t - 0x200))
  | .inboundAccess src .. | .doorbellWrite src .. | .qcfgWrite src .. | .qstateWrite src .. =>
    some (sourceLane src)
  | .registerWrite (.host src _) _ => some (sourceLane src)
  | .registerWrite (.watch d _ _) _ | .registerWrite (.trace d _ _ _) _ | .registerWrite (.taken d) _ => some (4, d)
  | .haltRequest d .. | .resumeRequest d .. | .accessRegister d .. | .accessMemory d .. => some (4, d)
  | .hsemWrite p .. | .domcfgWrite p .. | .tcreate p .. | .tdestroy p | .extset p | .stage p | .activate p | .svnadv p
  | .preempt p | .hotReset p | .hostLinkDown p => some (0, p)
  | .attest src => some (sourceLane src)
  | .qtailWrite t .. | .rheadWrite t .. | .functionLevelReset t => some (0, t / 16)
  | _ => none

/-- An event that has to wait is tried again, ahead of every later one of its lane (R131, R278); one event of another
lane that is due may come first, and so may the harts. -/
def State.again (i : Instr) (s : State) : State :=
  if !s.retry then s
  else { s with
    retry := false
    inbox := match s.inbox with
      | (c, j) :: r =>
        if c ≤ s.cycle ∧ eventLane j ≠ eventLane i then (c, j) :: (s.cycle + 2, i) :: r
        else (s.cycle + 2, i) :: (c, j) :: r
      | [] => [(s.cycle + 2, i)] }

/-- Whether the hart that moves next executes instructions (R9, R335, R348). -/
def Hart.runs (h : Hart) : Bool := h.status == .running && !h.db.halted

/-- A data trigger acts after its element or instruction (R349), a halt inside a strip at an instruction boundary
(R261). VSTART stood at `vs` before the instruction: one that has moved it or holds a completion mask has elements
left, and EELEM is VSTART; any other is complete. -/
def State.actWatch (vs : BitVec 48) (s : State) : State :=
  match s.h.ms.watchHit with
  | none => s
  | some (a, act) =>
    if act && s.h.ms.strip.isSome && s.h.vc.vstart != 0 then s else
    let s := { s with h := { s.h with ms := { s.h.ms with watchHit := none } } }
    let v := s.h.vc.vstart
    let el := if v = vs ∧ s.h.vc.ecm = 0 then 0 else v.toNat
    if act then s.enterHalt 2 else takeTrapAt .watch v.toNat el (BitVec.ofNat 64 a) s

/-- A single step ends with a halt after one instruction or trap (R348): the PC has moved or the hart has trapped. -/
def State.endStep (pc : BitVec 52) (handler : Bool) (s : State) : State :=
  if s.h.db.stepping && !s.h.db.halted && (s.h.pc != pc || s.h.handler != handler || s.h.db.stall == none) then
    s.enterHalt 4
  else s

/-- Time goes on by one cycle and the next entry of `pace`. -/
def State.tickClock (s : State) : State :=
  match s.pace with
  | [] => { s with cycle := s.cycle + 1 }
  | n :: r => { s with cycle := s.cycle + 1 + n, pace := r }

/-- The run-ahead stream once the hart has gone on from the instruction at `pc` to `next`: that instruction leaves it,
and a path that the program does not take is discarded (R249, R256). -/
def MemState.behind (m : MemState) (pc next : BitVec 52) : MemState :=
  match m.bound with
  | [] => m
  | e :: r =>
    if e.pc ≠ pc then { m with bound := [] }
    else if next = pc then m
    else { m with bound := if r.head?.all (·.pc == next) then r else [] }

/-- The word of a vector instruction, majors 0x15 to 0x1E (R38). -/
def vectorWord (w : Nat) : Bool := w % 2 == 0 && decide (0x15 ≤ bits w 1 6) && decide (bits w 1 6 ≤ 0x1E)

/-- The cycles that a completed instruction takes beyond one are those in which the next waits for its result (R353),
after a vector instruction trailing it by the elements that it has still to perform (R354; notes/assumptions/24.md). -/
def State.resultStall (pc : BitVec 52) (s : State) : State :=
  match s.pace with
  | (n + 1) :: _ =>
    if s.h.runs && s.h.pc != pc && !s.h.ms.entryDrain && !s.h.ms.retDrain then
      let both := (s.peekWord pc).any vectorWord && (s.peekWord s.h.pc).any vectorWord
      let lag := if both then s.h.vc.vl - s.h.vc.vstart.toNat else 0
      { s with h := { s.h with db := s.h.db.charge s.h.pc .result pc (n + 1) true lag } }
    else s
  | _ => s

/-- A step that did not end in a wait ends the stall of the instruction at `pc`, its promotion waits and its loads of
other devices (R57, R276, R354). -/
def State.endOfInstr (pc : BitVec 52) (s : State) : State :=
  if s.h.db.waited = some s.cycle then s
  else
    let s := (s.endStall pc).resultStall pc
    { s with h := { s.h with
      sy := { s.h.sy with tierClock := [], tierAsk := none, pendWait := none }
      ms := { s.h.ms.behind pc s.h.pc with
        holdNext := s.h.ms.holdNext.filter (· == s.h.pc)
        loadQ := []
        landed := [] } } }

/-- The next hart that holds a running instruction stream comes to the front. -/
def State.nextHart : Nat → State → State
  | 0, s => s
  | n + 1, s =>
    let s := s.rotate
    if s.h.runs then s else State.nextHart n s

/-! ### Placing a word to be fetched -/

/-- A hart made resident for a word to be fetched: gang 1 of tenant 0 on die 0, its page at the PC mapped readable,
writable and executable onto frame 0x20000, the tables at 0x8000, 0x10000 and 0x18000, one extent over them. -/
def State.placeHart (s : State) : State :=
  let pc := s.h.pc.toNat
  let m := s.dev.mem.setBytes (0x8000 + 8 * bits pc 40 12) (toBytes 8 0x10001)
  let m := m.setBytes (0x10000 + 8 * bits pc 28 12) (toBytes 8 0x18001)
  let m := m.setBytes (0x18000 + 8 * bits pc 16 12) (toBytes 8 0x200DE)
  let gang : Gang :=
    { id := 1
      die := 0
      size := 1
      tenant := 0
      ctr := 0
      inc := 0
      prio := 0
      queue := 0
      index := 0
      headTime := 0
      grantNo := 0 }
  { s with
    h := { s.h with
      status := .running
      id := { s.h.id with gang := 1, gangsz := 1, rank := 0, tenant := 0 }
      hr := { s.h.hr with ptroot := 0x8000 } }
    dev := { s.dev with
      mem := m
      extents := [{ src := 0, idx := 0, base := 0, last := 0xFF, w := true, y := true, v := true }]
      gangs := [gang] } }

/-- Bytes written where the hart fetches them. -/
def State.putCode (s : State) (va : Nat) : List Byte → State
  | [] => s
  | b :: r =>
    match s.probe s.h.ctx va .fetch with
    | .ok (l, _, _) => State.putCode { s with dev := { s.dev with mem := s.dev.mem.set l.key b } } (va + 1) r
    | .error _ => s

/-- What stands between the hart and its next fetch is taken away: inputs that are due, choices, halts, loops. -/
def State.clearWay (s : State) : State :=
  { s with
    inbox := []
    oracle := []
    h := { s.h with
      status := .running
      pcHi := 0
      lp := { s.h.lp with active := false }
      ms := { s.h.ms with ibuf := [], entryDrain := false, retDrain := false, bound := [] }
      db := { s.h.db with halted := false, haltReq := none } } }

/-- The words at the PC (`n` bytes), a hart being made resident where none can fetch there. -/
def State.placeWord (s : State) (bs : List Byte) : State :=
  let s := s.clearWay
  let s := match s.probe s.h.ctx s.h.pc.toNat .fetch with
    | .ok _ => s
    | .error _ => s.placeHart
  s.putCode s.h.pc.toNat bs

end Sys2Proof.Machine
end

