-- ==== Sys2Proof/Machine/System.lean ====
section
/-! DEFINITION. System registers (R13-R17, R295, R322, R323), WAIT, SEV and TRAP (R296, R297), translation instructions
(R61, R62), trap instructions (R327-R331) and debug instructions (R355). -/

namespace Sys2Proof.Machine

/-! ### System registers -/

/-- HSTAT as a word, TIP given (R322). -/
def Hstat.word (x : Hstat) (tip : Bool) : Nat :=
  x.dip.toNat * 2 ^ 10 + tip.toNat * 2 ^ 9 + x.ie.toNat * 2 ^ 8 + x.ecmv.toNat * 16 + x.pm.toNat * 8 +
    x.vlost.toNat * 4 + x.stacked.toNat * 2

/-- A write to HSTAT: DIP and VLOST clear where 1 is written (R322). -/
def Hstat.write (x : Hstat) (v : Word) : Hstat :=
  { dip := x.dip && !v.getLsbD 10
    ie := v.getLsbD 8
    ecmv := v.getLsbD 4
    pm := v.getLsbD 3
    vlost := x.vlost && !v.getLsbD 2
    stacked := v.getLsbD 1 }

/-- KVSTASH: the count of the core's stash when it is the tenant's (R74). -/
def State.stashCount (s : State) (h : Hart) : Nat :=
  match s.dev.stashes.find? fun x => x.die == dieOf h.id.hartid && x.core == coreOf h.id.hartid with
  | some x => if x.tenant = h.id.tenant then x.ids.length else 0
  | none => 0

/-- Bytes that a hart holds in the Sluice (R251). -/
def Hart.sluice (h : Hart) : Nat := match h.ms.strip with | some st => st.liveBytes | none => 0

/-- The value of a task-visible register (R13); none where the number is not assigned. -/
def State.taskReg (s : State) (h : Hart) (n : Nat) : Option Word :=
  let w (x : Nat) : Option Word := some (BitVec.ofNat 64 x)
  if n = 0 then w h.vc.vl
  else if n = 1 then some (vtypeWord h.vc.ew h.vc.grp h.vc.vspec)
  else if n = 2 then w h.vc.vstart.toNat
  else if n = 3 then w h.vc.vlmaxr
  else if n = 4 then some h.vc.vff
  else if n = 5 then some h.vc.vpx
  else if n = 6 then w h.f.fflags.toNat
  else if n = 7 then w (h.f.frm.toNat + 256 * h.f.fen.toNat)
  else if n = 8 then w h.f.fxrnd.toNat
  else if n = 9 then w h.f.fxsat.toNat
  else if n ≤ 0xE then some (h.f.fidx[Fin.ofNat 5 (n - 0xA)])
  else if n = 0xF then some h.f.fepc
  else if 0x10 ≤ n ∧ n ≤ 0x1B then some (h.f.fmt[Fin.ofNat 12 (n - 0x10)])
  else if n = 0x20 then some h.f.rctrl
  else if n = 0x21 then some h.f.rctrh
  else if n = 0x22 then some h.f.rkey
  else if n = 0x23 then w (h.t.rows.toNat + 2 ^ 8 * h.t.cols.toNat + 2 ^ 16 * h.t.facN.toNat)
  else if n = 0x24 then w h.t.town.toNat
  else if n = 0x25 then w h.id.hartid.toNat
  else if n = 0x26 then w h.id.gang.toNat
  else if n = 0x27 then w h.id.gangsz
  else if n = 0x28 then w h.id.rank
  else if n = 0x29 then w s.cycle
  else if n = 0x2A then w s.time
  else if n = 0x2B then w h.sluice
  else if n = 0x2C then some Config.caps0
  else if n = 0x2D then some Config.caps1
  else if n = 0x2E then w (s.stashCount h)
  else none

/-- The value of a handler-only register (R14, R17, R55, R322, R323, R349). -/
def State.handlerReg (s : State) (h : Hart) (n : Nat) : Option Word :=
  let w (x : Nat) : Option Word := some (BitVec.ofNat 64 x)
  let tip := h.hr.tdl != 0 && decide (h.hr.tdl.toNat ≤ s.time)
  match n with
  | 0x100 => w (h.hr.hstat.word tip)
  | 0x101 => w h.hr.epc.toNat
  | 0x102 => w (h.hr.ecauseIntr.toNat * 2 ^ 63 + h.hr.ecause.toNat)
  | 0x103 => some h.hr.eaddr
  | 0x104 => w h.hr.eelem.toNat
  | 0x105 => w h.hr.evl.toNat
  | 0x106 => some h.hr.evtype
  | 0x107 => w h.hr.evstart.toNat
  | 0x108 => w h.hr.hvec.toNat
  | 0x109 => w h.hr.ptroot.toNat
  | 0x10A => w h.hr.asid.toNat
  | 0x10B => w h.hr.vlcap.toNat
  | 0x10C => some h.hr.watch[0]
  | 0x10D => some h.hr.watch[1]
  | 0x10E => some h.hr.watch[2]
  | 0x10F => some h.hr.watch[3]
  | _ => none

def State.sysReg (s : State) (h : Hart) (n : Nat) : Option Word :=
  if n < 0x100 then s.taskReg h n else s.handlerReg h n

/-- A write to a task-visible register: read-only registers ignore it, bits that no field names are not kept (R13). -/
def Hart.writeTaskReg (h : Hart) (n : Nat) (v : Word) : Hart :=
  let x := v.toNat
  if n = 2 then { h with vc := { h.vc with vstart := v.setWidth 48 } }
  else if n = 4 then { h with vc := { h.vc with vff := v &&& 0x8000FFFF0000FFFF } }
  else if n = 5 then { h with vc := { h.vc with vpx := v &&& 0x1FFFF } }
  else if n = 6 then { h with f := { h.f with fflags := v.setWidth 5 } }
  else if n = 7 then { h with f := { h.f with frm := v.setWidth 3, fen := BitVec.ofNat 5 (bits x 8 5) } }
  else if n = 8 then { h with f := { h.f with fxrnd := v.setWidth 2 } }
  else if n = 9 then { h with f := { h.f with fxsat := v.getLsbD 0 } }
  else if 0xA ≤ n ∧ n ≤ 0xE then { h with f := { h.f with fidx := h.f.fidx.set (Fin.ofNat 5 (n - 0xA)) v } }
  else if n = 0xF then { h with f := { h.f with fepc := v } }
  else if 0x10 ≤ n ∧ n ≤ 0x1B then
    let v := if (n - 0x10) % 3 = 0 then v &&& ~~~0x30008 else v
    { h with f := { h.f with fmt := h.f.fmt.set (Fin.ofNat 12 (n - 0x10)) v } }
  else if n = 0x20 then { h with f := { h.f with rctrl := v } }
  else if n = 0x21 then { h with f := { h.f with rctrh := v } }
  else if n = 0x22 then { h with f := { h.f with rkey := v } }
  else if n = 0x23 then
    { h with t := { h.t with
      rows := BitVec.ofNat 7 x
      cols := BitVec.ofNat 7 (bits x 8 7)
      facN := BitVec.ofNat 7 (bits x 16 7) } }
  else h

/-- VLCAP.CAP as a write stores it (R17); `cap` is the tenant's. -/
def capStored (v : Word) (cap : BitVec 4) : BitVec 4 :=
  let c := bits v.toNat 0 4
  BitVec.ofNat 4 (min (if 5 ≤ c then 4 else c) cap.toNat)

/-- A write to a handler-only register (R14, R17, R55, R322, R323, R349). -/
def Hart.writeHandlerReg (h : Hart) (cap : BitVec 4) (n : Nat) (v : Word) : Hart :=
  let x := v.toNat
  let even52 := BitVec.ofNat 52 (bits x 1 51 * 2)
  match n with
  | 0x100 => { h with hr := { h.hr with hstat := h.hr.hstat.write v } }
  | 0x101 => { h with hr := { h.hr with epc := even52 } }
  | 0x102 => { h with hr := { h.hr with ecauseIntr := v.getLsbD 63, ecause := v.setWidth 8 } }
  | 0x103 => { h with hr := { h.hr with eaddr := v } }
  | 0x104 => { h with hr := { h.hr with eelem := v.setWidth 48 } }
  | 0x105 => { h with hr := { h.hr with evl := v.setWidth 16 } }
  | 0x106 => { h with hr := { h.hr with evtype := v } }
  | 0x107 => { h with hr := { h.hr with evstart := v.setWidth 48 } }
  | 0x108 => { h with hr := { h.hr with hvec := even52 } }
  | 0x109 => { h with hr := { h.hr with ptroot := BitVec.ofNat 52 (bits x 15 37 * 2 ^ 15) } }
  | 0x10A => { h with hr := { h.hr with asid := v.setWidth 16 } }
  | 0x10B => { h with hr := { h.hr with vlcap := capStored v cap } }
  | _ => if 0x10C ≤ n ∧ n ≤ 0x10F then
      { h with hr := { h.hr with watch := h.hr.watch.set (Fin.ofNat 4 (n - 0x10C)) (v &&& ~~~0x30000000000000) } }
    else h

/-- A write to a system register as MTSR makes it (R295). -/
def State.writeSysReg (s : State) (h : Hart) (n : Nat) (v : Word) : Hart :=
  if n < 0x100 then h.writeTaskReg n v else h.writeHandlerReg (s.dev.tenant h.id.tenant).cap n v

/-- The checks of MFSR and MTSR: an assigned number (ILLEGAL), the mode (PRIV), no strip (R13, R14, R254). -/
def sysCheck (n : Nat) : M Word := do
  let s ← get
  match s.sysReg s.h n with
  | none => trapInstr .illegal
  | some v =>
    if 0x100 ≤ n ∧ !s.h.handler then trapInstr .priv
    noStrip
    return v

def mfsr (d : Reg) (n : Nat) : M Unit := do
  let v ← sysCheck n
  writeX d v
  retire 4

def mtsr (a : Reg) (n : Nat) : M Unit := do
  let _ ← sysCheck n
  let v ← readX a
  modify fun s => { s with h := s.writeSysReg s.h n v }
  retire 4

/-! ### Events (R297) -/

/-- WAIT: it completes with the event bit, or 0 at the deadline; an acquire. -/
def waitEvent (d a : Reg) : M Unit := do
  noStrip
  let s ← get
  let dl := (← readX a).toNat
  if !s.h.sy.evt && !(dl != 0 && decide (dl ≤ s.time)) then
    modH fun h => { h with sy := { h.sy with pendWait := some ⟨h.pc, false, d, a, 0, 0⟩ } }
    wait .event
  writeX d (BitVec.ofNat 64 s.h.sy.evt.toNat)
  modH fun h => { h with sy := { h.sy with evt := false, mon := none, monAddr := 0 } }
  acquire
  retire 4

/-- SEV: EVT of one rank or of the whole gang, after the store queue is empty. -/
def sendEvent (a : Reg) : M Unit := do
  noStrip
  flushStores
  let s ← get
  let x := (← readX a).toNat
  let gang := s.h.id.gang
  let hit (h : Hart) : Bool :=
    h.id.gang == gang && h.status != .vacant && (x == 2 ^ 64 - 1 || (decide (x < h.id.gangsz) && h.id.rank == x))
  modify fun s => s.mapHarts fun h => if hit h then { h with sy := { h.sy with evt := true } } else h
  retire 4

/-- TRAP (R296). -/
def sysTrap (a : Reg) : M Unit := do
  noStrip
  trap .syscall 0 (← readX a)

/-! ### Translation instructions (R61, R62) -/

/-- The checks of a handler-only form (R39, R254). -/
def handlerOnly : M Unit := do
  if !(← getH).handler then trapInstr .priv
  noStrip

/-- TINV: every earlier store of the hart is visible first; then entries go from every TLB, and the TINV is remembered
for TSYNC. -/
def tinv (kind opnd : Nat) : M Unit := do
  handlerOnly
  releaseWait 4
  let s ← get
  let asid := s.h.hr.asid.toNat
  let hit (t : TlbEntry) : Bool := t.tenant == s.h.id.tenant && (match kind with
    | 0 => decide (t.base ≤ opnd) && decide (opnd < t.base + t.size) && (t.asid == asid || t.pte.getLsbD 5)
    | 1 => t.asid == opnd % 2 ^ 16
    | _ => true)
  modD fun d => { d with tlb := d.tlb.filter (!hit ·) }
  modH fun h => { h with sy := { h.sy with tinvs := (kind, opnd, asid, s.cycle) :: h.sy.tinvs } }
  retire 4

/-- Whether a TINV covers a mapping that an access was translated with before it (R62). -/
def Mapping.under (m : Mapping) (tenant : Nat) (t : Nat × Nat × Nat × Nat) : Bool :=
  m.tenant == tenant && decide (m.cycle ≤ t.2.2.2) && (match t.1 with
    | 0 => decide (m.base ≤ t.2.1) && decide (t.2.1 < m.base + m.size) && (m.asid == t.2.2.1 || m.glob)
    | 1 => m.asid == t.2.1 % 2 ^ 16
    | _ => true)

/-- Every store of a hart that is not yet performed: store queue, fabric queues, Sluice. -/
def Hart.pendingParts (h : Hart) : List Part := h.ownStores ++ h.ms.fabricQ.map (·.2)

/-- A load of the tenant has been translated and has still to arrive at another device; each one is waited for, whatever
its mapping (R62). -/
def Hart.loadsOut (tenant : Nat) (h : Hart) : Bool := h.id.tenant == tenant && h.ms.loadQ != []

/-- TSYNC: no store not yet performed and no copy command stands that was translated with a covered mapping, and no load
that has still to bind. -/
def tsync : M Unit := do
  handlerOnly
  modify (State.eachHart State.drainQueues)
  let s ← get
  let hit (m : Mapping) : Bool := s.h.sy.tinvs.any (m.under s.h.id.tenant)
  if s.harts.any (·.pendingParts.any fun p => hit p.map) || s.dev.cmds.any (·.map.any hit) ||
    (s.h.sy.tinvs != [] && s.harts.any (·.loadsOut s.h.id.tenant)) then wait .memory
  modH fun h => { h with sy := { h.sy with tinvs := [] } }
  retire 4

def probeKind (k : BitVec 2) : Kind :=
  match k.toNat with | 0 => .load | 1 => .store | 2 => .fetch | _ => .amo

/-- The word that TPROBE writes (R61). -/
def probeWord (va : Nat) (r : Except Cause (Loc × Nat × Bool)) : Nat :=
  match r with
  | .error c => 2 ^ 63 + c.code.toNat
  | .ok (l, pa, false) => l.sz * 2 ^ 57 + l.attr * 2 ^ 54 + pa % 2 ^ 52
  | .ok (l, _, true) =>
    if l.attr = 2 then 2 * 2 ^ 54 + l.key else 2 ^ 53 + va % 2 ^ 52

def tprobe (d a : Reg) (k : BitVec 2) : M Unit := do
  noStrip
  let s ← get
  let va := (← readX a).toNat
  writeX d (BitVec.ofNat 64 (probeWord va (s.probe s.h.ctx va (probeKind k))))
  retire 4

/-! ### Trap instructions (R327-R331) -/

def tret : M Unit := do
  handlerOnly
  doTret

def hxchg (d : Reg) : M Unit := do
  handlerOnly
  let x ← readX d
  let old := (← getH).hr.hscr
  writeX d old
  modH fun h => { h with hr := { h.hr with hscr := x } }
  retire 4

/-- ECMRD (R330). -/
def ecmrd (d : Reg) : M Unit := do
  handlerOnly
  let h ← getH
  let m := if h.hr.hstat.ecmv then h.hr.hecm &&& lowMask h.hr.evl.toNat else 0
  modH (·.setWhole d m.toNat)
  retire 4

/-- The lowest clear bit below `n`, or `n` (R21, R330). -/
def lowestClear (m : BitVec 16384) (i : Nat) : Nat → Nat
  | 0 => i
  | n + 1 => if m.getLsbD i then lowestClear m (i + 1) n else i

/-- ECMWR (R330). -/
def ecmwr (a : Reg) : M Unit := do
  handlerOnly
  modH fun h =>
    let m := (h.v[a]).val &&& lowMask h.hr.evl.toNat
    { h with hr := { h.hr with
      hecm := m
      hstat := { h.hr.hstat with ecmv := true }
      evstart := BitVec.ofNat 48 (lowestClear m 0 h.hr.evl.toNat) } }
  retire 4

/-- TMSET (R331). -/
def tmset (a : Reg) : M Unit := do
  handlerOnly
  let v ← readX a
  modH fun h => { h with hr := { h.hr with tdl := v } }
  retire 4

/-! ### Debug instructions (R355) -/

/-- DBRK: a debug halt, or BREAK. -/
def dbrk : M Unit := do
  noStrip
  if (← getH).db.ebrk then
    modify fun s => s.enterHalt 1
    throw .left
  else trapInstr .break

/-- A word of a stall-pair entry (R354). -/
def StallEntry.word (e : StallEntry) (i : Nat) : Nat :=
  match i with
  | 0 => e.kind.toNat * 2 ^ 60 + e.ppc.toNat
  | 1 => e.cpc.toNat
  | 2 => e.events.toNat * 2 ^ 32 + e.elag.toNat
  | _ => e.lost.toNat

/-- Word k of the stall-pair table (R355). -/
def DebugState.pairWord (d : DebugState) (k : Nat) : Word :=
  if k < 128 then match d.table[k / 4]? with
    | some e => BitVec.ofNat 64 (e.word (k % 4))
    | none => 0
  else if k < 132 then d.counter[Fin.ofNat 4 (k - 128)] else 0

def spread (d a : Reg) : M Unit := do
  noStrip
  let k ← readX a
  writeX d ((← getH).db.pairWord k.toNat)
  retire 4

def DebugState.clearPairs (d : DebugState) : DebugState := { d with table := [], counter := Vector.replicate 4 0 }

def spclr : M Unit := do
  noStrip
  modH fun h => { h with db := h.db.clearPairs }
  retire 4

def tmark (a : Reg) : M Unit := do
  noStrip
  let x ← readX a
  modify fun s => s.traceRec 7 0 x.toNat
  retire 4

/-! ### Meanings -/

def execMfsr (d : Reg) (n : BitVec 12) (s : State) : Host.Outcome State Fault Refusal :=
  runM (mfsr d n.toNat) s
def execMtsr (a : Reg) (n : BitVec 12) (s : State) : Host.Outcome State Fault Refusal :=
  runM (mtsr a n.toNat) s
def execWait (d a : Reg) (s : State) : Host.Outcome State Fault Refusal :=
  runM (waitEvent d a) s
def execSev (a : Reg) (s : State) : Host.Outcome State Fault Refusal :=
  runM (sendEvent a) s
def execTrap (a : Reg) (s : State) : Host.Outcome State Fault Refusal :=
  runM (sysTrap a) s
def execTinvVa (a : Reg) (s : State) : Host.Outcome State Fault Refusal :=
  runM (tinv 0 (s.getX a).toNat) s
def execTinvAsid (a : Reg) (s : State) : Host.Outcome State Fault Refusal :=
  runM (tinv 1 (s.getX a).toNat) s
def execTinvAll (s : State) : Host.Outcome State Fault Refusal :=
  runM (tinv 2 0) s
def execTsync (s : State) : Host.Outcome State Fault Refusal :=
  runM (tsync) s
def execTprobe (d a : Reg) (k : BitVec 2) (s : State) : Host.Outcome State Fault Refusal :=
  runM (tprobe d a k) s
def execTret (s : State) : Host.Outcome State Fault Refusal :=
  runM (tret) s
def execHxchg (d : Reg) (s : State) : Host.Outcome State Fault Refusal :=
  runM (hxchg d) s
def execEcmrd (d : Reg) (s : State) : Host.Outcome State Fault Refusal :=
  runM (ecmrd d) s
def execEcmwr (a : Reg) (s : State) : Host.Outcome State Fault Refusal :=
  runM (ecmwr a) s
def execTmset (a : Reg) (s : State) : Host.Outcome State Fault Refusal :=
  runM (tmset a) s
def execDbrk (s : State) : Host.Outcome State Fault Refusal :=
  runM (dbrk) s
def execSpread (d a : Reg) (s : State) : Host.Outcome State Fault Refusal :=
  runM (spread d a) s
def execSpclr (s : State) : Host.Outcome State Fault Refusal :=
  runM (spclr) s
def execTmark (a : Reg) (s : State) : Host.Outcome State Fault Refusal :=
  runM (tmark a) s

end Sys2Proof.Machine
end

