-- ==== Sys2Proof/Machine/Peat.lean ====
section
/-! DEFINITION. The Peat engine (R88-R99, R402): records and their pages, page moves, ageing, staged promotion,
relaunch, the expert cache. -/

namespace Sys2Proof.Machine

/-! ### Leaves and pages -/

/-- Bytes of a page that moves. -/
def frameSize : Nat := 0x10000

/-- Tier of a leaf (R104): 0 HBM, 1 CXL, 2 flash, 3 another place. A frame that is named through the domain window is in
another place, the device's own HBM seen there too: the model's choice (notes/assumptions/68.md). -/
def tierOf (pte : Nat) : Nat :=
  if pte % 4 = 3 then 2
  else match regionOf (bits pte 16 36 * frameSize) with
    | .hbm => 0
    | .cxl => 1
    | _ => 3

/-- A frame of the area of continuation records, reserved at bring-up (R88, R366). -/
def Device.inCrArea (d : Device) (f : Nat) : Bool :=
  d.hosts.ready && decide (d.crpa / frameSize ≤ f) && decide (f < d.crpa / frameSize + 4096)

/-- The engine moves pages of 64 KiB and NORMAL attribute in a tier (R90); a record never leaves HBM (R88). -/
def Device.movable (d : Device) (pte : Nat) : Bool :=
  bits pte 8 2 == 0 && bits pte 10 3 == 0 && tierOf pte != 3 && !(pte % 4 == 2 && d.inCrArea (bits pte 16 36))

/-- The leaf of a page that a CR lists, through the root captured at PARK (R104); none where the engine skips it. -/
def State.crLeaf (s : State) (c : Cr) (va : Nat) : Option Leaf :=
  if va / 2 ^ 52 ≠ 0 ∨ inWindow va then none
  else match s.walkFrom c.tenant va (c.root.toNat / 2 ^ 15 * 2 ^ 15) 3 with
    | .ok l => if s.dev.movable l.pte then some l else none
    | .error _ => none

/-- A leaf's present value at its home. -/
def State.pteAt (s : State) (ptea : Nat) : Nat := s.dev.mem.getNat ptea 8

/-- A leaf written by the engine. -/
def State.putPte (s : State) (ptea pte : Nat) : State := s.putMem peatAgent ptea (toBytes 8 pte)

/-- Entries of a leaf leave every TLB (R93 step 2). -/
def Device.dropTlb (d : Device) (ptea : Nat) : Device := { d with tlb := d.tlb.filter (·.ptea != ptea) }

/-- A store translated through the frame at `k`, or a copy command, is not done (R62, R93 step 2). -/
def State.frameBusy (s : State) (k : Nat) : Bool :=
  let inside (x : Nat) : Bool := decide (k ≤ x) && decide (x < k + frameSize)
  let through (m : Mapping) : Bool := decide (m.home < k + frameSize) && decide (k < m.home + m.size)
  s.harts.any (fun h => h.pendingParts.any fun p => inside p.key || through p.map) ||
  s.dev.cmds.any fun c => c.map.any through || c.lines.any fun x => inside (x.1 * 128)

/-- The synchronisation of step 2 is still to come for a leaf that names a frame. -/
def State.leafBusy (s : State) (l : Leaf) : Bool := l.pte % 4 == 2 && s.frameBusy (bits l.pte 16 36 * frameSize)

/-- A cleared in a leaf: an atomic AND, then step 2 (R93), which is done at once where no access translated through the
leaf is still to be performed. -/
def State.clearA (s : State) (ptea : Nat) : State :=
  let p := s.pteAt ptea
  let s := if bits p 6 1 = 1 then s.putPte ptea (putBits p 6 1 0) else s
  { s with dev := s.dev.dropTlb ptea }

/-! ### Continuation records (R89, R90) -/

def State.crHeader (s : State) (slot : Nat) : Nat := s.dev.mem.getNat (s.dev.crAddr slot) 64

/-- The range entries in use. -/
def State.crRanges (s : State) (slot : Nat) : List Nat :=
  (List.range (min (bits (s.crHeader slot) 224 8) 248)).map fun j => s.dev.mem.getNat (s.dev.crAddr slot + 128 + 16 * j) 16

/-- The check of a record (R102 status 3). -/
def State.crBad (s : State) (slot : Nat) : Bool :=
  let h := s.crHeader slot
  bits h 0 64 == 0 || decide (248 < bits h 224 8) || bits h 64 128 != 0 || bits h 202 6 != 0 || bits h 237 3 != 0 ||
  bits h 372 12 != 0 ||
  (s.crRanges slot).any fun e =>
    bits e 124 4 != 0 || bits e 96 16 != 0 || bits e 52 12 != 0 || bits e 0 16 != 0 || bits e 64 32 == 0 ||
    decide (2 ^ 36 < bits e 16 36 + bits e 64 32)

/-- The movable pages that a record lists: leaf, layer and address, in range and page order; a page may stand there
several times (R90). -/
def State.crListed (s : State) (c : Cr) : List (Nat × Nat × Nat) :=
  (s.crRanges c.slot).flatMap fun e =>
    (List.range (bits e 64 32)).filterMap fun p =>
      let va := (bits e 16 36 + p) * frameSize
      (s.crLeaf c va).map fun l => (l.ptea, bits e 112 12, va)

/-- Each leaf at its first place in a list. -/
def eachLeaf (l : List (Nat × Nat × Nat)) : List (Nat × Nat × Nat) :=
  l.foldl (fun acc x => if acc.any (·.1 == x.1) then acc else acc ++ [x]) []

/-- The movable pages of a record in range and page order, each leaf once, with the lowest layer that it is listed
under (R94, R96). -/
def State.crPages (s : State) (c : Cr) : List (Nat × Nat) :=
  let all := s.crListed c
  (eachLeaf all).map fun x => ((all.filter (·.1 == x.1)).foldl (fun n y => min n y.2.1) x.2.1, x.2.2)

/-- The movable pages of a record in the order of R96: by layer, within a layer as listed, each leaf once. -/
def State.crOrder (s : State) (c : Cr) : List (Nat × Nat) :=
  let byLayer (l : List (Nat × Nat × Nat)) (p : Nat × Nat × Nat) : List (Nat × Nat × Nat) :=
    (l.takeWhile (·.2.1 ≤ p.2.1)) ++ p :: l.dropWhile (·.2.1 ≤ p.2.1)
  (eachLeaf ((s.crListed c).foldl byLayer [])).map (·.2)

/-- TIER of a CR (R89). -/
def State.crTier (s : State) (c : Cr) : Nat :=
  c.pages.foldl (fun n p => match s.crLeaf c p.2 with | some l => max n (tierOf l.pte) | none => n) 0

/-- TIER kept as R89 says wherever a page has changed its tier: it is written at each change. In a FREE slot it stays as
it stood at CRFREE, the model's choice (notes/assumptions/67.md). -/
def State.retier (s : State) : State :=
  s.dev.crs.foldl (fun s c =>
    if c.st ≠ .free ∧ c.tier ≠ s.crTier c then s.putCr { c with tier := s.crTier c } else s) s

/-- Listed pages that are not in HBM. -/
def State.crAway (s : State) (c : Cr) : Nat :=
  (c.pages.filter fun p => match s.crLeaf c p.2 with | some l => tierOf l.pte != 0 | none => false).length

/-- A timer of `n` ms, armed at TIME `now`; 0xFFFF_FFFF arms none (R91, R94). -/
def dueAt (now : Nat) (n : BitVec 32) : Option Nat := if n = BitVec.allOnes 32 then none else some (now + n.toNat * ms)

/-- The wheel spans 4,096 ms. -/
def farAhead (now : Nat) : Option Nat → Bool
  | some t => decide (now + 4096 * ms ≤ t)
  | none => false

def State.armHbm (s : State) (c : Cr) : Cr :=
  let d := dueAt s.time (s.dev.tenant c.tenant).thbm
  { c with thbm := d, tcxl := none, overflow := farAhead s.time d }

def State.armCxl (s : State) (c : Cr) : Cr :=
  let d := dueAt s.time (s.dev.tenant c.tenant).tcxl
  { c with tcxl := d, thbm := none, overflow := farAhead s.time d }

/-- FAILED (R92): promotion stops, STG is cleared in every listed leaf when the CR was WAKING, Esmen reports. -/
def State.crFail (s : State) (c : Cr) : State :=
  let unstage (s : State) (p : Nat × Nat) : State :=
    match s.crLeaf c p.2 with
    | some l => if l.tiered ∧ bits l.pte 62 1 = 1 then s.putPte l.ptea (putBits l.pte 62 1 0) else s
    | none => s
  let s := if c.st = .waking then c.pages.foldl unstage s else s
  let s := s.putCr { c with st := .failed, todo := [], tier := s.crTier c }
  let rep : Report := { time := s.time, kind := 5, index := c.slot, queue := c.queue }
  { s with dev := s.dev.report c.tenant rep }

/-! ### Frames (R402) -/

/-- A free HBM frame of the tenant, within its extents. -/
def Device.hbmFrame (d : Device) (t : Nat) : Option Nat :=
  (d.tenant t).hbmFrames.find? fun f => d.grants t (f * frameSize) .amo

def Device.takeHbm (d : Device) (t f : Nat) : Device :=
  d.modTenant t fun x => { x with hbmFrames := x.hbmFrames.erase f, coldAsked := false }

/-- A freed place returns to the tenant's list of its tier. -/
def Device.giveFrame (d : Device) (t tier f : Nat) : Device :=
  d.modTenant t fun x => match tier with
    | 0 => { x with hbmFrames := x.hbmFrames ++ [f], coldAsked := false }
    | 1 => { x with cxlFrames := x.cxlFrames ++ [f] }
    | _ => { x with flashFree := x.flashFree ++ [f] }

/-- The tenant's coldest parked continuation: the one parked longest ago (R75, R402). -/
def Device.coldest (d : Device) (t : Nat) : Option Cr :=
  (d.crs.filter fun c => c.st == .parked && c.tenant == t && c.pass.isNone).foldl
    (fun best c => match best with
      | none => some c
      | some b => if c.ptime < b.ptime then some c else some b) none

/-- A demotion pass begins (R92): the timer is used up. -/
def Device.startPass (d : Device) (c : Cr) (flash : Bool) : Device :=
  d.setCr { c with pass := some (flash, c.pages), thbm := none, tcxl := none, overflow := false }

/-- Demotion of the tenant's coldest parked continuation, once for an empty list (R402). -/
def Device.demoteColdest (d : Device) (t : Nat) : Device :=
  match d.coldest t with
  | some c => d.startPass c false
  | none => d

/-- An empty HBM list starts one demotion. -/
def Device.hbmDry (d : Device) (t : Nat) : Device :=
  if (d.tenant t).coldAsked then d else (d.demoteColdest t).modTenant t fun x => { x with coldAsked := true }

/-! ### Moving a page (R93) -/

/-- Step 1 and the invalidation of step 2. -/
def Device.startMove (d : Device) (m : Move) : Device := { d with moves := d.moves ++ [m] }.dropTlb m.ptea

/-- Room in the move table. -/
def Device.moveRoom (d : Device) : Bool := decide (d.moves.length < 256)

def Device.endMove (d : Device) (ptea : Nat) : Device := { d with moves := d.moves.filter (·.ptea != ptea) }

/-- Location of the page's bytes, by tier and frame or handle. -/
def placeKey (tier f : Nat) : Nat := if tier = 2 then flashKey f else f * frameSize

/-- Bytes of one frame laid over another. -/
def Memory.copyFrame (m : Memory) (src dst : Nat) : Memory :=
  let clean := m.filter fun c => decide (c.1 < dst) || decide (dst + frameSize ≤ c.1)
  (m.filter fun c => decide (src ≤ c.1) && decide (c.1 < src + frameSize)).foldl
    (fun m c => m.set (c.1 - src + dst) c.2) clean

/-- Line numbers of a frame carried over to another. -/
def carryLines (src dst : Nat) (l : List Nat) : List Nat :=
  let lines := frameSize / 128
  let inside (b x : Nat) : Bool := decide (b / 128 ≤ x) && decide (x < b / 128 + lines)
  (l.filter fun x => !inside dst x) ++ (l.filter (inside src)).map fun x => x - src / 128 + dst / 128

/-- What elements have bound in one frame is followed to another, whose own bytes the copy has written (R268). -/
def Hart.carryBound (src dst : Nat) (h : Hart) : Hart :=
  let inside (k : Nat) : Bool := decide (src ≤ k) && decide (k < src + frameSize)
  let at' (k : Nat) : Nat := if inside k then k - src + dst else k
  let elem (b : BoundElem) : BoundElem :=
    { b with parts := b.parts.map fun p => (at' p.1, p.2), later := b.later.map at' }
  let h := h.noteLater peatAgent dst frameSize
  { h with ms := { h.ms with bound := h.ms.bound.map fun e => { e with elems := e.elems.map elem } } }

/-- The copy of step 3: contents, error records, bookkeeping of R65, monitored lines of both frames (R264, R297), what
loads have bound (R268), write watches (R351). -/
def State.copyPage (s : State) (src dst : Nat) : State :=
  let d := s.dev
  let d := { d with mem := d.mem.copyFrame src dst }.clearErr dst frameSize
  let moved := (s.dev.errs.filter fun e => decide (src ≤ e.1) && decide (e.1 < src + frameSize)).map
    fun e => (e.1 - src + dst, e.2)
  let d := { d with
    errs := (d.errs.filter fun e => decide (e.1 + e.2 ≤ dst) || decide (dst + frameSize ≤ e.1)) ++ moved
    kvLines := carryLines src dst d.kvLines
    kvForeign := carryLines src dst d.kvForeign }
  let follow (h : Hart) : Hart := match h.sy.mon with
    | some k => if src ≤ k ∧ k < src + frameSize then
        { h with sy := { h.sy with mon := some (k - src + dst), evt := true } }
      else if dst ≤ k ∧ k < dst + frameSize then { h with sy := { h.sy with evt := true } }
      else h
    | none => h
  let s := { s with dev := d }.mapHarts fun h => follow (h.carryBound src dst)
  let lines := ((s.dev.writeWatch.map fun w => w.pa.toNat / 128 * 128).eraseDups).filter fun k =>
    decide (dst ≤ k) && decide (k < dst + frameSize)
  lines.foldl (fun s k => s.watchWrite peatAgent k 128) s

/-- The new leaf (R93 step 4): D, A, X, W, Y, G, ATTR and SW as they were, STG and FAIL 0. -/
def newLeaf (pte tier f : Nat) : Nat :=
  bits pte 52 9 * 2 ^ 52 + f % 2 ^ 36 * 2 ^ 16 + bits pte 2 14 * 4 + (if tier = 2 then 3 else 2)

/-- Steps 2 to 5 of a move whose stores are done; none while they are not. -/
def State.finishMove (s : State) (m : Move) : Option State :=
  let p := s.pteAt m.ptea
  let f := bits p 16 36
  let from' := tierOf p
  if p % 4 < 2 then some { s with dev := (s.dev.endMove m.ptea).giveFrame m.tenant m.tier m.dest }
  else if p % 4 = 2 ∧ s.frameBusy (f * frameSize) = true then none
  else
    let s := s.copyPage (placeKey from' f) (placeKey m.tier m.dest)
    let s := s.putPte m.ptea (newLeaf p m.tier m.dest)
    let d := (s.dev.endMove m.ptea)
    let d := match m.expert with
      | some o => { d with experts := d.experts ++
          [{ tenant := m.tenant, ptea := m.ptea, cxlFrame := f, hbmFrame := m.dest, order := o }] }
      | none => d.giveFrame m.tenant from' f
    some { s with dev := d }.retier

/-- Demotion of a page: to CXL or to flash; it fails where the tenant has no place (R98, R402). -/
def State.demote (s : State) (c : Cr) (flash : Bool) (l : Leaf) : State :=
  let t := s.dev.tenant c.tenant
  let free := if flash then t.flashFree.head? else t.cxlFrames.find? fun f => s.dev.grants c.tenant (f * frameSize) .amo
  match free with
  | none => { s with dev := s.dev.modTenant c.tenant fun x => { x with wrej := satInc x.wrej } }
  | some f =>
    let d := s.dev.modTenant c.tenant fun x =>
      if flash then { x with flashFree := x.flashFree.erase f } else { x with cxlFrames := x.cxlFrames.erase f }
    let m : Move := { ptea := l.ptea, tenant := c.tenant, tier := if flash then 2 else 1, dest := f, slot := some c.slot }
    { s with dev := d.startMove m }

/-- Promotion of a page begins, when a frame and room are there; none while they are not. -/
def State.promoteLeaf (s : State) (t ptea : Nat) (slot : Option Nat) (extra : Bool) : Option State :=
  if !s.dev.moveRoom then none
  else match s.dev.hbmFrame t with
    | none => none
    | some f =>
      let m : Move := { ptea := ptea, tenant := t, tier := 0, dest := f, slot := slot, extra := extra }
      some { s with dev := (s.dev.takeHbm t f).startMove m }

/-! ### Ageing (R92, R94) -/

/-- A demotion pass visits its next page, or ends; none while the page in flight is not done. -/
def State.passStep (s : State) (c : Cr) : Option State :=
  match c.pass with
  | none => none
  | some (flash, pages) =>
    if s.dev.moves.any fun m => m.slot == some c.slot && m.tier != 0 then none
    else match pages with
      | [] =>
        let left := c.pages.filterMap fun p => (s.crLeaf c p.2).map fun l => tierOf l.pte
        let c1 := { c with pass := none, tier := s.crTier c }
        let c2 := if !flash then (if left.contains 0 then s.armHbm c1 else s.armCxl c1)
          else if left.contains 1 then s.armCxl c1 else c1
        some (s.putCr c2)
      | p :: r =>
        let s1 := { s with dev := s.dev.setCr { c with pass := some (flash, r) } }
        match s.crLeaf c p.2 with
        | none => some s1
        | some l =>
          if tierOf l.pte ≠ (if flash then 1 else 0) ∨ s.dev.moves.any (·.ptea == l.ptea) = true then some s1
          else if bits l.pte 6 1 = 1 then (if s.leafBusy l then none else some (s1.clearA l.ptea))
          else if !s.dev.moveRoom then none
          else some (s1.demote c flash l)

/-- A timer of a parked CR that is due (R94). -/
def Cr.due (c : Cr) (flash : Bool) (now : Nat) : Bool :=
  c.st == .parked && c.pass.isNone &&
  (match (if flash then c.tcxl else c.thbm) with | some t => decide (t ≤ now) | none => false)

/-- Overflow entries that come within 4,096 ms move into their buckets (R94). -/
def Device.wheelTick (d : Device) (now : Nat) : Device :=
  { d with crs := d.crs.map fun c =>
      { c with overflow := c.overflow && (farAhead now c.thbm || farAhead now c.tcxl) } }

/-! ### Waking (R96, R97, R318) -/

/-- Steps 1 and 2 of R96: STG in the listed T = 3 leaves, and the check of the record as it stands. -/
def State.stage (s : State) (c : Cr) : Option State :=
  if c.st ≠ .waking ∨ c.staged then none
  else if s.dev.moves.any fun m => m.slot == some c.slot && m.tier != 0 then none
  else
    let ps := s.crPages c
    let c := { c with pages := ps, todo := s.crOrder c, staged := true }
    let c := { c with tier := s.crTier c }
    let mark (s : State) (p : Nat × Nat) : State := match s.crLeaf c p.2 with
      | some l => if l.tiered then s.putPte l.ptea (putBits l.pte 62 1 1) else s
      | none => s
    let s := ps.foldl mark s
    if s.crBad c.slot then some (s.crFail c) else some (s.putCr c)

/-- Pages of the CR in flight, requests of R97 apart or alone. -/
def Device.flight (d : Device) (slot : Nat) (extra : Bool) : Nat :=
  (d.moves.filter fun m => m.slot == some slot && m.tier == 0 && m.extra == extra).length

/-- A page of the CR has failed (R92, R98). -/
def State.pageFails (s : State) (c : Cr) : State :=
  if c.st = .waking then s.crFail c else { s with dev := s.dev.setCr { c with pageFailed := true } }

/-- The first page in the order of R96 that is not in HBM and not moving; pages already resident leave the list. -/
def State.nextPage (s : State) (c : Cr) : List (Nat × Nat) → Option (Nat × Nat) × List (Nat × Nat)
  | [] => (none, [])
  | p :: r => match s.crLeaf c p.2 with
    | none => s.nextPage c r
    | some l =>
      if tierOf l.pte = 0 then s.nextPage c r
      else if s.dev.moves.any (·.ptea == l.ptea) then
        let (x, k) := s.nextPage c r
        (x, p :: k)
      else (some p, p :: r)

/-- The engine issues the next promotion of a CR; none when it can do nothing. -/
def State.issueNext (s : State) (c : Cr) : Option State :=
  if !(c.st == .waking || c.st == .launched) || !c.staged then none
  else
    let (next, todo) := s.nextPage c c.todo
    match next with
    | none => if todo = c.todo then none else some { s with dev := s.dev.setCr { c with todo := todo } }
    | some p => match s.crLeaf c p.2 with
      | none => none
      | some l =>
        if bits l.pte 61 1 = 1 ∧ l.tiered then some (s.pageFails { c with todo := todo.erase p })
        else if 4 ≤ s.dev.flight c.slot false then none
        else match s.promoteLeaf c.tenant l.ptea (some c.slot) false with
          | some s' => some { s' with dev := s'.dev.setCr { c with todo := todo.erase p } }
          | none => none

/-- The restart depth of a CR (R91, R96). -/
def State.crDepth (s : State) (c : Cr) : Nat :=
  let d := bits (s.crHeader c.slot) 216 8
  if d = 0 then (s.dev.tenant c.tenant).rdepth.toNat else d

/-- Every listed page of the layers below the restart depth is in HBM. -/
def State.depthResident (s : State) (c : Cr) : Bool :=
  c.pages.all fun p => decide (s.crDepth c ≤ p.1) || (match s.crLeaf c p.2 with | some l => tierOf l.pte == 0 | none => true)

/-- RELAUNCH_SUBMIT (R318): the start record goes to QUEUE, the CR becomes LAUNCHED or FAILED; none while it waits. The
record is bytes 64-127 as they stand now: R90 does not say whether the engine submits what it read at the wake
(notes/assumptions/59.md). -/
def State.relaunch (s : State) (c : Cr) : Option State :=
  if c.st ≠ .waking ∨ !c.staged ∨ !s.depthResident c then none
  else
    match s.submit peatAgent c.queue (s.dev.mem.getNat (s.dev.crAddr c.slot + 64) 64) c.tenant (some (c.root, c.asid)) with
    | .written _ s' => some (s'.putCr { c with st := .launched })
    | .refused 2 => none
    | .refused _ => some (s.crFail c)
    | .waits => none

/-- The last listed page is resident (R92). -/
def State.settleCr (s : State) (c : Cr) : Option State :=
  if c.st = .launched ∧ c.todo = [] ∧ s.dev.flight c.slot false = 0 ∧ s.dev.flight c.slot true = 0 then
    if c.pageFailed then some (s.crFail c) else some (s.putCr { c with st := .open, tier := s.crTier c })
  else none

/-! ### Requests (R57, R97, R99) -/

/-- Pages that the tenant's expert cache may hold. -/
def Tenant.expertPages (t : Tenant) : Nat := t.excap.toNat * 16384

/-- Pages of the tenant's expert cache, those on their way too. -/
def Device.expertCount (d : Device) (t : Nat) : Nat :=
  (d.experts.filter (·.tenant == t)).length + (d.moves.filter fun m => m.tenant == t && m.expert.isSome).length

/-- A cached page leaves the cache: its leaf names its CXL frame again, with no copy (R99). -/
def State.evictPage (s : State) (e : ExpertPage) : State :=
  let p := s.pteAt e.ptea
  let s1 := if p % 4 = 2 ∧ bits p 16 36 = e.hbmFrame then
      let s := s.putPte e.ptea (newLeaf p 1 e.cxlFrame)
      { s with dev := (s.dev.dropTlb e.ptea).giveFrame e.tenant 0 e.hbmFrame }.retier
    else s
  { s1 with dev := { s1.dev with experts := s1.dev.experts.erase e } }

/-- The least recently promoted region among a tenant's cached pages, by the number of the PROMOTE that named it last.
-/
def Device.oldestRegion (d : Device) (t : Nat) : Option Nat :=
  (d.experts.filter (·.tenant == t)).foldl (fun (best : Option Nat) e => some (min e.order (best.getD e.order))) none

def State.evictRegion (s : State) (t order : Nat) : State :=
  (s.dev.experts.filter fun e => e.tenant == t && e.order == order).foldl State.evictPage s

/-- Promotion of a page of region `o` into the expert cache; none while it waits for room. A request for which the full
cache holds no region promoted less recently than its own is dropped, the model's choice (notes/assumptions/66.md). -/
def State.cachePage (s : State) (r : PromReq) (o : Nat) : Option State :=
  let done : State := { s with dev := { s.dev with proms := s.dev.proms.erase r } }
  let p := s.pteAt r.ptea
  let t := s.dev.tenant r.tenant
  if p % 4 ≠ 2 ∨ !s.dev.movable p ∨ tierOf p ≠ 1 ∨ bits p 3 1 = 1 ∨ !s.dev.grants r.tenant (bits p 16 36 * frameSize) .load
      ∨ s.dev.moves.any (·.ptea == r.ptea) = true ∨ t.expertPages = 0
  then some done
  else if t.expertPages ≤ s.dev.expertCount r.tenant then
    match (s.dev.oldestRegion r.tenant).filter (· < o) with
    | some x => some (s.evictRegion r.tenant x)
    | none => some done
  else if !s.dev.moveRoom then none
  else match s.dev.hbmFrame r.tenant with
    | none => none
    | some f =>
      let m : Move := { ptea := r.ptea, tenant := r.tenant, tier := 0, dest := f, expert := some o }
      some { done with dev := (done.dev.takeHbm r.tenant f).startMove m }

/-- The CR that is waking or launched and has still to promote the leaf (R97). -/
def State.crWith (s : State) (t ptea : Nat) : Option (Cr × (Nat × Nat)) :=
  s.dev.crs.findSome? fun c =>
    if (c.st == .waking || c.st == .launched) && c.tenant == t then
      (c.todo.find? fun p => match s.crLeaf c p.2 with | some l => l.ptea == ptea | none => false).map fun p => (c, p)
    else none

/-- The engine takes up a request; none while it waits. -/
def State.takeRequest (s : State) (r : PromReq) : Option State :=
  match r.region with
  | some o => s.cachePage r o
  | none =>
    let done (s : State) : State := { s with dev := { s.dev with proms := s.dev.proms.erase r } }
    let p := s.pteAt r.ptea
    if p % 4 ≠ 3 ∨ bits p 61 1 = 1 ∨ s.dev.moves.any (·.ptea == r.ptea) = true then some (done s)
    else match s.crWith r.tenant r.ptea with
      | some (c, pg) =>
        if 4 ≤ s.dev.flight c.slot true then none
        else (s.promoteLeaf r.tenant r.ptea (some c.slot) true).map fun s' =>
          done { s' with dev := s'.dev.setCr { c with todo := c.todo.erase pg } }
      | none => (s.promoteLeaf r.tenant r.ptea none false).map done

/-- A tenant whose promotions wait for a frame: its HBM list is empty (R402). -/
def State.drySeek (s : State) : Option State :=
  let waits (t : Nat) : Bool := (s.dev.hbmFrame t).isNone && !(s.dev.tenant t).coldAsked
  let wanting := (s.dev.proms.map (·.tenant)) ++
    (s.dev.crs.filter fun c => c.staged && (c.st == .waking || c.st == .launched) && c.todo != []).map (·.tenant)
  (wanting.find? waits).map fun t => { s with dev := s.dev.hbmDry t }

/-! ### The engine by itself -/

/-- Something a CR does by itself. -/
def State.crStep (s : State) (c : Cr) : Option State :=
  match s.stage c with
  | some s' => some s'
  | none => match s.passStep c with
    | some s' => some s'
    | none => match s.issueNext c with
      | some s' => some s'
      | none => match s.relaunch c with
        | some s' => some s'
        | none => match s.settleCr c with
          | some s' => some s'
          | none =>
            if c.due false s.time then some { s with dev := s.dev.startPass c false }
            else if c.due true s.time then some { s with dev := s.dev.startPass c true }
            else none

/-- One thing that the engine does when nothing delays it. -/
def State.peatStep (s : State) : Option State :=
  match s.dev.moves.findSome? s.finishMove with
  | some s' => some s'
  | none => match s.dev.crs.findSome? s.crStep with
    | some s' => some s'
    | none => match s.dev.proms.findSome? s.takeRequest with
      | some s' => some s'
      | none => s.drySeek

/-- Bound on what the engine does in one step of the machine. -/
def Device.peatWork (d : Device) : Nat :=
  16 + 4 * (d.moves.length + d.proms.length) +
  d.crs.foldl (fun n c => n + 16 + 4 * (c.pages.length + c.todo.length)) 0

def State.runPeat (s : State) : State := repeatStep State.peatStep s.dev.peatWork s

/-! ### Events of the engine -/

/-- A parked CR's timer expires (R92). -/
def State.expire (s : State) (slot : Nat) (flash : Bool) : State :=
  let c := s.dev.cr slot
  if c.due flash s.time then { s with dev := s.dev.startPass c flash } else s

/-- T_HBM_EXPIRY (R92). -/
def execTHbmExpiry (slot : Nat) (s : State) : Host.Outcome State Fault Refusal := .next (s.expire slot false)
/-- T_CXL_EXPIRY (R92). -/
def execTCxlExpiry (slot : Nat) (s : State) : Host.Outcome State Fault Refusal := .next (s.expire slot true)
/-- TIMER_WHEEL_TICK (R94). -/
def execTimerWheelTick (s : State) : Host.Outcome State Fault Refusal :=
  .next { s with dev := s.dev.wheelTick s.time }

/-- PAGE_MOVE (R93): the move of the leaf at `ptea` ends, once the stores translated through the old frame are done. -/
def execPageMove (ptea : Nat) (s : State) : Host.Outcome State Fault Refusal :=
  .next (((s.dev.moves.find? (·.ptea == ptea)).bind s.finishMove).getD s)

/-- PROMOTION_FAIL (R98): FAIL in the T = 3 leaf; the CR that the page belongs to follows R92. -/
def execPromotionFail (ptea : Nat) (s : State) : Host.Outcome State Fault Refusal :=
  .next (match s.dev.moves.find? fun m => m.ptea == ptea && m.tier == 0 with
    | none => s
    | some m =>
      let p := s.pteAt ptea
      if p % 4 ≠ 3 then s
      else
        let s1 := { s with dev := (s.dev.endMove ptea).giveFrame m.tenant 0 m.dest }.putPte ptea (putBits p 61 1 1)
        match m.slot with
        | some c => if (s1.dev.cr c).st = .waking ∨ (s1.dev.cr c).st = .launched then s1.pageFails (s1.dev.cr c) else s1
        | none => s1)

/-- DEMOTION_FAIL (R98): the page stays, and WREJ counts. -/
def execDemotionFail (ptea : Nat) (s : State) : Host.Outcome State Fault Refusal :=
  .next (match s.dev.moves.find? fun m => m.ptea == ptea && m.tier != 0 with
    | none => s
    | some m =>
      let d := (s.dev.endMove ptea).giveFrame m.tenant m.tier m.dest
      { s with dev := d.modTenant m.tenant fun x => { x with wrej := satInc x.wrej } })

/-- RELAUNCH_SUBMIT (R318). -/
def execRelaunchSubmit (slot : Nat) (s : State) : Host.Outcome State Fault Refusal :=
  .next ((s.relaunch (s.dev.cr slot)).getD s)

/-- WAKE_WRITE (R95, R362): a wake write from a source outside the device, dropped where its extents refuse it. -/
def execWakeWrite (src slot : Nat) (v : Word) (s : State) : Host.Outcome State Fault Refusal :=
  .next (if slot < 65536 ∧ s.dev.grants src (drBase + 0x10000000000 + slot * 8) .store then s.wakeWrite slot v else s)

/-- TIERWAIT (R57): the promotion wait of hart `rank` of a gang has lasted 10 ms. -/
def tierTimeout (s : State) : State :=
  match s.h.sy.tierAsk with
  | none => s
  | some (el, va, ptea) =>
    let p := s.pteAt ptea
    match s.h.sy.tierClock.find? (·.1 == ptea) with
    | some (_, t0) =>
      if p % 4 = 3 ∧ bits p 62 1 = 0 ∧ t0 + tierLimit ≤ s.time ∧ s.h.runs = true then
        (takeTrap .tierwait el (BitVec.ofNat 64 va) s).endStep s.h.pc s.h.handler
      else s
    | none => s

def execTierwait (gang rank : Nat) (s : State) : Host.Outcome State Fault Refusal :=
  .next (s.withHart ⟨gang, rank⟩ tierTimeout)

end Sys2Proof.Machine
end

