-- ==== Sys2Proof/Machine/Sched.lean ====
section
/-! DEFINITION. The SCHED instructions (R312-R317): LAUNCH, GBAR, SIGNAL, WAITGE, HEND. -/

namespace Sys2Proof.Machine

/-- LAUNCH (R313); a refused one raises a held failure too (R342). -/
def launch (d a b : Reg) : M Unit := do
  noStrip
  let va := (← readX a).toNat
  if va % 64 ≠ 0 then trap .misalign 0 (BitVec.ofNat 64 va)
  let rec' ← loadNat 0 va 64 false
  let q := (← readX b).toNat
  let s ← get
  match s.submit (hartAgent s.h) q rec' s.h.id.tenant none with
  | .refused c =>
    raiseFabric
    writeX d (BitVec.ofNat 64 (2 ^ 63 + c))
    retire 4
  | _ =>
    releaseWait 4
    raiseFabric
    let s ← get
    match s.submit (hartAgent s.h) q rec' s.h.id.tenant none with
    | .refused c =>
      writeX d (BitVec.ofNat 64 (2 ^ 63 + c))
      retire 4
    | .waits => wait .ownership
    | .written i s' =>
      set s'
      writeX d (BitVec.ofNat 64 i)
      retire 4

/-- A hart that still counts for a barrier of gang `g`: not ended. -/
def Hart.live (g : BitVec 16) (h : Hart) : Bool := h.id.gang == g && h.status != .vacant && h.status != .ended

/-- A hart has arrived at barrier generation `n`, or has passed it. -/
def Hart.reachedBar (n : Nat) (h : Hart) : Bool := decide (n < h.sy.barGen) || (h.sy.barGen == n && h.sy.arrived)

/-- GBAR (R314): arrival once the store queue is empty, completion once every live hart has arrived; an acquire. -/
def gbar : M Unit := do
  noStrip
  if !(← getH).sy.arrived then
    flushStores
    modH fun h => { h with sy := { h.sy with arrived := true } }
  let s ← get
  let n := s.h.sy.barGen
  if s.harts.any fun h => h.live s.h.id.gang && !h.reachedBar n then wait .event
  modH fun h => { h with sy := { h.sy with barGen := n + 1, arrived := false } }
  acquire
  retire 4

/-- WAITGE (R316). The wait between two reads ends with EVT or at the deadline. -/
def waitGe (d a b c : Reg) : M Unit := do
  noStrip
  let s ← get
  let va := (← readX a).toNat
  if va % 8 ≠ 0 then trap .misalign 0 (BitVec.ofNat 64 va)
  let dl := (← readX c).toNat
  let late := dl != 0 && decide (dl ≤ s.time)
  let me : PendWait := ⟨s.h.pc, true, d, a, b, c⟩
  if s.h.sy.pendWait = some me then
    if !s.h.sy.evt && !late then wait .event
    modH fun h => { h with sy := { h.sy with evt := false, pendWait := none } }
  let (bs, k) ← loadPlaced 0 va 8 false
  acquire
  modH fun h => { h with sy := { h.sy with mon := some (k / 128 * 128), monAddr := BitVec.ofNat 52 va } }
  let v := ofBytes bs
  if v < (← readX b).toNat && !late then
    modH fun h => { h with sy := { h.sy with pendWait := some me } }
    wait .event
  writeX d (BitVec.ofNat 64 v)
  retire 4

/-- Every hart of the gang has ended. -/
def State.gangDone (s : State) (g : BitVec 16) : Bool := !s.harts.any (·.live g)

/-- The hart ends; with the last one the gang ends, and its completion add is to be made with this hart's translation
(R311, R317). -/
def State.endHart (s : State) : State :=
  let g := s.h.id.gang
  let s1 : State := { s with h := { s.h with status := .ended } }
  if s1.gangDone g then
    let fin (x : Gang) : Gang :=
      { x with
        ending := some true
        endRoot := s.h.hr.ptroot
        endAsid := s.h.hr.asid
        endHart := s.h.id.hartid }
    { s1 with dev := { s1.dev with gangs := s1.dev.gangs.map fun x => if x.id = g.toNat then fin x else x } }
  else s1

/-- HEND (R317). -/
def hend : M Unit := do
  noStrip
  flushStores
  let s ← get
  if (List.range 4).any fun e => s.doneSeq s.h e != (s.h.sy.cseq[Fin.ofNat 4 e]).toNat then wait .memory
  raiseFabric
  modify State.endHart

/-- The deadline of the WAIT or WAITGE that the hart is in has passed. -/
def State.deadlineDue (s : State) : Option PendWait :=
  match s.h.sy.pendWait with
  | none => none
  | some p =>
    let dl := (s.h.getX (if p.ge then p.c else p.a)).toNat
    if p.pc = s.h.pc ∧ dl ≠ 0 ∧ dl ≤ s.time then some p else none

def execLaunch (d a b : Reg) (s : State) : Host.Outcome State Fault Refusal := runM (launch d a b) s
def execGbar (s : State) : Host.Outcome State Fault Refusal := runM gbar s
def execSignal (a b : Reg) (s : State) : Host.Outcome State Fault Refusal :=
  runM (atomic 0 a b true false 4 true false addW) s
def execWaitge (d a b c : Reg) (s : State) : Host.Outcome State Fault Refusal := runM (waitGe d a b c) s
def execHend (s : State) : Host.Outcome State Fault Refusal := runM hend s

end Sys2Proof.Machine
end

