-- ==== Sys2Proof/Machine/Points.lean ====
section
/-! DEFINITION. Events of a hart (R260, R297, R332, R333) and failing parts (R340-R342). -/

namespace Sys2Proof.Machine

/-! ### Interrupts and waits -/

/-- An interrupt that is pending and may be taken is taken at the point where the hart stands, behind a debug halt and
a pre-emption (R332). -/
def State.interrupt (code : BitVec 8) (pending : State → Bool) (s : State) : State :=
  let stop := (s.dev.gangs.find? (·.id == s.h.id.gang.toNat)).any (·.stopReq.isSome)
  if s.h.runs && s.h.db.haltReq.isNone && !stop && s.mayInterrupt && pending s then
    State.endStep s.h.pc s.h.handler (takeInterrupt code (s.dropMask.endStall s.h.pc))
  else s

/-- TIMER_INTERRUPT (R331, R332). -/
def execTimerInterrupt (gang rank : Nat) (s : State) : Host.Outcome State Fault Refusal :=
  .next (s.withHart ⟨gang, rank⟩ (State.interrupt 1 State.tip))

/-- DOORBELL_INTERRUPT (R332): behind the timer. -/
def execDoorbellInterrupt (gang rank : Nat) (s : State) : Host.Outcome State Fault Refusal :=
  .next (s.withHart ⟨gang, rank⟩ (State.interrupt 2 fun s => s.h.hr.hstat.dip && !s.tip))

/-- HOLD_EXPIRY (R260): the hold on interrupts ends at its cycle. -/
def State.expireHold (s : State) : State :=
  match s.h.ms.hold with
  | some c => if c ≤ s.cycle then { s with h := { s.h with ms := { s.h.ms with hold := none } } } else s
  | none => s

def execHoldExpiry (gang rank : Nat) (s : State) : Host.Outcome State Fault Refusal :=
  .next (s.withHart ⟨gang, rank⟩ State.expireHold)

/-- The state after something that a hart does, whatever ends it. -/
def State.after (m : M Unit) (s : State) : State :=
  match runM m s with
  | .next t => t
  | _ => s

/-- WAIT_DEADLINE (R297, R316): a WAIT or WAITGE whose deadline has passed. -/
def State.passDeadline (s : State) : State :=
  match (if s.h.runs then s.deadlineDue else none) with
  | some p =>
    let m := if p.ge then waitGe p.d p.a p.b p.c else waitEvent p.d p.a
    State.endStep s.h.pc s.h.handler ((s.after m).endOfInstr s.h.pc)
  | none => s

def execWaitDeadline (gang rank : Nat) (s : State) : Host.Outcome State Fault Refusal :=
  .next (s.withHart ⟨gang, rank⟩ State.passDeadline)

/-! ### Errors (R340) -/

/-- A failed byte of a vector register. -/
def Hart.failReg (r b : Nat) (h : Hart) : Hart :=
  let x := h.v[vreg r]
  { h with v := h.v.set (vreg r) { x with err := b :: x.err } }

def Hart.failTile (t e : Nat) (h : Hart) : Hart :=
  let k : Tile := Fin.ofNat 4 t
  let x := h.t.tile[k]
  { h with t := { h.t with tile := h.t.tile.set k { x with err := e :: x.err } } }

def Hart.failLatch (l b : Nat) (h : Hart) : Hart :=
  let k : Latch := Fin.ofNat 2 l
  { h with t := { h.t with latchErr := h.t.latchErr.set k (b :: h.t.latchErr[k]) } }

def State.atHart (s : State) (gang rank : Nat) (f : Hart → Hart) : State :=
  s.withHart ⟨gang, rank⟩ fun s => { s with h := f s.h }

/-- UNCORRECTABLE_ERROR (R340): recorded at the storage that holds it. -/
def execUncorrectableError (p : Storage) (s : State) : Host.Outcome State Fault Refusal :=
  .next (match p with
    | .bytes key n => if n = 0 then s else { s with dev := { s.dev with errs := (key, n) :: s.dev.errs } }
    | .reg g k r b => s.atHart g k (Hart.failReg r b)
    | .tile g k t e => s.atHart g k (Hart.failTile t e)
    | .latch g k l b => s.atHart g k (Hart.failLatch l b))

/-- Counts one more error at a place. -/
def countAt (p : Place) : List (Place × Nat) → List (Place × Nat)
  | [] => [(p, 1)]
  | (q, n) :: r => if q = p then (q, n + 1) :: r else (q, n) :: countAt p r

/-- CORRECTED_ERROR (R338, R340, R341): counted toward its threshold; it changes no value. -/
def execCorrectedError (p : Place) (s : State) : Host.Outcome State Fault Refusal :=
  .next { s with dev := { s.dev with corrected := countAt p s.dev.corrected } }

/-! ### Sparing (R341) -/

/-- A leaf that maps a 64 KiB page onto a frame. -/
def State.mapsFrame (s : State) (f ptea : Nat) : Bool :=
  let p := s.pteAt ptea
  p % 4 == 2 && bits p 8 2 == 0 && bits p 16 36 == f

/-- HBM_FRAME_RETIREMENT (R341): the frame's page moves to `dest` under the steps of R93, in every leaf that maps it,
and the frame is never used again. The move waits as R93 says; until then nothing changes. -/
def execHbmFrameRetirement (frame dest : Nat) (leaves : List Nat) (s : State) : Host.Outcome State Fault Refusal :=
  .next (
    let k := frame * frameSize
    if regionOf k ≠ .hbm ∨ regionOf (dest * frameSize) ≠ .hbm ∨ frame = dest ∨ s.frameBusy k = true ∨
        s.dev.inCrArea frame = true ∨ s.dev.inCrArea dest = true ∨
        leaves.all (s.mapsFrame frame) = false ∨ leaves.any (fun p => s.dev.moves.any (·.ptea == p)) = true then s
    else
      let s1 := if leaves = [] then s else s.copyPage k (dest * frameSize)
      let s2 := leaves.foldl (fun s p =>
        let t := s.putPte p (putBits (s.pteAt p) 16 36 dest)
        { t with dev := t.dev.dropTlb p }) s1
      let drop (t : Tenant) : Tenant := { t with hbmFrames := t.hbmFrames.filter (· != frame) }
      { s2 with dev := { s2.dev with
        retiredFrames := frame :: s2.dev.retiredFrames
        tenants := s2.dev.tenants.map drop } })

/-- L2_WAY_DISABLE (R341): dirty lines are written back, so no value changes; the capacity falls. -/
def execL2WayDisable (die slice way : Nat) (s : State) : Host.Outcome State Fault Refusal :=
  let off (p : DieParts) : DieParts := if p.die = die then { p with l2off := (slice, way) :: p.l2off } else p
  .next { s with dev := { s.dev with parts := s.dev.parts.map off } }

/-! ### Links (R342) -/

/-- LINK_FAILURE: a link at reduced width, a link whose traffic the others take over, or the loss of the last link to a
device, whose accesses complete with MCHECK from then on (R48); or the next access toward the device fails after the
link's retries. -/
def execLinkFailure (dev : Nat) (loss : LinkLoss) (s : State) : Host.Outcome State Fault Refusal :=
  let d := s.dev
  .next (match loss with
    | .lanes l => { s with dev := { d with
        links := d.links.set l .reduced
        linkSlow := dev :: d.linkSlow.filter (· != dev) } }
    | .one l => { s with dev := { d with links := d.links.set l .removed } }
    | .last l => { s with dev := { d with
        links := d.links.set l .removed
        linkDown := dev :: d.linkDown.filter (· != dev) } }
    | .access => { s with dev := { d with failNext := d.failNext ++ [dev] } })

end Sys2Proof.Machine
end

