-- ==== Sys2Proof/Machine/Control.lean ====
section
/-! DEFINITION. Branches and jumps (R28, R290) and the loop buffer (R291, R292). -/

namespace Sys2Proof.Machine

/-- The address of the instruction plus a displacement. -/
def State.target (s : State) (disp : BitVec 52) : Word := s.h.pc.setWidth 64 + disp.signExtend 64

/-- A conditional branch of `len` bytes (R290). -/
def State.branch (s : State) (taken : Bool) (disp : BitVec 52) (len : Nat) : State :=
  if taken then s.jump (s.target disp) else s.advance len

/-- A jump that writes the address after it first (R290). -/
def State.link (s : State) (d : Reg) (t : Word) (len : Nat) : State :=
  (s.setX d (s.h.pc.setWidth 64 + BitVec.ofNat 64 len)).jump t

/-- JALR (R290): the target is computed first; an odd one raises MISALIGN with rd unchanged (R24). -/
def jumpReg (d a : Reg) (disp : Word) (len : Nat) : M Unit := do
  let t := (← readX a) + disp
  if t.getLsbD 0 then trap .misalign 0 t
  modify fun s => s.link d t len

/-- The words of `n` instructions from `a` on, with the address after the last (R291). -/
def captureFrom : Nat → Nat → M (List (BitVec 52 × Nat) × Nat)
  | 0, a => return ([], a)
  | n + 1, a => do
    let w ← fetchWord 0 a
    let (r, fin) ← captureFrom n (a + lengthOf w)
    return ((BitVec.ofNat 52 a, w) :: r, fin)

/-- SLOOP (R291, R292). -/
def sloop (a : Reg) (n : Nat) : M Unit := do
  let h ← getH
  if h.inLoop h.pc then trapInstr .illegal
  if h.ms.strip.isSome then trapInstr .stripop
  let start := h.pc.toNat + 4
  let (body, fin) ← captureFrom (n + 1) start
  let x ← readX a
  if a ≠ 0 ∧ x = 0 then modify fun s => s.jump (BitVec.ofNat 64 fin)
  else modH fun h =>
    { h with
      pc := BitVec.ofNat 52 start
      lp := {
        active := true
        start := BitVec.ofNat 52 start
        fin := BitVec.ofNat 52 fin
        count := if a = 0 then none else some x.toNat
        body := body } }

def execBeq (a b : Reg) (i : BitVec 12) (s : State) : Host.Outcome State Fault Refusal :=
  .next (s.branch (s.getX a == s.getX b) (disp2 i) 4)
def execBne (a b : Reg) (i : BitVec 12) (s : State) : Host.Outcome State Fault Refusal :=
  .next (s.branch (s.getX a != s.getX b) (disp2 i) 4)
def execBltS (a b : Reg) (i : BitVec 12) (s : State) : Host.Outcome State Fault Refusal :=
  .next (s.branch ((s.getX a).slt (s.getX b)) (disp2 i) 4)
def execBgeS (a b : Reg) (i : BitVec 12) (s : State) : Host.Outcome State Fault Refusal :=
  .next (s.branch ((s.getX b).sle (s.getX a)) (disp2 i) 4)
def execBltZ (a b : Reg) (i : BitVec 12) (s : State) : Host.Outcome State Fault Refusal :=
  .next (s.branch ((s.getX a).ult (s.getX b)) (disp2 i) 4)
def execBgeZ (a b : Reg) (i : BitVec 12) (s : State) : Host.Outcome State Fault Refusal :=
  .next (s.branch ((s.getX b).ule (s.getX a)) (disp2 i) 4)
def execJal (d : Reg) (i : BitVec 20) (s : State) : Host.Outcome State Fault Refusal :=
  .next (s.link d (s.target (disp2 i)) 4)
def execJalr (d a : Reg) (i : BitVec 15) (s : State) : Host.Outcome State Fault Refusal :=
  runM (jumpReg d a (immWord i) 4) s
def execJalrPxi (d a : Reg) (i : BitVec 41) (s : State) : Host.Outcome State Fault Refusal :=
  runM (jumpReg d a (immWord i) 8) s
def execSloop (a : Reg) (n : BitVec 5) (s : State) : Host.Outcome State Fault Refusal :=
  runM (sloop a n.toNat) s

/-! ### Compressed forms (R32) -/

def execCJr (b : Reg) (s : State) : Host.Outcome State Fault Refusal :=
  runM (jumpReg 0 b 0 2) s
def execCBeqz (a : Reg) (i : BitVec 5) (s : State) : Host.Outcome State Fault Refusal :=
  .next (s.branch (s.getX a == 0) (disp2 i) 2)
def execCBnez (a : Reg) (i : BitVec 5) (s : State) : Host.Outcome State Fault Refusal :=
  .next (s.branch (s.getX a != 0) (disp2 i) 2)
def execCJ (i : BitVec 10) (s : State) : Host.Outcome State Fault Refusal :=
  .next (s.link 0 (s.target (disp2 i)) 2)

end Sys2Proof.Machine
end

