-- ==== Sys2Proof/Machine/ScalarFp.lean ====
section
/-! DEFINITION. Scalar floating point (R284, R285). -/

namespace Sys2Proof.Machine

/-- An operand in format `f`. -/
def readF (f : FFmt) (r : Reg) : M Nat := do return f.unbox (← readX r)

/-- The end of a scalar form: flags as element 0, then the register, then the PC (R285). -/
def finishF (d : Reg) (fl : Fl) (v : Word) : M Unit := do
  raiseAt 0 fl
  writeX d v
  retire 4

/-- A form that rounds a function of two operands. -/
def scalarRound2 (t : BitVec 2) (d a b : Reg) (op : RM → FVal → FVal → Exact) : M Unit := do
  let f := fmtOf t
  let rm ← rmode
  let r := f.round rm (op rm (f.value (← readF f a)) (f.value (← readF f b)))
  finishF d r.fl (f.box r.bits)

/-- A fused form. -/
def scalarRound3 (t : BitVec 2) (d a b c : Reg) (op : RM → FVal → FVal → FVal → Exact) : M Unit := do
  let f := fmtOf t
  let rm ← rmode
  let r := f.round rm (op rm (f.value (← readF f a)) (f.value (← readF f b)) (f.value (← readF f c)))
  finishF d r.fl (f.box r.bits)

/-- A form on codes that never rounds. -/
def scalarCodes (t : BitVec 2) (d a b : Reg) (op : FFmt → Nat → Nat → FRes) : M Unit := do
  let f := fmtOf t
  let r := op f (← readF f a) (← readF f b)
  finishF d r.fl (f.box r.bits)

/-- A comparison writes 1 or 0 (R195, R284). -/
def scalarCompare (t : BitVec 2) (d a b : Reg) (quiet : Bool) (op : FVal → FVal → Bool) : M Unit := do
  let f := fmtOf t
  let x := f.value (← readF f a)
  let y := f.value (← readF f b)
  finishF d (cmpFl quiet x y) (BitVec.ofNat 64 (op x y).toNat)

/-- Float to a 64-bit integer (R198). -/
def scalarToInt (t : BitVec 2) (d a : Reg) (signed : Bool) : M Unit := do
  let f := fmtOf t
  let rm ← rmode
  let r := toInteger rm signed 64 (f.value (← readF f a))
  finishF d r.fl (BitVec.ofNat 64 r.bits)

/-- A 64-bit integer to a float. -/
def scalarOfInt (t : BitVec 2) (d a : Reg) (signed : Bool) : M Unit := do
  let f := fmtOf t
  let rm ← rmode
  let x ← readX a
  let r := f.round rm (ofInteger (if signed then x.toInt else x.toNat))
  finishF d r.fl (f.box r.bits)

/-- Whether a conversion between formats is exact for every value (R187). -/
def exactConv (s t : BitVec 2) : Bool := s == t || (2 ≤ s.toNat && t.toNat ≤ 1) || (s == 1 && t == 0)

/-- FCVT: an exact conversion does not look at FRM (R187). -/
def scalarConvert (d a : Reg) (s t : BitVec 2) : M Unit := do
  let rm ← if exactConv s t then pure RM.rne else rmode
  let r := convert (fmtOf s) (fmtOf t) rm (← readF (fmtOf s) a)
  finishF d r.fl ((fmtOf t).box r.bits)

/-- The sum a + b, and the others of R194 and R200 through it. -/
def addF (rm : RM) (a b : FVal) : Exact := sumProducts rm [a, b] []
def subF (rm : RM) (a b : FVal) : Exact := sumProducts rm [a, b.negate] []
def mulF (rm : RM) (a b : FVal) : Exact := sumProducts rm [] [(a, b)]
def maccF (rm : RM) (a b c : FVal) : Exact := sumProducts rm [c] [(a, b)]
def nmsacF (rm : RM) (a b c : FVal) : Exact := sumProducts rm [c] [(a.negate, b)]

/-- a ≤ b on values. -/
def FVal.le (a b : FVal) : Bool := !a.isNan && !b.isNan && !b.lt a

def execFadd (d a b : Reg) (t : BitVec 2) (s : State) : Host.Outcome State Fault Refusal :=
  runM (scalarRound2 t d a b addF) s
def execFsub (d a b : Reg) (t : BitVec 2) (s : State) : Host.Outcome State Fault Refusal :=
  runM (scalarRound2 t d a b subF) s
def execFmul (d a b : Reg) (t : BitVec 2) (s : State) : Host.Outcome State Fault Refusal :=
  runM (scalarRound2 t d a b mulF) s
def execFdiv (d a b : Reg) (t : BitVec 2) (s : State) : Host.Outcome State Fault Refusal :=
  runM (scalarRound2 t d a b fun _ => divide) s
def execFsqrt (d a : Reg) (t : BitVec 2) (s : State) : Host.Outcome State Fault Refusal :=
  runM (scalarRound2 t d a 0 fun _ x _ => squareRoot x) s
def execFmin (d a b : Reg) (t : BitVec 2) (s : State) : Host.Outcome State Fault Refusal :=
  runM (scalarCodes t d a b fun f => f.select false) s
def execFmax (d a b : Reg) (t : BitVec 2) (s : State) : Host.Outcome State Fault Refusal :=
  runM (scalarCodes t d a b fun f => f.select true) s
def execFsgnj (d a b : Reg) (t : BitVec 2) (s : State) : Host.Outcome State Fault Refusal :=
  runM (scalarCodes t d a b fun f x y => ⟨f.inject 0 x y, 0⟩) s
def execFsgnjn (d a b : Reg) (t : BitVec 2) (s : State) : Host.Outcome State Fault Refusal :=
  runM (scalarCodes t d a b fun f x y => ⟨f.inject 1 x y, 0⟩) s
def execFsgnjx (d a b : Reg) (t : BitVec 2) (s : State) : Host.Outcome State Fault Refusal :=
  runM (scalarCodes t d a b fun f x y => ⟨f.inject 2 x y, 0⟩) s
def execFeq (d a b : Reg) (t : BitVec 2) (s : State) : Host.Outcome State Fault Refusal :=
  runM (scalarCompare t d a b true FVal.eq) s
def execFlt (d a b : Reg) (t : BitVec 2) (s : State) : Host.Outcome State Fault Refusal :=
  runM (scalarCompare t d a b false FVal.lt) s
def execFle (d a b : Reg) (t : BitVec 2) (s : State) : Host.Outcome State Fault Refusal :=
  runM (scalarCompare t d a b false FVal.le) s
def execFclass (d a : Reg) (t : BitVec 2) (s : State) : Host.Outcome State Fault Refusal :=
  .next ((s.setX d (BitVec.ofNat 64 ((fmtOf t).classOf ((fmtOf t).unbox (s.getX a))))).advance 4)
def execFcvtiS (d a : Reg) (t : BitVec 2) (s : State) : Host.Outcome State Fault Refusal :=
  runM (scalarToInt t d a true) s
def execFcvtiZ (d a : Reg) (t : BitVec 2) (s : State) : Host.Outcome State Fault Refusal :=
  runM (scalarToInt t d a false) s
def execFcvtfS (d a : Reg) (t : BitVec 2) (s : State) : Host.Outcome State Fault Refusal :=
  runM (scalarOfInt t d a true) s
def execFcvtfZ (d a : Reg) (t : BitVec 2) (s : State) : Host.Outcome State Fault Refusal :=
  runM (scalarOfInt t d a false) s
def execFcvt (d a : Reg) (k t : BitVec 2) (s : State) : Host.Outcome State Fault Refusal :=
  runM (scalarConvert d a k t) s
def execFmadd (d a b c : Reg) (t : BitVec 2) (s : State) : Host.Outcome State Fault Refusal :=
  runM (scalarRound3 t d a b c maccF) s
def execFnmsub (d a b c : Reg) (t : BitVec 2) (s : State) : Host.Outcome State Fault Refusal :=
  runM (scalarRound3 t d a b c nmsacF) s

end Sys2Proof.Machine
end

