-- ==== Sys2Proof/Machine/Vset.lean ====
section
/-! DEFINITION. Setting the vector length (R138-R144), repartition points (R142, R309) and loop exits (R143). -/

namespace Sys2Proof.Machine

/-! ### Repartition (R142, R309) -/

/-- Lanes of a core that other harts hold. -/
def State.othersLanes (s : State) : Nat :=
  (s.others.filter fun o => o.holdsLanes && dieOf o.id.hartid == dieOf s.h.id.hartid &&
    coreOf o.id.hartid == coreOf s.h.id.hartid).foldl (fun m o => m ||| o.laneMask) 0

/-- A hart with a group of `n` lanes at lane-group index `g`; contents beyond a smaller VLEN are gone (R19). -/
def Hart.regroup (h : Hart) (n g : Nat) : Hart :=
  let h := { h with id := { h.id with lanes := n, hartid := BitVec.ofNat 11 (h.id.hartid.toNat / 4 * 4 + g % 4) } }
  h.cutVlen h.vlen

/-- A candidate of the die, ordered ahead of the moving hart's gang, needs lanes that the hart's core has with the
lanes `small` in use and not with `large` (R309): a saved gang its own lane groups, a record lanes for more harts. -/
def State.aheadNeeds (s : State) (small large : Nat) : Bool :=
  let core := coreOf s.h.id.hartid
  match s.dev.gangs.find? (·.id == s.h.id.gang.toNat) with
  | none => false
  | some g => (s.dev.cands g.die s.time).any fun c => c.ahead s.time g.cand &&
      (if c.isGang then s.harts.any fun h => h.id.gang.toNat == c.key && h.status == .saved &&
          coreOf h.id.hartid == core && h.laneMask &&& large &&& (large ^^^ small) != 0
       else (s.dev.queue c.key).depMet && (match (s.dev.queue c.key).checked with
        | some (w, _) =>
          let r : Rec := ⟨w⟩
          let room := s.laneRoom g.die r core large
          decide (room < r.harts * r.gangs) && decide (room < s.laneRoom g.die r core small)
        | none => false))

/-- What the allocator makes of a repartition point: nothing, the lower half, or the aligned group of twice the size;
the choice among what R309 allows is the allocator's. -/
def repartition : M (Hart → Hart) := do
  let c ← choose
  let s ← get
  let n := s.h.id.lanes
  let g := s.h.id.hartid.toNat % 4
  let big := (2 ^ (2 * n) - 1) * 2 ^ (g * 4 / (2 * n) * (2 * n))
  let others := s.othersLanes
  let low := (2 ^ (n / 2) - 1) * 2 ^ (4 * g)
  if c = 1 ∧ s.h.id.lmin < n ∧ s.aheadNeeds (others ||| low) (others ||| s.h.laneMask) = true then
    return fun h => h.regroup (n / 2) g
  else if c = 2 ∧ n < s.h.id.lshare ∧ others &&& big = 0 ∧ s.aheadNeeds (others ||| s.h.laneMask) (others ||| big) = false then
    return fun h => h.regroup (2 * n) (g * 4 / (2 * n) * (2 * n) / 4)
  else return id

/-! ### The effect of every VSET (R139) -/

/-- A pending VLCAP.CAP becomes the CAP in force (R19). -/
def Hart.applyCap (h : Hart) : Hart :=
  let h := { h with vc := { h.vc with cap := h.hr.vlcap } }
  h.cutVlen h.vlen

/-- The new shape and length; VSTART becomes 0. -/
def Hart.setShape (h : Hart) (ew grp : BitVec 2) (n : Nat) : Hart :=
  { h with vc := { h.vc with
    ew := ew
    grp := grp
    vlmaxr := h.vlmaxFor ew grp
    vl := n
    vstart := 0
    ecm := 0 } }

/-- LoopExit (R143, R292): only inside the body that is replaying. -/
def Hart.loopExit (h : Hart) : Hart := { h with pc := h.lp.fin, pcHi := 0, lp := { h.lp with active := false } }

/-- What comes before the length: the check of strips, the repartition point, the pending CAP. -/
def vsetPrepare (rp : Bool) : M (Hart → Hart) := do
  let h ← getH
  if h.ms.strip.isSome then
    if rp then trapInstr .stripop
    return id
  else if rp then
    let f ← repartition
    return fun h => (f h).applyCap
  else return Hart.applyCap

/-- The end of a VSET with length `n` and result `r`. -/
def Hart.vsetDone (change : Hart → Hart) (d : Reg) (ew grp : BitVec 2) (n r : Nat) (x : Bool) (h : Hart) : Hart :=
  let h' := ((change h).setShape ew grp n).setX d (BitVec.ofNat 64 r)
  if x && n == 0 && h.inLoop h.pc then h'.loopExit else h'.advance 4

/-- VSETVL and VSETVLI: VL = min(AVL, VLMAX). -/
def vsetLen (d : Reg) (avl : Nat) (ew grp : BitVec 2) (rp x : Bool) : M Unit := do
  let change ← vsetPrepare rp
  modH fun h =>
    let n := min avl ((change h).vlmaxFor ew grp)
    h.vsetDone change d ew grp n n x

/-- One above the highest set bit below `n` (R139). -/
def topBit (m : BitVec 16384) : Nat → Nat
  | 0 => 0
  | n + 1 => if m.getLsbD n then n + 1 else topBit m n

/-- VSETVLM (R140). A failed bit of the mask raises MCHECK at its element (R340). -/
def vsetMask (d a : Reg) (ew grp : BitVec 2) (rp x : Bool) : M Unit := do
  let change ← vsetPrepare rp
  let h ← getH
  let h1 := change h
  let top := h1.vlmaxFor ew grp
  match (List.range top).find? fun i => h1.badElem a.val i 1 with
  | some i => throw (.trapFrom .mcheck h.vc.vstart.toNat i 0)
  | none => pure ()
  modH fun h =>
    let n := topBit (h1.v[a]).val top
    h.vsetDone change d ew grp n n x

/-! ### VSETFL (R141) -/

/-- A row pointer, read as a load of element j; a NONIDEM page raises PERM. -/
def rowPtr (base : Word) (j : Nat) : M Nat := do
  let r ← loadPlaced j (base + BitVec.ofNat 64 (4 * j)).toNat 4 false idemRule
  return ofBytes r.1

/-- The packing loop: rows accepted after row `k`, whose start is `rk`; the entries found past it, the refused one
last. -/
def packRows (base : Word) (nmax p0 : Nat) : Nat → Nat → Nat → M (List Nat × Option Nat)
  | 0, _, _ => return ([], none)
  | fuel + 1, k, rk => do
    let r ← rowPtr base (k + 1)
    if rk ≤ r ∧ r - p0 ≤ nmax then
      let (l, e) ← packRows base nmax p0 fuel (k + 1) r
      return (r :: l, e)
    else return ([], some r)

/-- The bit at the last element of each row that is not empty; rows end at `ends`. -/
def rowBits (p0 : Nat) : Nat → List Nat → Hart → Hart
  | _, [], h => h
  | start, r :: l, h => rowBits p0 r l (if start < r then h.setElem 0 (r - p0 - 1) 1 1 else h)

/-- VSETFL: length from RowPack, v0 the boundary mask, X(xd) the rows taken. -/
def vsetRows (d a b : Reg) (ew grp : BitVec 2) (rp x : Bool) : M Unit := do
  if (← getH).ms.strip.isSome then trapInstr .stripop
  let base ← readX a
  if base.toNat % 4 ≠ 0 then trap .misalign 0 base
  let change ← vsetPrepare rp
  let rows := (← readX b).toNat
  let nmax := (change (← getH)).vlmaxFor ew grp
  if rows = 0 then
    modH fun h =>
      let clear (h : Hart) : Hart := Hart.over (fun h i => h.setElem 0 i 1 0) nmax 0 (change h)
      h.vsetDone clear d ew grp 0 0 x
  else
    let p0 ← rowPtr base 0
    let (ends, refused) ← packRows base nmax p0 (min rows nmax) 0 p0
    let n := match ends.getLast? with
      | some r => r - p0
      | none => match refused with
        | some r => if p0 ≤ r then nmax else 0
        | none => 0
    modH fun h =>
      let mark (h : Hart) : Hart :=
        rowBits p0 p0 ends (Hart.over (fun h i => h.setElem 0 i 1 0) nmax 0 (change h))
      h.vsetDone mark d ew grp n ends.length x

/-! ### Meanings -/

/-- VSETVL: the requested VTYPE in X(xb) must be a legal one (R138). -/
def execVsetvl (d a b : Reg) (r x : Bool) (s : State) : Host.Outcome State Fault Refusal :=
  let t := (s.getX b).toNat
  if t / 64 ≠ 0 ∨ 3 < t % 16 then .next s.illegal
  else runM (vsetLen d (s.getX a).toNat (BitVec.ofNat 2 t) (BitVec.ofNat 2 (t / 16)) r x) s

/-- VSETVLI: `p` marks AVL = max. -/
def execVsetvli (d a : Reg) (p : Bool) (e : BitVec 3) (g : BitVec 2) (r x : Bool) (s : State) :
    Host.Outcome State Fault Refusal :=
  runM (vsetLen d (if p then 2 ^ 64 - 1 else (s.getX a).toNat) (e.setWidth 2) g r x) s

def execVsetvlm (d a : Reg) (e : BitVec 3) (g : BitVec 2) (r x : Bool) (s : State) :
    Host.Outcome State Fault Refusal :=
  runM (vsetMask d a (e.setWidth 2) g r x) s

def execVsetfl (d a b : Reg) (e : BitVec 3) (g : BitVec 2) (r x : Bool) (s : State) :
    Host.Outcome State Fault Refusal :=
  runM (vsetRows d a b (e.setWidth 2) g r x) s

end Sys2Proof.Machine
end

