-- ==== Sys2Proof/Machine/Strip.lean ====
section
/-! DEFINITION. Strips (R241-R262): opening, closing, the exit. What a strip binds or records before the older one has
closed stands in the run-ahead stream (Ahead.lean; notes/assumptions/7.md). -/

namespace Sys2Proof.Machine

/-! ### Closing (R244) -/

/-- CloseStrip: the registers as the strip sees them become architectural and the held stores enter the store queue in
their order; the hold of R260 ends. -/
def Hart.closeStrip (h : Hart) : Hart :=
  match h.ms.strip with
  | none => h
  | some st => { h with ms := { h.ms with
      strip := none
      hold := none
      storeQ := h.ms.storeQ ++ st.held.map (·.part) } }

/-- The oldest record of a data trigger that the close has left (R349). -/
def Hart.stripWatch (h : Hart) : Option (Nat × Bool) :=
  match h.ms.strip with
  | none => none
  | some st => st.watch.head?.map fun w => (w.1, w.2.2)

/-- A record that remains at the close raises WATCH, or halts (R349). -/
def actStripWatch (w : Option (Nat × Bool)) : M Unit := do
  match w with
  | none => return ()
  | some (a, act) =>
    if act then
      modify (·.enterHalt 2)
      throw .left
    else trap .watch 0 (BitVec.ofNat 64 a)

/-- The close of an open strip, as a unit; the record that then acts. -/
def close : M (Option (Nat × Bool)) := do
  let h ← getH
  if h.ms.strip.isNone then return none
  else
    modify fun s => s.traceRec 4 0 s.h.vc.vl
    modH Hart.closeStrip
    return h.stripWatch

/-! ### Opening (R243) -/

/-- The checkpoint. -/
def Hart.checkpoint (h : Hart) : Checkpoint :=
  { x := h.x
    vl := h.vc.vl
    ew := h.vc.ew
    grp := h.vc.grp
    vlmaxr := h.vc.vlmaxr
    vff := h.vc.vff
    vpx := h.vc.vpx
    fflags := h.f.fflags
    fidx := h.f.fidx
    fepc := h.f.fepc
    fxsat := h.f.fxsat
    rctrl := h.f.rctrl
    rctrh := h.f.rctrh
    loopActive := h.lp.active
    loopCount := h.lp.count
    addr := h.pc }

/-- Length a strip takes: AVL or the most, under the CAP now applied. -/
def Hart.stripLen (h : Hart) (avl : Nat) (ew grp : BitVec 2) : Nat := min avl (h.applyCap.vlmaxFor ew grp)

/-- The hold of R260: the VSTRIP at which an interrupted hart resumes opens one strip with it. -/
def Hart.stripHold (h : Hart) (cycle : Nat) : Hart :=
  if h.ms.holdNext = some h.pc then
    { h with ms := { h.ms with holdNext := none, hold := some (cycle + 2048) } }
  else h

/-- The opening of a strip of `n` elements. -/
def Hart.openStrip (h : Hart) (d : Reg) (avl : Nat) (ew grp : BitVec 2) (cycle : Nat) : Hart :=
  let cp := h.checkpoint
  let n := h.stripLen avl ew grp
  let h := (h.applyCap).setShape ew grp n
  let st : Strip := { cp := cp, share := 4 * h.vlen / 8 }
  let h := ({ h with vc := { h.vc with vff := 0, vpx := 0 }, ms := { h.ms with strip := some st } }).stripHold cycle
  (h.setX d (BitVec.ofNat 64 n)).advance 4

/-- VSTRIP; an event may fall between its close and its opening (R243). -/
def vstrip (d a : Reg) (all : Bool) (ew grp : BitVec 2) : M Unit := do
  let was := (← getH).ms.strip.isSome
  actStripWatch (← close)
  if was && !(← getH).db.stepping then
    if (← choose) = 1 then throw .pause
  let x ← readX a
  let avl := if all then 2 ^ 64 - 1 else x.toNat
  modify fun s => { s with h := s.h.openStrip d avl ew grp s.cycle }

/-- VSTREND. -/
def vstrend : M Unit := do
  let w ← close
  retire 4
  actStripWatch w

/-! ### The exit (R245) -/

/-- The lowest element below VL whose bit is set. -/
def Hart.firstExit (h : Hart) (a : Reg) : Option Nat := (List.range h.vc.vl).find? (h.maskBit a)

/-- VPX, VL and the annulment at an exit; `keep` keeps the exiting element. -/
def Hart.exitAt (h : Hart) (keep : Bool) (p : Option Nat) : Hart :=
  match p with
  | none => h
  | some p =>
    let n := if keep then p + 1 else p
    ({ h with vc := { h.vc with vpx := BitVec.ofNat 64 (2 ^ 16 + p), vl := n } }).annul n

/-- VEXIT: a whole form. -/
def vexit (d a b : Reg) (keep : Bool) (s : State) : State :=
  if s.h.vc.vstart ≠ 0 then s.illegal
  else
    let h := s.h.exitAt keep (s.h.firstExit a)
    let h := (h.setX d (BitVec.ofNat 64 h.vc.vl)).setX b (BitVec.ofNat 64 (h.vc.vpx.getLsbD 16).toNat)
    { s with h := h.retireV }

/-! ### Meanings -/

def execVstrip (d a : Reg) (e : BitVec 2) (p : Bool) (g : BitVec 2) (s : State) : Host.Outcome State Fault Refusal :=
  runM (vstrip d a p e g) s
def execVstrend (s : State) : Host.Outcome State Fault Refusal :=
  runM vstrend s
def execVexitI (d a b : Reg) (s : State) : Host.Outcome State Fault Refusal :=
  .next (vexit d a b true s)
def execVexitB (d a b : Reg) (s : State) : Host.Outcome State Fault Refusal :=
  .next (vexit d a b false s)

end Sys2Proof.Machine
end

