-- ==== Sys2Proof/Machine/Tile.lean ====
section
/-! DEFINITION. The tile engine (R214-R227): tiles and latches, outer products, rows to and from registers. -/

namespace Sys2Proof.Machine

/-! ### Storage (R214) -/

/-- Tile(a, i, j) as a code. -/
def TileReg.get (t : TileReg) (i j : Nat) : Nat := bits t.val.toNat (32 * (64 * i + j)) 32

def TileReg.put (t : TileReg) (i j x : Nat) : TileReg :=
  { t with
    val := BitVec.ofNat 131072 (putBits t.val.toNat (32 * (64 * i + j)) 32 x)
    err := t.err.filter (· != 64 * i + j) }

/-- The mode state that product-mode work leaves (R228): N is a free value. -/
def TileReg.product (t : TileReg) (tick : Nat) : TileReg :=
  { t with factor := false, n := Config.tileN tick, broken := false }

/-- A change of a tile. -/
def Hart.modTile (h : Hart) (t : Tile) (f : TileReg → TileReg) : Hart :=
  { h with t := { h.t with tile := h.t.tile.set t (f h.t.tile[t]) } }

/-- A change of a tile by product-mode work. -/
def State.modProduct (s : State) (t : Tile) (f : TileReg → TileReg) : State :=
  { s with h := s.h.modTile t fun x => (f x).product s.tick, tick := s.tick + 1 }

/-- Ownership (R12, R215). -/
def Hart.ownsTile (h : Hart) (t : Tile) : Bool := h.t.town.getLsbD t.val
def Hart.ownsLatch (h : Hart) (l : Latch) : Bool := h.t.town.getLsbD (4 + l.val)

/-- The causes of a TILE instruction as a whole in the order of R41: ILLEGAL, STRIPOP where it is barred from strips,
TILEOWN; then its effect. -/
def tileForm (bad barred owned : Bool) (f : State → State) (s : State) : State :=
  if bad || s.h.vc.vstart != 0 then s.illegal
  else if barred && s.h.ms.strip.isSome then takeTrap .stripop 0 0 s
  else if !owned then takeTrap .tileown 0 0 s
  else f s

/-- Completion of an 8-byte instruction. -/
def State.retire8 (s : State) : State := { s with h := s.h.retireBy 8 }

/-! ### TZERO (R220) -/

/-- Codes 0-3 are tiles, 4 and 5 latches. -/
def tzero (t : Fin 6) (s : State) : State :=
  if h : t.val < 4 then
    let k : Tile := ⟨t.val, h⟩
    tileForm false true (s.h.ownsTile k) (fun s => (s.modProduct k fun x => { x with val := 0, err := [] }).retire8) s
  else
    let l : Latch := if t.val = 4 then 0 else 1
    tileForm false true (s.h.ownsLatch l) (fun s =>
      { s with h := { s.h with t := { s.h.t with
        latch := s.h.t.latch.set l 0
        latchErr := s.h.t.latchErr.set l [] } } }.retire8) s

/-! ### TGL (R221, R222) -/

/-- The address lies in the own-core scratch window or the gang window (R50), which a rank that the gang has not is in
too. -/
def inBankWindow (va : Nat) : Bool :=
  decide (0x7F0000000000 ≤ va) && decide (va < 0x7F0000000000 + 0xC0000) ||
  decide (0x7F1000000000 ≤ va) && decide (va < 0x7F8000000000) && decide (va % 0x100000 < 0xC0000)

/-- A latch with row `r` replaced. -/
def putRow (x : BitVec 131072) (r : Nat) (bs : List Byte) : BitVec 131072 :=
  BitVec.ofNat 131072 (putBits x.toNat (2048 * r) 2048 (ofBytes bs))

/-- Row `i` of a gather. -/
def tglRow (l : Latch) (b : Reg) (row : Nat) (i : Nat) : M Unit := do
  let a := (← getH).elem b.val i 64
  if a % 128 ≠ 0 ∨ 0x3F00 < a % 0x4000 then trap .misalign i (BitVec.ofNat 64 a)
  if !inBankWindow a then trap .perm i (BitVec.ofNat 64 a)
  let bs ← loadBytes i a 256 false
  modH fun h => { h with t := { h.t with
    latch := h.t.latch.set l (putRow h.t.latch[l] (row + i) bs)
    latchErr := h.t.latchErr.set l (uncovered h.t.latchErr[l] (2048 * (row + i)) 2048) } }

def tgl (l : Latch) (b : Reg) (row : BitVec 6) (m : Bool) : M Unit := do
  let h ← getH
  if h.ew ≠ 64 ∨ 64 < h.vc.vl + row.toNat ∨ !groupOk b h.grp then trapInstr .illegal
  if h.ms.strip.isSome then trapInstr .stripop
  if !h.ownsLatch l then trapInstr .tileown
  banksReady ((h.incomplete m h.vc.vl).map fun i => (h.elem b.val i 64, 256))
  let n := h.vc.vl - h.vc.vstart.toNat
  let _ ← orderedLoop m false false true (tglRow l b row.toNat) n h.vc.vstart.toNat
  modH (·.retireBy 8)

/-! ### TOP (R223) -/

/-- The vector that a latch operand supplies at step `k`, element `i`. -/
def topOperand (x : BitVec 131072) (f32w row hi : Bool) (k i : Nat) : FVal :=
  if f32w then f32.value (bits x.toNat (if row then 2048 * k + 32 * i else 2048 * i + 32 * k) 32)
  else bf16.value (bits x.toNat (if row then 2048 * k + 16 * (64 * hi.toNat + i) else 2048 * i + 16 * k) 16)

/-- Depth of a latch operand. -/
def topDepth (f32w row : Bool) : Nat := if f32w || row then 64 else 128

/-- Rows or columns that TSHAPE asks for; none when the value is illegal (R216). -/
def shapeOf (x : BitVec 7) : Option Nat :=
  if x.toNat = 0 then some 64 else if x.toNat ≤ 64 then some x.toNat else none

/-- One element over the steps `k` to `k + n - 1`. -/
def topCell (A B : Nat → FVal) : Nat → Nat → Nat → Nat
  | 0, _, c => c
  | n + 1, k, c => topCell A B n (k + 1) (f32.round .rne (sumProducts .rne [f32.value c] [(A k, B k)])).bits

/-- The elements of row `i` from column `j` on, `n` of them. -/
def topRow (A B : Nat → Nat → FVal) (za : Bool) (steps i : Nat) : Nat → Nat → TileReg → TileReg
  | 0, _, t => t
  | n + 1, j, t =>
    topRow A B za steps i n (j + 1)
      (t.put i j (topCell (fun k => A k i) (fun k => B k j) steps 0 (if za then 0 else t.get i j)))

/-- The rows from `i` on, `n` of them. -/
def topRows (A B : Nat → Nat → FVal) (za : Bool) (steps cols : Nat) : Nat → Nat → TileReg → TileReg
  | 0, _, t => t
  | n + 1, i, t => topRows A B za steps cols n (i + 1) (topRow A B za steps i cols 0 t)

/-- TOP (R218). Without a step and without ZA it writes no element, and a recorded error of one stands (R340). -/
def top (t : Tile) (la lb : Latch) (f32w oa ob ha hb za : Bool) (s : State) : State :=
  match shapeOf s.h.t.rows, shapeOf s.h.t.cols with
  | some n, some c =>
    tileForm false true (s.h.ownsTile t && s.h.ownsLatch la && s.h.ownsLatch lb) (fun s =>
      let steps := min s.h.vc.vl (min (topDepth f32w oa) (topDepth f32w ob))
      let A := topOperand s.h.t.latch[la] f32w oa ha
      let B := topOperand s.h.t.latch[lb] f32w ob hb
      (s.modProduct t fun x => if steps = 0 ∧ za = false then x else topRows A B za steps c n 0 x).retire8) s
  | _, _ => s.illegal

/-! ### TRD and TWR (R224) -/

/-- Row and column of vector element `e`. -/
def tileIndex (row : Nat) (colw : Bool) (e : Nat) : Nat × Nat :=
  if colw then (e % 64, row + e / 64) else (row + e / 64, e % 64)

/-- The limits of both. -/
def Hart.badTileMove (h : Hart) (v : Reg) (row : BitVec 6) : Bool :=
  h.ew != 32 || decide ((64 - row.toNat) * 64 < h.vc.vl) || !groupOk v h.grp

/-- TRD's register writes. -/
def readTile (d : Reg) (x : TileReg) (row : Nat) (colw : Bool) (h : Hart) : Hart :=
  Hart.over (fun h e => let p := tileIndex row colw e; h.setElem d.val e 32 (x.get p.1 p.2)) h.vc.vl 0 h

/-- A change at each of the first `n` elements' places. -/
def overTile (F : TileReg → Nat → TileReg) : Nat → Nat → TileReg → TileReg
  | 0, _, t => t
  | n + 1, e, t => overTile F n (e + 1) (F t e)

def trd (d : Reg) (t : Tile) (row : BitVec 6) (colw clr : Bool) (s : State) : State :=
  tileForm (s.h.badTileMove d row) clr (s.h.ownsTile t) (fun s =>
    match s.h.claim d.val s.h.grp with
    | none => takeTrap .stripw 0 0 s
    | some h =>
      let h' := readTile d h.t.tile[t] row.toNat colw h
      let zero (x : TileReg) (e : Nat) : TileReg := let p := tileIndex row.toNat colw e; x.put p.1 p.2 0
      { s with h := (if clr then h'.modTile t (overTile zero h.vc.vl 0) else h') }.retire8) s

def twr (t : Tile) (b : Reg) (row : BitVec 6) (colw : Bool) (s : State) : State :=
  tileForm (s.h.badTileMove b row) true (s.h.ownsTile t) (fun s =>
    let put (x : TileReg) (e : Nat) : TileReg :=
      let p := tileIndex row.toNat colw e
      x.put p.1 p.2 (s.h.elem b.val e 32)
    (s.modProduct t (overTile put s.h.vc.vl 0)).retire8) s

/-! ### Meanings -/

def execTzero (t : Fin 6) (s : State) : Host.Outcome State Fault Refusal := .next (tzero t s)
def execTgl (l : Latch) (b : Reg) (row : BitVec 6) (m : Bool) (s : State) : Host.Outcome State Fault Refusal :=
  runM (tgl l b row m) s
def execTop (t : Tile) (la lb : Latch) (f32 oa ob ha hb za : Bool) (s : State) :
    Host.Outcome State Fault Refusal := .next (top t la lb f32 oa ob ha hb za s)
def execTrd (d : Reg) (t : Tile) (row : BitVec 6) (colw clr : Bool) (s : State) :
    Host.Outcome State Fault Refusal := .next (trd d t row colw clr s)
def execTwr (t : Tile) (b : Reg) (row : BitVec 6) (colw : Bool) (s : State) : Host.Outcome State Fault Refusal :=
  .next (twr t b row colw s)

end Sys2Proof.Machine
end

