-- ==== Sys2Proof/Machine/VInt.lean ====
section
/-! DEFINITION. Vector integer instructions (R164-R171): element-wise, widening, byte strings. -/

namespace Sys2Proof.Machine

/-- Operand b of element `i`: X(xb)[w-1:0] with ws = 1, else the element (R164). -/
def Hart.opB (h : Hart) (v : VArgs) (w i : Nat) : Nat :=
  if v.w then (h.getX v.b).toNat % 2 ^ w else h.elem v.b.val i w

/-- A group of va or vb, or of the destination, that breaks R18. -/
def Hart.badGroups (h : Hart) (v : VArgs) : Bool :=
  !groupOk v.d h.grp || !groupOk v.a h.grp || (!v.w && !groupOk v.b h.grp)

/-- The loop of R167 with the final step: F takes the width, a, b and d. -/
def Hart.elementwise (h : Hart) (v : VArgs) (F : Nat → Nat → Nat → Nat → Nat) : Hart :=
  (h.eachActive v.m fun h i =>
    h.setElem v.d.val i h.ew (F h.ew (h.elem v.a.val i h.ew) (h.opB v h.ew i) (h.elem v.d.val i h.ew))).tailAll
      v.m v.z v.d h.ew

/-- An element-wise form of R168. -/
def vint (v : VArgs) (F : Nat → Nat → Nat → Nat → Nat) (s : State) : State :=
  registerForm (s.h.badGroups v) v.d s.h.grp (·.elementwise v F) s

/-- The limits of a widening form (R169). -/
def Hart.badWide (h : Hart) (v : VArgs) : Bool :=
  let g := h.grp
  h.ew == 64 || decide (4 < g) || !groupOk v.d (2 * g) || !groupOk v.a g || overlaps v.d (2 * g) v.a g ||
  (!v.w && (!groupOk v.b g || overlaps v.d (2 * g) v.b g))

/-- The loop of R167 with a destination of width 2EW (R169). -/
def Hart.widened (h : Hart) (v : VArgs) (F : Nat → Nat → Nat → Nat → Nat) : Hart :=
  (h.eachActive v.m fun h i =>
    h.setElem v.d.val i (2 * h.ew)
      (F h.ew (h.elem v.a.val i h.ew) (h.opB v h.ew i) (h.elem v.d.val i (2 * h.ew)))).tailAll v.m v.z v.d (2 * h.ew)

/-- A widening form. -/
def vwide (v : VArgs) (F : Nat → Nat → Nat → Nat → Nat) (s : State) : State :=
  registerForm (s.h.badWide v) v.d (2 * s.h.grp) (·.widened v F) s

/-- A widening product or sum of signed operands, modulo 2^(2w). -/
def wideS (w a b : Nat) (op : Int → Int → Int) (d : Nat) : Nat := wrap (2 * w) (d + op (sext w a) (sext w b))

/-- VCRC (R170): `n` low bytes of `a` advance the state. -/
def vcrcF (w a b d : Nat) : Nat := crcFrom (d % 2 ^ 32) (toBytes (min b (w / 8)) a)

/-- VHASH (R171). -/
def vhashF (_ a b d : Nat) : Nat :=
  let n := min b 8
  if n = 0 then d
  else
    let k := a % 2 ^ (8 * n)
    let h := (d ^^^ k ^^^ (n * 2 ^ 56)) * 0x9E3779B97F4A7C15 % 2 ^ 64
    let h := (h ^^^ (h / 2 ^ 31)) * 0xD6E8FEB86659FD93 % 2 ^ 64
    h ^^^ (h / 2 ^ 29)

/-- VCRC and VHASH: an element whose count is 0 is not written. -/
def Hart.strings (h : Hart) (v : VArgs) (F : Nat → Nat → Nat → Nat → Nat) : Hart :=
  (h.eachActive v.m fun h i =>
    if h.opB v h.ew i = 0 then h
    else h.setElem v.d.val i h.ew
      (F h.ew (h.elem v.a.val i h.ew) (h.opB v h.ew i) (h.elem v.d.val i h.ew))).tailAll v.m v.z v.d h.ew

/-! ### Meanings -/

def execVadd (v : VArgs) (s : State) : Host.Outcome State Fault Refusal :=
  .next (vint v (fun w a b _ => addW w a b) s)
def execVsub (v : VArgs) (s : State) : Host.Outcome State Fault Refusal :=
  .next (vint v (fun w a b _ => subW w a b) s)
def execVrsub (v : VArgs) (s : State) : Host.Outcome State Fault Refusal :=
  .next (vint v (fun w a b _ => subW w b a) s)
def execVminS (v : VArgs) (s : State) : Host.Outcome State Fault Refusal :=
  .next (vint v (fun w a b _ => minS w a b) s)
def execVminZ (v : VArgs) (s : State) : Host.Outcome State Fault Refusal :=
  .next (vint v (fun w a b _ => minZ w a b) s)
def execVmaxS (v : VArgs) (s : State) : Host.Outcome State Fault Refusal :=
  .next (vint v (fun w a b _ => maxS w a b) s)
def execVmaxZ (v : VArgs) (s : State) : Host.Outcome State Fault Refusal :=
  .next (vint v (fun w a b _ => maxZ w a b) s)
def execVand (v : VArgs) (s : State) : Host.Outcome State Fault Refusal :=
  .next (vint v (fun w a b _ => andW w a b) s)
def execVor (v : VArgs) (s : State) : Host.Outcome State Fault Refusal :=
  .next (vint v (fun w a b _ => orW w a b) s)
def execVxor (v : VArgs) (s : State) : Host.Outcome State Fault Refusal :=
  .next (vint v (fun w a b _ => xorW w a b) s)
def execVsll (v : VArgs) (s : State) : Host.Outcome State Fault Refusal :=
  .next (vint v (fun w a b _ => sllW w a (b % w)) s)
def execVsrl (v : VArgs) (s : State) : Host.Outcome State Fault Refusal :=
  .next (vint v (fun w a b _ => srlW w a (b % w)) s)
def execVsra (v : VArgs) (s : State) : Host.Outcome State Fault Refusal :=
  .next (vint v (fun w a b _ => sraW w a (b % w)) s)
def execVmul (v : VArgs) (s : State) : Host.Outcome State Fault Refusal :=
  .next (vint v (fun w a b _ => mulW w a b) s)
def execVmulhS (v : VArgs) (s : State) : Host.Outcome State Fault Refusal :=
  .next (vint v (fun w a b _ => mulhS w a b) s)
def execVmulhZ (v : VArgs) (s : State) : Host.Outcome State Fault Refusal :=
  .next (vint v (fun w a b _ => mulhZ w a b) s)
def execVdivS (v : VArgs) (s : State) : Host.Outcome State Fault Refusal :=
  .next (vint v (fun w a b _ => divS w a b) s)
def execVdivZ (v : VArgs) (s : State) : Host.Outcome State Fault Refusal :=
  .next (vint v (fun w a b _ => divZ w a b) s)
def execVremS (v : VArgs) (s : State) : Host.Outcome State Fault Refusal :=
  .next (vint v (fun w a b _ => remS w a b) s)
def execVremZ (v : VArgs) (s : State) : Host.Outcome State Fault Refusal :=
  .next (vint v (fun w a b _ => remZ w a b) s)
def execVmacc (v : VArgs) (s : State) : Host.Outcome State Fault Refusal :=
  .next (vint v (fun w a b d => addW w d (a * b)) s)
def execVnmsac (v : VArgs) (s : State) : Host.Outcome State Fault Refusal :=
  .next (vint v (fun w a b d => subW w d (a * b)) s)
/-- VMERGE: every element from VSTART on is written, whatever v0 holds; R47 acts on the tail only. -/
def execVmerge (d a b : Reg) (z w : Bool) (s : State) : Host.Outcome State Fault Refusal :=
  let v : VArgs := { d := d, a := a, b := b, m := false, z := z, w := w }
  .next (registerForm (s.h.badGroups v) d s.h.grp (fun h =>
    (h.eachActive false fun h i =>
      h.setElem d.val i h.ew (if h.maskBit 0 i then h.opB v h.ew i else h.elem a.val i h.ew)).tailAll false z d h.ew) s)
/-- VMV. -/
def execVmv (d b : Reg) (m z w : Bool) (s : State) : Host.Outcome State Fault Refusal :=
  .next (vint { d := d, a := 0, b := b, m := m, z := z, w := w } (fun _ _ b _ => b) s)

def execVwaddS (v : VArgs) (s : State) : Host.Outcome State Fault Refusal :=
  .next (vwide v (fun w a b _ => wideS w a b (· + ·) 0) s)
def execVwaddZ (v : VArgs) (s : State) : Host.Outcome State Fault Refusal :=
  .next (vwide v (fun w a b _ => addW (2 * w) a b) s)
def execVwsubS (v : VArgs) (s : State) : Host.Outcome State Fault Refusal :=
  .next (vwide v (fun w a b _ => wideS w a b (· - ·) 0) s)
def execVwsubZ (v : VArgs) (s : State) : Host.Outcome State Fault Refusal :=
  .next (vwide v (fun w a b _ => subW (2 * w) a b) s)
def execVwmulS (v : VArgs) (s : State) : Host.Outcome State Fault Refusal :=
  .next (vwide v (fun w a b _ => wideS w a b (· * ·) 0) s)
def execVwmulZ (v : VArgs) (s : State) : Host.Outcome State Fault Refusal :=
  .next (vwide v (fun w a b _ => mulW (2 * w) a b) s)
def execVwmaccS (v : VArgs) (s : State) : Host.Outcome State Fault Refusal :=
  .next (vwide v (fun w a b d => wideS w a b (· * ·) d) s)
def execVwmaccZ (v : VArgs) (s : State) : Host.Outcome State Fault Refusal :=
  .next (vwide v (fun w a b d => addW (2 * w) d (a * b)) s)

def execVcrc (v : VArgs) (s : State) : Host.Outcome State Fault Refusal :=
  .next (registerForm (s.h.badGroups v || s.h.ew < 32) v.d s.h.grp (·.strings v vcrcF) s)
def execVhash (v : VArgs) (s : State) : Host.Outcome State Fault Refusal :=
  .next (registerForm (s.h.badGroups v || s.h.ew != 64) v.d s.h.grp (·.strings v vhashF) s)

end Sys2Proof.Machine
end

