-- ==== Sys2Proof/Machine/VPerm.lean ====
section
/-! DEFINITION. Vector mask and permute instructions (R176-R183). -/

namespace Sys2Proof.Machine

/-! ### Masks -/

/-- A compare writes bit i of a mask register (R176). -/
def Hart.compare (h : Hart) (v : VArgs) (C : Nat → Nat → Nat → Bool) : Hart :=
  (h.eachActive v.m fun h i =>
    h.setElem v.d.val i 1 (C h.ew (h.elem v.a.val i h.ew) (h.opB v h.ew i)).toNat).tailAll v.m v.z v.d 1

def vcompare (v : VArgs) (C : Nat → Nat → Nat → Bool) (s : State) : State :=
  registerForm (!groupOk v.a s.h.grp || (!v.w && !groupOk v.b s.h.grp)) v.d 1 (·.compare v C) s

/-- Mask logic: bits from VSTART to VL - 1 (R177). -/
def maskLogic (d a b : Reg) (z : Bool) (F : Bool → Bool → Bool) (s : State) : State :=
  registerForm false d 1 (fun h =>
    (h.eachActive false fun h i => h.setElem d.val i 1 (F (h.maskBit a i) (h.maskBit b i)).toNat).tailAll false z d 1) s

/-- Active elements below VL whose bit in `a` is set. -/
def Hart.maskHits (h : Hart) (a : Reg) (m : Bool) : List Nat :=
  (List.range h.vc.vl).filter fun i => h.unmasked m i && h.maskBit a i

/-- VCPOP and VFIRST (R178). -/
def maskCount (d a : Reg) (m : Bool) (F : List Nat → Nat) (s : State) : State :=
  scalarForm (s.h.vc.vstart != 0) d (fun h => BitVec.ofNat 64 (F (h.maskHits a m))) s

/-- VMSBF, VMSIF and VMSOF (R179): `C` compares i with the first hit. -/
def maskFirst (d a : Reg) (m z : Bool) (C : Nat → Nat → Bool) (s : State) : State :=
  registerForm (s.h.vc.vstart != 0 || d == a || (m && d == 0)) d 1 (fun h =>
    let f := (h.maskHits a m).headD h.vc.vl
    (h.eachActive m fun h i => h.setElem d.val i 1 (C i f).toNat).tailAll m z d 1) s

/-! ### Permutation -/

/-- A per-element permutation (R180): `F` gives the new element or leaves it, reading the hart before. -/
def permute (bad : Bool) (d : Reg) (m z : Bool) (F : Hart → Nat → Option Nat) (s : State) : State :=
  registerForm (bad || !groupOk d s.h.grp) d s.h.grp (fun h0 =>
    (h0.eachActive m fun h i => match F h0 i with
      | some x => h.setElem d.val i h.ew x
      | none => h).tailAll m z d h0.ew) s

/-- A source group that must not meet the destination. -/
def Hart.badSource (h : Hart) (d a : Reg) : Bool := !groupOk a h.grp || overlaps d h.grp a h.grp

/-- Elements `x` written to `d` from index `i` on. -/
def Hart.putList (d : Reg) (w : Nat) : Nat → List Nat → Hart → Hart
  | _, [], h => h
  | i, x :: r, h => Hart.putList d w (i + 1) r (h.setElem d.val i w x)

/-- Elements of `d` from `n` to VLMAX - 1 as inactive ones (R47). -/
def Hart.zeroFrom (h : Hart) (z : Bool) (d : Reg) (w n : Nat) : Hart :=
  if z then Hart.over (fun h i => h.zeroElem d.val i w) (h.vlmax - n) n h else h

/-- VCOMPRESS (R181). -/
def compress (d a b : Reg) (z : Bool) (h : Hart) : Hart :=
  let xs := ((List.range h.vc.vl).filter fun i => h.maskBit b i).map fun i => h.elem a.val i h.ew
  (Hart.putList d h.ew 0 xs h).zeroFrom z d h.ew xs.length

/-- VEXPAND (R181): element `i` and `n - 1` further ones, `j` being the next source element. -/
def expandFrom (d a b : Reg) (z : Bool) (h0 : Hart) : Nat → Nat → Nat → Hart → Hart
  | 0, _, _, h => h
  | n + 1, i, j, h =>
    if i < h0.vc.vl && h0.maskBit b i then
      expandFrom d a b z h0 n (i + 1) (j + 1) (h.setElem d.val i h0.ew (h0.elem a.val j h0.ew))
    else expandFrom d a b z h0 n (i + 1) j (if z then h.zeroElem d.val i h0.ew else h)

/-- The limits of VCOMPRESS and VEXPAND. -/
def Hart.badCompress (h : Hart) (d a b : Reg) : Bool :=
  h.vc.vstart != 0 || !groupOk d h.grp || h.badSource d a || overlaps d h.grp b 1

/-- An inclusive running sum (R182) from element `i` on, `c` being the sum so far. -/
def scanFrom (d a : Reg) (m seg : Bool) : Nat → Nat → Nat → Hart → Hart
  | 0, _, _, h => h
  | n + 1, i, c, h =>
    let on := h.unmasked m i
    let c := if on then addW h.ew c (h.elem a.val i h.ew) else c
    let h := if on then h.setElem d.val i h.ew c else h
    scanFrom d a m seg n (i + 1) (if seg && h.maskBit 0 i then 0 else c) h

/-- VSCANADD and VSCANADD.SG. -/
def scanAdd (d a b : Reg) (m z w seg : Bool) (s : State) : State :=
  registerForm (s.h.vc.vstart != 0 || (!w && b != 0) || (seg && d == 0) || !groupOk d s.h.grp || !groupOk a s.h.grp)
    d s.h.grp (fun h =>
      (scanFrom d a m seg h.vc.vl 0 (if w then (h.getX b).toNat % 2 ^ h.ew else 0) h).tailAll m z d h.ew) s

/-- Inserts index `i` into a list ordered by `le`, before the elements that it precedes. -/
def insertBy (le : Nat → Nat → Bool) (i : Nat) : List Nat → List Nat
  | [] => [i]
  | j :: r => if le i j then i :: j :: r else j :: insertBy le i r

/-- The indices below `n`, stably ordered (R183). -/
def stableOrder (le : Nat → Nat → Bool) (n : Nat) : List Nat := (List.range n).foldr (insertBy le) []

/-- VSORTK (R183): the key read as `key` says, in ascending or descending order. -/
def sortKeys (d a : Reg) (z : Bool) (signed desc : Bool) (s : State) : State :=
  let h := s.h
  let bad := h.vc.vstart != 0 || decide (2 ^ h.ew < h.vc.vl) || !groupOk d h.grp || h.badSource d a
  registerForm bad d h.grp (fun h =>
    let key (i : Nat) : Int :=
      let x := h.elem a.val i h.ew
      if signed then sext h.ew x else x
    let le (i j : Nat) : Bool := if desc then decide (key j ≤ key i) else decide (key i ≤ key j)
    (Hart.putList d h.ew 0 (stableOrder le h.vc.vl) h).tailAll false z d h.ew) s

/-! ### Meanings -/

def execVmseq (v : VArgs) (s : State) : Host.Outcome State Fault Refusal :=
  .next (vcompare v (fun _ a b => a == b) s)
def execVmsne (v : VArgs) (s : State) : Host.Outcome State Fault Refusal :=
  .next (vcompare v (fun _ a b => a != b) s)
def execVmsltS (v : VArgs) (s : State) : Host.Outcome State Fault Refusal :=
  .next (vcompare v (fun w a b => decide (sext w a < sext w b)) s)
def execVmsltZ (v : VArgs) (s : State) : Host.Outcome State Fault Refusal :=
  .next (vcompare v (fun _ a b => decide (a < b)) s)
def execVmsleS (v : VArgs) (s : State) : Host.Outcome State Fault Refusal :=
  .next (vcompare v (fun w a b => decide (sext w a ≤ sext w b)) s)
def execVmsleZ (v : VArgs) (s : State) : Host.Outcome State Fault Refusal :=
  .next (vcompare v (fun _ a b => decide (a ≤ b)) s)
def execVmsgtS (v : VArgs) (s : State) : Host.Outcome State Fault Refusal :=
  .next (vcompare v (fun w a b => decide (sext w b < sext w a)) s)
def execVmsgtZ (v : VArgs) (s : State) : Host.Outcome State Fault Refusal :=
  .next (vcompare v (fun _ a b => decide (b < a)) s)
def execVmsgeS (v : VArgs) (s : State) : Host.Outcome State Fault Refusal :=
  .next (vcompare v (fun w a b => decide (sext w b ≤ sext w a)) s)
def execVmsgeZ (v : VArgs) (s : State) : Host.Outcome State Fault Refusal :=
  .next (vcompare v (fun _ a b => decide (b ≤ a)) s)

def execVmand (d a b : Reg) (z : Bool) (s : State) : Host.Outcome State Fault Refusal :=
  .next (maskLogic d a b z (fun a b => a && b) s)
def execVmor (d a b : Reg) (z : Bool) (s : State) : Host.Outcome State Fault Refusal :=
  .next (maskLogic d a b z (fun a b => a || b) s)
def execVmxor (d a b : Reg) (z : Bool) (s : State) : Host.Outcome State Fault Refusal :=
  .next (maskLogic d a b z (fun a b => a != b) s)
def execVmandn (d a b : Reg) (z : Bool) (s : State) : Host.Outcome State Fault Refusal :=
  .next (maskLogic d a b z (fun a b => a && !b) s)
def execVmorn (d a b : Reg) (z : Bool) (s : State) : Host.Outcome State Fault Refusal :=
  .next (maskLogic d a b z (fun a b => a || !b) s)
def execVmnand (d a b : Reg) (z : Bool) (s : State) : Host.Outcome State Fault Refusal :=
  .next (maskLogic d a b z (fun a b => !(a && b)) s)
def execVmnor (d a b : Reg) (z : Bool) (s : State) : Host.Outcome State Fault Refusal :=
  .next (maskLogic d a b z (fun a b => !(a || b)) s)
def execVmxnor (d a b : Reg) (z : Bool) (s : State) : Host.Outcome State Fault Refusal :=
  .next (maskLogic d a b z (fun a b => a == b) s)

def execVcpop (d a : Reg) (m : Bool) (s : State) : Host.Outcome State Fault Refusal :=
  .next (maskCount d a m List.length s)
def execVfirst (d a : Reg) (m : Bool) (s : State) : Host.Outcome State Fault Refusal :=
  .next (maskCount d a m (fun l => l.headD (2 ^ 64 - 1)) s)
def execVmsbf (d a : Reg) (m z : Bool) (s : State) : Host.Outcome State Fault Refusal :=
  .next (maskFirst d a m z (fun i f => decide (i < f)) s)
def execVmsif (d a : Reg) (m z : Bool) (s : State) : Host.Outcome State Fault Refusal :=
  .next (maskFirst d a m z (fun i f => decide (i ≤ f)) s)
def execVmsof (d a : Reg) (m z : Bool) (s : State) : Host.Outcome State Fault Refusal :=
  .next (maskFirst d a m z (fun i f => i == f) s)

def execVslideup (d a b : Reg) (m z : Bool) (s : State) : Host.Outcome State Fault Refusal :=
  let k := (s.getX b).toNat
  .next (permute (s.h.badSource d a) d m z
    (fun h i => if k ≤ i then some (h.elem a.val (i - k) h.ew) else none) s)
def execVslidedown (d a b : Reg) (m z : Bool) (s : State) : Host.Outcome State Fault Refusal :=
  let k := (s.getX b).toNat
  .next (permute (s.h.badSource d a) d m z
    (fun h i => some (if i + k < h.vlmax then h.elem a.val (i + k) h.ew else 0)) s)
def execVslide1up (d a b : Reg) (m z : Bool) (s : State) : Host.Outcome State Fault Refusal :=
  .next (permute (s.h.badSource d a) d m z
    (fun h i => some (if i = 0 then (h.getX b).toNat % 2 ^ h.ew else h.elem a.val (i - 1) h.ew)) s)
def execVslide1down (d a b : Reg) (m z : Bool) (s : State) : Host.Outcome State Fault Refusal :=
  .next (permute (s.h.badSource d a) d m z
    (fun h i => some (if i + 1 < h.vc.vl then h.elem a.val (i + 1) h.ew else (h.getX b).toNat % 2 ^ h.ew)) s)
def execVrgather (v : VArgs) (s : State) : Host.Outcome State Fault Refusal :=
  let bad := s.h.badSource v.d v.a || (!v.w && s.h.badSource v.d v.b)
  .next (permute bad v.d v.m v.z
    (fun h i => let k := h.opB v h.ew i; some (if k < h.vlmax then h.elem v.a.val k h.ew else 0)) s)
def execVid (d : Reg) (m z : Bool) (s : State) : Host.Outcome State Fault Refusal :=
  .next (permute false d m z (fun _ i => some i) s)
/-- VMV.SX: element 0 alone. -/
def execVmvSx (d b : Reg) (m z : Bool) (s : State) : Host.Outcome State Fault Refusal :=
  .next (registerForm (!groupOk d s.h.grp) d s.h.grp (fun h =>
    if h.active m 0 then h.setElem d.val 0 h.ew (h.getX b).toNat
    else if z && h.vc.vstart == 0 then h.zeroElem d.val 0 h.ew else h) s)
def execVmvXs (d a : Reg) (s : State) : Host.Outcome State Fault Refusal :=
  .next (scalarForm (!groupOk a s.h.grp) d (fun h => BitVec.ofInt 64 (sext h.ew (h.elem a.val 0 h.ew))) s)
def execVcompress (d a b : Reg) (z : Bool) (s : State) : Host.Outcome State Fault Refusal :=
  .next (registerForm (s.h.badCompress d a b) d s.h.grp (compress d a b z) s)
def execVexpand (d a b : Reg) (z : Bool) (s : State) : Host.Outcome State Fault Refusal :=
  .next (registerForm (s.h.badCompress d a b) d s.h.grp (fun h => expandFrom d a b z h h.vlmax 0 0 h) s)
def execVscanadd (v : VArgs) (s : State) : Host.Outcome State Fault Refusal :=
  .next (scanAdd v.d v.a v.b v.m v.z v.w false s)
def execVscanaddSg (d a b : Reg) (z w : Bool) (s : State) : Host.Outcome State Fault Refusal :=
  .next (scanAdd d a b false z w true s)
def execVsortkZ (d a : Reg) (z : Bool) (s : State) : Host.Outcome State Fault Refusal :=
  .next (sortKeys d a z false false s)
def execVsortkS (d a : Reg) (z : Bool) (s : State) : Host.Outcome State Fault Refusal :=
  .next (sortKeys d a z true false s)
def execVsortkdZ (d a : Reg) (z : Bool) (s : State) : Host.Outcome State Fault Refusal :=
  .next (sortKeys d a z false true s)
def execVsortkdS (d a : Reg) (z : Bool) (s : State) : Host.Outcome State Fault Refusal :=
  .next (sortKeys d a z true true s)

end Sys2Proof.Machine
end

