-- ==== Sys2Proof/Machine/Factor.lean ====
section
/-! DEFINITION. Factor tiles (R228-R240): sweeps, solves, rows, saved images. -/

namespace Sys2Proof.Machine

/-! ### Frames -/

/-- A FACT instruction is one unit: its traps leave VSTART at 0 (R230). -/
def factUnit (x : M Unit) : M Unit :=
  tryCatch x fun
    | .trap c e a => throw (.trapUnit c e a)
    | st => throw st

/-- The causes of the instruction as a whole: VSTART, its own limits, strips, ownership (R41, R230). -/
def factStart (t : Tile) (bad barred : Bool) : M Unit := do
  let h ← getH
  if bad || h.vc.vstart != 0 then trapInstr .illegal
  if barred && h.ms.strip.isSome then trapInstr .stripop
  if !h.ownsTile t then trapInstr .tileown

/-- The limits on vector operands (R230). -/
def Hart.badFactVec (h : Hart) (vs : List Reg) : Bool := h.ew != 32 || vs.any fun v => !groupOk v h.grp

/-- Orders 1 and 2 of R230, and the order of the factor. -/
def factTile (t : Tile) (vec brokenOk : Bool) (row : Nat) : M TileReg := do
  let h ← getH
  let x := h.t.tile[t]
  if !x.factor || (vec && decide (h.vc.vl ≠ x.n.toNat)) || decide (x.n.toNat ≤ row) then trapInstr .illegal
  if x.broken && !brokenOk then trap .lostdef x.n.toNat 0
  return x

/-- FPTRAP of a FACT instruction, whatever the enables hold (R230): the class at an element. -/
def factTrap {α : Type} (fl : Fl) (el : Nat) (addr : Word) : M α := do
  modH (·.raise el fl)
  trap .fptrap el addr

/-- A code that is neither NaN nor infinite. -/
def finite32 (x : Nat) : Bool := match f32.value x with | .fin _ => true | _ => false

/-- Elements of an operand, with order 3 of R230: `from'` is the lowest one that counts. -/
def factOperand (v : Reg) (n from' : Nat) : M (List Nat) := do
  let h ← getH
  let xs := (List.range n).map fun i => h.elem v.val i 32
  match (List.range n).find? fun i => decide (from' ≤ i) && !finite32 (h.elem v.val i 32) with
  | some i => factTrap flNV i 0
  | none => return xs

/-- RoundTo(·, binary32, RNE) as a code. -/
def rnd32 (x : Exact) : Nat := (f32.round .rne x).bits

/-! ### TFINIT (R231) -/

/-- A diagonal matrix. -/
def diagTile (x : Nat) : Nat → TileReg → TileReg
  | 0, t => t
  | n + 1, t => (diagTile x n t).put n n x

def tfinit (t : Tile) (a : Reg) : M Unit := do
  let h ← getH
  match shapeOf h.t.facN with
  | none => trapInstr .illegal
  | some n =>
    factStart t false true
    let v := f32.value ((h.getX a).toNat % 2 ^ 32)
    if v.isNan || v.isInf || v.lt (.fin ⟨false, 0, 0⟩) then factTrap flNV 0 0
    let d := if v.isZero then 0 else rnd32 (squareRoot v)
    let x : TileReg := { factor := true, n := BitVec.ofNat 7 n }
    modH fun h => (h.modTile t fun _ => diagTile d n x).retireBy 8

/-! ### Sweeps (R232-R234) -/

/-- Why a sweep stops. -/
inductive SweepEnd where
  | done
  | lost (k r t : Nat)
  | overflow (k r t : Nat)
  deriving DecidableEq, Repr

/-- The rotation of a column: ρ, c and s (R232). -/
def rotation (hyp : Bool) (r t : Nat) : Nat × Nat × Nat :=
  let rv := f32.value r
  let tv := f32.value t
  let tt := f32.value (rnd32 (sumProducts .rne [] [(tv, tv)]))
  let q := rnd32 (sumProducts .rne [if hyp then tt.negate else tt] [(rv, rv)])
  let exact := sumProducts .rne [] [(rv, rv), (if hyp then tv.negate else tv, tv)]
  let pos := FVal.lt (.fin ⟨false, 0, 0⟩) (f32.value q)
  let rho := rnd32 (squareRoot (if pos then f32.value q else exact.v))
  (rho, rnd32 (divide rv (f32.value rho)), rnd32 (divide tv (f32.value rho)))

/-- The test of a removal on exact values: r² - t² ≤ δ r² (R233). -/
def losesDefinite (dlt : Nat) (r t : Nat) : Bool :=
  match f32.value r, f32.value t with
  | .fin x, .fin y =>
    let rr := x.mul x
    let yy := y.mul y
    let q := min (min rr.e yy.e) (rr.e - dlt)
    decide (rr.inUnits q - yy.inUnits q ≤ ({ rr with e := rr.e - dlt } : Dy).inUnits q)
  | _, _ => true

/-- Row k of R and the vector after a rotation, element by element. -/
def rotate (hyp : Bool) (c s : Nat) (row w : List Nat) : List (Nat × Nat) :=
  let cv := f32.value c
  let sv := f32.value s
  (row.zip w).map fun p =>
    let x := f32.value p.1
    let y := f32.value p.2
    (rnd32 (sumProducts .rne [] [(cv, x), (if hyp then sv.negate else sv, y)]),
     rnd32 (sumProducts .rne [] [(cv, y), (sv.negate, x)]))

/-- Elements of row `i` from column `j` on replaced. -/
def TileReg.putRow (t : TileReg) (i : Nat) : Nat → List Nat → TileReg
  | _, [] => t
  | j, x :: r => TileReg.putRow (t.put i j x) i (j + 1) r

/-- The columns from `k` on, `fuel` of them; `w` is the vector from element `k` on. `dlt` marks a removal. -/
def sweep (dlt : Option Nat) (n : Nat) : Nat → Nat → List Nat → TileReg → TileReg × SweepEnd
  | 0, _, _, a => (a, .done)
  | _, _, [], a => (a, .done)
  | fuel + 1, k, t :: w, a =>
    let r := a.get k k
    let lost := match dlt with | some d => losesDefinite d r t | none => false
    if lost then ({ a with broken := true }, .lost k r t)
    else if dlt.isNone && (f32.value r).isZero && (f32.value t).isZero then sweep dlt n fuel (k + 1) w a
    else
      let (rho, c, s) := rotation dlt.isSome r t
      let row := (List.range (n - (k + 1))).map fun j => a.get k (k + 1 + j)
      let new := rotate dlt.isSome c s row w
      if !finite32 rho || !finite32 c || !finite32 s || new.any fun p => !finite32 p.1 || !finite32 p.2 then
        ({ a with broken := true }, .overflow k r t)
      else sweep dlt n fuel (k + 1) (new.map (·.2)) ((a.put k k rho).putRow k (k + 1) (new.map (·.1)))

/-- EADDR of a trap inside a sweep. -/
def sweepAddr (r t : Nat) : Word := BitVec.ofNat 64 (r * 2 ^ 32 + t)

/-- TFUPD and TFDND. -/
def factSweep (t : Tile) (b : Reg) (dlt : Option Nat) : M Unit := do
  factStart t ((← getH).badFactVec [b]) true
  let x ← factTile t true false 0
  let n := x.n.toNat
  let w ← factOperand b n 0
  let (y, e) := sweep dlt n n 0 w x
  modH (·.modTile t fun _ => y)
  match e with
  | .done => modH (·.retireBy 8)
  | .lost k r v => trap .lostdef k (sweepAddr r v)
  | .overflow k r v => factTrap flOF k (sweepAddr r v)

/-! ### TFSOLV (R235) -/

/-- One quotient: the numerator summed and divided exactly. -/
def solveStep (b : Nat) (terms : List (Nat × Nat)) (d : Nat) : Nat :=
  let num := sumProducts .rne [f32.value b] (terms.map fun p => ((f32.value p.1).negate, f32.value p.2))
  rnd32 (divide num.v (f32.value d))

/-- The forward solve: `y` holds the elements below `i`; stops at the element that is not finite. -/
def forwardSolve (a : TileReg) : Nat → List Nat → List Nat → Except Nat (List Nat)
  | _, [], y => .ok y
  | i, b :: r, y =>
    let v := solveStep b (y.zipIdx.map fun p => (a.get p.2 i, p.1)) (a.get i i)
    if finite32 v then forwardSolve a (i + 1) r (y ++ [v]) else .error i

/-- The back solve: `z` holds the elements above `i`; the list runs downward. -/
def backSolve (a : TileReg) (n : Nat) : Nat → List Nat → List Nat → Except Nat (List Nat)
  | _, [], z => .ok z
  | i, b :: r, z =>
    let v := solveStep b (z.zipIdx.map fun p => (a.get i (i + 1 + p.2), p.1)) (a.get i i)
    if finite32 v then backSolve a n (i - 1) r (v :: z) else .error i

/-- The solution, or the element whose value is not finite. -/
def solve (a : TileReg) (n : Nat) (part : BitVec 2) (b : List Nat) : Except Nat (List Nat) := do
  let y ← if part = 2 then pure b else forwardSolve a 0 b []
  if part = 1 then return y else backSolve a n (n - 1) y.reverse []

/-- Registers about to be written, and elements written from 0 on. -/
def factResult (d : Reg) (xs : List Nat) : M Unit := do
  modH fun h => (Hart.putList d 32 0 xs h).retireBy 8

def tfsolv (d : Reg) (t : Tile) (b : Reg) (part : BitVec 2) : M Unit := do
  let h ← getH
  factStart t (h.badFactVec [d, b]) false
  let x ← factTile t true false 0
  let n := x.n.toNat
  let v ← factOperand b n 0
  match (List.range n).find? fun k => x.get k k == 0 with
  | some k => trap .lostdef k 0
  | none =>
    claim d h.grp
    match solve x n part v with
    | .ok z => factResult d z
    | .error i => factTrap flOF i 0

/-! ### TFRD and TFWR (R236) -/

def tfrd (d : Reg) (t : Tile) (row : BitVec 6) : M Unit := do
  let h ← getH
  factStart t (h.badFactVec [d]) false
  let x ← factTile t true true row.toNat
  claim d h.grp
  factResult d ((List.range x.n.toNat).map fun j => x.get row.toNat j)

def tfwr (t : Tile) (b : Reg) (row : BitVec 6) : M Unit := do
  factStart t ((← getH).badFactVec [b]) true
  let x ← factTile t true false row.toNat
  let k := row.toNat
  let v ← factOperand b x.n.toNat k
  let d := (v[k]?).getD 0
  if (f32.value d).lt (.fin ⟨false, 0, 0⟩) then factTrap flNV k 0
  let r := (if (f32.value d).isZero then 0 else d) :: v.drop (k + 1)
  modH fun h => (h.modTile t fun x => x.putRow k k r).retireBy 8

/-! ### TFSAVE and TFLOAD (R237, R238) -/

/-- The bytes of row `i`. -/
def rowBytes (x : TileReg) (i : Nat) : List Byte := toBytes 256 (bits x.val.toNat (2048 * i) 2048)

/-- The header line of an image with its CRC. -/
def imageHeader (x : TileReg) (rows : List Byte) : List Byte :=
  let head := toBytes 12 (x.n.toNat + 128 * x.broken.toNat)
  head ++ toBytes 4 (crc32c (head ++ rows)) ++ List.replicate 112 0

/-- The lines of a list of bytes. -/
def imageLines : Nat → List Byte → List (List Byte)
  | 0, _ => []
  | n + 1, bs => bs.take 128 :: imageLines n (bs.drop 128)

/-- Address of line `i` of an image. -/
def lineAddr (base : Word) (i : Nat) : Nat := (base + BitVec.ofNat 64 (128 * i)).toNat

def factAligned (base : Word) : M Unit := do
  if base.toNat % 128 ≠ 0 then trap .misalign 0 base

/-- Every line translated, lowest first. -/
def imagePlaces (base : Word) (n : Nat) : M (List (List (Nat × Loc × Nat))) :=
  (List.range n).mapM fun i => places i (lineAddr base i) 128 .store false

/-- TFSAVE (R238). Its header's store is a release at domain scope (notes/assumptions/31.md), which raises a held
failure (R342). -/
def tfsave (t : Tile) (a : Reg) : M Unit := do
  factStart t false true
  let x ← factTile t false true 0
  let base ← readX a
  factAligned base
  raiseFabric
  let n := x.n.toNat
  let rows := (List.range n).flatMap fun i => rowBytes x i
  let ps ← imagePlaces base (2 * n + 1)
  ps.forM bankReady
  let parts := ((ps.drop 1).zip (imageLines (2 * n) rows)).flatMap fun p => storeParts p.1 p.2 none none
  enterStore none (parts ++ storeParts (ps.headD []) (imageHeader x rows) none (some 4))
  (List.range (2 * n + 1)).forM fun i => noteWatch .store (lineAddr base i) 128 false none
  modH (·.retireBy 8)

/-- Whether row `i` keeps the conditions of R228 for order `n`. -/
def rowOk (x : TileReg) (n i : Nat) : Bool :=
  (List.range 64).all fun j =>
    let v := x.get i j
    if j < i || n ≤ j then v == 0 else finite32 v && (i != j || decide (v < 2 ^ 31))

/-- Lines read one after another. -/
def readLines (base : Word) : Nat → Nat → M (List Byte)
  | 0, _ => return []
  | n + 1, i => do
    let b ← loadBytes i (lineAddr base i) 128 false
    return b ++ (← readLines base n (i + 1))

/-- TFLOAD (R238). Its header's load is an acquire: younger loads that bound before it are unbound. -/
def tfload (t : Tile) (a : Reg) : M Unit := do
  factStart t false true
  let base ← readX a
  factAligned base
  let (head, k) ← loadPlaced 0 base.toNat 128 false
  if !(← getH).boundAt k then acquire
  let w := ofBytes (head.take 12)
  let n := w % 128
  if n = 0 ∨ 64 < n ∨ w / 256 ≠ 0 then trap .lostdef 64 base
  let rows ← readLines base (2 * n) 1
  if crc32c (head.take 12 ++ rows) ≠ ofBytes ((head.drop 12).take 4) then trap .mcheck 0 base
  let x : TileReg :=
    { val := BitVec.ofNat 131072 (ofBytes rows)
      factor := true
      n := BitVec.ofNat 7 n
      broken := bits w 7 1 == 1 }
  match (if x.broken then none else (List.range n).find? fun i => !rowOk x n i) with
  | some i => trap .lostdef i base
  | none => modH fun h => (h.modTile t fun _ => x).retireBy 8

/-! ### Meanings -/

def execTfinit (t : Tile) (a : Reg) (s : State) : Host.Outcome State Fault Refusal := runM (factUnit (tfinit t a)) s
def execTfupd (t : Tile) (b : Reg) (s : State) : Host.Outcome State Fault Refusal :=
  runM (factUnit (factSweep t b none)) s
def execTfdnd (t : Tile) (b : Reg) (dlt : BitVec 6) (s : State) : Host.Outcome State Fault Refusal :=
  runM (factUnit (factSweep t b (some (if dlt = 0 then 20 else dlt.toNat)))) s
def execTfsolv (d : Reg) (t : Tile) (b : Reg) (part : BitVec 2) (s : State) : Host.Outcome State Fault Refusal :=
  runM (factUnit (tfsolv d t b part)) s
def execTfrd (d : Reg) (t : Tile) (row : BitVec 6) (s : State) : Host.Outcome State Fault Refusal :=
  runM (factUnit (tfrd d t row)) s
def execTfwr (t : Tile) (b : Reg) (row : BitVec 6) (s : State) : Host.Outcome State Fault Refusal :=
  runM (factUnit (tfwr t b row)) s
def execTfsave (t : Tile) (a : Reg) (s : State) : Host.Outcome State Fault Refusal := runM (factUnit (tfsave t a)) s
def execTfload (t : Tile) (a : Reg) (s : State) : Host.Outcome State Fault Refusal := runM (factUnit (tfload t a)) s

end Sys2Proof.Machine
end

