-- ==== Sys2Proof/Machine/ScalarInt.lean ====
section
/-! DEFINITION. Scalar integer instructions: immediate forms (R282), register forms (R283), their prefixed (R34) and
compressed (R32) forms. None traps and none sets a flag. -/

namespace Sys2Proof.Machine

/-- The end of a scalar instruction of `n` bytes with result `v` (R25). -/
def State.result (s : State) (d : Reg) (v : Word) (n : Nat) : State := (s.setX d v).advance n

/-- A truth value as a register value. -/
def boolWord (b : Bool) : Word := if b then 1 else 0

/-- A result of the shared integer functions at width 64. -/
def int64 (f : Nat → Nat → Nat → Nat) (a b : Word) : Word := BitVec.ofNat 64 (f 64 a.toNat b.toNat)

/-! ### Immediate forms (R282) -/

def execAddi (d a : Reg) (i : BitVec 15) (s : State) : Host.Outcome State Fault Refusal :=
  .next (s.result d (s.getX a + immWord i) 4)
def execAndi (d a : Reg) (i : BitVec 15) (s : State) : Host.Outcome State Fault Refusal :=
  .next (s.result d (s.getX a &&& immWord i) 4)
def execOri (d a : Reg) (i : BitVec 15) (s : State) : Host.Outcome State Fault Refusal :=
  .next (s.result d (s.getX a ||| immWord i) 4)
def execXori (d a : Reg) (i : BitVec 15) (s : State) : Host.Outcome State Fault Refusal :=
  .next (s.result d (s.getX a ^^^ immWord i) 4)
def execSltiS (d a : Reg) (i : BitVec 15) (s : State) : Host.Outcome State Fault Refusal :=
  .next (s.result d (boolWord ((s.getX a).slt (immWord i))) 4)
def execSltiZ (d a : Reg) (i : BitVec 15) (s : State) : Host.Outcome State Fault Refusal :=
  .next (s.result d (boolWord ((s.getX a).ult (immWord i))) 4)
def execLui (d a : Reg) (i : BitVec 15) (s : State) : Host.Outcome State Fault Refusal :=
  .next (s.result d (s.getX a + immWord i <<< 40) 4)
def execAddpc (d : Reg) (i : BitVec 15) (s : State) : Host.Outcome State Fault Refusal :=
  .next (s.result d (s.h.pc.setWidth 64 + immWord i) 4)
def execSlli (d a : Reg) (k : BitVec 6) (s : State) : Host.Outcome State Fault Refusal :=
  .next (s.result d (s.getX a <<< k.toNat) 4)
def execSrli (d a : Reg) (k : BitVec 6) (s : State) : Host.Outcome State Fault Refusal :=
  .next (s.result d (s.getX a >>> k.toNat) 4)
def execSrai (d a : Reg) (k : BitVec 6) (s : State) : Host.Outcome State Fault Refusal :=
  .next (s.result d ((s.getX a).sshiftRight k.toNat) 4)
def execRori (d a : Reg) (k : BitVec 6) (s : State) : Host.Outcome State Fault Refusal :=
  .next (s.result d ((s.getX a).rotateRight k.toNat) 4)

/-! ### PXI forms (R34): the same effects with the 41-bit immediate, eight bytes long -/

def execAddiPxi (d a : Reg) (i : BitVec 41) (s : State) : Host.Outcome State Fault Refusal :=
  .next (s.result d (s.getX a + immWord i) 8)
def execAndiPxi (d a : Reg) (i : BitVec 41) (s : State) : Host.Outcome State Fault Refusal :=
  .next (s.result d (s.getX a &&& immWord i) 8)
def execOriPxi (d a : Reg) (i : BitVec 41) (s : State) : Host.Outcome State Fault Refusal :=
  .next (s.result d (s.getX a ||| immWord i) 8)
def execXoriPxi (d a : Reg) (i : BitVec 41) (s : State) : Host.Outcome State Fault Refusal :=
  .next (s.result d (s.getX a ^^^ immWord i) 8)
def execSltiSPxi (d a : Reg) (i : BitVec 41) (s : State) : Host.Outcome State Fault Refusal :=
  .next (s.result d (boolWord ((s.getX a).slt (immWord i))) 8)
def execSltiZPxi (d a : Reg) (i : BitVec 41) (s : State) : Host.Outcome State Fault Refusal :=
  .next (s.result d (boolWord ((s.getX a).ult (immWord i))) 8)
def execLuiPxi (d a : Reg) (i : BitVec 41) (s : State) : Host.Outcome State Fault Refusal :=
  .next (s.result d (s.getX a + immWord i <<< 40) 8)
def execAddpcPxi (d : Reg) (i : BitVec 41) (s : State) : Host.Outcome State Fault Refusal :=
  .next (s.result d (s.h.pc.setWidth 64 + immWord i) 8)

/-! ### Register forms (R283) -/

def execAdd (d a b : Reg) (s : State) : Host.Outcome State Fault Refusal :=
  .next (s.result d (s.getX a + s.getX b) 4)
def execSub (d a b : Reg) (s : State) : Host.Outcome State Fault Refusal :=
  .next (s.result d (s.getX a - s.getX b) 4)
def execAnd (d a b : Reg) (s : State) : Host.Outcome State Fault Refusal :=
  .next (s.result d (s.getX a &&& s.getX b) 4)
def execOr (d a b : Reg) (s : State) : Host.Outcome State Fault Refusal :=
  .next (s.result d (s.getX a ||| s.getX b) 4)
def execXor (d a b : Reg) (s : State) : Host.Outcome State Fault Refusal :=
  .next (s.result d (s.getX a ^^^ s.getX b) 4)
def execSll (d a b : Reg) (s : State) : Host.Outcome State Fault Refusal :=
  .next (s.result d (s.getX a <<< ((s.getX b).toNat % 64)) 4)
def execSrl (d a b : Reg) (s : State) : Host.Outcome State Fault Refusal :=
  .next (s.result d (s.getX a >>> ((s.getX b).toNat % 64)) 4)
def execSra (d a b : Reg) (s : State) : Host.Outcome State Fault Refusal :=
  .next (s.result d ((s.getX a).sshiftRight ((s.getX b).toNat % 64)) 4)
def execSltS (d a b : Reg) (s : State) : Host.Outcome State Fault Refusal :=
  .next (s.result d (boolWord ((s.getX a).slt (s.getX b))) 4)
def execSltZ (d a b : Reg) (s : State) : Host.Outcome State Fault Refusal :=
  .next (s.result d (boolWord ((s.getX a).ult (s.getX b))) 4)
def execMul (d a b : Reg) (s : State) : Host.Outcome State Fault Refusal :=
  .next (s.result d (s.getX a * s.getX b) 4)
def execMulhS (d a b : Reg) (s : State) : Host.Outcome State Fault Refusal :=
  .next (s.result d (int64 mulhS (s.getX a) (s.getX b)) 4)
def execMulhZ (d a b : Reg) (s : State) : Host.Outcome State Fault Refusal :=
  .next (s.result d (int64 mulhZ (s.getX a) (s.getX b)) 4)
def execDivS (d a b : Reg) (s : State) : Host.Outcome State Fault Refusal :=
  .next (s.result d (int64 divS (s.getX a) (s.getX b)) 4)
def execDivZ (d a b : Reg) (s : State) : Host.Outcome State Fault Refusal :=
  .next (s.result d (int64 divZ (s.getX a) (s.getX b)) 4)
def execRemS (d a b : Reg) (s : State) : Host.Outcome State Fault Refusal :=
  .next (s.result d (int64 remS (s.getX a) (s.getX b)) 4)
def execRemZ (d a b : Reg) (s : State) : Host.Outcome State Fault Refusal :=
  .next (s.result d (int64 remZ (s.getX a) (s.getX b)) 4)
def execMinS (d a b : Reg) (s : State) : Host.Outcome State Fault Refusal :=
  .next (s.result d (int64 minS (s.getX a) (s.getX b)) 4)
def execMinZ (d a b : Reg) (s : State) : Host.Outcome State Fault Refusal :=
  .next (s.result d (int64 minZ (s.getX a) (s.getX b)) 4)
def execMaxS (d a b : Reg) (s : State) : Host.Outcome State Fault Refusal :=
  .next (s.result d (int64 maxS (s.getX a) (s.getX b)) 4)
def execMaxZ (d a b : Reg) (s : State) : Host.Outcome State Fault Refusal :=
  .next (s.result d (int64 maxZ (s.getX a) (s.getX b)) 4)
def execAndn (d a b : Reg) (s : State) : Host.Outcome State Fault Refusal :=
  .next (s.result d (s.getX a &&& ~~~(s.getX b)) 4)
def execClz (d a : Reg) (s : State) : Host.Outcome State Fault Refusal :=
  .next (s.result d (BitVec.ofNat 64 (clzW 64 (s.getX a).toNat)) 4)
def execCtz (d a : Reg) (s : State) : Host.Outcome State Fault Refusal :=
  .next (s.result d (BitVec.ofNat 64 (ctzW 64 (s.getX a).toNat)) 4)
def execCpop (d a : Reg) (s : State) : Host.Outcome State Fault Refusal :=
  .next (s.result d (BitVec.ofNat 64 (popcount 64 (s.getX a).toNat)) 4)
def execMadd (d a b c : Reg) (s : State) : Host.Outcome State Fault Refusal :=
  .next (s.result d (s.getX a * s.getX b + s.getX c) 4)
def execAddsh (d a b : Reg) (k : BitVec 3) (s : State) : Host.Outcome State Fault Refusal :=
  .next (s.result d (s.getX a + s.getX b <<< k.toNat) 4)

/-! ### Compressed forms (R32): the effect of the expanded word, two bytes long -/

def execCAddi (d : Reg) (i : BitVec 5) (s : State) : Host.Outcome State Fault Refusal :=
  .next (s.result d (s.getX d + immWord i) 2)
def execCLi (d : Reg) (i : BitVec 5) (s : State) : Host.Outcome State Fault Refusal :=
  .next (s.result d (immWord i) 2)
def execCMv (d b : Reg) (s : State) : Host.Outcome State Fault Refusal :=
  .next (s.result d (s.getX b) 2)
def execCAdd (d b : Reg) (s : State) : Host.Outcome State Fault Refusal :=
  .next (s.result d (s.getX d + s.getX b) 2)
def execCSub (d b : Reg) (s : State) : Host.Outcome State Fault Refusal :=
  .next (s.result d (s.getX d - s.getX b) 2)
def execCAnd (d b : Reg) (s : State) : Host.Outcome State Fault Refusal :=
  .next (s.result d (s.getX d &&& s.getX b) 2)
def execCOr (d b : Reg) (s : State) : Host.Outcome State Fault Refusal :=
  .next (s.result d (s.getX d ||| s.getX b) 2)
def execCXor (d b : Reg) (s : State) : Host.Outcome State Fault Refusal :=
  .next (s.result d (s.getX d ^^^ s.getX b) 2)
def execCSlli (d : Reg) (k : BitVec 5) (s : State) : Host.Outcome State Fault Refusal :=
  .next (s.result d (s.getX d <<< k.toNat) 2)
def execCSrli (d : Reg) (k : BitVec 5) (s : State) : Host.Outcome State Fault Refusal :=
  .next (s.result d (s.getX d >>> k.toNat) 2)

end Sys2Proof.Machine
end

