-- ==== Sys2Proof/Machine/VFix.lean ====
section
/-! DEFINITION. Vector fixed-point instructions (R172-R175). -/

namespace Sys2Proof.Machine

/-- Rnd(x, sh) under FXRND (R172). -/
def rnd (mode : BitVec 2) (x : Int) (sh : Nat) : Int :=
  if sh = 0 then x
  else
    let p : Int := (2 ^ sh : Nat)
    let half : Int := (2 ^ (sh - 1) : Nat)
    let q := x / p
    let f := x - q * p
    match mode.toNat with
    | 0 => (x + half) / p
    | 1 => if half < f ∨ (f = half ∧ q % 2 = 1) then q + 1 else q
    | 2 => q
    | _ => if f ≠ 0 ∧ q % 2 = 0 then q + 1 else q

/-- Sat(x, bits, signed) as a number of `w` bits, with whether it changed x (R46). -/
def sat (w : Nat) (signed : Bool) (x : Int) : Nat × Bool :=
  let hi : Int := if signed then (2 ^ (w - 1) - 1 : Nat) else (2 ^ w - 1 : Nat)
  let lo : Int := if signed then -(2 ^ (w - 1) : Nat) else 0
  if x < lo then (wrap w lo, true) else if hi < x then (wrap w hi, true) else (wrap w x, false)

/-- An element with its saturation. -/
def Hart.setSat (h : Hart) (v i w : Nat) (x : Nat × Bool) : Hart := (h.setElem v i w x.1).saturated x.2

/-- The loop of R167 for a form that may saturate: F takes FXRND, the width, a and b. -/
def Hart.fixedwise (h : Hart) (v : VArgs) (F : BitVec 2 → Nat → Nat → Nat → Nat × Bool) : Hart :=
  (h.eachActive v.m fun h i =>
    h.setSat v.d.val i h.ew (F h.f.fxrnd h.ew (h.elem v.a.val i h.ew) (h.opB v h.ew i))).tailAll v.m v.z v.d h.ew

/-- A form of R173. -/
def vfix (v : VArgs) (F : BitVec 2 → Nat → Nat → Nat → Nat × Bool) (s : State) : State :=
  registerForm (s.h.badGroups v) v.d s.h.grp (·.fixedwise v F) s

/-- The limits of a narrowing form (R174). -/
def Hart.badClip (h : Hart) (v : VArgs) : Bool :=
  let g := h.grp
  h.ew == 64 || decide (4 < g) || !groupOk v.a (2 * g) || !groupOk v.d g || overlaps v.d g v.a (2 * g) ||
  (!v.w && !groupOk v.b g)

/-- A narrowing shift (R174): `src` reads the source of width 2EW. -/
def vclip (v : VArgs) (src : Nat → Nat → Int) (signed : Bool) (s : State) : State :=
  registerForm (s.h.badClip v) v.d s.h.grp (fun h =>
    (h.eachActive v.m fun h i =>
      h.setSat v.d.val i h.ew
        (sat h.ew signed (rnd h.f.fxrnd (src (2 * h.ew) (h.elem v.a.val i (2 * h.ew)))
          (h.opB v h.ew i % (2 * h.ew))))).tailAll v.m v.z v.d h.ew) s

/-- A number read as signed or unsigned (R46). -/
def readInt (signed : Bool) (w x : Nat) : Int := if signed then sext w x else (x % 2 ^ w : Nat)

/-- The exact sum of an element and its four products (R175). -/
def Hart.dot4 (h : Hart) (v : VArgs) (sa sb : Bool) (i : Nat) : Int :=
  let q := h.ew / 4
  let b (j : Nat) : Nat := if v.w then bits (h.getX v.b).toNat (q * j) q else h.elem v.b.val (4 * i + j) q
  (List.range 4).foldl (fun t j => t + readInt sa q (h.elem v.a.val (4 * i + j) q) * readInt sb q (b j))
    (readInt sa h.ew (h.elem v.d.val i h.ew))

/-- A dot form (R175). -/
def vdot4 (v : VArgs) (sa sb : Bool) (s : State) : State :=
  registerForm (s.h.badGroups v || s.h.ew < 32) v.d s.h.grp (fun h =>
    (h.eachActive v.m fun h i => h.setSat v.d.val i h.ew (sat h.ew sa (h.dot4 v sa sb i))).tailAll v.m v.z v.d h.ew) s

/-! ### Meanings -/

def execVsaddS (v : VArgs) (s : State) : Host.Outcome State Fault Refusal :=
  .next (vfix v (fun _ w a b => sat w true (sext w a + sext w b)) s)
def execVsaddZ (v : VArgs) (s : State) : Host.Outcome State Fault Refusal :=
  .next (vfix v (fun _ w a b => sat w false (a + b)) s)
def execVssubS (v : VArgs) (s : State) : Host.Outcome State Fault Refusal :=
  .next (vfix v (fun _ w a b => sat w true (sext w a - sext w b)) s)
def execVssubZ (v : VArgs) (s : State) : Host.Outcome State Fault Refusal :=
  .next (vfix v (fun _ w a b => sat w false (a - b)) s)
def execVaaddS (v : VArgs) (s : State) : Host.Outcome State Fault Refusal :=
  .next (vfix v (fun r w a b => (wrap w (rnd r (sext w a + sext w b) 1), false)) s)
def execVaaddZ (v : VArgs) (s : State) : Host.Outcome State Fault Refusal :=
  .next (vfix v (fun r w a b => (wrap w (rnd r (a + b) 1), false)) s)
def execVasubS (v : VArgs) (s : State) : Host.Outcome State Fault Refusal :=
  .next (vfix v (fun r w a b => (wrap w (rnd r (sext w a - sext w b) 1), false)) s)
def execVasubZ (v : VArgs) (s : State) : Host.Outcome State Fault Refusal :=
  .next (vfix v (fun r w a b => (wrap w (rnd r (a - b) 1), false)) s)
def execVsmulS (v : VArgs) (s : State) : Host.Outcome State Fault Refusal :=
  .next (vfix v (fun r w a b => sat w true (rnd r (sext w a * sext w b) (w - 1))) s)
def execVssraS (v : VArgs) (s : State) : Host.Outcome State Fault Refusal :=
  .next (vfix v (fun r w a b => (wrap w (rnd r (sext w a) (b % w)), false)) s)
def execVssrlZ (v : VArgs) (s : State) : Host.Outcome State Fault Refusal :=
  .next (vfix v (fun r w a b => (wrap w (rnd r a (b % w)), false)) s)
def execVnclipS (v : VArgs) (s : State) : Host.Outcome State Fault Refusal :=
  .next (vclip v sext true s)
def execVnclipZ (v : VArgs) (s : State) : Host.Outcome State Fault Refusal :=
  .next (vclip v (fun _ x => x) false s)
def execVnclipSu (v : VArgs) (s : State) : Host.Outcome State Fault Refusal :=
  .next (vclip v sext false s)
def execVdot4S (v : VArgs) (s : State) : Host.Outcome State Fault Refusal :=
  .next (vdot4 v true true s)
def execVdot4Z (v : VArgs) (s : State) : Host.Outcome State Fault Refusal :=
  .next (vdot4 v false false s)
def execVdot4Su (v : VArgs) (s : State) : Host.Outcome State Fault Refusal :=
  .next (vdot4 v true false s)

end Sys2Proof.Machine
end

