-- ==== Sys2Proof/Machine/VFp.lean ====
section
/-! DEFINITION. Vector floating point, element by element (R185-R201, R209): arithmetic, compares, conversions, special
functions, random words. -/

namespace Sys2Proof.Machine

/-- The element format that EW and B name; none at e8 and where B = 1 has no 16-bit operand to choose (R185). -/
def Hart.elemFmt (h : Hart) (bf : Bool) : Option FFmt :=
  match h.vc.ew.toNat, bf with
  | 1, false => some f16
  | 1, true => some bf16
  | 2, false => some f32
  | 3, false => some f64
  | _, _ => none

/-- The loop of a per-element form: active elements among `n` from `i` on. The first one that raises an enabled class
is returned with its flags raised and its destination not written (R190). -/
def Hart.fpLoop (m : Bool) (F : Hart → Nat → FRes) (v : Reg) (w : Nat) : Nat → Nat → Hart → Hart × Option Nat
  | 0, _, h => (h, none)
  | n + 1, i, h =>
    if h.unmasked m i then
      let r := F h i
      if r.fl &&& h.f.fen ≠ 0 then (h.raise i r.fl, some i)
      else Hart.fpLoop m F v w n (i + 1) ((h.raise i r.fl).setElem v.val i w r.bits)
    else Hart.fpLoop m F v w n (i + 1) h

/-- A per-element form that writes `n` registers from `v` on in elements of `w` bits. -/
def floatForm (bad : Bool) (v : Reg) (n w : Nat) (m z : Bool) (F : Hart → Nat → FRes) (s : State) : State :=
  if bad then s.illegal
  else match s.h.claim v.val n with
    | none => takeTrap .stripw 0 (s.h.pc.setWidth 64) s
    | some h => match Hart.fpLoop m F v w (h.vc.vl - h.vc.vstart.toNat) h.vc.vstart.toNat h with
      | (h', none) => { s with h := (h'.tailAll m z v w).retireV }
      | (h', some i) => takeTrap .fptrap i 0 { s with h := h' }

/-- An element-wise form that rounds (R193): `F` takes a, b and d. -/
def vfRound (v : VArgs) (bf : Bool) (F : RM → FVal → FVal → FVal → Exact) (s : State) : State :=
  match s.h.elemFmt bf, rmOf s.h.f.frm with
  | some f, some rm =>
    floatForm (s.h.badGroups v) v.d s.h.grp s.h.ew v.m v.z (fun h i =>
      f.round rm (F rm (f.value (h.elem v.a.val i h.ew)) (f.value (h.opB v h.ew i))
        (f.value (h.elem v.d.val i h.ew)))) s
  | _, _ => s.illegal

/-- An element-wise form that never rounds, on codes (R194). -/
def vfCodes (v : VArgs) (bf : Bool) (F : FFmt → Nat → Nat → FRes) (s : State) : State :=
  match s.h.elemFmt bf with
  | some f =>
    floatForm (s.h.badGroups v) v.d s.h.grp s.h.ew v.m v.z
      (fun h i => F f (h.elem v.a.val i h.ew) (h.opB v h.ew i)) s
  | none => s.illegal

/-- A compare (R195). -/
def vfCompare (v : VArgs) (bf quiet : Bool) (C : FVal → FVal → Bool) (s : State) : State :=
  match s.h.elemFmt bf with
  | some f =>
    floatForm (!groupOk v.a s.h.grp || (!v.w && !groupOk v.b s.h.grp)) v.d 1 1 v.m v.z (fun h i =>
      let x := f.value (h.elem v.a.val i h.ew)
      let y := f.value (h.opB v h.ew i)
      ⟨(C x y).toNat, cmpFl quiet x y⟩) s
  | none => s.illegal

/-- A form of one operand that keeps the width (R196, R197, R201). -/
def vfUnary (d a : Reg) (m z bf : Bool) (F : FFmt → RM → Nat → FRes) (s : State) : State :=
  match s.h.elemFmt bf, rmOf s.h.f.frm with
  | some f, some rm =>
    floatForm (!groupOk d s.h.grp || !groupOk a s.h.grp) d s.h.grp s.h.ew m z
      (fun h i => F f rm (h.elem a.val i h.ew)) s
  | _, _ => s.illegal

/-- A special function (R201). -/
def vfSpecial (d a : Reg) (m z bf : Bool) (F : FVal → Exact) (s : State) : State :=
  vfUnary d a m z bf (fun f rm x => f.round rm (F (f.value x))) s

/-- The format of twice a width. -/
def FFmt.double (f : FFmt) : FFmt := if f.width = 16 then f32 else f64

/-- The operands of VFWMACC as VFWCVT and R169 take them. -/
def Hart.badWide1 (h : Hart) (d a : Reg) : Bool := h.badWide { d := d, a := a, b := 0, m := false, z := false, w := true }

/-- The limits of VFNCVT (R174). -/
def Hart.badNarrow1 (h : Hart) (d a : Reg) : Bool :=
  let g := h.grp
  h.ew == 64 || decide (4 < g) || !groupOk a (2 * g) || !groupOk d g || overlaps d g a (2 * g)

/-- The format at e16 or e32, and its double (R199, R200). -/
def Hart.narrowFmt (h : Hart) (bf : Bool) : Option FFmt := if h.ew = 64 then none else h.elemFmt bf

/-- Operand b[j] of VFDOT2, an element of width EW/2 (R200). -/
def Hart.dotB (h : Hart) (v : VArgs) (i k : Nat) : Nat :=
  let w := h.ew / 2
  if v.w then bits (h.getX v.b).toNat (k * w) w else h.elem v.b.val (2 * i + k) w

/-- The source format of VFDOT2. -/
def Hart.dotFmt (h : Hart) (bf : Bool) : Option FFmt :=
  match h.vc.ew.toNat, bf with
  | 2, false => some f16
  | 2, true => some bf16
  | 3, false => some f32
  | _, _ => none

/-- The exact sum of VFDOT2 (R200). -/
def dotExact (rm : RM) (d : FVal) (p q : FVal × FVal) : Exact := sumProducts rm [d] [p, q]

/-! ### Random elements (R209) -/

/-- Words of an element. -/
def Hart.wpe (h : Hart) : Nat := if h.ew = 64 then 2 else 1

/-- The words of element `i`, the second above the first. -/
def Hart.randomBits (h : Hart) (m : Bool) (i : Nat) : Nat :=
  let t := h.wpe * h.selectedBelow m i
  let w (k : Nat) : Nat := randWord h.f.rkey.toNat h.counter (t + k)
  if h.ew = 64 then w 1 * 2 ^ 32 + w 0 else w 0

/-- A form of random elements: the mask and the counter are those of its start. -/
def randomForm (bad : Bool) (d : Reg) (m z : Bool) (F : Hart → Nat → Nat) (s : State) : State :=
  registerForm (bad || s.h.ew == 8 || !groupOk d s.h.grp) d s.h.grp (fun h0 =>
    (Hart.over (fun h i =>
      if h0.active m i then h.setElem d.val i h.ew (F h0 i) else if z then h.zeroElem d.val i h.ew else h)
      (h0.vlmax - h0.vc.vstart.toNat) h0.vc.vstart.toNat h0).bumpCounter
      ((h0.wpe * h0.selectedBelow m h0.vc.vl + 3) / 4)) s

/-- The value of VRANDF: a fraction with the bits kept. -/
def Hart.randomFloat (h : Hart) (m : Bool) (i : Nat) : Nat :=
  let x := h.randomBits m i
  match h.vc.ew.toNat with
  | 1 => (bf16.round .rne { v := .fin ⟨false, x / 2 ^ 24, -8⟩ }).bits
  | 2 => (f32.round .rne { v := .fin ⟨false, x / 2 ^ 8, -24⟩ }).bits
  | _ => (f64.round .rne { v := .fin ⟨false, x / 2 ^ 11, -53⟩ }).bits

/-! ### Meanings -/

def execVfadd (v : VArgs) (h : Bool) (s : State) : Host.Outcome State Fault Refusal :=
  .next (vfRound v h (fun rm a b _ => addF rm a b) s)
def execVfsub (v : VArgs) (h : Bool) (s : State) : Host.Outcome State Fault Refusal :=
  .next (vfRound v h (fun rm a b _ => subF rm a b) s)
def execVfrsub (v : VArgs) (h : Bool) (s : State) : Host.Outcome State Fault Refusal :=
  .next (vfRound v h (fun rm a b _ => subF rm b a) s)
def execVfmul (v : VArgs) (h : Bool) (s : State) : Host.Outcome State Fault Refusal :=
  .next (vfRound v h (fun rm a b _ => mulF rm a b) s)
def execVfdiv (v : VArgs) (h : Bool) (s : State) : Host.Outcome State Fault Refusal :=
  .next (vfRound v h (fun _ a b _ => divide a b) s)
def execVfrdiv (v : VArgs) (h : Bool) (s : State) : Host.Outcome State Fault Refusal :=
  .next (vfRound v h (fun _ a b _ => divide b a) s)
def execVfmin (v : VArgs) (h : Bool) (s : State) : Host.Outcome State Fault Refusal :=
  .next (vfCodes v h (fun f => f.select false) s)
def execVfmax (v : VArgs) (h : Bool) (s : State) : Host.Outcome State Fault Refusal :=
  .next (vfCodes v h (fun f => f.select true) s)
def execVfsgnj (v : VArgs) (h : Bool) (s : State) : Host.Outcome State Fault Refusal :=
  .next (vfCodes v h (fun f x y => ⟨f.inject 0 x y, 0⟩) s)
def execVfsgnjn (v : VArgs) (h : Bool) (s : State) : Host.Outcome State Fault Refusal :=
  .next (vfCodes v h (fun f x y => ⟨f.inject 1 x y, 0⟩) s)
def execVfsgnjx (v : VArgs) (h : Bool) (s : State) : Host.Outcome State Fault Refusal :=
  .next (vfCodes v h (fun f x y => ⟨f.inject 2 x y, 0⟩) s)
def execVfmacc (v : VArgs) (h : Bool) (s : State) : Host.Outcome State Fault Refusal :=
  .next (vfRound v h (fun rm a b d => sumProducts rm [d] [(a, b)]) s)
def execVfnmacc (v : VArgs) (h : Bool) (s : State) : Host.Outcome State Fault Refusal :=
  .next (vfRound v h (fun rm a b d => sumProducts rm [d.negate] [(a.negate, b)]) s)
def execVfmsac (v : VArgs) (h : Bool) (s : State) : Host.Outcome State Fault Refusal :=
  .next (vfRound v h (fun rm a b d => sumProducts rm [d.negate] [(a, b)]) s)
def execVfnmsac (v : VArgs) (h : Bool) (s : State) : Host.Outcome State Fault Refusal :=
  .next (vfRound v h (fun rm a b d => sumProducts rm [d] [(a.negate, b)]) s)
def execVmfeq (v : VArgs) (h : Bool) (s : State) : Host.Outcome State Fault Refusal :=
  .next (vfCompare v h true FVal.eq s)
def execVmfne (v : VArgs) (h : Bool) (s : State) : Host.Outcome State Fault Refusal :=
  .next (vfCompare v h true (fun x y => !x.eq y) s)
def execVmflt (v : VArgs) (h : Bool) (s : State) : Host.Outcome State Fault Refusal :=
  .next (vfCompare v h false FVal.lt s)
def execVmfle (v : VArgs) (h : Bool) (s : State) : Host.Outcome State Fault Refusal :=
  .next (vfCompare v h false FVal.le s)
def execVmfgt (v : VArgs) (h : Bool) (s : State) : Host.Outcome State Fault Refusal :=
  .next (vfCompare v h false (fun x y => y.lt x) s)
def execVmfge (v : VArgs) (h : Bool) (s : State) : Host.Outcome State Fault Refusal :=
  .next (vfCompare v h false (fun x y => y.le x) s)
/-- VFCLASS ignores FRM (R187). -/
def execVfclass (d a : Reg) (m z h : Bool) (s : State) : Host.Outcome State Fault Refusal :=
  match s.h.elemFmt h with
  | some f => .next (floatForm (!groupOk d s.h.grp || !groupOk a s.h.grp) d s.h.grp s.h.ew m z
      (fun h i => ⟨f.classOf (h.elem a.val i h.ew), 0⟩) s)
  | none => .next s.illegal
def execVfcvtiS (d a : Reg) (m z h : Bool) (s : State) : Host.Outcome State Fault Refusal :=
  .next (vfUnary d a m z h (fun f rm x => toInteger rm true f.width (f.value x)) s)
def execVfcvtiZ (d a : Reg) (m z h : Bool) (s : State) : Host.Outcome State Fault Refusal :=
  .next (vfUnary d a m z h (fun f rm x => toInteger rm false f.width (f.value x)) s)
def execVfcvtfS (d a : Reg) (m z h : Bool) (s : State) : Host.Outcome State Fault Refusal :=
  .next (vfUnary d a m z h (fun f rm x => f.round rm (ofInteger (sext f.width x))) s)
def execVfcvtfZ (d a : Reg) (m z h : Bool) (s : State) : Host.Outcome State Fault Refusal :=
  .next (vfUnary d a m z h (fun f rm x => f.round rm (ofInteger x)) s)
/-- VFWCVT is exact and ignores FRM (R187). -/
def execVfwcvt (d a : Reg) (m z h : Bool) (s : State) : Host.Outcome State Fault Refusal :=
  match s.h.narrowFmt h with
  | some f => .next (floatForm (s.h.badWide1 d a) d (2 * s.h.grp) (2 * s.h.ew) m z
      (fun h i => convert f f.double .rne (h.elem a.val i h.ew)) s)
  | none => .next s.illegal
def execVfncvt (d a : Reg) (m z h : Bool) (s : State) : Host.Outcome State Fault Refusal :=
  match s.h.narrowFmt h, rmOf s.h.f.frm with
  | some f, some rm => .next (floatForm (s.h.badNarrow1 d a) d s.h.grp s.h.ew m z
      (fun h i => convert f.double f rm (h.elem a.val i (2 * h.ew))) s)
  | _, _ => .next s.illegal
def execVfwmacc (v : VArgs) (h : Bool) (s : State) : Host.Outcome State Fault Refusal :=
  match s.h.narrowFmt h, rmOf s.h.f.frm with
  | some f, some rm => .next (floatForm (s.h.badWide v) v.d (2 * s.h.grp) (2 * s.h.ew) v.m v.z (fun h i =>
      f.double.round rm (sumProducts rm [f.double.value (h.elem v.d.val i (2 * h.ew))]
        [(f.value (h.elem v.a.val i h.ew), f.value (h.opB v h.ew i))])) s)
  | _, _ => .next s.illegal
def execVfdot2 (v : VArgs) (h : Bool) (s : State) : Host.Outcome State Fault Refusal :=
  match s.h.dotFmt h, rmOf s.h.f.frm with
  | some f, some rm => .next (floatForm (s.h.badGroups v) v.d s.h.grp s.h.ew v.m v.z (fun h i =>
      let p (k : Nat) : FVal × FVal := (f.value (h.elem v.a.val (2 * i + k) (h.ew / 2)), f.value (h.dotB v i k))
      f.double.round rm (dotExact rm (f.double.value (h.elem v.d.val i h.ew)) (p 0) (p 1))) s)
  | _, _ => .next s.illegal
def execVexp2 (d a : Reg) (m z h : Bool) (s : State) : Host.Outcome State Fault Refusal :=
  .next (vfSpecial d a m z h exp2 s)
def execVlog2 (d a : Reg) (m z h : Bool) (s : State) : Host.Outcome State Fault Refusal :=
  .next (vfSpecial d a m z h logTwo s)
def execVrcp (d a : Reg) (m z h : Bool) (s : State) : Host.Outcome State Fault Refusal :=
  .next (vfSpecial d a m z h reciprocal s)
def execVrsqrt (d a : Reg) (m z h : Bool) (s : State) : Host.Outcome State Fault Refusal :=
  .next (vfSpecial d a m z h invRoot s)
def execVsqrt (d a : Reg) (m z h : Bool) (s : State) : Host.Outcome State Fault Refusal :=
  .next (vfSpecial d a m z h squareRoot s)
def execVrand (d : Reg) (m z : Bool) (s : State) : Host.Outcome State Fault Refusal :=
  .next (randomForm false d m z (fun h i => h.randomBits m i) s)
def execVrandf (d : Reg) (m z h : Bool) (s : State) : Host.Outcome State Fault Refusal :=
  .next (randomForm (h != (s.h.ew == 16)) d m z (fun h i => h.randomFloat m i) s)

end Sys2Proof.Machine
end

