-- ==== Sys2Proof/Machine/VMemForms.lean ====
section
/-! DEFINITION. The vector loads and stores by name (R145). -/

namespace Sys2Proof.Machine

def execVld (d a : Reg) (m z : Bool) (f : BitVec 3) (k : Bool) (s : State) : Host.Outcome State Fault Refusal :=
  if f.toNat < 4 then runM (vload .unit d a m z f k false) s else runM (vloadNarrow d a m z f false) s
def execVlds (d a b : Reg) (m z : Bool) (f : BitVec 3) (k : Bool) (s : State) : Host.Outcome State Fault Refusal :=
  runM (vload (.strided b) d a m z f k false) s
def execVldxu (d a b : Reg) (m z : Bool) (f : BitVec 3) (k : Bool) (s : State) : Host.Outcome State Fault Refusal :=
  runM (vload (.indexed b false) d a m z f k false) s
def execVldxo (d a b : Reg) (m z : Bool) (f : BitVec 3) (k : Bool) (s : State) : Host.Outcome State Fault Refusal :=
  runM (vload (.indexed b true) d a m z f k false) s
def execVldseg (d a : Reg) (n : BitVec 2) (m z : Bool) (f : BitVec 3) (k : Bool) (s : State) : Host.Outcome State Fault Refusal :=
  runM (vload (.seg (n.toNat + 2)) d a m z f k false) s
def execVldf (d a : Reg) (m z : Bool) (f : BitVec 3) (k : Bool) (s : State) : Host.Outcome State Fault Refusal :=
  if f.toNat < 4 then runM (vload .unit d a m z f k true) s else runM (vloadNarrow d a m z f true) s
def execVldfs (d a b : Reg) (m z : Bool) (f : BitVec 3) (k : Bool) (s : State) : Host.Outcome State Fault Refusal :=
  runM (vload (.strided b) d a m z f k true) s
def execVldfxu (d a b : Reg) (m z : Bool) (f : BitVec 3) (k : Bool) (s : State) : Host.Outcome State Fault Refusal :=
  runM (vload (.indexed b false) d a m z f k true) s
def execVldfxo (d a b : Reg) (m z : Bool) (f : BitVec 3) (k : Bool) (s : State) : Host.Outcome State Fault Refusal :=
  runM (vload (.indexed b true) d a m z f k true) s
def execVldfseg (d a : Reg) (n : BitVec 2) (m z : Bool) (f : BitVec 3) (k : Bool) (s : State) : Host.Outcome State Fault Refusal :=
  runM (vload (.seg (n.toNat + 2)) d a m z f k true) s
def execVldr (d a : Reg) (s : State) : Host.Outcome State Fault Refusal :=
  runM (vloadWhole d a) s
def execVldm (d a : Reg) (s : State) : Host.Outcome State Fault Refusal :=
  runM (vloadMask d a) s

def execVst (r a : Reg) (m _z : Bool) (f : BitVec 3) (s : State) : Host.Outcome State Fault Refusal :=
  if f.toNat < 4 then runM (vstore .unit r a m f) s else runM (vstoreNarrow r a m f) s
def execVsts (r a b : Reg) (m _z : Bool) (f : BitVec 3) (s : State) : Host.Outcome State Fault Refusal :=
  runM (vstore (.strided b) r a m f) s
def execVstxu (r a b : Reg) (m _z : Bool) (f : BitVec 3) (s : State) : Host.Outcome State Fault Refusal :=
  runM (vstore (.indexed b false) r a m f) s
def execVstxo (r a b : Reg) (m _z : Bool) (f : BitVec 3) (s : State) : Host.Outcome State Fault Refusal :=
  runM (vstore (.indexed b true) r a m f) s
def execVstseg (r a : Reg) (n : BitVec 2) (m _z : Bool) (f : BitVec 3) (s : State) : Host.Outcome State Fault Refusal :=
  runM (vstore (.seg (n.toNat + 2)) r a m f) s
def execVstr (r a : Reg) (s : State) : Host.Outcome State Fault Refusal :=
  runM (vstoreWhole r a) s
def execVstm (r a : Reg) (s : State) : Host.Outcome State Fault Refusal :=
  runM (vstoreMask r a) s

end Sys2Proof.Machine
end

