-- ==== Sys2Proof/Machine/VRed.lean ====
section
/-! DEFINITION. Reductions, scans, index selection and softmax merging: the whole forms (R202-R207, R210-R212). -/

namespace Sys2Proof.Machine

/-! ### Whole forms -/

/-- The flags of a whole form at the elements that report them, and whether an enabled class is among them (R189,
R190). -/
def Hart.raiseAll (h : Hart) (fls : List (Nat × Fl)) : Hart × Bool :=
  (fls.foldl (fun h p => h.raise p.1 p.2) h, (fls.foldl (fun a p => a ||| p.2) 0) &&& h.f.fen != 0)

/-- A whole form that writes the `n` registers from `v` on: `F` gives the change and the flags; VSTART must be 0, and an
FPTRAP leaves the destination as it was. -/
def wholeForm (bad : Bool) (v : Reg) (n : Nat) (F : Hart → (Hart → Hart) × List (Nat × Fl)) (s : State) : State :=
  if bad || s.h.vc.vstart != 0 then s.illegal
  else match s.h.claim v.val n with
    | none => takeTrap .stripw 0 (s.h.pc.setWidth 64) s
    | some h =>
      let r := F h
      let t := h.raiseAll r.2
      if t.2 then takeTrap .fptrap 0 0 { s with h := t.1 } else { s with h := (r.1 t.1).retireV }

/-- A whole form that writes a scalar register. -/
def wholeScalar (bad : Bool) (d : Reg) (F : Hart → Nat × Fl) (s : State) : State :=
  if bad || s.h.vc.vstart != 0 then s.illegal
  else
    let r := F s.h
    let t := s.h.raiseAll [(0, r.2)]
    if t.2 then takeTrap .fptrap 0 0 { s with h := t.1 }
    else { s with h := (t.1.setX d (BitVec.ofNat 64 r.1)).retireV }

/-- J: the active elements below VL. -/
def Hart.activeSet (h : Hart) (m : Bool) : List Nat := (List.range h.vc.vl).filter (h.unmasked m)

/-- Elements of a register at some indices. -/
def Hart.codes (h : Hart) (a : Reg) (j : List Nat) : List Nat := j.map fun i => h.elem a.val i h.ew

/-- Element 0 is the result; the others are tail. -/
def Hart.reduced (d : Reg) (z : Bool) (x : Nat) (h : Hart) : Hart := (h.setElem d.val 0 h.ew x).zeroFrom z d h.ew 1

/-! ### Float sums (R202) -/

/-- Add(x, y) on results that carry the flags raised so far. -/
def FFmt.add (f : FFmt) (rm : RM) (x y : FRes) : FRes :=
  let r := f.round rm (addF rm (f.value x.bits) (f.value y.bits))
  ⟨r.bits, x.fl ||| y.fl ||| r.fl⟩

/-- A value that reaches a destination without an Add (R203): a NaN becomes canonical, a signalling one raises NV. -/
def FFmt.passed (f : FFmt) (x : FRes) : FRes :=
  if (f.value x.bits).isNan then ⟨f.nanBits, x.fl ||| snanFl [f.value x.bits]⟩ else x

/-- An operand with no flag yet. -/
def FRes.of (x : Nat) : FRes := ⟨x, 0⟩

/-- Join (R202). -/
def joinRes (f : FFmt) (rm : RM) (x y : Option FRes) : Option FRes :=
  match x, y with
  | some a, some b => some (f.add rm a b)
  | none, y => y
  | x, none => x

/-- A sum in the order of a list. -/
def sumInOrder (f : FFmt) (rm : RM) (start : Option FRes) (xs : List Nat) : Option FRes :=
  xs.foldl (fun c x => joinRes f rm c (some (FRes.of x))) start

/-- Neighbours joined. -/
def joinPairs (f : FFmt) (rm : RM) : List (Option FRes) → List (Option FRes)
  | x :: y :: r => joinRes f rm x y :: joinPairs f rm r
  | l => l

/-- The tree: neighbours joined until one is left. -/
def joinTree (f : FFmt) (rm : RM) : Nat → List (Option FRes) → Option FRes
  | 0, l => l.headD none
  | n + 1, l => joinTree f rm n (joinPairs f rm l)

/-- RedSum(J, acc) (R202). -/
def redSum (f : FFmt) (rm : RM) (slots : Nat) (x : Nat → Nat) (j : List Nat) (acc : Option FRes) : Option FRes :=
  let p := (List.range slots).map fun s => sumInOrder f rm none ((j.filter (· % slots == s)).map x)
  joinRes f rm (joinTree f rm (Nat.log2 slots) p) acc

/-! ### Reductions (R203) -/

/-- The limits on the groups of a reduction, vb among them. -/
def Hart.badReduce (h : Hart) (v : VArgs) : Bool := h.badGroups v

/-- acc: element 0 of vb or the scalar. -/
def Hart.accOf (h : Hart) (v : VArgs) : Nat := h.opB v h.ew 0

/-- A float reduction to element 0. -/
def floatReduce (v : VArgs) (F : Hart → FRes) (f : FFmt) (s : State) : State :=
  wholeForm (s.h.badReduce v) v.d s.h.grp (fun h => let r := f.passed (F h); (Hart.reduced v.d v.z r.bits, [(0, r.fl)])) s

/-- A float sum: the format and FRM must be legal. -/
def floatSum (v : VArgs) (bf : Bool) (F : FFmt → RM → Hart → Option FRes) (s : State) : State :=
  match s.h.elemFmt bf, rmOf s.h.f.frm with
  | some f, some rm => floatReduce v (fun h => (F f rm h).getD (FRes.of (h.accOf v))) f s
  | _, _ => s.illegal

/-- VFREDMAX and VFREDMIN. -/
def floatSelect (v : VArgs) (bf big : Bool) (s : State) : State :=
  match s.h.elemFmt bf with
  | some f => floatReduce v (fun h => (h.codes v.a (h.activeSet v.m)).foldl (fun c x =>
      let r := f.select big c.bits x
      ⟨r.bits, c.fl ||| r.fl⟩) (FRes.of (h.accOf v))) f s
  | none => s.illegal

/-! ### Segments and scans (R204, R205) -/

/-- The carry: X(xb) with ws = 1. -/
def Hart.carry (h : Hart) (b : Reg) (w : Bool) : Option Nat :=
  if w then some ((h.getX b).toNat % 2 ^ h.ew) else none

/-- The limits of the scans and segmented forms; `v0` also keeps the destination off v0. -/
def Hart.badScan (h : Hart) (d a b : Reg) (w v0 : Bool) : Bool :=
  (!w && b != 0) || !groupOk d h.grp || !groupOk a h.grp || overlaps d h.grp a h.grp || (v0 && overlaps d h.grp 0 1)

/-- The segments of v0 below VL (R204): the elements of each, the first `n` indices from `i` on being left. -/
def segmentsFrom (bound : Nat → Bool) : Nat → Nat → List Nat → List (List Nat)
  | 0, _, cur => if cur.isEmpty then [] else [cur.reverse]
  | n + 1, i, cur =>
    if bound i then (i :: cur).reverse :: segmentsFrom bound n (i + 1) [] else segmentsFrom bound n (i + 1) (i :: cur)

def Hart.segments (h : Hart) : List (List Nat) := segmentsFrom (h.maskBit 0) h.vc.vl 0 []

/-- The sums of segments; only the first has the carry. -/
def segmentSums {α : Type} (sum : Option α → List Nat → α) : Option α → List (List Nat) → List α
  | _, [] => []
  | c, x :: r => sum c x :: segmentSums sum none r

/-- Results written to the elements from 0 on; the others are inactive. -/
def Hart.putSums (d : Reg) (z : Bool) (xs : List Nat) (h : Hart) : Hart :=
  (Hart.putList d h.ew 0 xs h).zeroFrom z d h.ew xs.length

/-- A running sum in index order: the results of the active elements; with `seg` the value ends at each boundary. -/
def runningSums (f : FFmt) (rm : RM) (x : Nat → Nat) (bound : Nat → Bool) : Option FRes → List Nat → List (Nat × FRes)
  | _, [] => []
  | c, i :: r =>
    let y := f.passed ((joinRes f rm c (some (FRes.of (x i)))).getD (FRes.of 0))
    (i, y) :: runningSums f rm x bound (if bound i then none else some ⟨y.bits, 0⟩) r

/-- Results at their own indices. -/
def Hart.putAt (d : Reg) (xs : List (Nat × FRes)) (h : Hart) : Hart :=
  xs.foldl (fun h p => h.setElem d.val p.1 h.ew p.2.bits) h

/-- A scan: the flags are reported at the result element that raised them. -/
def floatScan (d a b : Reg) (m z w bf : Bool) (F : FFmt → RM → Hart → Option FRes → List (Nat × FRes)) (s : State) :
    State :=
  match s.h.elemFmt bf, rmOf s.h.f.frm with
  | some f, some rm =>
    wholeForm (s.h.badScan d a b w false) d s.h.grp (fun h =>
      let xs := F f rm h ((h.carry b w).map FRes.of)
      (fun t =>
        let on (i : Nat) : Bool := h.unmasked m i && decide (i < h.vc.vl)
        let t := Hart.putAt d xs t
        if z then Hart.over (fun t i => if on i then t else t.zeroElem d.val i t.ew) t.vlmax 0 t else t,
       xs.map fun p => (p.1, p.2.fl))) s
  | _, _ => s.illegal

/-! ### Index of the extreme element (R206) -/

/-- The better of two indexed values; the earlier one on a tie. -/
def betterIndex (big : Bool) (best : Option (Nat × FVal)) (p : Nat × FVal) : Option (Nat × FVal) :=
  match best with
  | none => some p
  | some b => if (if big then b.2.lt p.2 else p.2.lt b.2) then some p else some b

def floatArg (d a : Reg) (m bf big : Bool) (s : State) : State :=
  match s.h.elemFmt bf with
  | some f => wholeScalar (!groupOk a s.h.grp) d (fun h =>
      let xs := (h.activeSet m).map fun i => (i, f.value (h.elem a.val i h.ew))
      let best := (xs.filter fun p => !p.2.isNan).foldl (betterIndex big) none
      ((best.map (·.1)).getD (2 ^ 64 - 1), snanFl (xs.map (·.2)))) s
  | none => s.illegal

/-! ### Integer reductions (R207) -/

def intReduce (v : VArgs) (F : Nat → Nat → Nat → Nat) (s : State) : State :=
  wholeForm (s.h.badReduce v) v.d s.h.grp (fun h =>
    (Hart.reduced v.d v.z ((h.codes v.a (h.activeSet v.m)).foldl (F h.ew) (h.accOf v)), [])) s

/-! ### Selection by inverse CDF (R210) -/

/-- A weight as it counts, and whether it raises NV. -/
def weightOf (f : FFmt) (x : Nat) : Nat × Bool :=
  let v := f.value x
  if v.isNan || v.lt (.fin ⟨false, 0, 0⟩) then (0, true) else (x, false)

/-- Running sums from +0 over the active elements. -/
def cdfSums (f : FFmt) (rm : RM) (x : Nat → Nat) : FRes → List Nat → List (Nat × FRes)
  | _, [] => []
  | c, i :: r => let y := f.add rm c (FRes.of (x i)); (i, y) :: cdfSums f rm x y r

/-- X(xd) and the flags. -/
def cdfSelect (f : FFmt) (rm : RM) (w : Nat → Nat) (j : List Nat) (u : Nat) : Nat × Fl :=
  let none' : Nat := 2 ^ 64 - 1
  let sums := cdfSums f rm (fun i => (weightOf f (w i)).1) (FRes.of 0) j
  let t := (sums.getLast?.map (·.2)).getD (FRes.of 0)
  let nvW : Fl := if j.any fun i => (weightOf f (w i)).2 then flNV else 0
  let uv := f.value u
  let badU := uv.isNan || uv.lt (.fin ⟨false, 0, 0⟩) || !uv.lt (.fin ⟨false, 1, 0⟩)
  let tv := f.value t.bits
  let fl := nvW ||| t.fl ||| (if badU || tv.isInf then flNV else 0)
  if badU || tv.isInf || tv.isZero || j.isEmpty then (none', fl)
  else
    let ut := (uv.times tv).getD (.fin ⟨false, 0, 0⟩)
    match sums.find? fun p => ut.lt (f.value p.2.bits) with
    | some p => (p.1, fl)
    | none => (none', fl)

/-! ### Joining softmax states (R211) -/

/-- The larger of two values that are no NaN; +0 is above -0 as in VFMAX. -/
def FVal.max (a b : FVal) : FVal := if a.lt b || (a.eq b && a.isNeg) then b else a

/-- RoundTo(2^(x - mx)). -/
def mergeScale (f : FFmt) (rm : RM) (x mx : FVal) : FRes := f.round rm (exp2 (subF .rne x mx).v)

/-- The elements of the joined state, each with its flags. -/
def mergeStates (f : FFmt) (rm : RM) (a b : List Nat) : List FRes :=
  let ma := f.value (a.headD 0)
  let mb := f.value (b.headD 0)
  let bad (v : FVal) : Bool := v.isNan || v == .inf false
  if bad ma || bad mb then a.map fun _ => ⟨f.nanBits, flNV⟩
  else if ma.isInf && mb.isInf then FRes.of (f.signed true f.infBits) :: a.tail.map fun _ => FRes.of 0
  else
    let mx := ma.max mb
    let al := mergeScale f rm ma mx
    let be := mergeScale f rm mb mx
    let join (p : Nat × Nat) : FRes :=
      f.round rm (sumProducts rm [] [(f.value al.bits, f.value p.1), (f.value be.bits, f.value p.2)])
    ⟨(f.round rm { v := mx }).bits, al.fl ||| be.fl⟩ :: (a.tail.zip b.tail).map join

/-! ### Meanings -/

def execVfredsum (v : VArgs) (h : Bool) (s : State) : Host.Outcome State Fault Refusal :=
  .next (floatSum v h (fun f rm t => redSum f rm t.slots (fun i => t.elem v.a.val i t.ew) (t.activeSet v.m)
    (some (FRes.of (t.accOf v)))) s)
def execVfredsumO (v : VArgs) (h : Bool) (s : State) : Host.Outcome State Fault Refusal :=
  .next (floatSum v h (fun f rm t => sumInOrder f rm (some (FRes.of (t.accOf v))) (t.codes v.a (t.activeSet v.m))) s)
def execVfredmax (v : VArgs) (h : Bool) (s : State) : Host.Outcome State Fault Refusal :=
  .next (floatSelect v h true s)
def execVfredmin (v : VArgs) (h : Bool) (s : State) : Host.Outcome State Fault Refusal :=
  .next (floatSelect v h false s)
def execVfredsumSg (d a b : Reg) (z w h : Bool) (s : State) : Host.Outcome State Fault Refusal :=
  match s.h.elemFmt h, rmOf s.h.f.frm with
  | some f, some rm => .next (wholeForm (s.h.badScan d a b w true) d s.h.grp (fun t =>
      let sum (c : Option FRes) (j : List Nat) : FRes := f.passed ((sumInOrder f rm c (t.codes a j)).getD (FRes.of 0))
      let xs := segmentSums sum ((t.carry b w).map FRes.of) t.segments
      (Hart.putSums d z (xs.map (·.bits)), xs.map fun r => (0, r.fl))) s)
  | _, _ => .next s.illegal
def execVfscan (v : VArgs) (h : Bool) (s : State) : Host.Outcome State Fault Refusal :=
  .next (floatScan v.d v.a v.b v.m v.z v.w h (fun f rm t c =>
    let j := t.activeSet v.m
    j.map fun i => (i, f.passed ((redSum f rm t.slots (fun k => t.elem v.a.val k t.ew) (j.filter (· ≤ i)) c).getD
      (FRes.of 0)))) s)
def execVfscanO (v : VArgs) (h : Bool) (s : State) : Host.Outcome State Fault Refusal :=
  .next (floatScan v.d v.a v.b v.m v.z v.w h (fun f rm t c =>
    runningSums f rm (fun k => t.elem v.a.val k t.ew) (fun _ => false) c (t.activeSet v.m)) s)
def execVfscanSg (d a b : Reg) (z w h : Bool) (s : State) : Host.Outcome State Fault Refusal :=
  .next (floatScan d a b false z w h (fun f rm t c =>
    runningSums f rm (fun k => t.elem a.val k t.ew) (t.maskBit 0) c (t.activeSet false)) s)
def execVfargmax (d a : Reg) (m h : Bool) (s : State) : Host.Outcome State Fault Refusal :=
  .next (floatArg d a m h true s)
def execVfargmin (d a : Reg) (m h : Bool) (s : State) : Host.Outcome State Fault Refusal :=
  .next (floatArg d a m h false s)
def execVredsum (v : VArgs) (s : State) : Host.Outcome State Fault Refusal :=
  .next (intReduce v addW s)
def execVredmaxS (v : VArgs) (s : State) : Host.Outcome State Fault Refusal :=
  .next (intReduce v maxS s)
def execVredmaxZ (v : VArgs) (s : State) : Host.Outcome State Fault Refusal :=
  .next (intReduce v maxZ s)
def execVredminS (v : VArgs) (s : State) : Host.Outcome State Fault Refusal :=
  .next (intReduce v minS s)
def execVredminZ (v : VArgs) (s : State) : Host.Outcome State Fault Refusal :=
  .next (intReduce v minZ s)
def execVredand (v : VArgs) (s : State) : Host.Outcome State Fault Refusal :=
  .next (intReduce v andW s)
def execVredor (v : VArgs) (s : State) : Host.Outcome State Fault Refusal :=
  .next (intReduce v orW s)
def execVredxor (v : VArgs) (s : State) : Host.Outcome State Fault Refusal :=
  .next (intReduce v xorW s)
def execVredsumSg (d a b : Reg) (z w : Bool) (s : State) : Host.Outcome State Fault Refusal :=
  .next (wholeForm (s.h.badScan d a b w true) d s.h.grp (fun t =>
    let sum (c : Option Nat) (j : List Nat) : Nat := (t.codes a j).foldl (addW t.ew) (c.getD 0)
    (Hart.putSums d z (segmentSums sum (t.carry b w) t.segments), [])) s)
def execVcdfsel (d a b : Reg) (m h : Bool) (s : State) : Host.Outcome State Fault Refusal :=
  match s.h.elemFmt h, rmOf s.h.f.frm with
  | some f, some rm => .next (wholeScalar (!groupOk a s.h.grp) d (fun t =>
      cdfSelect f rm (fun i => t.elem a.val i t.ew) (t.activeSet m) ((t.getX b).toNat % 2 ^ t.ew)) s)
  | _, _ => .next s.illegal
def execVsmmerge (d a : Reg) (z : Bool) (s : State) : Host.Outcome State Fault Refusal :=
  match s.h.elemFmt false, rmOf s.h.f.frm with
  | some f, some rm =>
    let bad := decide (s.h.ew < 32) || decide (s.h.vc.vl < 2) || !groupOk d s.h.grp || !groupOk a s.h.grp
    .next (wholeForm bad d s.h.grp (fun t =>
      let j := List.range t.vc.vl
      let xs := mergeStates f rm (t.codes d j) (t.codes a j)
      (Hart.putSums d z (xs.map (·.bits)), xs.map fun r => (0, r.fl))) s)
  | _, _ => .next s.illegal

end Sys2Proof.Machine
end

