-- ==== Sys2Proof/Machine/Stream.lean ====
section
/-! DEFINITION. The instructions that the run-ahead access stream may hold before the one whose element binds (R263,
R267), with the meaning that `exec` gives them: all but those that no load passes and those that act on more than their hart
(notes/assumptions/8.md). -/

namespace Sys2Proof.Machine

/-- What an instruction in the stream does on a look ahead; none where nothing may bind ahead of it. -/
def streamed (i : Instr) (s : State) : Option (Host.Outcome State Fault Refusal) :=
  match i with
  | .addi d a imm => some (Sys2Proof.Machine.execAddi d a imm s)
  | .andi d a imm => some (Sys2Proof.Machine.execAndi d a imm s)
  | .ori d a imm => some (Sys2Proof.Machine.execOri d a imm s)
  | .xori d a imm => some (Sys2Proof.Machine.execXori d a imm s)
  | .sltiS d a imm => some (Sys2Proof.Machine.execSltiS d a imm s)
  | .sltiZ d a imm => some (Sys2Proof.Machine.execSltiZ d a imm s)
  | .slli d a k => some (Sys2Proof.Machine.execSlli d a k s)
  | .srli d a k => some (Sys2Proof.Machine.execSrli d a k s)
  | .srai d a k => some (Sys2Proof.Machine.execSrai d a k s)
  | .rori d a k => some (Sys2Proof.Machine.execRori d a k s)
  | .lui d a imm => some (Sys2Proof.Machine.execLui d a imm s)
  | .addpc d imm => some (Sys2Proof.Machine.execAddpc d imm s)
  | .addiPxi d a imm => some (Sys2Proof.Machine.execAddiPxi d a imm s)
  | .andiPxi d a imm => some (Sys2Proof.Machine.execAndiPxi d a imm s)
  | .oriPxi d a imm => some (Sys2Proof.Machine.execOriPxi d a imm s)
  | .xoriPxi d a imm => some (Sys2Proof.Machine.execXoriPxi d a imm s)
  | .sltiSPxi d a imm => some (Sys2Proof.Machine.execSltiSPxi d a imm s)
  | .sltiZPxi d a imm => some (Sys2Proof.Machine.execSltiZPxi d a imm s)
  | .luiPxi d a imm => some (Sys2Proof.Machine.execLuiPxi d a imm s)
  | .addpcPxi d imm => some (Sys2Proof.Machine.execAddpcPxi d imm s)
  | .jalrPxi d a imm => some (Sys2Proof.Machine.execJalrPxi d a imm s)
  | .add d a b => some (Sys2Proof.Machine.execAdd d a b s)
  | .sub d a b => some (Sys2Proof.Machine.execSub d a b s)
  | .and d a b => some (Sys2Proof.Machine.execAnd d a b s)
  | .or d a b => some (Sys2Proof.Machine.execOr d a b s)
  | .xor d a b => some (Sys2Proof.Machine.execXor d a b s)
  | .sll d a b => some (Sys2Proof.Machine.execSll d a b s)
  | .srl d a b => some (Sys2Proof.Machine.execSrl d a b s)
  | .sra d a b => some (Sys2Proof.Machine.execSra d a b s)
  | .sltS d a b => some (Sys2Proof.Machine.execSltS d a b s)
  | .sltZ d a b => some (Sys2Proof.Machine.execSltZ d a b s)
  | .mul d a b => some (Sys2Proof.Machine.execMul d a b s)
  | .mulhS d a b => some (Sys2Proof.Machine.execMulhS d a b s)
  | .mulhZ d a b => some (Sys2Proof.Machine.execMulhZ d a b s)
  | .divS d a b => some (Sys2Proof.Machine.execDivS d a b s)
  | .divZ d a b => some (Sys2Proof.Machine.execDivZ d a b s)
  | .remS d a b => some (Sys2Proof.Machine.execRemS d a b s)
  | .remZ d a b => some (Sys2Proof.Machine.execRemZ d a b s)
  | .minS d a b => some (Sys2Proof.Machine.execMinS d a b s)
  | .minZ d a b => some (Sys2Proof.Machine.execMinZ d a b s)
  | .maxS d a b => some (Sys2Proof.Machine.execMaxS d a b s)
  | .maxZ d a b => some (Sys2Proof.Machine.execMaxZ d a b s)
  | .andn d a b => some (Sys2Proof.Machine.execAndn d a b s)
  | .clz d a => some (Sys2Proof.Machine.execClz d a s)
  | .ctz d a => some (Sys2Proof.Machine.execCtz d a s)
  | .cpop d a => some (Sys2Proof.Machine.execCpop d a s)
  | .madd d a b c => some (Sys2Proof.Machine.execMadd d a b c s)
  | .addsh d a b k => some (Sys2Proof.Machine.execAddsh d a b k s)
  | .fadd d a b t => some (Sys2Proof.Machine.execFadd d a b t s)
  | .fsub d a b t => some (Sys2Proof.Machine.execFsub d a b t s)
  | .fmul d a b t => some (Sys2Proof.Machine.execFmul d a b t s)
  | .fdiv d a b t => some (Sys2Proof.Machine.execFdiv d a b t s)
  | .fsqrt d a t => some (Sys2Proof.Machine.execFsqrt d a t s)
  | .fmin d a b t => some (Sys2Proof.Machine.execFmin d a b t s)
  | .fmax d a b t => some (Sys2Proof.Machine.execFmax d a b t s)
  | .fsgnj d a b t => some (Sys2Proof.Machine.execFsgnj d a b t s)
  | .fsgnjn d a b t => some (Sys2Proof.Machine.execFsgnjn d a b t s)
  | .fsgnjx d a b t => some (Sys2Proof.Machine.execFsgnjx d a b t s)
  | .feq d a b t => some (Sys2Proof.Machine.execFeq d a b t s)
  | .flt d a b t => some (Sys2Proof.Machine.execFlt d a b t s)
  | .fle d a b t => some (Sys2Proof.Machine.execFle d a b t s)
  | .fclass d a t => some (Sys2Proof.Machine.execFclass d a t s)
  | .fcvtiS d a t => some (Sys2Proof.Machine.execFcvtiS d a t s)
  | .fcvtiZ d a t => some (Sys2Proof.Machine.execFcvtiZ d a t s)
  | .fcvtfS d a t => some (Sys2Proof.Machine.execFcvtfS d a t s)
  | .fcvtfZ d a t => some (Sys2Proof.Machine.execFcvtfZ d a t s)
  | .fcvt d a k t => some (Sys2Proof.Machine.execFcvt d a k t s)
  | .fmadd d a b c t => some (Sys2Proof.Machine.execFmadd d a b c t s)
  | .fnmsub d a b c t => some (Sys2Proof.Machine.execFnmsub d a b c t s)
  | .ld8Z d a imm => some (Sys2Proof.Machine.execLd8Z d a imm s)
  | .ld16Z d a imm => some (Sys2Proof.Machine.execLd16Z d a imm s)
  | .ld32Z d a imm => some (Sys2Proof.Machine.execLd32Z d a imm s)
  | .ld64 d a imm => some (Sys2Proof.Machine.execLd64 d a imm s)
  | .ld8S d a imm => some (Sys2Proof.Machine.execLd8S d a imm s)
  | .ld16S d a imm => some (Sys2Proof.Machine.execLd16S d a imm s)
  | .ld32S d a imm => some (Sys2Proof.Machine.execLd32S d a imm s)
  | .st8 k a imm => some (Sys2Proof.Machine.execSt8 k a imm s)
  | .st16 k a imm => some (Sys2Proof.Machine.execSt16 k a imm s)
  | .st32 k a imm => some (Sys2Proof.Machine.execSt32 k a imm s)
  | .st64 k a imm => some (Sys2Proof.Machine.execSt64 k a imm s)
  | .ld8ZPxi d a imm => some (Sys2Proof.Machine.execLd8ZPxi d a imm s)
  | .ld16ZPxi d a imm => some (Sys2Proof.Machine.execLd16ZPxi d a imm s)
  | .ld32ZPxi d a imm => some (Sys2Proof.Machine.execLd32ZPxi d a imm s)
  | .ld64Pxi d a imm => some (Sys2Proof.Machine.execLd64Pxi d a imm s)
  | .ld8SPxi d a imm => some (Sys2Proof.Machine.execLd8SPxi d a imm s)
  | .ld16SPxi d a imm => some (Sys2Proof.Machine.execLd16SPxi d a imm s)
  | .ld32SPxi d a imm => some (Sys2Proof.Machine.execLd32SPxi d a imm s)
  | .st8Pxi k a imm => some (Sys2Proof.Machine.execSt8Pxi k a imm s)
  | .st16Pxi k a imm => some (Sys2Proof.Machine.execSt16Pxi k a imm s)
  | .st32Pxi k a imm => some (Sys2Proof.Machine.execSt32Pxi k a imm s)
  | .st64Pxi k a imm => some (Sys2Proof.Machine.execSt64Pxi k a imm s)
  | .st8Rl d a k => some (Sys2Proof.Machine.execSt8Rl d a k s)
  | .st16Rl d a k => some (Sys2Proof.Machine.execSt16Rl d a k s)
  | .st32Rl d a k => some (Sys2Proof.Machine.execSt32Rl d a k s)
  | .st64Rl d a k => some (Sys2Proof.Machine.execSt64Rl d a k s)
  | .mtsr a n => if n < 0x29 then some (Sys2Proof.Machine.execMtsr a n s) else none
  | .sev a => some (Sys2Proof.Machine.execSev a s)
  | .beq a b imm => some (Sys2Proof.Machine.execBeq a b imm s)
  | .bne a b imm => some (Sys2Proof.Machine.execBne a b imm s)
  | .bltS a b imm => some (Sys2Proof.Machine.execBltS a b imm s)
  | .bgeS a b imm => some (Sys2Proof.Machine.execBgeS a b imm s)
  | .bltZ a b imm => some (Sys2Proof.Machine.execBltZ a b imm s)
  | .bgeZ a b imm => some (Sys2Proof.Machine.execBgeZ a b imm s)
  | .jal d imm => some (Sys2Proof.Machine.execJal d imm s)
  | .jalr d a imm => some (Sys2Proof.Machine.execJalr d a imm s)
  | .cAddi d imm => some (Sys2Proof.Machine.execCAddi d imm s)
  | .cLi d imm => some (Sys2Proof.Machine.execCLi d imm s)
  | .cMv d b => some (Sys2Proof.Machine.execCMv d b s)
  | .cAdd d b => some (Sys2Proof.Machine.execCAdd d b s)
  | .cSub d b => some (Sys2Proof.Machine.execCSub d b s)
  | .cAnd d b => some (Sys2Proof.Machine.execCAnd d b s)
  | .cOr d b => some (Sys2Proof.Machine.execCOr d b s)
  | .cXor d b => some (Sys2Proof.Machine.execCXor d b s)
  | .cSlli d k => some (Sys2Proof.Machine.execCSlli d k s)
  | .cSrli d k => some (Sys2Proof.Machine.execCSrli d k s)
  | .cJr b => some (Sys2Proof.Machine.execCJr b s)
  | .cLdsp d o => some (Sys2Proof.Machine.execCLdsp d o s)
  | .cStsp k o => some (Sys2Proof.Machine.execCStsp k o s)
  | .cBeqz a imm => some (Sys2Proof.Machine.execCBeqz a imm s)
  | .cBnez a imm => some (Sys2Proof.Machine.execCBnez a imm s)
  | .cJ imm => some (Sys2Proof.Machine.execCJ imm s)
  | .vsetvl d a b r x => if r then none else some (Sys2Proof.Machine.execVsetvl d a b r x s)
  | .vsetvli d a p e g r x => if r then none else some (Sys2Proof.Machine.execVsetvli d a p e g r x s)
  | .vsetvlm d a e g r x => if r then none else some (Sys2Proof.Machine.execVsetvlm d a e g r x s)
  | .vsetfl d a b e g r x => if r then none else some (Sys2Proof.Machine.execVsetfl d a b e g r x s)
  | .vld d a m z f k => some (Sys2Proof.Machine.execVld d a m z f k s)
  | .vlds d a b m z f k => some (Sys2Proof.Machine.execVlds d a b m z f k s)
  | .vldxu d a b m z f k => some (Sys2Proof.Machine.execVldxu d a b m z f k s)
  | .vldxo d a b m z f k => some (Sys2Proof.Machine.execVldxo d a b m z f k s)
  | .vldseg d a n m z f k => some (Sys2Proof.Machine.execVldseg d a n m z f k s)
  | .vldr d a => some (Sys2Proof.Machine.execVldr d a s)
  | .vldm d a => some (Sys2Proof.Machine.execVldm d a s)
  | .vldf d a m z f k => some (Sys2Proof.Machine.execVldf d a m z f k s)
  | .vldfs d a b m z f k => some (Sys2Proof.Machine.execVldfs d a b m z f k s)
  | .vldfxu d a b m z f k => some (Sys2Proof.Machine.execVldfxu d a b m z f k s)
  | .vldfxo d a b m z f k => some (Sys2Proof.Machine.execVldfxo d a b m z f k s)
  | .vldfseg d a n m z f k => some (Sys2Proof.Machine.execVldfseg d a n m z f k s)
  | .vst k a m z f => some (Sys2Proof.Machine.execVst k a m z f s)
  | .vsts k a b m z f => some (Sys2Proof.Machine.execVsts k a b m z f s)
  | .vstxu k a b m z f => some (Sys2Proof.Machine.execVstxu k a b m z f s)
  | .vstxo k a b m z f => some (Sys2Proof.Machine.execVstxo k a b m z f s)
  | .vstseg k a n m z f => some (Sys2Proof.Machine.execVstseg k a n m z f s)
  | .vstr k a => some (Sys2Proof.Machine.execVstr k a s)
  | .vstm k a => some (Sys2Proof.Machine.execVstm k a s)
  | .vadd v => some (Sys2Proof.Machine.execVadd v s)
  | .vsub v => some (Sys2Proof.Machine.execVsub v s)
  | .vrsub v => some (Sys2Proof.Machine.execVrsub v s)
  | .vminS v => some (Sys2Proof.Machine.execVminS v s)
  | .vminZ v => some (Sys2Proof.Machine.execVminZ v s)
  | .vmaxS v => some (Sys2Proof.Machine.execVmaxS v s)
  | .vmaxZ v => some (Sys2Proof.Machine.execVmaxZ v s)
  | .vand v => some (Sys2Proof.Machine.execVand v s)
  | .vor v => some (Sys2Proof.Machine.execVor v s)
  | .vxor v => some (Sys2Proof.Machine.execVxor v s)
  | .vsll v => some (Sys2Proof.Machine.execVsll v s)
  | .vsrl v => some (Sys2Proof.Machine.execVsrl v s)
  | .vsra v => some (Sys2Proof.Machine.execVsra v s)
  | .vmul v => some (Sys2Proof.Machine.execVmul v s)
  | .vmulhS v => some (Sys2Proof.Machine.execVmulhS v s)
  | .vmulhZ v => some (Sys2Proof.Machine.execVmulhZ v s)
  | .vdivS v => some (Sys2Proof.Machine.execVdivS v s)
  | .vdivZ v => some (Sys2Proof.Machine.execVdivZ v s)
  | .vremS v => some (Sys2Proof.Machine.execVremS v s)
  | .vremZ v => some (Sys2Proof.Machine.execVremZ v s)
  | .vmacc v => some (Sys2Proof.Machine.execVmacc v s)
  | .vnmsac v => some (Sys2Proof.Machine.execVnmsac v s)
  | .vmerge d a b z w => some (Sys2Proof.Machine.execVmerge d a b z w s)
  | .vmv d b m z w => some (Sys2Proof.Machine.execVmv d b m z w s)
  | .vwaddS v => some (Sys2Proof.Machine.execVwaddS v s)
  | .vwaddZ v => some (Sys2Proof.Machine.execVwaddZ v s)
  | .vwsubS v => some (Sys2Proof.Machine.execVwsubS v s)
  | .vwsubZ v => some (Sys2Proof.Machine.execVwsubZ v s)
  | .vwmulS v => some (Sys2Proof.Machine.execVwmulS v s)
  | .vwmulZ v => some (Sys2Proof.Machine.execVwmulZ v s)
  | .vwmaccS v => some (Sys2Proof.Machine.execVwmaccS v s)
  | .vwmaccZ v => some (Sys2Proof.Machine.execVwmaccZ v s)
  | .vcrc v => some (Sys2Proof.Machine.execVcrc v s)
  | .vhash v => some (Sys2Proof.Machine.execVhash v s)
  | .vsaddS v => some (Sys2Proof.Machine.execVsaddS v s)
  | .vsaddZ v => some (Sys2Proof.Machine.execVsaddZ v s)
  | .vssubS v => some (Sys2Proof.Machine.execVssubS v s)
  | .vssubZ v => some (Sys2Proof.Machine.execVssubZ v s)
  | .vaaddS v => some (Sys2Proof.Machine.execVaaddS v s)
  | .vaaddZ v => some (Sys2Proof.Machine.execVaaddZ v s)
  | .vasubS v => some (Sys2Proof.Machine.execVasubS v s)
  | .vasubZ v => some (Sys2Proof.Machine.execVasubZ v s)
  | .vsmulS v => some (Sys2Proof.Machine.execVsmulS v s)
  | .vssraS v => some (Sys2Proof.Machine.execVssraS v s)
  | .vssrlZ v => some (Sys2Proof.Machine.execVssrlZ v s)
  | .vnclipS v => some (Sys2Proof.Machine.execVnclipS v s)
  | .vnclipZ v => some (Sys2Proof.Machine.execVnclipZ v s)
  | .vnclipSu v => some (Sys2Proof.Machine.execVnclipSu v s)
  | .vdot4S v => some (Sys2Proof.Machine.execVdot4S v s)
  | .vdot4Z v => some (Sys2Proof.Machine.execVdot4Z v s)
  | .vdot4Su v => some (Sys2Proof.Machine.execVdot4Su v s)
  | .vmseq v => some (Sys2Proof.Machine.execVmseq v s)
  | .vmsne v => some (Sys2Proof.Machine.execVmsne v s)
  | .vmsltS v => some (Sys2Proof.Machine.execVmsltS v s)
  | .vmsltZ v => some (Sys2Proof.Machine.execVmsltZ v s)
  | .vmsleS v => some (Sys2Proof.Machine.execVmsleS v s)
  | .vmsleZ v => some (Sys2Proof.Machine.execVmsleZ v s)
  | .vmsgtS v => some (Sys2Proof.Machine.execVmsgtS v s)
  | .vmsgtZ v => some (Sys2Proof.Machine.execVmsgtZ v s)
  | .vmsgeS v => some (Sys2Proof.Machine.execVmsgeS v s)
  | .vmsgeZ v => some (Sys2Proof.Machine.execVmsgeZ v s)
  | .vmand d a b z => some (Sys2Proof.Machine.execVmand d a b z s)
  | .vmor d a b z => some (Sys2Proof.Machine.execVmor d a b z s)
  | .vmxor d a b z => some (Sys2Proof.Machine.execVmxor d a b z s)
  | .vmandn d a b z => some (Sys2Proof.Machine.execVmandn d a b z s)
  | .vmorn d a b z => some (Sys2Proof.Machine.execVmorn d a b z s)
  | .vmnand d a b z => some (Sys2Proof.Machine.execVmnand d a b z s)
  | .vmnor d a b z => some (Sys2Proof.Machine.execVmnor d a b z s)
  | .vmxnor d a b z => some (Sys2Proof.Machine.execVmxnor d a b z s)
  | .vcpop d a m => some (Sys2Proof.Machine.execVcpop d a m s)
  | .vfirst d a m => some (Sys2Proof.Machine.execVfirst d a m s)
  | .vmsbf d a m z => some (Sys2Proof.Machine.execVmsbf d a m z s)
  | .vmsif d a m z => some (Sys2Proof.Machine.execVmsif d a m z s)
  | .vmsof d a m z => some (Sys2Proof.Machine.execVmsof d a m z s)
  | .vslideup d a b m z => some (Sys2Proof.Machine.execVslideup d a b m z s)
  | .vslidedown d a b m z => some (Sys2Proof.Machine.execVslidedown d a b m z s)
  | .vslide1up d a b m z => some (Sys2Proof.Machine.execVslide1up d a b m z s)
  | .vslide1down d a b m z => some (Sys2Proof.Machine.execVslide1down d a b m z s)
  | .vrgather v => some (Sys2Proof.Machine.execVrgather v s)
  | .vcompress d a b z => some (Sys2Proof.Machine.execVcompress d a b z s)
  | .vexpand d a b z => some (Sys2Proof.Machine.execVexpand d a b z s)
  | .vid d m z => some (Sys2Proof.Machine.execVid d m z s)
  | .vmvXs d a => some (Sys2Proof.Machine.execVmvXs d a s)
  | .vmvSx d b m z => some (Sys2Proof.Machine.execVmvSx d b m z s)
  | .vscanadd v => some (Sys2Proof.Machine.execVscanadd v s)
  | .vscanaddSg d a b z w => some (Sys2Proof.Machine.execVscanaddSg d a b z w s)
  | .vsortkZ d a z => some (Sys2Proof.Machine.execVsortkZ d a z s)
  | .vsortkS d a z => some (Sys2Proof.Machine.execVsortkS d a z s)
  | .vsortkdZ d a z => some (Sys2Proof.Machine.execVsortkdZ d a z s)
  | .vsortkdS d a z => some (Sys2Proof.Machine.execVsortkdS d a z s)
  | .vfadd v h => some (Sys2Proof.Machine.execVfadd v h s)
  | .vfsub v h => some (Sys2Proof.Machine.execVfsub v h s)
  | .vfrsub v h => some (Sys2Proof.Machine.execVfrsub v h s)
  | .vfmul v h => some (Sys2Proof.Machine.execVfmul v h s)
  | .vfdiv v h => some (Sys2Proof.Machine.execVfdiv v h s)
  | .vfrdiv v h => some (Sys2Proof.Machine.execVfrdiv v h s)
  | .vfmin v h => some (Sys2Proof.Machine.execVfmin v h s)
  | .vfmax v h => some (Sys2Proof.Machine.execVfmax v h s)
  | .vfsgnj v h => some (Sys2Proof.Machine.execVfsgnj v h s)
  | .vfsgnjn v h => some (Sys2Proof.Machine.execVfsgnjn v h s)
  | .vfsgnjx v h => some (Sys2Proof.Machine.execVfsgnjx v h s)
  | .vfmacc v h => some (Sys2Proof.Machine.execVfmacc v h s)
  | .vfnmacc v h => some (Sys2Proof.Machine.execVfnmacc v h s)
  | .vfmsac v h => some (Sys2Proof.Machine.execVfmsac v h s)
  | .vfnmsac v h => some (Sys2Proof.Machine.execVfnmsac v h s)
  | .vmfeq v h => some (Sys2Proof.Machine.execVmfeq v h s)
  | .vmfne v h => some (Sys2Proof.Machine.execVmfne v h s)
  | .vmflt v h => some (Sys2Proof.Machine.execVmflt v h s)
  | .vmfle v h => some (Sys2Proof.Machine.execVmfle v h s)
  | .vmfgt v h => some (Sys2Proof.Machine.execVmfgt v h s)
  | .vmfge v h => some (Sys2Proof.Machine.execVmfge v h s)
  | .vfclass d a m z h => some (Sys2Proof.Machine.execVfclass d a m z h s)
  | .vfcvtiS d a m z h => some (Sys2Proof.Machine.execVfcvtiS d a m z h s)
  | .vfcvtiZ d a m z h => some (Sys2Proof.Machine.execVfcvtiZ d a m z h s)
  | .vfcvtfS d a m z h => some (Sys2Proof.Machine.execVfcvtfS d a m z h s)
  | .vfcvtfZ d a m z h => some (Sys2Proof.Machine.execVfcvtfZ d a m z h s)
  | .vfwcvt d a m z h => some (Sys2Proof.Machine.execVfwcvt d a m z h s)
  | .vfncvt d a m z h => some (Sys2Proof.Machine.execVfncvt d a m z h s)
  | .vfwmacc v h => some (Sys2Proof.Machine.execVfwmacc v h s)
  | .vfdot2 v h => some (Sys2Proof.Machine.execVfdot2 v h s)
  | .vfredsum v h => some (Sys2Proof.Machine.execVfredsum v h s)
  | .vfredsumO v h => some (Sys2Proof.Machine.execVfredsumO v h s)
  | .vfredmax v h => some (Sys2Proof.Machine.execVfredmax v h s)
  | .vfredmin v h => some (Sys2Proof.Machine.execVfredmin v h s)
  | .vfredsumSg d a b z w h => some (Sys2Proof.Machine.execVfredsumSg d a b z w h s)
  | .vfscan v h => some (Sys2Proof.Machine.execVfscan v h s)
  | .vfscanO v h => some (Sys2Proof.Machine.execVfscanO v h s)
  | .vfscanSg d a b z w h => some (Sys2Proof.Machine.execVfscanSg d a b z w h s)
  | .vfargmax d a m h => some (Sys2Proof.Machine.execVfargmax d a m h s)
  | .vfargmin d a m h => some (Sys2Proof.Machine.execVfargmin d a m h s)
  | .vredsum v => some (Sys2Proof.Machine.execVredsum v s)
  | .vredmaxS v => some (Sys2Proof.Machine.execVredmaxS v s)
  | .vredmaxZ v => some (Sys2Proof.Machine.execVredmaxZ v s)
  | .vredminS v => some (Sys2Proof.Machine.execVredminS v s)
  | .vredminZ v => some (Sys2Proof.Machine.execVredminZ v s)
  | .vredand v => some (Sys2Proof.Machine.execVredand v s)
  | .vredor v => some (Sys2Proof.Machine.execVredor v s)
  | .vredxor v => some (Sys2Proof.Machine.execVredxor v s)
  | .vredsumSg d a b z w => some (Sys2Proof.Machine.execVredsumSg d a b z w s)
  | .vexp2 d a m z h => some (Sys2Proof.Machine.execVexp2 d a m z h s)
  | .vlog2 d a m z h => some (Sys2Proof.Machine.execVlog2 d a m z h s)
  | .vrcp d a m z h => some (Sys2Proof.Machine.execVrcp d a m z h s)
  | .vrsqrt d a m z h => some (Sys2Proof.Machine.execVrsqrt d a m z h s)
  | .vsqrt d a m z h => some (Sys2Proof.Machine.execVsqrt d a m z h s)
  | .vrand d m z => some (Sys2Proof.Machine.execVrand d m z s)
  | .vrandf d m z h => some (Sys2Proof.Machine.execVrandf d m z h s)
  | .vcdfsel d a b m h => some (Sys2Proof.Machine.execVcdfsel d a b m h s)
  | .vsmmerge d a z => some (Sys2Proof.Machine.execVsmmerge d a z s)
  | .vstrip d a e p g => some (Sys2Proof.Machine.execVstrip d a e p g s)
  | .vstrend => some (Sys2Proof.Machine.execVstrend s)
  | .vexitI d a b => some (Sys2Proof.Machine.execVexitI d a b s)
  | .vexitB d a b => some (Sys2Proof.Machine.execVexitB d a b s)
  | .lpfL2 a b => some (Sys2Proof.Machine.execLpfL2 a b s)
  | .lpfL1 a b => some (Sys2Proof.Machine.execLpfL1 a b s)
  | .tzero t => some (Sys2Proof.Machine.execTzero t s)
  | .top t la lb f32 oa ob ha hb za => some (Sys2Proof.Machine.execTop t la lb f32 oa ob ha hb za s)
  | .trd d t row colw clr => some (Sys2Proof.Machine.execTrd d t row colw clr s)
  | .twr t b row colw => some (Sys2Proof.Machine.execTwr t b row colw s)
  | .tfinit t a => some (Sys2Proof.Machine.execTfinit t a s)
  | .ld8ZAq d a k => some (Sys2Proof.Machine.execLd8ZAq d a k s)
  | .ld16ZAq d a k => some (Sys2Proof.Machine.execLd16ZAq d a k s)
  | .ld32ZAq d a k => some (Sys2Proof.Machine.execLd32ZAq d a k s)
  | .ld64Aq d a k => some (Sys2Proof.Machine.execLd64Aq d a k s)
  | .sloop a n => some (Sys2Proof.Machine.execSloop a n s)
  | .fpush d a => some (Sys2Proof.Machine.execFpush d a s)
  | .lclean a b => some (Sys2Proof.Machine.execLclean a b s)
  | .linv a b => some (Sys2Proof.Machine.execLinv a b s)
  | .discard a b => some (Sys2Proof.Machine.execDiscard a b s)
  | .tgl l b row m => some (Sys2Proof.Machine.execTgl l b row m s)
  | .tfsave t a => some (Sys2Proof.Machine.execTfsave t a s)
  | .tfload t a => some (Sys2Proof.Machine.execTfload t a s)
  | .tfupd t b => some (Sys2Proof.Machine.execTfupd t b s)
  | .tfdnd t b dlt => some (Sys2Proof.Machine.execTfdnd t b dlt s)
  | .tfsolv d t b part => some (Sys2Proof.Machine.execTfsolv d t b part s)
  | .tfrd d t row => some (Sys2Proof.Machine.execTfrd d t row s)
  | .tfwr t b row => some (Sys2Proof.Machine.execTfwr t b row s)
  | _ => none

/-- A vector load: a fault of one of its elements in a speculative strip is recorded (R248, R249). -/
def vectorLoad : Instr → Bool
  | .vld ..
  | .vlds ..
  | .vldxu ..
  | .vldxo ..
  | .vldseg ..
  | .vldr ..
  | .vldm ..
  | .vldf ..
  | .vldfs ..
  | .vldfxu ..
  | .vldfxo ..
  | .vldfseg .. => true
  | _ => false

/-- A scalar acquire load, which sets the monitored line when it binds (R297). -/
def monitors : Instr → Bool
  | .ld8ZAq .. | .ld16ZAq .. | .ld32ZAq .. | .ld64Aq .. => true
  | _ => false

/-- An instruction whose element 0 is an acquire: no younger load binds before it does (R238, R267, R274). -/
def acquires (i : Instr) : Bool :=
  monitors i || (match i with | .tfload .. => true | _ => false)

/-- One of mode 6 or 7, whose units are bytes or bits. -/
def wholeLoad : Instr → Bool
  | .vldr .. | .vldm .. => true
  | _ => false

/-- An instruction whose result depends on more than its hart: while it stands in the stream its register is not known.
-/
def asks : Instr → Option Reg
  | .mfsr d n => if n < 0x100 then some d else none
  | .cpyqry d _ | .bqry d _ | .tqry d _ | .crqry d _ => some d
  | _ => none

/-- An AMO without acquire (R274, R315): result register, address register and bytes. -/
def plainAmo : Instr → Option (Reg × Reg × Nat)
  | .amoswap d a _ _ q _ z => if q then none else some (d, a, if z then 8 else 4)
  | .amoadd d a _ _ q _ z => if q then none else some (d, a, if z then 8 else 4)
  | .amoand d a _ _ q _ z => if q then none else some (d, a, if z then 8 else 4)
  | .amoor d a _ _ q _ z => if q then none else some (d, a, if z then 8 else 4)
  | .amoxor d a _ _ q _ z => if q then none else some (d, a, if z then 8 else 4)
  | .amominS d a _ _ q _ z => if q then none else some (d, a, if z then 8 else 4)
  | .amominZ d a _ _ q _ z => if q then none else some (d, a, if z then 8 else 4)
  | .amomaxS d a _ _ q _ z => if q then none else some (d, a, if z then 8 else 4)
  | .amomaxZ d a _ _ q _ z => if q then none else some (d, a, if z then 8 else 4)
  | .amocas d a _ _ q _ z => if q then none else some (d, a, if z then 8 else 4)
  | .signal a _ => some (0, a, 8)
  | _ => none

/-- An instruction that leaves nothing to its own hart. -/
def leavesNothing : Instr → Bool
  | .promote .. | .tmark .. => true
  | _ => false

/-- An instruction that opens a strip (R241). -/
def opensStrip : Instr → Bool
  | .vstrip .. => true
  | _ => false

end Sys2Proof.Machine
end

