-- ==== Sys2Proof/Machine/Ahead.lean ====
section
/-! DEFINITION. Steps of the memory machine that the hart's own instructions do not take (R266, R268, R271, R276), strips
that run ahead (R249, R256, R257), and the refill reply of R74. What an address depends on is told by looks ahead of the
hart with every possible value of the loads that have not bound (notes/assumptions/8.md). -/

namespace Sys2Proof.Machine

/-! ### Looking ahead -/

/-- The hart may run ahead at all: it executes, and no wait of an entry into or a return from a handler stands before
its next access. -/
def Hart.mayRunAhead (h : Hart) : Bool :=
  h.runs && h.pcHi == 0 && !h.ms.entryDrain && !h.ms.retDrain && !h.db.stepping && h.db.haltReq.isNone

/-- Where a look begins: the hart as it stands, without triggers and without a handler to trap to, so that an
instruction which traps ends the look. -/
def State.lookFrom (s : State) (guess : List Byte) (watch : Vector Word 4) : State :=
  { s with
    oracle := []
    pace := []
    inbox := []
    h := { s.h with
      hr := { s.h.hr with hvec := 0, watch := watch }
      db := { s.h.db with stall := none, waited := none }
      ms := { s.h.ms with look := some { guess := guess }, loadQ := [], landed := [] } } }

/-- Guessed bytes as a number. -/
def guessNat (n : Nat) : M Nat := do
  match (← getH).ms.look with
  | none => return 0
  | some l =>
    modH fun h => { h with ms := { h.ms with look := some { (l.take 0 n).1 with missed := l.missed } } }
    return ofBytes (l.take 0 n).2

/-- A register that is not known until its instruction completes. -/
def lookAsk (d : Reg) : M Unit := do
  writeX d (BitVec.ofNat 64 (← guessNat 8))
  retire 4

/-- An AMO that has not been performed: neither its result nor what it writes is known. -/
def lookAmo (d a : Reg) (w : Nat) : M Unit := do
  noStrip
  let va := (← readX a).toNat
  aligned va w
  let l ← translateH 0 va .amo w false
  enterStore none [{ key := l.key, bytes := toBytes w (← guessNat w), va := va }]
  writeX d (BitVec.ofNat 64 (← guessNat 8))
  retire 4

/-- An instruction of the stream performed on a look. -/
def State.lookAt (s : State) (i : Instr) : Option (Host.Outcome State Fault Refusal) :=
  match asks i, plainAmo i with
  | some d, _ => some (runM (lookAsk d) s)
  | none, some (d, a, w) => some (runM (lookAmo d a w) s)
  | none, none => if leavesNothing i then some (runM (do noStrip; retire 4) s) else streamed i s

/-- The instruction at an address of a path, among those that the step has decoded. -/
def State.instrAt (s : State) (pc : BitVec 52) : Option Instr :=
  (s.peekWord pc).bind fun w => (s.issue.find? (·.1 == w)).map (·.2)

/-- The instruction at which a look stands. -/
def State.nextInstr (s : State) : Option Instr := s.instrAt s.h.pc

/-- A place on the path of a look: the state before its instruction, and how many strips have been opened there and not
closed by a completed instruction (R256). -/
structure Ahead where
  s : State
  strips : Nat

/-- The look goes on from one instruction of the path to the next: it completes there, opens no third strip, and passes
no acquire that has not bound (R267). -/
def Ahead.next (p : Ahead) (pc : BitVec 52) : Option Ahead :=
  p.s.nextInstr.bind fun i =>
    let n := if opensStrip i then p.strips + 1 else p.strips
    let stops := acquires i && !(p.s.h.boundElem 0).any (·.fault.isNone)
    match (if 2 < n || stops then none else p.s.lookAt i) with
    | some (.next t) =>
      if t.h.status == .running && !t.h.db.halted && t.h.db.waited.isNone && t.h.pc == pc && t.h.pcHi == 0 then
        let rest := match p.s.h.ms.bound with
          | e :: r => if e.pc == p.s.h.pc && r.head?.all (·.pc == pc) then r else []
          | [] => []
        some ⟨{ t with h := { t.h with ms := { t.h.ms with bound := rest } } }, n⟩
      else none
    | _ => none

/-- The places of a path from the hart's next instruction on, the last one not executed. -/
def Ahead.trail (p : Ahead) : List (BitVec 52) → Option (List Ahead)
  | [] => none
  | [a] => if p.s.h.pc = a then some [p] else none
  | a :: b :: r => if p.s.h.pc = a then (p.next b).bind fun q => (q.trail (b :: r)).map (p :: ·) else none

/-- The places of a path when the loads that have not bound give `guess`. -/
def State.trail (s : State) (path : List (BitVec 52)) (watch : Vector Word 4) (guess : List Byte) : Option (List Ahead) :=
  (⟨s.lookFrom guess watch, if s.h.ms.strip.isSome then 1 else 0⟩ : Ahead).trail path

/-- The last place of the path. -/
def State.lookEnd (s : State) (path : List (BitVec 52)) (guess : List Byte) : Option Ahead :=
  (s.trail path (Vector.replicate 4 0) guess).bind List.getLast?

/-- The instruction at a place executed in search of element `el`. -/
def Ahead.seek (p : Ahead) (el : Nat) (real : Bool) : Option State :=
  p.s.nextInstr.bind fun i =>
    let spec := p.s.h.ms.strip.isSome && vectorLoad i && (decide (2 ≤ p.strips) || (el != 0 && !wholeLoad i))
    let look (l : Look) : Look :=
      { l with aim := some el, real := real, record := spec, older := l.missed, missed := [] }
    match { p.s with h := { p.s.h with ms := { p.s.h.ms with look := p.s.h.ms.look.map look } } }.lookAt i with
    | some (.next t) => some t
    | _ => none

/-- What a look finds at the end of a path: the accesses of the element, whether a lower element that the form orders
before it has not bound (R272), and where older loads that have not bound read. -/
structure Sight where
  asked : List (Nat × Nat)
  blocked : Bool
  older : List Nat
  deriving DecidableEq, Repr

/-- The same element, found with the same lower elements bound. -/
def Sight.same (x y : Sight) : Bool := x.asked == y.asked && x.blocked == y.blocked

/-- The element as one look sees it; none where the look leaves the path, or the element is not performed. -/
def State.sight (s : State) (path : List (BitVec 52)) (el : Nat) (guess : List Byte) : Option Sight :=
  (s.lookEnd path guess).bind fun p => (p.seek el false).bind fun t => t.h.ms.look.bind fun l =>
    if l.asked = [] then none
    else some ⟨l.asked, l.missed != [] && !((p.s.peekWord p.s.h.pc).any mode2), l.older⟩

/-- The hart's stores as one look sees them at the end of a path. -/
def State.storesSeen (s : State) (path : List (BitVec 52)) (guess : List Byte) : List Part :=
  ((s.lookEnd path guess).map (·.s.h.ownStores)).getD []

/-- A store as it stands once the DISCARDs ahead of it have completed. -/
def Part.settled (p : Part) : Part := { p with early := 0 }

/-- The hart has entered the store already. -/
def Hart.entered (h : Hart) (p : Part) : Bool := h.ownStores.any (·.settled == p.settled)

/-- The same part but for its data. -/
def Part.like (p q : Part) : Bool := p.pc == q.pc && p.key == q.key && p.va == q.va && p.bytes.length == q.bytes.length

/-- Bytes that the instructions of a path can guess at most: a vector access reads less than 2^20, a look for element
`el` of the last one less than 2^10 for each lower element. -/
def guessBytes (path : List (BitVec 52)) (el : Nat) : Nat := 2 ^ 20 * (path.length - 1) + 2 ^ 10 * el

/-- A property of every look: guesses are the numbers below `256 ^ guessBytes`. -/
def everyLook (path : List (BitVec 52)) (el : Nat) (p : List Byte → Bool) : Bool :=
  decide (∀ x < 256 ^ guessBytes path el, p (toBytes (guessBytes path el) x) = true)

/-- The first guess with a property, of the numbers below `n` as `k` bytes. -/
def firstGuess (p : List Byte → Bool) (k : Nat) : Nat → Option (List Byte)
  | 0 => none
  | n + 1 => (firstGuess p k n).or (if p (toBytes k n) then some (toBytes k n) else none)

/-- A property of every look that finds the element. -/
def State.everySight (s : State) (path : List (BitVec 52)) (el : Nat) (p : List Byte → Sight → Bool) : Bool :=
  everyLook path el fun g => (s.sight path el g).all (p g)

/-- A look that finds the element. -/
def State.someSight (s : State) (path : List (BitVec 52)) (el : Nat) : Option (List Byte) :=
  firstGuess (fun g => (s.sight path el g).isSome) (guessBytes path el) (256 ^ guessBytes path el)

/-- The element's address is known (R266): all looks that find it see what the look with `g` sees, with no lower element
of an ordered form unbound, and none takes away a store that is already entered. -/
def State.known (s : State) (path : List (BitVec 52)) (el : Nat) (g : List Byte) : Bool :=
  (s.sight path el g).any fun x => !x.blocked && s.everySight path el fun g' x' =>
    x'.same x && s.h.ownStores.all fun p => (s.storesSeen path g').any (·.settled == p.settled)

/-- A store of the path whose address and data are known: every look that finds the element sees it. -/
def State.dataKnown (s : State) (path : List (BitVec 52)) (el : Nat) (p : Part) : Bool :=
  s.everySight path el fun g _ => (s.storesSeen path g).contains p

/-- A store whose address alone is known: an incomplete overlapping store blocks a bind (R267). -/
def State.dataUnknown (s : State) (path : List (BitVec 52)) (el : Nat) (p : Part) : Bool :=
  !s.dataKnown path el p && s.everySight path el fun g _ => (s.storesSeen path g).any p.like

/-! ### BIND (R266, R267) -/

/-- The stores of a hart that `keep` keeps. -/
def Hart.keepStores (keep : Part → Bool) (h : Hart) : Hart :=
  { h with ms := { h.ms with
    storeQ := h.ms.storeQ.filter keep
    strip := h.ms.strip.map fun st => { st with held := st.held.filter fun x => keep x.part } } }

/-- Entries of the stream along a path, those that it holds already and fresh ones, and what it holds behind them. -/
def along : List (BitVec 52) → List Issued → List Issued × List Issued
  | [], b => ([], b)
  | a :: r, [] => ({ pc := a } :: (along r []).1, [])
  | a :: r, e :: b =>
    if e.pc = a then (e :: (along r b).1, (along r b).2) else ({ pc := a } :: (along r []).1, [])

/-- An element put into an entry: what it has bound is added, a stale one is replaced. -/
def Issued.put (e : Issued) (b : BoundElem) : Issued :=
  let old := e.elems.find? fun x => x.el == b.el && !x.stale
  let b := match old with
    | some x => { b with
        vas := x.vas ++ b.vas
        parts := x.parts ++ b.parts
        deps := x.deps ++ b.deps
        knew := x.knew ++ b.knew
        later := x.later ++ b.later
        id := x.id }
    | none => b
  { e with elems := e.elems.filter (·.el != b.el) ++ [b] }

/-- The elements of the path's older instructions. -/
def State.olderElems (s : State) (path : List (BitVec 52)) : List BoundElem :=
  (along path.dropLast s.h.ms.bound).1.flatMap fun e => e.elems.filter (!·.stale)

/-- The state without one bound element. -/
def State.without (s : State) (id : Nat) : State :=
  let drop (e : Issued) : Issued := { e with elems := e.elems.filter (·.id != id) }
  { s with h := { s.h with ms := { s.h.ms with bound := s.h.ms.bound.map drop } } }

/-- The element binds, or a fault of it is recorded, as the look with `guess` finds it: from the stores that are settled
and from the homes. Answers the state, whose hart is to be the hart as it stood, and the stream. -/
def State.bindSeen (s : State) (path : List (BitVec 52)) (el : Nat) (guess : List Byte) (settled : Part → Bool) :
    Option (State × BoundElem × List Issued) :=
  (s.lookEnd path guess).bind fun p =>
    let q : Ahead := ⟨{ s with h := p.s.h.keepStores settled }, p.strips⟩
    (q.seek el true).bind fun t => (t.h.ms.look.bind (·.got)).map fun b =>
      (t, b, if p.s.h.ms.bound.head?.any (·.pc == p.s.h.pc) then t.h.ms.bound.tail else [])

/-- Taken transfers of speculative strips on the path are traced where the stream has not traced them, with VSPEC = 1
(R241, R352). -/
def State.traceAhead (s : State) : List Ahead → List Issued → State × List Issued
  | p :: q :: r, e :: es =>
    let len := ((p.s.peekWord p.s.h.pc).map fun w => lengthOf (w % 2 ^ 16)).getD 0
    let after := BitVec.ofNat 52 (p.s.h.pc.toNat + len)
    let taken := q.s.h.pc != after && !(p.s.h.inLoop p.s.h.pc && after == p.s.h.lp.fin)
    if 2 ≤ p.strips ∧ p.s.h.ms.strip.isSome ∧ taken ∧ !e.traced then
      let at' := { s with h := { s.h with pc := p.s.h.pc, vc := { s.h.vc with vspec := true } } }
      let s := { at'.traceRec 1 0 q.s.h.pc.toNat with h := s.h }
      let t := s.traceAhead (q :: r) es
      (t.1, { e with traced := true } :: t.2)
    else
      let t := s.traceAhead (q :: r) es
      (t.1, e :: t.2)
  | _, es => (s, es)

/-- What the element has bound rests on what this older element has bound: without it the address is not known, or the
data of a store that it reads (R268). -/
def State.restsOn (s : State) (path : List (BitVec 52)) (el : Nat) (b x : BoundElem) : Bool :=
  let t := s.without x.id
  match t.someSight path el with
  | none => true
  | some g => !t.known path el g || (s.storesSeen path g).any fun p =>
      b.meets p && s.dataKnown path el p && !t.dataKnown path el p

/-- Acquires of the path, and of its last instruction, that have bound before the element: once one of them binds again,
the element does (R268). -/
def State.acquired (s : State) (path : List (BitVec 52)) (el : Nat) : List Nat :=
  let of' (e : Issued) : List Nat := if (s.instrAt e.pc).any acquires then (e.elems.filter (·.el == 0)).map (·.id) else []
  let es := (along path s.h.ms.bound).1
  es.dropLast.flatMap of' ++ (if el = 0 then [] else (es.getLast?.map of').getD [])

/-- No older access of the hart to a device on which the element lies is still to be performed, whatever the loads that
have not bound give (R276). -/
def State.inOrder (s : State) (path : List (BitVec 52)) (el : Nat) (b : BoundElem) : Bool :=
  b.parts.all fun q => match awayFrom q.1 with
    | none => true
    | some d =>
      !s.h.ms.loadQ.any (·.1 == d) && !s.h.ms.fabricQ.any (·.1 == d) &&
      s.everySight path el fun g x =>
        !x.older.any (awayFrom · == some d) && !(s.storesSeen path g).any (awayFrom ·.key == some d)

/-- An acquire load binds only where no branch that is still open leads past it, and sets the monitored line (R297). -/
def State.mayAcquire (s : State) (path : List (BitVec 52)) (el : Nat) : Bool :=
  !((path.getLast?).bind s.instrAt).any monitors || everyLook path el fun g => (s.sight path el g).isSome

def State.monitored (s : State) (path : List (BitVec 52)) (b : BoundElem) : Hart :=
  match b.vas, b.parts with
  | (va, _) :: _, (k, _) :: _ => if ((path.getLast?).bind s.instrAt).any monitors then s.h.monitor k va else s.h
  | _, _ => s.h

/-- Marks of the stores that give the element their data before they are entered (R267). -/
def State.knownMarks (s : State) (path : List (BitVec 52)) (el : Nat) (g : List Byte) (b : BoundElem) :
    List (BitVec 52 × Nat × Nat) :=
  ((s.storesSeen path g).filter fun p => b.meets p && !s.h.entered p && s.dataKnown path el p).map Part.mark

/-- BIND at the moving hart: element `el` of the last instruction of the path takes its value, ahead of the instructions
before it, when its address is known and no blocker of R267 stands. In a speculative strip a fault is recorded instead
(R249). -/
def State.bindAhead (path : List (BitVec 52)) (el : Nat) (s : State) : State :=
  let s0 := s
  let s := s.resolveOwn
  match (if s.h.mayRunAhead then s.someSight path el else none) with
  | none => s0
  | some g =>
    match (if s.known path el g && s.mayAcquire path el then s.bindSeen path el g (s.dataKnown path el) else none) with
    | none => s0
    | some (t, b, younger) =>
      if ((s.storesSeen path g).any fun p => s.dataUnknown path el p && b.meets p) || !s.inOrder path el b then s0
      else
        let b := { b with
          id := t.tick
          knew := s.knownMarks path el g b
          deps := s.acquired path el ++ ((s.olderElems path).filter (s.restsOn path el b)).map (·.id) }
        let es := (along path s.h.ms.bound).1
        let last := ((es.getLast?).getD { pc := s.h.pc }).put b
        let r := State.traceAhead { t with h := s.h } ((s.trail path (Vector.replicate 4 0) g).getD []) (es.dropLast ++ [last])
        { r.1 with
          tick := t.tick + 1
          h := { s.monitored path b with ms := { s.h.ms with bound := r.2 ++ younger } }
          inbox := s.inbox
          pace := s.pace }

/-- BIND (R266). -/
def execBind (gang rank : Nat) (a : AheadAt) (s : State) : Host.Outcome State Fault Refusal :=
  .next (s.withHart ⟨gang, rank⟩ (State.bindAhead a.path a.el))

/-- REPLAY (R268): the elements of the instruction at `pc` that a condition of R268 has met are unbound, and bind again
later. -/
def Hart.replay (pc : BitVec 52) (h : Hart) : Hart :=
  let drop (e : Issued) : Issued := if e.pc = pc then { e with elems := e.elems.filter (!·.stale) } else e
  { h with ms := { h.ms with bound := h.ms.bound.map drop } }

def execReplay (gang rank : Nat) (pc : BitVec 52) (s : State) : Host.Outcome State Fault Refusal :=
  .next (s.atHart gang rank (Hart.replay pc))

/-! ### EARLY (R266, R271) -/

/-- The lines of a DISCARD as parts of the store queue, when every check passes (R117, R266): `k` DISCARDs at its address
have still to complete. -/
def discardParts (xa n k : Nat) : M (List Part) := do
  let pc := (← getH).pc
  let ls ← (List.range n).mapM fun k => do
    let va := (xa + 128 * k) % 2 ^ 64
    let ps ← places k va 128 .store false idemRule
    bankReady ps
    return storeParts ps (List.replicate 128 0) none none
  return ls.flatten.map fun p => { p with early := k, pc := pc }

/-- The registers of a DISCARD. -/
def discardRegs : Instr → Option (Reg × Reg)
  | .discard a b => some (a, b)
  | _ => none

/-- The range of the DISCARD at the end of a path as one look sees it: every older instruction completes whatever the
loads give, and none is a store that has not entered the store queue. -/
def State.rangeSeen (s : State) (path : List (BitVec 52)) (guess : List Byte) : Option (Nat × Nat) :=
  ((s.trail path s.h.hr.watch guess).bind List.getLast?).bind fun p =>
    (p.s.nextInstr.bind discardRegs).bind fun r =>
      if p.s.h.ms.strip.isNone ∧ p.s.h.ownStores.map Part.settled = s.h.ownStores.map Part.settled ∧
          p.s.h.ms.watchHit.isNone then
        some ((p.s.h.getX r.1).toNat, (p.s.h.getX r.2).toNat)
      else none

/-- EARLY at the moving hart: the DISCARD at the end of the path, which has not gone ahead yet, puts its lines into the
store queue ahead of the loads before it, whose own checks and triggers are past but for MCHECK. -/
def State.discardEarly (path : List (BitVec 52)) (s : State) : State :=
  let pc := (path.getLast?).getD s.h.pc
  let n := s.h.ms.early.count pc
  let r := s.rangeSeen path (toBytes (guessBytes path 0) 0)
  match (if s.h.mayRunAhead && decide (n < path.count pc) && path.all (fun a => (s.h.execTrigger a).isNone) &&
      everyLook path 0 (fun g => s.rangeSeen path g == r) then r else none) with
  | none => s
  | some (a, len) =>
    if a % 128 ≠ 0 ∨ len % 128 ≠ 0 then s
    else match (discardParts a (len / 128) (n + 1)).run { s with h := { s.h with pc := pc } } with
      | (.ok ps, t) => { t with h := { s.h with ms := { s.h.ms with
          storeQ := s.h.ms.storeQ ++ ps
          early := s.h.ms.early ++ [pc] } } }
      | (.error _, _) => s

/-- EARLY (R266, R271). -/
def execEarly (gang rank : Nat) (path : List (BitVec 52)) (s : State) : Host.Outcome State Fault Refusal :=
  .next (s.withHart ⟨gang, rank⟩ (State.discardEarly path))

/-! ### What a step gives to a look -/

/-- Hart and path of an event that looks ahead. -/
def lookPath : Instr → Option (Nat × Nat × List (BitVec 52))
  | .bind g r a => some (g, r, a.path)
  | .early g r p => some (g, r, p)
  | _ => none

/-- The words on the path of an event that looks ahead, each decoded. -/
noncomputable def State.issueFor (i : Instr) (s : State) : State :=
  match lookPath i with
  | none => s
  | some (g, r, p) => s.withHart ⟨g, r⟩ fun t =>
    { t with issue := p.filterMap fun pc => (t.peekWord pc).bind fun w => match decode w with
      | .ok j => some (w, j)
      | .error _ => none }

/-! ### Queues -/

/-- DRAIN (R266): the oldest store-queue entry of a hart, when it need not wait. -/
def execDrain (gang rank : Nat) (s : State) : Host.Outcome State Fault Refusal :=
  .next (s.withHart ⟨gang, rank⟩ fun s => (s.drainOne).getD s)

/-- ARRIVE (R276): the oldest entry of a hart's fabric queue toward a device. -/
def execArrive (gang rank dev : Nat) (s : State) : Host.Outcome State Fault Refusal :=
  .next (s.withHart ⟨gang, rank⟩ fun s => (s.arriveOne dev).getD s)

/-! ### The stash (R74, R75) -/

/-- Esmen's reply: IDs that it holds free, up to as many as were asked for, or none when the pool is dry, which also
starts the demotion of the coldest continuation. The stash holds 32: what does not fit any more, and IDs for a tenant
whose stash it no longer is, stay with Esmen. -/
def Device.refillReply (d : Device) (die core : Nat) (ids : List Nat) : Device :=
  let x := d.stash die core
  if x.asked = 0 then d
  else if x.askedFor ≠ x.tenant then d.setStash { x with asked := 0 }
  else
    let free := (d.tenant x.tenant).freeIds
    if x.asked < ids.length ∨ ids.all free.contains = false ∨ ids.eraseDups ≠ ids ∨ (ids = [] ∧ free ≠ []) then d
    else
      let fit := ids.take (32 - x.ids.length)
      let d1 := d.modTenant x.tenant fun t => { t with freeIds := t.freeIds.filter (!fit.contains ·) }
      let d2 := d1.setStash { x with ids := x.ids ++ fit, asked := 0, dry := ids == [] }
      if ids = [] then d2.demoteColdest x.tenant else d2

/-- STASH_REFILL_REPLY (R74). -/
def execStashRefillReply (die core : Nat) (ids : List Nat) (s : State) : Host.Outcome State Fault Refusal :=
  .next { s with dev := s.dev.refillReply die core ids }

end Sys2Proof.Machine
end

