-- ==== Sys2Proof/Machine/Alloc.lean ====
section
/-! DEFINITION. The lane allocators and the save engine: checks at HEAD (R303, R304), placement and grants (R305-R308),
pre-emption, saving and resuming (R310, R335-R337), the end of a gang (R311), core retirement (R338, R339). -/

namespace Sys2Proof.Machine

/-! ### Plans (R307) -/

/-- A plan given by its groups (4 CORE + LGRP), the gangs one after the other; none when it is not a placement. -/
def State.planned (s : State) (die : Nat) (r : Rec) (groups : List Nat) : Option (List Slot) :=
  let ordered := (List.range r.gangs).all fun k =>
    let g := (groups.drop (k * r.harts)).take r.harts
    (g.zip (g.drop 1)).all fun p => decide (p.1 < p.2)
  let acc := s.fill (fun _ => false) die r (groups.map fun x => (x / 4, x % 4)) (r.harts * r.gangs) []
  if ordered ∧ groups.all (· < 256) ∧ groups.length = r.harts * r.gangs ∧ acc.length = r.harts * r.gangs then some acc else none

/-! ### Checks at HEAD (R303, R304) -/

/-- The translation that a queue's head record uses (R308, R318). -/
def Device.recCtx (d : Device) (q : Queue) : Ctx :=
  let t := d.tenant q.tenant
  let (root, asid) := match q.relaunch.find? (·.1 == q.head.toNat) with
    | some (_, r, a) => (r, a)
    | none => (t.root, t.asid)
  { tenant := q.tenant, root := root, asid := asid, gang := 2 ^ 16, gangsz := 0, rank := 0, die := 0, core := 64 }

/-- What a read by the allocator gives. -/
inductive ARead where
  | bytes (bs : List Byte)
  | fault
  | waits
  deriving DecidableEq, Repr

/-- `n` bytes within a page, read with a queue's translation; a tiered page is waited for as R57 says. -/
def allocRead (q : Queue) (va n : Nat) : M ARead := do
  let c := (← getD).recCtx q
  match ← translate c va .load n with
  | .error (.cause _) => return .fault
  | .error .moving => return .waits
  | .error (.tier l) =>
    modD (·.askPromotion c l va)
    let t ← getTime
    match q.tierClock.find? (·.1 == l.ptea) with
    | some (_, t0) => return if bits l.pte 62 1 = 0 ∧ t0 + tierLimit ≤ t then .fault else .waits
    | none =>
      modD (·.setQueue { q with tierClock := (l.ptea, t) :: q.tierClock })
      return .waits
  | .ok l =>
    let (up, s) := (← get).reaches l.key
    set s
    return if !up || s.dev.bad l.key n then .fault else .bytes (s.readHome l.key n)

/-- An allocator's read as a step of the machine. -/
def State.aread (s : State) (q : Queue) (va n : Nat) : ARead × State :=
  match (allocRead q va n).run s with
  | (.ok a, s') => (a, s')
  | (.error _, s') => (.waits, s')

/-- A record fails with a status (R303): QSTATE keeps the first failure (R301), Esmen reports; status 6 leaves HEAD and
clears EN. A die that kept itself for the record is free again (R306). -/
def State.failRecord (s : State) (q : Queue) (code : Nat) : State :=
  let q1 := if q.valid then q else { q with valid := true, index := q.head, code := BitVec.ofNat 8 code }
  let q2 := if code = 6 then { q1 with en := false } else q1.consume.noteHead s.time
  let rep : Report := { time := s.time, kind := 1, index := q.head.toNat, queue := q.num, code := code }
  let free (x : Nat × Bool × Nat) : Bool := !(x.2.1 == false && x.2.2 == q.num)
  { s with dev := { (s.dev.setQueue q2).report q.tenant rep with reserved := s.dev.reserved.filter free } }

/-- One gang can be placed on an empty die of the queue (R303, R307). -/
def State.fitsEmpty (s : State) (q : Queue) (r : Rec) : Bool :=
  (List.range 8).any fun d => q.dies.getLsbD d && (s.placeGangs (fun _ => true) d r 1 []).isSome

/-- A record that has passed its checks and can no longer be placed, since a core is absent (R339). -/
def State.unplaceable (s : State) (q : Queue) : Bool :=
  match q.checked with
  | some (w, _) => !s.fitsEmpty q ⟨w⟩
  | none => false

/-- The checks of R303 in their order; none while a read waits, with nothing to check, or before READY (R366). -/
def State.checkRecord (s0 : State) (q : Queue) : Option State :=
  if !s0.dev.hosts.ready || !q.en || q.head == q.tail then none
  else if q.checked.isSome then (if s0.unplaceable q then some (s0.failRecord q 3) else none)
  else
    let pa := q.entryPa q.head
    let k := s0.dev.homeOf pa
    let (up, s) := if s0.dev.grants q.tenant pa .load then s0.reaches k else (false, s0)
    if !up || s.dev.bad k 64 then some (s.failRecord q 6)
    else
      let r : Rec := ⟨s.dev.mem.getNat k 64⟩
      if r.tenant ≠ q.tenant then some (s.failRecord q 5)
      else if r.bad then some (s.failRecord q 1)
      else match s.aread q r.code 64 with
        | (.waits, _) => none
        | (.fault, s1) => some (s1.failRecord q 4)
        | (.bytes hd, s1) =>
          let dep := if r.dep = 0 then (ARead.bytes [], s1) else s1.aread q r.dep 8
          match dep with
          | (.waits, _) => none
          | (.fault, s2) => some (s2.failRecord q 4)
          | (.bytes dv, s2) =>
            let h := ofBytes hd
            let m0 := BitVec.ofNat 64 (bits h 128 64)
            let m1 := BitVec.ofNat 64 (bits h 192 64)
            if (m0 &&& ~~~Config.caps0) ≠ 0 ∨ (m1 &&& ~~~Config.caps1) ≠ 0 then some (s2.failRecord q 2)
            else if !s2.fitsEmpty q r then some (s2.failRecord q 3)
            else some { s2 with dev := s2.dev.setQueue { q with
              checked := some (r.w, BitVec.ofNat 64 (bits h 64 64))
              depSeen := if r.dep = 0 then none else some (BitVec.ofNat 64 (ofBytes dv)) } }

/-- The promotion request of a check or a poll that waits (R57). -/
def State.checkAsks (s : State) (q : Queue) : State :=
  if !q.en || q.head == q.tail then s
  else match q.checked with
    | some (w, _) => if Rec.dep ⟨w⟩ = 0 then s else (s.aread q (Rec.dep ⟨w⟩) 8).2
    | none =>
      let r : Rec := ⟨s.dev.mem.getNat (s.dev.homeOf (q.entryPa q.head)) 64⟩
      match s.aread q r.code 64 with
      | (.bytes _, s1) => if r.dep = 0 then s1 else (s1.aread q r.dep 8).2
      | (_, s1) => s1

/-- DEP_POLL (R305): the dependence counter of the record at HEAD is read again. -/
def State.pollDep (s : State) (q : Queue) : State :=
  match q.checked with
  | some (w, _) =>
    if Rec.dep ⟨w⟩ = 0 then s
    else match s.aread q (Rec.dep ⟨w⟩) 8 with
      | (.bytes b, s1) => { s1 with dev := s1.dev.setQueue { q with depSeen := some (BitVec.ofNat 64 (ofBytes b)) } }
      | (_, _) => s
  | none => s

/-! ### Granting (R305, R306, R308) -/

/-- A gang's harts that are not ended. -/
def State.gangHarts (s : State) (g : Nat) : List Hart := s.harts.filter (·.live (BitVec.ofNat 16 g))

/-- A saved gang can resume (R310): its cores, lane groups, tiles, latches and banks are free, gangs of `ex` apart. -/
def State.canResume (s : State) (ex : Nat → Bool) (g : Gang) : Bool :=
  (s.gangHarts g.id).all (fun h =>
    let die := dieOf h.id.hartid
    let core := coreOf h.id.hartid
    !s.dev.coreAbsent die core && s.lanesUsed ex die core &&& h.laneMask == 0 &&
    s.townUsed ex die core &&& h.t.town.toNat == 0) &&
  g.savedBanks.all fun b => s.bankFree ex b.die b.core b.num

/-- Whether a candidate fits on a die, gangs of `ex` apart. -/
def State.fits (s : State) (ex : Nat → Bool) (die : Nat) (c : Cand) : Bool :=
  if c.isGang then (s.dev.gangs.find? (·.id == c.key)).any fun g => g.die == die && s.canResume ex g
  else
    let q := s.dev.queue c.key
    q.depMet && (match q.checked with
      | some (w, _) => (s.placeGangs ex die ⟨w⟩ (Rec.gangs ⟨w⟩) []).isSome
      | none => false)

/-- A die keeps itself for another candidate (R306). -/
def Device.keptFor (d : Device) (die : Nat) (c : Cand) : Bool :=
  d.reserved.any fun x => x.1 == die && !(x.2.1 == c.isGang && x.2.2 == c.key)

/-- A candidate can be granted on a die now. -/
def State.canGrant (s : State) (die : Nat) (c : Cand) : Bool := !s.dev.keptFor die c && s.fits (fun _ => false) die c

/-- It is the candidate that the die grants: the first of those that can be granted, and for a record on the lowest die
that can grant it (R305, R306). -/
def State.mayGrant (s : State) (die : Nat) (c : Cand) : Bool :=
  let l := s.dev.cands die s.time
  l.contains c && (l.find? (s.canGrant die)) == some c &&
  (c.isGang || !(List.range die).any fun d => (s.dev.cands d s.time).contains c && s.canGrant d c)

/-- A GANGID that no gang has. -/
def Device.freshGang (d : Device) : Nat :=
  ((List.range (d.gangs.length + 1)).find? fun i => !d.gangs.any (·.id == i + 1)).getD 0 + 1

/-- A hart at launch (R23, R308, R326). -/
def launchHart (d : Device) (c : Ctx) (r : Rec) (handler : Word) (gang die rank : Nat) (x : Slot) : Hart :=
  let cap := BitVec.ofNat 4 (min (r.vlceil - 10) (d.tenant c.tenant).cap.toNat)
  let hv := if handler = 0 then 0 else (r.code + handler.toNat) / 2 * 2
  let id : Identity :=
    { gang := BitVec.ofNat 16 gang
      gangsz := r.harts
      rank := rank
      hartid := BitVec.ofNat 11 (256 * die + 4 * x.core + x.lgrp)
      lanes := r.lanes
      lshare := r.lanes
      lmin := r.lmin
      tenant := c.tenant }
  { status := .running
    id := id
    x := (Vector.replicate 32 (0 : Word)).set 10 (BitVec.ofNat 64 r.arg)
    pc := BitVec.ofNat 52 r.entry
    vc := { vlmaxr := vlenOf r.lanes cap.toNat / 8, cap := cap }
    t := { town := BitVec.ofNat 6 x.town }
    hr := { ptroot := c.root, asid := c.asid, vlcap := cap, hvec := BitVec.ofNat 52 hv, hscr := BitVec.ofNat 64 r.arg }
    ms := { codeMem := d.mem } }

/-- The banks of a place, zeroed scratch banks of the gang (R111, R307). -/
def Device.grantBanks (d : Device) (gang die : Nat) (r : Rec) (x : Slot) : Device :=
  (List.range r.banks).foldl (fun d i =>
    let n := 4 + 11 * x.lgrp + i
    let k := bankKey die x.core n 0
    { d with
      banks := d.banks ++ [{ die := die, core := x.core, num := n, gang := gang }]
      mem := d.mem.clearRange k 0x4000
      errs := d.errs.filter fun e => !(decide (k ≤ e.1) && decide (e.1 + e.2 ≤ k + 0x4000)) }) d

/-- One gang of a record on its places. -/
def State.grantGang (s : State) (q : Queue) (r : Rec) (handler : Word) (die since : Nat) (xs : List Slot) : State :=
  let g := s.dev.freshGang
  let c := s.dev.recCtx q
  let gang : Gang :=
    { id := g
      die := die
      size := r.harts
      tenant := q.tenant
      ctr := BitVec.ofNat 64 r.ctr
      inc := BitVec.ofNat 64 r.inc
      prio := min r.prio q.pmax
      queue := q.num
      index := q.head.toNat
      headTime := since
      grantNo := s.dev.grantNo }
  let harts := xs.zipIdx.map fun p => launchHart s.dev c r handler g die p.2 p.1
  let d := { s.dev with gangs := s.dev.gangs ++ [gang], grantNo := s.dev.grantNo + 1 }
  let d := xs.foldl (fun d x => d.grantBanks g die r x) d
  { s with others := s.others ++ harts, dev := d }

/-- GRANT (R305): every gang of the record at once, on one die. -/
def State.grantRecord (s : State) (q : Queue) (w : Nat) (handler : Word) (die since : Nat) (plan : List Slot) : State :=
  let r : Rec := ⟨w⟩
  let s := (List.range r.gangs).foldl
    (fun s k => s.grantGang q r handler die since ((plan.drop (k * r.harts)).take r.harts)) s
  let free (x : Nat × Bool × Nat) : Bool := !(x.2.1 == false && x.2.2 == q.num)
  { s with dev := { s.dev.setQueue (q.consume.noteHead s.time) with reserved := s.dev.reserved.filter free } }

/-! ### Saving (R335, R336, R123) -/

/-- The location lies in a bank of the list. -/
def inBanks (bs : List Bank) (k : Nat) : Bool :=
  bs.any fun b => let a := bankKey b.die b.core b.num 0; decide (a ≤ k) && decide (k < a + 0x4000)

/-- What a save and a restore leave of a vector register (R336): its bytes below VT. -/
def VReg.saved (v : VReg) : VReg := { v with val := BitVec.ofNat 16384 (v.val.toNat % 2 ^ (8 * v.vt)), dirty := false }

/-- The 256 bits of a stall-pair entry (R354). -/
def StallEntry.image (e : StallEntry) : Nat :=
  (List.range 4).foldl (fun n i => n + e.word i * 2 ^ (64 * i)) 0

/-- Stall-pair entries written as trace records before a save (R354): of each entry its consumer and ELAG, and in DATA
its index, the number of a piece of 16 bits, and the piece (notes/assumptions/37.md). -/
def State.dumpPairs (s : State) : State :=
  (s.h.db.table.zipIdx.flatMap fun p => (List.range 16).map fun w => (p.1, p.2, w)).foldl
    (fun s p => { s with h := { s.h with pc := p.1.cpc } }.traceRec 10 p.1.elag.toNat
      (p.2.1 % 32 * 2 ^ 27 + p.2.2 * 2 ^ 16 + bits p.1.image (16 * p.2.2) 16)) s

/-- A hart saved and restored (R335-R337): registers as R336 says, loop bodies, stalls and queues gone, EVT set. -/
def Hart.savedForm (h : Hart) : Hart :=
  { h with
    status := .saved
    v := h.v.map VReg.saved
    lp := { h.lp with body := [] }
    db := { h.db with table := [], counter := Vector.replicate 4 0, stall := none, waited := none }
    ms := { h.ms with ibuf := [] } }

/-- A gang's banks as they are saved (R123), with the errors recorded in them (R338): what a cache-mode bank holds is
written back. -/
def Device.saveBanks (d : Device) (g : Gang) : Device :=
  let mine := d.banks.filter (·.gang == g.id)
  let image (x : Gang) : Gang :=
    { x with
      savedBanks := mine
      savedMem := d.mem.filter fun c => inBanks mine c.1
      savedErrs := d.errs.filter fun e => inBanks mine e.1 }
  { d with
    banks := d.banks.filter (·.gang != g.id)
    mem := d.mem.filter fun c => !inBanks mine c.1
    errs := d.errs.filter fun e => !inBanks mine e.1
    gangs := d.gangs.map fun x => if x.id = g.id then image x else x }

/-- Commands at the head of their engines that wait without a limit are cancelled (R136). -/
def State.cancelWaiting (s : State) (g : Nat) : State :=
  (s.dev.cmds.filter fun c => c.owner.gang == g).foldl (fun s c =>
    if s.dev.head c.die c.core c.eng == some c && s.waitsForever c then { s with dev := s.dev.cancelCmd c } else s) s

/-- Steps 1 to 3 of R335 are done: every hart stopped, queues empty, no command left. -/
def State.quiet (s : State) (g : Nat) : Bool :=
  s.harts.all (fun h => h.id.gang.toNat != g || h.status == .vacant ||
    ((h.status != .running || h.db.halted) && h.ms.storeQ == [] && h.ms.fabricQ == [])) &&
  !s.dev.cmds.any fun c => c.owner.gang == g

/-- Banks go back to the L1 and failure records go (R311). -/
def Device.freeBanks (d : Device) (g : Nat) : Device :=
  let mine := d.banks.filter (·.gang == g)
  { d with
    banks := d.banks.filter (·.gang != g)
    mem := d.mem.filter fun c => !inBanks mine c.1
    errs := d.errs.filter fun e => !inBanks mine e.1 }

/-- A gang that is over leaves the device with its harts. -/
def State.dropGang (s : State) (g : Nat) : State :=
  let mine (h : Hart) : Bool := h.id.gang.toNat == g && h.status != .vacant
  let d := s.dev.freeBanks g
  { s with
    h := if mine s.h then {} else s.h
    others := s.others.filter fun h => !mine h
    dev := { d with gangs := d.gangs.filter (·.id != g) } }

/-- A saved gang ends with its core (R339). -/
def State.coreLoss (s : State) (g : Gang) : State :=
  let rep : Report := { time := s.time, kind := 4 }
  ({ s with dev := s.dev.gangReport g.tenant g.id rep }).dropGang g.id

/-- Some hart of the gang has its core absent. -/
def State.gangLost (s : State) (g : Nat) : Bool :=
  (s.gangHarts g).any fun h => s.dev.coreAbsent (dieOf h.id.hartid) (coreOf h.id.hartid)

/-- Step 4 of R335, with R339. -/
def State.saveGang (s : State) (g : Gang) : State :=
  let mine (h : Hart) : Bool := h.live (BitVec.ofNat 16 g.id)
  let s := s.eachHart fun s => if mine s.h then
    let t := s.stopHart
    let u := t.dumpPairs
    { u with h := t.h.savedForm } else s
  let d := s.dev.saveBanks g
  let mark (x : Gang) : Gang := if x.id = g.id then { x with saved := true, stopReq := none } else x
  let s : State := { s with dev := { d with gangs := d.gangs.map mark } }
  if s.gangLost g.id then s.coreLoss g else s

/-- The save of a gang goes on (R335): commands that would wait without a limit are cancelled, one head after the other
(R136), and the save is made once the gang is quiet; none while it waits. -/
def State.trySave (s : State) (g : Gang) : Option State :=
  if g.stopReq.isNone || g.saved || g.ending.isSome then none
  else
    let t := s.cancelWaiting g.id
    if t.quiet g.id then some (t.saveGang g) else if t.dev.cmds.length = s.dev.cmds.length then none else some t

/-! ### Resuming (R337) -/

/-- The instructions from `pc` to the end of the loop of the hart at the front, captured by fetch (R43, R292), up to a
first that cannot be fetched: that one is captured, or traps, when the hart reaches it. -/
def State.captureFrom : Nat → BitVec 52 → State → State
  | 0, _, s => s
  | n + 1, pc, s =>
    if s.h.lp.fin ≤ pc then s
    else match (fetchWord 0 pc.toNat).run s with
      | (.ok w, t) => State.captureFrom n (pc + BitVec.ofNat 52 (lengthOf w))
          { t with h := { t.h with lp := { t.h.lp with body := t.h.lp.body ++ [(pc, w)] } } }
      | (.error _, _) => s

/-- The body of a resumed hart's loop captured again. -/
def State.capture (s : State) : State :=
  if s.h.lp.active then State.captureFrom 32 s.h.lp.start { s with h := { s.h with lp := { s.h.lp with body := [] } } }
  else s

/-- A gang back on its place. -/
def State.resumeGang (s : State) (g : Gang) : State :=
  let back (h : Hart) : Hart :=
    if h.id.gang.toNat = g.id ∧ h.status = .saved then
      { h with
        status := .stopped
        vc := { h.vc with vlmaxr := h.vlmaxFor h.vc.ew h.vc.grp }
        sy := { h.sy with evt := true } }
    else h
  let s := s.mapHarts back
  let d : Device := { s.dev with
    banks := s.dev.banks ++ g.savedBanks
    mem := g.savedMem.foldl (fun m c => m.set c.1 c.2) s.dev.mem
    errs := s.dev.errs ++ g.savedErrs
    gangs := s.dev.gangs.map fun x =>
      if x.id = g.id then { x with saved := false, savedBanks := [], savedMem := [], savedErrs := [] } else x
    reserved := s.dev.reserved.filter fun x => !(x.2.1 && x.2.2 == g.id) }
  let captured (s : State) : State :=
    if s.h.id.gang.toNat = g.id ∧ s.h.status = .stopped then s.capture else s
  (State.eachHart captured { s with dev := d }).startHarts g.id

/-! ### Pre-emption by the allocator (R310) -/

/-- Resident gangs of a die with a priority below 3, in the order in which they would be removed. -/
def Device.victimOrder (d : Device) (die : Nat) : List Gang :=
  let before (a b : Gang) : Bool := decide (a.prio < b.prio) || (a.prio == b.prio && decide (b.grantNo < a.grantNo))
  (d.gangs.filter fun g => g.die == die && !g.saved && g.stopReq.isNone && g.ending.isNone && decide (g.prio < 3)).foldl
    (fun l g => (l.takeWhile fun x => !before g x) ++ g :: l.dropWhile fun x => !before g x) []

/-- The fewest victims, in that order, whose removal lets the candidate fit. -/
def State.victimsFor (s : State) (die : Nat) (c : Cand) : List Gang :=
  let l := s.dev.victimOrder die
  match (List.range (l.length + 1)).find? fun n => s.fits (fun g => (l.take n).any (·.id == g)) die c with
  | some n => l.take n
  | none => []

/-- The gangs that a die's allocator pre-empts now: for a candidate of own PRIO 3 that has waited 100 µs. -/
def State.victims (s : State) (die : Nat) : List Gang :=
  if s.dev.gangs.any fun g => g.die == die && g.stopReq.isSome then []
  else match (s.dev.cands die s.time).find? fun c =>
      c.prio == 3 && decide (c.since + ms / 10 ≤ s.time) && !s.dev.keptFor die c && !s.fits (fun _ => false) die c &&
        s.victimsFor die c != [] with
    | some c => s.victimsFor die c
    | none => []

/-- A stop for a save is asked of a gang (R310, R338). -/
def Device.askStop (d : Device) (g : Nat) (retire : Bool) : Device :=
  { d with gangs := d.gangs.map fun x =>
      if x.id = g ∧ !x.saved ∧ x.ending.isNone then { x with stopReq := some (retire || x.stopReq.getD false) } else x }

/-! ### The end of a gang (R311) -/

/-- Whether the banks of an ending gang return: no store of its harts is queued, and no command of it runs or has still
to be issued again (R136, R281, R311). -/
def State.endQuiet (s : State) (g : Nat) : Bool :=
  s.harts.all (fun h => h.id.gang.toNat != g || h.status == .vacant || h.ms.storeQ == []) &&
  (!s.dev.cmds.any fun c => c.owner.gang == g) && s.dev.gangs.all fun x => x.id != g || x.savedCmds == []

def State.noFabric (s : State) (g : Nat) : Bool :=
  s.harts.all fun h => h.id.gang.toNat != g || h.status == .vacant || h.ms.fabricQ == []

/-- The translation of a completion add (R311). -/
def Gang.addCtx (g : Gang) : Ctx :=
  { tenant := g.tenant, root := g.endRoot, asid := g.endAsid, gang := g.id, gangsz := g.size, rank := 0, die := g.die,
    core := coreOf g.endHart }

/-- The add fails: Esmen reports, the gang is over. -/
def State.addFails (s : State) (g : Gang) (c : Cause) : State :=
  let rep : Report := { time := s.time, kind := 6, cause := c.code.toNat, eaddr := g.ctr }
  ({ s with dev := s.dev.gangReport g.tenant g.id rep }).dropGang g.id

/-- The add at its home: an atomic of the hart whose HEND ended the gang. -/
def State.addAt (s : State) (g : Gang) (k : Nat) : Option State :=
  let (up, s) := if s.dev.owned k then (true, s) else s.reaches k
  if s.dev.owned k then none
  else if !up || s.dev.bad k 8 then some (s.addFails g .mcheck)
  else
    let v := (s.dev.mem.getNat k 8 + g.inc.toNat) % 2 ^ 64
    some (((s.putMem ⟨0, g.endHart.toNat⟩ k (toBytes 8 v)).mapHarts (Hart.noteAll k 8)).dropGang g.id)

/-- COMPLETION_ADD (R311); none while it waits. What a wait has asked for stays asked for (R57). -/
def State.completionAdd (s : State) (g : Gang) : Option State :=
  if g.ending ≠ some true ∨ !s.endQuiet g.id ∨ !s.noFabric g.id then none
  else
    let s := { s with dev := s.dev.freeBanks g.id }
    if g.ctr = 0 then some (s.dropGang g.id)
    else match (translate g.addCtx g.ctr.toNat .amo 8).run s with
      | (.ok (.ok l), s1) => s1.addAt g l.key
      | (.ok (.error (.cause c)), s1) => some (s1.addFails g c)
      | (.ok (.error (.tier l)), s1) =>
        let s2 := { s1 with dev := s1.dev.askPromotion g.addCtx l g.ctr.toNat }
        let asked := if s2.dev.proms = s1.dev.proms then none else some s2
        match g.addClock.find? (·.1 == l.ptea) with
          | some (_, t0) =>
            if bits l.pte 62 1 = 0 ∧ t0 + tierLimit ≤ s2.time then some (s2.addFails g .tierwait) else asked
          | none => some { s2 with dev := { s2.dev with gangs := s2.dev.gangs.map fun x =>
              if x.id = g.id then { x with addClock := (l.ptea, s2.time) :: x.addClock } else x } }
      | (_, _) => none

/-- A gang that ended without an add is over once its stores and commands are done (R326, R136). -/
def State.endWithout (s : State) (g : Gang) : Option State :=
  if g.ending = some false ∧ s.endQuiet g.id = true ∧ s.noFabric g.id = true then some (s.dropGang g.id) else none

/-- Banks of an ended gang return before its add is made. -/
def State.returnBanks (s : State) (g : Gang) : Option State :=
  if g.ending.isSome && s.endQuiet g.id && s.dev.banks.any (·.gang == g.id) then
    some { s with dev := s.dev.freeBanks g.id } else none

/-! ### Core retirement (R338, R339) -/

/-- A core is retired: its harts stop where they stand, its commands are cancelled, a spare takes its place or it is
absent. -/
def State.retireCore (s : State) (die core : Nat) : State :=
  let on (h : Hart) : Bool := dieOf h.id.hartid == die && coreOf h.id.hartid == core && h.status != .vacant
  let gangs := ((s.harts.filter fun h => on h && h.holdsLanes).map (·.id.gang.toNat)).eraseDups
  let lose (p : DieParts) : DieParts :=
    if p.die ≠ die then p
    else if 0 < p.spares then { p with spares := p.spares - 1 }
    else { p with absent := core :: p.absent.filter (· != core) }
  let d : Device := { s.dev with parts := s.dev.parts.map lose }
  let d := gangs.foldl (fun d g => d.askStop g true) d
  let d := (d.cmds.filter fun c => c.die == die && c.core == core).foldl Device.cancelCmd d
  let s : State := { s with dev := d }
  let s := s.eachHart fun s => if on s.h then s.stopHart else s
  (s.dev.gangs.filter (·.saved)).foldl (fun s g => if s.gangLost g.id then s.coreLoss g else s) s

/-! ### The allocators by themselves -/

/-- A grant or a resumption on a die. -/
def State.grantStep (s : State) (die : Nat) : Option State :=
  (s.dev.cands die s.time).findSome? fun c =>
    if !s.mayGrant die c then none
    else if c.isGang then (s.dev.gangs.find? (·.id == c.key)).map s.resumeGang
    else
      let q := s.dev.queue c.key
      match q.checked with
      | none => none
      | some (w, hd) => (s.placeGangs (fun _ => false) die ⟨w⟩ (Rec.gangs ⟨w⟩) []).map
          (s.grantRecord q w hd die c.since)

/-- The first candidate has had effective priority 3 for 8 ms and cannot be granted (R306). -/
def State.reserve (s : State) (die : Nat) : State :=
  match s.dev.cands die s.time with
  | [] => s
  | c :: _ =>
    if c.since + (3 - c.prio) * (2 * ms) + 8 * ms ≤ s.time ∧ s.fits (fun _ => false) die c = false
        ∧ s.dev.reserved.any (fun x => x.1 == die) = false then
      { s with dev := { s.dev with reserved := (die, c.isGang, c.key) :: s.dev.reserved } }
    else s

/-- Reservations for what no longer waits go. -/
def Device.clearReserved (d : Device) : Device :=
  { d with reserved := d.reserved.filter fun x =>
      if x.2.1 then d.gangs.any fun g => g.id == x.2.2 && g.saved
      else (d.queue x.2.2).en && (d.queue x.2.2).checked.isSome }

/-- One thing that the allocators and the save engine do when nothing delays them. -/
def State.allocStep (s : State) : Option State :=
  match s.dev.gangs.findSome? s.returnBanks with
  | some s' => some s'
  | none => match s.dev.gangs.findSome? s.completionAdd with
    | some s' => some s'
    | none => match s.dev.gangs.findSome? s.endWithout with
      | some s' => some s'
      | none => match s.dev.gangs.findSome? s.trySave with
        | some s' => some s'
        | none => match s.dev.gangs.findSome? fun g => g.savedCmds.head?.bind fun c =>
            if g.saved || g.stopReq.isSome then none else s.reissue c with
          | some s' => some s'
          | none => match s.dev.queues.findSome? s.checkRecord with
            | some s' => some s'
            | none => if s.dev.queues = [] ∧ s.dev.gangs = [] then none else (List.range 8).findSome? s.grantStep

/-- Bound on what they do in one step of the machine. -/
def Device.allocWork (d : Device) : Nat :=
  8 * d.gangs.length + d.queues.foldl (fun n q => n + 2 * q.count) 0

/-- Everything that can go on does: heads noted, polls, grants, saves, resumptions, ends. -/
def State.runAlloc (s : State) : State :=
  let s := { s with dev := s.dev.noteHeads s.time }
  let s := s.dev.queues.foldl State.pollDep s
  let s := repeatStep State.allocStep s.dev.allocWork s
  let s := s.dev.queues.foldl State.checkAsks s
  if s.dev.queues = [] ∧ s.dev.gangs = [] then s
  else
    let s := (List.range 8).foldl State.reserve s
    let s := (List.range 8).foldl (fun s die => (s.victims die).foldl
      (fun s g => { s with dev := s.dev.askStop g.id false }) s) s
    { s with dev := s.dev.clearReserved }

/-! ### Meanings -/

/-- COMPLETION_ADD (R311) of an ended gang. -/
def execCompletionAdd (gang : Nat) (s : State) : Host.Outcome State Fault Refusal :=
  .next (((s.dev.gangs.find? (·.id == gang)).bind s.completionAdd).getD s)

/-- RECORD_CHECK (R303) of a queue's head record. -/
def execRecordCheck (q : Nat) (s : State) : Host.Outcome State Fault Refusal :=
  .next ((s.checkRecord (s.dev.queue q)).getD s)

/-- GRANT (R305): die `die` grants the head record of queue `q` on the lane groups given, or on the lowest ones when
none are given. -/
def execGrant (die q : Nat) (groups : List Nat) (s : State) : Host.Outcome State Fault Refusal :=
  .next (match (s.dev.queue q).cand, (s.dev.queue q).checked with
    | some c, some (w, hd) =>
      if !s.mayGrant die c then s
      else match (if groups = [] then s.placeGangs (fun _ => false) die ⟨w⟩ (Rec.gangs ⟨w⟩) [] else s.planned die ⟨w⟩ groups) with
        | some plan => s.grantRecord (s.dev.queue q) w hd die c.since plan
        | none => s
    | _, _ => s)

/-- DEP_POLL (R305). -/
def execDepPoll (q : Nat) (s : State) : Host.Outcome State Fault Refusal := .next (s.pollDep (s.dev.queue q))

/-- RESERVATION (R306) on a die. -/
def execReservation (die : Nat) (s : State) : Host.Outcome State Fault Refusal := .next (s.reserve die)

/-- The gang named by a removal. -/
def removed : Removal → Nat
  | .allocator g | .esmen g => g

/-- PREEMPTION (R310, R335): a gang that its allocator removes, or Esmen by a request of its own, is asked to stop; one
that has stopped is saved. -/
def execPreemption (r : Removal) (s : State) : Host.Outcome State Fault Refusal :=
  .next (match s.dev.gangs.find? (·.id == removed r) with
    | none => s
    | some g =>
      if g.stopReq.isSome then (s.trySave g).getD (s.cancelWaiting g.id)
      else if r = .esmen g.id ∨ (s.victims g.die).any (·.id == g.id) = true then { s with dev := s.dev.askStop g.id false }
      else s)

/-- GANG_RESUME (R337): a saved gang that its die's allocator may resume. -/
def execGangResume (gang : Nat) (s : State) : Host.Outcome State Fault Refusal :=
  .next (match s.dev.gangs.find? fun g => g.id == gang && g.saved with
    | none => s
    | some g => if s.mayGrant g.die g.cand then s.resumeGang g else s)

/-- CORE_RETIREMENT (R338). -/
def execCoreRetirement (die core : Nat) (s : State) : Host.Outcome State Fault Refusal := .next (s.retireCore die core)

end Sys2Proof.Machine
end

