-- ==== Sys2Proof/Machine/Debug.lean ====
section
/-! DEFINITION. The debug modules (R344-R354, R372): halting and resuming harts, abstract commands, write-watch and trace
settings, samples. Every one needs DBGOPEN. -/

namespace Sys2Proof.Machine

/-! ### Modules and harts -/

def Device.setDm (d : Device) (x : DebugModule) : Device :=
  if d.dms.any (·.die == x.die) then { d with dms := d.dms.map fun y => if y.die == x.die then x else y }
  else { d with dms := d.dms ++ [x] }

/-- The outcome of an abstract command: cmderr, and its data where it read some (R344, R346). -/
def State.dmResult (s : State) (die cmderr : Nat) (data : Option Word) : State :=
  let m := s.dev.dm die
  { s with dev := s.dev.setDm { m with cmderr := BitVec.ofNat 3 cmderr, data := data.getD m.data } }

/-- hartsel names the hart by HARTID[7:0] of the die; a lane group without a hart, or one whose gang is saved, answers
no command (R344). -/
def Hart.selected (die sel : Nat) (h : Hart) : Bool :=
  decide (sel < 256) && h.id.hartid.toNat == 256 * die + sel && h.holdsLanes

def State.selected (s : State) (die sel : Nat) : Option Hart := s.harts.find? (Hart.selected die sel)

/-- What a debugger does over JTAG before a request (R372): it activates the module, names the hart and clears what an
earlier command left in cmderr (notes/assumptions/54.md). -/
def State.jtag (s : State) (die sel : Nat) : State :=
  { s with dev := s.dev.setDm { s.dev.dm die with active := true, sel := sel, cmderr := 0 } }

/-- Machine-level CSRs of a standard RV64 hart, by number, and those of them that are read only. -/
def machineCsrs : List Nat :=
  [0x300, 0x301, 0x304, 0x305, 0x340, 0x341, 0x342, 0x343, 0x344, 0xB00, 0xB02, 0xF11, 0xF12, 0xF13, 0xF14, 0xF15]

def readOnlyCsr (n : Nat) : Bool := decide (0xC00 ≤ n)

/-- The Causeway core stops, with a DCSR cause: what its firmware has left in its registers is a free value each. -/
def Causeway.stop (cause n : Nat) (c : Causeway) : Causeway :=
  { c with
    halted := true
    x := Vector.ofFn fun k => if k.val = 0 then 0 else Config.causewayReg n k.val
    pc := Config.causewayReg n 32
    csrs := machineCsrs.map fun r => (r, Config.causewayReg n (0x1000 + r))
    dcsr := c.dcsr &&& 0xFFFFFE3F ||| BitVec.ofNat 32 (cause * 64) }

/-- The Causeway core halts on a request, with cause 3. -/
def State.haltCauseway (s : State) : State :=
  if s.dev.causeway.halted then s
  else { s with dev := { s.dev with causeway := s.dev.causeway.stop 3 s.tick }, tick := s.tick + 1 }

/-- The Causeway core resumes; with DCSR.step set it stops again after one instruction, with cause 4. -/
def State.resumeCauseway (s : State) : State :=
  if !s.dev.causeway.halted then s
  else if s.dev.causeway.dcsr.getLsbD 2 then
    { s with dev := { s.dev with causeway := s.dev.causeway.stop 4 s.tick }, tick := s.tick + 1 }
  else { s with dev := { s.dev with causeway := { s.dev.causeway with halted := false } } }

/-- A halt asked for through a module: the hart halts at its next point with CAUSE 3 (R348), the Causeway core, which
hartsel 0 of the I/O die's module names, at once. -/
def State.dmHalt (s : State) (die sel : Nat) : State :=
  if die = 8 then (if sel = 0 then s.haltCauseway else s)
  else s.mapHarts fun h => if h.selected die sel then h.askHalt 3 else h

/-- HALT_REQUEST (R348), over JTAG (R372). -/
def execHaltRequest (die sel : Nat) (s : State) : Host.Outcome State Fault Refusal :=
  .next (if s.dev.hosts.dbgopen then (s.jtag die sel).dmHalt die sel else s)

/-- Resumption of the hart at the front (R348): from DPC and DELEM, for one instruction when STEP is set. -/
def State.resumeHart (s : State) : State :=
  if !s.h.db.halted then s
  else
    let s1 := { s with h := { s.h with
      pc := s.h.db.dpc
      pcHi := 0
      vc := { s.h.vc with vstart := s.h.db.delem }
      db := { s.h.db with
        halted := false
        haltReq := none
        stepping := s.h.db.step } } }
    s1.traceRec 8 s.h.db.delem.toNat s.h.db.cause.toNat

/-- A resumption asked for through a module, which it acknowledges. -/
def State.dmResume (s : State) (die sel : Nat) : State :=
  let s := if die = 8 then (if sel = 0 then s.resumeCauseway else s)
    else match s.selected die sel with
      | some h => s.withHart h.ref State.resumeHart
      | none => s
  { s with dev := s.dev.setDm { s.dev.dm die with resumeAck := true } }

/-- RESUME_REQUEST (R348), over JTAG (R372). -/
def execResumeRequest (die sel : Nat) (s : State) : Host.Outcome State Fault Refusal :=
  .next (if s.dev.hosts.dbgopen then (s.jtag die sel).dmResume die sel else s)

/-! ### Access register (R345-R347) -/

/-- DCSR as it reads (R345). -/
def Hart.dcsr (h : Hart) : Nat :=
  h.db.ebrk.toNat * 2 ^ 15 + h.db.step.toNat * 2 ^ 14 + h.db.stepie.toNat * 2 ^ 13 + h.db.ghalt.toNat * 2 ^ 12 +
    h.ms.strip.isSome.toNat * 2 ^ 11 + h.db.cause.toNat * 2 ^ 4

/-- LCNT with ACTIVE (R346). -/
def LoopState.countWord (l : LoopState) : Nat :=
  l.active.toNat * 2 ^ 63 + (match l.count with | some c => c % 2 ^ 63 | none => Config.unboundedCount.toNat)

/-- A 64-bit word of a tile (R347). -/
def TileReg.word (t : TileReg) (w : Nat) : Nat := bits t.val.toNat (64 * w) 64

/-- MODE, BROKEN and N of a tile (R347). -/
def TileReg.modeWord (t : TileReg) : Nat := t.factor.toNat * 2 ^ 8 + t.broken.toNat * 2 ^ 7 + t.n.toNat

/-- DWIN as it reads; none where it fails with cmderr 3. -/
def Hart.dwin (h : Hart) : Option Nat :=
  let sel := h.db.didxSel.toNat
  let w := h.db.didxIdx.toNat
  if sel < 4 then
    if h.ownsTile (Fin.ofNat 4 sel) && decide (w < 2048) then some ((h.t.tile[Fin.ofNat 4 sel]).word w) else none
  else if sel < 6 then
    if h.ownsLatch (Fin.ofNat 2 sel) && decide (w < 2048) then some (bits (h.t.latch[Fin.ofNat 2 sel]).toNat (64 * w) 64)
    else none
  else if sel = 6 then
    if decide (w < 4) && h.ownsTile (Fin.ofNat 4 w) then some (h.t.tile[Fin.ofNat 4 w]).modeWord else none
  else if sel = 7 then
    if w < 256 then some (bits h.vc.ecm.toNat (64 * w) 64) else none
  else none

/-- A write of DWIN: the hart, or a cmderr. A word written to a tile in factor mode sets BROKEN. -/
def Hart.putDwin (h : Hart) (v : Word) : Except Nat Hart :=
  let sel := h.db.didxSel.toNat
  let w := h.db.didxIdx.toNat
  match h.dwin with
  | none => .error 3
  | some _ =>
    if sel < 4 then
      .ok (h.modTile (Fin.ofNat 4 sel) fun t =>
        { t with
          val := BitVec.ofNat 131072 (putBits t.val.toNat (64 * w) 64 v.toNat)
          broken := t.broken || t.factor
          err := t.err.filter fun e => e / 2 != w })
    else if sel < 6 then
      let l : Latch := Fin.ofNat 2 sel
      .ok { h with t := { h.t with
        latch := h.t.latch.set l (BitVec.ofNat 131072 (putBits h.t.latch[l].toNat (64 * w) 64 v.toNat))
        latchErr := h.t.latchErr.set l (uncovered h.t.latchErr[l] (64 * w) 64) } }
    else if sel = 6 then .error 2
    else .ok { h with vc := { h.vc with ecm := BitVec.ofNat 16384 (putBits h.vc.ecm.toNat (64 * w) 64 v.toNat) } }

/-- DIDX moves on by one with each access of DWIN. -/
def Hart.nextWord (h : Hart) : Hart := { h with db := { h.db with didxIdx := h.db.didxIdx + 1 } }

/-- A word of a vector register by its number (R346). -/
def vecOf (n : Nat) : Reg × Nat := (vreg ((n - 0xC000) / 256), n % 256)

/-- An abstract register as it reads: its value and the hart behind the read, or a cmderr (R346). -/
def State.readAbstract (s : State) (h : Hart) (n : Nat) : Except Nat (Word × Hart) :=
  let w (x : Nat) : Except Nat (Word × Hart) := .ok (BitVec.ofNat 64 x, h)
  if n < 0x300 then
    match s.sysReg h n with
    | some v => .ok (v, h)
    | none => .error 2
  else if 0x309 ≤ n ∧ n ≤ 0x30C then .ok (h.sy.cseq[Fin.ofNat 4 (n - 0x309)], h)
  else if 0x1000 ≤ n ∧ n < 0x1020 then .ok (h.getX (Fin.ofNat 32 (n - 0x1000)), h)
  else if 0xC000 ≤ n ∧ n < 0xE000 then
    let (r, k) := vecOf n
    if h.vlen / 64 ≤ k then .error 3 else w (bits (h.v[r]).val.toNat (64 * k) 64)
  else match n with
  | 0x300 => w h.dcsr
  | 0x301 => w h.db.dpc.toNat
  | 0x302 => w h.db.delem.toNat
  | 0x303 => .ok (h.hr.hscr, h)
  | 0x304 => .ok (h.hr.tdl, h)
  | 0x305 => w h.lp.start.toNat
  | 0x306 => w h.lp.fin.toNat
  | 0x307 => w h.lp.countWord
  | 0x308 => w (h.sy.evt.toNat * 2 ^ 63 + (if h.sy.mon = none then 0 else h.sy.monAddr.toNat / 128 * 128))
  | 0x30D => w h.handler.toNat
  | 0xE000 => w (h.db.didxSel.toNat * 2 ^ 56 + h.db.didxIdx.toNat)
  | 0xE001 => match h.dwin with
    | some x => .ok (BitVec.ofNat 64 x, h.nextWord)
    | none => .error 3
  | _ => .error 2

/-- Read-only task registers (R13), apart from VL and VTYPE, which the debug module may write. -/
def readOnlyReg (n : Nat) : Bool := n == 3 || (0x24 ≤ n && n ≤ 0x2E)

/-- VL and VTYPE as the debug module writes them (R346): VTYPE as VSETVL checks it. -/
def Hart.writeVl (h : Hart) (v : Word) : Hart := { h with vc := { h.vc with vl := min v.toNat h.vc.vlmaxr } }

def Hart.writeVtype (h : Hart) (v : Word) : Option Hart :=
  let t := v.toNat
  if t / 64 ≠ 0 ∨ 3 < t % 16 then none
  else
    let ew := BitVec.ofNat 2 t
    let grp := BitVec.ofNat 2 (t / 16)
    let m := h.vlmaxFor ew grp
    some { h with vc := { h.vc with ew := ew, grp := grp, vlmaxr := m, vl := min h.vc.vl m } }

/-- A word of a vector register written: what an open strip sees, the architectural slice kept behind it (R261). -/
def Hart.writeVecWord (h : Hart) (r : Reg) (k : Nat) (v : Word) : Hart :=
  let h := match h.ms.strip with
    | some st => if st.arch.any (·.1 == r.val) then h
      else { h with ms := { h.ms with strip := some { st with arch := st.arch ++ [(r.val, h.v[r])] } } }
    | none => h
  { h with v := h.v.set r ((h.v[r]).write h.id.lanes h.vlen (64 * k) 64 v.toNat) }

/-- An abstract register written: the hart, or a cmderr (R346). -/
def State.writeAbstract (s : State) (h : Hart) (n : Nat) (v : Word) : Except Nat Hart :=
  let even52 := BitVec.ofNat 52 (bits v.toNat 1 51 * 2)
  if n = 0 then .ok (h.writeVl v)
  else if n = 1 then (match h.writeVtype v with | some h => .ok h | none => .error 3)
  else if n < 0x300 then
    if (s.sysReg h n).isNone || readOnlyReg n then .error 2 else .ok (s.writeSysReg h n v)
  else if 0x309 ≤ n ∧ n ≤ 0x30C then
    .ok { h with sy := { h.sy with cseq := h.sy.cseq.set (Fin.ofNat 4 (n - 0x309)) v } }
  else if 0x1000 ≤ n ∧ n < 0x1020 then .ok (h.setX (Fin.ofNat 32 (n - 0x1000)) v)
  else if 0xC000 ≤ n ∧ n < 0xE000 then
    let (r, k) := vecOf n
    if h.vlen / 64 ≤ k then .error 3 else .ok (h.writeVecWord r k v)
  else match n with
  | 0x300 => .ok { h with db := { h.db with
      ebrk := v.getLsbD 15
      step := v.getLsbD 14
      stepie := v.getLsbD 13
      ghalt := v.getLsbD 12 } }
  | 0x301 => .ok { h with db := { h.db with dpc := even52 } }
  | 0x302 => .ok { h with
      db := { h.db with delem := v.setWidth 48 }
      vc := { h.vc with vstart := v.setWidth 48 } }
  | 0x303 => .ok { h with hr := { h.hr with hscr := v } }
  | 0x304 => .ok { h with hr := { h.hr with tdl := v } }
  | 0x305 => .ok { h with lp := { h.lp with start := even52, body := [] } }
  | 0x306 => .ok { h with lp := { h.lp with fin := even52, body := [] } }
  | 0x307 => .ok { h with lp := { h.lp with active := v.getLsbD 63, count := some (v.toNat % 2 ^ 63) } }
  | 0x308 =>
    let a := bits v.toNat 7 45 * 128
    let line : Option Nat := match s.probe h.ctx a .load with
      | .ok (l, _, _) => some (l.key / 128 * 128)
      | .error _ => none
    .ok { h with sy := { h.sy with evt := v.getLsbD 63, mon := line, monAddr := BitVec.ofNat 52 a } }
  | 0x30D => .ok { h with handler := v.getLsbD 0 }
  | 0xE000 => .ok { h with db := { h.db with didxSel := BitVec.ofNat 8 (bits v.toNat 56 8), didxIdx := v.setWidth 16 } }
  | 0xE001 => match h.putDwin v with
    | .ok h => .ok h.nextWord
    | .error e => .error e
  | _ => .error 2

/-- VSTART and DELEM of a halted hart are one position: a write of VSTART moves it. -/
def Hart.sameElem (h : Hart) : Hart := { h with db := { h.db with delem := h.vc.vstart } }

/-- An abstract register of the Causeway core, a standard RV64 hart (R344): its CSRs at their numbers, DCSR 0x7B0 and
DPC 0x7B1 among them, and its integer registers from 0x1000 on (notes/assumptions/55.md). -/
def Causeway.read (c : Causeway) (n : Nat) : Except Nat Word :=
  if 0x1000 ≤ n ∧ n < 0x1020 then .ok (c.x[Fin.ofNat 32 (n - 0x1000)])
  else if n = 0x7B0 then .ok (c.dcsr.setWidth 64)
  else if n = 0x7B1 then .ok c.pc
  else if machineCsrs.contains n then .ok ((c.csrs.lookup n).getD 0)
  else .error 2

/-- A register of the Causeway core written: x0 and the constant bits of DCSR keep their value; cmderr 3 for a read-only
CSR. -/
def Causeway.write (c : Causeway) (n : Nat) (v : Word) : Except Nat Causeway :=
  if n = 0x1000 then .ok c
  else if 0x1000 < n ∧ n < 0x1020 then .ok { c with x := c.x.set (Fin.ofNat 32 (n - 0x1000)) v }
  else if n = 0x7B0 then .ok { c with dcsr := c.dcsr &&& 0xFFFF41E8 ||| v.setWidth 32 &&& 0x0000BE17 }
  else if n = 0x7B1 then .ok { c with pc := v }
  else if !machineCsrs.contains n then .error 2
  else if readOnlyCsr n then .error 3
  else .ok { c with csrs := (n, v) :: c.csrs.filter (·.1 != n) }

/-- Access register at the Causeway core. -/
def State.causewayRegister (s : State) (regno : Nat) (wr : Bool) (v : Word) : State :=
  if !s.dev.causeway.halted then s.dmResult 8 4 none
  else if wr then match s.dev.causeway.write regno v with
    | .ok c => { s with dev := { s.dev with causeway := c } }.dmResult 8 0 none
    | .error e => s.dmResult 8 e none
  else match s.dev.causeway.read regno with
    | .ok x => s.dmResult 8 0 (some x)
    | .error e => s.dmResult 8 e none

/-- Access register (R346): cmderr 4 unless the hart is there and halted, 1 while an access is not done. -/
def State.accessRegister (s : State) (die sel regno : Nat) (wr : Bool) (v : Word) : State :=
  if (s.dev.dm die).pending.isSome then s.dmResult die 1 none
  else if die = 8 ∧ sel = 0 then s.causewayRegister regno wr v
  else match s.selected die sel with
    | none => s.dmResult die 4 none
    | some h =>
      if !h.db.halted then s.dmResult die 4 none
      else if wr then match s.writeAbstract h regno v with
        | .ok h' => (s.withHart h.ref fun s => { s with h := h'.sameElem }).dmResult die 0 none
        | .error e => s.dmResult die e none
      else match s.readAbstract h regno with
        | .ok (x, h') => (s.withHart h.ref fun s => { s with h := h' }).dmResult die 0 (some x)
        | .error e => s.dmResult die e none

/-- ACCESS_REGISTER (R346). -/
def execAccessRegister (die sel regno : Nat) (wr : Bool) (v : Word) (s : State) : Host.Outcome State Fault Refusal :=
  .next (if s.dev.hosts.dbgopen then (s.jtag die sel).accessRegister die sel regno wr v else s)

/-! ### Access memory (R347) -/

/-- An access of the halted hart at a physical address, checked against its tenant's extents. -/
def physAccess (pa n : Nat) (k : Kind) : M Loc := do
  let s ← get
  let key := s.dev.homeOf pa
  let l : Loc := { key := key, attr := if forcedNonidem key then 2 else 0 }
  if scalarRule n pa n l then trap .perm 0 (BitVec.ofNat 64 pa)
  if !s.dev.grants s.h.id.tenant pa k || !s.dev.grants s.h.id.tenant (pa + n - 1) k then
    trap .extent 0 (BitVec.ofNat 64 pa)
  return l

def physLoad (pa n : Nat) : M (List Byte) := do
  let l ← physAccess pa n .load
  bindPieces 0 (lineParts [(pa, l, n)])

def physStore (pa : Nat) (bs : List Byte) : M Unit := do
  let l ← physAccess pa bs.length .store
  modH fun h => { h with ms := { h.ms with storeQ := h.ms.storeQ ++ storeParts [(pa, l, bs.length)] bs none none } }

/-- The access, as a scalar one of the hart at the front; what it read. -/
def debugAccess (virt wr : Bool) (n : Nat) (addr v : Word) : M (Option Word) := do
  if wr then
    if virt then storeBytes 0 addr.toNat (toBytes n v.toNat) none none else physStore addr.toNat (toBytes n v.toNat)
    return none
  else
    let bs ← if virt then loadBytes 0 addr.toNat n false else physLoad addr.toNat n
    return some (BitVec.ofNat 64 (ofBytes bs))

/-- A debug access meets no trigger of the hart; a promotion wait that it counts is over when it is. -/
def Hart.keepWatch (old : Hart) (ended : Bool) (h : Hart) : Hart :=
  { h with
    ms := { h.ms with
      watchHit := old.ms.watchHit
      loadQ := if ended then old.ms.loadQ else h.ms.loadQ
      landed := if ended then old.ms.landed else h.ms.landed
      strip := match h.ms.strip, old.ms.strip with
        | some a, some b => some { a with watch := b.watch }
        | x, _ => x }
    sy := if ended then { h.sy with tierClock := old.sy.tierClock, tierAsk := old.sy.tierAsk } else h.sy }

/-- The access of a module is answered. -/
def State.dmAnswer (s : State) (die cmderr : Nat) (data : Option Word) : State :=
  let s := s.dmResult die cmderr data
  { s with dev := s.dev.setDm { s.dev.dm die with pending := none } }

/-- Access memory at the hart at the front: cmderr 3 for a fault. One that must wait, as R287 makes a scalar access
wait, answers nothing yet. -/
def State.accessMemory (die : Nat) (a : DmAccess) (s : State) : State :=
  match (debugAccess a.virt a.wr (2 ^ a.size) a.addr a.v).run s with
  | (.ok x, t) => ({ t with h := s.h.keepWatch true t.h }).dmAnswer die 0 x
  | (.error (.wait _ _), t) => { t with h := s.h.keepWatch false t.h }
  | (.error _, t) => ({ t with h := s.h.keepWatch true t.h }).dmAnswer die 3 none

/-! ### Write-watch and trace settings (R350, R352) -/

/-- A write-watch register written through the die's debug module. -/
def WriteWatch.writeWord (w : WriteWatch) (i : Nat) (v : Word) : WriteWatch :=
  match i with
  | 0 => { w with pa := v.setWidth 52 }
  | 1 => { w with
      en := v.getLsbD 63
      agents := BitVec.ofNat 8 (bits v.toNat 48 8)
      act := bits v.toNat 46 2 == 1
      gang := BitVec.ofNat 16 (bits v.toNat 16 16)
      len := v.setWidth 8 }
  | 2 => if v.getLsbD 63 then { w with hitV := false, hitKind := 0, hitSrc := 0, hitCount := 0 } else w
  | _ => w

def Device.setWatch (d : Device) (w : WriteWatch) : Device :=
  if d.writeWatch.any fun y => y.die == w.die && y.idx == w.idx then
    { d with writeWatch := d.writeWatch.map fun y => if y.die == w.die && y.idx == w.idx then w else y }
  else { d with writeWatch := d.writeWatch ++ [w] }

/-- The trace buffer lies in HBM outside every tenant's extents (R352). -/
def Device.traceOk (d : Device) (base size : Nat) : Bool :=
  base % 16 == 0 && decide (base + 16 * size ≤ 0x8000000000) &&
  !d.extents.any fun e => e.v && decide (e.src < 32) && decide (e.base * 0x10000 < base + 16 * size) &&
    decide (base < (e.last + 1) * 0x10000)

/-- A die's trace unit set anew; records dropped so far are reported by the next loss record. -/
def Device.setTrace (d : Device) (u : TraceUnit) : Device :=
  let lost := (d.trace.find? (·.die == u.die)).elim 0 (·.dropped)
  { d with trace := { u with dropped := lost } :: d.trace.filter (·.die != u.die) }

/-- Records taken out of a die's buffer: there is room again (R352). -/
def Device.takeTrace (d : Device) (die n : Nat) : Device :=
  { d with trace := d.trace.map fun u => if u.die == die then { u with used := u.used - n } else u }

/-- Settings through a debug module; none where DBGOPEN is 0 (R372). -/
def State.dmSet (s : State) (f : Device → Device) : State :=
  if s.dev.hosts.dbgopen then { s with dev := f s.dev } else s

/-- The write-watch entry and the trace settings that a debug module writes. -/
def State.writeWatchReg (s : State) (die n i : Nat) (v : Word) : State :=
  if n < 8 then s.dmSet fun d => d.setWatch ((d.watchEntry die n).writeWord i v) else s

def State.writeTrace (s : State) (die base size : Nat) (harts : List Nat) (sper : Nat) : State :=
  if s.dev.traceOk base size then
    s.dmSet (·.setTrace { die := die, base := base, size := size, harts := harts, sper := sper, sampled := s.cycle / 2 ^ sper })
  else s

/-! ### Samples and stalls (R352-R354) -/

/-- The stall kind of the hart's oldest incomplete instruction, 0 when it does not stall. -/
def Hart.stallKind (h : Hart) : Nat := match h.db.stall with | some (k, _, _) => k.code.toNat | none => 0

/-- TRACE_SAMPLE (R352): once in each sample period, a record for each traced hart. -/
def execTraceSample (die : Nat) (s : State) : Host.Outcome State Fault Refusal :=
  .next (match s.dev.trace.find? (·.die == die) with
    | none => s
    | some u =>
      if s.cycle / 2 ^ u.sper ≤ u.sampled ∨ u.size = 0 then s
      else
        let mark (x : TraceUnit) : TraceUnit := if x.die == die then { x with sampled := s.cycle / 2 ^ x.sper } else x
        let s1 : State := { s with dev := { s.dev with trace := s.dev.trace.map mark } }
        s1.eachHart fun s =>
          if dieOf s.h.id.hartid = die ∧ s.h.status = .running then s.traceRec 6 s.h.vc.vstart.toNat s.h.stallKind else s)

/-- STALL_CHARGE (R354): a stall that has lasted 1,024 cycles since it was last charged is charged. -/
def Hart.chargeNow (cycle : Nat) (h : Hart) : Hart :=
  match h.db.stall with
  | some (k, on, c) =>
    if 1024 ≤ cycle - c then { h with db := { h.db.charge h.pc k on (cycle - c) false with stall := some (k, on, cycle) } } else h
  | none => h

def execStallCharge (gang rank : Nat) (s : State) : Host.Outcome State Fault Refusal :=
  .next (s.atHart gang rank (Hart.chargeNow s.cycle))

end Sys2Proof.Machine
end

