-- ==== Sys2Proof/Machine/HostPorts.lean ====
section
/-! DEFINITION. What comes from outside (R356-R372): mailbox commands, the Aqtex domain, register writes, debug-module
windows, inbound accesses, resets. An event that its rule does not allow leaves the state as it is. -/

namespace Sys2Proof.Machine

/-! ### Mailbox commands (R368) -/

/-- Argument `i` of the command that runs, as it stood when the command began (notes/assumptions/61.md), or else the
register. -/
def Device.arg (d : Device) (i : Fin 4) : Nat :=
  match d.hosts.mbRun with
  | some m => (m.args[i]).toNat
  | none => (d.hosts.mbArg[i]).toNat

/-- Esmen answers the command that runs. -/
def State.mbAnswer (s : State) (status : Nat) : State :=
  { s with dev := { s.dev with hosts := { s.dev.hosts with
    mbRun := none
    mbDone := true
    mbStatus := BitVec.ofNat 8 status } } }

/-- The effect of the command that runs has been made; what remains is the synchronisation. -/
def State.mbMade (s : State) : State :=
  { s with dev := { s.dev with hosts := { s.dev.hosts with
    mbRun := s.dev.hosts.mbRun.map fun m => { m with made := true, since := s.cycle } } } }

/-- Every access of tenant `t` that was translated by cycle `since`, against the extents as they stood then, has been
performed, and every such copy command has completed (R58, R62). -/
def State.settled (s : State) (t since : Nat) : Bool :=
  s.harts.all (fun h => h.id.tenant != t || h.pendingParts.all fun p => decide (since < p.map.cycle)) &&
  s.dev.cmds.all fun c => c.tenant != t || (c.lines == [] && c.map == []) || c.map.all fun m => decide (since < m.cycle)

/-- An extent-table entry written (R58, R362). -/
def Device.setExtent (d : Device) (e : Extent) : Device :=
  { d with extents := d.extents.filter (fun x => !(x.src == e.src && x.idx == e.idx)) ++ [e] }

/-- The extent entry that two words hold (R58). -/
def extentOf (src idx lo hi : Nat) : Extent :=
  { src := src
    idx := idx
    base := bits lo 16 36
    last := bits hi 16 36
    w := bits lo 2 1 == 1
    y := bits lo 1 1 == 1
    v := bits lo 0 1 == 1 }

/-- A tenant's new extents cover a frame, with the right to write. -/
def coversW (t : NewTenant) (f : Nat) : Bool := t.extents.any fun e => decide (e.2.1 ≤ f) && decide (f ≤ e.2.2.1)

/-- With the right to read too. -/
def coversR (t : NewTenant) (f : Nat) : Bool :=
  t.extents.any fun e => decide (e.2.1 ≤ f) && decide (f ≤ e.2.2.1) && e.2.2.2

/-- Frame of an address. -/
def frameOf (pa : Nat) : Nat := pa / 0x10000

/-- What Esmen chooses for a tenant is free to be given, and its extents cover it (R88, R91, R359, R402). -/
def Device.mayGive (d : Device) (t : Nat) (x : NewTenant) : Bool :=
  let others := d.tenants.filter fun y => y.live && y.num != t
  x.groups.all (fun g => decide (g < 4096) && !others.any (·.crGroups.contains g)) && x.groups.eraseDups == x.groups &&
  x.hbm.all (fun f => regionOf (f * frameSize) == .hbm && !d.retiredFrames.contains f && !d.inCrArea f && coversR x f &&
    !others.any (·.hbmFrames.contains f)) &&
  x.cxl.all (fun f => regionOf (f * frameSize) == .cxl && coversR x f && !others.any (·.cxlFrames.contains f)) &&
  x.flash.all (fun f => !others.any (·.flashFree.contains f)) &&
  x.groups.all (fun g => coversR x (frameOf d.crpa + g)) &&
  coversW x (frameOf (drBase + 0x1000000)) && coversW x (frameOf (drBase + 0x10000000 + 0x10000 * t)) &&
  x.extents.all fun e => decide (e.1 < 64)

/-- TCREATE's bad arguments. -/
def Device.badTenant (d : Device) : Bool :=
  let t := d.arg 0
  decide (31 < t) || (d.tenant t).live || d.arg 1 % 128 != 0 || decide (2 ^ 32 ≤ d.arg 2) ||
  decide (4 < bits (d.arg 3) 16 4) || bits (d.arg 3) 20 44 != 0 || decide (4096 < bits (d.arg 3) 0 16)

/-- The tenant as registered. -/
def Device.newTenant (d : Device) (x : NewTenant) : Tenant :=
  { d.tenant (d.arg 0) with
    live := true
    root := x.root
    asid := x.asid
    cap := BitVec.ofNat 4 (bits (d.arg 3) 16 4)
    poolBase := d.arg 1
    poolSize := d.arg 2
    freeIds := List.range (d.arg 2)
    crGroups := x.groups
    hbmFrames := x.hbm
    cxlFrames := x.cxl
    flashFree := x.flash }

/-- TCREATE registers the tenant that its arguments name, as Esmen has chosen for it (R368). -/
def Device.register (d : Device) (x : NewTenant) : Device :=
  let t := d.arg 0
  let ext (e : Nat × Nat × Nat × Bool) : Extent :=
    { src := t
      idx := e.1
      base := e.2.1
      last := e.2.2.1
      w := true
      y := e.2.2.2
      v := true }
  x.extents.foldl (fun d e => d.setExtent (ext e)) (d.setTenant (d.newTenant x))

/-- CR slot groups that no other tenant holds (R88). -/
def Device.freeGroups (d : Device) (t : Nat) : Nat :=
  4096 - ((d.tenants.filter fun y => y.live && y.num != t).map (·.crGroups.length)).sum

/-- Esmen's choice for the TCREATE that runs; it waits for the synchronisation of every reset. -/
def State.giveTenant (s : State) (x : NewTenant) : State :=
  match s.dev.hosts.mbRun with
  | some m =>
    if m.code = 1 ∧ s.dev.resets = [] ∧ s.dev.mayGive (s.dev.arg 0) x = true ∧
        x.groups.length = bits (s.dev.arg 3) 0 16 ∧ s.dev.causeway.halted = false then
      { s with dev := s.dev.register x }.mbAnswer 0
    else s
  | none => s

/-- A function-level reset of tenant `t`'s function (R367), up to the synchronisation. -/
def State.resetTenant (s : State) (t : Nat) : State :=
  let s := (s.dev.gangs.filter (·.tenant == t)).foldl (fun s g => s.stopGang g.id) s
  let s := (s.dev.crs.filter fun c => s.dev.slotTenant c.slot == some t).foldl
    (fun s c => s.putCr { slot := c.slot, tenant := t }) s
  let d := s.dev
  let back := (d.stashes.filter (·.tenant == t)).flatMap (·.ids)
  let empty (x : Stash) : Stash := if x.tenant = t then { x with ids := [], asked := 0, dry := false } else x
  let d : Device := { d.modTenant t fun x => { x with freeIds := x.freeIds ++ back } with
    queues := d.queues.map fun q => if q.tenant = t then { q with en := false } else q
    stashes := d.stashes.map empty
    extents := d.extents.filter (·.src != t)
    tlb := d.tlb.filter (·.tenant != t)
    proms := d.proms.filter (·.tenant != t)
    resets := (t, s.cycle) :: d.resets.filter (·.1 != t) }
  { s with dev := d }

/-- Resets whose synchronisation is done (R62, R367). -/
def State.endResets (s : State) : State :=
  { s with dev := { s.dev with resets := s.dev.resets.filter fun x => !s.settled x.1 x.2 } }

/-- The registration of a destroyed tenant is gone. -/
def Device.unregister (d : Device) (t : Nat) : Device :=
  d.modTenant t fun x => { x with live := false, crGroups := [], freeIds := [], hbmFrames := [], cxlFrames := [], flashFree := [] }

/-- TDESTROY (R368): as a function-level reset (R367); it is done with the reset. -/
def State.mbDestroy (s : State) : State :=
  let t := s.dev.arg 0
  if (s.dev.hosts.mbRun.any (·.made)) then
    if s.dev.resets.any (·.1 == t) then s else { s with dev := s.dev.unregister t }.mbAnswer 0
  else if 31 < t ∨ (s.dev.tenant t).live = false then s.mbAnswer 1
  else (s.resetTenant t).mbMade

/-- A source that has an extent table (R362, R368). -/
def hasTable (src : Nat) : Bool := decide (src < 0x20) || (0x100 ≤ src && src ≤ 0x1FF) || (0x200 ≤ src && src ≤ 0x203)

/-- EXTSET (R368): the entry is written, and the command is done once no access checked against the old table is still
to be performed (R58). -/
def State.mbExtset (s : State) (m : MbRun) : State :=
  let src := bits (s.dev.arg 0) 0 16
  if !hasTable src then s.mbAnswer 1
  else if m.made then (if s.settled src m.since then s.mbAnswer 0 else s)
  else { s with dev := s.dev.setExtent (extentOf src (bits (s.dev.arg 0) 16 6) (s.dev.arg 1) (s.dev.arg 2)) }.mbMade

/-- STAGE (R369, R370): both signatures, then the SVN. -/
def State.mbStage (s : State) : State :=
  let n := s.tick
  let s1 : State := { s with tick := n + 1 }
  if !Config.signatureOk n then s1.mbAnswer 2
  else if (Config.imageSvn n).toNat < s.dev.hosts.minsvn.toNat then s1.mbAnswer 3
  else { s1 with dev := { s1.dev with hosts := { s1.dev.hosts with staged := some (Config.imageSvn n, false) } } }.mbAnswer 0

/-- ACTIVATE (R368). -/
def State.mbActivate (s : State) : State :=
  match s.dev.hosts.staged with
  | some (v, _) => { s with dev := { s.dev with hosts := { s.dev.hosts with staged := some (v, true) } } }.mbAnswer 0
  | none => s.mbAnswer 1

/-- SVNADV (R370). -/
def State.mbSvnadv (s : State) : State :=
  let v := BitVec.ofNat 64 (s.dev.arg 0)
  if s.dev.hosts.svn.toNat < v.toNat then s.mbAnswer 3
  else { s with dev := { s.dev with hosts := { s.dev.hosts with
    minsvn := if s.dev.hosts.minsvn.toNat < v.toNat then v else s.dev.hosts.minsvn } } }.mbAnswer 0

/-- PREEMPT (R310, R368): a resident gang of the die is asked to stop for a save. -/
def State.mbPreempt (s : State) : State :=
  let g := s.dev.arg 1
  if s.dev.gangs.any fun x => x.id == g && x.die == s.dev.arg 0 && !x.saved && x.ending.isNone then
    { s with dev := s.dev.askStop g false }.mbAnswer 0
  else s.mbAnswer 1

/-- What the command that runs comes to now. A TCREATE with good arguments waits for Esmen's choice; one for more CR
slot groups than are free answers status 4, and a number that names no command status 1 (notes/assumptions/61.md). -/
def State.mbStep (s : State) : State :=
  match s.dev.hosts.mbRun with
  | none => s
  | some m =>
    if m.code = 1 then
      (if s.dev.badTenant then s.mbAnswer 1
      else if s.dev.freeGroups (s.dev.arg 0) < bits (s.dev.arg 3) 0 16 then s.mbAnswer 4 else s)
    else if m.code = 2 then s.mbDestroy
    else if m.code = 3 then s.mbExtset m
    else if m.code = 4 then
      let r := s.attest none m.args[0] m.args[1]
      r.2.mbAnswer r.1
    else if m.code = 5 then s.mbStage
    else if m.code = 6 then s.mbActivate
    else if m.code = 7 then s.mbSvnadv
    else if m.code = 8 then s.mbPreempt
    else s.mbAnswer 1

/-- Resets and the command that runs go on, which are Esmen's work: nothing while the Causeway core is halted. -/
def State.runMailbox (s : State) : State :=
  if s.dev.causeway.halted then s else s.endResets.mbStep.endResets.mbStep

/-- A write to MBCMD (R358, R359): only the HSEM holder's is accepted, none before READY (R366), none while a command
runs. DONE clears when a command starts (notes/assumptions/61.md). -/
def State.writeMbcmd (s : State) (src : Source) (code : Nat) : State :=
  if !s.dev.hosts.holder (regSrc src) then { s with dev := s.dev.deny }
  else if !s.dev.hosts.ready || s.dev.hosts.mbRun.isSome then s
  else
    let run : MbRun := { code := code, args := s.dev.hosts.mbArg }
    State.runMailbox (State.eachHart State.drainQueues
      { s with dev := { s.dev with hosts := { s.dev.hosts with mbRun := some run, mbDone := false } } })

/-! ### The Aqtex domain (R363) -/

/-- Every fabric queue arrives or fails, then every peer goes (R363). -/
def State.leaveDomain (s : State) : State :=
  let arrive (s : State) : State := s.h.ms.fabricQ.foldl (fun s p => (s.arriveOne p.1).getD s) s
  let fail (s : State) : State :=
    { s with h := s.h.ms.fabricQ.foldl (fun h p => h.fabricFails p.2.va) { s.h with ms := { s.h.ms with fabricQ := [] } } }
  let s := s.eachHart fun s => fail (arrive s)
  { s with dev := { s.dev with hosts := { s.dev.hosts with domEn := false, peers := 0 } } }

/-- A write to DOMCFG (R358, R363). -/
def State.writeDomcfg (s : State) (src : Source) (v : Word) : State :=
  if !s.dev.hosts.holder (regSrc src) then { s with dev := s.dev.deny }
  else
    let s := if v.getLsbD 8 then s else s.leaveDomain
    { s with dev := { s.dev with hosts := { s.dev.hosts with domEn := v.getLsbD 8, domId := v.setWidth 8 } } }

/-- PEER_CHECK (R363): a reachable device becomes valid when both signatures of its certificate and
report verify and its ID is unique: no other reachable device's and not this device's. -/
def execPeerCheck (p : PeerFound) (s : State) : Host.Outcome State Fault Refusal :=
  let r := s.dev.hosts
  let bit := BitVec.ofNat 256 (2 ^ p.dev)
  .next (
    if !r.domEn ∨ 255 < p.dev then s
    else
      let s1 : State := { s with tick := s.tick + 1 }
      if !p.unique ∨ p.dev = r.domId.toNat then
        { s1 with dev := { s1.dev with hosts := { r with peers := r.peers &&& ~~~bit } } }
      else if Config.signatureOk s.tick then
        { s1 with dev := { s1.dev with hosts := { r with peers := r.peers ||| bit } } }
      else s1)

/-! ### Debug-module windows (R344, R359, R372; notes/assumptions/54.md) -/

/-- dmcontrol: the hart named, its havereset acknowledged, a halt or a resumption of it, and the module reset while
dmactive is 0. -/
def State.dmControl (s : State) (die v : Nat) : State :=
  let m := s.dev.dm die
  if bits v 0 1 = 0 then { s with dev := s.dev.setDm { die := die, acked := m.acked } }
  else
    let sel := bits v 16 10 + bits v 6 10 * 2 ^ 10
    let s := { s with dev := s.dev.setDm { m with
      sel := sel
      active := true
      resumeAck := m.resumeAck && bits v 30 1 == 0
      acked := if bits v 28 1 = 1 then sel :: m.acked else m.acked } }
    if bits v 31 1 = 1 then s.dmHalt die sel
    else if bits v 30 1 = 1 then s.dmResume die sel else s

/-- command: access register with a size of 64 bits, and access memory, which is tried from the next step on, without
auto-increment and program buffer; any other gives cmderr 2. None while an error stands; cmderr 1 while an access is not
done. -/
def State.dmCommand (s : State) (die v : Nat) : State :=
  let m := s.dev.dm die
  let wr := bits v 16 1 == 1
  if m.cmderr ≠ 0 then s
  else if m.pending.isSome then s.dmResult die 1 none
  else if bits v 24 8 = 0 ∧ bits v 20 3 = 3 ∧ bits v 18 2 = 0 then
    (if bits v 17 1 = 1 then s.accessRegister die m.sel (bits v 0 16) wr m.data else s)
  else if bits v 24 8 = 2 ∧ bits v 19 1 = 0 then
    let a : DmAccess :=
      { sel := m.sel, virt := bits v 23 1 == 1, wr := wr, size := bits v 20 3, addr := m.arg, v := m.data }
    { s with dev := s.dev.setDm { m with pending := some a } }
  else s.dmResult die 2 none

/-- A register of the module's DMI written; while an access is not done, cmderr 1. -/
def State.dmWrite (s : State) (die r : Nat) (v : Word) : State :=
  let m := s.dev.dm die
  let x := bits v.toNat 0 32
  let put (f : DebugModule → DebugModule) : State := { s with dev := s.dev.setDm (f m) }
  let part (w : Word) (lo : Nat) : Word := BitVec.ofNat 64 (putBits w.toNat lo 32 x)
  if r = 0x10 then s.dmControl die x
  else if !m.active then s
  else if m.pending.isSome ∧ r ≠ 0x17 then (if m.cmderr = 0 then s.dmResult die 1 none else s)
  else match r with
  | 0x04 => put fun m => { m with data := part m.data 0 }
  | 0x05 => put fun m => { m with data := part m.data 32 }
  | 0x06 => put fun m => { m with arg := part m.arg 0 }
  | 0x07 => put fun m => { m with arg := part m.arg 32 }
  | 0x16 => put fun m => { m with cmderr := m.cmderr &&& ~~~BitVec.ofNat 3 (bits x 8 3) }
  | 0x17 => s.dmCommand die x
  | _ => s

/-- Trace setting `i` of a die written through its module's window. -/
def State.traceWrite (s : State) (die i : Nat) (v : Word) : State :=
  let u := (s.dev.trace.find? (·.die == die)).getD { die := die }
  let set (u : TraceUnit) : State :=
    if s.dev.traceOk u.base u.size then { s with dev := s.dev.setTrace { u with sampled := s.cycle / 2 ^ u.sper } } else s
  match i with
  | 0 => set { u with base := v.toNat, wptr := 0, used := 0 }
  | 1 => set { u with size := v.toNat, wptr := 0, used := 0 }
  | 2 => set { u with sper := v.toNat }
  | 3 => { s with dev := s.dev.takeTrace die v.toNat }
  | _ =>
    if i < 8 then
      set { u with harts := (u.harts.filter fun h => h / 64 != i - 4) ++
        ((List.range 64).filter fun b => v.toNat.testBit b).map (64 * (i - 4) + ·) }
    else s

/-- A write to a debug-module window: the HSEM holder's (R358), and only while DBGOPEN is 1 (R372). -/
def State.writeWindow (s : State) (src : Source) (off : Nat) (v : Word) : State :=
  let die := (off - 0x20000000) / 0x10000
  let o := off % 0x10000
  if !s.dev.hosts.holder (regSrc src) then { s with dev := s.dev.deny }
  else if !s.dev.hosts.dbgopen then s
  else if o < 0x400 then s.dmWrite die (o / 8) v
  else if die < 8 ∧ 0x8000 ≤ o ∧ o < 0x8100 then s.writeWatchReg die ((o - 0x8000) / 32) (o / 8 % 4) v
  else if die < 8 ∧ 0x9000 ≤ o ∧ o < 0x9040 then s.traceWrite die ((o - 0x9000) / 8) v
  else s

/-! ### Registers (R357-R360) -/

/-- A register written by a source outside the device, or by Esmen; after a failed boot only the control page responds
(R366). -/
def State.busWrite (s : State) (src : Source) (off : Nat) (v : Word) : State :=
  if s.dev.hosts.fail = true ∧ 0x1000 ≤ off then s
  else if off = 0x20 then (s.writeMbcmd src v.toNat).touch (drBase + off)
  else if off = 0x50 then (s.writeDomcfg src v).touch (drBase + off)
  else if 0x20000000 ≤ off ∧ off < 0x20090000 then (s.writeWindow src off v).touch (drBase + off)
  else s.writeReg (regSrc src) off v

/-- A write of a physical function. -/
def State.pfWrite (s : State) (port off : Nat) (v : Word) : State := if 1 < port then s else s.busWrite (.pf port) off v

/-- HSEM_WRITE (R357). -/
def execHsemWrite (port : Nat) (v : Word) (s : State) : Host.Outcome State Fault Refusal := .next (s.pfWrite port 0 v)

/-- HSEM is released when `port` holds it (R357). -/
def HostRegs.releaseSem (r : HostRegs) (port : Nat) : HostRegs :=
  if r.semHeld ∧ r.semOwner = (port == 1) then { r with semHeld := false } else r

def State.releaseSem (s : State) (port : Nat) : State :=
  { s with dev := { s.dev with hosts := s.dev.hosts.releaseSem port } }

/-- HOST_LINK_DOWN (R357). -/
def execHostLinkDown (port : Nat) (s : State) : Host.Outcome State Fault Refusal := .next (s.releaseSem port)

/-- A write of a queue's registers by a physical function or by Esmen (R299). -/
def State.queueWrite (s : State) (src : Source) (off : Nat) (v : Word) : State :=
  match src with
  | .pf p => s.pfWrite p off v
  | .esmen => s.busWrite .esmen off v
  | _ => s

/-- QCFG_WRITE (R300, R358): the low or the high word of queue `q`. -/
def execQcfgWrite (src : Source) (q : Nat) (hi : Bool) (v : Word) (s : State) : Host.Outcome State Fault Refusal :=
  .next (if q < 256 then s.queueWrite src (0x100000 + 32 * q + 8 * hi.toNat) v else s)

/-- QSTATE_WRITE (R301, R358). -/
def execQstateWrite (src : Source) (q : Nat) (hi : Bool) (v : Word) (s : State) : Host.Outcome State Fault Refusal :=
  .next (if q < 256 then s.queueWrite src (0x100000 + 32 * q + 16 + 8 * hi.toNat) v else s)

/-- A write through BAR0 of a tenant's function (R359, R360). -/
def State.vfWrite (s : State) (t off : Nat) (v : Word) : State :=
  if 31 < t then s else s.busWrite (.vf t) (0x10000000 + 0x10000 * t + off) v

/-- QTAIL_WRITE (R360). -/
def execQtailWrite (tenant q : Nat) (v : Word) (s : State) : Host.Outcome State Fault Refusal :=
  .next (if q < 256 then s.vfWrite tenant (0x1000 + 8 * q) v else s)

/-- RHEAD_WRITE (R360). -/
def execRheadWrite (tenant : Nat) (v : Word) (s : State) : Host.Outcome State Fault Refusal :=
  .next (s.vfWrite tenant 0x20 v)

/-- DOMCFG_WRITE (R363). -/
def execDomcfgWrite (port : Nat) (v : Word) (s : State) : Host.Outcome State Fault Refusal := .next (s.pfWrite port 0x50 v)

/-- REGISTER_WRITE (R91, R350, R352, R358, R359). -/
def execRegisterWrite (r : RegWrite) (v : Word) (s : State) : Host.Outcome State Fault Refusal :=
  .next (match r with
    | .host (.pf port) off => s.pfWrite port off v
    | .host (.vf t) off =>
      if 0x10000000 + 0x10000 * t ≤ off ∧ off < 0x10000000 + 0x10000 * (t + 1) then s.vfWrite t (off % 0x10000) v else s
    | .host .esmen off => s.busWrite .esmen off v
    | .host _ _ => s
    | .watch die n i => s.writeWatchReg die n i v
    | .trace die base size harts => s.writeTrace die base size harts v.toNat
    | .taken die => s.dmSet (·.takeTrace die v.toNat))

/-! ### Inbound accesses (R362) -/

/-- The extent table of a source; a physical function and Esmen have none. -/
def sourceTable : Source → Option Nat
  | .vf t => some t
  | .domain d => some (0x100 + d)
  | .cxl p => some (0x200 + p)
  | _ => none

/-- Who writes, for the write-watch filter (R350). -/
def sourceAgent : Source → Agent
  | .pf p => ⟨4, 32 * p⟩
  | .vf t => ⟨4, 32 * (t / 16) + t % 16 + 1⟩
  | .domain d => ⟨3, d⟩
  | .cxl p => ⟨5, p⟩
  | .esmen => esmenAgent

/-- A source may access `n` bytes from `pa` on: Esmen always, a physical function in the register window only, a
virtual function in its own tenant page, otherwise as the source's table says. -/
def Device.admits (d : Device) (src : Source) (pa n : Nat) (w : Bool) : Bool :=
  let own := match src, regionOf pa with
    | .esmen, r => r != .hole
    | .pf _, .regs _ => true
    | .vf t, .regs off => decide (0x10000000 + 0x10000 * t ≤ off) && decide (off < 0x10000000 + 0x10000 * (t + 1))
    | _, _ => false
  own || (match sourceTable src with
    | some t => (frames pa (n + 1) n).all fun f => d.grants t f.1 (if w then .store else .load)
    | none => false)

/-- Pieces of an inbound access within lines, at their homes, on this device or on another that the domain leads to;
none where a byte has no home in memory. -/
def Device.homePieces (d : Device) (pa n : Nat) : Option (List (Nat × Nat)) :=
  let l := (frames pa (n + 1) n).flatMap fun f => linePieces (d.homeOf f.1) (f.2 + 1) f.2
  if l.all fun p => (match regionOf p.1 with | .hbm | .cxl | .domain _ => true | _ => false) then some l else none

/-- The access of pieces reaches their homes (R48, R342). -/
def State.reachPieces (s : State) : List (Nat × Nat) → Bool × State
  | [] => (true, s)
  | p :: r => match s.reaches p.1 with
    | (true, s') => s'.reachPieces r
    | (false, s') => (false, s')

/-- Bytes put at pieces, in address order, one step per line part (R266). -/
def State.putPieces (a : Agent) : List (Nat × Nat) → List Byte → State → State
  | [], _, s => s
  | (k, n) :: r, bs, s => State.putPieces a r (bs.drop n) (s.putMem a k (bs.take n))

/-- A read answered to its source. -/
def State.answer (s : State) (src : Source) (bs : List Byte) : State :=
  { s with dev := { s.dev with reply := some (src, bs) } }

/-- What a refused or unsupported access comes to: a read completes with ones, a write is dropped. -/
def State.refuse (s : State) (src : Source) (n : Nat) (w : Bool) : State :=
  if w then s else s.answer src (List.replicate n 0xFF)

/-- An access of the register window: aligned doublewords only (R359). -/
def State.inboundReg (s : State) (src : Source) (off n : Nat) (bs : List Byte) : State :=
  let w := bs != []
  if n ≠ 8 ∨ off % 8 ≠ 0 ∨ (s.dev.hosts.fail = true ∧ 0x1000 ≤ off) then s.refuse src n w
  else if w then s.busWrite src off (BitVec.ofNat 64 (ofBytes bs))
  else s.answer src (toBytes 8 (s.readReg off))

/-- An inbound access (R362): a write of `bs`, or a read of `n` bytes when `bs` is empty; none while it meets a line
that a copy engine owns, for which it waits (R131, R277). One that reaches no home, or reads bytes in error, ends as one
that is refused. -/
def State.inbound (s : State) (src : Source) (pa n : Nat) (bs : List Byte) : Option State :=
  let w := bs != []
  let n := if w then bs.length else n
  if !s.dev.admits src pa n w then some (s.refuse src n w)
  else match regionOf pa with
    | .regs off => some (s.inboundReg src off n bs)
    | .wake c =>
      if n ≠ 8 ∨ pa % 8 ≠ 0 then some (s.refuse src n w)
      else if w then some (s.wakeWrite c (BitVec.ofNat 64 (ofBytes bs))) else some (s.answer src (List.replicate 8 0))
    | _ => match s.dev.homePieces pa n with
      | none => some (s.refuse src n w)
      | some ps =>
        if ps.any fun p => s.dev.owned p.1 then none
        else match s.reachPieces ps with
          | (false, t) => some (t.refuse src n w)
          | (true, t) =>
            if w then some (State.putPieces (sourceAgent src) ps bs t)
            else if ps.any fun p => t.dev.bad p.1 p.2 then some (t.refuse src n false)
            else some (t.answer src (ps.flatMap fun p => t.readHome p.1 p.2))

/-- INBOUND_ACCESS (R362). One that waits is tried again. -/
def execInboundAccess (src : Source) (pa n : Nat) (bs : List Byte) (s : State) : Host.Outcome State Fault Refusal :=
  .next ((s.inbound src pa n bs).getD { s with retry := true })

/-- DOORBELL_WRITE (R333, R362): a write of the doorbell register of the hart with HARTID `hart`, which rings it where
its source may write it. -/
def execDoorbellWrite (src : Source) (hart : Nat) (s : State) : Host.Outcome State Fault Refusal :=
  .next (if 2047 < hart then s
    else (s.inbound src (drBase + 0x1000000 + 8 * hart) 8 (List.replicate 8 0)).getD s)

/-- Access memory at the Causeway core, which reaches what Esmen reaches (R344; notes/assumptions/55.md). -/
def State.causewayMemory (s : State) (a : DmAccess) : State :=
  let pa := a.addr.toNat
  let n := 2 ^ a.size
  let answered (t : State) : State :=
    let x : Option Word := if a.wr then none else t.dev.reply.map fun r => BitVec.ofNat 64 (ofBytes r.2)
    { t with dev := { t.dev with reply := s.dev.reply } }.dmAnswer 8 0 x
  if !s.dev.causeway.halted then s.dmAnswer 8 4 none
  else if !s.dev.admits .esmen pa n a.wr then s.dmAnswer 8 3 none
  else ((s.inbound .esmen pa n (if a.wr then toBytes n a.v.toNat else [])).map answered).getD s

/-- The access that a module holds is tried: cmderr 4 unless the hart is there and halted (R347). -/
def State.tryAccess (s : State) (die : Nat) : State :=
  match (s.dev.dm die).pending with
  | none => s
  | some a =>
    if 3 < a.size then s.dmAnswer die 2 none
    else if die = 8 ∧ a.sel = 0 then s.causewayMemory a
    else match s.selected die a.sel with
    | none => s.dmAnswer die 4 none
    | some h => if h.db.halted then s.withHart h.ref (State.accessMemory die a) else s.dmAnswer die 4 none

/-- Every access that waits at a module is tried again. -/
def State.runAccesses (s : State) : State := s.dev.dms.foldl (fun s m => s.tryAccess m.die) s

/-- ACCESS_MEMORY (R347), over JTAG (R372): 1, 2, 4 or 8 bytes. -/
def execAccessMemory (die sel : Nat) (virt wr : Bool) (size : Nat) (addr v : Word) (s : State) :
    Host.Outcome State Fault Refusal :=
  let a : DmAccess := { sel := sel, virt := virt, wr := wr, size := size, addr := addr, v := v }
  .next (
    if !s.dev.hosts.dbgopen then s
    else
      let s := s.jtag die sel
      if (s.dev.dm die).pending.isSome then s.dmResult die 1 none
      else { s with dev := s.dev.setDm { s.dev.dm die with pending := some a } }.tryAccess die)

/-! ### Commands as events -/

/-- TCREATE (R368): the write of MBCMD, where no TCREATE runs yet, and Esmen's choice. -/
def execTcreate (port : Nat) (t : NewTenant) (s : State) : Host.Outcome State Fault Refusal :=
  .next ((if s.dev.hosts.mbRun.any (·.code == 1) then s else s.pfWrite port 0x20 1).giveTenant t)

/-- TDESTROY (R368). -/
def execTdestroy (port : Nat) (s : State) : Host.Outcome State Fault Refusal := .next (s.pfWrite port 0x20 2)

/-- EXTSET (R368). -/
def execExtset (port : Nat) (s : State) : Host.Outcome State Fault Refusal := .next (s.pfWrite port 0x20 3)

/-- ATTEST (R368, R371), by the HSEM holder or through a tenant mailbox. -/
def execAttest (src : Source) (s : State) : Host.Outcome State Fault Refusal :=
  .next (match src with
    | .pf p => s.pfWrite p 0x20 4
    | .vf t => s.vfWrite t 0x40 4
    | _ => s)

/-- STAGE (R368, R369). -/
def execStage (port : Nat) (s : State) : Host.Outcome State Fault Refusal := .next (s.pfWrite port 0x20 5)

/-- ACTIVATE (R368). -/
def execActivate (port : Nat) (s : State) : Host.Outcome State Fault Refusal := .next (s.pfWrite port 0x20 6)

/-- SVNADV (R368, R370). -/
def execSvnadv (port : Nat) (s : State) : Host.Outcome State Fault Refusal := .next (s.pfWrite port 0x20 7)

/-- PREEMPT (R310, R368). -/
def execPreempt (port : Nat) (s : State) : Host.Outcome State Fault Refusal := .next (s.pfWrite port 0x20 8)

/-! ### Resets (R366, R367) -/

/-- FUNCTION_LEVEL_RESET (R367) of the function of `tenant`; its synchronisation may still be to come. -/
def execFunctionLevelReset (tenant : Nat) (s : State) : Host.Outcome State Fault Refusal :=
  .next (if tenant < 32 then ((State.eachHart State.drainQueues s).resetTenant tenant).runMailbox else s)

/-- HOT_RESET (R367) of a port, or a reset of its physical function. -/
def execHotReset (port : Nat) (s : State) : Host.Outcome State Fault Refusal :=
  .next (if 1 < port then s
    else ((List.range 16).foldl (fun s v => s.resetTenant (16 * port + v))
      ((State.eachHart State.drainQueues s).releaseSem port)).runMailbox)

/-- The image that the ROM boots (R366, R369, R370): the primary one, which an activated image has become, or the
backup; none when both fail. Signatures, SVNs and DEBUG flags are free values. -/
def HostRegs.boot (r : HostRegs) (n : Nat) : Option (BitVec 32 × Bool) :=
  let first := match r.staged with
    | some (v, true) => v
    | _ => Config.imageSvn n
  let good (v : BitVec 32) (k : Nat) : Bool := Config.signatureOk k && decide (r.minsvn.toNat ≤ v.toNat)
  if good first n then some (first, Config.imageDebug n)
  else if good (Config.imageSvn (n + 1)) (n + 1) then some (Config.imageSvn (n + 1), Config.imageDebug (n + 1))
  else none

/-- COLD_RESET (R366): nothing of the state is left but MINSVN and the boot number, which are fuses and counters. -/
def execColdReset (s : State) : Host.Outcome State Fault Refusal :=
  let keep : HostRegs := { minsvn := s.dev.hosts.minsvn, bootNo := s.dev.hosts.bootNo }
  let regs : HostRegs := match s.dev.hosts.boot s.tick with
    | some (v, dbg) => { keep with svn := v, dbgopen := dbg }
    | none => { keep with fail := true }
  .next { State.reset with
    dev := { State.reset.dev with hosts := regs }
    inbox := s.inbox
    oracle := s.oracle
    pace := s.pace
    tick := s.tick + 2 }

/-- READY (R366, R371): bring-up ends: the CR area is reserved at `crpa`, the boot's keys are made, READY is set. -/
def execReady (crpa : Nat) (s : State) : Host.Outcome State Fault Refusal :=
  .next (if s.dev.hosts.ready ∨ s.dev.hosts.fail ∨ crpa % 0x10000 ≠ 0 ∨ 0x8000000000 < crpa + 0x10000000 then s
    else { s with dev := { s.dev with
      crpa := crpa
      hosts := { s.dev.hosts with ready := true, bootNo := s.dev.hosts.bootNo + 1, reports := 0 } } })

end Sys2Proof.Machine
end

