-- ==== Sys2Proof/Machine/Background.lean ====
section
/-! DEFINITION. What the device does by itself between instructions: when nothing delays them, the agents of R266 and the
engines go on as far as they can. -/

namespace Sys2Proof.Machine

/-- Esmen answers a refill request with the first IDs that it holds free (R74). -/
def Device.refill (d : Device) (x : Stash) : Device :=
  if x.asked = 0 then d else d.refillReply x.die x.core (((d.tenant x.askedFor).freeIds).take x.asked)

/-- Esmen, on the Causeway core: every outstanding request is answered, and the mailbox command goes on. -/
def State.runEsmen (s : State) : State :=
  if s.dev.causeway.halted then s else { s with dev := s.dev.stashes.foldl Device.refill s.dev }.runMailbox

/-- Store and fabric queues, copy engines, Esmen, the Peat engine, the allocators and the save engine, and what waits at
the debug modules. -/
def State.progress (s : State) : State :=
  (((State.eachHart State.drainQueues s).runEngines.runEsmen).runPeat).runAlloc.runAccesses

/-- The device's own progress after a step: everything that can happen does, or nothing when the choice is not 0. -/
def State.settle (s : State) : State :=
  match s.oracle with
  | c :: r => if c = 0 then { s with oracle := r }.progress else { s with oracle := r }
  | [] => s.progress

end Sys2Proof.Machine
end

