-- ==== Sys2Proof/Machine/Park.lean ====
section
/-! DEFINITION. The PARK-major instructions (R100-R104). -/

namespace Sys2Proof.Machine

/-- Every earlier store of the hart is visible (R101). -/
def visibleStores : M Unit := releaseWait 4

/-- The slot that X(xa) names, if it belongs to the hart's tenant (R101). -/
def State.slotNamed (s : State) (x : Nat) : Option Nat :=
  if s.dev.slotOf s.h.id.tenant x then some x else none

/-- A tenant's slots in increasing order. -/
def Tenant.slots (t : Tenant) : List Nat :=
  ((t.crGroups.filter (· < 4096)).flatMap fun g => (List.range 16).map fun i => 16 * g + i).foldl
    (fun l x => (l.takeWhile (· < x)) ++ x :: l.dropWhile (· < x)) []

/-- CRGET (R102). -/
def crGet (d : Reg) : M Unit := do
  noStrip
  visibleStores
  let s ← get
  match (s.dev.tenant s.h.id.tenant).slots.find? fun c => (s.dev.cr c).st == .free with
  | none => writeX d (BitVec.ofNat 64 (2 ^ 63))
  | some c =>
    modify fun s => s.putMem peatAgent (s.dev.crAddr c) (List.replicate 128 0)
    modify fun s => s.putCr { slot := c, tenant := 0, st := .open }
    writeX d (BitVec.ofNat 64 c)
  retire 4

/-- The record as PARK captures it (R92). -/
def State.parked (s : State) (slot : Nat) : Cr :=
  let c := { s.dev.cr slot with
    tenant := s.h.id.tenant
    root := s.h.hr.ptroot
    asid := s.h.hr.asid
    ptime := s.time
    queue := bits (s.crHeader slot) 208 8
    st := .parked
    pass := none
    staged := false
    pageFailed := false
    todo := [] }
  { c with pages := s.crPages c }

/-- The synchronisation that PARK's clearing of A makes (R93) has still to come: a store or a copy command translated
through a leaf that the record lists is not done. -/
def State.parkWaits (s : State) (slot : Nat) : Bool :=
  let c := s.parked slot
  c.pages.any fun p => (s.crLeaf c p.2).any s.leafBusy

/-- The transition of PARK (R92): captures, A cleared, T_hbm armed. -/
def State.parkSlot (s : State) (slot : Nat) : State :=
  let c := s.parked slot
  let s := c.pages.foldl (fun s p => match s.crLeaf c p.2 with | some l => s.clearA l.ptea | none => s) s
  s.putCr (s.armHbm { c with tier := s.crTier c })

/-- PARK (R102). It completes as a whole: the clearing of A and the synchronisation behind it are one instant, at which
no older access through the listed leaves is still to be performed. -/
def parkSlot (d a : Reg) : M Unit := do
  noStrip
  visibleStores
  let s ← get
  match s.slotNamed (s.getX a).toNat with
  | none => writeX d 1
  | some c =>
    if (s.dev.cr c).st ≠ .open then writeX d 2
    else if s.crBad c then writeX d 3
    else
      modify (State.eachHart State.drainQueues)
      if (← get).parkWaits c then wait .memory
      modify (·.parkSlot c)
      writeX d 0
  retire 4

/-- CRFREE (R102). -/
def crFree (d a : Reg) : M Unit := do
  noStrip
  visibleStores
  let s ← get
  match s.slotNamed (s.getX a).toNat with
  | none => writeX d 1
  | some c =>
    let x := s.dev.cr c
    if x.st = .open ∨ x.st = .parked ∨ x.st = .failed then
      modify fun s => s.putCr { x with st := .free, thbm := none, tcxl := none, overflow := false, pass := none }
      writeX d 0
    else writeX d 2
  retire 4

/-! ### PROMOTE (R99, R103) -/

/-- A successor's confidence after a hint with tag `t` (R99). -/
def Predict.learn (p : Predict) (t : Nat × Nat) : Predict :=
  let isT (x : Nat × Nat × Nat) : Bool := (x.1, x.2.1) == t
  if p.succ.any isT then
    { p with succ := p.succ.map fun x => if isT x then (x.1, x.2.1, min 3 (x.2.2 + 1)) else (x.1, x.2.1, x.2.2 - 1) }
  else
    let low := p.succ.foldl (fun n x => min n x.2.2) 3
    let kept := if p.succ.length < 4 then p.succ else match p.succ.find? fun x => x.2.2 == low with
      | some x => p.succ.erase x
      | none => p.succ
    { p with succ := (kept.map fun x => (x.1, x.2.1, x.2.2 - 1)) ++ [(t.1, t.2, 1)] }

/-- The predictor after a hint: learning, then the entry of the tag, most recently used last (R99). Only a hint with an
entry's own tag counts as a use of it, the model's choice (notes/assumptions/66.md). -/
def Device.hint (d : Device) (h : Hart) (tag : Nat × Nat) (base len : Nat) : Device :=
  let t := h.id.tenant
  let tn := d.tenant t
  let learn (p : Predict) : Predict :=
    if p.tenant = t ∧ p.layer + 1 = tag.1 ∧ tn.hints.contains (p.layer, p.expert) = true then p.learn tag else p
  let l := d.predictor.map learn
  let mine (p : Predict) : Bool := p.tenant == t && p.layer == tag.1 && p.expert == tag.2
  let old := (l.find? mine).getD { tenant := t, layer := tag.1, expert := tag.2, base := 0, len := 0, root := 0, asid := 0 }
  let new := if len = 0 then old else { old with base := base, len := len, root := h.hr.ptroot, asid := h.hr.asid }
  let rest := l.filter fun p => !mine p
  let rest := if rest.length < 4096 then rest else rest.drop 1
  { d with predictor := rest ++ [new] }.setTenant { tn with hints := (tag :: tn.hints).take 8 }

/-- A page that the expert cache holds, awaits or is moving there is now one of region `o`: promoted again (R99). -/
def Device.promoteAgain (d : Device) (t ptea o : Nat) : Device :=
  { d with
    experts := d.experts.map fun e => if e.tenant = t ∧ e.ptea = ptea then { e with order := o } else e
    proms := d.proms.map fun r => if r.tenant = t ∧ r.ptea = ptea then { r with region := r.region.map fun _ => o } else r
    moves := d.moves.map fun m => if m.tenant = t ∧ m.ptea = ptea then { m with expert := m.expert.map fun _ => o } else m }

/-- Requests for the pages of a region that the expert cache takes (R99): T = 2, 64 KiB, NORMAL, W = 0, in CXL, which
translate as loads (R103; notes/assumptions/60.md). Pages that are there or on their way count as promoted again. -/
def State.askRegion (s : State) (p : Predict) : State :=
  let first := p.base / frameSize
  let n := if p.len = 0 then 0 else (p.base + p.len - 1) / frameSize + 1 - first
  let o := s.dev.expertNo + 1
  let s : State := { s with dev := { s.dev with expertNo := o } }
  let ask (s : State) (i : Nat) : State :=
    let va := (first + i) * frameSize
    if va / 2 ^ 52 ≠ 0 ∨ inWindow va then s
    else match s.walkFrom p.tenant va (p.root.toNat / 2 ^ 15 * 2 ^ 15) 3 with
      | .error _ => s
      | .ok l =>
        let s : State := { s with dev := s.dev.promoteAgain p.tenant l.ptea o }
        if l.pte % 4 = 2 ∧ s.dev.movable l.pte ∧ tierOf l.pte = 1 ∧ bits l.pte 3 1 = 0 ∧ allowed l.pte .load
          ∧ s.dev.grants p.tenant (bits l.pte 16 36 * frameSize) .load = true
          ∧ s.dev.proms.any (·.ptea == l.ptea) = false then
          { s with dev := { s.dev with proms := s.dev.proms ++
            [{ ptea := l.ptea, tenant := p.tenant, root := p.root, asid := p.asid.toNat, va := va, region := some o }] } }
        else s
  (List.range n).foldl ask s

/-- Regions predicted to follow an entry: successors with a confidence of 2 or more. -/
def Device.predicted (d : Device) (p : Predict) : List Predict :=
  (p.succ.filter fun x => decide (2 ≤ x.2.2)).filterMap fun x =>
    d.predictor.find? fun q => q.tenant == p.tenant && q.layer == x.1 && q.expert == x.2.1

/-- PROMOTE's effect. -/
def State.promoteHint (s : State) (va len tagw : Nat) : State :=
  let tag := (bits tagw 0 12, bits tagw 16 12)
  let s := { s with dev := s.dev.hint s.h tag va len }
  if len = 0 then s
  else match s.dev.predictor.find? fun p => p.tenant == s.h.id.tenant && p.layer == tag.1 && p.expert == tag.2 with
    | none => s
    | some p => (p :: s.dev.predicted p).foldl State.askRegion s

def promote (a b c : Reg) : M Unit := do
  noStrip
  modify fun s => s.promoteHint (s.getX a).toNat (s.getX b).toNat (s.getX c).toNat
  retire 4

/-! ### TQRY and CRQRY (R104) -/

/-- The tier word of an address. -/
def State.tierWord (s : State) (va : Nat) : Nat :=
  let leaf (f : Leaf → Nat) : Nat := match s.walkFrom s.h.id.tenant va (s.h.hr.ptroot.toNat / 2 ^ 15 * 2 ^ 15) 3 with
    | .ok l => f l
    | .error _ => 3
  let moving (l : Leaf) : Nat := if s.dev.moves.any (·.ptea == l.ptea) then 4 else 0
  match s.probe s.h.ctx va .load with
  | .ok (_, _, true) => 3
  | .ok _ => leaf fun l => tierOf l.pte + moving l
  | .error .tierwait => leaf fun l => 2 + moving l + bits l.pte 62 1 * 8 + bits l.pte 61 1 * 16
  | .error c => 2 ^ 63 + c.code.toNat

def tierQuery (d a : Reg) : M Unit := do
  noStrip
  let s ← get
  writeX d (BitVec.ofNat 64 (s.tierWord (s.getX a).toNat))
  retire 4

/-- The status word of a slot. -/
def State.crWord (s : State) (slot : Nat) : Nat :=
  let c := s.dev.cr slot
  let n := if c.st = .free ∨ c.st = .open then 0 else s.crAway c
  c.st.code + c.tier % 4 * 2 ^ 8 + n % 2 ^ 32 * 2 ^ 16

def crQuery (d a : Reg) : M Unit := do
  noStrip
  let s ← get
  writeX d (BitVec.ofNat 64 (match s.slotNamed (s.getX a).toNat with | some c => s.crWord c | none => 2 ^ 63))
  retire 4

def execCrget (d : Reg) (s : State) : Host.Outcome State Fault Refusal := runM (crGet d) s
def execPark (d a : Reg) (s : State) : Host.Outcome State Fault Refusal := runM (parkSlot d a) s
def execCrfree (d a : Reg) (s : State) : Host.Outcome State Fault Refusal := runM (crFree d a) s
def execPromote (a b c : Reg) (s : State) : Host.Outcome State Fault Refusal := runM (promote a b c) s
def execTqry (d a : Reg) (s : State) : Host.Outcome State Fault Refusal := runM (tierQuery d a) s
def execCrqry (d a : Reg) (s : State) : Host.Outcome State Fault Refusal := runM (crQuery d a) s

end Sys2Proof.Machine
end

