-- ==== Sys2Proof/Machine/Dispatch.lean ====
section
/-! DEFINITION. Every constructor of `Instr` with its meaning. -/

namespace Sys2Proof.Machine

def exec (i : Instr) (s : State) : Host.Outcome State Fault Refusal :=
  match i with
  | .addi d a imm => Sys2Proof.Machine.execAddi d a imm s
  | .andi d a imm => Sys2Proof.Machine.execAndi d a imm s
  | .ori d a imm => Sys2Proof.Machine.execOri d a imm s
  | .xori d a imm => Sys2Proof.Machine.execXori d a imm s
  | .sltiS d a imm => Sys2Proof.Machine.execSltiS d a imm s
  | .sltiZ d a imm => Sys2Proof.Machine.execSltiZ d a imm s
  | .slli d a k => Sys2Proof.Machine.execSlli d a k s
  | .srli d a k => Sys2Proof.Machine.execSrli d a k s
  | .srai d a k => Sys2Proof.Machine.execSrai d a k s
  | .rori d a k => Sys2Proof.Machine.execRori d a k s
  | .lui d a imm => Sys2Proof.Machine.execLui d a imm s
  | .addpc d imm => Sys2Proof.Machine.execAddpc d imm s
  | .addiPxi d a imm => Sys2Proof.Machine.execAddiPxi d a imm s
  | .andiPxi d a imm => Sys2Proof.Machine.execAndiPxi d a imm s
  | .oriPxi d a imm => Sys2Proof.Machine.execOriPxi d a imm s
  | .xoriPxi d a imm => Sys2Proof.Machine.execXoriPxi d a imm s
  | .sltiSPxi d a imm => Sys2Proof.Machine.execSltiSPxi d a imm s
  | .sltiZPxi d a imm => Sys2Proof.Machine.execSltiZPxi d a imm s
  | .luiPxi d a imm => Sys2Proof.Machine.execLuiPxi d a imm s
  | .addpcPxi d imm => Sys2Proof.Machine.execAddpcPxi d imm s
  | .jalrPxi d a imm => Sys2Proof.Machine.execJalrPxi d a imm s
  | .add d a b => Sys2Proof.Machine.execAdd d a b s
  | .sub d a b => Sys2Proof.Machine.execSub d a b s
  | .and d a b => Sys2Proof.Machine.execAnd d a b s
  | .or d a b => Sys2Proof.Machine.execOr d a b s
  | .xor d a b => Sys2Proof.Machine.execXor d a b s
  | .sll d a b => Sys2Proof.Machine.execSll d a b s
  | .srl d a b => Sys2Proof.Machine.execSrl d a b s
  | .sra d a b => Sys2Proof.Machine.execSra d a b s
  | .sltS d a b => Sys2Proof.Machine.execSltS d a b s
  | .sltZ d a b => Sys2Proof.Machine.execSltZ d a b s
  | .mul d a b => Sys2Proof.Machine.execMul d a b s
  | .mulhS d a b => Sys2Proof.Machine.execMulhS d a b s
  | .mulhZ d a b => Sys2Proof.Machine.execMulhZ d a b s
  | .divS d a b => Sys2Proof.Machine.execDivS d a b s
  | .divZ d a b => Sys2Proof.Machine.execDivZ d a b s
  | .remS d a b => Sys2Proof.Machine.execRemS d a b s
  | .remZ d a b => Sys2Proof.Machine.execRemZ d a b s
  | .minS d a b => Sys2Proof.Machine.execMinS d a b s
  | .minZ d a b => Sys2Proof.Machine.execMinZ d a b s
  | .maxS d a b => Sys2Proof.Machine.execMaxS d a b s
  | .maxZ d a b => Sys2Proof.Machine.execMaxZ d a b s
  | .andn d a b => Sys2Proof.Machine.execAndn d a b s
  | .clz d a => Sys2Proof.Machine.execClz d a s
  | .ctz d a => Sys2Proof.Machine.execCtz d a s
  | .cpop d a => Sys2Proof.Machine.execCpop d a s
  | .madd d a b c => Sys2Proof.Machine.execMadd d a b c s
  | .addsh d a b k => Sys2Proof.Machine.execAddsh d a b k s
  | .fadd d a b t => Sys2Proof.Machine.execFadd d a b t s
  | .fsub d a b t => Sys2Proof.Machine.execFsub d a b t s
  | .fmul d a b t => Sys2Proof.Machine.execFmul d a b t s
  | .fdiv d a b t => Sys2Proof.Machine.execFdiv d a b t s
  | .fsqrt d a t => Sys2Proof.Machine.execFsqrt d a t s
  | .fmin d a b t => Sys2Proof.Machine.execFmin d a b t s
  | .fmax d a b t => Sys2Proof.Machine.execFmax d a b t s
  | .fsgnj d a b t => Sys2Proof.Machine.execFsgnj d a b t s
  | .fsgnjn d a b t => Sys2Proof.Machine.execFsgnjn d a b t s
  | .fsgnjx d a b t => Sys2Proof.Machine.execFsgnjx d a b t s
  | .feq d a b t => Sys2Proof.Machine.execFeq d a b t s
  | .flt d a b t => Sys2Proof.Machine.execFlt d a b t s
  | .fle d a b t => Sys2Proof.Machine.execFle d a b t s
  | .fclass d a t => Sys2Proof.Machine.execFclass d a t s
  | .fcvtiS d a t => Sys2Proof.Machine.execFcvtiS d a t s
  | .fcvtiZ d a t => Sys2Proof.Machine.execFcvtiZ d a t s
  | .fcvtfS d a t => Sys2Proof.Machine.execFcvtfS d a t s
  | .fcvtfZ d a t => Sys2Proof.Machine.execFcvtfZ d a t s
  | .fcvt d a k t => Sys2Proof.Machine.execFcvt d a k t s
  | .fmadd d a b c t => Sys2Proof.Machine.execFmadd d a b c t s
  | .fnmsub d a b c t => Sys2Proof.Machine.execFnmsub d a b c t s
  | .ld8Z d a imm => Sys2Proof.Machine.execLd8Z d a imm s
  | .ld16Z d a imm => Sys2Proof.Machine.execLd16Z d a imm s
  | .ld32Z d a imm => Sys2Proof.Machine.execLd32Z d a imm s
  | .ld64 d a imm => Sys2Proof.Machine.execLd64 d a imm s
  | .ld8S d a imm => Sys2Proof.Machine.execLd8S d a imm s
  | .ld16S d a imm => Sys2Proof.Machine.execLd16S d a imm s
  | .ld32S d a imm => Sys2Proof.Machine.execLd32S d a imm s
  | .st8 k a imm => Sys2Proof.Machine.execSt8 k a imm s
  | .st16 k a imm => Sys2Proof.Machine.execSt16 k a imm s
  | .st32 k a imm => Sys2Proof.Machine.execSt32 k a imm s
  | .st64 k a imm => Sys2Proof.Machine.execSt64 k a imm s
  | .ld8ZPxi d a imm => Sys2Proof.Machine.execLd8ZPxi d a imm s
  | .ld16ZPxi d a imm => Sys2Proof.Machine.execLd16ZPxi d a imm s
  | .ld32ZPxi d a imm => Sys2Proof.Machine.execLd32ZPxi d a imm s
  | .ld64Pxi d a imm => Sys2Proof.Machine.execLd64Pxi d a imm s
  | .ld8SPxi d a imm => Sys2Proof.Machine.execLd8SPxi d a imm s
  | .ld16SPxi d a imm => Sys2Proof.Machine.execLd16SPxi d a imm s
  | .ld32SPxi d a imm => Sys2Proof.Machine.execLd32SPxi d a imm s
  | .st8Pxi k a imm => Sys2Proof.Machine.execSt8Pxi k a imm s
  | .st16Pxi k a imm => Sys2Proof.Machine.execSt16Pxi k a imm s
  | .st32Pxi k a imm => Sys2Proof.Machine.execSt32Pxi k a imm s
  | .st64Pxi k a imm => Sys2Proof.Machine.execSt64Pxi k a imm s
  | .ld8ZAq d a k => Sys2Proof.Machine.execLd8ZAq d a k s
  | .ld16ZAq d a k => Sys2Proof.Machine.execLd16ZAq d a k s
  | .ld32ZAq d a k => Sys2Proof.Machine.execLd32ZAq d a k s
  | .ld64Aq d a k => Sys2Proof.Machine.execLd64Aq d a k s
  | .st8Rl d a k => Sys2Proof.Machine.execSt8Rl d a k s
  | .st16Rl d a k => Sys2Proof.Machine.execSt16Rl d a k s
  | .st32Rl d a k => Sys2Proof.Machine.execSt32Rl d a k s
  | .st64Rl d a k => Sys2Proof.Machine.execSt64Rl d a k s
  | .amoswap d a b l q k z => Sys2Proof.Machine.execAmoswap d a b l q k z s
  | .amoadd d a b l q k z => Sys2Proof.Machine.execAmoadd d a b l q k z s
  | .amoand d a b l q k z => Sys2Proof.Machine.execAmoand d a b l q k z s
  | .amoor d a b l q k z => Sys2Proof.Machine.execAmoor d a b l q k z s
  | .amoxor d a b l q k z => Sys2Proof.Machine.execAmoxor d a b l q k z s
  | .amominS d a b l q k z => Sys2Proof.Machine.execAmominS d a b l q k z s
  | .amominZ d a b l q k z => Sys2Proof.Machine.execAmominZ d a b l q k z s
  | .amomaxS d a b l q k z => Sys2Proof.Machine.execAmomaxS d a b l q k z s
  | .amomaxZ d a b l q k z => Sys2Proof.Machine.execAmomaxZ d a b l q k z s
  | .amocas d a b l q k z => Sys2Proof.Machine.execAmocas d a b l q k z s
  | .fence k => Sys2Proof.Machine.execFence k s
  | .mfsr d n => Sys2Proof.Machine.execMfsr d n s
  | .mtsr a n => Sys2Proof.Machine.execMtsr a n s
  | .wait d a => Sys2Proof.Machine.execWait d a s
  | .sev a => Sys2Proof.Machine.execSev a s
  | .trap a => Sys2Proof.Machine.execTrap a s
  | .tinvVa a => Sys2Proof.Machine.execTinvVa a s
  | .tinvAsid a => Sys2Proof.Machine.execTinvAsid a s
  | .tinvAll => Sys2Proof.Machine.execTinvAll s
  | .tsync => Sys2Proof.Machine.execTsync s
  | .tprobe d a k => Sys2Proof.Machine.execTprobe d a k s
  | .tret => Sys2Proof.Machine.execTret s
  | .hxchg d => Sys2Proof.Machine.execHxchg d s
  | .ecmrd d => Sys2Proof.Machine.execEcmrd d s
  | .ecmwr a => Sys2Proof.Machine.execEcmwr a s
  | .tmset a => Sys2Proof.Machine.execTmset a s
  | .dbrk => Sys2Proof.Machine.execDbrk s
  | .spread d a => Sys2Proof.Machine.execSpread d a s
  | .spclr => Sys2Proof.Machine.execSpclr s
  | .tmark a => Sys2Proof.Machine.execTmark a s
  | .beq a b imm => Sys2Proof.Machine.execBeq a b imm s
  | .bne a b imm => Sys2Proof.Machine.execBne a b imm s
  | .bltS a b imm => Sys2Proof.Machine.execBltS a b imm s
  | .bgeS a b imm => Sys2Proof.Machine.execBgeS a b imm s
  | .bltZ a b imm => Sys2Proof.Machine.execBltZ a b imm s
  | .bgeZ a b imm => Sys2Proof.Machine.execBgeZ a b imm s
  | .jal d imm => Sys2Proof.Machine.execJal d imm s
  | .jalr d a imm => Sys2Proof.Machine.execJalr d a imm s
  | .sloop a n => Sys2Proof.Machine.execSloop a n s
  | .cAddi d imm => Sys2Proof.Machine.execCAddi d imm s
  | .cLi d imm => Sys2Proof.Machine.execCLi d imm s
  | .cMv d b => Sys2Proof.Machine.execCMv d b s
  | .cAdd d b => Sys2Proof.Machine.execCAdd d b s
  | .cSub d b => Sys2Proof.Machine.execCSub d b s
  | .cAnd d b => Sys2Proof.Machine.execCAnd d b s
  | .cOr d b => Sys2Proof.Machine.execCOr d b s
  | .cXor d b => Sys2Proof.Machine.execCXor d b s
  | .cSlli d k => Sys2Proof.Machine.execCSlli d k s
  | .cSrli d k => Sys2Proof.Machine.execCSrli d k s
  | .cJr b => Sys2Proof.Machine.execCJr b s
  | .cLdsp d o => Sys2Proof.Machine.execCLdsp d o s
  | .cStsp k o => Sys2Proof.Machine.execCStsp k o s
  | .cBeqz a imm => Sys2Proof.Machine.execCBeqz a imm s
  | .cBnez a imm => Sys2Proof.Machine.execCBnez a imm s
  | .cJ imm => Sys2Proof.Machine.execCJ imm s
  | .vsetvl d a b r x => Sys2Proof.Machine.execVsetvl d a b r x s
  | .vsetvli d a p e g r x => Sys2Proof.Machine.execVsetvli d a p e g r x s
  | .vsetvlm d a e g r x => Sys2Proof.Machine.execVsetvlm d a e g r x s
  | .vsetfl d a b e g r x => Sys2Proof.Machine.execVsetfl d a b e g r x s
  | .vld d a m z f k => Sys2Proof.Machine.execVld d a m z f k s
  | .vlds d a b m z f k => Sys2Proof.Machine.execVlds d a b m z f k s
  | .vldxu d a b m z f k => Sys2Proof.Machine.execVldxu d a b m z f k s
  | .vldxo d a b m z f k => Sys2Proof.Machine.execVldxo d a b m z f k s
  | .vldseg d a n m z f k => Sys2Proof.Machine.execVldseg d a n m z f k s
  | .vldr d a => Sys2Proof.Machine.execVldr d a s
  | .vldm d a => Sys2Proof.Machine.execVldm d a s
  | .vldf d a m z f k => Sys2Proof.Machine.execVldf d a m z f k s
  | .vldfs d a b m z f k => Sys2Proof.Machine.execVldfs d a b m z f k s
  | .vldfxu d a b m z f k => Sys2Proof.Machine.execVldfxu d a b m z f k s
  | .vldfxo d a b m z f k => Sys2Proof.Machine.execVldfxo d a b m z f k s
  | .vldfseg d a n m z f k => Sys2Proof.Machine.execVldfseg d a n m z f k s
  | .vst k a m z f => Sys2Proof.Machine.execVst k a m z f s
  | .vsts k a b m z f => Sys2Proof.Machine.execVsts k a b m z f s
  | .vstxu k a b m z f => Sys2Proof.Machine.execVstxu k a b m z f s
  | .vstxo k a b m z f => Sys2Proof.Machine.execVstxo k a b m z f s
  | .vstseg k a n m z f => Sys2Proof.Machine.execVstseg k a n m z f s
  | .vstr k a => Sys2Proof.Machine.execVstr k a s
  | .vstm k a => Sys2Proof.Machine.execVstm k a s
  | .vadd v => Sys2Proof.Machine.execVadd v s
  | .vsub v => Sys2Proof.Machine.execVsub v s
  | .vrsub v => Sys2Proof.Machine.execVrsub v s
  | .vminS v => Sys2Proof.Machine.execVminS v s
  | .vminZ v => Sys2Proof.Machine.execVminZ v s
  | .vmaxS v => Sys2Proof.Machine.execVmaxS v s
  | .vmaxZ v => Sys2Proof.Machine.execVmaxZ v s
  | .vand v => Sys2Proof.Machine.execVand v s
  | .vor v => Sys2Proof.Machine.execVor v s
  | .vxor v => Sys2Proof.Machine.execVxor v s
  | .vsll v => Sys2Proof.Machine.execVsll v s
  | .vsrl v => Sys2Proof.Machine.execVsrl v s
  | .vsra v => Sys2Proof.Machine.execVsra v s
  | .vmul v => Sys2Proof.Machine.execVmul v s
  | .vmulhS v => Sys2Proof.Machine.execVmulhS v s
  | .vmulhZ v => Sys2Proof.Machine.execVmulhZ v s
  | .vdivS v => Sys2Proof.Machine.execVdivS v s
  | .vdivZ v => Sys2Proof.Machine.execVdivZ v s
  | .vremS v => Sys2Proof.Machine.execVremS v s
  | .vremZ v => Sys2Proof.Machine.execVremZ v s
  | .vmacc v => Sys2Proof.Machine.execVmacc v s
  | .vnmsac v => Sys2Proof.Machine.execVnmsac v s
  | .vmerge d a b z w => Sys2Proof.Machine.execVmerge d a b z w s
  | .vmv d b m z w => Sys2Proof.Machine.execVmv d b m z w s
  | .vwaddS v => Sys2Proof.Machine.execVwaddS v s
  | .vwaddZ v => Sys2Proof.Machine.execVwaddZ v s
  | .vwsubS v => Sys2Proof.Machine.execVwsubS v s
  | .vwsubZ v => Sys2Proof.Machine.execVwsubZ v s
  | .vwmulS v => Sys2Proof.Machine.execVwmulS v s
  | .vwmulZ v => Sys2Proof.Machine.execVwmulZ v s
  | .vwmaccS v => Sys2Proof.Machine.execVwmaccS v s
  | .vwmaccZ v => Sys2Proof.Machine.execVwmaccZ v s
  | .vcrc v => Sys2Proof.Machine.execVcrc v s
  | .vhash v => Sys2Proof.Machine.execVhash v s
  | .vsaddS v => Sys2Proof.Machine.execVsaddS v s
  | .vsaddZ v => Sys2Proof.Machine.execVsaddZ v s
  | .vssubS v => Sys2Proof.Machine.execVssubS v s
  | .vssubZ v => Sys2Proof.Machine.execVssubZ v s
  | .vaaddS v => Sys2Proof.Machine.execVaaddS v s
  | .vaaddZ v => Sys2Proof.Machine.execVaaddZ v s
  | .vasubS v => Sys2Proof.Machine.execVasubS v s
  | .vasubZ v => Sys2Proof.Machine.execVasubZ v s
  | .vsmulS v => Sys2Proof.Machine.execVsmulS v s
  | .vssraS v => Sys2Proof.Machine.execVssraS v s
  | .vssrlZ v => Sys2Proof.Machine.execVssrlZ v s
  | .vnclipS v => Sys2Proof.Machine.execVnclipS v s
  | .vnclipZ v => Sys2Proof.Machine.execVnclipZ v s
  | .vnclipSu v => Sys2Proof.Machine.execVnclipSu v s
  | .vdot4S v => Sys2Proof.Machine.execVdot4S v s
  | .vdot4Z v => Sys2Proof.Machine.execVdot4Z v s
  | .vdot4Su v => Sys2Proof.Machine.execVdot4Su v s
  | .vmseq v => Sys2Proof.Machine.execVmseq v s
  | .vmsne v => Sys2Proof.Machine.execVmsne v s
  | .vmsltS v => Sys2Proof.Machine.execVmsltS v s
  | .vmsltZ v => Sys2Proof.Machine.execVmsltZ v s
  | .vmsleS v => Sys2Proof.Machine.execVmsleS v s
  | .vmsleZ v => Sys2Proof.Machine.execVmsleZ v s
  | .vmsgtS v => Sys2Proof.Machine.execVmsgtS v s
  | .vmsgtZ v => Sys2Proof.Machine.execVmsgtZ v s
  | .vmsgeS v => Sys2Proof.Machine.execVmsgeS v s
  | .vmsgeZ v => Sys2Proof.Machine.execVmsgeZ v s
  | .vmand d a b z => Sys2Proof.Machine.execVmand d a b z s
  | .vmor d a b z => Sys2Proof.Machine.execVmor d a b z s
  | .vmxor d a b z => Sys2Proof.Machine.execVmxor d a b z s
  | .vmandn d a b z => Sys2Proof.Machine.execVmandn d a b z s
  | .vmorn d a b z => Sys2Proof.Machine.execVmorn d a b z s
  | .vmnand d a b z => Sys2Proof.Machine.execVmnand d a b z s
  | .vmnor d a b z => Sys2Proof.Machine.execVmnor d a b z s
  | .vmxnor d a b z => Sys2Proof.Machine.execVmxnor d a b z s
  | .vcpop d a m => Sys2Proof.Machine.execVcpop d a m s
  | .vfirst d a m => Sys2Proof.Machine.execVfirst d a m s
  | .vmsbf d a m z => Sys2Proof.Machine.execVmsbf d a m z s
  | .vmsif d a m z => Sys2Proof.Machine.execVmsif d a m z s
  | .vmsof d a m z => Sys2Proof.Machine.execVmsof d a m z s
  | .vslideup d a b m z => Sys2Proof.Machine.execVslideup d a b m z s
  | .vslidedown d a b m z => Sys2Proof.Machine.execVslidedown d a b m z s
  | .vslide1up d a b m z => Sys2Proof.Machine.execVslide1up d a b m z s
  | .vslide1down d a b m z => Sys2Proof.Machine.execVslide1down d a b m z s
  | .vrgather v => Sys2Proof.Machine.execVrgather v s
  | .vcompress d a b z => Sys2Proof.Machine.execVcompress d a b z s
  | .vexpand d a b z => Sys2Proof.Machine.execVexpand d a b z s
  | .vid d m z => Sys2Proof.Machine.execVid d m z s
  | .vmvXs d a => Sys2Proof.Machine.execVmvXs d a s
  | .vmvSx d b m z => Sys2Proof.Machine.execVmvSx d b m z s
  | .vscanadd v => Sys2Proof.Machine.execVscanadd v s
  | .vscanaddSg d a b z w => Sys2Proof.Machine.execVscanaddSg d a b z w s
  | .vsortkZ d a z => Sys2Proof.Machine.execVsortkZ d a z s
  | .vsortkS d a z => Sys2Proof.Machine.execVsortkS d a z s
  | .vsortkdZ d a z => Sys2Proof.Machine.execVsortkdZ d a z s
  | .vsortkdS d a z => Sys2Proof.Machine.execVsortkdS d a z s
  | .vfadd v h => Sys2Proof.Machine.execVfadd v h s
  | .vfsub v h => Sys2Proof.Machine.execVfsub v h s
  | .vfrsub v h => Sys2Proof.Machine.execVfrsub v h s
  | .vfmul v h => Sys2Proof.Machine.execVfmul v h s
  | .vfdiv v h => Sys2Proof.Machine.execVfdiv v h s
  | .vfrdiv v h => Sys2Proof.Machine.execVfrdiv v h s
  | .vfmin v h => Sys2Proof.Machine.execVfmin v h s
  | .vfmax v h => Sys2Proof.Machine.execVfmax v h s
  | .vfsgnj v h => Sys2Proof.Machine.execVfsgnj v h s
  | .vfsgnjn v h => Sys2Proof.Machine.execVfsgnjn v h s
  | .vfsgnjx v h => Sys2Proof.Machine.execVfsgnjx v h s
  | .vfmacc v h => Sys2Proof.Machine.execVfmacc v h s
  | .vfnmacc v h => Sys2Proof.Machine.execVfnmacc v h s
  | .vfmsac v h => Sys2Proof.Machine.execVfmsac v h s
  | .vfnmsac v h => Sys2Proof.Machine.execVfnmsac v h s
  | .vmfeq v h => Sys2Proof.Machine.execVmfeq v h s
  | .vmfne v h => Sys2Proof.Machine.execVmfne v h s
  | .vmflt v h => Sys2Proof.Machine.execVmflt v h s
  | .vmfle v h => Sys2Proof.Machine.execVmfle v h s
  | .vmfgt v h => Sys2Proof.Machine.execVmfgt v h s
  | .vmfge v h => Sys2Proof.Machine.execVmfge v h s
  | .vfclass d a m z h => Sys2Proof.Machine.execVfclass d a m z h s
  | .vfcvtiS d a m z h => Sys2Proof.Machine.execVfcvtiS d a m z h s
  | .vfcvtiZ d a m z h => Sys2Proof.Machine.execVfcvtiZ d a m z h s
  | .vfcvtfS d a m z h => Sys2Proof.Machine.execVfcvtfS d a m z h s
  | .vfcvtfZ d a m z h => Sys2Proof.Machine.execVfcvtfZ d a m z h s
  | .vfwcvt d a m z h => Sys2Proof.Machine.execVfwcvt d a m z h s
  | .vfncvt d a m z h => Sys2Proof.Machine.execVfncvt d a m z h s
  | .vfwmacc v h => Sys2Proof.Machine.execVfwmacc v h s
  | .vfdot2 v h => Sys2Proof.Machine.execVfdot2 v h s
  | .vfredsum v h => Sys2Proof.Machine.execVfredsum v h s
  | .vfredsumO v h => Sys2Proof.Machine.execVfredsumO v h s
  | .vfredmax v h => Sys2Proof.Machine.execVfredmax v h s
  | .vfredmin v h => Sys2Proof.Machine.execVfredmin v h s
  | .vfredsumSg d a b z w h => Sys2Proof.Machine.execVfredsumSg d a b z w h s
  | .vfscan v h => Sys2Proof.Machine.execVfscan v h s
  | .vfscanO v h => Sys2Proof.Machine.execVfscanO v h s
  | .vfscanSg d a b z w h => Sys2Proof.Machine.execVfscanSg d a b z w h s
  | .vfargmax d a m h => Sys2Proof.Machine.execVfargmax d a m h s
  | .vfargmin d a m h => Sys2Proof.Machine.execVfargmin d a m h s
  | .vredsum v => Sys2Proof.Machine.execVredsum v s
  | .vredmaxS v => Sys2Proof.Machine.execVredmaxS v s
  | .vredmaxZ v => Sys2Proof.Machine.execVredmaxZ v s
  | .vredminS v => Sys2Proof.Machine.execVredminS v s
  | .vredminZ v => Sys2Proof.Machine.execVredminZ v s
  | .vredand v => Sys2Proof.Machine.execVredand v s
  | .vredor v => Sys2Proof.Machine.execVredor v s
  | .vredxor v => Sys2Proof.Machine.execVredxor v s
  | .vredsumSg d a b z w => Sys2Proof.Machine.execVredsumSg d a b z w s
  | .vexp2 d a m z h => Sys2Proof.Machine.execVexp2 d a m z h s
  | .vlog2 d a m z h => Sys2Proof.Machine.execVlog2 d a m z h s
  | .vrcp d a m z h => Sys2Proof.Machine.execVrcp d a m z h s
  | .vrsqrt d a m z h => Sys2Proof.Machine.execVrsqrt d a m z h s
  | .vsqrt d a m z h => Sys2Proof.Machine.execVsqrt d a m z h s
  | .vrand d m z => Sys2Proof.Machine.execVrand d m z s
  | .vrandf d m z h => Sys2Proof.Machine.execVrandf d m z h s
  | .vcdfsel d a b m h => Sys2Proof.Machine.execVcdfsel d a b m h s
  | .vsmmerge d a z => Sys2Proof.Machine.execVsmmerge d a z s
  | .vstrip d a e p g => Sys2Proof.Machine.execVstrip d a e p g s
  | .vstrend => Sys2Proof.Machine.execVstrend s
  | .vexitI d a b => Sys2Proof.Machine.execVexitI d a b s
  | .vexitB d a b => Sys2Proof.Machine.execVexitB d a b s
  | .holdExpiry gang rank => Sys2Proof.Machine.execHoldExpiry gang rank s
  | .kvxl d a b c => Sys2Proof.Machine.execKvxl d a b c s
  | .kvxlm d a b c => Sys2Proof.Machine.execKvxlm d a b c s
  | .kvapp d a b c => Sys2Proof.Machine.execKvapp d a b c s
  | .kvcommit a b => Sys2Proof.Machine.execKvcommit a b s
  | .kvtrunc a b => Sys2Proof.Machine.execKvtrunc a b s
  | .kvevict d a b c => Sys2Proof.Machine.execKvevict d a b c s
  | .kvalloc d a b => Sys2Proof.Machine.execKvalloc d a b s
  | .kvfree d a b c => Sys2Proof.Machine.execKvfree d a b c s
  | .kvfork d a b => Sys2Proof.Machine.execKvfork d a b s
  | .stashRefillReply die core ids => Sys2Proof.Machine.execStashRefillReply die core ids s
  | .cpyLin d a b c e => Sys2Proof.Machine.execCpyLin d a b c e s
  | .cpy2d d a b c e => Sys2Proof.Machine.execCpy2d d a b c e s
  | .cpyGath d a b c e => Sys2Proof.Machine.execCpyGath d a b c e s
  | .cpyConv d a b c e => Sys2Proof.Machine.execCpyConv d a b c e s
  | .cpyFill d a b c e => Sys2Proof.Machine.execCpyFill d a b c e s
  | .cpywait a e => Sys2Proof.Machine.execCpywait a e s
  | .cpyqry d e => Sys2Proof.Machine.execCpyqry d e s
  | .read die core eng n => Sys2Proof.Machine.execRead die core eng n s
  | .write die core eng n => Sys2Proof.Machine.execWrite die core eng n s
  | .cpyFail die core eng n => Sys2Proof.Machine.execCpyFail die core eng n s
  | .cpyReissue gang => Sys2Proof.Machine.execCpyReissue gang s
  | .bmode d a b => Sys2Proof.Machine.execBmode d a b s
  | .bslot d a b => Sys2Proof.Machine.execBslot d a b s
  | .bqry d a => Sys2Proof.Machine.execBqry d a s
  | .fpush d a => Sys2Proof.Machine.execFpush d a s
  | .fpop d a => Sys2Proof.Machine.execFpop d a s
  | .lpfL2 a b => Sys2Proof.Machine.execLpfL2 a b s
  | .lpfL1 a b => Sys2Proof.Machine.execLpfL1 a b s
  | .lclean a b => Sys2Proof.Machine.execLclean a b s
  | .linv a b => Sys2Proof.Machine.execLinv a b s
  | .discard a b => Sys2Proof.Machine.execDiscard a b s
  | .crget d => Sys2Proof.Machine.execCrget d s
  | .park d a => Sys2Proof.Machine.execPark d a s
  | .crfree d a => Sys2Proof.Machine.execCrfree d a s
  | .promote a b c => Sys2Proof.Machine.execPromote a b c s
  | .tqry d a => Sys2Proof.Machine.execTqry d a s
  | .crqry d a => Sys2Proof.Machine.execCrqry d a s
  | .launch d a b => Sys2Proof.Machine.execLaunch d a b s
  | .gbar => Sys2Proof.Machine.execGbar s
  | .signal a b => Sys2Proof.Machine.execSignal a b s
  | .waitge d a b c => Sys2Proof.Machine.execWaitge d a b c s
  | .hend => Sys2Proof.Machine.execHend s
  | .completionAdd gang => Sys2Proof.Machine.execCompletionAdd gang s
  | .tzero t => Sys2Proof.Machine.execTzero t s
  | .tgl l b row m => Sys2Proof.Machine.execTgl l b row m s
  | .top t la lb f32 oa ob ha hb za => Sys2Proof.Machine.execTop t la lb f32 oa ob ha hb za s
  | .trd d t row colw clr => Sys2Proof.Machine.execTrd d t row colw clr s
  | .twr t b row colw => Sys2Proof.Machine.execTwr t b row colw s
  | .tfinit t a => Sys2Proof.Machine.execTfinit t a s
  | .tfupd t b => Sys2Proof.Machine.execTfupd t b s
  | .tfdnd t b dlt => Sys2Proof.Machine.execTfdnd t b dlt s
  | .tfsolv d t b part => Sys2Proof.Machine.execTfsolv d t b part s
  | .tfrd d t row => Sys2Proof.Machine.execTfrd d t row s
  | .tfwr t b row => Sys2Proof.Machine.execTfwr t b row s
  | .tfsave t a => Sys2Proof.Machine.execTfsave t a s
  | .tfload t a => Sys2Proof.Machine.execTfload t a s
  | .timerInterrupt gang rank => Sys2Proof.Machine.execTimerInterrupt gang rank s
  | .doorbellInterrupt gang rank => Sys2Proof.Machine.execDoorbellInterrupt gang rank s
  | .doorbellWrite src hart => Sys2Proof.Machine.execDoorbellWrite src hart s
  | .waitDeadline gang rank => Sys2Proof.Machine.execWaitDeadline gang rank s
  | .bind gang rank a => Sys2Proof.Machine.execBind gang rank a s
  | .replay gang rank pc => Sys2Proof.Machine.execReplay gang rank pc s
  | .early gang rank path => Sys2Proof.Machine.execEarly gang rank path s
  | .drain gang rank => Sys2Proof.Machine.execDrain gang rank s
  | .arrive gang rank dev => Sys2Proof.Machine.execArrive gang rank dev s
  | .inboundAccess src pa n bs => Sys2Proof.Machine.execInboundAccess src pa n bs s
  | .wakeWrite src slot v => Sys2Proof.Machine.execWakeWrite src slot v s
  | .tHbmExpiry slot => Sys2Proof.Machine.execTHbmExpiry slot s
  | .tCxlExpiry slot => Sys2Proof.Machine.execTCxlExpiry slot s
  | .timerWheelTick => Sys2Proof.Machine.execTimerWheelTick s
  | .pageMove ptea => Sys2Proof.Machine.execPageMove ptea s
  | .promotionFail ptea => Sys2Proof.Machine.execPromotionFail ptea s
  | .demotionFail ptea => Sys2Proof.Machine.execDemotionFail ptea s
  | .tierwait gang rank => Sys2Proof.Machine.execTierwait gang rank s
  | .relaunchSubmit slot => Sys2Proof.Machine.execRelaunchSubmit slot s
  | .recordCheck q => Sys2Proof.Machine.execRecordCheck q s
  | .grant die q groups => Sys2Proof.Machine.execGrant die q groups s
  | .depPoll q => Sys2Proof.Machine.execDepPoll q s
  | .reservation die => Sys2Proof.Machine.execReservation die s
  | .preemption r => Sys2Proof.Machine.execPreemption r s
  | .gangResume gang => Sys2Proof.Machine.execGangResume gang s
  | .coreRetirement die core => Sys2Proof.Machine.execCoreRetirement die core s
  | .uncorrectableError p => Sys2Proof.Machine.execUncorrectableError p s
  | .hbmFrameRetirement frame dest leaves => Sys2Proof.Machine.execHbmFrameRetirement frame dest leaves s
  | .l2WayDisable die slice way => Sys2Proof.Machine.execL2WayDisable die slice way s
  | .linkFailure dev loss => Sys2Proof.Machine.execLinkFailure dev loss s
  | .haltRequest die sel => Sys2Proof.Machine.execHaltRequest die sel s
  | .resumeRequest die sel => Sys2Proof.Machine.execResumeRequest die sel s
  | .accessRegister die sel regno wr v => Sys2Proof.Machine.execAccessRegister die sel regno wr v s
  | .accessMemory die sel virt wr size addr v => Sys2Proof.Machine.execAccessMemory die sel virt wr size addr v s
  | .traceSample die => Sys2Proof.Machine.execTraceSample die s
  | .stallCharge gang rank => Sys2Proof.Machine.execStallCharge gang rank s
  | .hsemWrite port v => Sys2Proof.Machine.execHsemWrite port v s
  | .hostLinkDown port => Sys2Proof.Machine.execHostLinkDown port s
  | .qcfgWrite src q hi v => Sys2Proof.Machine.execQcfgWrite src q hi v s
  | .qstateWrite src q hi v => Sys2Proof.Machine.execQstateWrite src q hi v s
  | .qtailWrite tenant q v => Sys2Proof.Machine.execQtailWrite tenant q v s
  | .rheadWrite tenant v => Sys2Proof.Machine.execRheadWrite tenant v s
  | .domcfgWrite port v => Sys2Proof.Machine.execDomcfgWrite port v s
  | .peerCheck p => Sys2Proof.Machine.execPeerCheck p s
  | .registerWrite r v => Sys2Proof.Machine.execRegisterWrite r v s
  | .tcreate port t => Sys2Proof.Machine.execTcreate port t s
  | .tdestroy port => Sys2Proof.Machine.execTdestroy port s
  | .extset port => Sys2Proof.Machine.execExtset port s
  | .attest src => Sys2Proof.Machine.execAttest src s
  | .stage port => Sys2Proof.Machine.execStage port s
  | .activate port => Sys2Proof.Machine.execActivate port s
  | .svnadv port => Sys2Proof.Machine.execSvnadv port s
  | .preempt port => Sys2Proof.Machine.execPreempt port s
  | .functionLevelReset tenant => Sys2Proof.Machine.execFunctionLevelReset tenant s
  | .hotReset port => Sys2Proof.Machine.execHotReset port s
  | .coldReset => Sys2Proof.Machine.execColdReset s
  | .ready crpa => Sys2Proof.Machine.execReady crpa s
  | .correctedError p => Sys2Proof.Machine.execCorrectedError p s

end Sys2Proof.Machine
end

