-- ==== Sys2Proof/Machine/Guard.lean ====
section
/-! DEFINITION. Uncorrectable errors in vector registers, tiles and latches (R340, R166, R218): which bits an instruction
reads, and the MCHECK of one that reads a failed bit. The data of a whole-register, mask or narrowing store is looked
at where the store reads it. -/

namespace Sys2Proof.Machine

/-- Elements of `w` bits of the group that starts at `v`: the element of the instruction that reads, and the one read.
-/
structure Src where
  v : Reg
  w : Nat
  els : List (Nat × Nat)
  deriving DecidableEq, Repr

/-- Elements read under their own numbers. -/
def Src.same (v : Reg) (w : Nat) (l : List Nat) : Src := ⟨v, w, l.map fun i => (i, i)⟩

/-- Active elements. -/
def Hart.act (h : Hart) (m : Bool) : List Nat := (List.range h.vc.vl).filter (h.active m)

/-- The bits of v0 that a masked form reads. -/
def Hart.maskSrc (h : Hart) (m : Bool) : List Src := if m then [.same 0 1 (h.act false)] else []

/-- Operand b, unless it is a scalar. -/
def Hart.second (h : Hart) (v : VArgs) : List Src := if v.w then [] else [.same v.b h.ew (h.act v.m)]

/-- Operands a and b of width `w`, and the destination of width `acc` where it is read too (0: it is not). -/
def Hart.binary (h : Hart) (v : VArgs) (w acc : Nat) : List Src :=
  h.maskSrc v.m ++ .same v.a w (h.act v.m) :: h.second v ++ (if acc = 0 then [] else [.same v.d acc (h.act v.m)])

/-- The elements of a reduction, with the accumulator in element 0 of vb (R203). -/
def Hart.reduction (h : Hart) (v : VArgs) : List Src :=
  h.maskSrc v.m ++ .same v.a h.ew (h.act v.m) :: (if v.w then [] else [.same v.b h.ew [0]])

/-- The elements that a gather picks. -/
def Hart.gathered (h : Hart) (v : VArgs) : List Src :=
  [⟨v.a, h.ew, ((h.act v.m).map fun i =>
    (i, if v.w then (h.getX v.b).toNat % 2 ^ h.ew else h.elem v.b.val i h.ew)).filter (·.2 < h.vlmax)⟩]

/-- The elements that a slide by `n` picks. -/
def Hart.slid (h : Hart) (a : Reg) (m up : Bool) (n top : Nat) : List Src :=
  [⟨a, h.ew, if up then ((h.act m).filter (n ≤ ·)).map fun i => (i, i - n)
    else ((h.act m).map fun i => (i, i + n)).filter (·.2 < top)⟩]

/-- What an unordered form has still to read: nothing for an element whose completion bit is set (R46). -/
def Hart.left (h : Hart) (l : List Src) : List Src :=
  l.map fun x => { x with els := x.els.filter fun e => !h.vc.ecm.getLsbD e.1 }

/-- What an instruction reads of the vector registers; no row that is missing here reads one before its own check. -/
def Hart.reads (h : Hart) : Instr → List Src
  | .ecmwr a => [.same a 1 (List.range h.hr.evl.toNat)]
  | .vld _ _ m _ _ _ => h.maskSrc m
  | .vlds _ _ _ m _ _ _ => h.maskSrc m
  | .vldxu _ _ b m _ _ _ => h.left (h.maskSrc m ++ [.same b h.ew (h.act m)])
  | .vldxo _ _ b m _ _ _ => h.maskSrc m ++ [.same b h.ew (h.act m)]
  | .vldseg _ _ _ m _ _ _ => h.maskSrc m
  | .vldf _ _ m _ _ _ => h.maskSrc m
  | .vldfs _ _ _ m _ _ _ => h.maskSrc m
  | .vldfxu _ _ b m _ _ _ => h.left (h.maskSrc m ++ [.same b h.ew (h.act m)])
  | .vldfxo _ _ b m _ _ _ => h.maskSrc m ++ [.same b h.ew (h.act m)]
  | .vldfseg _ _ _ m _ _ _ => h.maskSrc m
  | .vst s _ m _ f => if f.toNat < 4 then h.maskSrc m ++ [.same s h.ew (h.act m)] else []
  | .vsts s _ _ m _ _ => h.maskSrc m ++ [.same s h.ew (h.act m)]
  | .vstxu s _ b m _ _ => h.left (h.maskSrc m ++ [.same s h.ew (h.act m), .same b h.ew (h.act m)])
  | .vstxo s _ b m _ _ => h.maskSrc m ++ [.same s h.ew (h.act m), .same b h.ew (h.act m)]
  | .vstseg s _ n m _ _ =>
    h.maskSrc m ++ (List.range (n.toNat + 2)).map fun f => .same (vreg (s.val + f * h.grp)) h.ew (h.act m)
  | .vadd v => h.binary v h.ew 0
  | .vsub v => h.binary v h.ew 0
  | .vrsub v => h.binary v h.ew 0
  | .vminS v => h.binary v h.ew 0
  | .vminZ v => h.binary v h.ew 0
  | .vmaxS v => h.binary v h.ew 0
  | .vmaxZ v => h.binary v h.ew 0
  | .vand v => h.binary v h.ew 0
  | .vor v => h.binary v h.ew 0
  | .vxor v => h.binary v h.ew 0
  | .vsll v => h.binary v h.ew 0
  | .vsrl v => h.binary v h.ew 0
  | .vsra v => h.binary v h.ew 0
  | .vmul v => h.binary v h.ew 0
  | .vmulhS v => h.binary v h.ew 0
  | .vmulhZ v => h.binary v h.ew 0
  | .vdivS v => h.binary v h.ew 0
  | .vdivZ v => h.binary v h.ew 0
  | .vremS v => h.binary v h.ew 0
  | .vremZ v => h.binary v h.ew 0
  | .vmacc v => h.binary v h.ew h.ew
  | .vnmsac v => h.binary v h.ew h.ew
  | .vmerge _ a b _ w => .same 0 1 (h.act false) :: .same a h.ew ((h.act false).filter fun i => !h.maskBit 0 i) ::
      (if w then [] else [.same b h.ew ((h.act false).filter (h.maskBit 0))])
  | .vmv _ b m _ w => h.maskSrc m ++ (if w then [] else [.same b h.ew (h.act m)])
  | .vwaddS v => h.binary v h.ew 0
  | .vwaddZ v => h.binary v h.ew 0
  | .vwsubS v => h.binary v h.ew 0
  | .vwsubZ v => h.binary v h.ew 0
  | .vwmulS v => h.binary v h.ew 0
  | .vwmulZ v => h.binary v h.ew 0
  | .vwmaccS v => h.binary v h.ew (2 * h.ew)
  | .vwmaccZ v => h.binary v h.ew (2 * h.ew)
  | .vcrc v => h.binary v h.ew h.ew
  | .vhash v => h.binary v h.ew h.ew
  | .vsaddS v => h.binary v h.ew 0
  | .vsaddZ v => h.binary v h.ew 0
  | .vssubS v => h.binary v h.ew 0
  | .vssubZ v => h.binary v h.ew 0
  | .vaaddS v => h.binary v h.ew 0
  | .vaaddZ v => h.binary v h.ew 0
  | .vasubS v => h.binary v h.ew 0
  | .vasubZ v => h.binary v h.ew 0
  | .vsmulS v => h.binary v h.ew 0
  | .vssraS v => h.binary v h.ew 0
  | .vssrlZ v => h.binary v h.ew 0
  | .vnclipS v => h.maskSrc v.m ++ .same v.a (2 * h.ew) (h.act v.m) :: h.second v
  | .vnclipZ v => h.maskSrc v.m ++ .same v.a (2 * h.ew) (h.act v.m) :: h.second v
  | .vnclipSu v => h.maskSrc v.m ++ .same v.a (2 * h.ew) (h.act v.m) :: h.second v
  | .vdot4S v => h.binary v h.ew h.ew
  | .vdot4Z v => h.binary v h.ew h.ew
  | .vdot4Su v => h.binary v h.ew h.ew
  | .vmseq v => h.binary v h.ew 0
  | .vmsne v => h.binary v h.ew 0
  | .vmsltS v => h.binary v h.ew 0
  | .vmsltZ v => h.binary v h.ew 0
  | .vmsleS v => h.binary v h.ew 0
  | .vmsleZ v => h.binary v h.ew 0
  | .vmsgtS v => h.binary v h.ew 0
  | .vmsgtZ v => h.binary v h.ew 0
  | .vmsgeS v => h.binary v h.ew 0
  | .vmsgeZ v => h.binary v h.ew 0
  | .vmand _ a b _ => [.same a 1 (h.act false), .same b 1 (h.act false)]
  | .vmor _ a b _ => [.same a 1 (h.act false), .same b 1 (h.act false)]
  | .vmxor _ a b _ => [.same a 1 (h.act false), .same b 1 (h.act false)]
  | .vmandn _ a b _ => [.same a 1 (h.act false), .same b 1 (h.act false)]
  | .vmorn _ a b _ => [.same a 1 (h.act false), .same b 1 (h.act false)]
  | .vmnand _ a b _ => [.same a 1 (h.act false), .same b 1 (h.act false)]
  | .vmnor _ a b _ => [.same a 1 (h.act false), .same b 1 (h.act false)]
  | .vmxnor _ a b _ => [.same a 1 (h.act false), .same b 1 (h.act false)]
  | .vcpop _ a m => h.maskSrc m ++ [.same a 1 (h.act m)]
  | .vfirst _ a m => h.maskSrc m ++ [.same a 1 (h.act m)]
  | .vmsbf _ a m _ => h.maskSrc m ++ [.same a 1 (h.act m)]
  | .vmsif _ a m _ => h.maskSrc m ++ [.same a 1 (h.act m)]
  | .vmsof _ a m _ => h.maskSrc m ++ [.same a 1 (h.act m)]
  | .vslideup _ a b m _ => h.maskSrc m ++ h.slid a m true (h.getX b).toNat 0
  | .vslidedown _ a b m _ => h.maskSrc m ++ h.slid a m false (h.getX b).toNat h.vlmax
  | .vslide1up _ a _ m _ => h.maskSrc m ++ h.slid a m true 1 0
  | .vslide1down _ a _ m _ => h.maskSrc m ++ h.slid a m false 1 h.vc.vl
  | .vrgather v => h.maskSrc v.m ++ h.gathered v ++ h.second v
  | .vcompress _ a b _ => .same b 1 (h.act false) :: [.same a h.ew ((h.act false).filter (h.maskBit b))]
  | .vexpand _ a b _ => .same b 1 (h.act false) ::
      [.same a h.ew (List.range ((h.act false).filter (h.maskBit b)).length)]
  | .vid _ m _ => h.maskSrc m
  | .vmvXs _ a => [.same a h.ew [0]]
  | .vmvSx _ _ m _ => (h.maskSrc m).map fun x => { x with els := x.els.filter (·.1 == 0) }
  | .vscanadd v => h.maskSrc v.m ++ [.same v.a h.ew (h.act v.m)]
  | .vscanaddSg _ a _ _ _ => .same 0 1 (h.act false) :: [.same a h.ew (h.act false)]
  | .vsortkZ _ a _ => [.same a h.ew (h.act false)]
  | .vsortkS _ a _ => [.same a h.ew (h.act false)]
  | .vsortkdZ _ a _ => [.same a h.ew (h.act false)]
  | .vsortkdS _ a _ => [.same a h.ew (h.act false)]
  | .vfadd v _ => h.binary v h.ew 0
  | .vfsub v _ => h.binary v h.ew 0
  | .vfrsub v _ => h.binary v h.ew 0
  | .vfmul v _ => h.binary v h.ew 0
  | .vfdiv v _ => h.binary v h.ew 0
  | .vfrdiv v _ => h.binary v h.ew 0
  | .vfmin v _ => h.binary v h.ew 0
  | .vfmax v _ => h.binary v h.ew 0
  | .vfsgnj v _ => h.binary v h.ew 0
  | .vfsgnjn v _ => h.binary v h.ew 0
  | .vfsgnjx v _ => h.binary v h.ew 0
  | .vfmacc v _ => h.binary v h.ew h.ew
  | .vfnmacc v _ => h.binary v h.ew h.ew
  | .vfmsac v _ => h.binary v h.ew h.ew
  | .vfnmsac v _ => h.binary v h.ew h.ew
  | .vmfeq v _ => h.binary v h.ew 0
  | .vmfne v _ => h.binary v h.ew 0
  | .vmflt v _ => h.binary v h.ew 0
  | .vmfle v _ => h.binary v h.ew 0
  | .vmfgt v _ => h.binary v h.ew 0
  | .vmfge v _ => h.binary v h.ew 0
  | .vfclass _ a m _ _ => h.maskSrc m ++ [.same a h.ew (h.act m)]
  | .vfcvtiS _ a m _ _ => h.maskSrc m ++ [.same a h.ew (h.act m)]
  | .vfcvtiZ _ a m _ _ => h.maskSrc m ++ [.same a h.ew (h.act m)]
  | .vfcvtfS _ a m _ _ => h.maskSrc m ++ [.same a h.ew (h.act m)]
  | .vfcvtfZ _ a m _ _ => h.maskSrc m ++ [.same a h.ew (h.act m)]
  | .vfwcvt _ a m _ _ => h.maskSrc m ++ [.same a h.ew (h.act m)]
  | .vfncvt _ a m _ _ => h.maskSrc m ++ [.same a (2 * h.ew) (h.act m)]
  | .vfwmacc v _ => h.binary v h.ew (2 * h.ew)
  | .vfdot2 v _ => h.binary v h.ew h.ew
  | .vfredsum v _ => h.reduction v
  | .vfredsumO v _ => h.reduction v
  | .vfredmax v _ => h.reduction v
  | .vfredmin v _ => h.reduction v
  | .vfredsumSg _ a _ _ _ _ => .same 0 1 (h.act false) :: [.same a h.ew (h.act false)]
  | .vfscan v _ => h.maskSrc v.m ++ [.same v.a h.ew (h.act v.m)]
  | .vfscanO v _ => h.maskSrc v.m ++ [.same v.a h.ew (h.act v.m)]
  | .vfscanSg _ a _ _ _ _ => .same 0 1 (h.act false) :: [.same a h.ew (h.act false)]
  | .vfargmax _ a m _ => h.maskSrc m ++ [.same a h.ew (h.act m)]
  | .vfargmin _ a m _ => h.maskSrc m ++ [.same a h.ew (h.act m)]
  | .vredsum v => h.reduction v
  | .vredmaxS v => h.reduction v
  | .vredmaxZ v => h.reduction v
  | .vredminS v => h.reduction v
  | .vredminZ v => h.reduction v
  | .vredand v => h.reduction v
  | .vredor v => h.reduction v
  | .vredxor v => h.reduction v
  | .vredsumSg _ a _ _ _ => .same 0 1 (h.act false) :: [.same a h.ew (h.act false)]
  | .vexp2 _ a m _ _ => h.maskSrc m ++ [.same a h.ew (h.act m)]
  | .vlog2 _ a m _ _ => h.maskSrc m ++ [.same a h.ew (h.act m)]
  | .vrcp _ a m _ _ => h.maskSrc m ++ [.same a h.ew (h.act m)]
  | .vrsqrt _ a m _ _ => h.maskSrc m ++ [.same a h.ew (h.act m)]
  | .vsqrt _ a m _ _ => h.maskSrc m ++ [.same a h.ew (h.act m)]
  | .vrand _ m _ => h.maskSrc m
  | .vrandf _ m _ _ => h.maskSrc m
  | .vcdfsel _ a _ m _ => h.maskSrc m ++ [.same a h.ew (h.act m)]
  | .vsmmerge d a _ => [.same d h.ew (h.act false), .same a h.ew (h.act false)]
  | .vexitI _ a _ => [.same a 1 (List.range h.vc.vl)]
  | .vexitB _ a _ => [.same a 1 (List.range h.vc.vl)]
  | .kvxl _ _ _ c => [.same c 64 (h.act false)]
  | .kvxlm _ _ _ c => [.same c 64 (h.act false)]
  | .kvapp d _ _ _ => [.same d h.ew (h.act false)]
  | .fpush d _ => [.same d h.ew (h.act false)]
  | .tgl _ b _ m => h.maskSrc m ++ [.same b 64 (h.act m)]
  | .twr _ b _ _ => [.same b 32 (h.act false)]
  | .tfupd _ b => [.same b 32 (h.act false)]
  | .tfdnd _ b _ => [.same b 32 (h.act false)]
  | .tfsolv _ _ b _ => [.same b 32 (h.act false)]
  | .tfwr _ b row => [.same b 32 ((h.act false).filter (row.toNat ≤ ·))]
  | _ => []

/-- Whole forms: they start with VSTART 0 and resume from there. -/
def wholeRead : Instr → Bool
  | .vcpop .. | .vfirst .. | .vmsbf .. | .vmsif .. | .vmsof .. | .vcompress .. | .vexpand .. | .vscanadd ..
  | .vscanaddSg .. | .vsortkZ .. | .vsortkS .. | .vsortkdZ .. | .vsortkdS .. | .vmvXs .. | .vfredsum ..
  | .vfredsumO .. | .vfredmax .. | .vfredmin .. | .vfredsumSg .. | .vfscan .. | .vfscanO .. | .vfscanSg ..
  | .vfargmax .. | .vfargmin .. | .vredsum .. | .vredmaxS .. | .vredmaxZ .. | .vredminS .. | .vredminZ ..
  | .vredand .. | .vredor .. | .vredxor .. | .vredsumSg .. | .vcdfsel .. | .vsmmerge .. | .vexitI .. | .vexitB ..
  | .fpush .. | .kvapp .. | .ecmwr .. | .top .. | .trd .. | .twr .. | .tfupd .. | .tfdnd .. | .tfsolv .. | .tfrd ..
  | .tfwr .. | .tfsave .. => true
  | _ => false

/-- Elements (r, c) of rows `i` to `i + n - 1` and the first `k r` columns, as 64r + c. -/
def tileRows (i n : Nat) (k : Nat → Nat) : List Nat :=
  (List.range n).flatMap fun r => (List.range (k (i + r))).map fun c => 64 * (i + r) + c

/-- Steps that a TOP runs (R223). -/
def Hart.topSteps (h : Hart) (f32w oa ob : Bool) : Nat := min h.vc.vl (min (topDepth f32w oa) (topDepth f32w ob))

/-- The elements of a tile that an instruction reads. -/
def Hart.tileReads (h : Hart) : Instr → Option (Tile × List Nat)
  | .top t _ _ f32w oa ob _ _ za => match za || h.topSteps f32w oa ob == 0, shapeOf h.t.rows, shapeOf h.t.cols with
    | false, some n, some c => some (t, tileRows 0 n fun _ => c)
    | _, _, _ => none
  | .trd _ t row colw _ => some (t, (List.range h.vc.vl).map fun e =>
      let p := tileIndex row.toNat colw e
      64 * p.1 + p.2)
  | .tfupd t _ | .tfdnd t _ _ | .tfsolv _ t _ _ => some (t, tileRows 0 (h.t.tile[t]).n.toNat (· + 1))
  | .tfrd _ t row => some (t, tileRows row.toNat 1 fun _ => (h.t.tile[t]).n.toNat)
  | .tfsave t _ => some (t, tileRows 0 (h.t.tile[t]).n.toNat fun _ => 64)
  | _ => none

/-- Bytes of a latch operand that TOP reads: `n` elements at each of `steps` steps. -/
def latchBytes (f32w row hi : Bool) (n steps : Nat) : List Nat :=
  (List.range steps).flatMap fun k => (List.range n).flatMap fun i =>
    let bit := if f32w then (if row then 2048 * k + 32 * i else 2048 * i + 32 * k)
      else (if row then 2048 * k + 16 * (64 * hi.toNat + i) else 2048 * i + 16 * k)
    (List.range (if f32w then 4 else 2)).map (bit / 8 + ·)

/-- The bytes of the latches that an instruction reads. -/
def Hart.latchReads (h : Hart) : Instr → List (Latch × List Nat)
  | .top _ la lb f32w oa ob ha hb _ => match shapeOf h.t.rows, shapeOf h.t.cols with
    | some n, some c =>
      let steps := h.topSteps f32w oa ob
      [(la, latchBytes f32w oa ha n steps), (lb, latchBytes f32w ob hb c steps)]
    | _, _ => []
  | _ => []

/-- Some register, tile or latch of the hart holds an error. -/
def Hart.anyErr (h : Hart) : Bool :=
  h.v.toList.any (·.err != []) || h.t.tile.toList.any (·.err != []) || h.t.latchErr.toList.any (· != [])

/-- An instruction that has trapped: its cause and element; the hart had been given the cause 0xFF and a handler. -/
def trapped (o : Host.Outcome State Fault Refusal) : Option (BitVec 8 × Nat) :=
  match o with
  | .next t => if t.h.hr.ecause = 0xFF then none else some (t.h.hr.ecause, t.h.hr.eelem.toNat)
  | _ => none

/-- The hart with a mark by which a trap shows. -/
def Hart.marked (h : Hart) : Hart := { h with hr := { h.hr with hvec := 2, ecause := 0xFF } }

/-- Whether a trap is ahead of an MCHECK at element `e` (R41, R321). -/
def aheadOf (e : Nat) (c : BitVec 8) (el : Nat) : Bool :=
  [Cause.illegal, .priv, .stripw, .stripop, .tileown, .lostdef, .kvdesc].any (·.code == c) || decide (el < e) ||
  (el == e && c != Cause.code .fptrap)

/-- A per-element form without its final step, which an instruction that traps does not come to (R47). -/
noncomputable def unzeroed : Instr → Instr
  | .vld d a m _ f s => .vld d a m false f s
  | .vlds d a b m _ f s => .vlds d a b m false f s
  | .vldxu d a b m _ f s => .vldxu d a b m false f s
  | .vldxo d a b m _ f s => .vldxo d a b m false f s
  | .vldseg d a n m _ f s => .vldseg d a n m false f s
  | .vldf d a m _ f s => .vldf d a m false f s
  | .vldfs d a b m _ f s => .vldfs d a b m false f s
  | .vldfxu d a b m _ f s => .vldfxu d a b m false f s
  | .vldfxo d a b m _ f s => .vldfxo d a b m false f s
  | .vldfseg d a n m _ f s => .vldfseg d a n m false f s
  | .vadd v => .vadd { v with z := false }
  | .vsub v => .vsub { v with z := false }
  | .vrsub v => .vrsub { v with z := false }
  | .vminS v => .vminS { v with z := false }
  | .vminZ v => .vminZ { v with z := false }
  | .vmaxS v => .vmaxS { v with z := false }
  | .vmaxZ v => .vmaxZ { v with z := false }
  | .vand v => .vand { v with z := false }
  | .vor v => .vor { v with z := false }
  | .vxor v => .vxor { v with z := false }
  | .vsll v => .vsll { v with z := false }
  | .vsrl v => .vsrl { v with z := false }
  | .vsra v => .vsra { v with z := false }
  | .vmul v => .vmul { v with z := false }
  | .vmulhS v => .vmulhS { v with z := false }
  | .vmulhZ v => .vmulhZ { v with z := false }
  | .vdivS v => .vdivS { v with z := false }
  | .vdivZ v => .vdivZ { v with z := false }
  | .vremS v => .vremS { v with z := false }
  | .vremZ v => .vremZ { v with z := false }
  | .vmacc v => .vmacc { v with z := false }
  | .vnmsac v => .vnmsac { v with z := false }
  | .vmerge d a b _ w => .vmerge d a b false w
  | .vmv d b m _ w => .vmv d b m false w
  | .vwaddS v => .vwaddS { v with z := false }
  | .vwaddZ v => .vwaddZ { v with z := false }
  | .vwsubS v => .vwsubS { v with z := false }
  | .vwsubZ v => .vwsubZ { v with z := false }
  | .vwmulS v => .vwmulS { v with z := false }
  | .vwmulZ v => .vwmulZ { v with z := false }
  | .vwmaccS v => .vwmaccS { v with z := false }
  | .vwmaccZ v => .vwmaccZ { v with z := false }
  | .vcrc v => .vcrc { v with z := false }
  | .vhash v => .vhash { v with z := false }
  | .vsaddS v => .vsaddS { v with z := false }
  | .vsaddZ v => .vsaddZ { v with z := false }
  | .vssubS v => .vssubS { v with z := false }
  | .vssubZ v => .vssubZ { v with z := false }
  | .vaaddS v => .vaaddS { v with z := false }
  | .vaaddZ v => .vaaddZ { v with z := false }
  | .vasubS v => .vasubS { v with z := false }
  | .vasubZ v => .vasubZ { v with z := false }
  | .vsmulS v => .vsmulS { v with z := false }
  | .vssraS v => .vssraS { v with z := false }
  | .vssrlZ v => .vssrlZ { v with z := false }
  | .vnclipS v => .vnclipS { v with z := false }
  | .vnclipZ v => .vnclipZ { v with z := false }
  | .vnclipSu v => .vnclipSu { v with z := false }
  | .vdot4S v => .vdot4S { v with z := false }
  | .vdot4Z v => .vdot4Z { v with z := false }
  | .vdot4Su v => .vdot4Su { v with z := false }
  | .vmseq v => .vmseq { v with z := false }
  | .vmsne v => .vmsne { v with z := false }
  | .vmsltS v => .vmsltS { v with z := false }
  | .vmsltZ v => .vmsltZ { v with z := false }
  | .vmsleS v => .vmsleS { v with z := false }
  | .vmsleZ v => .vmsleZ { v with z := false }
  | .vmsgtS v => .vmsgtS { v with z := false }
  | .vmsgtZ v => .vmsgtZ { v with z := false }
  | .vmsgeS v => .vmsgeS { v with z := false }
  | .vmsgeZ v => .vmsgeZ { v with z := false }
  | .vmand d a b _ => .vmand d a b false
  | .vmor d a b _ => .vmor d a b false
  | .vmxor d a b _ => .vmxor d a b false
  | .vmandn d a b _ => .vmandn d a b false
  | .vmorn d a b _ => .vmorn d a b false
  | .vmnand d a b _ => .vmnand d a b false
  | .vmnor d a b _ => .vmnor d a b false
  | .vmxnor d a b _ => .vmxnor d a b false
  | .vslideup d a b m _ => .vslideup d a b m false
  | .vslidedown d a b m _ => .vslidedown d a b m false
  | .vslide1up d a b m _ => .vslide1up d a b m false
  | .vslide1down d a b m _ => .vslide1down d a b m false
  | .vrgather v => .vrgather { v with z := false }
  | .vid d m _ => .vid d m false
  | .vmvSx d b m _ => .vmvSx d b m false
  | .vfadd v h => .vfadd { v with z := false } h
  | .vfsub v h => .vfsub { v with z := false } h
  | .vfrsub v h => .vfrsub { v with z := false } h
  | .vfmul v h => .vfmul { v with z := false } h
  | .vfdiv v h => .vfdiv { v with z := false } h
  | .vfrdiv v h => .vfrdiv { v with z := false } h
  | .vfmin v h => .vfmin { v with z := false } h
  | .vfmax v h => .vfmax { v with z := false } h
  | .vfsgnj v h => .vfsgnj { v with z := false } h
  | .vfsgnjn v h => .vfsgnjn { v with z := false } h
  | .vfsgnjx v h => .vfsgnjx { v with z := false } h
  | .vfmacc v h => .vfmacc { v with z := false } h
  | .vfnmacc v h => .vfnmacc { v with z := false } h
  | .vfmsac v h => .vfmsac { v with z := false } h
  | .vfnmsac v h => .vfnmsac { v with z := false } h
  | .vmfeq v h => .vmfeq { v with z := false } h
  | .vmfne v h => .vmfne { v with z := false } h
  | .vmflt v h => .vmflt { v with z := false } h
  | .vmfle v h => .vmfle { v with z := false } h
  | .vmfgt v h => .vmfgt { v with z := false } h
  | .vmfge v h => .vmfge { v with z := false } h
  | .vfclass d a m _ h => .vfclass d a m false h
  | .vfcvtiS d a m _ h => .vfcvtiS d a m false h
  | .vfcvtiZ d a m _ h => .vfcvtiZ d a m false h
  | .vfcvtfS d a m _ h => .vfcvtfS d a m false h
  | .vfcvtfZ d a m _ h => .vfcvtfZ d a m false h
  | .vfwcvt d a m _ h => .vfwcvt d a m false h
  | .vfncvt d a m _ h => .vfncvt d a m false h
  | .vfwmacc v h => .vfwmacc { v with z := false } h
  | .vfdot2 v h => .vfdot2 { v with z := false } h
  | .vexp2 d a m _ h => .vexp2 d a m false h
  | .vlog2 d a m _ h => .vlog2 d a m false h
  | .vrcp d a m _ h => .vrcp d a m false h
  | .vrsqrt d a m _ h => .vrsqrt d a m false h
  | .vsqrt d a m _ h => .vsqrt d a m false h
  | .vrand d m _ => .vrand d m false
  | .vrandf d m _ h => .vrandf d m false h
  | .vscanadd v => .vscanadd { v with z := false }
  | .vscanaddSg d a b _ w => .vscanaddSg d a b false w
  | i => i

/-- What performs the elements of an instruction below `e` and nothing else. VSLIDE1DOWN, whose last element is that of
VL, is performed as the slide by X(1) = 1 that its lower elements are. -/
noncomputable def below (e : Nat) (i : Instr) (h : Hart) : Instr × Hart :=
  let h := { h with vc := { h.vc with vl := e } }
  match i with
  | .vslide1down d a _ m _ => (.vslidedown d a 1 m false, h.setX 1 1)
  | _ => (unzeroed i, h)

/-- The hart behind the elements below `e`: what no element changes as it stood, the completion mask of an unordered
access with them in it (R21). -/
def Hart.upTo (s : Hart) (i : Instr) (e : Nat) (h : Hart) : Hart :=
  let done (m : Bool) : BitVec 16384 := ((List.range e).filter (s.active m)).foldl (fun x k => x ||| 1 <<< k) s.vc.ecm
  let ecm : BitVec 16384 := match i with
    | .vldxu _ _ _ m _ _ _ | .vldfxu _ _ _ m _ _ _ | .vstxu _ _ _ m _ _ => if s.ms.strip.isSome then 0 else done m
    | _ => 0
  { h with
    x := s.x
    pc := s.pc
    pcHi := s.pcHi
    lp := s.lp
    f := { h.f with rctrl := s.f.rctrl, rctrh := s.f.rctrh }
    vc := { h.vc with vl := s.vc.vl, vff := s.vc.vff, ecm := if h.vc.ecm = 0 then ecm else h.vc.ecm } }

/-- The state in which an instruction comes to its element `e`, the elements below it performed; none where it does not
come there: it traps, waits or stops before, or a suppressed fault has ended its elements (R248). -/
noncomputable def comesTo (i : Instr) (e : Nat) (s : State) : Option State :=
  if e ≤ s.h.vc.vstart.toNat then some s
  else
    let b := below e i s.h
    match exec b.1 { s with h := b.2 }, trapped (exec b.1 { s with h := b.2.marked }) with
    | .next t, none =>
      if t.h.db.waited = some s.cycle ∨ t.h.vc.vstart ≠ 0 ∨ t.h.vc.ecm ≠ 0 ∨ t.h.vc.vl < e then none
      else some { t with h := s.h.upTo i e t.h }
    | _, _ => none

/-- Forms whose elements read the registers as the elements below have left them (R46, R167, R182). -/
def stepwise : Instr → Bool
  | .vscanadd .. | .vscanaddSg .. => true
  | i => !wholeRead i

/-- The elements of an instruction that read bits in error of the vector registers. -/
def Hart.failing (h : Hart) (i : Instr) : List Nat :=
  (h.reads i).flatMap fun s => (s.els.filter fun e => h.badElem s.v.val e.2 s.w).map (·.1)

/-- The lowest element of an instruction that reads bits in error; that it, and not the element read, is the EELEM of a
slide or a gather follows from R21 (notes/assumptions/38.md). -/
noncomputable def State.errRead (s : State) (i : Instr) : Option Nat :=
  let tile := match s.h.tileReads i with
    | some (t, es) => es.any (s.h.t.tile[t]).err.contains
    | none => false
  let latch := (s.h.latchReads i).any fun p => p.2.any (s.h.t.latchErr[p.1]).contains
  if tile || latch then some 0
  else if s.h.reads i = [] then none
  else if stepwise i then
    (List.range s.h.vc.vl).find? fun e => (comesTo i e s).any fun t => (t.h.failing i).contains e
  else match s.h.failing i with
    | [] => none
    | e :: r => some (r.foldl min e)

/-- An instruction whose lowest failed element is `e`: elements below `e` are performed, then MCHECK is taken with
EADDR 0 at `e`, no element from `e` on being changed (R21, R340); a whole form performs nothing. -/
noncomputable def atErr (i : Instr) (e : Nat) (s : State) : Host.Outcome State Fault Refusal :=
  match trapped (exec i { s with h := s.h.marked }) with
  | some (c, el) => if aheadOf e c el then exec i s else check
  | none => check
where
  check : Host.Outcome State Fault Refusal :=
    if wholeRead i || decide (e ≤ s.h.vc.vstart.toNat) then .next (takeTrapAt .mcheck s.h.vc.vstart.toNat e 0 s)
    else match comesTo i e s with
      | some u => .next (takeTrap .mcheck e 0 u)
      | none => exec i s

/-- The meaning of an instruction with the errors of the hart's own storage in view. -/
noncomputable def execChecked (i : Instr) (s : State) : Host.Outcome State Fault Refusal :=
  if s.h.anyErr then
    match s.errRead i with
    | some e => atErr i e s
    | none => exec i s
  else exec i s

end Sys2Proof.Machine
end

