-- ==== Sys2Proof/Machine/Step.lean ====
section
/-! DEFINITION. One step: an input that is due, or an event or the next instruction of the hart that moves next; then
what the device does by itself, the clock, and the choice of the next hart. -/

namespace Sys2Proof.Machine

/-- The end of every step. -/
def State.endOfStep (s : State) : State := (State.nextHart s.others.length s.settle.tickClock)

/-- One step of the machine. -/
noncomputable def step (s : State) : Host.Outcome State Fault Refusal :=
  match s.dueEvent with
  | some (i, s') => andThen (fun t => ({ t with issue := [] }.again i).endOfStep) (exec i (s'.issueFor i))
  | none =>
    if !s.h.runs then .next s.endOfStep
    else match s.takeEvent with
    | some s' => .next s'.endOfStep
    | none =>
      andThen (fun t => (State.endStep s.h.pc s.h.handler ((t.endOfInstr s.h.pc).actWatch s.h.vc.vstart)).endOfStep)
        (match fetched s with
        | .ok (i, s') => execChecked i s'
        | .error o => o)

/-- `s` with an opcode-table word where `step` fetches next. -/
def State.withFetchWord (s : State) (nbits w : Nat) : State := s.placeWord (toBytes 8 (w % 2 ^ nbits))

end Sys2Proof.Machine
end

