-- ==== Sys2Proof/Laws/Pack.lean ====
section
/-! SUPPORT. Fields of packed words, and which decoder a packed word reaches. -/

namespace Sys2Proof

/-- The width of a packed word. -/
def widthOf : List (Nat × Nat) → Nat
  | [] => 0
  | p :: r => p.1 + widthOf r

theorem pack_lt (l : List (Nat × Nat)) : pack l < 2 ^ widthOf l := by
  induction l with
  | nil => simp [pack, widthOf]
  | cons p r ih =>
    have h := Nat.mod_lt p.2 (Nat.two_pow_pos p.1)
    have h2 : 2 ^ p.1 * (pack r + 1) ≤ 2 ^ p.1 * 2 ^ widthOf r := Nat.mul_le_mul_left _ ih
    simp only [pack, widthOf, pow_add]
    rw [Nat.mul_add] at h2
    omega

theorem pack_append (l r : List (Nat × Nat)) : pack (l ++ r) = pack l + 2 ^ widthOf l * pack r := by
  induction l with
  | nil => simp [pack, widthOf]
  | cons p l ih => simp [pack, widthOf, ih, pow_add]; ring

theorem fld_low (l r : List (Nat × Nat)) : fld (pack (l ++ r)) 0 (widthOf l) = pack l := by
  simp [fld, pack_append, Nat.mod_eq_of_lt (pack_lt l)]

theorem fld_high (l r : List (Nat × Nat)) : fld (pack (l ++ r)) (widthOf l) (widthOf r) = pack r := by
  simp [fld, pack_append, Nat.add_mul_div_left _ _ (Nat.two_pow_pos _), Nat.div_eq_of_lt (pack_lt l),
    Nat.mod_eq_of_lt (pack_lt r)]

theorem fld_pack_hit (n v : Nat) (r : List (Nat × Nat)) : fld (pack ((n, v) :: r)) 0 n = v % 2 ^ n := by
  simp [fld, pack]

theorem fld_pack_skip (n v lo k : Nat) (r : List (Nat × Nat)) (h : n ≤ lo) :
    fld (pack ((n, v) :: r)) lo k = fld (pack r) (lo - n) k := by
  have e : 2 ^ lo = 2 ^ n * 2 ^ (lo - n) := by rw [← pow_add]; congr 1; omega
  simp only [fld, pack]
  rw [e, ← Nat.div_div_eq_div_mul]
  congr 2
  rw [Nat.add_mul_div_left _ _ (by positivity), Nat.div_eq_of_lt (Nat.mod_lt _ (by positivity)), Nat.zero_add]

/-- A field that spans several packed ones. -/
theorem fld_pack_wide (n v k : Nat) (r : List (Nat × Nat)) (h : n < k) :
    fld (pack ((n, v) :: r)) 0 k = v % 2 ^ n + 2 ^ n * fld (pack r) 0 (k - n) := by
  have e : 2 ^ k = 2 ^ n * 2 ^ (k - n) := by rw [← pow_add]; congr 1; omega
  simp only [fld, pack, pow_zero, Nat.div_one]
  rw [e, Nat.mod_mul, Nat.add_mul_mod_self_left, Nat.mod_mod, Nat.add_mul_div_left _ _ (by positivity),
    Nat.div_eq_of_lt (Nat.mod_lt _ (by positivity)), Nat.zero_add]

theorem fld_pack_lit (n v : Nat) (r : List (Nat × Nat)) (h : v < 2 ^ n) : fld (pack ((n, v) :: r)) 0 n = v := by
  rw [fld_pack_hit, Nat.mod_eq_of_lt h]

theorem fld_pack_fin {k : Nat} (n c : Nat) (d : Fin k) (r : List (Nat × Nat)) (h : k + c ≤ 2 ^ n) :
    fld (pack ((n, d.val + c) :: r)) 0 n = d.val + c := fld_pack_lit n _ r (by omega)

theorem fld_pack_reg (d : Reg) (r : List (Nat × Nat)) : fld (pack ((5, d.val) :: r)) 0 5 = d.val :=
  fld_pack_lit 5 _ r d.isLt

theorem fld_pack_bv {n : Nat} (x : BitVec n) (r : List (Nat × Nat)) : fld (pack ((n, x.toNat) :: r)) 0 n = x.toNat :=
  fld_pack_lit n _ r x.isLt

theorem fld_pack_bit (b : Bool) (r : List (Nat × Nat)) : fld (pack ((1, b.toNat) :: r)) 0 1 = b.toNat :=
  fld_pack_lit 1 _ r (by cases b <;> decide)

theorem fld_pack_tile (t : Tile) (r : List (Nat × Nat)) : fld (pack ((5, t.val) :: r)) 0 5 = t.val :=
  fld_pack_lit 5 _ r (by omega)

theorem fld_pack_sel (t : Fin 6) (r : List (Nat × Nat)) : fld (pack ((5, t.val) :: r)) 0 5 = t.val :=
  fld_pack_lit 5 _ r (by omega)

theorem fld_pack_latch (l : Latch) (r : List (Nat × Nat)) : fld (pack ((5, l.val + 4) :: r)) 0 5 = l.val + 4 :=
  fld_pack_lit 5 _ r (by omega)

theorem tileOf_val (t : Tile) : tileOf t.val = some t := by simp [tileOf]

theorem selOf_val (t : Fin 6) : selOf t.val = some t := by simp [selOf]

theorem latchOf_val (l : Latch) : latchOf (l.val + 4) = some l := by simp [latchOf]; omega

/-- The low part of a widened immediate. -/
theorem fld_pack_low {n : Nat} (k : Nat) (x : BitVec n) (r : List (Nat × Nat)) :
    fld (pack ((k, x.toNat % 2 ^ k) :: r)) 0 k = x.toNat % 2 ^ k := fld_pack_lit k _ r (Nat.mod_lt _ (by positivity))

theorem fld_pack_high15 (x : BitVec 41) (r : List (Nat × Nat)) :
    fld (pack ((26, x.toNat / 2 ^ 15) :: r)) 0 26 = x.toNat / 2 ^ 15 := fld_pack_lit 26 _ r (by omega)

theorem fld_pack_high12 (x : BitVec 38) (r : List (Nat × Nat)) :
    fld (pack ((26, x.toNat / 2 ^ 12) :: r)) 0 26 = x.toNat / 2 ^ 12 := fld_pack_lit 26 _ r (by omega)

theorem join15 (x : BitVec 41) : BitVec.ofNat 41 (x.toNat / 2 ^ 15 * 2 ^ 15 + (BitVec.ofNat 15 (x.toNat % 2 ^ 15)).toNat) = x := by
  apply BitVec.eq_of_toNat_eq
  simp only [BitVec.toNat_ofNat]
  omega

theorem join12 (x : BitVec 38) : BitVec.ofNat 38 (x.toNat / 2 ^ 12 * 2 ^ 12 + (BitVec.ofNat 12 (x.toNat % 2 ^ 12)).toNat) = x := by
  apply BitVec.eq_of_toNat_eq
  simp only [BitVec.toNat_ofNat]
  omega

theorem ofNat_reg (r : Reg) : Fin.ofNat 32 r.val = r := by
  apply Fin.ext
  simp only [Fin.ofNat, Nat.mod_eq_of_lt r.isLt]

theorem ofNat_toNat_bv {n : Nat} (x : BitVec n) : BitVec.ofNat n x.toNat = x := by
  apply BitVec.eq_of_toNat_eq
  simp

theorem flag_bit (b : Bool) : (b.toNat == 1) = b := by cases b <;> rfl

theorem checked_ok (i : Instr) (h : i.wf = true) : checked (.ok i) = .ok i := by simp [checked, h]

/-- A packed word of 32 bits. -/
theorem decode_word32 (r : List (Nat × Nat)) (h : widthOf r = 31) :
    decode (pack ((1, 0) :: r)) = checked (decode32 (pack ((1, 0) :: r))) := by
  have e : fld (pack ((1, 0) :: r)) 0 32 = pack ((1, 0) :: r) := by
    have := fld_low ((1, 0) :: r) []
    simpa [widthOf, h] using this
  have e2 : fld (pack ((1, 0) :: r)) 0 2 = 0 ∨ fld (pack ((1, 0) :: r)) 0 2 = 2 := by
    simp [fld, pack]; omega
  unfold decode
  rcases e2 with e2 | e2 <;> simp only [e2, e]

/-- A packed parcel. -/
theorem decode_word16 (r : List (Nat × Nat)) (h : widthOf r = 14) :
    decode (pack ((2, 1) :: r)) = checked (decode16 (pack ((2, 1) :: r))) := by
  have e : fld (pack ((2, 1) :: r)) 0 16 = pack ((2, 1) :: r) := by
    have := fld_low ((2, 1) :: r) []
    simpa [widthOf, h] using this
  have e2 : fld (pack ((2, 1) :: r)) 0 2 = 1 := fld_pack_lit 2 1 r (by decide)
  unfold decode
  simp only [e2, e]

/-- A packed prefix and body: each decoder sees its own word. -/
theorem decode_word64 (p r : List (Nat × Nat)) (h : widthOf p = 30) (h' : widthOf r = 31) :
    decode (pack (((2, 3) :: p) ++ ((1, 0) :: r))) = checked (match fld (pack ((2, 3) :: p)) 2 4 with
      | 1 => match checked (decode32 (pack ((1, 0) :: r))) with
        | .ok i => widen (fld (pack ((2, 3) :: p)) 6 26) i
        | .error e => .error e
      | 2 => if fld (pack ((1, 0) :: r)) 1 6 == 37 then decodeTile (pack ((2, 3) :: p)) (pack ((1, 0) :: r))
        else .error .pairing
      | 3 => if fld (pack ((1, 0) :: r)) 1 6 == 38 then decodeFact (pack ((2, 3) :: p)) (pack ((1, 0) :: r))
        else .error .pairing
      | _ => .error .prefixKind) := by
  have e1 : fld (pack (((2, 3) :: p) ++ ((1, 0) :: r))) 0 32 = pack ((2, 3) :: p) := by
    have := fld_low ((2, 3) :: p) ((1, 0) :: r)
    simpa [widthOf, h] using this
  have e2 : fld (pack (((2, 3) :: p) ++ ((1, 0) :: r))) 32 32 = pack ((1, 0) :: r) := by
    have := fld_high ((2, 3) :: p) ((1, 0) :: r)
    simpa [widthOf, h, h'] using this
  have e3 : fld (pack (((2, 3) :: p) ++ ((1, 0) :: r))) 0 2 = 3 := fld_pack_lit 2 3 _ (by decide)
  have e4 : fld (pack ((1, 0) :: r)) 0 1 = 0 := fld_pack_lit 1 0 _ (by decide)
  unfold decode
  simp only [e3, decode64, e1, e2, e4]
  rfl

end Sys2Proof
end

