-- ==== Sys2Proof/Laws/PerInstr.lean ====
section
/-! SUPPORT. The round trip, one lemma per constructor: what `encode` writes for a well-formed instruction, `decode`
reads back with every operand. An event has no word. -/

section

set_option linter.unusedSimpArgs false
set_option Elab.async false

/-- Decoding an instruction's own word gives it back. -/
def Sys2Proof.Laws.RoundTrip.Statement (i : Sys2Proof.Instr) : Prop :=
  ∀ w : Nat, Sys2Proof.encode i = some w → i.wf = true → Sys2Proof.decode w = .ok i

open Sys2Proof

theorem Sys2Proof.Laws.RoundTrip.Statement.of {i : Instr} {n : Nat} (he : encode i = some n)
    (hd : i.wf = true → decode n = .ok i) : Statement i := by
  intro w hw
  rw [he] at hw
  exact Option.some.inj hw ▸ hd

theorem Sys2Proof.Laws.RoundTrip.Statement.noWord {i : Instr} (he : encode i = none) : Statement i := by
  intro w hw
  rw [he] at hw
  exact absurd hw (by simp)

theorem Sys2Proof.Laws.RoundTrip.Statement.of32 {i : Instr} {r : List (Nat × Nat)}
    (he : encode i = some (pack ((1, 0) :: r))) (hr : widthOf r = 31)
    (hd : decode32 (pack ((1, 0) :: r)) = .ok i) : Statement i :=
  .of he fun hw => by rw [decode_word32 r hr, hd, checked_ok i hw]

theorem Sys2Proof.Laws.RoundTrip.Statement.of16 {i : Instr} {r : List (Nat × Nat)}
    (he : encode i = some (pack ((2, 1) :: r))) (hr : widthOf r = 14)
    (hd : decode16 (pack ((2, 1) :: r)) = .ok i) : Statement i :=
  .of he fun hw => by rw [decode_word16 r hr, hd, checked_ok i hw]

theorem Sys2Proof.Laws.RoundTrip.Statement.ofPxi {i b : Instr} {p r : List (Nat × Nat)}
    (he : encode i = some (pack (((2, 3) :: (4, 1) :: p) ++ ((1, 0) :: r)))) (hp : widthOf p = 26) (hr : widthOf r = 31)
    (hd : decode32 (pack ((1, 0) :: r)) = .ok b) (hb : b.wf = true)
    (hw : widen (fld (pack ((2, 3) :: (4, 1) :: p)) 6 26) b = .ok i) : Statement i :=
  .of he fun h => by
    rw [decode_word64 _ r (by simp [widthOf, hp]) hr, show fld (pack ((2, 3) :: (4, 1) :: p)) 2 4 = 1 by
      rw [fld_pack_skip _ _ _ _ _ (by decide), fld_pack_lit _ _ _ (by decide)]]
    simp only [hd, checked_ok b hb, hw, checked_ok i h]

theorem Sys2Proof.Laws.RoundTrip.Statement.ofTile {i : Instr} {p r : List (Nat × Nat)}
    (he : encode i = some (pack (((2, 3) :: (4, 2) :: p) ++ ((1, 0) :: (6, 37) :: r)))) (hp : widthOf p = 26)
    (hr : widthOf r = 25)
    (hd : decodeTile (pack ((2, 3) :: (4, 2) :: p)) (pack ((1, 0) :: (6, 37) :: r)) = .ok i) : Statement i :=
  .of he fun h => by
    rw [decode_word64 _ ((6, 37) :: r) (by simp [widthOf, hp]) (by simp [widthOf, hr]),
      show fld (pack ((2, 3) :: (4, 2) :: p)) 2 4 = 2 by
        rw [fld_pack_skip _ _ _ _ _ (by decide), fld_pack_lit _ _ _ (by decide)],
      show fld (pack ((1, 0) :: (6, 37) :: r)) 1 6 = 37 by
        rw [fld_pack_skip _ _ _ _ _ (by decide), fld_pack_lit _ _ _ (by decide)]]
    simp only [hd, BEq.rfl, if_true, checked_ok i h]

theorem Sys2Proof.Laws.RoundTrip.Statement.ofFact {i : Instr} {p r : List (Nat × Nat)}
    (he : encode i = some (pack (((2, 3) :: (4, 3) :: p) ++ ((1, 0) :: (6, 38) :: r)))) (hp : widthOf p = 26)
    (hr : widthOf r = 25)
    (hd : decodeFact (pack ((2, 3) :: (4, 3) :: p)) (pack ((1, 0) :: (6, 38) :: r)) = .ok i) : Statement i :=
  .of he fun h => by
    rw [decode_word64 _ ((6, 38) :: r) (by simp [widthOf, hp]) (by simp [widthOf, hr]),
      show fld (pack ((2, 3) :: (4, 3) :: p)) 2 4 = 3 by
        rw [fld_pack_skip _ _ _ _ _ (by decide), fld_pack_lit _ _ _ (by decide)],
      show fld (pack ((1, 0) :: (6, 38) :: r)) 1 6 = 38 by
        rw [fld_pack_skip _ _ _ _ _ (by decide), fld_pack_lit _ _ _ (by decide)]]
    simp only [hd, BEq.rfl, if_true, checked_ok i h]

theorem Sys2Proof.Laws.RoundTrip.addi (d a : Reg) (i : BitVec 15) : Sys2Proof.Laws.RoundTrip.Statement (.addi d a i) :=
  .of32 rfl rfl (by simp (disch := decide) only [decode32, fld_pack_reg, fld_pack_bv, fld_pack_bit, fld_pack_lit, fld_pack_skip, need, reg, bv, flag, ofNat_reg, ofNat_toNat_bv, flag_bit, Nat.reduceSub, Nat.reduceBEq, BEq.rfl, Bool.and_self, if_true])

theorem Sys2Proof.Laws.RoundTrip.andi (d a : Reg) (i : BitVec 15) : Sys2Proof.Laws.RoundTrip.Statement (.andi d a i) :=
  .of32 rfl rfl (by simp (disch := decide) only [decode32, fld_pack_reg, fld_pack_bv, fld_pack_bit, fld_pack_lit, fld_pack_skip, need, reg, bv, flag, ofNat_reg, ofNat_toNat_bv, flag_bit, Nat.reduceSub, Nat.reduceBEq, BEq.rfl, Bool.and_self, if_true])

theorem Sys2Proof.Laws.RoundTrip.ori (d a : Reg) (i : BitVec 15) : Sys2Proof.Laws.RoundTrip.Statement (.ori d a i) :=
  .of32 rfl rfl (by simp (disch := decide) only [decode32, fld_pack_reg, fld_pack_bv, fld_pack_bit, fld_pack_lit, fld_pack_skip, need, reg, bv, flag, ofNat_reg, ofNat_toNat_bv, flag_bit, Nat.reduceSub, Nat.reduceBEq, BEq.rfl, Bool.and_self, if_true])

theorem Sys2Proof.Laws.RoundTrip.xori (d a : Reg) (i : BitVec 15) : Sys2Proof.Laws.RoundTrip.Statement (.xori d a i) :=
  .of32 rfl rfl (by simp (disch := decide) only [decode32, fld_pack_reg, fld_pack_bv, fld_pack_bit, fld_pack_lit, fld_pack_skip, need, reg, bv, flag, ofNat_reg, ofNat_toNat_bv, flag_bit, Nat.reduceSub, Nat.reduceBEq, BEq.rfl, Bool.and_self, if_true])

theorem Sys2Proof.Laws.RoundTrip.sltiS (d a : Reg) (i : BitVec 15) : Sys2Proof.Laws.RoundTrip.Statement (.sltiS d a i) :=
  .of32 rfl rfl (by simp (disch := decide) only [decode32, fld_pack_reg, fld_pack_bv, fld_pack_bit, fld_pack_lit, fld_pack_skip, need, reg, bv, flag, ofNat_reg, ofNat_toNat_bv, flag_bit, Nat.reduceSub, Nat.reduceBEq, BEq.rfl, Bool.and_self, if_true])

theorem Sys2Proof.Laws.RoundTrip.sltiZ (d a : Reg) (i : BitVec 15) : Sys2Proof.Laws.RoundTrip.Statement (.sltiZ d a i) :=
  .of32 rfl rfl (by simp (disch := decide) only [decode32, fld_pack_reg, fld_pack_bv, fld_pack_bit, fld_pack_lit, fld_pack_skip, need, reg, bv, flag, ofNat_reg, ofNat_toNat_bv, flag_bit, Nat.reduceSub, Nat.reduceBEq, BEq.rfl, Bool.and_self, if_true])

theorem Sys2Proof.Laws.RoundTrip.slli (d a : Reg) (s : BitVec 6) : Sys2Proof.Laws.RoundTrip.Statement (.slli d a s) :=
  .of32 rfl rfl (by simp (disch := decide) only [decode32, decodeShi, fld_pack_reg, fld_pack_bv, fld_pack_bit, fld_pack_lit, fld_pack_skip, need, reg, bv, flag, ofNat_reg, ofNat_toNat_bv, flag_bit, Nat.reduceSub, Nat.reduceBEq, BEq.rfl, Bool.and_self, if_true])

theorem Sys2Proof.Laws.RoundTrip.srli (d a : Reg) (s : BitVec 6) : Sys2Proof.Laws.RoundTrip.Statement (.srli d a s) :=
  .of32 rfl rfl (by simp (disch := decide) only [decode32, decodeShi, fld_pack_reg, fld_pack_bv, fld_pack_bit, fld_pack_lit, fld_pack_skip, need, reg, bv, flag, ofNat_reg, ofNat_toNat_bv, flag_bit, Nat.reduceSub, Nat.reduceBEq, BEq.rfl, Bool.and_self, if_true])

theorem Sys2Proof.Laws.RoundTrip.srai (d a : Reg) (s : BitVec 6) : Sys2Proof.Laws.RoundTrip.Statement (.srai d a s) :=
  .of32 rfl rfl (by simp (disch := decide) only [decode32, decodeShi, fld_pack_reg, fld_pack_bv, fld_pack_bit, fld_pack_lit, fld_pack_skip, need, reg, bv, flag, ofNat_reg, ofNat_toNat_bv, flag_bit, Nat.reduceSub, Nat.reduceBEq, BEq.rfl, Bool.and_self, if_true])

theorem Sys2Proof.Laws.RoundTrip.rori (d a : Reg) (s : BitVec 6) : Sys2Proof.Laws.RoundTrip.Statement (.rori d a s) :=
  .of32 rfl rfl (by simp (disch := decide) only [decode32, decodeShi, fld_pack_reg, fld_pack_bv, fld_pack_bit, fld_pack_lit, fld_pack_skip, need, reg, bv, flag, ofNat_reg, ofNat_toNat_bv, flag_bit, Nat.reduceSub, Nat.reduceBEq, BEq.rfl, Bool.and_self, if_true])

theorem Sys2Proof.Laws.RoundTrip.lui (d a : Reg) (i : BitVec 15) : Sys2Proof.Laws.RoundTrip.Statement (.lui d a i) :=
  .of32 rfl rfl (by simp (disch := decide) only [decode32, fld_pack_reg, fld_pack_bv, fld_pack_bit, fld_pack_lit, fld_pack_skip, need, reg, bv, flag, ofNat_reg, ofNat_toNat_bv, flag_bit, Nat.reduceSub, Nat.reduceBEq, BEq.rfl, Bool.and_self, if_true])

theorem Sys2Proof.Laws.RoundTrip.addpc (d : Reg) (i : BitVec 15) : Sys2Proof.Laws.RoundTrip.Statement (.addpc d i) :=
  .of32 rfl rfl (by simp (disch := decide) only [decode32, fld_pack_reg, fld_pack_bv, fld_pack_bit, fld_pack_lit, fld_pack_skip, need, reg, bv, flag, ofNat_reg, ofNat_toNat_bv, flag_bit, Nat.reduceSub, Nat.reduceBEq, BEq.rfl, Bool.and_self, if_true])

theorem Sys2Proof.Laws.RoundTrip.addiPxi (d a : Reg) (i : BitVec 41) : Sys2Proof.Laws.RoundTrip.Statement (.addiPxi d a i) :=
  .ofPxi (b := .addi d a (BitVec.ofNat 15 (i.toNat % 2 ^ 15))) (p := [(26, i.toNat / 2 ^ 15)]) (r := [(6, 1), (5, d.val), (5, a.val), (15, i.toNat % 2 ^ 15)]) rfl rfl rfl
    (by simp (disch := decide) only [decode32, fld_pack_low, fld_pack_reg, fld_pack_bv, fld_pack_bit, fld_pack_lit, fld_pack_skip, need, reg, bv, flag, ofNat_reg, ofNat_toNat_bv, flag_bit, Nat.reduceSub, Nat.reduceBEq, BEq.rfl, Bool.and_self, if_true]) rfl
    (by simp (disch := decide) only [widen, fld_pack_high15, fld_pack_skip, Nat.reduceSub, join15])

theorem Sys2Proof.Laws.RoundTrip.andiPxi (d a : Reg) (i : BitVec 41) : Sys2Proof.Laws.RoundTrip.Statement (.andiPxi d a i) :=
  .ofPxi (b := .andi d a (BitVec.ofNat 15 (i.toNat % 2 ^ 15))) (p := [(26, i.toNat / 2 ^ 15)]) (r := [(6, 2), (5, d.val), (5, a.val), (15, i.toNat % 2 ^ 15)]) rfl rfl rfl
    (by simp (disch := decide) only [decode32, fld_pack_low, fld_pack_reg, fld_pack_bv, fld_pack_bit, fld_pack_lit, fld_pack_skip, need, reg, bv, flag, ofNat_reg, ofNat_toNat_bv, flag_bit, Nat.reduceSub, Nat.reduceBEq, BEq.rfl, Bool.and_self, if_true]) rfl
    (by simp (disch := decide) only [widen, fld_pack_high15, fld_pack_skip, Nat.reduceSub, join15])

theorem Sys2Proof.Laws.RoundTrip.oriPxi (d a : Reg) (i : BitVec 41) : Sys2Proof.Laws.RoundTrip.Statement (.oriPxi d a i) :=
  .ofPxi (b := .ori d a (BitVec.ofNat 15 (i.toNat % 2 ^ 15))) (p := [(26, i.toNat / 2 ^ 15)]) (r := [(6, 3), (5, d.val), (5, a.val), (15, i.toNat % 2 ^ 15)]) rfl rfl rfl
    (by simp (disch := decide) only [decode32, fld_pack_low, fld_pack_reg, fld_pack_bv, fld_pack_bit, fld_pack_lit, fld_pack_skip, need, reg, bv, flag, ofNat_reg, ofNat_toNat_bv, flag_bit, Nat.reduceSub, Nat.reduceBEq, BEq.rfl, Bool.and_self, if_true]) rfl
    (by simp (disch := decide) only [widen, fld_pack_high15, fld_pack_skip, Nat.reduceSub, join15])

theorem Sys2Proof.Laws.RoundTrip.xoriPxi (d a : Reg) (i : BitVec 41) : Sys2Proof.Laws.RoundTrip.Statement (.xoriPxi d a i) :=
  .ofPxi (b := .xori d a (BitVec.ofNat 15 (i.toNat % 2 ^ 15))) (p := [(26, i.toNat / 2 ^ 15)]) (r := [(6, 4), (5, d.val), (5, a.val), (15, i.toNat % 2 ^ 15)]) rfl rfl rfl
    (by simp (disch := decide) only [decode32, fld_pack_low, fld_pack_reg, fld_pack_bv, fld_pack_bit, fld_pack_lit, fld_pack_skip, need, reg, bv, flag, ofNat_reg, ofNat_toNat_bv, flag_bit, Nat.reduceSub, Nat.reduceBEq, BEq.rfl, Bool.and_self, if_true]) rfl
    (by simp (disch := decide) only [widen, fld_pack_high15, fld_pack_skip, Nat.reduceSub, join15])

theorem Sys2Proof.Laws.RoundTrip.sltiSPxi (d a : Reg) (i : BitVec 41) : Sys2Proof.Laws.RoundTrip.Statement (.sltiSPxi d a i) :=
  .ofPxi (b := .sltiS d a (BitVec.ofNat 15 (i.toNat % 2 ^ 15))) (p := [(26, i.toNat / 2 ^ 15)]) (r := [(6, 5), (5, d.val), (5, a.val), (15, i.toNat % 2 ^ 15)]) rfl rfl rfl
    (by simp (disch := decide) only [decode32, fld_pack_low, fld_pack_reg, fld_pack_bv, fld_pack_bit, fld_pack_lit, fld_pack_skip, need, reg, bv, flag, ofNat_reg, ofNat_toNat_bv, flag_bit, Nat.reduceSub, Nat.reduceBEq, BEq.rfl, Bool.and_self, if_true]) rfl
    (by simp (disch := decide) only [widen, fld_pack_high15, fld_pack_skip, Nat.reduceSub, join15])

theorem Sys2Proof.Laws.RoundTrip.sltiZPxi (d a : Reg) (i : BitVec 41) : Sys2Proof.Laws.RoundTrip.Statement (.sltiZPxi d a i) :=
  .ofPxi (b := .sltiZ d a (BitVec.ofNat 15 (i.toNat % 2 ^ 15))) (p := [(26, i.toNat / 2 ^ 15)]) (r := [(6, 6), (5, d.val), (5, a.val), (15, i.toNat % 2 ^ 15)]) rfl rfl rfl
    (by simp (disch := decide) only [decode32, fld_pack_low, fld_pack_reg, fld_pack_bv, fld_pack_bit, fld_pack_lit, fld_pack_skip, need, reg, bv, flag, ofNat_reg, ofNat_toNat_bv, flag_bit, Nat.reduceSub, Nat.reduceBEq, BEq.rfl, Bool.and_self, if_true]) rfl
    (by simp (disch := decide) only [widen, fld_pack_high15, fld_pack_skip, Nat.reduceSub, join15])

theorem Sys2Proof.Laws.RoundTrip.luiPxi (d a : Reg) (i : BitVec 41) : Sys2Proof.Laws.RoundTrip.Statement (.luiPxi d a i) :=
  .ofPxi (b := .lui d a (BitVec.ofNat 15 (i.toNat % 2 ^ 15))) (p := [(26, i.toNat / 2 ^ 15)]) (r := [(6, 8), (5, d.val), (5, a.val), (15, i.toNat % 2 ^ 15)]) rfl rfl rfl
    (by simp (disch := decide) only [decode32, fld_pack_low, fld_pack_reg, fld_pack_bv, fld_pack_bit, fld_pack_lit, fld_pack_skip, need, reg, bv, flag, ofNat_reg, ofNat_toNat_bv, flag_bit, Nat.reduceSub, Nat.reduceBEq, BEq.rfl, Bool.and_self, if_true]) rfl
    (by simp (disch := decide) only [widen, fld_pack_high15, fld_pack_skip, Nat.reduceSub, join15])

theorem Sys2Proof.Laws.RoundTrip.addpcPxi (d : Reg) (i : BitVec 41) : Sys2Proof.Laws.RoundTrip.Statement (.addpcPxi d i) :=
  .ofPxi (b := .addpc d (BitVec.ofNat 15 (i.toNat % 2 ^ 15))) (p := [(26, i.toNat / 2 ^ 15)]) (r := [(6, 9), (5, d.val), (5, 0), (15, i.toNat % 2 ^ 15)]) rfl rfl rfl
    (by simp (disch := decide) only [decode32, fld_pack_low, fld_pack_reg, fld_pack_bv, fld_pack_bit, fld_pack_lit, fld_pack_skip, need, reg, bv, flag, ofNat_reg, ofNat_toNat_bv, flag_bit, Nat.reduceSub, Nat.reduceBEq, BEq.rfl, Bool.and_self, if_true]) rfl
    (by simp (disch := decide) only [widen, fld_pack_high15, fld_pack_skip, Nat.reduceSub, join15])

theorem Sys2Proof.Laws.RoundTrip.jalrPxi (d a : Reg) (i : BitVec 41) : Sys2Proof.Laws.RoundTrip.Statement (.jalrPxi d a i) :=
  .ofPxi (b := .jalr d a (BitVec.ofNat 15 (i.toNat % 2 ^ 15))) (p := [(26, i.toNat / 2 ^ 15)]) (r := [(6, 18), (5, d.val), (5, a.val), (15, i.toNat % 2 ^ 15)]) rfl rfl rfl
    (by simp (disch := decide) only [decode32, fld_pack_low, fld_pack_reg, fld_pack_bv, fld_pack_bit, fld_pack_lit, fld_pack_skip, need, reg, bv, flag, ofNat_reg, ofNat_toNat_bv, flag_bit, Nat.reduceSub, Nat.reduceBEq, BEq.rfl, Bool.and_self, if_true]) rfl
    (by simp (disch := decide) only [widen, fld_pack_high15, fld_pack_skip, Nat.reduceSub, join15])

theorem Sys2Proof.Laws.RoundTrip.add (d a b : Reg) : Sys2Proof.Laws.RoundTrip.Statement (.add d a b) :=
  .of32 rfl rfl (by simp (disch := decide) only [decode32, decodeOp, fld_pack_reg, fld_pack_bv, fld_pack_bit, fld_pack_lit, fld_pack_skip, need, reg, bv, flag, ofNat_reg, ofNat_toNat_bv, flag_bit, Nat.reduceSub, Nat.reduceBEq, BEq.rfl, Bool.and_self, if_true])

theorem Sys2Proof.Laws.RoundTrip.sub (d a b : Reg) : Sys2Proof.Laws.RoundTrip.Statement (.sub d a b) :=
  .of32 rfl rfl (by simp (disch := decide) only [decode32, decodeOp, fld_pack_reg, fld_pack_bv, fld_pack_bit, fld_pack_lit, fld_pack_skip, need, reg, bv, flag, ofNat_reg, ofNat_toNat_bv, flag_bit, Nat.reduceSub, Nat.reduceBEq, BEq.rfl, Bool.and_self, if_true])

theorem Sys2Proof.Laws.RoundTrip.and (d a b : Reg) : Sys2Proof.Laws.RoundTrip.Statement (.and d a b) :=
  .of32 rfl rfl (by simp (disch := decide) only [decode32, decodeOp, fld_pack_reg, fld_pack_bv, fld_pack_bit, fld_pack_lit, fld_pack_skip, need, reg, bv, flag, ofNat_reg, ofNat_toNat_bv, flag_bit, Nat.reduceSub, Nat.reduceBEq, BEq.rfl, Bool.and_self, if_true])

theorem Sys2Proof.Laws.RoundTrip.or (d a b : Reg) : Sys2Proof.Laws.RoundTrip.Statement (.or d a b) :=
  .of32 rfl rfl (by simp (disch := decide) only [decode32, decodeOp, fld_pack_reg, fld_pack_bv, fld_pack_bit, fld_pack_lit, fld_pack_skip, need, reg, bv, flag, ofNat_reg, ofNat_toNat_bv, flag_bit, Nat.reduceSub, Nat.reduceBEq, BEq.rfl, Bool.and_self, if_true])

theorem Sys2Proof.Laws.RoundTrip.xor (d a b : Reg) : Sys2Proof.Laws.RoundTrip.Statement (.xor d a b) :=
  .of32 rfl rfl (by simp (disch := decide) only [decode32, decodeOp, fld_pack_reg, fld_pack_bv, fld_pack_bit, fld_pack_lit, fld_pack_skip, need, reg, bv, flag, ofNat_reg, ofNat_toNat_bv, flag_bit, Nat.reduceSub, Nat.reduceBEq, BEq.rfl, Bool.and_self, if_true])

theorem Sys2Proof.Laws.RoundTrip.sll (d a b : Reg) : Sys2Proof.Laws.RoundTrip.Statement (.sll d a b) :=
  .of32 rfl rfl (by simp (disch := decide) only [decode32, decodeOp, fld_pack_reg, fld_pack_bv, fld_pack_bit, fld_pack_lit, fld_pack_skip, need, reg, bv, flag, ofNat_reg, ofNat_toNat_bv, flag_bit, Nat.reduceSub, Nat.reduceBEq, BEq.rfl, Bool.and_self, if_true])

theorem Sys2Proof.Laws.RoundTrip.srl (d a b : Reg) : Sys2Proof.Laws.RoundTrip.Statement (.srl d a b) :=
  .of32 rfl rfl (by simp (disch := decide) only [decode32, decodeOp, fld_pack_reg, fld_pack_bv, fld_pack_bit, fld_pack_lit, fld_pack_skip, need, reg, bv, flag, ofNat_reg, ofNat_toNat_bv, flag_bit, Nat.reduceSub, Nat.reduceBEq, BEq.rfl, Bool.and_self, if_true])

theorem Sys2Proof.Laws.RoundTrip.sra (d a b : Reg) : Sys2Proof.Laws.RoundTrip.Statement (.sra d a b) :=
  .of32 rfl rfl (by simp (disch := decide) only [decode32, decodeOp, fld_pack_reg, fld_pack_bv, fld_pack_bit, fld_pack_lit, fld_pack_skip, need, reg, bv, flag, ofNat_reg, ofNat_toNat_bv, flag_bit, Nat.reduceSub, Nat.reduceBEq, BEq.rfl, Bool.and_self, if_true])

theorem Sys2Proof.Laws.RoundTrip.sltS (d a b : Reg) : Sys2Proof.Laws.RoundTrip.Statement (.sltS d a b) :=
  .of32 rfl rfl (by simp (disch := decide) only [decode32, decodeOp, fld_pack_reg, fld_pack_bv, fld_pack_bit, fld_pack_lit, fld_pack_skip, need, reg, bv, flag, ofNat_reg, ofNat_toNat_bv, flag_bit, Nat.reduceSub, Nat.reduceBEq, BEq.rfl, Bool.and_self, if_true])

theorem Sys2Proof.Laws.RoundTrip.sltZ (d a b : Reg) : Sys2Proof.Laws.RoundTrip.Statement (.sltZ d a b) :=
  .of32 rfl rfl (by simp (disch := decide) only [decode32, decodeOp, fld_pack_reg, fld_pack_bv, fld_pack_bit, fld_pack_lit, fld_pack_skip, need, reg, bv, flag, ofNat_reg, ofNat_toNat_bv, flag_bit, Nat.reduceSub, Nat.reduceBEq, BEq.rfl, Bool.and_self, if_true])

theorem Sys2Proof.Laws.RoundTrip.mul (d a b : Reg) : Sys2Proof.Laws.RoundTrip.Statement (.mul d a b) :=
  .of32 rfl rfl (by simp (disch := decide) only [decode32, decodeOp, fld_pack_reg, fld_pack_bv, fld_pack_bit, fld_pack_lit, fld_pack_skip, need, reg, bv, flag, ofNat_reg, ofNat_toNat_bv, flag_bit, Nat.reduceSub, Nat.reduceBEq, BEq.rfl, Bool.and_self, if_true])

theorem Sys2Proof.Laws.RoundTrip.mulhS (d a b : Reg) : Sys2Proof.Laws.RoundTrip.Statement (.mulhS d a b) :=
  .of32 rfl rfl (by simp (disch := decide) only [decode32, decodeOp, fld_pack_reg, fld_pack_bv, fld_pack_bit, fld_pack_lit, fld_pack_skip, need, reg, bv, flag, ofNat_reg, ofNat_toNat_bv, flag_bit, Nat.reduceSub, Nat.reduceBEq, BEq.rfl, Bool.and_self, if_true])

theorem Sys2Proof.Laws.RoundTrip.mulhZ (d a b : Reg) : Sys2Proof.Laws.RoundTrip.Statement (.mulhZ d a b) :=
  .of32 rfl rfl (by simp (disch := decide) only [decode32, decodeOp, fld_pack_reg, fld_pack_bv, fld_pack_bit, fld_pack_lit, fld_pack_skip, need, reg, bv, flag, ofNat_reg, ofNat_toNat_bv, flag_bit, Nat.reduceSub, Nat.reduceBEq, BEq.rfl, Bool.and_self, if_true])

theorem Sys2Proof.Laws.RoundTrip.divS (d a b : Reg) : Sys2Proof.Laws.RoundTrip.Statement (.divS d a b) :=
  .of32 rfl rfl (by simp (disch := decide) only [decode32, decodeOp, fld_pack_reg, fld_pack_bv, fld_pack_bit, fld_pack_lit, fld_pack_skip, need, reg, bv, flag, ofNat_reg, ofNat_toNat_bv, flag_bit, Nat.reduceSub, Nat.reduceBEq, BEq.rfl, Bool.and_self, if_true])

theorem Sys2Proof.Laws.RoundTrip.divZ (d a b : Reg) : Sys2Proof.Laws.RoundTrip.Statement (.divZ d a b) :=
  .of32 rfl rfl (by simp (disch := decide) only [decode32, decodeOp, fld_pack_reg, fld_pack_bv, fld_pack_bit, fld_pack_lit, fld_pack_skip, need, reg, bv, flag, ofNat_reg, ofNat_toNat_bv, flag_bit, Nat.reduceSub, Nat.reduceBEq, BEq.rfl, Bool.and_self, if_true])

theorem Sys2Proof.Laws.RoundTrip.remS (d a b : Reg) : Sys2Proof.Laws.RoundTrip.Statement (.remS d a b) :=
  .of32 rfl rfl (by simp (disch := decide) only [decode32, decodeOp, fld_pack_reg, fld_pack_bv, fld_pack_bit, fld_pack_lit, fld_pack_skip, need, reg, bv, flag, ofNat_reg, ofNat_toNat_bv, flag_bit, Nat.reduceSub, Nat.reduceBEq, BEq.rfl, Bool.and_self, if_true])

theorem Sys2Proof.Laws.RoundTrip.remZ (d a b : Reg) : Sys2Proof.Laws.RoundTrip.Statement (.remZ d a b) :=
  .of32 rfl rfl (by simp (disch := decide) only [decode32, decodeOp, fld_pack_reg, fld_pack_bv, fld_pack_bit, fld_pack_lit, fld_pack_skip, need, reg, bv, flag, ofNat_reg, ofNat_toNat_bv, flag_bit, Nat.reduceSub, Nat.reduceBEq, BEq.rfl, Bool.and_self, if_true])

theorem Sys2Proof.Laws.RoundTrip.minS (d a b : Reg) : Sys2Proof.Laws.RoundTrip.Statement (.minS d a b) :=
  .of32 rfl rfl (by simp (disch := decide) only [decode32, decodeOp, fld_pack_reg, fld_pack_bv, fld_pack_bit, fld_pack_lit, fld_pack_skip, need, reg, bv, flag, ofNat_reg, ofNat_toNat_bv, flag_bit, Nat.reduceSub, Nat.reduceBEq, BEq.rfl, Bool.and_self, if_true])

theorem Sys2Proof.Laws.RoundTrip.minZ (d a b : Reg) : Sys2Proof.Laws.RoundTrip.Statement (.minZ d a b) :=
  .of32 rfl rfl (by simp (disch := decide) only [decode32, decodeOp, fld_pack_reg, fld_pack_bv, fld_pack_bit, fld_pack_lit, fld_pack_skip, need, reg, bv, flag, ofNat_reg, ofNat_toNat_bv, flag_bit, Nat.reduceSub, Nat.reduceBEq, BEq.rfl, Bool.and_self, if_true])

theorem Sys2Proof.Laws.RoundTrip.maxS (d a b : Reg) : Sys2Proof.Laws.RoundTrip.Statement (.maxS d a b) :=
  .of32 rfl rfl (by simp (disch := decide) only [decode32, decodeOp, fld_pack_reg, fld_pack_bv, fld_pack_bit, fld_pack_lit, fld_pack_skip, need, reg, bv, flag, ofNat_reg, ofNat_toNat_bv, flag_bit, Nat.reduceSub, Nat.reduceBEq, BEq.rfl, Bool.and_self, if_true])

theorem Sys2Proof.Laws.RoundTrip.maxZ (d a b : Reg) : Sys2Proof.Laws.RoundTrip.Statement (.maxZ d a b) :=
  .of32 rfl rfl (by simp (disch := decide) only [decode32, decodeOp, fld_pack_reg, fld_pack_bv, fld_pack_bit, fld_pack_lit, fld_pack_skip, need, reg, bv, flag, ofNat_reg, ofNat_toNat_bv, flag_bit, Nat.reduceSub, Nat.reduceBEq, BEq.rfl, Bool.and_self, if_true])

theorem Sys2Proof.Laws.RoundTrip.andn (d a b : Reg) : Sys2Proof.Laws.RoundTrip.Statement (.andn d a b) :=
  .of32 rfl rfl (by simp (disch := decide) only [decode32, decodeOp, fld_pack_reg, fld_pack_bv, fld_pack_bit, fld_pack_lit, fld_pack_skip, need, reg, bv, flag, ofNat_reg, ofNat_toNat_bv, flag_bit, Nat.reduceSub, Nat.reduceBEq, BEq.rfl, Bool.and_self, if_true])

theorem Sys2Proof.Laws.RoundTrip.clz (d a : Reg) : Sys2Proof.Laws.RoundTrip.Statement (.clz d a) :=
  .of32 rfl rfl (by simp (disch := decide) only [decode32, decodeOp, fld_pack_reg, fld_pack_bv, fld_pack_bit, fld_pack_lit, fld_pack_skip, need, reg, bv, flag, ofNat_reg, ofNat_toNat_bv, flag_bit, Nat.reduceSub, Nat.reduceBEq, BEq.rfl, Bool.and_self, if_true])

theorem Sys2Proof.Laws.RoundTrip.ctz (d a : Reg) : Sys2Proof.Laws.RoundTrip.Statement (.ctz d a) :=
  .of32 rfl rfl (by simp (disch := decide) only [decode32, decodeOp, fld_pack_reg, fld_pack_bv, fld_pack_bit, fld_pack_lit, fld_pack_skip, need, reg, bv, flag, ofNat_reg, ofNat_toNat_bv, flag_bit, Nat.reduceSub, Nat.reduceBEq, BEq.rfl, Bool.and_self, if_true])

theorem Sys2Proof.Laws.RoundTrip.cpop (d a : Reg) : Sys2Proof.Laws.RoundTrip.Statement (.cpop d a) :=
  .of32 rfl rfl (by simp (disch := decide) only [decode32, decodeOp, fld_pack_reg, fld_pack_bv, fld_pack_bit, fld_pack_lit, fld_pack_skip, need, reg, bv, flag, ofNat_reg, ofNat_toNat_bv, flag_bit, Nat.reduceSub, Nat.reduceBEq, BEq.rfl, Bool.and_self, if_true])

theorem Sys2Proof.Laws.RoundTrip.madd (d a b c : Reg) : Sys2Proof.Laws.RoundTrip.Statement (.madd d a b c) :=
  .of32 rfl rfl (by simp (disch := decide) only [decode32, decodeOp, fld_pack_reg, fld_pack_bv, fld_pack_bit, fld_pack_lit, fld_pack_skip, need, reg, bv, flag, ofNat_reg, ofNat_toNat_bv, flag_bit, Nat.reduceSub, Nat.reduceBEq, BEq.rfl, Bool.and_self, if_true])

theorem Sys2Proof.Laws.RoundTrip.addsh (d a b : Reg) (k : BitVec 3) : Sys2Proof.Laws.RoundTrip.Statement (.addsh d a b k) :=
  .of32 rfl rfl (by simp (disch := decide) only [decode32, decodeOp, fld_pack_reg, fld_pack_bv, fld_pack_bit, fld_pack_lit, fld_pack_skip, need, reg, bv, flag, ofNat_reg, ofNat_toNat_bv, flag_bit, Nat.reduceSub, Nat.reduceBEq, BEq.rfl, Bool.and_self, if_true])

theorem Sys2Proof.Laws.RoundTrip.fadd (d a b : Reg) (t : BitVec 2) : Sys2Proof.Laws.RoundTrip.Statement (.fadd d a b t) :=
  .of32 rfl rfl (by simp (disch := decide) only [decode32, decodeFop, fld_pack_reg, fld_pack_bv, fld_pack_bit, fld_pack_lit, fld_pack_skip, need, reg, bv, flag, ofNat_reg, ofNat_toNat_bv, flag_bit, Nat.reduceSub, Nat.reduceBEq, BEq.rfl, Bool.and_self, if_true])

theorem Sys2Proof.Laws.RoundTrip.fsub (d a b : Reg) (t : BitVec 2) : Sys2Proof.Laws.RoundTrip.Statement (.fsub d a b t) :=
  .of32 rfl rfl (by simp (disch := decide) only [decode32, decodeFop, fld_pack_reg, fld_pack_bv, fld_pack_bit, fld_pack_lit, fld_pack_skip, need, reg, bv, flag, ofNat_reg, ofNat_toNat_bv, flag_bit, Nat.reduceSub, Nat.reduceBEq, BEq.rfl, Bool.and_self, if_true])

theorem Sys2Proof.Laws.RoundTrip.fmul (d a b : Reg) (t : BitVec 2) : Sys2Proof.Laws.RoundTrip.Statement (.fmul d a b t) :=
  .of32 rfl rfl (by simp (disch := decide) only [decode32, decodeFop, fld_pack_reg, fld_pack_bv, fld_pack_bit, fld_pack_lit, fld_pack_skip, need, reg, bv, flag, ofNat_reg, ofNat_toNat_bv, flag_bit, Nat.reduceSub, Nat.reduceBEq, BEq.rfl, Bool.and_self, if_true])

theorem Sys2Proof.Laws.RoundTrip.fdiv (d a b : Reg) (t : BitVec 2) : Sys2Proof.Laws.RoundTrip.Statement (.fdiv d a b t) :=
  .of32 rfl rfl (by simp (disch := decide) only [decode32, decodeFop, fld_pack_reg, fld_pack_bv, fld_pack_bit, fld_pack_lit, fld_pack_skip, need, reg, bv, flag, ofNat_reg, ofNat_toNat_bv, flag_bit, Nat.reduceSub, Nat.reduceBEq, BEq.rfl, Bool.and_self, if_true])

theorem Sys2Proof.Laws.RoundTrip.fsqrt (d a : Reg) (t : BitVec 2) : Sys2Proof.Laws.RoundTrip.Statement (.fsqrt d a t) :=
  .of32 rfl rfl (by simp (disch := decide) only [decode32, decodeFop, fld_pack_reg, fld_pack_bv, fld_pack_bit, fld_pack_lit, fld_pack_skip, need, reg, bv, flag, ofNat_reg, ofNat_toNat_bv, flag_bit, Nat.reduceSub, Nat.reduceBEq, BEq.rfl, Bool.and_self, if_true])

theorem Sys2Proof.Laws.RoundTrip.fmin (d a b : Reg) (t : BitVec 2) : Sys2Proof.Laws.RoundTrip.Statement (.fmin d a b t) :=
  .of32 rfl rfl (by simp (disch := decide) only [decode32, decodeFop, fld_pack_reg, fld_pack_bv, fld_pack_bit, fld_pack_lit, fld_pack_skip, need, reg, bv, flag, ofNat_reg, ofNat_toNat_bv, flag_bit, Nat.reduceSub, Nat.reduceBEq, BEq.rfl, Bool.and_self, if_true])

theorem Sys2Proof.Laws.RoundTrip.fmax (d a b : Reg) (t : BitVec 2) : Sys2Proof.Laws.RoundTrip.Statement (.fmax d a b t) :=
  .of32 rfl rfl (by simp (disch := decide) only [decode32, decodeFop, fld_pack_reg, fld_pack_bv, fld_pack_bit, fld_pack_lit, fld_pack_skip, need, reg, bv, flag, ofNat_reg, ofNat_toNat_bv, flag_bit, Nat.reduceSub, Nat.reduceBEq, BEq.rfl, Bool.and_self, if_true])

theorem Sys2Proof.Laws.RoundTrip.fsgnj (d a b : Reg) (t : BitVec 2) : Sys2Proof.Laws.RoundTrip.Statement (.fsgnj d a b t) :=
  .of32 rfl rfl (by simp (disch := decide) only [decode32, decodeFop, fld_pack_reg, fld_pack_bv, fld_pack_bit, fld_pack_lit, fld_pack_skip, need, reg, bv, flag, ofNat_reg, ofNat_toNat_bv, flag_bit, Nat.reduceSub, Nat.reduceBEq, BEq.rfl, Bool.and_self, if_true])

theorem Sys2Proof.Laws.RoundTrip.fsgnjn (d a b : Reg) (t : BitVec 2) : Sys2Proof.Laws.RoundTrip.Statement (.fsgnjn d a b t) :=
  .of32 rfl rfl (by simp (disch := decide) only [decode32, decodeFop, fld_pack_reg, fld_pack_bv, fld_pack_bit, fld_pack_lit, fld_pack_skip, need, reg, bv, flag, ofNat_reg, ofNat_toNat_bv, flag_bit, Nat.reduceSub, Nat.reduceBEq, BEq.rfl, Bool.and_self, if_true])

theorem Sys2Proof.Laws.RoundTrip.fsgnjx (d a b : Reg) (t : BitVec 2) : Sys2Proof.Laws.RoundTrip.Statement (.fsgnjx d a b t) :=
  .of32 rfl rfl (by simp (disch := decide) only [decode32, decodeFop, fld_pack_reg, fld_pack_bv, fld_pack_bit, fld_pack_lit, fld_pack_skip, need, reg, bv, flag, ofNat_reg, ofNat_toNat_bv, flag_bit, Nat.reduceSub, Nat.reduceBEq, BEq.rfl, Bool.and_self, if_true])

theorem Sys2Proof.Laws.RoundTrip.feq (d a b : Reg) (t : BitVec 2) : Sys2Proof.Laws.RoundTrip.Statement (.feq d a b t) :=
  .of32 rfl rfl (by simp (disch := decide) only [decode32, decodeFop, fld_pack_reg, fld_pack_bv, fld_pack_bit, fld_pack_lit, fld_pack_skip, need, reg, bv, flag, ofNat_reg, ofNat_toNat_bv, flag_bit, Nat.reduceSub, Nat.reduceBEq, BEq.rfl, Bool.and_self, if_true])

theorem Sys2Proof.Laws.RoundTrip.flt (d a b : Reg) (t : BitVec 2) : Sys2Proof.Laws.RoundTrip.Statement (.flt d a b t) :=
  .of32 rfl rfl (by simp (disch := decide) only [decode32, decodeFop, fld_pack_reg, fld_pack_bv, fld_pack_bit, fld_pack_lit, fld_pack_skip, need, reg, bv, flag, ofNat_reg, ofNat_toNat_bv, flag_bit, Nat.reduceSub, Nat.reduceBEq, BEq.rfl, Bool.and_self, if_true])

theorem Sys2Proof.Laws.RoundTrip.fle (d a b : Reg) (t : BitVec 2) : Sys2Proof.Laws.RoundTrip.Statement (.fle d a b t) :=
  .of32 rfl rfl (by simp (disch := decide) only [decode32, decodeFop, fld_pack_reg, fld_pack_bv, fld_pack_bit, fld_pack_lit, fld_pack_skip, need, reg, bv, flag, ofNat_reg, ofNat_toNat_bv, flag_bit, Nat.reduceSub, Nat.reduceBEq, BEq.rfl, Bool.and_self, if_true])

theorem Sys2Proof.Laws.RoundTrip.fclass (d a : Reg) (t : BitVec 2) : Sys2Proof.Laws.RoundTrip.Statement (.fclass d a t) :=
  .of32 rfl rfl (by simp (disch := decide) only [decode32, decodeFop, fld_pack_reg, fld_pack_bv, fld_pack_bit, fld_pack_lit, fld_pack_skip, need, reg, bv, flag, ofNat_reg, ofNat_toNat_bv, flag_bit, Nat.reduceSub, Nat.reduceBEq, BEq.rfl, Bool.and_self, if_true])

theorem Sys2Proof.Laws.RoundTrip.fcvtiS (d a : Reg) (t : BitVec 2) : Sys2Proof.Laws.RoundTrip.Statement (.fcvtiS d a t) :=
  .of32 rfl rfl (by simp (disch := decide) only [decode32, decodeFop, fld_pack_reg, fld_pack_bv, fld_pack_bit, fld_pack_lit, fld_pack_skip, need, reg, bv, flag, ofNat_reg, ofNat_toNat_bv, flag_bit, Nat.reduceSub, Nat.reduceBEq, BEq.rfl, Bool.and_self, if_true])

theorem Sys2Proof.Laws.RoundTrip.fcvtiZ (d a : Reg) (t : BitVec 2) : Sys2Proof.Laws.RoundTrip.Statement (.fcvtiZ d a t) :=
  .of32 rfl rfl (by simp (disch := decide) only [decode32, decodeFop, fld_pack_reg, fld_pack_bv, fld_pack_bit, fld_pack_lit, fld_pack_skip, need, reg, bv, flag, ofNat_reg, ofNat_toNat_bv, flag_bit, Nat.reduceSub, Nat.reduceBEq, BEq.rfl, Bool.and_self, if_true])

theorem Sys2Proof.Laws.RoundTrip.fcvtfS (d a : Reg) (t : BitVec 2) : Sys2Proof.Laws.RoundTrip.Statement (.fcvtfS d a t) :=
  .of32 rfl rfl (by simp (disch := decide) only [decode32, decodeFop, fld_pack_reg, fld_pack_bv, fld_pack_bit, fld_pack_lit, fld_pack_skip, need, reg, bv, flag, ofNat_reg, ofNat_toNat_bv, flag_bit, Nat.reduceSub, Nat.reduceBEq, BEq.rfl, Bool.and_self, if_true])

theorem Sys2Proof.Laws.RoundTrip.fcvtfZ (d a : Reg) (t : BitVec 2) : Sys2Proof.Laws.RoundTrip.Statement (.fcvtfZ d a t) :=
  .of32 rfl rfl (by simp (disch := decide) only [decode32, decodeFop, fld_pack_reg, fld_pack_bv, fld_pack_bit, fld_pack_lit, fld_pack_skip, need, reg, bv, flag, ofNat_reg, ofNat_toNat_bv, flag_bit, Nat.reduceSub, Nat.reduceBEq, BEq.rfl, Bool.and_self, if_true])

theorem Sys2Proof.Laws.RoundTrip.fcvt (d a : Reg) (s t : BitVec 2) : Sys2Proof.Laws.RoundTrip.Statement (.fcvt d a s t) :=
  .of32 rfl rfl (by simp (disch := decide) only [decode32, decodeFop, fld_pack_reg, fld_pack_bv, fld_pack_bit, fld_pack_lit, fld_pack_skip, need, reg, bv, flag, ofNat_reg, ofNat_toNat_bv, flag_bit, Nat.reduceSub, Nat.reduceBEq, BEq.rfl, Bool.and_self, if_true])

theorem Sys2Proof.Laws.RoundTrip.fmadd (d a b c : Reg) (t : BitVec 2) : Sys2Proof.Laws.RoundTrip.Statement (.fmadd d a b c t) :=
  .of32 rfl rfl (by simp (disch := decide) only [decode32, decodeFop, fld_pack_reg, fld_pack_bv, fld_pack_bit, fld_pack_lit, fld_pack_skip, need, reg, bv, flag, ofNat_reg, ofNat_toNat_bv, flag_bit, Nat.reduceSub, Nat.reduceBEq, BEq.rfl, Bool.and_self, if_true])

theorem Sys2Proof.Laws.RoundTrip.fnmsub (d a b c : Reg) (t : BitVec 2) : Sys2Proof.Laws.RoundTrip.Statement (.fnmsub d a b c t) :=
  .of32 rfl rfl (by simp (disch := decide) only [decode32, decodeFop, fld_pack_reg, fld_pack_bv, fld_pack_bit, fld_pack_lit, fld_pack_skip, need, reg, bv, flag, ofNat_reg, ofNat_toNat_bv, flag_bit, Nat.reduceSub, Nat.reduceBEq, BEq.rfl, Bool.and_self, if_true])

theorem Sys2Proof.Laws.RoundTrip.ld8Z (d a : Reg) (i : BitVec 12) : Sys2Proof.Laws.RoundTrip.Statement (.ld8Z d a i) :=
  .of32 rfl rfl (by simp (disch := decide) only [decode32, decodeLd, fld_pack_reg, fld_pack_bv, fld_pack_bit, fld_pack_lit, fld_pack_skip, need, reg, bv, flag, ofNat_reg, ofNat_toNat_bv, flag_bit, Nat.reduceSub, Nat.reduceBEq, BEq.rfl, Bool.and_self, if_true])

theorem Sys2Proof.Laws.RoundTrip.ld16Z (d a : Reg) (i : BitVec 12) : Sys2Proof.Laws.RoundTrip.Statement (.ld16Z d a i) :=
  .of32 rfl rfl (by simp (disch := decide) only [decode32, decodeLd, fld_pack_reg, fld_pack_bv, fld_pack_bit, fld_pack_lit, fld_pack_skip, need, reg, bv, flag, ofNat_reg, ofNat_toNat_bv, flag_bit, Nat.reduceSub, Nat.reduceBEq, BEq.rfl, Bool.and_self, if_true])

theorem Sys2Proof.Laws.RoundTrip.ld32Z (d a : Reg) (i : BitVec 12) : Sys2Proof.Laws.RoundTrip.Statement (.ld32Z d a i) :=
  .of32 rfl rfl (by simp (disch := decide) only [decode32, decodeLd, fld_pack_reg, fld_pack_bv, fld_pack_bit, fld_pack_lit, fld_pack_skip, need, reg, bv, flag, ofNat_reg, ofNat_toNat_bv, flag_bit, Nat.reduceSub, Nat.reduceBEq, BEq.rfl, Bool.and_self, if_true])

theorem Sys2Proof.Laws.RoundTrip.ld64 (d a : Reg) (i : BitVec 12) : Sys2Proof.Laws.RoundTrip.Statement (.ld64 d a i) :=
  .of32 rfl rfl (by simp (disch := decide) only [decode32, decodeLd, fld_pack_reg, fld_pack_bv, fld_pack_bit, fld_pack_lit, fld_pack_skip, need, reg, bv, flag, ofNat_reg, ofNat_toNat_bv, flag_bit, Nat.reduceSub, Nat.reduceBEq, BEq.rfl, Bool.and_self, if_true])

theorem Sys2Proof.Laws.RoundTrip.ld8S (d a : Reg) (i : BitVec 12) : Sys2Proof.Laws.RoundTrip.Statement (.ld8S d a i) :=
  .of32 rfl rfl (by simp (disch := decide) only [decode32, decodeLd, fld_pack_reg, fld_pack_bv, fld_pack_bit, fld_pack_lit, fld_pack_skip, need, reg, bv, flag, ofNat_reg, ofNat_toNat_bv, flag_bit, Nat.reduceSub, Nat.reduceBEq, BEq.rfl, Bool.and_self, if_true])

theorem Sys2Proof.Laws.RoundTrip.ld16S (d a : Reg) (i : BitVec 12) : Sys2Proof.Laws.RoundTrip.Statement (.ld16S d a i) :=
  .of32 rfl rfl (by simp (disch := decide) only [decode32, decodeLd, fld_pack_reg, fld_pack_bv, fld_pack_bit, fld_pack_lit, fld_pack_skip, need, reg, bv, flag, ofNat_reg, ofNat_toNat_bv, flag_bit, Nat.reduceSub, Nat.reduceBEq, BEq.rfl, Bool.and_self, if_true])

theorem Sys2Proof.Laws.RoundTrip.ld32S (d a : Reg) (i : BitVec 12) : Sys2Proof.Laws.RoundTrip.Statement (.ld32S d a i) :=
  .of32 rfl rfl (by simp (disch := decide) only [decode32, decodeLd, fld_pack_reg, fld_pack_bv, fld_pack_bit, fld_pack_lit, fld_pack_skip, need, reg, bv, flag, ofNat_reg, ofNat_toNat_bv, flag_bit, Nat.reduceSub, Nat.reduceBEq, BEq.rfl, Bool.and_self, if_true])

theorem Sys2Proof.Laws.RoundTrip.st8 (s a : Reg) (i : BitVec 12) : Sys2Proof.Laws.RoundTrip.Statement (.st8 s a i) :=
  .of32 rfl rfl (by simp (disch := decide) only [decode32, decodeSt, fld_pack_reg, fld_pack_bv, fld_pack_bit, fld_pack_lit, fld_pack_skip, need, reg, bv, flag, ofNat_reg, ofNat_toNat_bv, flag_bit, Nat.reduceSub, Nat.reduceBEq, BEq.rfl, Bool.and_self, if_true])

theorem Sys2Proof.Laws.RoundTrip.st16 (s a : Reg) (i : BitVec 12) : Sys2Proof.Laws.RoundTrip.Statement (.st16 s a i) :=
  .of32 rfl rfl (by simp (disch := decide) only [decode32, decodeSt, fld_pack_reg, fld_pack_bv, fld_pack_bit, fld_pack_lit, fld_pack_skip, need, reg, bv, flag, ofNat_reg, ofNat_toNat_bv, flag_bit, Nat.reduceSub, Nat.reduceBEq, BEq.rfl, Bool.and_self, if_true])

theorem Sys2Proof.Laws.RoundTrip.st32 (s a : Reg) (i : BitVec 12) : Sys2Proof.Laws.RoundTrip.Statement (.st32 s a i) :=
  .of32 rfl rfl (by simp (disch := decide) only [decode32, decodeSt, fld_pack_reg, fld_pack_bv, fld_pack_bit, fld_pack_lit, fld_pack_skip, need, reg, bv, flag, ofNat_reg, ofNat_toNat_bv, flag_bit, Nat.reduceSub, Nat.reduceBEq, BEq.rfl, Bool.and_self, if_true])

theorem Sys2Proof.Laws.RoundTrip.st64 (s a : Reg) (i : BitVec 12) : Sys2Proof.Laws.RoundTrip.Statement (.st64 s a i) :=
  .of32 rfl rfl (by simp (disch := decide) only [decode32, decodeSt, fld_pack_reg, fld_pack_bv, fld_pack_bit, fld_pack_lit, fld_pack_skip, need, reg, bv, flag, ofNat_reg, ofNat_toNat_bv, flag_bit, Nat.reduceSub, Nat.reduceBEq, BEq.rfl, Bool.and_self, if_true])

theorem Sys2Proof.Laws.RoundTrip.ld8ZPxi (d a : Reg) (i : BitVec 38) : Sys2Proof.Laws.RoundTrip.Statement (.ld8ZPxi d a i) :=
  .ofPxi (b := .ld8Z d a (BitVec.ofNat 12 (i.toNat % 2 ^ 12))) (p := [(26, i.toNat / 2 ^ 12)]) (r := [(6, 12), (5, d.val), (5, a.val), (3, 0), (12, i.toNat % 2 ^ 12)]) rfl rfl rfl
    (by simp (disch := decide) only [decode32, decodeLd, fld_pack_low, fld_pack_reg, fld_pack_bv, fld_pack_bit, fld_pack_lit, fld_pack_skip, need, reg, bv, flag, ofNat_reg, ofNat_toNat_bv, flag_bit, Nat.reduceSub, Nat.reduceBEq, BEq.rfl, Bool.and_self, if_true]) rfl
    (by simp (disch := decide) only [widen, fld_pack_high12, fld_pack_skip, Nat.reduceSub, join12])

theorem Sys2Proof.Laws.RoundTrip.ld16ZPxi (d a : Reg) (i : BitVec 38) : Sys2Proof.Laws.RoundTrip.Statement (.ld16ZPxi d a i) :=
  .ofPxi (b := .ld16Z d a (BitVec.ofNat 12 (i.toNat % 2 ^ 12))) (p := [(26, i.toNat / 2 ^ 12)]) (r := [(6, 12), (5, d.val), (5, a.val), (3, 1), (12, i.toNat % 2 ^ 12)]) rfl rfl rfl
    (by simp (disch := decide) only [decode32, decodeLd, fld_pack_low, fld_pack_reg, fld_pack_bv, fld_pack_bit, fld_pack_lit, fld_pack_skip, need, reg, bv, flag, ofNat_reg, ofNat_toNat_bv, flag_bit, Nat.reduceSub, Nat.reduceBEq, BEq.rfl, Bool.and_self, if_true]) rfl
    (by simp (disch := decide) only [widen, fld_pack_high12, fld_pack_skip, Nat.reduceSub, join12])

theorem Sys2Proof.Laws.RoundTrip.ld32ZPxi (d a : Reg) (i : BitVec 38) : Sys2Proof.Laws.RoundTrip.Statement (.ld32ZPxi d a i) :=
  .ofPxi (b := .ld32Z d a (BitVec.ofNat 12 (i.toNat % 2 ^ 12))) (p := [(26, i.toNat / 2 ^ 12)]) (r := [(6, 12), (5, d.val), (5, a.val), (3, 2), (12, i.toNat % 2 ^ 12)]) rfl rfl rfl
    (by simp (disch := decide) only [decode32, decodeLd, fld_pack_low, fld_pack_reg, fld_pack_bv, fld_pack_bit, fld_pack_lit, fld_pack_skip, need, reg, bv, flag, ofNat_reg, ofNat_toNat_bv, flag_bit, Nat.reduceSub, Nat.reduceBEq, BEq.rfl, Bool.and_self, if_true]) rfl
    (by simp (disch := decide) only [widen, fld_pack_high12, fld_pack_skip, Nat.reduceSub, join12])

theorem Sys2Proof.Laws.RoundTrip.ld64Pxi (d a : Reg) (i : BitVec 38) : Sys2Proof.Laws.RoundTrip.Statement (.ld64Pxi d a i) :=
  .ofPxi (b := .ld64 d a (BitVec.ofNat 12 (i.toNat % 2 ^ 12))) (p := [(26, i.toNat / 2 ^ 12)]) (r := [(6, 12), (5, d.val), (5, a.val), (3, 3), (12, i.toNat % 2 ^ 12)]) rfl rfl rfl
    (by simp (disch := decide) only [decode32, decodeLd, fld_pack_low, fld_pack_reg, fld_pack_bv, fld_pack_bit, fld_pack_lit, fld_pack_skip, need, reg, bv, flag, ofNat_reg, ofNat_toNat_bv, flag_bit, Nat.reduceSub, Nat.reduceBEq, BEq.rfl, Bool.and_self, if_true]) rfl
    (by simp (disch := decide) only [widen, fld_pack_high12, fld_pack_skip, Nat.reduceSub, join12])

theorem Sys2Proof.Laws.RoundTrip.ld8SPxi (d a : Reg) (i : BitVec 38) : Sys2Proof.Laws.RoundTrip.Statement (.ld8SPxi d a i) :=
  .ofPxi (b := .ld8S d a (BitVec.ofNat 12 (i.toNat % 2 ^ 12))) (p := [(26, i.toNat / 2 ^ 12)]) (r := [(6, 12), (5, d.val), (5, a.val), (3, 4), (12, i.toNat % 2 ^ 12)]) rfl rfl rfl
    (by simp (disch := decide) only [decode32, decodeLd, fld_pack_low, fld_pack_reg, fld_pack_bv, fld_pack_bit, fld_pack_lit, fld_pack_skip, need, reg, bv, flag, ofNat_reg, ofNat_toNat_bv, flag_bit, Nat.reduceSub, Nat.reduceBEq, BEq.rfl, Bool.and_self, if_true]) rfl
    (by simp (disch := decide) only [widen, fld_pack_high12, fld_pack_skip, Nat.reduceSub, join12])

theorem Sys2Proof.Laws.RoundTrip.ld16SPxi (d a : Reg) (i : BitVec 38) : Sys2Proof.Laws.RoundTrip.Statement (.ld16SPxi d a i) :=
  .ofPxi (b := .ld16S d a (BitVec.ofNat 12 (i.toNat % 2 ^ 12))) (p := [(26, i.toNat / 2 ^ 12)]) (r := [(6, 12), (5, d.val), (5, a.val), (3, 5), (12, i.toNat % 2 ^ 12)]) rfl rfl rfl
    (by simp (disch := decide) only [decode32, decodeLd, fld_pack_low, fld_pack_reg, fld_pack_bv, fld_pack_bit, fld_pack_lit, fld_pack_skip, need, reg, bv, flag, ofNat_reg, ofNat_toNat_bv, flag_bit, Nat.reduceSub, Nat.reduceBEq, BEq.rfl, Bool.and_self, if_true]) rfl
    (by simp (disch := decide) only [widen, fld_pack_high12, fld_pack_skip, Nat.reduceSub, join12])

theorem Sys2Proof.Laws.RoundTrip.ld32SPxi (d a : Reg) (i : BitVec 38) : Sys2Proof.Laws.RoundTrip.Statement (.ld32SPxi d a i) :=
  .ofPxi (b := .ld32S d a (BitVec.ofNat 12 (i.toNat % 2 ^ 12))) (p := [(26, i.toNat / 2 ^ 12)]) (r := [(6, 12), (5, d.val), (5, a.val), (3, 6), (12, i.toNat % 2 ^ 12)]) rfl rfl rfl
    (by simp (disch := decide) only [decode32, decodeLd, fld_pack_low, fld_pack_reg, fld_pack_bv, fld_pack_bit, fld_pack_lit, fld_pack_skip, need, reg, bv, flag, ofNat_reg, ofNat_toNat_bv, flag_bit, Nat.reduceSub, Nat.reduceBEq, BEq.rfl, Bool.and_self, if_true]) rfl
    (by simp (disch := decide) only [widen, fld_pack_high12, fld_pack_skip, Nat.reduceSub, join12])

theorem Sys2Proof.Laws.RoundTrip.st8Pxi (s a : Reg) (i : BitVec 38) : Sys2Proof.Laws.RoundTrip.Statement (.st8Pxi s a i) :=
  .ofPxi (b := .st8 s a (BitVec.ofNat 12 (i.toNat % 2 ^ 12))) (p := [(26, i.toNat / 2 ^ 12)]) (r := [(6, 13), (5, s.val), (5, a.val), (3, 0), (12, i.toNat % 2 ^ 12)]) rfl rfl rfl
    (by simp (disch := decide) only [decode32, decodeSt, fld_pack_low, fld_pack_reg, fld_pack_bv, fld_pack_bit, fld_pack_lit, fld_pack_skip, need, reg, bv, flag, ofNat_reg, ofNat_toNat_bv, flag_bit, Nat.reduceSub, Nat.reduceBEq, BEq.rfl, Bool.and_self, if_true]) rfl
    (by simp (disch := decide) only [widen, fld_pack_high12, fld_pack_skip, Nat.reduceSub, join12])

theorem Sys2Proof.Laws.RoundTrip.st16Pxi (s a : Reg) (i : BitVec 38) : Sys2Proof.Laws.RoundTrip.Statement (.st16Pxi s a i) :=
  .ofPxi (b := .st16 s a (BitVec.ofNat 12 (i.toNat % 2 ^ 12))) (p := [(26, i.toNat / 2 ^ 12)]) (r := [(6, 13), (5, s.val), (5, a.val), (3, 1), (12, i.toNat % 2 ^ 12)]) rfl rfl rfl
    (by simp (disch := decide) only [decode32, decodeSt, fld_pack_low, fld_pack_reg, fld_pack_bv, fld_pack_bit, fld_pack_lit, fld_pack_skip, need, reg, bv, flag, ofNat_reg, ofNat_toNat_bv, flag_bit, Nat.reduceSub, Nat.reduceBEq, BEq.rfl, Bool.and_self, if_true]) rfl
    (by simp (disch := decide) only [widen, fld_pack_high12, fld_pack_skip, Nat.reduceSub, join12])

theorem Sys2Proof.Laws.RoundTrip.st32Pxi (s a : Reg) (i : BitVec 38) : Sys2Proof.Laws.RoundTrip.Statement (.st32Pxi s a i) :=
  .ofPxi (b := .st32 s a (BitVec.ofNat 12 (i.toNat % 2 ^ 12))) (p := [(26, i.toNat / 2 ^ 12)]) (r := [(6, 13), (5, s.val), (5, a.val), (3, 2), (12, i.toNat % 2 ^ 12)]) rfl rfl rfl
    (by simp (disch := decide) only [decode32, decodeSt, fld_pack_low, fld_pack_reg, fld_pack_bv, fld_pack_bit, fld_pack_lit, fld_pack_skip, need, reg, bv, flag, ofNat_reg, ofNat_toNat_bv, flag_bit, Nat.reduceSub, Nat.reduceBEq, BEq.rfl, Bool.and_self, if_true]) rfl
    (by simp (disch := decide) only [widen, fld_pack_high12, fld_pack_skip, Nat.reduceSub, join12])

theorem Sys2Proof.Laws.RoundTrip.st64Pxi (s a : Reg) (i : BitVec 38) : Sys2Proof.Laws.RoundTrip.Statement (.st64Pxi s a i) :=
  .ofPxi (b := .st64 s a (BitVec.ofNat 12 (i.toNat % 2 ^ 12))) (p := [(26, i.toNat / 2 ^ 12)]) (r := [(6, 13), (5, s.val), (5, a.val), (3, 3), (12, i.toNat % 2 ^ 12)]) rfl rfl rfl
    (by simp (disch := decide) only [decode32, decodeSt, fld_pack_low, fld_pack_reg, fld_pack_bv, fld_pack_bit, fld_pack_lit, fld_pack_skip, need, reg, bv, flag, ofNat_reg, ofNat_toNat_bv, flag_bit, Nat.reduceSub, Nat.reduceBEq, BEq.rfl, Bool.and_self, if_true]) rfl
    (by simp (disch := decide) only [widen, fld_pack_high12, fld_pack_skip, Nat.reduceSub, join12])

theorem Sys2Proof.Laws.RoundTrip.ld8ZAq (d a : Reg) (s : BitVec 3) : Sys2Proof.Laws.RoundTrip.Statement (.ld8ZAq d a s) :=
  .of32 rfl rfl (by simp (disch := decide) only [decode32, decodeAmo, fld_pack_reg, fld_pack_bv, fld_pack_bit, fld_pack_lit, fld_pack_skip, need, reg, bv, flag, ofNat_reg, ofNat_toNat_bv, flag_bit, Nat.reduceSub, Nat.reduceBEq, BEq.rfl, Bool.and_self, if_true])

theorem Sys2Proof.Laws.RoundTrip.ld16ZAq (d a : Reg) (s : BitVec 3) : Sys2Proof.Laws.RoundTrip.Statement (.ld16ZAq d a s) :=
  .of32 rfl rfl (by simp (disch := decide) only [decode32, decodeAmo, fld_pack_reg, fld_pack_bv, fld_pack_bit, fld_pack_lit, fld_pack_skip, need, reg, bv, flag, ofNat_reg, ofNat_toNat_bv, flag_bit, Nat.reduceSub, Nat.reduceBEq, BEq.rfl, Bool.and_self, if_true])

theorem Sys2Proof.Laws.RoundTrip.ld32ZAq (d a : Reg) (s : BitVec 3) : Sys2Proof.Laws.RoundTrip.Statement (.ld32ZAq d a s) :=
  .of32 rfl rfl (by simp (disch := decide) only [decode32, decodeAmo, fld_pack_reg, fld_pack_bv, fld_pack_bit, fld_pack_lit, fld_pack_skip, need, reg, bv, flag, ofNat_reg, ofNat_toNat_bv, flag_bit, Nat.reduceSub, Nat.reduceBEq, BEq.rfl, Bool.and_self, if_true])

theorem Sys2Proof.Laws.RoundTrip.ld64Aq (d a : Reg) (s : BitVec 3) : Sys2Proof.Laws.RoundTrip.Statement (.ld64Aq d a s) :=
  .of32 rfl rfl (by simp (disch := decide) only [decode32, decodeAmo, fld_pack_reg, fld_pack_bv, fld_pack_bit, fld_pack_lit, fld_pack_skip, need, reg, bv, flag, ofNat_reg, ofNat_toNat_bv, flag_bit, Nat.reduceSub, Nat.reduceBEq, BEq.rfl, Bool.and_self, if_true])

theorem Sys2Proof.Laws.RoundTrip.st8Rl (d a : Reg) (s : BitVec 3) : Sys2Proof.Laws.RoundTrip.Statement (.st8Rl d a s) :=
  .of32 rfl rfl (by simp (disch := decide) only [decode32, decodeAmo, fld_pack_reg, fld_pack_bv, fld_pack_bit, fld_pack_lit, fld_pack_skip, need, reg, bv, flag, ofNat_reg, ofNat_toNat_bv, flag_bit, Nat.reduceSub, Nat.reduceBEq, BEq.rfl, Bool.and_self, if_true])

theorem Sys2Proof.Laws.RoundTrip.st16Rl (d a : Reg) (s : BitVec 3) : Sys2Proof.Laws.RoundTrip.Statement (.st16Rl d a s) :=
  .of32 rfl rfl (by simp (disch := decide) only [decode32, decodeAmo, fld_pack_reg, fld_pack_bv, fld_pack_bit, fld_pack_lit, fld_pack_skip, need, reg, bv, flag, ofNat_reg, ofNat_toNat_bv, flag_bit, Nat.reduceSub, Nat.reduceBEq, BEq.rfl, Bool.and_self, if_true])

theorem Sys2Proof.Laws.RoundTrip.st32Rl (d a : Reg) (s : BitVec 3) : Sys2Proof.Laws.RoundTrip.Statement (.st32Rl d a s) :=
  .of32 rfl rfl (by simp (disch := decide) only [decode32, decodeAmo, fld_pack_reg, fld_pack_bv, fld_pack_bit, fld_pack_lit, fld_pack_skip, need, reg, bv, flag, ofNat_reg, ofNat_toNat_bv, flag_bit, Nat.reduceSub, Nat.reduceBEq, BEq.rfl, Bool.and_self, if_true])

theorem Sys2Proof.Laws.RoundTrip.st64Rl (d a : Reg) (s : BitVec 3) : Sys2Proof.Laws.RoundTrip.Statement (.st64Rl d a s) :=
  .of32 rfl rfl (by simp (disch := decide) only [decode32, decodeAmo, fld_pack_reg, fld_pack_bv, fld_pack_bit, fld_pack_lit, fld_pack_skip, need, reg, bv, flag, ofNat_reg, ofNat_toNat_bv, flag_bit, Nat.reduceSub, Nat.reduceBEq, BEq.rfl, Bool.and_self, if_true])

theorem Sys2Proof.Laws.RoundTrip.amoswap (d a b : Reg) (l q : Bool) (s : BitVec 3) (z : Bool) : Sys2Proof.Laws.RoundTrip.Statement (.amoswap d a b l q s z) :=
  .of32 rfl rfl (by simp (disch := decide) only [decode32, decodeAmo, fld_pack_reg, fld_pack_bv, fld_pack_bit, fld_pack_lit, fld_pack_skip, need, reg, bv, flag, ofNat_reg, ofNat_toNat_bv, flag_bit, Nat.reduceSub, Nat.reduceBEq, BEq.rfl, Bool.and_self, if_true])

theorem Sys2Proof.Laws.RoundTrip.amoadd (d a b : Reg) (l q : Bool) (s : BitVec 3) (z : Bool) : Sys2Proof.Laws.RoundTrip.Statement (.amoadd d a b l q s z) :=
  .of32 rfl rfl (by simp (disch := decide) only [decode32, decodeAmo, fld_pack_reg, fld_pack_bv, fld_pack_bit, fld_pack_lit, fld_pack_skip, need, reg, bv, flag, ofNat_reg, ofNat_toNat_bv, flag_bit, Nat.reduceSub, Nat.reduceBEq, BEq.rfl, Bool.and_self, if_true])

theorem Sys2Proof.Laws.RoundTrip.amoand (d a b : Reg) (l q : Bool) (s : BitVec 3) (z : Bool) : Sys2Proof.Laws.RoundTrip.Statement (.amoand d a b l q s z) :=
  .of32 rfl rfl (by simp (disch := decide) only [decode32, decodeAmo, fld_pack_reg, fld_pack_bv, fld_pack_bit, fld_pack_lit, fld_pack_skip, need, reg, bv, flag, ofNat_reg, ofNat_toNat_bv, flag_bit, Nat.reduceSub, Nat.reduceBEq, BEq.rfl, Bool.and_self, if_true])

theorem Sys2Proof.Laws.RoundTrip.amoor (d a b : Reg) (l q : Bool) (s : BitVec 3) (z : Bool) : Sys2Proof.Laws.RoundTrip.Statement (.amoor d a b l q s z) :=
  .of32 rfl rfl (by simp (disch := decide) only [decode32, decodeAmo, fld_pack_reg, fld_pack_bv, fld_pack_bit, fld_pack_lit, fld_pack_skip, need, reg, bv, flag, ofNat_reg, ofNat_toNat_bv, flag_bit, Nat.reduceSub, Nat.reduceBEq, BEq.rfl, Bool.and_self, if_true])

theorem Sys2Proof.Laws.RoundTrip.amoxor (d a b : Reg) (l q : Bool) (s : BitVec 3) (z : Bool) : Sys2Proof.Laws.RoundTrip.Statement (.amoxor d a b l q s z) :=
  .of32 rfl rfl (by simp (disch := decide) only [decode32, decodeAmo, fld_pack_reg, fld_pack_bv, fld_pack_bit, fld_pack_lit, fld_pack_skip, need, reg, bv, flag, ofNat_reg, ofNat_toNat_bv, flag_bit, Nat.reduceSub, Nat.reduceBEq, BEq.rfl, Bool.and_self, if_true])

theorem Sys2Proof.Laws.RoundTrip.amominS (d a b : Reg) (l q : Bool) (s : BitVec 3) (z : Bool) : Sys2Proof.Laws.RoundTrip.Statement (.amominS d a b l q s z) :=
  .of32 rfl rfl (by simp (disch := decide) only [decode32, decodeAmo, fld_pack_reg, fld_pack_bv, fld_pack_bit, fld_pack_lit, fld_pack_skip, need, reg, bv, flag, ofNat_reg, ofNat_toNat_bv, flag_bit, Nat.reduceSub, Nat.reduceBEq, BEq.rfl, Bool.and_self, if_true])

theorem Sys2Proof.Laws.RoundTrip.amominZ (d a b : Reg) (l q : Bool) (s : BitVec 3) (z : Bool) : Sys2Proof.Laws.RoundTrip.Statement (.amominZ d a b l q s z) :=
  .of32 rfl rfl (by simp (disch := decide) only [decode32, decodeAmo, fld_pack_reg, fld_pack_bv, fld_pack_bit, fld_pack_lit, fld_pack_skip, need, reg, bv, flag, ofNat_reg, ofNat_toNat_bv, flag_bit, Nat.reduceSub, Nat.reduceBEq, BEq.rfl, Bool.and_self, if_true])

theorem Sys2Proof.Laws.RoundTrip.amomaxS (d a b : Reg) (l q : Bool) (s : BitVec 3) (z : Bool) : Sys2Proof.Laws.RoundTrip.Statement (.amomaxS d a b l q s z) :=
  .of32 rfl rfl (by simp (disch := decide) only [decode32, decodeAmo, fld_pack_reg, fld_pack_bv, fld_pack_bit, fld_pack_lit, fld_pack_skip, need, reg, bv, flag, ofNat_reg, ofNat_toNat_bv, flag_bit, Nat.reduceSub, Nat.reduceBEq, BEq.rfl, Bool.and_self, if_true])

theorem Sys2Proof.Laws.RoundTrip.amomaxZ (d a b : Reg) (l q : Bool) (s : BitVec 3) (z : Bool) : Sys2Proof.Laws.RoundTrip.Statement (.amomaxZ d a b l q s z) :=
  .of32 rfl rfl (by simp (disch := decide) only [decode32, decodeAmo, fld_pack_reg, fld_pack_bv, fld_pack_bit, fld_pack_lit, fld_pack_skip, need, reg, bv, flag, ofNat_reg, ofNat_toNat_bv, flag_bit, Nat.reduceSub, Nat.reduceBEq, BEq.rfl, Bool.and_self, if_true])

theorem Sys2Proof.Laws.RoundTrip.amocas (d a b : Reg) (l q : Bool) (s : BitVec 3) (z : Bool) : Sys2Proof.Laws.RoundTrip.Statement (.amocas d a b l q s z) :=
  .of32 rfl rfl (by simp (disch := decide) only [decode32, decodeAmo, fld_pack_reg, fld_pack_bv, fld_pack_bit, fld_pack_lit, fld_pack_skip, need, reg, bv, flag, ofNat_reg, ofNat_toNat_bv, flag_bit, Nat.reduceSub, Nat.reduceBEq, BEq.rfl, Bool.and_self, if_true])

theorem Sys2Proof.Laws.RoundTrip.fence (s : BitVec 5) : Sys2Proof.Laws.RoundTrip.Statement (.fence s) :=
  .of32 rfl rfl (by simp (disch := decide) only [decode32, decodeSys, fld_pack_reg, fld_pack_bv, fld_pack_bit, fld_pack_lit, fld_pack_skip, need, reg, bv, flag, ofNat_reg, ofNat_toNat_bv, flag_bit, Nat.reduceSub, Nat.reduceBEq, BEq.rfl, Bool.and_self, if_true])

theorem Sys2Proof.Laws.RoundTrip.mfsr (d : Reg) (n : BitVec 12) : Sys2Proof.Laws.RoundTrip.Statement (.mfsr d n) :=
  .of32 rfl rfl (by simp (disch := decide) only [decode32, decodeSys, fld_pack_reg, fld_pack_bv, fld_pack_bit, fld_pack_lit, fld_pack_skip, need, reg, bv, flag, ofNat_reg, ofNat_toNat_bv, flag_bit, Nat.reduceSub, Nat.reduceBEq, BEq.rfl, Bool.and_self, if_true])

theorem Sys2Proof.Laws.RoundTrip.mtsr (a : Reg) (n : BitVec 12) : Sys2Proof.Laws.RoundTrip.Statement (.mtsr a n) :=
  .of32 rfl rfl (by simp (disch := decide) only [decode32, decodeSys, fld_pack_reg, fld_pack_bv, fld_pack_bit, fld_pack_lit, fld_pack_skip, need, reg, bv, flag, ofNat_reg, ofNat_toNat_bv, flag_bit, Nat.reduceSub, Nat.reduceBEq, BEq.rfl, Bool.and_self, if_true])

theorem Sys2Proof.Laws.RoundTrip.wait (d a : Reg) : Sys2Proof.Laws.RoundTrip.Statement (.wait d a) :=
  .of32 rfl rfl (by simp (disch := decide) only [decode32, decodeSys, fld_pack_reg, fld_pack_bv, fld_pack_bit, fld_pack_lit, fld_pack_skip, need, reg, bv, flag, ofNat_reg, ofNat_toNat_bv, flag_bit, Nat.reduceSub, Nat.reduceBEq, BEq.rfl, Bool.and_self, if_true])

theorem Sys2Proof.Laws.RoundTrip.sev (a : Reg) : Sys2Proof.Laws.RoundTrip.Statement (.sev a) :=
  .of32 rfl rfl (by simp (disch := decide) only [decode32, decodeSys, fld_pack_reg, fld_pack_bv, fld_pack_bit, fld_pack_lit, fld_pack_skip, need, reg, bv, flag, ofNat_reg, ofNat_toNat_bv, flag_bit, Nat.reduceSub, Nat.reduceBEq, BEq.rfl, Bool.and_self, if_true])

theorem Sys2Proof.Laws.RoundTrip.trap (a : Reg) : Sys2Proof.Laws.RoundTrip.Statement (.trap a) :=
  .of32 rfl rfl (by simp (disch := decide) only [decode32, decodeSys, fld_pack_reg, fld_pack_bv, fld_pack_bit, fld_pack_lit, fld_pack_skip, need, reg, bv, flag, ofNat_reg, ofNat_toNat_bv, flag_bit, Nat.reduceSub, Nat.reduceBEq, BEq.rfl, Bool.and_self, if_true])

theorem Sys2Proof.Laws.RoundTrip.tinvVa (a : Reg) : Sys2Proof.Laws.RoundTrip.Statement (.tinvVa a) :=
  .of32 rfl rfl (by simp (disch := decide) only [decode32, decodeSys, fld_pack_reg, fld_pack_bv, fld_pack_bit, fld_pack_lit, fld_pack_skip, need, reg, bv, flag, ofNat_reg, ofNat_toNat_bv, flag_bit, Nat.reduceSub, Nat.reduceBEq, BEq.rfl, Bool.and_self, if_true])

theorem Sys2Proof.Laws.RoundTrip.tinvAsid (a : Reg) : Sys2Proof.Laws.RoundTrip.Statement (.tinvAsid a) :=
  .of32 rfl rfl (by simp (disch := decide) only [decode32, decodeSys, fld_pack_reg, fld_pack_bv, fld_pack_bit, fld_pack_lit, fld_pack_skip, need, reg, bv, flag, ofNat_reg, ofNat_toNat_bv, flag_bit, Nat.reduceSub, Nat.reduceBEq, BEq.rfl, Bool.and_self, if_true])

theorem Sys2Proof.Laws.RoundTrip.tinvAll : Sys2Proof.Laws.RoundTrip.Statement .tinvAll :=
  .of32 rfl rfl (by simp (disch := decide) only [decode32, decodeSys, fld_pack_reg, fld_pack_bv, fld_pack_bit, fld_pack_lit, fld_pack_skip, need, reg, bv, flag, ofNat_reg, ofNat_toNat_bv, flag_bit, Nat.reduceSub, Nat.reduceBEq, BEq.rfl, Bool.and_self, if_true])

theorem Sys2Proof.Laws.RoundTrip.tsync : Sys2Proof.Laws.RoundTrip.Statement .tsync :=
  .of32 rfl rfl (by simp (disch := decide) only [decode32, decodeSys, fld_pack_reg, fld_pack_bv, fld_pack_bit, fld_pack_lit, fld_pack_skip, need, reg, bv, flag, ofNat_reg, ofNat_toNat_bv, flag_bit, Nat.reduceSub, Nat.reduceBEq, BEq.rfl, Bool.and_self, if_true])

theorem Sys2Proof.Laws.RoundTrip.tprobe (d a : Reg) (k : BitVec 2) : Sys2Proof.Laws.RoundTrip.Statement (.tprobe d a k) :=
  .of32 rfl rfl (by simp (disch := decide) only [decode32, decodeSys, fld_pack_reg, fld_pack_bv, fld_pack_bit, fld_pack_lit, fld_pack_skip, need, reg, bv, flag, ofNat_reg, ofNat_toNat_bv, flag_bit, Nat.reduceSub, Nat.reduceBEq, BEq.rfl, Bool.and_self, if_true])

theorem Sys2Proof.Laws.RoundTrip.tret : Sys2Proof.Laws.RoundTrip.Statement .tret :=
  .of32 rfl rfl (by simp (disch := decide) only [decode32, decodeSys, fld_pack_reg, fld_pack_bv, fld_pack_bit, fld_pack_lit, fld_pack_skip, need, reg, bv, flag, ofNat_reg, ofNat_toNat_bv, flag_bit, Nat.reduceSub, Nat.reduceBEq, BEq.rfl, Bool.and_self, if_true])

theorem Sys2Proof.Laws.RoundTrip.hxchg (d : Reg) : Sys2Proof.Laws.RoundTrip.Statement (.hxchg d) :=
  .of32 rfl rfl (by simp (disch := decide) only [decode32, decodeSys, fld_pack_reg, fld_pack_bv, fld_pack_bit, fld_pack_lit, fld_pack_skip, need, reg, bv, flag, ofNat_reg, ofNat_toNat_bv, flag_bit, Nat.reduceSub, Nat.reduceBEq, BEq.rfl, Bool.and_self, if_true])

theorem Sys2Proof.Laws.RoundTrip.ecmrd (d : Reg) : Sys2Proof.Laws.RoundTrip.Statement (.ecmrd d) :=
  .of32 rfl rfl (by simp (disch := decide) only [decode32, decodeSys, fld_pack_reg, fld_pack_bv, fld_pack_bit, fld_pack_lit, fld_pack_skip, need, reg, bv, flag, ofNat_reg, ofNat_toNat_bv, flag_bit, Nat.reduceSub, Nat.reduceBEq, BEq.rfl, Bool.and_self, if_true])

theorem Sys2Proof.Laws.RoundTrip.ecmwr (a : Reg) : Sys2Proof.Laws.RoundTrip.Statement (.ecmwr a) :=
  .of32 rfl rfl (by simp (disch := decide) only [decode32, decodeSys, fld_pack_reg, fld_pack_bv, fld_pack_bit, fld_pack_lit, fld_pack_skip, need, reg, bv, flag, ofNat_reg, ofNat_toNat_bv, flag_bit, Nat.reduceSub, Nat.reduceBEq, BEq.rfl, Bool.and_self, if_true])

theorem Sys2Proof.Laws.RoundTrip.tmset (a : Reg) : Sys2Proof.Laws.RoundTrip.Statement (.tmset a) :=
  .of32 rfl rfl (by simp (disch := decide) only [decode32, decodeSys, fld_pack_reg, fld_pack_bv, fld_pack_bit, fld_pack_lit, fld_pack_skip, need, reg, bv, flag, ofNat_reg, ofNat_toNat_bv, flag_bit, Nat.reduceSub, Nat.reduceBEq, BEq.rfl, Bool.and_self, if_true])

theorem Sys2Proof.Laws.RoundTrip.dbrk : Sys2Proof.Laws.RoundTrip.Statement .dbrk :=
  .of32 rfl rfl (by simp (disch := decide) only [decode32, decodeSys, fld_pack_reg, fld_pack_bv, fld_pack_bit, fld_pack_lit, fld_pack_skip, need, reg, bv, flag, ofNat_reg, ofNat_toNat_bv, flag_bit, Nat.reduceSub, Nat.reduceBEq, BEq.rfl, Bool.and_self, if_true])

theorem Sys2Proof.Laws.RoundTrip.spread (d a : Reg) : Sys2Proof.Laws.RoundTrip.Statement (.spread d a) :=
  .of32 rfl rfl (by simp (disch := decide) only [decode32, decodeSys, fld_pack_reg, fld_pack_bv, fld_pack_bit, fld_pack_lit, fld_pack_skip, need, reg, bv, flag, ofNat_reg, ofNat_toNat_bv, flag_bit, Nat.reduceSub, Nat.reduceBEq, BEq.rfl, Bool.and_self, if_true])

theorem Sys2Proof.Laws.RoundTrip.spclr : Sys2Proof.Laws.RoundTrip.Statement .spclr :=
  .of32 rfl rfl (by simp (disch := decide) only [decode32, decodeSys, fld_pack_reg, fld_pack_bv, fld_pack_bit, fld_pack_lit, fld_pack_skip, need, reg, bv, flag, ofNat_reg, ofNat_toNat_bv, flag_bit, Nat.reduceSub, Nat.reduceBEq, BEq.rfl, Bool.and_self, if_true])

theorem Sys2Proof.Laws.RoundTrip.tmark (a : Reg) : Sys2Proof.Laws.RoundTrip.Statement (.tmark a) :=
  .of32 rfl rfl (by simp (disch := decide) only [decode32, decodeSys, fld_pack_reg, fld_pack_bv, fld_pack_bit, fld_pack_lit, fld_pack_skip, need, reg, bv, flag, ofNat_reg, ofNat_toNat_bv, flag_bit, Nat.reduceSub, Nat.reduceBEq, BEq.rfl, Bool.and_self, if_true])

theorem Sys2Proof.Laws.RoundTrip.beq (a b : Reg) (i : BitVec 12) : Sys2Proof.Laws.RoundTrip.Statement (.beq a b i) :=
  .of32 rfl rfl (by simp (disch := decide) only [decode32, decodeBr, fld_pack_reg, fld_pack_bv, fld_pack_bit, fld_pack_lit, fld_pack_skip, need, reg, bv, flag, ofNat_reg, ofNat_toNat_bv, flag_bit, Nat.reduceSub, Nat.reduceBEq, BEq.rfl, Bool.and_self, if_true])

theorem Sys2Proof.Laws.RoundTrip.bne (a b : Reg) (i : BitVec 12) : Sys2Proof.Laws.RoundTrip.Statement (.bne a b i) :=
  .of32 rfl rfl (by simp (disch := decide) only [decode32, decodeBr, fld_pack_reg, fld_pack_bv, fld_pack_bit, fld_pack_lit, fld_pack_skip, need, reg, bv, flag, ofNat_reg, ofNat_toNat_bv, flag_bit, Nat.reduceSub, Nat.reduceBEq, BEq.rfl, Bool.and_self, if_true])

theorem Sys2Proof.Laws.RoundTrip.bltS (a b : Reg) (i : BitVec 12) : Sys2Proof.Laws.RoundTrip.Statement (.bltS a b i) :=
  .of32 rfl rfl (by simp (disch := decide) only [decode32, decodeBr, fld_pack_reg, fld_pack_bv, fld_pack_bit, fld_pack_lit, fld_pack_skip, need, reg, bv, flag, ofNat_reg, ofNat_toNat_bv, flag_bit, Nat.reduceSub, Nat.reduceBEq, BEq.rfl, Bool.and_self, if_true])

theorem Sys2Proof.Laws.RoundTrip.bgeS (a b : Reg) (i : BitVec 12) : Sys2Proof.Laws.RoundTrip.Statement (.bgeS a b i) :=
  .of32 rfl rfl (by simp (disch := decide) only [decode32, decodeBr, fld_pack_reg, fld_pack_bv, fld_pack_bit, fld_pack_lit, fld_pack_skip, need, reg, bv, flag, ofNat_reg, ofNat_toNat_bv, flag_bit, Nat.reduceSub, Nat.reduceBEq, BEq.rfl, Bool.and_self, if_true])

theorem Sys2Proof.Laws.RoundTrip.bltZ (a b : Reg) (i : BitVec 12) : Sys2Proof.Laws.RoundTrip.Statement (.bltZ a b i) :=
  .of32 rfl rfl (by simp (disch := decide) only [decode32, decodeBr, fld_pack_reg, fld_pack_bv, fld_pack_bit, fld_pack_lit, fld_pack_skip, need, reg, bv, flag, ofNat_reg, ofNat_toNat_bv, flag_bit, Nat.reduceSub, Nat.reduceBEq, BEq.rfl, Bool.and_self, if_true])

theorem Sys2Proof.Laws.RoundTrip.bgeZ (a b : Reg) (i : BitVec 12) : Sys2Proof.Laws.RoundTrip.Statement (.bgeZ a b i) :=
  .of32 rfl rfl (by simp (disch := decide) only [decode32, decodeBr, fld_pack_reg, fld_pack_bv, fld_pack_bit, fld_pack_lit, fld_pack_skip, need, reg, bv, flag, ofNat_reg, ofNat_toNat_bv, flag_bit, Nat.reduceSub, Nat.reduceBEq, BEq.rfl, Bool.and_self, if_true])

theorem Sys2Proof.Laws.RoundTrip.jal (d : Reg) (i : BitVec 20) : Sys2Proof.Laws.RoundTrip.Statement (.jal d i) :=
  .of32 rfl rfl (by simp (disch := decide) only [decode32, fld_pack_reg, fld_pack_bv, fld_pack_bit, fld_pack_lit, fld_pack_skip, need, reg, bv, flag, ofNat_reg, ofNat_toNat_bv, flag_bit, Nat.reduceSub, Nat.reduceBEq, BEq.rfl, Bool.and_self, if_true])

theorem Sys2Proof.Laws.RoundTrip.jalr (d a : Reg) (i : BitVec 15) : Sys2Proof.Laws.RoundTrip.Statement (.jalr d a i) :=
  .of32 rfl rfl (by simp (disch := decide) only [decode32, fld_pack_reg, fld_pack_bv, fld_pack_bit, fld_pack_lit, fld_pack_skip, need, reg, bv, flag, ofNat_reg, ofNat_toNat_bv, flag_bit, Nat.reduceSub, Nat.reduceBEq, BEq.rfl, Bool.and_self, if_true])

theorem Sys2Proof.Laws.RoundTrip.sloop (a : Reg) (n : BitVec 5) : Sys2Proof.Laws.RoundTrip.Statement (.sloop a n) :=
  .of32 rfl rfl (by simp (disch := decide) only [decode32, fld_pack_reg, fld_pack_bv, fld_pack_bit, fld_pack_lit, fld_pack_skip, need, reg, bv, flag, ofNat_reg, ofNat_toNat_bv, flag_bit, Nat.reduceSub, Nat.reduceBEq, BEq.rfl, Bool.and_self, if_true])

theorem Sys2Proof.Laws.RoundTrip.cAddi (d : Reg) (i : BitVec 5) : Sys2Proof.Laws.RoundTrip.Statement (.cAddi d i) :=
  .of16 rfl rfl (by simp (disch := decide) only [decode16, fld_pack_reg, fld_pack_bv, fld_pack_bit, fld_pack_lit, fld_pack_skip, need, reg, bv, flag, ofNat_reg, ofNat_toNat_bv, flag_bit, Nat.reduceSub, Nat.reduceBEq, BEq.rfl, Bool.and_self, if_true])

theorem Sys2Proof.Laws.RoundTrip.cLi (d : Reg) (i : BitVec 5) : Sys2Proof.Laws.RoundTrip.Statement (.cLi d i) :=
  .of16 rfl rfl (by simp (disch := decide) only [decode16, fld_pack_reg, fld_pack_bv, fld_pack_bit, fld_pack_lit, fld_pack_skip, need, reg, bv, flag, ofNat_reg, ofNat_toNat_bv, flag_bit, Nat.reduceSub, Nat.reduceBEq, BEq.rfl, Bool.and_self, if_true])

theorem Sys2Proof.Laws.RoundTrip.cMv (d b : Reg) : Sys2Proof.Laws.RoundTrip.Statement (.cMv d b) :=
  .of16 rfl rfl (by simp (disch := decide) only [decode16, fld_pack_reg, fld_pack_bv, fld_pack_bit, fld_pack_lit, fld_pack_skip, need, reg, bv, flag, ofNat_reg, ofNat_toNat_bv, flag_bit, Nat.reduceSub, Nat.reduceBEq, BEq.rfl, Bool.and_self, if_true])

theorem Sys2Proof.Laws.RoundTrip.cAdd (d b : Reg) : Sys2Proof.Laws.RoundTrip.Statement (.cAdd d b) :=
  .of16 rfl rfl (by simp (disch := decide) only [decode16, fld_pack_reg, fld_pack_bv, fld_pack_bit, fld_pack_lit, fld_pack_skip, need, reg, bv, flag, ofNat_reg, ofNat_toNat_bv, flag_bit, Nat.reduceSub, Nat.reduceBEq, BEq.rfl, Bool.and_self, if_true])

theorem Sys2Proof.Laws.RoundTrip.cSub (d b : Reg) : Sys2Proof.Laws.RoundTrip.Statement (.cSub d b) :=
  .of16 rfl rfl (by simp (disch := decide) only [decode16, fld_pack_reg, fld_pack_bv, fld_pack_bit, fld_pack_lit, fld_pack_skip, need, reg, bv, flag, ofNat_reg, ofNat_toNat_bv, flag_bit, Nat.reduceSub, Nat.reduceBEq, BEq.rfl, Bool.and_self, if_true])

theorem Sys2Proof.Laws.RoundTrip.cAnd (d b : Reg) : Sys2Proof.Laws.RoundTrip.Statement (.cAnd d b) :=
  .of16 rfl rfl (by simp (disch := decide) only [decode16, fld_pack_reg, fld_pack_bv, fld_pack_bit, fld_pack_lit, fld_pack_skip, need, reg, bv, flag, ofNat_reg, ofNat_toNat_bv, flag_bit, Nat.reduceSub, Nat.reduceBEq, BEq.rfl, Bool.and_self, if_true])

theorem Sys2Proof.Laws.RoundTrip.cOr (d b : Reg) : Sys2Proof.Laws.RoundTrip.Statement (.cOr d b) :=
  .of16 rfl rfl (by simp (disch := decide) only [decode16, fld_pack_reg, fld_pack_bv, fld_pack_bit, fld_pack_lit, fld_pack_skip, need, reg, bv, flag, ofNat_reg, ofNat_toNat_bv, flag_bit, Nat.reduceSub, Nat.reduceBEq, BEq.rfl, Bool.and_self, if_true])

theorem Sys2Proof.Laws.RoundTrip.cXor (d b : Reg) : Sys2Proof.Laws.RoundTrip.Statement (.cXor d b) :=
  .of16 rfl rfl (by simp (disch := decide) only [decode16, fld_pack_reg, fld_pack_bv, fld_pack_bit, fld_pack_lit, fld_pack_skip, need, reg, bv, flag, ofNat_reg, ofNat_toNat_bv, flag_bit, Nat.reduceSub, Nat.reduceBEq, BEq.rfl, Bool.and_self, if_true])

theorem Sys2Proof.Laws.RoundTrip.cSlli (d : Reg) (s : BitVec 5) : Sys2Proof.Laws.RoundTrip.Statement (.cSlli d s) :=
  .of16 rfl rfl (by simp (disch := decide) only [decode16, fld_pack_reg, fld_pack_bv, fld_pack_bit, fld_pack_lit, fld_pack_skip, need, reg, bv, flag, ofNat_reg, ofNat_toNat_bv, flag_bit, Nat.reduceSub, Nat.reduceBEq, BEq.rfl, Bool.and_self, if_true])

theorem Sys2Proof.Laws.RoundTrip.cSrli (d : Reg) (s : BitVec 5) : Sys2Proof.Laws.RoundTrip.Statement (.cSrli d s) :=
  .of16 rfl rfl (by simp (disch := decide) only [decode16, fld_pack_reg, fld_pack_bv, fld_pack_bit, fld_pack_lit, fld_pack_skip, need, reg, bv, flag, ofNat_reg, ofNat_toNat_bv, flag_bit, Nat.reduceSub, Nat.reduceBEq, BEq.rfl, Bool.and_self, if_true])

theorem Sys2Proof.Laws.RoundTrip.cJr (b : Reg) : Sys2Proof.Laws.RoundTrip.Statement (.cJr b) :=
  .of16 rfl rfl (by simp (disch := decide) only [decode16, fld_pack_reg, fld_pack_bv, fld_pack_bit, fld_pack_lit, fld_pack_skip, need, reg, bv, flag, ofNat_reg, ofNat_toNat_bv, flag_bit, Nat.reduceSub, Nat.reduceBEq, BEq.rfl, Bool.and_self, if_true])

theorem Sys2Proof.Laws.RoundTrip.cLdsp (d : Reg) (o : BitVec 5) : Sys2Proof.Laws.RoundTrip.Statement (.cLdsp d o) :=
  .of16 rfl rfl (by simp (disch := decide) only [decode16, fld_pack_reg, fld_pack_bv, fld_pack_bit, fld_pack_lit, fld_pack_skip, need, reg, bv, flag, ofNat_reg, ofNat_toNat_bv, flag_bit, Nat.reduceSub, Nat.reduceBEq, BEq.rfl, Bool.and_self, if_true])

theorem Sys2Proof.Laws.RoundTrip.cStsp (s : Reg) (o : BitVec 5) : Sys2Proof.Laws.RoundTrip.Statement (.cStsp s o) :=
  .of16 rfl rfl (by simp (disch := decide) only [decode16, fld_pack_reg, fld_pack_bv, fld_pack_bit, fld_pack_lit, fld_pack_skip, need, reg, bv, flag, ofNat_reg, ofNat_toNat_bv, flag_bit, Nat.reduceSub, Nat.reduceBEq, BEq.rfl, Bool.and_self, if_true])

theorem Sys2Proof.Laws.RoundTrip.cBeqz (a : Reg) (i : BitVec 5) : Sys2Proof.Laws.RoundTrip.Statement (.cBeqz a i) :=
  .of16 rfl rfl (by simp (disch := decide) only [decode16, fld_pack_reg, fld_pack_bv, fld_pack_bit, fld_pack_lit, fld_pack_skip, need, reg, bv, flag, ofNat_reg, ofNat_toNat_bv, flag_bit, Nat.reduceSub, Nat.reduceBEq, BEq.rfl, Bool.and_self, if_true])

theorem Sys2Proof.Laws.RoundTrip.cBnez (a : Reg) (i : BitVec 5) : Sys2Proof.Laws.RoundTrip.Statement (.cBnez a i) :=
  .of16 rfl rfl (by simp (disch := decide) only [decode16, fld_pack_reg, fld_pack_bv, fld_pack_bit, fld_pack_lit, fld_pack_skip, need, reg, bv, flag, ofNat_reg, ofNat_toNat_bv, flag_bit, Nat.reduceSub, Nat.reduceBEq, BEq.rfl, Bool.and_self, if_true])

theorem Sys2Proof.Laws.RoundTrip.cJ (i : BitVec 10) : Sys2Proof.Laws.RoundTrip.Statement (.cJ i) :=
  .of16 rfl rfl (by simp (disch := decide) only [decode16, fld_pack_reg, fld_pack_bv, fld_pack_bit, fld_pack_lit, fld_pack_skip, need, reg, bv, flag, ofNat_reg, ofNat_toNat_bv, flag_bit, Nat.reduceSub, Nat.reduceBEq, BEq.rfl, Bool.and_self, if_true])

theorem Sys2Proof.Laws.RoundTrip.vsetvl (d a b : Reg) (r x : Bool) : Sys2Proof.Laws.RoundTrip.Statement (.vsetvl d a b r x) :=
  .of32 rfl rfl (by simp (disch := decide) only [decode32, decodeVset, fld_pack_reg, fld_pack_bv, fld_pack_bit, fld_pack_lit, fld_pack_skip, need, reg, bv, flag, ofNat_reg, ofNat_toNat_bv, flag_bit, Nat.reduceSub, Nat.reduceBEq, BEq.rfl, Bool.and_self, if_true])

theorem Sys2Proof.Laws.RoundTrip.vsetvli (d a : Reg) (p : Bool) (e : BitVec 3) (g : BitVec 2) (r x : Bool) : Sys2Proof.Laws.RoundTrip.Statement (.vsetvli d a p e g r x) :=
  .of32 rfl rfl (by simp (disch := decide) only [decode32, decodeVset, fld_pack_reg, fld_pack_bv, fld_pack_bit, fld_pack_lit, fld_pack_skip, need, reg, bv, flag, ofNat_reg, ofNat_toNat_bv, flag_bit, Nat.reduceSub, Nat.reduceBEq, BEq.rfl, Bool.and_self, if_true])

theorem Sys2Proof.Laws.RoundTrip.vsetvlm (d a : Reg) (e : BitVec 3) (g : BitVec 2) (r x : Bool) : Sys2Proof.Laws.RoundTrip.Statement (.vsetvlm d a e g r x) :=
  .of32 rfl rfl (by simp (disch := decide) only [decode32, decodeVset, fld_pack_reg, fld_pack_bv, fld_pack_bit, fld_pack_lit, fld_pack_skip, need, reg, bv, flag, ofNat_reg, ofNat_toNat_bv, flag_bit, Nat.reduceSub, Nat.reduceBEq, BEq.rfl, Bool.and_self, if_true])

theorem Sys2Proof.Laws.RoundTrip.vsetfl (d a b : Reg) (e : BitVec 3) (g : BitVec 2) (r x : Bool) : Sys2Proof.Laws.RoundTrip.Statement (.vsetfl d a b e g r x) :=
  .of32 rfl rfl (by simp (disch := decide) only [decode32, decodeVset, fld_pack_reg, fld_pack_bv, fld_pack_bit, fld_pack_lit, fld_pack_skip, need, reg, bv, flag, ofNat_reg, ofNat_toNat_bv, flag_bit, Nat.reduceSub, Nat.reduceBEq, BEq.rfl, Bool.and_self, if_true])

theorem Sys2Proof.Laws.RoundTrip.vld (d a : Reg) (m z : Bool) (f : BitVec 3) (s : Bool) : Sys2Proof.Laws.RoundTrip.Statement (.vld d a m z f s) :=
  .of32 rfl rfl (by simp (disch := decide) only [decode32, decodeVld, fld_pack_reg, fld_pack_bv, fld_pack_bit, fld_pack_lit, fld_pack_skip, need, reg, bv, flag, ofNat_reg, ofNat_toNat_bv, flag_bit, Nat.reduceSub, Nat.reduceBEq, BEq.rfl, Bool.and_self, if_true])

theorem Sys2Proof.Laws.RoundTrip.vlds (d a b : Reg) (m z : Bool) (f : BitVec 3) (s : Bool) : Sys2Proof.Laws.RoundTrip.Statement (.vlds d a b m z f s) :=
  .of32 rfl rfl (by simp (disch := decide) only [decode32, decodeVld, fld_pack_reg, fld_pack_bv, fld_pack_bit, fld_pack_lit, fld_pack_skip, need, reg, bv, flag, ofNat_reg, ofNat_toNat_bv, flag_bit, Nat.reduceSub, Nat.reduceBEq, BEq.rfl, Bool.and_self, if_true])

theorem Sys2Proof.Laws.RoundTrip.vldxu (d a b : Reg) (m z : Bool) (f : BitVec 3) (s : Bool) : Sys2Proof.Laws.RoundTrip.Statement (.vldxu d a b m z f s) :=
  .of32 rfl rfl (by simp (disch := decide) only [decode32, decodeVld, fld_pack_reg, fld_pack_bv, fld_pack_bit, fld_pack_lit, fld_pack_skip, need, reg, bv, flag, ofNat_reg, ofNat_toNat_bv, flag_bit, Nat.reduceSub, Nat.reduceBEq, BEq.rfl, Bool.and_self, if_true])

theorem Sys2Proof.Laws.RoundTrip.vldxo (d a b : Reg) (m z : Bool) (f : BitVec 3) (s : Bool) : Sys2Proof.Laws.RoundTrip.Statement (.vldxo d a b m z f s) :=
  .of32 rfl rfl (by simp (disch := decide) only [decode32, decodeVld, fld_pack_reg, fld_pack_bv, fld_pack_bit, fld_pack_lit, fld_pack_skip, need, reg, bv, flag, ofNat_reg, ofNat_toNat_bv, flag_bit, Nat.reduceSub, Nat.reduceBEq, BEq.rfl, Bool.and_self, if_true])

theorem Sys2Proof.Laws.RoundTrip.vldseg (d a : Reg) (n : BitVec 2) (m z : Bool) (f : BitVec 3) (s : Bool) : Sys2Proof.Laws.RoundTrip.Statement (.vldseg d a n m z f s) :=
  .of32 rfl rfl (by simp (disch := decide) only [decode32, decodeVld, fld_pack_reg, fld_pack_bv, fld_pack_bit, fld_pack_lit, fld_pack_skip, need, reg, bv, flag, ofNat_reg, ofNat_toNat_bv, flag_bit, Nat.reduceSub, Nat.reduceBEq, BEq.rfl, Bool.and_self, if_true])

theorem Sys2Proof.Laws.RoundTrip.vldr (d a : Reg) : Sys2Proof.Laws.RoundTrip.Statement (.vldr d a) :=
  .of32 rfl rfl (by simp (disch := decide) only [decode32, decodeVld, fld_pack_reg, fld_pack_bv, fld_pack_bit, fld_pack_lit, fld_pack_skip, need, reg, bv, flag, ofNat_reg, ofNat_toNat_bv, flag_bit, Nat.reduceSub, Nat.reduceBEq, BEq.rfl, Bool.and_self, if_true])

theorem Sys2Proof.Laws.RoundTrip.vldm (d a : Reg) : Sys2Proof.Laws.RoundTrip.Statement (.vldm d a) :=
  .of32 rfl rfl (by simp (disch := decide) only [decode32, decodeVld, fld_pack_reg, fld_pack_bv, fld_pack_bit, fld_pack_lit, fld_pack_skip, need, reg, bv, flag, ofNat_reg, ofNat_toNat_bv, flag_bit, Nat.reduceSub, Nat.reduceBEq, BEq.rfl, Bool.and_self, if_true])

theorem Sys2Proof.Laws.RoundTrip.vldf (d a : Reg) (m z : Bool) (f : BitVec 3) (s : Bool) : Sys2Proof.Laws.RoundTrip.Statement (.vldf d a m z f s) :=
  .of32 rfl rfl (by simp (disch := decide) only [decode32, decodeVldf, fld_pack_reg, fld_pack_bv, fld_pack_bit, fld_pack_lit, fld_pack_skip, need, reg, bv, flag, ofNat_reg, ofNat_toNat_bv, flag_bit, Nat.reduceSub, Nat.reduceBEq, BEq.rfl, Bool.and_self, if_true])

theorem Sys2Proof.Laws.RoundTrip.vldfs (d a b : Reg) (m z : Bool) (f : BitVec 3) (s : Bool) : Sys2Proof.Laws.RoundTrip.Statement (.vldfs d a b m z f s) :=
  .of32 rfl rfl (by simp (disch := decide) only [decode32, decodeVldf, fld_pack_reg, fld_pack_bv, fld_pack_bit, fld_pack_lit, fld_pack_skip, need, reg, bv, flag, ofNat_reg, ofNat_toNat_bv, flag_bit, Nat.reduceSub, Nat.reduceBEq, BEq.rfl, Bool.and_self, if_true])

theorem Sys2Proof.Laws.RoundTrip.vldfxu (d a b : Reg) (m z : Bool) (f : BitVec 3) (s : Bool) : Sys2Proof.Laws.RoundTrip.Statement (.vldfxu d a b m z f s) :=
  .of32 rfl rfl (by simp (disch := decide) only [decode32, decodeVldf, fld_pack_reg, fld_pack_bv, fld_pack_bit, fld_pack_lit, fld_pack_skip, need, reg, bv, flag, ofNat_reg, ofNat_toNat_bv, flag_bit, Nat.reduceSub, Nat.reduceBEq, BEq.rfl, Bool.and_self, if_true])

theorem Sys2Proof.Laws.RoundTrip.vldfxo (d a b : Reg) (m z : Bool) (f : BitVec 3) (s : Bool) : Sys2Proof.Laws.RoundTrip.Statement (.vldfxo d a b m z f s) :=
  .of32 rfl rfl (by simp (disch := decide) only [decode32, decodeVldf, fld_pack_reg, fld_pack_bv, fld_pack_bit, fld_pack_lit, fld_pack_skip, need, reg, bv, flag, ofNat_reg, ofNat_toNat_bv, flag_bit, Nat.reduceSub, Nat.reduceBEq, BEq.rfl, Bool.and_self, if_true])

theorem Sys2Proof.Laws.RoundTrip.vldfseg (d a : Reg) (n : BitVec 2) (m z : Bool) (f : BitVec 3) (s : Bool) : Sys2Proof.Laws.RoundTrip.Statement (.vldfseg d a n m z f s) :=
  .of32 rfl rfl (by simp (disch := decide) only [decode32, decodeVldf, fld_pack_reg, fld_pack_bv, fld_pack_bit, fld_pack_lit, fld_pack_skip, need, reg, bv, flag, ofNat_reg, ofNat_toNat_bv, flag_bit, Nat.reduceSub, Nat.reduceBEq, BEq.rfl, Bool.and_self, if_true])

theorem Sys2Proof.Laws.RoundTrip.vst (s a : Reg) (m z : Bool) (f : BitVec 3) : Sys2Proof.Laws.RoundTrip.Statement (.vst s a m z f) :=
  .of32 rfl rfl (by simp (disch := decide) only [decode32, decodeVst, fld_pack_reg, fld_pack_bv, fld_pack_bit, fld_pack_lit, fld_pack_skip, need, reg, bv, flag, ofNat_reg, ofNat_toNat_bv, flag_bit, Nat.reduceSub, Nat.reduceBEq, BEq.rfl, Bool.and_self, if_true])

theorem Sys2Proof.Laws.RoundTrip.vsts (s a b : Reg) (m z : Bool) (f : BitVec 3) : Sys2Proof.Laws.RoundTrip.Statement (.vsts s a b m z f) :=
  .of32 rfl rfl (by simp (disch := decide) only [decode32, decodeVst, fld_pack_reg, fld_pack_bv, fld_pack_bit, fld_pack_lit, fld_pack_skip, need, reg, bv, flag, ofNat_reg, ofNat_toNat_bv, flag_bit, Nat.reduceSub, Nat.reduceBEq, BEq.rfl, Bool.and_self, if_true])

theorem Sys2Proof.Laws.RoundTrip.vstxu (s a b : Reg) (m z : Bool) (f : BitVec 3) : Sys2Proof.Laws.RoundTrip.Statement (.vstxu s a b m z f) :=
  .of32 rfl rfl (by simp (disch := decide) only [decode32, decodeVst, fld_pack_reg, fld_pack_bv, fld_pack_bit, fld_pack_lit, fld_pack_skip, need, reg, bv, flag, ofNat_reg, ofNat_toNat_bv, flag_bit, Nat.reduceSub, Nat.reduceBEq, BEq.rfl, Bool.and_self, if_true])

theorem Sys2Proof.Laws.RoundTrip.vstxo (s a b : Reg) (m z : Bool) (f : BitVec 3) : Sys2Proof.Laws.RoundTrip.Statement (.vstxo s a b m z f) :=
  .of32 rfl rfl (by simp (disch := decide) only [decode32, decodeVst, fld_pack_reg, fld_pack_bv, fld_pack_bit, fld_pack_lit, fld_pack_skip, need, reg, bv, flag, ofNat_reg, ofNat_toNat_bv, flag_bit, Nat.reduceSub, Nat.reduceBEq, BEq.rfl, Bool.and_self, if_true])

theorem Sys2Proof.Laws.RoundTrip.vstseg (s a : Reg) (n : BitVec 2) (m z : Bool) (f : BitVec 3) : Sys2Proof.Laws.RoundTrip.Statement (.vstseg s a n m z f) :=
  .of32 rfl rfl (by simp (disch := decide) only [decode32, decodeVst, fld_pack_reg, fld_pack_bv, fld_pack_bit, fld_pack_lit, fld_pack_skip, need, reg, bv, flag, ofNat_reg, ofNat_toNat_bv, flag_bit, Nat.reduceSub, Nat.reduceBEq, BEq.rfl, Bool.and_self, if_true])

theorem Sys2Proof.Laws.RoundTrip.vstr (s a : Reg) : Sys2Proof.Laws.RoundTrip.Statement (.vstr s a) :=
  .of32 rfl rfl (by simp (disch := decide) only [decode32, decodeVst, fld_pack_reg, fld_pack_bv, fld_pack_bit, fld_pack_lit, fld_pack_skip, need, reg, bv, flag, ofNat_reg, ofNat_toNat_bv, flag_bit, Nat.reduceSub, Nat.reduceBEq, BEq.rfl, Bool.and_self, if_true])

theorem Sys2Proof.Laws.RoundTrip.vstm (s a : Reg) : Sys2Proof.Laws.RoundTrip.Statement (.vstm s a) :=
  .of32 rfl rfl (by simp (disch := decide) only [decode32, decodeVst, fld_pack_reg, fld_pack_bv, fld_pack_bit, fld_pack_lit, fld_pack_skip, need, reg, bv, flag, ofNat_reg, ofNat_toNat_bv, flag_bit, Nat.reduceSub, Nat.reduceBEq, BEq.rfl, Bool.and_self, if_true])

theorem Sys2Proof.Laws.RoundTrip.vadd (v : VArgs) : Sys2Proof.Laws.RoundTrip.Statement (.vadd v) :=
  .of32 rfl rfl (by simp (disch := decide) only [decode32, decodeVint, vargs, fld_pack_reg, fld_pack_bv, fld_pack_bit, fld_pack_lit, fld_pack_skip, need, reg, bv, flag, ofNat_reg, ofNat_toNat_bv, flag_bit, Nat.reduceSub, Nat.reduceBEq, BEq.rfl, Bool.and_self, if_true])

theorem Sys2Proof.Laws.RoundTrip.vsub (v : VArgs) : Sys2Proof.Laws.RoundTrip.Statement (.vsub v) :=
  .of32 rfl rfl (by simp (disch := decide) only [decode32, decodeVint, vargs, fld_pack_reg, fld_pack_bv, fld_pack_bit, fld_pack_lit, fld_pack_skip, need, reg, bv, flag, ofNat_reg, ofNat_toNat_bv, flag_bit, Nat.reduceSub, Nat.reduceBEq, BEq.rfl, Bool.and_self, if_true])

theorem Sys2Proof.Laws.RoundTrip.vrsub (v : VArgs) : Sys2Proof.Laws.RoundTrip.Statement (.vrsub v) :=
  .of32 rfl rfl (by simp (disch := decide) only [decode32, decodeVint, vargs, fld_pack_reg, fld_pack_bv, fld_pack_bit, fld_pack_lit, fld_pack_skip, need, reg, bv, flag, ofNat_reg, ofNat_toNat_bv, flag_bit, Nat.reduceSub, Nat.reduceBEq, BEq.rfl, Bool.and_self, if_true])

theorem Sys2Proof.Laws.RoundTrip.vminS (v : VArgs) : Sys2Proof.Laws.RoundTrip.Statement (.vminS v) :=
  .of32 rfl rfl (by simp (disch := decide) only [decode32, decodeVint, vargs, fld_pack_reg, fld_pack_bv, fld_pack_bit, fld_pack_lit, fld_pack_skip, need, reg, bv, flag, ofNat_reg, ofNat_toNat_bv, flag_bit, Nat.reduceSub, Nat.reduceBEq, BEq.rfl, Bool.and_self, if_true])

theorem Sys2Proof.Laws.RoundTrip.vminZ (v : VArgs) : Sys2Proof.Laws.RoundTrip.Statement (.vminZ v) :=
  .of32 rfl rfl (by simp (disch := decide) only [decode32, decodeVint, vargs, fld_pack_reg, fld_pack_bv, fld_pack_bit, fld_pack_lit, fld_pack_skip, need, reg, bv, flag, ofNat_reg, ofNat_toNat_bv, flag_bit, Nat.reduceSub, Nat.reduceBEq, BEq.rfl, Bool.and_self, if_true])

theorem Sys2Proof.Laws.RoundTrip.vmaxS (v : VArgs) : Sys2Proof.Laws.RoundTrip.Statement (.vmaxS v) :=
  .of32 rfl rfl (by simp (disch := decide) only [decode32, decodeVint, vargs, fld_pack_reg, fld_pack_bv, fld_pack_bit, fld_pack_lit, fld_pack_skip, need, reg, bv, flag, ofNat_reg, ofNat_toNat_bv, flag_bit, Nat.reduceSub, Nat.reduceBEq, BEq.rfl, Bool.and_self, if_true])

theorem Sys2Proof.Laws.RoundTrip.vmaxZ (v : VArgs) : Sys2Proof.Laws.RoundTrip.Statement (.vmaxZ v) :=
  .of32 rfl rfl (by simp (disch := decide) only [decode32, decodeVint, vargs, fld_pack_reg, fld_pack_bv, fld_pack_bit, fld_pack_lit, fld_pack_skip, need, reg, bv, flag, ofNat_reg, ofNat_toNat_bv, flag_bit, Nat.reduceSub, Nat.reduceBEq, BEq.rfl, Bool.and_self, if_true])

theorem Sys2Proof.Laws.RoundTrip.vand (v : VArgs) : Sys2Proof.Laws.RoundTrip.Statement (.vand v) :=
  .of32 rfl rfl (by simp (disch := decide) only [decode32, decodeVint, vargs, fld_pack_reg, fld_pack_bv, fld_pack_bit, fld_pack_lit, fld_pack_skip, need, reg, bv, flag, ofNat_reg, ofNat_toNat_bv, flag_bit, Nat.reduceSub, Nat.reduceBEq, BEq.rfl, Bool.and_self, if_true])

theorem Sys2Proof.Laws.RoundTrip.vor (v : VArgs) : Sys2Proof.Laws.RoundTrip.Statement (.vor v) :=
  .of32 rfl rfl (by simp (disch := decide) only [decode32, decodeVint, vargs, fld_pack_reg, fld_pack_bv, fld_pack_bit, fld_pack_lit, fld_pack_skip, need, reg, bv, flag, ofNat_reg, ofNat_toNat_bv, flag_bit, Nat.reduceSub, Nat.reduceBEq, BEq.rfl, Bool.and_self, if_true])

theorem Sys2Proof.Laws.RoundTrip.vxor (v : VArgs) : Sys2Proof.Laws.RoundTrip.Statement (.vxor v) :=
  .of32 rfl rfl (by simp (disch := decide) only [decode32, decodeVint, vargs, fld_pack_reg, fld_pack_bv, fld_pack_bit, fld_pack_lit, fld_pack_skip, need, reg, bv, flag, ofNat_reg, ofNat_toNat_bv, flag_bit, Nat.reduceSub, Nat.reduceBEq, BEq.rfl, Bool.and_self, if_true])

theorem Sys2Proof.Laws.RoundTrip.vsll (v : VArgs) : Sys2Proof.Laws.RoundTrip.Statement (.vsll v) :=
  .of32 rfl rfl (by simp (disch := decide) only [decode32, decodeVint, vargs, fld_pack_reg, fld_pack_bv, fld_pack_bit, fld_pack_lit, fld_pack_skip, need, reg, bv, flag, ofNat_reg, ofNat_toNat_bv, flag_bit, Nat.reduceSub, Nat.reduceBEq, BEq.rfl, Bool.and_self, if_true])

theorem Sys2Proof.Laws.RoundTrip.vsrl (v : VArgs) : Sys2Proof.Laws.RoundTrip.Statement (.vsrl v) :=
  .of32 rfl rfl (by simp (disch := decide) only [decode32, decodeVint, vargs, fld_pack_reg, fld_pack_bv, fld_pack_bit, fld_pack_lit, fld_pack_skip, need, reg, bv, flag, ofNat_reg, ofNat_toNat_bv, flag_bit, Nat.reduceSub, Nat.reduceBEq, BEq.rfl, Bool.and_self, if_true])

theorem Sys2Proof.Laws.RoundTrip.vsra (v : VArgs) : Sys2Proof.Laws.RoundTrip.Statement (.vsra v) :=
  .of32 rfl rfl (by simp (disch := decide) only [decode32, decodeVint, vargs, fld_pack_reg, fld_pack_bv, fld_pack_bit, fld_pack_lit, fld_pack_skip, need, reg, bv, flag, ofNat_reg, ofNat_toNat_bv, flag_bit, Nat.reduceSub, Nat.reduceBEq, BEq.rfl, Bool.and_self, if_true])

theorem Sys2Proof.Laws.RoundTrip.vmul (v : VArgs) : Sys2Proof.Laws.RoundTrip.Statement (.vmul v) :=
  .of32 rfl rfl (by simp (disch := decide) only [decode32, decodeVint, vargs, fld_pack_reg, fld_pack_bv, fld_pack_bit, fld_pack_lit, fld_pack_skip, need, reg, bv, flag, ofNat_reg, ofNat_toNat_bv, flag_bit, Nat.reduceSub, Nat.reduceBEq, BEq.rfl, Bool.and_self, if_true])

theorem Sys2Proof.Laws.RoundTrip.vmulhS (v : VArgs) : Sys2Proof.Laws.RoundTrip.Statement (.vmulhS v) :=
  .of32 rfl rfl (by simp (disch := decide) only [decode32, decodeVint, vargs, fld_pack_reg, fld_pack_bv, fld_pack_bit, fld_pack_lit, fld_pack_skip, need, reg, bv, flag, ofNat_reg, ofNat_toNat_bv, flag_bit, Nat.reduceSub, Nat.reduceBEq, BEq.rfl, Bool.and_self, if_true])

theorem Sys2Proof.Laws.RoundTrip.vmulhZ (v : VArgs) : Sys2Proof.Laws.RoundTrip.Statement (.vmulhZ v) :=
  .of32 rfl rfl (by simp (disch := decide) only [decode32, decodeVint, vargs, fld_pack_reg, fld_pack_bv, fld_pack_bit, fld_pack_lit, fld_pack_skip, need, reg, bv, flag, ofNat_reg, ofNat_toNat_bv, flag_bit, Nat.reduceSub, Nat.reduceBEq, BEq.rfl, Bool.and_self, if_true])

theorem Sys2Proof.Laws.RoundTrip.vdivS (v : VArgs) : Sys2Proof.Laws.RoundTrip.Statement (.vdivS v) :=
  .of32 rfl rfl (by simp (disch := decide) only [decode32, decodeVint, vargs, fld_pack_reg, fld_pack_bv, fld_pack_bit, fld_pack_lit, fld_pack_skip, need, reg, bv, flag, ofNat_reg, ofNat_toNat_bv, flag_bit, Nat.reduceSub, Nat.reduceBEq, BEq.rfl, Bool.and_self, if_true])

theorem Sys2Proof.Laws.RoundTrip.vdivZ (v : VArgs) : Sys2Proof.Laws.RoundTrip.Statement (.vdivZ v) :=
  .of32 rfl rfl (by simp (disch := decide) only [decode32, decodeVint, vargs, fld_pack_reg, fld_pack_bv, fld_pack_bit, fld_pack_lit, fld_pack_skip, need, reg, bv, flag, ofNat_reg, ofNat_toNat_bv, flag_bit, Nat.reduceSub, Nat.reduceBEq, BEq.rfl, Bool.and_self, if_true])

theorem Sys2Proof.Laws.RoundTrip.vremS (v : VArgs) : Sys2Proof.Laws.RoundTrip.Statement (.vremS v) :=
  .of32 rfl rfl (by simp (disch := decide) only [decode32, decodeVint, vargs, fld_pack_reg, fld_pack_bv, fld_pack_bit, fld_pack_lit, fld_pack_skip, need, reg, bv, flag, ofNat_reg, ofNat_toNat_bv, flag_bit, Nat.reduceSub, Nat.reduceBEq, BEq.rfl, Bool.and_self, if_true])

theorem Sys2Proof.Laws.RoundTrip.vremZ (v : VArgs) : Sys2Proof.Laws.RoundTrip.Statement (.vremZ v) :=
  .of32 rfl rfl (by simp (disch := decide) only [decode32, decodeVint, vargs, fld_pack_reg, fld_pack_bv, fld_pack_bit, fld_pack_lit, fld_pack_skip, need, reg, bv, flag, ofNat_reg, ofNat_toNat_bv, flag_bit, Nat.reduceSub, Nat.reduceBEq, BEq.rfl, Bool.and_self, if_true])

theorem Sys2Proof.Laws.RoundTrip.vmacc (v : VArgs) : Sys2Proof.Laws.RoundTrip.Statement (.vmacc v) :=
  .of32 rfl rfl (by simp (disch := decide) only [decode32, decodeVint, vargs, fld_pack_reg, fld_pack_bv, fld_pack_bit, fld_pack_lit, fld_pack_skip, need, reg, bv, flag, ofNat_reg, ofNat_toNat_bv, flag_bit, Nat.reduceSub, Nat.reduceBEq, BEq.rfl, Bool.and_self, if_true])

theorem Sys2Proof.Laws.RoundTrip.vnmsac (v : VArgs) : Sys2Proof.Laws.RoundTrip.Statement (.vnmsac v) :=
  .of32 rfl rfl (by simp (disch := decide) only [decode32, decodeVint, vargs, fld_pack_reg, fld_pack_bv, fld_pack_bit, fld_pack_lit, fld_pack_skip, need, reg, bv, flag, ofNat_reg, ofNat_toNat_bv, flag_bit, Nat.reduceSub, Nat.reduceBEq, BEq.rfl, Bool.and_self, if_true])

theorem Sys2Proof.Laws.RoundTrip.vmerge (d a b : Reg) (z w : Bool) : Sys2Proof.Laws.RoundTrip.Statement (.vmerge d a b z w) :=
  .of32 rfl rfl (by simp (disch := decide) only [decode32, decodeVint, fld_pack_reg, fld_pack_bv, fld_pack_bit, fld_pack_lit, fld_pack_skip, need, reg, bv, flag, ofNat_reg, ofNat_toNat_bv, flag_bit, Nat.reduceSub, Nat.reduceBEq, BEq.rfl, Bool.and_self, if_true])

theorem Sys2Proof.Laws.RoundTrip.vmv (d b : Reg) (m z w : Bool) : Sys2Proof.Laws.RoundTrip.Statement (.vmv d b m z w) :=
  .of32 rfl rfl (by simp (disch := decide) only [decode32, decodeVint, fld_pack_reg, fld_pack_bv, fld_pack_bit, fld_pack_lit, fld_pack_skip, need, reg, bv, flag, ofNat_reg, ofNat_toNat_bv, flag_bit, Nat.reduceSub, Nat.reduceBEq, BEq.rfl, Bool.and_self, if_true])

theorem Sys2Proof.Laws.RoundTrip.vwaddS (v : VArgs) : Sys2Proof.Laws.RoundTrip.Statement (.vwaddS v) :=
  .of32 rfl rfl (by simp (disch := decide) only [decode32, decodeVint, vargs, fld_pack_reg, fld_pack_bv, fld_pack_bit, fld_pack_lit, fld_pack_skip, need, reg, bv, flag, ofNat_reg, ofNat_toNat_bv, flag_bit, Nat.reduceSub, Nat.reduceBEq, BEq.rfl, Bool.and_self, if_true])

theorem Sys2Proof.Laws.RoundTrip.vwaddZ (v : VArgs) : Sys2Proof.Laws.RoundTrip.Statement (.vwaddZ v) :=
  .of32 rfl rfl (by simp (disch := decide) only [decode32, decodeVint, vargs, fld_pack_reg, fld_pack_bv, fld_pack_bit, fld_pack_lit, fld_pack_skip, need, reg, bv, flag, ofNat_reg, ofNat_toNat_bv, flag_bit, Nat.reduceSub, Nat.reduceBEq, BEq.rfl, Bool.and_self, if_true])

theorem Sys2Proof.Laws.RoundTrip.vwsubS (v : VArgs) : Sys2Proof.Laws.RoundTrip.Statement (.vwsubS v) :=
  .of32 rfl rfl (by simp (disch := decide) only [decode32, decodeVint, vargs, fld_pack_reg, fld_pack_bv, fld_pack_bit, fld_pack_lit, fld_pack_skip, need, reg, bv, flag, ofNat_reg, ofNat_toNat_bv, flag_bit, Nat.reduceSub, Nat.reduceBEq, BEq.rfl, Bool.and_self, if_true])

theorem Sys2Proof.Laws.RoundTrip.vwsubZ (v : VArgs) : Sys2Proof.Laws.RoundTrip.Statement (.vwsubZ v) :=
  .of32 rfl rfl (by simp (disch := decide) only [decode32, decodeVint, vargs, fld_pack_reg, fld_pack_bv, fld_pack_bit, fld_pack_lit, fld_pack_skip, need, reg, bv, flag, ofNat_reg, ofNat_toNat_bv, flag_bit, Nat.reduceSub, Nat.reduceBEq, BEq.rfl, Bool.and_self, if_true])

theorem Sys2Proof.Laws.RoundTrip.vwmulS (v : VArgs) : Sys2Proof.Laws.RoundTrip.Statement (.vwmulS v) :=
  .of32 rfl rfl (by simp (disch := decide) only [decode32, decodeVint, vargs, fld_pack_reg, fld_pack_bv, fld_pack_bit, fld_pack_lit, fld_pack_skip, need, reg, bv, flag, ofNat_reg, ofNat_toNat_bv, flag_bit, Nat.reduceSub, Nat.reduceBEq, BEq.rfl, Bool.and_self, if_true])

theorem Sys2Proof.Laws.RoundTrip.vwmulZ (v : VArgs) : Sys2Proof.Laws.RoundTrip.Statement (.vwmulZ v) :=
  .of32 rfl rfl (by simp (disch := decide) only [decode32, decodeVint, vargs, fld_pack_reg, fld_pack_bv, fld_pack_bit, fld_pack_lit, fld_pack_skip, need, reg, bv, flag, ofNat_reg, ofNat_toNat_bv, flag_bit, Nat.reduceSub, Nat.reduceBEq, BEq.rfl, Bool.and_self, if_true])

theorem Sys2Proof.Laws.RoundTrip.vwmaccS (v : VArgs) : Sys2Proof.Laws.RoundTrip.Statement (.vwmaccS v) :=
  .of32 rfl rfl (by simp (disch := decide) only [decode32, decodeVint, vargs, fld_pack_reg, fld_pack_bv, fld_pack_bit, fld_pack_lit, fld_pack_skip, need, reg, bv, flag, ofNat_reg, ofNat_toNat_bv, flag_bit, Nat.reduceSub, Nat.reduceBEq, BEq.rfl, Bool.and_self, if_true])

theorem Sys2Proof.Laws.RoundTrip.vwmaccZ (v : VArgs) : Sys2Proof.Laws.RoundTrip.Statement (.vwmaccZ v) :=
  .of32 rfl rfl (by simp (disch := decide) only [decode32, decodeVint, vargs, fld_pack_reg, fld_pack_bv, fld_pack_bit, fld_pack_lit, fld_pack_skip, need, reg, bv, flag, ofNat_reg, ofNat_toNat_bv, flag_bit, Nat.reduceSub, Nat.reduceBEq, BEq.rfl, Bool.and_self, if_true])

theorem Sys2Proof.Laws.RoundTrip.vcrc (v : VArgs) : Sys2Proof.Laws.RoundTrip.Statement (.vcrc v) :=
  .of32 rfl rfl (by simp (disch := decide) only [decode32, decodeVint, vargs, fld_pack_reg, fld_pack_bv, fld_pack_bit, fld_pack_lit, fld_pack_skip, need, reg, bv, flag, ofNat_reg, ofNat_toNat_bv, flag_bit, Nat.reduceSub, Nat.reduceBEq, BEq.rfl, Bool.and_self, if_true])

theorem Sys2Proof.Laws.RoundTrip.vhash (v : VArgs) : Sys2Proof.Laws.RoundTrip.Statement (.vhash v) :=
  .of32 rfl rfl (by simp (disch := decide) only [decode32, decodeVint, vargs, fld_pack_reg, fld_pack_bv, fld_pack_bit, fld_pack_lit, fld_pack_skip, need, reg, bv, flag, ofNat_reg, ofNat_toNat_bv, flag_bit, Nat.reduceSub, Nat.reduceBEq, BEq.rfl, Bool.and_self, if_true])

theorem Sys2Proof.Laws.RoundTrip.vsaddS (v : VArgs) : Sys2Proof.Laws.RoundTrip.Statement (.vsaddS v) :=
  .of32 rfl rfl (by simp (disch := decide) only [decode32, decodeVfix, vargs, fld_pack_reg, fld_pack_bv, fld_pack_bit, fld_pack_lit, fld_pack_skip, need, reg, bv, flag, ofNat_reg, ofNat_toNat_bv, flag_bit, Nat.reduceSub, Nat.reduceBEq, BEq.rfl, Bool.and_self, if_true])

theorem Sys2Proof.Laws.RoundTrip.vsaddZ (v : VArgs) : Sys2Proof.Laws.RoundTrip.Statement (.vsaddZ v) :=
  .of32 rfl rfl (by simp (disch := decide) only [decode32, decodeVfix, vargs, fld_pack_reg, fld_pack_bv, fld_pack_bit, fld_pack_lit, fld_pack_skip, need, reg, bv, flag, ofNat_reg, ofNat_toNat_bv, flag_bit, Nat.reduceSub, Nat.reduceBEq, BEq.rfl, Bool.and_self, if_true])

theorem Sys2Proof.Laws.RoundTrip.vssubS (v : VArgs) : Sys2Proof.Laws.RoundTrip.Statement (.vssubS v) :=
  .of32 rfl rfl (by simp (disch := decide) only [decode32, decodeVfix, vargs, fld_pack_reg, fld_pack_bv, fld_pack_bit, fld_pack_lit, fld_pack_skip, need, reg, bv, flag, ofNat_reg, ofNat_toNat_bv, flag_bit, Nat.reduceSub, Nat.reduceBEq, BEq.rfl, Bool.and_self, if_true])

theorem Sys2Proof.Laws.RoundTrip.vssubZ (v : VArgs) : Sys2Proof.Laws.RoundTrip.Statement (.vssubZ v) :=
  .of32 rfl rfl (by simp (disch := decide) only [decode32, decodeVfix, vargs, fld_pack_reg, fld_pack_bv, fld_pack_bit, fld_pack_lit, fld_pack_skip, need, reg, bv, flag, ofNat_reg, ofNat_toNat_bv, flag_bit, Nat.reduceSub, Nat.reduceBEq, BEq.rfl, Bool.and_self, if_true])

theorem Sys2Proof.Laws.RoundTrip.vaaddS (v : VArgs) : Sys2Proof.Laws.RoundTrip.Statement (.vaaddS v) :=
  .of32 rfl rfl (by simp (disch := decide) only [decode32, decodeVfix, vargs, fld_pack_reg, fld_pack_bv, fld_pack_bit, fld_pack_lit, fld_pack_skip, need, reg, bv, flag, ofNat_reg, ofNat_toNat_bv, flag_bit, Nat.reduceSub, Nat.reduceBEq, BEq.rfl, Bool.and_self, if_true])

theorem Sys2Proof.Laws.RoundTrip.vaaddZ (v : VArgs) : Sys2Proof.Laws.RoundTrip.Statement (.vaaddZ v) :=
  .of32 rfl rfl (by simp (disch := decide) only [decode32, decodeVfix, vargs, fld_pack_reg, fld_pack_bv, fld_pack_bit, fld_pack_lit, fld_pack_skip, need, reg, bv, flag, ofNat_reg, ofNat_toNat_bv, flag_bit, Nat.reduceSub, Nat.reduceBEq, BEq.rfl, Bool.and_self, if_true])

theorem Sys2Proof.Laws.RoundTrip.vasubS (v : VArgs) : Sys2Proof.Laws.RoundTrip.Statement (.vasubS v) :=
  .of32 rfl rfl (by simp (disch := decide) only [decode32, decodeVfix, vargs, fld_pack_reg, fld_pack_bv, fld_pack_bit, fld_pack_lit, fld_pack_skip, need, reg, bv, flag, ofNat_reg, ofNat_toNat_bv, flag_bit, Nat.reduceSub, Nat.reduceBEq, BEq.rfl, Bool.and_self, if_true])

theorem Sys2Proof.Laws.RoundTrip.vasubZ (v : VArgs) : Sys2Proof.Laws.RoundTrip.Statement (.vasubZ v) :=
  .of32 rfl rfl (by simp (disch := decide) only [decode32, decodeVfix, vargs, fld_pack_reg, fld_pack_bv, fld_pack_bit, fld_pack_lit, fld_pack_skip, need, reg, bv, flag, ofNat_reg, ofNat_toNat_bv, flag_bit, Nat.reduceSub, Nat.reduceBEq, BEq.rfl, Bool.and_self, if_true])

theorem Sys2Proof.Laws.RoundTrip.vsmulS (v : VArgs) : Sys2Proof.Laws.RoundTrip.Statement (.vsmulS v) :=
  .of32 rfl rfl (by simp (disch := decide) only [decode32, decodeVfix, vargs, fld_pack_reg, fld_pack_bv, fld_pack_bit, fld_pack_lit, fld_pack_skip, need, reg, bv, flag, ofNat_reg, ofNat_toNat_bv, flag_bit, Nat.reduceSub, Nat.reduceBEq, BEq.rfl, Bool.and_self, if_true])

theorem Sys2Proof.Laws.RoundTrip.vssraS (v : VArgs) : Sys2Proof.Laws.RoundTrip.Statement (.vssraS v) :=
  .of32 rfl rfl (by simp (disch := decide) only [decode32, decodeVfix, vargs, fld_pack_reg, fld_pack_bv, fld_pack_bit, fld_pack_lit, fld_pack_skip, need, reg, bv, flag, ofNat_reg, ofNat_toNat_bv, flag_bit, Nat.reduceSub, Nat.reduceBEq, BEq.rfl, Bool.and_self, if_true])

theorem Sys2Proof.Laws.RoundTrip.vssrlZ (v : VArgs) : Sys2Proof.Laws.RoundTrip.Statement (.vssrlZ v) :=
  .of32 rfl rfl (by simp (disch := decide) only [decode32, decodeVfix, vargs, fld_pack_reg, fld_pack_bv, fld_pack_bit, fld_pack_lit, fld_pack_skip, need, reg, bv, flag, ofNat_reg, ofNat_toNat_bv, flag_bit, Nat.reduceSub, Nat.reduceBEq, BEq.rfl, Bool.and_self, if_true])

theorem Sys2Proof.Laws.RoundTrip.vnclipS (v : VArgs) : Sys2Proof.Laws.RoundTrip.Statement (.vnclipS v) :=
  .of32 rfl rfl (by simp (disch := decide) only [decode32, decodeVfix, vargs, fld_pack_reg, fld_pack_bv, fld_pack_bit, fld_pack_lit, fld_pack_skip, need, reg, bv, flag, ofNat_reg, ofNat_toNat_bv, flag_bit, Nat.reduceSub, Nat.reduceBEq, BEq.rfl, Bool.and_self, if_true])

theorem Sys2Proof.Laws.RoundTrip.vnclipZ (v : VArgs) : Sys2Proof.Laws.RoundTrip.Statement (.vnclipZ v) :=
  .of32 rfl rfl (by simp (disch := decide) only [decode32, decodeVfix, vargs, fld_pack_reg, fld_pack_bv, fld_pack_bit, fld_pack_lit, fld_pack_skip, need, reg, bv, flag, ofNat_reg, ofNat_toNat_bv, flag_bit, Nat.reduceSub, Nat.reduceBEq, BEq.rfl, Bool.and_self, if_true])

theorem Sys2Proof.Laws.RoundTrip.vnclipSu (v : VArgs) : Sys2Proof.Laws.RoundTrip.Statement (.vnclipSu v) :=
  .of32 rfl rfl (by simp (disch := decide) only [decode32, decodeVfix, vargs, fld_pack_reg, fld_pack_bv, fld_pack_bit, fld_pack_lit, fld_pack_skip, need, reg, bv, flag, ofNat_reg, ofNat_toNat_bv, flag_bit, Nat.reduceSub, Nat.reduceBEq, BEq.rfl, Bool.and_self, if_true])

theorem Sys2Proof.Laws.RoundTrip.vdot4S (v : VArgs) : Sys2Proof.Laws.RoundTrip.Statement (.vdot4S v) :=
  .of32 rfl rfl (by simp (disch := decide) only [decode32, decodeVfix, vargs, fld_pack_reg, fld_pack_bv, fld_pack_bit, fld_pack_lit, fld_pack_skip, need, reg, bv, flag, ofNat_reg, ofNat_toNat_bv, flag_bit, Nat.reduceSub, Nat.reduceBEq, BEq.rfl, Bool.and_self, if_true])

theorem Sys2Proof.Laws.RoundTrip.vdot4Z (v : VArgs) : Sys2Proof.Laws.RoundTrip.Statement (.vdot4Z v) :=
  .of32 rfl rfl (by simp (disch := decide) only [decode32, decodeVfix, vargs, fld_pack_reg, fld_pack_bv, fld_pack_bit, fld_pack_lit, fld_pack_skip, need, reg, bv, flag, ofNat_reg, ofNat_toNat_bv, flag_bit, Nat.reduceSub, Nat.reduceBEq, BEq.rfl, Bool.and_self, if_true])

theorem Sys2Proof.Laws.RoundTrip.vdot4Su (v : VArgs) : Sys2Proof.Laws.RoundTrip.Statement (.vdot4Su v) :=
  .of32 rfl rfl (by simp (disch := decide) only [decode32, decodeVfix, vargs, fld_pack_reg, fld_pack_bv, fld_pack_bit, fld_pack_lit, fld_pack_skip, need, reg, bv, flag, ofNat_reg, ofNat_toNat_bv, flag_bit, Nat.reduceSub, Nat.reduceBEq, BEq.rfl, Bool.and_self, if_true])

theorem Sys2Proof.Laws.RoundTrip.vmseq (v : VArgs) : Sys2Proof.Laws.RoundTrip.Statement (.vmseq v) :=
  .of32 rfl rfl (by simp (disch := decide) only [decode32, decodeVmask, vargs, fld_pack_reg, fld_pack_bv, fld_pack_bit, fld_pack_lit, fld_pack_skip, need, reg, bv, flag, ofNat_reg, ofNat_toNat_bv, flag_bit, Nat.reduceSub, Nat.reduceBEq, BEq.rfl, Bool.and_self, if_true])

theorem Sys2Proof.Laws.RoundTrip.vmsne (v : VArgs) : Sys2Proof.Laws.RoundTrip.Statement (.vmsne v) :=
  .of32 rfl rfl (by simp (disch := decide) only [decode32, decodeVmask, vargs, fld_pack_reg, fld_pack_bv, fld_pack_bit, fld_pack_lit, fld_pack_skip, need, reg, bv, flag, ofNat_reg, ofNat_toNat_bv, flag_bit, Nat.reduceSub, Nat.reduceBEq, BEq.rfl, Bool.and_self, if_true])

theorem Sys2Proof.Laws.RoundTrip.vmsltS (v : VArgs) : Sys2Proof.Laws.RoundTrip.Statement (.vmsltS v) :=
  .of32 rfl rfl (by simp (disch := decide) only [decode32, decodeVmask, vargs, fld_pack_reg, fld_pack_bv, fld_pack_bit, fld_pack_lit, fld_pack_skip, need, reg, bv, flag, ofNat_reg, ofNat_toNat_bv, flag_bit, Nat.reduceSub, Nat.reduceBEq, BEq.rfl, Bool.and_self, if_true])

theorem Sys2Proof.Laws.RoundTrip.vmsltZ (v : VArgs) : Sys2Proof.Laws.RoundTrip.Statement (.vmsltZ v) :=
  .of32 rfl rfl (by simp (disch := decide) only [decode32, decodeVmask, vargs, fld_pack_reg, fld_pack_bv, fld_pack_bit, fld_pack_lit, fld_pack_skip, need, reg, bv, flag, ofNat_reg, ofNat_toNat_bv, flag_bit, Nat.reduceSub, Nat.reduceBEq, BEq.rfl, Bool.and_self, if_true])

theorem Sys2Proof.Laws.RoundTrip.vmsleS (v : VArgs) : Sys2Proof.Laws.RoundTrip.Statement (.vmsleS v) :=
  .of32 rfl rfl (by simp (disch := decide) only [decode32, decodeVmask, vargs, fld_pack_reg, fld_pack_bv, fld_pack_bit, fld_pack_lit, fld_pack_skip, need, reg, bv, flag, ofNat_reg, ofNat_toNat_bv, flag_bit, Nat.reduceSub, Nat.reduceBEq, BEq.rfl, Bool.and_self, if_true])

theorem Sys2Proof.Laws.RoundTrip.vmsleZ (v : VArgs) : Sys2Proof.Laws.RoundTrip.Statement (.vmsleZ v) :=
  .of32 rfl rfl (by simp (disch := decide) only [decode32, decodeVmask, vargs, fld_pack_reg, fld_pack_bv, fld_pack_bit, fld_pack_lit, fld_pack_skip, need, reg, bv, flag, ofNat_reg, ofNat_toNat_bv, flag_bit, Nat.reduceSub, Nat.reduceBEq, BEq.rfl, Bool.and_self, if_true])

theorem Sys2Proof.Laws.RoundTrip.vmsgtS (v : VArgs) : Sys2Proof.Laws.RoundTrip.Statement (.vmsgtS v) :=
  .of32 rfl rfl (by simp (disch := decide) only [decode32, decodeVmask, vargs, fld_pack_reg, fld_pack_bv, fld_pack_bit, fld_pack_lit, fld_pack_skip, need, reg, bv, flag, ofNat_reg, ofNat_toNat_bv, flag_bit, Nat.reduceSub, Nat.reduceBEq, BEq.rfl, Bool.and_self, if_true])

theorem Sys2Proof.Laws.RoundTrip.vmsgtZ (v : VArgs) : Sys2Proof.Laws.RoundTrip.Statement (.vmsgtZ v) :=
  .of32 rfl rfl (by simp (disch := decide) only [decode32, decodeVmask, vargs, fld_pack_reg, fld_pack_bv, fld_pack_bit, fld_pack_lit, fld_pack_skip, need, reg, bv, flag, ofNat_reg, ofNat_toNat_bv, flag_bit, Nat.reduceSub, Nat.reduceBEq, BEq.rfl, Bool.and_self, if_true])

theorem Sys2Proof.Laws.RoundTrip.vmsgeS (v : VArgs) : Sys2Proof.Laws.RoundTrip.Statement (.vmsgeS v) :=
  .of32 rfl rfl (by simp (disch := decide) only [decode32, decodeVmask, vargs, fld_pack_reg, fld_pack_bv, fld_pack_bit, fld_pack_lit, fld_pack_skip, need, reg, bv, flag, ofNat_reg, ofNat_toNat_bv, flag_bit, Nat.reduceSub, Nat.reduceBEq, BEq.rfl, Bool.and_self, if_true])

theorem Sys2Proof.Laws.RoundTrip.vmsgeZ (v : VArgs) : Sys2Proof.Laws.RoundTrip.Statement (.vmsgeZ v) :=
  .of32 rfl rfl (by simp (disch := decide) only [decode32, decodeVmask, vargs, fld_pack_reg, fld_pack_bv, fld_pack_bit, fld_pack_lit, fld_pack_skip, need, reg, bv, flag, ofNat_reg, ofNat_toNat_bv, flag_bit, Nat.reduceSub, Nat.reduceBEq, BEq.rfl, Bool.and_self, if_true])

theorem Sys2Proof.Laws.RoundTrip.vmand (d a b : Reg) (z : Bool) : Sys2Proof.Laws.RoundTrip.Statement (.vmand d a b z) :=
  .of32 rfl rfl (by simp (disch := decide) only [decode32, decodeVmask, fld_pack_reg, fld_pack_bv, fld_pack_bit, fld_pack_lit, fld_pack_skip, need, reg, bv, flag, ofNat_reg, ofNat_toNat_bv, flag_bit, Nat.reduceSub, Nat.reduceBEq, BEq.rfl, Bool.and_self, if_true])

theorem Sys2Proof.Laws.RoundTrip.vmor (d a b : Reg) (z : Bool) : Sys2Proof.Laws.RoundTrip.Statement (.vmor d a b z) :=
  .of32 rfl rfl (by simp (disch := decide) only [decode32, decodeVmask, fld_pack_reg, fld_pack_bv, fld_pack_bit, fld_pack_lit, fld_pack_skip, need, reg, bv, flag, ofNat_reg, ofNat_toNat_bv, flag_bit, Nat.reduceSub, Nat.reduceBEq, BEq.rfl, Bool.and_self, if_true])

theorem Sys2Proof.Laws.RoundTrip.vmxor (d a b : Reg) (z : Bool) : Sys2Proof.Laws.RoundTrip.Statement (.vmxor d a b z) :=
  .of32 rfl rfl (by simp (disch := decide) only [decode32, decodeVmask, fld_pack_reg, fld_pack_bv, fld_pack_bit, fld_pack_lit, fld_pack_skip, need, reg, bv, flag, ofNat_reg, ofNat_toNat_bv, flag_bit, Nat.reduceSub, Nat.reduceBEq, BEq.rfl, Bool.and_self, if_true])

theorem Sys2Proof.Laws.RoundTrip.vmandn (d a b : Reg) (z : Bool) : Sys2Proof.Laws.RoundTrip.Statement (.vmandn d a b z) :=
  .of32 rfl rfl (by simp (disch := decide) only [decode32, decodeVmask, fld_pack_reg, fld_pack_bv, fld_pack_bit, fld_pack_lit, fld_pack_skip, need, reg, bv, flag, ofNat_reg, ofNat_toNat_bv, flag_bit, Nat.reduceSub, Nat.reduceBEq, BEq.rfl, Bool.and_self, if_true])

theorem Sys2Proof.Laws.RoundTrip.vmorn (d a b : Reg) (z : Bool) : Sys2Proof.Laws.RoundTrip.Statement (.vmorn d a b z) :=
  .of32 rfl rfl (by simp (disch := decide) only [decode32, decodeVmask, fld_pack_reg, fld_pack_bv, fld_pack_bit, fld_pack_lit, fld_pack_skip, need, reg, bv, flag, ofNat_reg, ofNat_toNat_bv, flag_bit, Nat.reduceSub, Nat.reduceBEq, BEq.rfl, Bool.and_self, if_true])

theorem Sys2Proof.Laws.RoundTrip.vmnand (d a b : Reg) (z : Bool) : Sys2Proof.Laws.RoundTrip.Statement (.vmnand d a b z) :=
  .of32 rfl rfl (by simp (disch := decide) only [decode32, decodeVmask, fld_pack_reg, fld_pack_bv, fld_pack_bit, fld_pack_lit, fld_pack_skip, need, reg, bv, flag, ofNat_reg, ofNat_toNat_bv, flag_bit, Nat.reduceSub, Nat.reduceBEq, BEq.rfl, Bool.and_self, if_true])

theorem Sys2Proof.Laws.RoundTrip.vmnor (d a b : Reg) (z : Bool) : Sys2Proof.Laws.RoundTrip.Statement (.vmnor d a b z) :=
  .of32 rfl rfl (by simp (disch := decide) only [decode32, decodeVmask, fld_pack_reg, fld_pack_bv, fld_pack_bit, fld_pack_lit, fld_pack_skip, need, reg, bv, flag, ofNat_reg, ofNat_toNat_bv, flag_bit, Nat.reduceSub, Nat.reduceBEq, BEq.rfl, Bool.and_self, if_true])

theorem Sys2Proof.Laws.RoundTrip.vmxnor (d a b : Reg) (z : Bool) : Sys2Proof.Laws.RoundTrip.Statement (.vmxnor d a b z) :=
  .of32 rfl rfl (by simp (disch := decide) only [decode32, decodeVmask, fld_pack_reg, fld_pack_bv, fld_pack_bit, fld_pack_lit, fld_pack_skip, need, reg, bv, flag, ofNat_reg, ofNat_toNat_bv, flag_bit, Nat.reduceSub, Nat.reduceBEq, BEq.rfl, Bool.and_self, if_true])

theorem Sys2Proof.Laws.RoundTrip.vcpop (d a : Reg) (m : Bool) : Sys2Proof.Laws.RoundTrip.Statement (.vcpop d a m) :=
  .of32 rfl rfl (by simp (disch := decide) only [decode32, decodeVmask, fld_pack_reg, fld_pack_bv, fld_pack_bit, fld_pack_lit, fld_pack_skip, need, reg, bv, flag, ofNat_reg, ofNat_toNat_bv, flag_bit, Nat.reduceSub, Nat.reduceBEq, BEq.rfl, Bool.and_self, if_true])

theorem Sys2Proof.Laws.RoundTrip.vfirst (d a : Reg) (m : Bool) : Sys2Proof.Laws.RoundTrip.Statement (.vfirst d a m) :=
  .of32 rfl rfl (by simp (disch := decide) only [decode32, decodeVmask, fld_pack_reg, fld_pack_bv, fld_pack_bit, fld_pack_lit, fld_pack_skip, need, reg, bv, flag, ofNat_reg, ofNat_toNat_bv, flag_bit, Nat.reduceSub, Nat.reduceBEq, BEq.rfl, Bool.and_self, if_true])

theorem Sys2Proof.Laws.RoundTrip.vmsbf (d a : Reg) (m z : Bool) : Sys2Proof.Laws.RoundTrip.Statement (.vmsbf d a m z) :=
  .of32 rfl rfl (by simp (disch := decide) only [decode32, decodeVmask, fld_pack_reg, fld_pack_bv, fld_pack_bit, fld_pack_lit, fld_pack_skip, need, reg, bv, flag, ofNat_reg, ofNat_toNat_bv, flag_bit, Nat.reduceSub, Nat.reduceBEq, BEq.rfl, Bool.and_self, if_true])

theorem Sys2Proof.Laws.RoundTrip.vmsif (d a : Reg) (m z : Bool) : Sys2Proof.Laws.RoundTrip.Statement (.vmsif d a m z) :=
  .of32 rfl rfl (by simp (disch := decide) only [decode32, decodeVmask, fld_pack_reg, fld_pack_bv, fld_pack_bit, fld_pack_lit, fld_pack_skip, need, reg, bv, flag, ofNat_reg, ofNat_toNat_bv, flag_bit, Nat.reduceSub, Nat.reduceBEq, BEq.rfl, Bool.and_self, if_true])

theorem Sys2Proof.Laws.RoundTrip.vmsof (d a : Reg) (m z : Bool) : Sys2Proof.Laws.RoundTrip.Statement (.vmsof d a m z) :=
  .of32 rfl rfl (by simp (disch := decide) only [decode32, decodeVmask, fld_pack_reg, fld_pack_bv, fld_pack_bit, fld_pack_lit, fld_pack_skip, need, reg, bv, flag, ofNat_reg, ofNat_toNat_bv, flag_bit, Nat.reduceSub, Nat.reduceBEq, BEq.rfl, Bool.and_self, if_true])

theorem Sys2Proof.Laws.RoundTrip.vslideup (d a b : Reg) (m z : Bool) : Sys2Proof.Laws.RoundTrip.Statement (.vslideup d a b m z) :=
  .of32 rfl rfl (by simp (disch := decide) only [decode32, decodeVperm, fld_pack_reg, fld_pack_bv, fld_pack_bit, fld_pack_lit, fld_pack_skip, need, reg, bv, flag, ofNat_reg, ofNat_toNat_bv, flag_bit, Nat.reduceSub, Nat.reduceBEq, BEq.rfl, Bool.and_self, if_true])

theorem Sys2Proof.Laws.RoundTrip.vslidedown (d a b : Reg) (m z : Bool) : Sys2Proof.Laws.RoundTrip.Statement (.vslidedown d a b m z) :=
  .of32 rfl rfl (by simp (disch := decide) only [decode32, decodeVperm, fld_pack_reg, fld_pack_bv, fld_pack_bit, fld_pack_lit, fld_pack_skip, need, reg, bv, flag, ofNat_reg, ofNat_toNat_bv, flag_bit, Nat.reduceSub, Nat.reduceBEq, BEq.rfl, Bool.and_self, if_true])

theorem Sys2Proof.Laws.RoundTrip.vslide1up (d a b : Reg) (m z : Bool) : Sys2Proof.Laws.RoundTrip.Statement (.vslide1up d a b m z) :=
  .of32 rfl rfl (by simp (disch := decide) only [decode32, decodeVperm, fld_pack_reg, fld_pack_bv, fld_pack_bit, fld_pack_lit, fld_pack_skip, need, reg, bv, flag, ofNat_reg, ofNat_toNat_bv, flag_bit, Nat.reduceSub, Nat.reduceBEq, BEq.rfl, Bool.and_self, if_true])

theorem Sys2Proof.Laws.RoundTrip.vslide1down (d a b : Reg) (m z : Bool) : Sys2Proof.Laws.RoundTrip.Statement (.vslide1down d a b m z) :=
  .of32 rfl rfl (by simp (disch := decide) only [decode32, decodeVperm, fld_pack_reg, fld_pack_bv, fld_pack_bit, fld_pack_lit, fld_pack_skip, need, reg, bv, flag, ofNat_reg, ofNat_toNat_bv, flag_bit, Nat.reduceSub, Nat.reduceBEq, BEq.rfl, Bool.and_self, if_true])

theorem Sys2Proof.Laws.RoundTrip.vrgather (v : VArgs) : Sys2Proof.Laws.RoundTrip.Statement (.vrgather v) :=
  .of32 rfl rfl (by simp (disch := decide) only [decode32, decodeVperm, vargs, fld_pack_reg, fld_pack_bv, fld_pack_bit, fld_pack_lit, fld_pack_skip, need, reg, bv, flag, ofNat_reg, ofNat_toNat_bv, flag_bit, Nat.reduceSub, Nat.reduceBEq, BEq.rfl, Bool.and_self, if_true])

theorem Sys2Proof.Laws.RoundTrip.vcompress (d a b : Reg) (z : Bool) : Sys2Proof.Laws.RoundTrip.Statement (.vcompress d a b z) :=
  .of32 rfl rfl (by simp (disch := decide) only [decode32, decodeVperm, fld_pack_reg, fld_pack_bv, fld_pack_bit, fld_pack_lit, fld_pack_skip, need, reg, bv, flag, ofNat_reg, ofNat_toNat_bv, flag_bit, Nat.reduceSub, Nat.reduceBEq, BEq.rfl, Bool.and_self, if_true])

theorem Sys2Proof.Laws.RoundTrip.vexpand (d a b : Reg) (z : Bool) : Sys2Proof.Laws.RoundTrip.Statement (.vexpand d a b z) :=
  .of32 rfl rfl (by simp (disch := decide) only [decode32, decodeVperm, fld_pack_reg, fld_pack_bv, fld_pack_bit, fld_pack_lit, fld_pack_skip, need, reg, bv, flag, ofNat_reg, ofNat_toNat_bv, flag_bit, Nat.reduceSub, Nat.reduceBEq, BEq.rfl, Bool.and_self, if_true])

theorem Sys2Proof.Laws.RoundTrip.vid (d : Reg) (m z : Bool) : Sys2Proof.Laws.RoundTrip.Statement (.vid d m z) :=
  .of32 rfl rfl (by simp (disch := decide) only [decode32, decodeVperm, fld_pack_reg, fld_pack_bv, fld_pack_bit, fld_pack_lit, fld_pack_skip, need, reg, bv, flag, ofNat_reg, ofNat_toNat_bv, flag_bit, Nat.reduceSub, Nat.reduceBEq, BEq.rfl, Bool.and_self, if_true])

theorem Sys2Proof.Laws.RoundTrip.vmvXs (d a : Reg) : Sys2Proof.Laws.RoundTrip.Statement (.vmvXs d a) :=
  .of32 rfl rfl (by simp (disch := decide) only [decode32, decodeVperm, fld_pack_reg, fld_pack_bv, fld_pack_bit, fld_pack_lit, fld_pack_skip, need, reg, bv, flag, ofNat_reg, ofNat_toNat_bv, flag_bit, Nat.reduceSub, Nat.reduceBEq, BEq.rfl, Bool.and_self, if_true])

theorem Sys2Proof.Laws.RoundTrip.vmvSx (d b : Reg) (m z : Bool) : Sys2Proof.Laws.RoundTrip.Statement (.vmvSx d b m z) :=
  .of32 rfl rfl (by simp (disch := decide) only [decode32, decodeVperm, fld_pack_reg, fld_pack_bv, fld_pack_bit, fld_pack_lit, fld_pack_skip, need, reg, bv, flag, ofNat_reg, ofNat_toNat_bv, flag_bit, Nat.reduceSub, Nat.reduceBEq, BEq.rfl, Bool.and_self, if_true])

theorem Sys2Proof.Laws.RoundTrip.vscanadd (v : VArgs) : Sys2Proof.Laws.RoundTrip.Statement (.vscanadd v) :=
  .of32 rfl rfl (by simp (disch := decide) only [decode32, decodeVperm, vargs, fld_pack_reg, fld_pack_bv, fld_pack_bit, fld_pack_lit, fld_pack_skip, need, reg, bv, flag, ofNat_reg, ofNat_toNat_bv, flag_bit, Nat.reduceSub, Nat.reduceBEq, BEq.rfl, Bool.and_self, if_true])

theorem Sys2Proof.Laws.RoundTrip.vscanaddSg (d a b : Reg) (z w : Bool) : Sys2Proof.Laws.RoundTrip.Statement (.vscanaddSg d a b z w) :=
  .of32 rfl rfl (by simp (disch := decide) only [decode32, decodeVperm, fld_pack_reg, fld_pack_bv, fld_pack_bit, fld_pack_lit, fld_pack_skip, need, reg, bv, flag, ofNat_reg, ofNat_toNat_bv, flag_bit, Nat.reduceSub, Nat.reduceBEq, BEq.rfl, Bool.and_self, if_true])

theorem Sys2Proof.Laws.RoundTrip.vsortkZ (d a : Reg) (z : Bool) : Sys2Proof.Laws.RoundTrip.Statement (.vsortkZ d a z) :=
  .of32 rfl rfl (by simp (disch := decide) only [decode32, decodeVperm, fld_pack_reg, fld_pack_bv, fld_pack_bit, fld_pack_lit, fld_pack_skip, need, reg, bv, flag, ofNat_reg, ofNat_toNat_bv, flag_bit, Nat.reduceSub, Nat.reduceBEq, BEq.rfl, Bool.and_self, if_true])

theorem Sys2Proof.Laws.RoundTrip.vsortkS (d a : Reg) (z : Bool) : Sys2Proof.Laws.RoundTrip.Statement (.vsortkS d a z) :=
  .of32 rfl rfl (by simp (disch := decide) only [decode32, decodeVperm, fld_pack_reg, fld_pack_bv, fld_pack_bit, fld_pack_lit, fld_pack_skip, need, reg, bv, flag, ofNat_reg, ofNat_toNat_bv, flag_bit, Nat.reduceSub, Nat.reduceBEq, BEq.rfl, Bool.and_self, if_true])

theorem Sys2Proof.Laws.RoundTrip.vsortkdZ (d a : Reg) (z : Bool) : Sys2Proof.Laws.RoundTrip.Statement (.vsortkdZ d a z) :=
  .of32 rfl rfl (by simp (disch := decide) only [decode32, decodeVperm, fld_pack_reg, fld_pack_bv, fld_pack_bit, fld_pack_lit, fld_pack_skip, need, reg, bv, flag, ofNat_reg, ofNat_toNat_bv, flag_bit, Nat.reduceSub, Nat.reduceBEq, BEq.rfl, Bool.and_self, if_true])

theorem Sys2Proof.Laws.RoundTrip.vsortkdS (d a : Reg) (z : Bool) : Sys2Proof.Laws.RoundTrip.Statement (.vsortkdS d a z) :=
  .of32 rfl rfl (by simp (disch := decide) only [decode32, decodeVperm, fld_pack_reg, fld_pack_bv, fld_pack_bit, fld_pack_lit, fld_pack_skip, need, reg, bv, flag, ofNat_reg, ofNat_toNat_bv, flag_bit, Nat.reduceSub, Nat.reduceBEq, BEq.rfl, Bool.and_self, if_true])

theorem Sys2Proof.Laws.RoundTrip.vfadd (v : VArgs) (h : Bool) : Sys2Proof.Laws.RoundTrip.Statement (.vfadd v h) :=
  .of32 rfl rfl (by simp (disch := decide) only [decode32, decodeVfp, vargs, fld_pack_reg, fld_pack_bv, fld_pack_bit, fld_pack_lit, fld_pack_skip, need, reg, bv, flag, ofNat_reg, ofNat_toNat_bv, flag_bit, Nat.reduceSub, Nat.reduceBEq, BEq.rfl, Bool.and_self, if_true])

theorem Sys2Proof.Laws.RoundTrip.vfsub (v : VArgs) (h : Bool) : Sys2Proof.Laws.RoundTrip.Statement (.vfsub v h) :=
  .of32 rfl rfl (by simp (disch := decide) only [decode32, decodeVfp, vargs, fld_pack_reg, fld_pack_bv, fld_pack_bit, fld_pack_lit, fld_pack_skip, need, reg, bv, flag, ofNat_reg, ofNat_toNat_bv, flag_bit, Nat.reduceSub, Nat.reduceBEq, BEq.rfl, Bool.and_self, if_true])

theorem Sys2Proof.Laws.RoundTrip.vfrsub (v : VArgs) (h : Bool) : Sys2Proof.Laws.RoundTrip.Statement (.vfrsub v h) :=
  .of32 rfl rfl (by simp (disch := decide) only [decode32, decodeVfp, vargs, fld_pack_reg, fld_pack_bv, fld_pack_bit, fld_pack_lit, fld_pack_skip, need, reg, bv, flag, ofNat_reg, ofNat_toNat_bv, flag_bit, Nat.reduceSub, Nat.reduceBEq, BEq.rfl, Bool.and_self, if_true])

theorem Sys2Proof.Laws.RoundTrip.vfmul (v : VArgs) (h : Bool) : Sys2Proof.Laws.RoundTrip.Statement (.vfmul v h) :=
  .of32 rfl rfl (by simp (disch := decide) only [decode32, decodeVfp, vargs, fld_pack_reg, fld_pack_bv, fld_pack_bit, fld_pack_lit, fld_pack_skip, need, reg, bv, flag, ofNat_reg, ofNat_toNat_bv, flag_bit, Nat.reduceSub, Nat.reduceBEq, BEq.rfl, Bool.and_self, if_true])

theorem Sys2Proof.Laws.RoundTrip.vfdiv (v : VArgs) (h : Bool) : Sys2Proof.Laws.RoundTrip.Statement (.vfdiv v h) :=
  .of32 rfl rfl (by simp (disch := decide) only [decode32, decodeVfp, vargs, fld_pack_reg, fld_pack_bv, fld_pack_bit, fld_pack_lit, fld_pack_skip, need, reg, bv, flag, ofNat_reg, ofNat_toNat_bv, flag_bit, Nat.reduceSub, Nat.reduceBEq, BEq.rfl, Bool.and_self, if_true])

theorem Sys2Proof.Laws.RoundTrip.vfrdiv (v : VArgs) (h : Bool) : Sys2Proof.Laws.RoundTrip.Statement (.vfrdiv v h) :=
  .of32 rfl rfl (by simp (disch := decide) only [decode32, decodeVfp, vargs, fld_pack_reg, fld_pack_bv, fld_pack_bit, fld_pack_lit, fld_pack_skip, need, reg, bv, flag, ofNat_reg, ofNat_toNat_bv, flag_bit, Nat.reduceSub, Nat.reduceBEq, BEq.rfl, Bool.and_self, if_true])

theorem Sys2Proof.Laws.RoundTrip.vfmin (v : VArgs) (h : Bool) : Sys2Proof.Laws.RoundTrip.Statement (.vfmin v h) :=
  .of32 rfl rfl (by simp (disch := decide) only [decode32, decodeVfp, vargs, fld_pack_reg, fld_pack_bv, fld_pack_bit, fld_pack_lit, fld_pack_skip, need, reg, bv, flag, ofNat_reg, ofNat_toNat_bv, flag_bit, Nat.reduceSub, Nat.reduceBEq, BEq.rfl, Bool.and_self, if_true])

theorem Sys2Proof.Laws.RoundTrip.vfmax (v : VArgs) (h : Bool) : Sys2Proof.Laws.RoundTrip.Statement (.vfmax v h) :=
  .of32 rfl rfl (by simp (disch := decide) only [decode32, decodeVfp, vargs, fld_pack_reg, fld_pack_bv, fld_pack_bit, fld_pack_lit, fld_pack_skip, need, reg, bv, flag, ofNat_reg, ofNat_toNat_bv, flag_bit, Nat.reduceSub, Nat.reduceBEq, BEq.rfl, Bool.and_self, if_true])

theorem Sys2Proof.Laws.RoundTrip.vfsgnj (v : VArgs) (h : Bool) : Sys2Proof.Laws.RoundTrip.Statement (.vfsgnj v h) :=
  .of32 rfl rfl (by simp (disch := decide) only [decode32, decodeVfp, vargs, fld_pack_reg, fld_pack_bv, fld_pack_bit, fld_pack_lit, fld_pack_skip, need, reg, bv, flag, ofNat_reg, ofNat_toNat_bv, flag_bit, Nat.reduceSub, Nat.reduceBEq, BEq.rfl, Bool.and_self, if_true])

theorem Sys2Proof.Laws.RoundTrip.vfsgnjn (v : VArgs) (h : Bool) : Sys2Proof.Laws.RoundTrip.Statement (.vfsgnjn v h) :=
  .of32 rfl rfl (by simp (disch := decide) only [decode32, decodeVfp, vargs, fld_pack_reg, fld_pack_bv, fld_pack_bit, fld_pack_lit, fld_pack_skip, need, reg, bv, flag, ofNat_reg, ofNat_toNat_bv, flag_bit, Nat.reduceSub, Nat.reduceBEq, BEq.rfl, Bool.and_self, if_true])

theorem Sys2Proof.Laws.RoundTrip.vfsgnjx (v : VArgs) (h : Bool) : Sys2Proof.Laws.RoundTrip.Statement (.vfsgnjx v h) :=
  .of32 rfl rfl (by simp (disch := decide) only [decode32, decodeVfp, vargs, fld_pack_reg, fld_pack_bv, fld_pack_bit, fld_pack_lit, fld_pack_skip, need, reg, bv, flag, ofNat_reg, ofNat_toNat_bv, flag_bit, Nat.reduceSub, Nat.reduceBEq, BEq.rfl, Bool.and_self, if_true])

theorem Sys2Proof.Laws.RoundTrip.vfmacc (v : VArgs) (h : Bool) : Sys2Proof.Laws.RoundTrip.Statement (.vfmacc v h) :=
  .of32 rfl rfl (by simp (disch := decide) only [decode32, decodeVfp, vargs, fld_pack_reg, fld_pack_bv, fld_pack_bit, fld_pack_lit, fld_pack_skip, need, reg, bv, flag, ofNat_reg, ofNat_toNat_bv, flag_bit, Nat.reduceSub, Nat.reduceBEq, BEq.rfl, Bool.and_self, if_true])

theorem Sys2Proof.Laws.RoundTrip.vfnmacc (v : VArgs) (h : Bool) : Sys2Proof.Laws.RoundTrip.Statement (.vfnmacc v h) :=
  .of32 rfl rfl (by simp (disch := decide) only [decode32, decodeVfp, vargs, fld_pack_reg, fld_pack_bv, fld_pack_bit, fld_pack_lit, fld_pack_skip, need, reg, bv, flag, ofNat_reg, ofNat_toNat_bv, flag_bit, Nat.reduceSub, Nat.reduceBEq, BEq.rfl, Bool.and_self, if_true])

theorem Sys2Proof.Laws.RoundTrip.vfmsac (v : VArgs) (h : Bool) : Sys2Proof.Laws.RoundTrip.Statement (.vfmsac v h) :=
  .of32 rfl rfl (by simp (disch := decide) only [decode32, decodeVfp, vargs, fld_pack_reg, fld_pack_bv, fld_pack_bit, fld_pack_lit, fld_pack_skip, need, reg, bv, flag, ofNat_reg, ofNat_toNat_bv, flag_bit, Nat.reduceSub, Nat.reduceBEq, BEq.rfl, Bool.and_self, if_true])

theorem Sys2Proof.Laws.RoundTrip.vfnmsac (v : VArgs) (h : Bool) : Sys2Proof.Laws.RoundTrip.Statement (.vfnmsac v h) :=
  .of32 rfl rfl (by simp (disch := decide) only [decode32, decodeVfp, vargs, fld_pack_reg, fld_pack_bv, fld_pack_bit, fld_pack_lit, fld_pack_skip, need, reg, bv, flag, ofNat_reg, ofNat_toNat_bv, flag_bit, Nat.reduceSub, Nat.reduceBEq, BEq.rfl, Bool.and_self, if_true])

theorem Sys2Proof.Laws.RoundTrip.vmfeq (v : VArgs) (h : Bool) : Sys2Proof.Laws.RoundTrip.Statement (.vmfeq v h) :=
  .of32 rfl rfl (by simp (disch := decide) only [decode32, decodeVfp, vargs, fld_pack_reg, fld_pack_bv, fld_pack_bit, fld_pack_lit, fld_pack_skip, need, reg, bv, flag, ofNat_reg, ofNat_toNat_bv, flag_bit, Nat.reduceSub, Nat.reduceBEq, BEq.rfl, Bool.and_self, if_true])

theorem Sys2Proof.Laws.RoundTrip.vmfne (v : VArgs) (h : Bool) : Sys2Proof.Laws.RoundTrip.Statement (.vmfne v h) :=
  .of32 rfl rfl (by simp (disch := decide) only [decode32, decodeVfp, vargs, fld_pack_reg, fld_pack_bv, fld_pack_bit, fld_pack_lit, fld_pack_skip, need, reg, bv, flag, ofNat_reg, ofNat_toNat_bv, flag_bit, Nat.reduceSub, Nat.reduceBEq, BEq.rfl, Bool.and_self, if_true])

theorem Sys2Proof.Laws.RoundTrip.vmflt (v : VArgs) (h : Bool) : Sys2Proof.Laws.RoundTrip.Statement (.vmflt v h) :=
  .of32 rfl rfl (by simp (disch := decide) only [decode32, decodeVfp, vargs, fld_pack_reg, fld_pack_bv, fld_pack_bit, fld_pack_lit, fld_pack_skip, need, reg, bv, flag, ofNat_reg, ofNat_toNat_bv, flag_bit, Nat.reduceSub, Nat.reduceBEq, BEq.rfl, Bool.and_self, if_true])

theorem Sys2Proof.Laws.RoundTrip.vmfle (v : VArgs) (h : Bool) : Sys2Proof.Laws.RoundTrip.Statement (.vmfle v h) :=
  .of32 rfl rfl (by simp (disch := decide) only [decode32, decodeVfp, vargs, fld_pack_reg, fld_pack_bv, fld_pack_bit, fld_pack_lit, fld_pack_skip, need, reg, bv, flag, ofNat_reg, ofNat_toNat_bv, flag_bit, Nat.reduceSub, Nat.reduceBEq, BEq.rfl, Bool.and_self, if_true])

theorem Sys2Proof.Laws.RoundTrip.vmfgt (v : VArgs) (h : Bool) : Sys2Proof.Laws.RoundTrip.Statement (.vmfgt v h) :=
  .of32 rfl rfl (by simp (disch := decide) only [decode32, decodeVfp, vargs, fld_pack_reg, fld_pack_bv, fld_pack_bit, fld_pack_lit, fld_pack_skip, need, reg, bv, flag, ofNat_reg, ofNat_toNat_bv, flag_bit, Nat.reduceSub, Nat.reduceBEq, BEq.rfl, Bool.and_self, if_true])

theorem Sys2Proof.Laws.RoundTrip.vmfge (v : VArgs) (h : Bool) : Sys2Proof.Laws.RoundTrip.Statement (.vmfge v h) :=
  .of32 rfl rfl (by simp (disch := decide) only [decode32, decodeVfp, vargs, fld_pack_reg, fld_pack_bv, fld_pack_bit, fld_pack_lit, fld_pack_skip, need, reg, bv, flag, ofNat_reg, ofNat_toNat_bv, flag_bit, Nat.reduceSub, Nat.reduceBEq, BEq.rfl, Bool.and_self, if_true])

theorem Sys2Proof.Laws.RoundTrip.vfclass (d a : Reg) (m z h : Bool) : Sys2Proof.Laws.RoundTrip.Statement (.vfclass d a m z h) :=
  .of32 rfl rfl (by simp (disch := decide) only [decode32, decodeVfp, fld_pack_reg, fld_pack_bv, fld_pack_bit, fld_pack_lit, fld_pack_skip, need, reg, bv, flag, ofNat_reg, ofNat_toNat_bv, flag_bit, Nat.reduceSub, Nat.reduceBEq, BEq.rfl, Bool.and_self, if_true])

theorem Sys2Proof.Laws.RoundTrip.vfcvtiS (d a : Reg) (m z h : Bool) : Sys2Proof.Laws.RoundTrip.Statement (.vfcvtiS d a m z h) :=
  .of32 rfl rfl (by simp (disch := decide) only [decode32, decodeVfp, fld_pack_reg, fld_pack_bv, fld_pack_bit, fld_pack_lit, fld_pack_skip, need, reg, bv, flag, ofNat_reg, ofNat_toNat_bv, flag_bit, Nat.reduceSub, Nat.reduceBEq, BEq.rfl, Bool.and_self, if_true])

theorem Sys2Proof.Laws.RoundTrip.vfcvtiZ (d a : Reg) (m z h : Bool) : Sys2Proof.Laws.RoundTrip.Statement (.vfcvtiZ d a m z h) :=
  .of32 rfl rfl (by simp (disch := decide) only [decode32, decodeVfp, fld_pack_reg, fld_pack_bv, fld_pack_bit, fld_pack_lit, fld_pack_skip, need, reg, bv, flag, ofNat_reg, ofNat_toNat_bv, flag_bit, Nat.reduceSub, Nat.reduceBEq, BEq.rfl, Bool.and_self, if_true])

theorem Sys2Proof.Laws.RoundTrip.vfcvtfS (d a : Reg) (m z h : Bool) : Sys2Proof.Laws.RoundTrip.Statement (.vfcvtfS d a m z h) :=
  .of32 rfl rfl (by simp (disch := decide) only [decode32, decodeVfp, fld_pack_reg, fld_pack_bv, fld_pack_bit, fld_pack_lit, fld_pack_skip, need, reg, bv, flag, ofNat_reg, ofNat_toNat_bv, flag_bit, Nat.reduceSub, Nat.reduceBEq, BEq.rfl, Bool.and_self, if_true])

theorem Sys2Proof.Laws.RoundTrip.vfcvtfZ (d a : Reg) (m z h : Bool) : Sys2Proof.Laws.RoundTrip.Statement (.vfcvtfZ d a m z h) :=
  .of32 rfl rfl (by simp (disch := decide) only [decode32, decodeVfp, fld_pack_reg, fld_pack_bv, fld_pack_bit, fld_pack_lit, fld_pack_skip, need, reg, bv, flag, ofNat_reg, ofNat_toNat_bv, flag_bit, Nat.reduceSub, Nat.reduceBEq, BEq.rfl, Bool.and_self, if_true])

theorem Sys2Proof.Laws.RoundTrip.vfwcvt (d a : Reg) (m z h : Bool) : Sys2Proof.Laws.RoundTrip.Statement (.vfwcvt d a m z h) :=
  .of32 rfl rfl (by simp (disch := decide) only [decode32, decodeVfp, fld_pack_reg, fld_pack_bv, fld_pack_bit, fld_pack_lit, fld_pack_skip, need, reg, bv, flag, ofNat_reg, ofNat_toNat_bv, flag_bit, Nat.reduceSub, Nat.reduceBEq, BEq.rfl, Bool.and_self, if_true])

theorem Sys2Proof.Laws.RoundTrip.vfncvt (d a : Reg) (m z h : Bool) : Sys2Proof.Laws.RoundTrip.Statement (.vfncvt d a m z h) :=
  .of32 rfl rfl (by simp (disch := decide) only [decode32, decodeVfp, fld_pack_reg, fld_pack_bv, fld_pack_bit, fld_pack_lit, fld_pack_skip, need, reg, bv, flag, ofNat_reg, ofNat_toNat_bv, flag_bit, Nat.reduceSub, Nat.reduceBEq, BEq.rfl, Bool.and_self, if_true])

theorem Sys2Proof.Laws.RoundTrip.vfwmacc (v : VArgs) (h : Bool) : Sys2Proof.Laws.RoundTrip.Statement (.vfwmacc v h) :=
  .of32 rfl rfl (by simp (disch := decide) only [decode32, decodeVfp, vargs, fld_pack_reg, fld_pack_bv, fld_pack_bit, fld_pack_lit, fld_pack_skip, need, reg, bv, flag, ofNat_reg, ofNat_toNat_bv, flag_bit, Nat.reduceSub, Nat.reduceBEq, BEq.rfl, Bool.and_self, if_true])

theorem Sys2Proof.Laws.RoundTrip.vfdot2 (v : VArgs) (h : Bool) : Sys2Proof.Laws.RoundTrip.Statement (.vfdot2 v h) :=
  .of32 rfl rfl (by simp (disch := decide) only [decode32, decodeVfp, vargs, fld_pack_reg, fld_pack_bv, fld_pack_bit, fld_pack_lit, fld_pack_skip, need, reg, bv, flag, ofNat_reg, ofNat_toNat_bv, flag_bit, Nat.reduceSub, Nat.reduceBEq, BEq.rfl, Bool.and_self, if_true])

theorem Sys2Proof.Laws.RoundTrip.vfredsum (v : VArgs) (h : Bool) : Sys2Proof.Laws.RoundTrip.Statement (.vfredsum v h) :=
  .of32 rfl rfl (by simp (disch := decide) only [decode32, decodeVred, vargs, fld_pack_reg, fld_pack_bv, fld_pack_bit, fld_pack_lit, fld_pack_skip, need, reg, bv, flag, ofNat_reg, ofNat_toNat_bv, flag_bit, Nat.reduceSub, Nat.reduceBEq, BEq.rfl, Bool.and_self, if_true])

theorem Sys2Proof.Laws.RoundTrip.vfredsumO (v : VArgs) (h : Bool) : Sys2Proof.Laws.RoundTrip.Statement (.vfredsumO v h) :=
  .of32 rfl rfl (by simp (disch := decide) only [decode32, decodeVred, vargs, fld_pack_reg, fld_pack_bv, fld_pack_bit, fld_pack_lit, fld_pack_skip, need, reg, bv, flag, ofNat_reg, ofNat_toNat_bv, flag_bit, Nat.reduceSub, Nat.reduceBEq, BEq.rfl, Bool.and_self, if_true])

theorem Sys2Proof.Laws.RoundTrip.vfredmax (v : VArgs) (h : Bool) : Sys2Proof.Laws.RoundTrip.Statement (.vfredmax v h) :=
  .of32 rfl rfl (by simp (disch := decide) only [decode32, decodeVred, vargs, fld_pack_reg, fld_pack_bv, fld_pack_bit, fld_pack_lit, fld_pack_skip, need, reg, bv, flag, ofNat_reg, ofNat_toNat_bv, flag_bit, Nat.reduceSub, Nat.reduceBEq, BEq.rfl, Bool.and_self, if_true])

theorem Sys2Proof.Laws.RoundTrip.vfredmin (v : VArgs) (h : Bool) : Sys2Proof.Laws.RoundTrip.Statement (.vfredmin v h) :=
  .of32 rfl rfl (by simp (disch := decide) only [decode32, decodeVred, vargs, fld_pack_reg, fld_pack_bv, fld_pack_bit, fld_pack_lit, fld_pack_skip, need, reg, bv, flag, ofNat_reg, ofNat_toNat_bv, flag_bit, Nat.reduceSub, Nat.reduceBEq, BEq.rfl, Bool.and_self, if_true])

theorem Sys2Proof.Laws.RoundTrip.vfredsumSg (d a b : Reg) (z w h : Bool) : Sys2Proof.Laws.RoundTrip.Statement (.vfredsumSg d a b z w h) :=
  .of32 rfl rfl (by simp (disch := decide) only [decode32, decodeVred, fld_pack_reg, fld_pack_bv, fld_pack_bit, fld_pack_lit, fld_pack_skip, need, reg, bv, flag, ofNat_reg, ofNat_toNat_bv, flag_bit, Nat.reduceSub, Nat.reduceBEq, BEq.rfl, Bool.and_self, if_true])

theorem Sys2Proof.Laws.RoundTrip.vfscan (v : VArgs) (h : Bool) : Sys2Proof.Laws.RoundTrip.Statement (.vfscan v h) :=
  .of32 rfl rfl (by simp (disch := decide) only [decode32, decodeVred, vargs, fld_pack_reg, fld_pack_bv, fld_pack_bit, fld_pack_lit, fld_pack_skip, need, reg, bv, flag, ofNat_reg, ofNat_toNat_bv, flag_bit, Nat.reduceSub, Nat.reduceBEq, BEq.rfl, Bool.and_self, if_true])

theorem Sys2Proof.Laws.RoundTrip.vfscanO (v : VArgs) (h : Bool) : Sys2Proof.Laws.RoundTrip.Statement (.vfscanO v h) :=
  .of32 rfl rfl (by simp (disch := decide) only [decode32, decodeVred, vargs, fld_pack_reg, fld_pack_bv, fld_pack_bit, fld_pack_lit, fld_pack_skip, need, reg, bv, flag, ofNat_reg, ofNat_toNat_bv, flag_bit, Nat.reduceSub, Nat.reduceBEq, BEq.rfl, Bool.and_self, if_true])

theorem Sys2Proof.Laws.RoundTrip.vfscanSg (d a b : Reg) (z w h : Bool) : Sys2Proof.Laws.RoundTrip.Statement (.vfscanSg d a b z w h) :=
  .of32 rfl rfl (by simp (disch := decide) only [decode32, decodeVred, fld_pack_reg, fld_pack_bv, fld_pack_bit, fld_pack_lit, fld_pack_skip, need, reg, bv, flag, ofNat_reg, ofNat_toNat_bv, flag_bit, Nat.reduceSub, Nat.reduceBEq, BEq.rfl, Bool.and_self, if_true])

theorem Sys2Proof.Laws.RoundTrip.vfargmax (d a : Reg) (m h : Bool) : Sys2Proof.Laws.RoundTrip.Statement (.vfargmax d a m h) :=
  .of32 rfl rfl (by simp (disch := decide) only [decode32, decodeVred, fld_pack_reg, fld_pack_bv, fld_pack_bit, fld_pack_lit, fld_pack_skip, need, reg, bv, flag, ofNat_reg, ofNat_toNat_bv, flag_bit, Nat.reduceSub, Nat.reduceBEq, BEq.rfl, Bool.and_self, if_true])

theorem Sys2Proof.Laws.RoundTrip.vfargmin (d a : Reg) (m h : Bool) : Sys2Proof.Laws.RoundTrip.Statement (.vfargmin d a m h) :=
  .of32 rfl rfl (by simp (disch := decide) only [decode32, decodeVred, fld_pack_reg, fld_pack_bv, fld_pack_bit, fld_pack_lit, fld_pack_skip, need, reg, bv, flag, ofNat_reg, ofNat_toNat_bv, flag_bit, Nat.reduceSub, Nat.reduceBEq, BEq.rfl, Bool.and_self, if_true])

theorem Sys2Proof.Laws.RoundTrip.vredsum (v : VArgs) : Sys2Proof.Laws.RoundTrip.Statement (.vredsum v) :=
  .of32 rfl rfl (by simp (disch := decide) only [decode32, decodeVred, vargs, fld_pack_reg, fld_pack_bv, fld_pack_bit, fld_pack_lit, fld_pack_skip, need, reg, bv, flag, ofNat_reg, ofNat_toNat_bv, flag_bit, Nat.reduceSub, Nat.reduceBEq, BEq.rfl, Bool.and_self, if_true])

theorem Sys2Proof.Laws.RoundTrip.vredmaxS (v : VArgs) : Sys2Proof.Laws.RoundTrip.Statement (.vredmaxS v) :=
  .of32 rfl rfl (by simp (disch := decide) only [decode32, decodeVred, vargs, fld_pack_reg, fld_pack_bv, fld_pack_bit, fld_pack_lit, fld_pack_skip, need, reg, bv, flag, ofNat_reg, ofNat_toNat_bv, flag_bit, Nat.reduceSub, Nat.reduceBEq, BEq.rfl, Bool.and_self, if_true])

theorem Sys2Proof.Laws.RoundTrip.vredmaxZ (v : VArgs) : Sys2Proof.Laws.RoundTrip.Statement (.vredmaxZ v) :=
  .of32 rfl rfl (by simp (disch := decide) only [decode32, decodeVred, vargs, fld_pack_reg, fld_pack_bv, fld_pack_bit, fld_pack_lit, fld_pack_skip, need, reg, bv, flag, ofNat_reg, ofNat_toNat_bv, flag_bit, Nat.reduceSub, Nat.reduceBEq, BEq.rfl, Bool.and_self, if_true])

theorem Sys2Proof.Laws.RoundTrip.vredminS (v : VArgs) : Sys2Proof.Laws.RoundTrip.Statement (.vredminS v) :=
  .of32 rfl rfl (by simp (disch := decide) only [decode32, decodeVred, vargs, fld_pack_reg, fld_pack_bv, fld_pack_bit, fld_pack_lit, fld_pack_skip, need, reg, bv, flag, ofNat_reg, ofNat_toNat_bv, flag_bit, Nat.reduceSub, Nat.reduceBEq, BEq.rfl, Bool.and_self, if_true])

theorem Sys2Proof.Laws.RoundTrip.vredminZ (v : VArgs) : Sys2Proof.Laws.RoundTrip.Statement (.vredminZ v) :=
  .of32 rfl rfl (by simp (disch := decide) only [decode32, decodeVred, vargs, fld_pack_reg, fld_pack_bv, fld_pack_bit, fld_pack_lit, fld_pack_skip, need, reg, bv, flag, ofNat_reg, ofNat_toNat_bv, flag_bit, Nat.reduceSub, Nat.reduceBEq, BEq.rfl, Bool.and_self, if_true])

theorem Sys2Proof.Laws.RoundTrip.vredand (v : VArgs) : Sys2Proof.Laws.RoundTrip.Statement (.vredand v) :=
  .of32 rfl rfl (by simp (disch := decide) only [decode32, decodeVred, vargs, fld_pack_reg, fld_pack_bv, fld_pack_bit, fld_pack_lit, fld_pack_skip, need, reg, bv, flag, ofNat_reg, ofNat_toNat_bv, flag_bit, Nat.reduceSub, Nat.reduceBEq, BEq.rfl, Bool.and_self, if_true])

theorem Sys2Proof.Laws.RoundTrip.vredor (v : VArgs) : Sys2Proof.Laws.RoundTrip.Statement (.vredor v) :=
  .of32 rfl rfl (by simp (disch := decide) only [decode32, decodeVred, vargs, fld_pack_reg, fld_pack_bv, fld_pack_bit, fld_pack_lit, fld_pack_skip, need, reg, bv, flag, ofNat_reg, ofNat_toNat_bv, flag_bit, Nat.reduceSub, Nat.reduceBEq, BEq.rfl, Bool.and_self, if_true])

theorem Sys2Proof.Laws.RoundTrip.vredxor (v : VArgs) : Sys2Proof.Laws.RoundTrip.Statement (.vredxor v) :=
  .of32 rfl rfl (by simp (disch := decide) only [decode32, decodeVred, vargs, fld_pack_reg, fld_pack_bv, fld_pack_bit, fld_pack_lit, fld_pack_skip, need, reg, bv, flag, ofNat_reg, ofNat_toNat_bv, flag_bit, Nat.reduceSub, Nat.reduceBEq, BEq.rfl, Bool.and_self, if_true])

theorem Sys2Proof.Laws.RoundTrip.vredsumSg (d a b : Reg) (z w : Bool) : Sys2Proof.Laws.RoundTrip.Statement (.vredsumSg d a b z w) :=
  .of32 rfl rfl (by simp (disch := decide) only [decode32, decodeVred, fld_pack_reg, fld_pack_bv, fld_pack_bit, fld_pack_lit, fld_pack_skip, need, reg, bv, flag, ofNat_reg, ofNat_toNat_bv, flag_bit, Nat.reduceSub, Nat.reduceBEq, BEq.rfl, Bool.and_self, if_true])

theorem Sys2Proof.Laws.RoundTrip.vexp2 (d a : Reg) (m z h : Bool) : Sys2Proof.Laws.RoundTrip.Statement (.vexp2 d a m z h) :=
  .of32 rfl rfl (by simp (disch := decide) only [decode32, decodeVspec, fld_pack_reg, fld_pack_bv, fld_pack_bit, fld_pack_lit, fld_pack_skip, need, reg, bv, flag, ofNat_reg, ofNat_toNat_bv, flag_bit, Nat.reduceSub, Nat.reduceBEq, BEq.rfl, Bool.and_self, if_true])

theorem Sys2Proof.Laws.RoundTrip.vlog2 (d a : Reg) (m z h : Bool) : Sys2Proof.Laws.RoundTrip.Statement (.vlog2 d a m z h) :=
  .of32 rfl rfl (by simp (disch := decide) only [decode32, decodeVspec, fld_pack_reg, fld_pack_bv, fld_pack_bit, fld_pack_lit, fld_pack_skip, need, reg, bv, flag, ofNat_reg, ofNat_toNat_bv, flag_bit, Nat.reduceSub, Nat.reduceBEq, BEq.rfl, Bool.and_self, if_true])

theorem Sys2Proof.Laws.RoundTrip.vrcp (d a : Reg) (m z h : Bool) : Sys2Proof.Laws.RoundTrip.Statement (.vrcp d a m z h) :=
  .of32 rfl rfl (by simp (disch := decide) only [decode32, decodeVspec, fld_pack_reg, fld_pack_bv, fld_pack_bit, fld_pack_lit, fld_pack_skip, need, reg, bv, flag, ofNat_reg, ofNat_toNat_bv, flag_bit, Nat.reduceSub, Nat.reduceBEq, BEq.rfl, Bool.and_self, if_true])

theorem Sys2Proof.Laws.RoundTrip.vrsqrt (d a : Reg) (m z h : Bool) : Sys2Proof.Laws.RoundTrip.Statement (.vrsqrt d a m z h) :=
  .of32 rfl rfl (by simp (disch := decide) only [decode32, decodeVspec, fld_pack_reg, fld_pack_bv, fld_pack_bit, fld_pack_lit, fld_pack_skip, need, reg, bv, flag, ofNat_reg, ofNat_toNat_bv, flag_bit, Nat.reduceSub, Nat.reduceBEq, BEq.rfl, Bool.and_self, if_true])

theorem Sys2Proof.Laws.RoundTrip.vsqrt (d a : Reg) (m z h : Bool) : Sys2Proof.Laws.RoundTrip.Statement (.vsqrt d a m z h) :=
  .of32 rfl rfl (by simp (disch := decide) only [decode32, decodeVspec, fld_pack_reg, fld_pack_bv, fld_pack_bit, fld_pack_lit, fld_pack_skip, need, reg, bv, flag, ofNat_reg, ofNat_toNat_bv, flag_bit, Nat.reduceSub, Nat.reduceBEq, BEq.rfl, Bool.and_self, if_true])

theorem Sys2Proof.Laws.RoundTrip.vrand (d : Reg) (m z : Bool) : Sys2Proof.Laws.RoundTrip.Statement (.vrand d m z) :=
  .of32 rfl rfl (by simp (disch := decide) only [decode32, decodeVspec, fld_pack_reg, fld_pack_bv, fld_pack_bit, fld_pack_lit, fld_pack_skip, need, reg, bv, flag, ofNat_reg, ofNat_toNat_bv, flag_bit, Nat.reduceSub, Nat.reduceBEq, BEq.rfl, Bool.and_self, if_true])

theorem Sys2Proof.Laws.RoundTrip.vrandf (d : Reg) (m z h : Bool) : Sys2Proof.Laws.RoundTrip.Statement (.vrandf d m z h) :=
  .of32 rfl rfl (by simp (disch := decide) only [decode32, decodeVspec, fld_pack_reg, fld_pack_bv, fld_pack_bit, fld_pack_lit, fld_pack_skip, need, reg, bv, flag, ofNat_reg, ofNat_toNat_bv, flag_bit, Nat.reduceSub, Nat.reduceBEq, BEq.rfl, Bool.and_self, if_true])

theorem Sys2Proof.Laws.RoundTrip.vcdfsel (d a b : Reg) (m h : Bool) : Sys2Proof.Laws.RoundTrip.Statement (.vcdfsel d a b m h) :=
  .of32 rfl rfl (by simp (disch := decide) only [decode32, decodeVspec, fld_pack_reg, fld_pack_bv, fld_pack_bit, fld_pack_lit, fld_pack_skip, need, reg, bv, flag, ofNat_reg, ofNat_toNat_bv, flag_bit, Nat.reduceSub, Nat.reduceBEq, BEq.rfl, Bool.and_self, if_true])

theorem Sys2Proof.Laws.RoundTrip.vsmmerge (d a : Reg) (z : Bool) : Sys2Proof.Laws.RoundTrip.Statement (.vsmmerge d a z) :=
  .of32 rfl rfl (by simp (disch := decide) only [decode32, decodeVspec, fld_pack_reg, fld_pack_bv, fld_pack_bit, fld_pack_lit, fld_pack_skip, need, reg, bv, flag, ofNat_reg, ofNat_toNat_bv, flag_bit, Nat.reduceSub, Nat.reduceBEq, BEq.rfl, Bool.and_self, if_true])

theorem Sys2Proof.Laws.RoundTrip.vstrip (d a : Reg) (e : BitVec 2) (p : Bool) (g : BitVec 2) : Sys2Proof.Laws.RoundTrip.Statement (.vstrip d a e p g) :=
  .of32 rfl rfl (by simp (disch := decide) only [decode32, decodeStrip, fld_pack_reg, fld_pack_bv, fld_pack_bit, fld_pack_lit, fld_pack_skip, need, reg, bv, flag, ofNat_reg, ofNat_toNat_bv, flag_bit, Nat.reduceSub, Nat.reduceBEq, BEq.rfl, Bool.and_self, if_true])

theorem Sys2Proof.Laws.RoundTrip.vstrend : Sys2Proof.Laws.RoundTrip.Statement .vstrend :=
  .of32 rfl rfl (by simp (disch := decide) only [decode32, decodeStrip, fld_pack_reg, fld_pack_bv, fld_pack_bit, fld_pack_lit, fld_pack_skip, need, reg, bv, flag, ofNat_reg, ofNat_toNat_bv, flag_bit, Nat.reduceSub, Nat.reduceBEq, BEq.rfl, Bool.and_self, if_true])

theorem Sys2Proof.Laws.RoundTrip.vexitI (d a b : Reg) : Sys2Proof.Laws.RoundTrip.Statement (.vexitI d a b) :=
  .of32 rfl rfl (by simp (disch := decide) only [decode32, decodeStrip, fld_pack_reg, fld_pack_bv, fld_pack_bit, fld_pack_lit, fld_pack_skip, need, reg, bv, flag, ofNat_reg, ofNat_toNat_bv, flag_bit, Nat.reduceSub, Nat.reduceBEq, BEq.rfl, Bool.and_self, if_true])

theorem Sys2Proof.Laws.RoundTrip.vexitB (d a b : Reg) : Sys2Proof.Laws.RoundTrip.Statement (.vexitB d a b) :=
  .of32 rfl rfl (by simp (disch := decide) only [decode32, decodeStrip, fld_pack_reg, fld_pack_bv, fld_pack_bit, fld_pack_lit, fld_pack_skip, need, reg, bv, flag, ofNat_reg, ofNat_toNat_bv, flag_bit, Nat.reduceSub, Nat.reduceBEq, BEq.rfl, Bool.and_self, if_true])

theorem Sys2Proof.Laws.RoundTrip.holdExpiry (gang rank : Nat) : Sys2Proof.Laws.RoundTrip.Statement (.holdExpiry gang rank) :=
  .noWord rfl

theorem Sys2Proof.Laws.RoundTrip.kvxl (d a b c : Reg) : Sys2Proof.Laws.RoundTrip.Statement (.kvxl d a b c) :=
  .of32 rfl rfl (by simp (disch := decide) only [decode32, decodeKv, fld_pack_reg, fld_pack_bv, fld_pack_bit, fld_pack_lit, fld_pack_skip, need, reg, bv, flag, ofNat_reg, ofNat_toNat_bv, flag_bit, Nat.reduceSub, Nat.reduceBEq, BEq.rfl, Bool.and_self, if_true])

theorem Sys2Proof.Laws.RoundTrip.kvxlm (d a b c : Reg) : Sys2Proof.Laws.RoundTrip.Statement (.kvxlm d a b c) :=
  .of32 rfl rfl (by simp (disch := decide) only [decode32, decodeKv, fld_pack_reg, fld_pack_bv, fld_pack_bit, fld_pack_lit, fld_pack_skip, need, reg, bv, flag, ofNat_reg, ofNat_toNat_bv, flag_bit, Nat.reduceSub, Nat.reduceBEq, BEq.rfl, Bool.and_self, if_true])

theorem Sys2Proof.Laws.RoundTrip.kvapp (d a b c : Reg) : Sys2Proof.Laws.RoundTrip.Statement (.kvapp d a b c) :=
  .of32 rfl rfl (by simp (disch := decide) only [decode32, decodeKv, fld_pack_reg, fld_pack_bv, fld_pack_bit, fld_pack_lit, fld_pack_skip, need, reg, bv, flag, ofNat_reg, ofNat_toNat_bv, flag_bit, Nat.reduceSub, Nat.reduceBEq, BEq.rfl, Bool.and_self, if_true])

theorem Sys2Proof.Laws.RoundTrip.kvcommit (a b : Reg) : Sys2Proof.Laws.RoundTrip.Statement (.kvcommit a b) :=
  .of32 rfl rfl (by simp (disch := decide) only [decode32, decodeKv, fld_pack_reg, fld_pack_bv, fld_pack_bit, fld_pack_lit, fld_pack_skip, need, reg, bv, flag, ofNat_reg, ofNat_toNat_bv, flag_bit, Nat.reduceSub, Nat.reduceBEq, BEq.rfl, Bool.and_self, if_true])

theorem Sys2Proof.Laws.RoundTrip.kvtrunc (a b : Reg) : Sys2Proof.Laws.RoundTrip.Statement (.kvtrunc a b) :=
  .of32 rfl rfl (by simp (disch := decide) only [decode32, decodeKv, fld_pack_reg, fld_pack_bv, fld_pack_bit, fld_pack_lit, fld_pack_skip, need, reg, bv, flag, ofNat_reg, ofNat_toNat_bv, flag_bit, Nat.reduceSub, Nat.reduceBEq, BEq.rfl, Bool.and_self, if_true])

theorem Sys2Proof.Laws.RoundTrip.kvevict (d a b c : Reg) : Sys2Proof.Laws.RoundTrip.Statement (.kvevict d a b c) :=
  .of32 rfl rfl (by simp (disch := decide) only [decode32, decodeKv, fld_pack_reg, fld_pack_bv, fld_pack_bit, fld_pack_lit, fld_pack_skip, need, reg, bv, flag, ofNat_reg, ofNat_toNat_bv, flag_bit, Nat.reduceSub, Nat.reduceBEq, BEq.rfl, Bool.and_self, if_true])

theorem Sys2Proof.Laws.RoundTrip.kvalloc (d a b : Reg) : Sys2Proof.Laws.RoundTrip.Statement (.kvalloc d a b) :=
  .of32 rfl rfl (by simp (disch := decide) only [decode32, decodeKv, fld_pack_reg, fld_pack_bv, fld_pack_bit, fld_pack_lit, fld_pack_skip, need, reg, bv, flag, ofNat_reg, ofNat_toNat_bv, flag_bit, Nat.reduceSub, Nat.reduceBEq, BEq.rfl, Bool.and_self, if_true])

theorem Sys2Proof.Laws.RoundTrip.kvfree (d a b c : Reg) : Sys2Proof.Laws.RoundTrip.Statement (.kvfree d a b c) :=
  .of32 rfl rfl (by simp (disch := decide) only [decode32, decodeKv, fld_pack_reg, fld_pack_bv, fld_pack_bit, fld_pack_lit, fld_pack_skip, need, reg, bv, flag, ofNat_reg, ofNat_toNat_bv, flag_bit, Nat.reduceSub, Nat.reduceBEq, BEq.rfl, Bool.and_self, if_true])

theorem Sys2Proof.Laws.RoundTrip.kvfork (d a b : Reg) : Sys2Proof.Laws.RoundTrip.Statement (.kvfork d a b) :=
  .of32 rfl rfl (by simp (disch := decide) only [decode32, decodeKv, fld_pack_reg, fld_pack_bv, fld_pack_bit, fld_pack_lit, fld_pack_skip, need, reg, bv, flag, ofNat_reg, ofNat_toNat_bv, flag_bit, Nat.reduceSub, Nat.reduceBEq, BEq.rfl, Bool.and_self, if_true])

theorem Sys2Proof.Laws.RoundTrip.stashRefillReply (die core : Nat) (ids : List Nat) : Sys2Proof.Laws.RoundTrip.Statement (.stashRefillReply die core ids) :=
  .noWord rfl

theorem Sys2Proof.Laws.RoundTrip.cpyLin (d a b c : Reg) (e : BitVec 2) : Sys2Proof.Laws.RoundTrip.Statement (.cpyLin d a b c e) :=
  .of32 rfl rfl (by simp (disch := decide) only [decode32, decodeCpy, fld_pack_reg, fld_pack_bv, fld_pack_bit, fld_pack_lit, fld_pack_skip, need, reg, bv, flag, ofNat_reg, ofNat_toNat_bv, flag_bit, Nat.reduceSub, Nat.reduceBEq, BEq.rfl, Bool.and_self, if_true])

theorem Sys2Proof.Laws.RoundTrip.cpy2d (d a b c : Reg) (e : BitVec 2) : Sys2Proof.Laws.RoundTrip.Statement (.cpy2d d a b c e) :=
  .of32 rfl rfl (by simp (disch := decide) only [decode32, decodeCpy, fld_pack_reg, fld_pack_bv, fld_pack_bit, fld_pack_lit, fld_pack_skip, need, reg, bv, flag, ofNat_reg, ofNat_toNat_bv, flag_bit, Nat.reduceSub, Nat.reduceBEq, BEq.rfl, Bool.and_self, if_true])

theorem Sys2Proof.Laws.RoundTrip.cpyGath (d a b c : Reg) (e : BitVec 2) : Sys2Proof.Laws.RoundTrip.Statement (.cpyGath d a b c e) :=
  .of32 rfl rfl (by simp (disch := decide) only [decode32, decodeCpy, fld_pack_reg, fld_pack_bv, fld_pack_bit, fld_pack_lit, fld_pack_skip, need, reg, bv, flag, ofNat_reg, ofNat_toNat_bv, flag_bit, Nat.reduceSub, Nat.reduceBEq, BEq.rfl, Bool.and_self, if_true])

theorem Sys2Proof.Laws.RoundTrip.cpyConv (d a b c : Reg) (e : BitVec 2) : Sys2Proof.Laws.RoundTrip.Statement (.cpyConv d a b c e) :=
  .of32 rfl rfl (by simp (disch := decide) only [decode32, decodeCpy, fld_pack_reg, fld_pack_bv, fld_pack_bit, fld_pack_lit, fld_pack_skip, need, reg, bv, flag, ofNat_reg, ofNat_toNat_bv, flag_bit, Nat.reduceSub, Nat.reduceBEq, BEq.rfl, Bool.and_self, if_true])

theorem Sys2Proof.Laws.RoundTrip.cpyFill (d a b c : Reg) (e : BitVec 2) : Sys2Proof.Laws.RoundTrip.Statement (.cpyFill d a b c e) :=
  .of32 rfl rfl (by simp (disch := decide) only [decode32, decodeCpy, fld_pack_reg, fld_pack_bv, fld_pack_bit, fld_pack_lit, fld_pack_skip, need, reg, bv, flag, ofNat_reg, ofNat_toNat_bv, flag_bit, Nat.reduceSub, Nat.reduceBEq, BEq.rfl, Bool.and_self, if_true])

theorem Sys2Proof.Laws.RoundTrip.cpywait (a : Reg) (e : BitVec 2) : Sys2Proof.Laws.RoundTrip.Statement (.cpywait a e) :=
  .of32 rfl rfl (by simp (disch := decide) only [decode32, decodeCpy, fld_pack_reg, fld_pack_bv, fld_pack_bit, fld_pack_lit, fld_pack_skip, need, reg, bv, flag, ofNat_reg, ofNat_toNat_bv, flag_bit, Nat.reduceSub, Nat.reduceBEq, BEq.rfl, Bool.and_self, if_true])

theorem Sys2Proof.Laws.RoundTrip.cpyqry (d : Reg) (e : BitVec 2) : Sys2Proof.Laws.RoundTrip.Statement (.cpyqry d e) :=
  .of32 rfl rfl (by simp (disch := decide) only [decode32, decodeCpy, fld_pack_reg, fld_pack_bv, fld_pack_bit, fld_pack_lit, fld_pack_skip, need, reg, bv, flag, ofNat_reg, ofNat_toNat_bv, flag_bit, Nat.reduceSub, Nat.reduceBEq, BEq.rfl, Bool.and_self, if_true])

theorem Sys2Proof.Laws.RoundTrip.read (die core eng n : Nat) : Sys2Proof.Laws.RoundTrip.Statement (.read die core eng n) :=
  .noWord rfl

theorem Sys2Proof.Laws.RoundTrip.write (die core eng n : Nat) : Sys2Proof.Laws.RoundTrip.Statement (.write die core eng n) :=
  .noWord rfl

theorem Sys2Proof.Laws.RoundTrip.cpyFail (die core eng n : Nat) : Sys2Proof.Laws.RoundTrip.Statement (.cpyFail die core eng n) :=
  .noWord rfl

theorem Sys2Proof.Laws.RoundTrip.cpyReissue (gang : Nat) : Sys2Proof.Laws.RoundTrip.Statement (.cpyReissue gang) :=
  .noWord rfl

theorem Sys2Proof.Laws.RoundTrip.bmode (d a b : Reg) : Sys2Proof.Laws.RoundTrip.Statement (.bmode d a b) :=
  .of32 rfl rfl (by simp (disch := decide) only [decode32, decodeBank, fld_pack_reg, fld_pack_bv, fld_pack_bit, fld_pack_lit, fld_pack_skip, need, reg, bv, flag, ofNat_reg, ofNat_toNat_bv, flag_bit, Nat.reduceSub, Nat.reduceBEq, BEq.rfl, Bool.and_self, if_true])

theorem Sys2Proof.Laws.RoundTrip.bslot (d a b : Reg) : Sys2Proof.Laws.RoundTrip.Statement (.bslot d a b) :=
  .of32 rfl rfl (by simp (disch := decide) only [decode32, decodeBank, fld_pack_reg, fld_pack_bv, fld_pack_bit, fld_pack_lit, fld_pack_skip, need, reg, bv, flag, ofNat_reg, ofNat_toNat_bv, flag_bit, Nat.reduceSub, Nat.reduceBEq, BEq.rfl, Bool.and_self, if_true])

theorem Sys2Proof.Laws.RoundTrip.bqry (d a : Reg) : Sys2Proof.Laws.RoundTrip.Statement (.bqry d a) :=
  .of32 rfl rfl (by simp (disch := decide) only [decode32, decodeBank, fld_pack_reg, fld_pack_bv, fld_pack_bit, fld_pack_lit, fld_pack_skip, need, reg, bv, flag, ofNat_reg, ofNat_toNat_bv, flag_bit, Nat.reduceSub, Nat.reduceBEq, BEq.rfl, Bool.and_self, if_true])

theorem Sys2Proof.Laws.RoundTrip.fpush (d a : Reg) : Sys2Proof.Laws.RoundTrip.Statement (.fpush d a) :=
  .of32 rfl rfl (by simp (disch := decide) only [decode32, decodeBank, fld_pack_reg, fld_pack_bv, fld_pack_bit, fld_pack_lit, fld_pack_skip, need, reg, bv, flag, ofNat_reg, ofNat_toNat_bv, flag_bit, Nat.reduceSub, Nat.reduceBEq, BEq.rfl, Bool.and_self, if_true])

theorem Sys2Proof.Laws.RoundTrip.fpop (d a : Reg) : Sys2Proof.Laws.RoundTrip.Statement (.fpop d a) :=
  .of32 rfl rfl (by simp (disch := decide) only [decode32, decodeBank, fld_pack_reg, fld_pack_bv, fld_pack_bit, fld_pack_lit, fld_pack_skip, need, reg, bv, flag, ofNat_reg, ofNat_toNat_bv, flag_bit, Nat.reduceSub, Nat.reduceBEq, BEq.rfl, Bool.and_self, if_true])

theorem Sys2Proof.Laws.RoundTrip.lpfL2 (a b : Reg) : Sys2Proof.Laws.RoundTrip.Statement (.lpfL2 a b) :=
  .of32 rfl rfl (by simp (disch := decide) only [decode32, decodeBank, fld_pack_reg, fld_pack_bv, fld_pack_bit, fld_pack_lit, fld_pack_skip, need, reg, bv, flag, ofNat_reg, ofNat_toNat_bv, flag_bit, Nat.reduceSub, Nat.reduceBEq, BEq.rfl, Bool.and_self, if_true])

theorem Sys2Proof.Laws.RoundTrip.lpfL1 (a b : Reg) : Sys2Proof.Laws.RoundTrip.Statement (.lpfL1 a b) :=
  .of32 rfl rfl (by simp (disch := decide) only [decode32, decodeBank, fld_pack_reg, fld_pack_bv, fld_pack_bit, fld_pack_lit, fld_pack_skip, need, reg, bv, flag, ofNat_reg, ofNat_toNat_bv, flag_bit, Nat.reduceSub, Nat.reduceBEq, BEq.rfl, Bool.and_self, if_true])

theorem Sys2Proof.Laws.RoundTrip.lclean (a b : Reg) : Sys2Proof.Laws.RoundTrip.Statement (.lclean a b) :=
  .of32 rfl rfl (by simp (disch := decide) only [decode32, decodeBank, fld_pack_reg, fld_pack_bv, fld_pack_bit, fld_pack_lit, fld_pack_skip, need, reg, bv, flag, ofNat_reg, ofNat_toNat_bv, flag_bit, Nat.reduceSub, Nat.reduceBEq, BEq.rfl, Bool.and_self, if_true])

theorem Sys2Proof.Laws.RoundTrip.linv (a b : Reg) : Sys2Proof.Laws.RoundTrip.Statement (.linv a b) :=
  .of32 rfl rfl (by simp (disch := decide) only [decode32, decodeBank, fld_pack_reg, fld_pack_bv, fld_pack_bit, fld_pack_lit, fld_pack_skip, need, reg, bv, flag, ofNat_reg, ofNat_toNat_bv, flag_bit, Nat.reduceSub, Nat.reduceBEq, BEq.rfl, Bool.and_self, if_true])

theorem Sys2Proof.Laws.RoundTrip.discard (a b : Reg) : Sys2Proof.Laws.RoundTrip.Statement (.discard a b) :=
  .of32 rfl rfl (by simp (disch := decide) only [decode32, decodeBank, fld_pack_reg, fld_pack_bv, fld_pack_bit, fld_pack_lit, fld_pack_skip, need, reg, bv, flag, ofNat_reg, ofNat_toNat_bv, flag_bit, Nat.reduceSub, Nat.reduceBEq, BEq.rfl, Bool.and_self, if_true])

theorem Sys2Proof.Laws.RoundTrip.crget (d : Reg) : Sys2Proof.Laws.RoundTrip.Statement (.crget d) :=
  .of32 rfl rfl (by simp (disch := decide) only [decode32, decodePark, fld_pack_reg, fld_pack_bv, fld_pack_bit, fld_pack_lit, fld_pack_skip, need, reg, bv, flag, ofNat_reg, ofNat_toNat_bv, flag_bit, Nat.reduceSub, Nat.reduceBEq, BEq.rfl, Bool.and_self, if_true])

theorem Sys2Proof.Laws.RoundTrip.park (d a : Reg) : Sys2Proof.Laws.RoundTrip.Statement (.park d a) :=
  .of32 rfl rfl (by simp (disch := decide) only [decode32, decodePark, fld_pack_reg, fld_pack_bv, fld_pack_bit, fld_pack_lit, fld_pack_skip, need, reg, bv, flag, ofNat_reg, ofNat_toNat_bv, flag_bit, Nat.reduceSub, Nat.reduceBEq, BEq.rfl, Bool.and_self, if_true])

theorem Sys2Proof.Laws.RoundTrip.crfree (d a : Reg) : Sys2Proof.Laws.RoundTrip.Statement (.crfree d a) :=
  .of32 rfl rfl (by simp (disch := decide) only [decode32, decodePark, fld_pack_reg, fld_pack_bv, fld_pack_bit, fld_pack_lit, fld_pack_skip, need, reg, bv, flag, ofNat_reg, ofNat_toNat_bv, flag_bit, Nat.reduceSub, Nat.reduceBEq, BEq.rfl, Bool.and_self, if_true])

theorem Sys2Proof.Laws.RoundTrip.promote (a b c : Reg) : Sys2Proof.Laws.RoundTrip.Statement (.promote a b c) :=
  .of32 rfl rfl (by simp (disch := decide) only [decode32, decodePark, fld_pack_reg, fld_pack_bv, fld_pack_bit, fld_pack_lit, fld_pack_skip, need, reg, bv, flag, ofNat_reg, ofNat_toNat_bv, flag_bit, Nat.reduceSub, Nat.reduceBEq, BEq.rfl, Bool.and_self, if_true])

theorem Sys2Proof.Laws.RoundTrip.tqry (d a : Reg) : Sys2Proof.Laws.RoundTrip.Statement (.tqry d a) :=
  .of32 rfl rfl (by simp (disch := decide) only [decode32, decodePark, fld_pack_reg, fld_pack_bv, fld_pack_bit, fld_pack_lit, fld_pack_skip, need, reg, bv, flag, ofNat_reg, ofNat_toNat_bv, flag_bit, Nat.reduceSub, Nat.reduceBEq, BEq.rfl, Bool.and_self, if_true])

theorem Sys2Proof.Laws.RoundTrip.crqry (d a : Reg) : Sys2Proof.Laws.RoundTrip.Statement (.crqry d a) :=
  .of32 rfl rfl (by simp (disch := decide) only [decode32, decodePark, fld_pack_reg, fld_pack_bv, fld_pack_bit, fld_pack_lit, fld_pack_skip, need, reg, bv, flag, ofNat_reg, ofNat_toNat_bv, flag_bit, Nat.reduceSub, Nat.reduceBEq, BEq.rfl, Bool.and_self, if_true])

theorem Sys2Proof.Laws.RoundTrip.launch (d a b : Reg) : Sys2Proof.Laws.RoundTrip.Statement (.launch d a b) :=
  .of32 rfl rfl (by simp (disch := decide) only [decode32, decodeSched, fld_pack_reg, fld_pack_bv, fld_pack_bit, fld_pack_lit, fld_pack_skip, need, reg, bv, flag, ofNat_reg, ofNat_toNat_bv, flag_bit, Nat.reduceSub, Nat.reduceBEq, BEq.rfl, Bool.and_self, if_true])

theorem Sys2Proof.Laws.RoundTrip.gbar : Sys2Proof.Laws.RoundTrip.Statement .gbar :=
  .of32 rfl rfl (by simp (disch := decide) only [decode32, decodeSched, fld_pack_reg, fld_pack_bv, fld_pack_bit, fld_pack_lit, fld_pack_skip, need, reg, bv, flag, ofNat_reg, ofNat_toNat_bv, flag_bit, Nat.reduceSub, Nat.reduceBEq, BEq.rfl, Bool.and_self, if_true])

theorem Sys2Proof.Laws.RoundTrip.signal (a b : Reg) : Sys2Proof.Laws.RoundTrip.Statement (.signal a b) :=
  .of32 rfl rfl (by simp (disch := decide) only [decode32, decodeSched, fld_pack_reg, fld_pack_bv, fld_pack_bit, fld_pack_lit, fld_pack_skip, need, reg, bv, flag, ofNat_reg, ofNat_toNat_bv, flag_bit, Nat.reduceSub, Nat.reduceBEq, BEq.rfl, Bool.and_self, if_true])

theorem Sys2Proof.Laws.RoundTrip.waitge (d a b c : Reg) : Sys2Proof.Laws.RoundTrip.Statement (.waitge d a b c) :=
  .of32 rfl rfl (by simp (disch := decide) only [decode32, decodeSched, fld_pack_reg, fld_pack_bv, fld_pack_bit, fld_pack_lit, fld_pack_skip, need, reg, bv, flag, ofNat_reg, ofNat_toNat_bv, flag_bit, Nat.reduceSub, Nat.reduceBEq, BEq.rfl, Bool.and_self, if_true])

theorem Sys2Proof.Laws.RoundTrip.hend : Sys2Proof.Laws.RoundTrip.Statement .hend :=
  .of32 rfl rfl (by simp (disch := decide) only [decode32, decodeSched, fld_pack_reg, fld_pack_bv, fld_pack_bit, fld_pack_lit, fld_pack_skip, need, reg, bv, flag, ofNat_reg, ofNat_toNat_bv, flag_bit, Nat.reduceSub, Nat.reduceBEq, BEq.rfl, Bool.and_self, if_true])

theorem Sys2Proof.Laws.RoundTrip.completionAdd (gang : Nat) : Sys2Proof.Laws.RoundTrip.Statement (.completionAdd gang) :=
  .noWord rfl

theorem Sys2Proof.Laws.RoundTrip.tzero (t : Fin 6) : Sys2Proof.Laws.RoundTrip.Statement (.tzero t) :=
  .ofTile (p := [(11, 0), (15, 0)]) (r := [(5, t.val), (5, 0), (5, 0), (5, 0), (5, 0)]) rfl rfl rfl (by simp (disch := decide) only [decodeTile, fld_pack_reg, fld_pack_bv, fld_pack_bit, fld_pack_lit, fld_pack_skip, fld_pack_tile, fld_pack_sel, fld_pack_latch, tileOf_val, selOf_val, latchOf_val, if_false, Bool.or_self, Nat.reduceBNe, Bool.false_eq_true, bne_self_eq_false, need, reg, bv, flag, ofNat_reg, ofNat_toNat_bv, flag_bit, Nat.reduceSub, Nat.reduceBEq, BEq.rfl, Bool.and_self, if_true])

theorem Sys2Proof.Laws.RoundTrip.tgl (l : Latch) (b : Reg) (row : BitVec 6) (m : Bool) : Sys2Proof.Laws.RoundTrip.Statement (.tgl l b row m) :=
  .ofTile (p := [(11, 0), (1, m.toNat), (8, 0), (6, row.toNat)]) (r := [(5, l.val + 4), (5, 0), (5, b.val), (5, 0), (5, 1)]) rfl rfl rfl (by simp (disch := decide) only [decodeTile, fld_pack_reg, fld_pack_bv, fld_pack_bit, fld_pack_lit, fld_pack_skip, fld_pack_tile, fld_pack_sel, fld_pack_latch, tileOf_val, selOf_val, latchOf_val, if_false, Bool.or_self, Nat.reduceBNe, Bool.false_eq_true, bne_self_eq_false, need, reg, bv, flag, ofNat_reg, ofNat_toNat_bv, flag_bit, Nat.reduceSub, Nat.reduceBEq, BEq.rfl, Bool.and_self, if_true])

theorem Sys2Proof.Laws.RoundTrip.top (t : Tile) (la lb : Latch) (f32 oa ob ha hb za : Bool) : Sys2Proof.Laws.RoundTrip.Statement (.top t la lb f32 oa ob ha hb za) :=
  .ofTile (p := [(11, 0), (1, 0), (1, za.toNat), (1, hb.toNat), (1, ha.toNat), (1, ob.toNat), (1, oa.toNat), (1, f32.toNat), (2, 0), (6, 0)]) (r := [(5, t.val), (5, la.val + 4), (5, lb.val + 4), (5, 0), (5, 2)]) rfl rfl rfl (by simp (disch := decide) only [decodeTile, fld_pack_reg, fld_pack_bv, fld_pack_bit, fld_pack_lit, fld_pack_skip, fld_pack_tile, fld_pack_sel, fld_pack_latch, tileOf_val, selOf_val, latchOf_val, if_false, Bool.or_self, Nat.reduceBNe, Bool.false_eq_true, bne_self_eq_false, need, reg, bv, flag, ofNat_reg, ofNat_toNat_bv, flag_bit, Nat.reduceSub, Nat.reduceBEq, BEq.rfl, Bool.and_self, if_true])

theorem Sys2Proof.Laws.RoundTrip.trd (d : Reg) (t : Tile) (row : BitVec 6) (colw clr : Bool) : Sys2Proof.Laws.RoundTrip.Statement (.trd d t row colw clr) :=
  .ofTile (p := [(11, 0), (7, 0), (1, colw.toNat), (1, clr.toNat), (6, row.toNat)]) (r := [(5, d.val), (5, t.val), (5, 0), (5, 0), (5, 3)]) rfl rfl rfl (by simp (disch := decide) only [decodeTile, fld_pack_reg, fld_pack_bv, fld_pack_bit, fld_pack_lit, fld_pack_skip, fld_pack_tile, fld_pack_sel, fld_pack_latch, tileOf_val, selOf_val, latchOf_val, if_false, Bool.or_self, Nat.reduceBNe, Bool.false_eq_true, bne_self_eq_false, need, reg, bv, flag, ofNat_reg, ofNat_toNat_bv, flag_bit, Nat.reduceSub, Nat.reduceBEq, BEq.rfl, Bool.and_self, if_true])

theorem Sys2Proof.Laws.RoundTrip.twr (t : Tile) (b : Reg) (row : BitVec 6) (colw : Bool) : Sys2Proof.Laws.RoundTrip.Statement (.twr t b row colw) :=
  .ofTile (p := [(11, 0), (7, 0), (1, colw.toNat), (1, 0), (6, row.toNat)]) (r := [(5, t.val), (5, 0), (5, b.val), (5, 0), (5, 4)]) rfl rfl rfl (by simp (disch := decide) only [decodeTile, fld_pack_reg, fld_pack_bv, fld_pack_bit, fld_pack_lit, fld_pack_skip, fld_pack_tile, fld_pack_sel, fld_pack_latch, tileOf_val, selOf_val, latchOf_val, if_false, Bool.or_self, Nat.reduceBNe, Bool.false_eq_true, bne_self_eq_false, need, reg, bv, flag, ofNat_reg, ofNat_toNat_bv, flag_bit, Nat.reduceSub, Nat.reduceBEq, BEq.rfl, Bool.and_self, if_true])

theorem Sys2Proof.Laws.RoundTrip.tfinit (t : Tile) (a : Reg) : Sys2Proof.Laws.RoundTrip.Statement (.tfinit t a) :=
  .ofFact (p := [(12, 0), (2, 0), (6, 0), (6, 0)]) (r := [(5, t.val), (5, a.val), (5, 0), (5, 0), (5, 0)]) rfl rfl rfl (by simp (disch := decide) only [decodeFact, fld_pack_reg, fld_pack_bv, fld_pack_bit, fld_pack_lit, fld_pack_skip, fld_pack_tile, fld_pack_sel, fld_pack_latch, tileOf_val, selOf_val, latchOf_val, if_false, Bool.or_self, Nat.reduceBNe, Bool.false_eq_true, bne_self_eq_false, need, reg, bv, flag, ofNat_reg, ofNat_toNat_bv, flag_bit, Nat.reduceSub, Nat.reduceBEq, BEq.rfl, Bool.and_self, if_true])

theorem Sys2Proof.Laws.RoundTrip.tfupd (t : Tile) (b : Reg) : Sys2Proof.Laws.RoundTrip.Statement (.tfupd t b) :=
  .ofFact (p := [(12, 0), (2, 0), (6, 0), (6, 0)]) (r := [(5, t.val), (5, 0), (5, b.val), (5, 0), (5, 1)]) rfl rfl rfl (by simp (disch := decide) only [decodeFact, fld_pack_reg, fld_pack_bv, fld_pack_bit, fld_pack_lit, fld_pack_skip, fld_pack_tile, fld_pack_sel, fld_pack_latch, tileOf_val, selOf_val, latchOf_val, if_false, Bool.or_self, Nat.reduceBNe, Bool.false_eq_true, bne_self_eq_false, need, reg, bv, flag, ofNat_reg, ofNat_toNat_bv, flag_bit, Nat.reduceSub, Nat.reduceBEq, BEq.rfl, Bool.and_self, if_true])

theorem Sys2Proof.Laws.RoundTrip.tfdnd (t : Tile) (b : Reg) (dlt : BitVec 6) : Sys2Proof.Laws.RoundTrip.Statement (.tfdnd t b dlt) :=
  .ofFact (p := [(12, 0), (2, 0), (6, dlt.toNat), (6, 0)]) (r := [(5, t.val), (5, 0), (5, b.val), (5, 0), (5, 2)]) rfl rfl rfl (by simp (disch := decide) only [decodeFact, fld_pack_reg, fld_pack_bv, fld_pack_bit, fld_pack_lit, fld_pack_skip, fld_pack_tile, fld_pack_sel, fld_pack_latch, tileOf_val, selOf_val, latchOf_val, if_false, Bool.or_self, Nat.reduceBNe, Bool.false_eq_true, bne_self_eq_false, need, reg, bv, flag, ofNat_reg, ofNat_toNat_bv, flag_bit, Nat.reduceSub, Nat.reduceBEq, BEq.rfl, Bool.and_self, if_true])

theorem Sys2Proof.Laws.RoundTrip.tfsolv (d : Reg) (t : Tile) (b : Reg) (part : BitVec 2) : Sys2Proof.Laws.RoundTrip.Statement (.tfsolv d t b part) :=
  .ofFact (p := [(12, 0), (2, part.toNat), (6, 0), (6, 0)]) (r := [(5, d.val), (5, t.val), (5, b.val), (5, 0), (5, 3)]) rfl rfl rfl (by simp (disch := decide) only [decodeFact, fld_pack_reg, fld_pack_bv, fld_pack_bit, fld_pack_lit, fld_pack_skip, fld_pack_tile, fld_pack_sel, fld_pack_latch, tileOf_val, selOf_val, latchOf_val, if_false, Bool.or_self, Nat.reduceBNe, Bool.false_eq_true, bne_self_eq_false, need, reg, bv, flag, ofNat_reg, ofNat_toNat_bv, flag_bit, Nat.reduceSub, Nat.reduceBEq, BEq.rfl, Bool.and_self, if_true])

theorem Sys2Proof.Laws.RoundTrip.tfrd (d : Reg) (t : Tile) (row : BitVec 6) : Sys2Proof.Laws.RoundTrip.Statement (.tfrd d t row) :=
  .ofFact (p := [(12, 0), (2, 0), (6, 0), (6, row.toNat)]) (r := [(5, d.val), (5, t.val), (5, 0), (5, 0), (5, 4)]) rfl rfl rfl (by simp (disch := decide) only [decodeFact, fld_pack_reg, fld_pack_bv, fld_pack_bit, fld_pack_lit, fld_pack_skip, fld_pack_tile, fld_pack_sel, fld_pack_latch, tileOf_val, selOf_val, latchOf_val, if_false, Bool.or_self, Nat.reduceBNe, Bool.false_eq_true, bne_self_eq_false, need, reg, bv, flag, ofNat_reg, ofNat_toNat_bv, flag_bit, Nat.reduceSub, Nat.reduceBEq, BEq.rfl, Bool.and_self, if_true])

theorem Sys2Proof.Laws.RoundTrip.tfwr (t : Tile) (b : Reg) (row : BitVec 6) : Sys2Proof.Laws.RoundTrip.Statement (.tfwr t b row) :=
  .ofFact (p := [(12, 0), (2, 0), (6, 0), (6, row.toNat)]) (r := [(5, t.val), (5, 0), (5, b.val), (5, 0), (5, 5)]) rfl rfl rfl (by simp (disch := decide) only [decodeFact, fld_pack_reg, fld_pack_bv, fld_pack_bit, fld_pack_lit, fld_pack_skip, fld_pack_tile, fld_pack_sel, fld_pack_latch, tileOf_val, selOf_val, latchOf_val, if_false, Bool.or_self, Nat.reduceBNe, Bool.false_eq_true, bne_self_eq_false, need, reg, bv, flag, ofNat_reg, ofNat_toNat_bv, flag_bit, Nat.reduceSub, Nat.reduceBEq, BEq.rfl, Bool.and_self, if_true])

theorem Sys2Proof.Laws.RoundTrip.tfsave (t : Tile) (a : Reg) : Sys2Proof.Laws.RoundTrip.Statement (.tfsave t a) :=
  .ofFact (p := [(12, 0), (2, 0), (6, 0), (6, 0)]) (r := [(5, t.val), (5, a.val), (5, 0), (5, 0), (5, 6)]) rfl rfl rfl (by simp (disch := decide) only [decodeFact, fld_pack_reg, fld_pack_bv, fld_pack_bit, fld_pack_lit, fld_pack_skip, fld_pack_tile, fld_pack_sel, fld_pack_latch, tileOf_val, selOf_val, latchOf_val, if_false, Bool.or_self, Nat.reduceBNe, Bool.false_eq_true, bne_self_eq_false, need, reg, bv, flag, ofNat_reg, ofNat_toNat_bv, flag_bit, Nat.reduceSub, Nat.reduceBEq, BEq.rfl, Bool.and_self, if_true])

theorem Sys2Proof.Laws.RoundTrip.tfload (t : Tile) (a : Reg) : Sys2Proof.Laws.RoundTrip.Statement (.tfload t a) :=
  .ofFact (p := [(12, 0), (2, 0), (6, 0), (6, 0)]) (r := [(5, t.val), (5, a.val), (5, 0), (5, 0), (5, 7)]) rfl rfl rfl (by simp (disch := decide) only [decodeFact, fld_pack_reg, fld_pack_bv, fld_pack_bit, fld_pack_lit, fld_pack_skip, fld_pack_tile, fld_pack_sel, fld_pack_latch, tileOf_val, selOf_val, latchOf_val, if_false, Bool.or_self, Nat.reduceBNe, Bool.false_eq_true, bne_self_eq_false, need, reg, bv, flag, ofNat_reg, ofNat_toNat_bv, flag_bit, Nat.reduceSub, Nat.reduceBEq, BEq.rfl, Bool.and_self, if_true])

theorem Sys2Proof.Laws.RoundTrip.timerInterrupt (gang rank : Nat) : Sys2Proof.Laws.RoundTrip.Statement (.timerInterrupt gang rank) :=
  .noWord rfl

theorem Sys2Proof.Laws.RoundTrip.doorbellInterrupt (gang rank : Nat) : Sys2Proof.Laws.RoundTrip.Statement (.doorbellInterrupt gang rank) :=
  .noWord rfl

theorem Sys2Proof.Laws.RoundTrip.doorbellWrite (src : Source) (hart : Nat) : Sys2Proof.Laws.RoundTrip.Statement (.doorbellWrite src hart) :=
  .noWord rfl

theorem Sys2Proof.Laws.RoundTrip.waitDeadline (gang rank : Nat) : Sys2Proof.Laws.RoundTrip.Statement (.waitDeadline gang rank) :=
  .noWord rfl

theorem Sys2Proof.Laws.RoundTrip.bind (gang rank : Nat) (a : AheadAt) : Sys2Proof.Laws.RoundTrip.Statement (.bind gang rank a) :=
  .noWord rfl

theorem Sys2Proof.Laws.RoundTrip.replay (gang rank : Nat) (pc : BitVec 52) : Sys2Proof.Laws.RoundTrip.Statement (.replay gang rank pc) :=
  .noWord rfl

theorem Sys2Proof.Laws.RoundTrip.early (gang rank : Nat) (path : List (BitVec 52)) : Sys2Proof.Laws.RoundTrip.Statement (.early gang rank path) :=
  .noWord rfl

theorem Sys2Proof.Laws.RoundTrip.drain (gang rank : Nat) : Sys2Proof.Laws.RoundTrip.Statement (.drain gang rank) :=
  .noWord rfl

theorem Sys2Proof.Laws.RoundTrip.arrive (gang rank dev : Nat) : Sys2Proof.Laws.RoundTrip.Statement (.arrive gang rank dev) :=
  .noWord rfl

theorem Sys2Proof.Laws.RoundTrip.inboundAccess (src : Source) (pa n : Nat) (bs : List Byte) : Sys2Proof.Laws.RoundTrip.Statement (.inboundAccess src pa n bs) :=
  .noWord rfl

theorem Sys2Proof.Laws.RoundTrip.wakeWrite (src slot : Nat) (v : Word) : Sys2Proof.Laws.RoundTrip.Statement (.wakeWrite src slot v) :=
  .noWord rfl

theorem Sys2Proof.Laws.RoundTrip.tHbmExpiry (slot : Nat) : Sys2Proof.Laws.RoundTrip.Statement (.tHbmExpiry slot) :=
  .noWord rfl

theorem Sys2Proof.Laws.RoundTrip.tCxlExpiry (slot : Nat) : Sys2Proof.Laws.RoundTrip.Statement (.tCxlExpiry slot) :=
  .noWord rfl

theorem Sys2Proof.Laws.RoundTrip.timerWheelTick : Sys2Proof.Laws.RoundTrip.Statement .timerWheelTick :=
  .noWord rfl

theorem Sys2Proof.Laws.RoundTrip.pageMove (ptea : Nat) : Sys2Proof.Laws.RoundTrip.Statement (.pageMove ptea) :=
  .noWord rfl

theorem Sys2Proof.Laws.RoundTrip.promotionFail (ptea : Nat) : Sys2Proof.Laws.RoundTrip.Statement (.promotionFail ptea) :=
  .noWord rfl

theorem Sys2Proof.Laws.RoundTrip.demotionFail (ptea : Nat) : Sys2Proof.Laws.RoundTrip.Statement (.demotionFail ptea) :=
  .noWord rfl

theorem Sys2Proof.Laws.RoundTrip.tierwait (gang rank : Nat) : Sys2Proof.Laws.RoundTrip.Statement (.tierwait gang rank) :=
  .noWord rfl

theorem Sys2Proof.Laws.RoundTrip.relaunchSubmit (slot : Nat) : Sys2Proof.Laws.RoundTrip.Statement (.relaunchSubmit slot) :=
  .noWord rfl

theorem Sys2Proof.Laws.RoundTrip.recordCheck (q : Nat) : Sys2Proof.Laws.RoundTrip.Statement (.recordCheck q) :=
  .noWord rfl

theorem Sys2Proof.Laws.RoundTrip.grant (die q : Nat) (groups : List Nat) : Sys2Proof.Laws.RoundTrip.Statement (.grant die q groups) :=
  .noWord rfl

theorem Sys2Proof.Laws.RoundTrip.depPoll (q : Nat) : Sys2Proof.Laws.RoundTrip.Statement (.depPoll q) :=
  .noWord rfl

theorem Sys2Proof.Laws.RoundTrip.reservation (die : Nat) : Sys2Proof.Laws.RoundTrip.Statement (.reservation die) :=
  .noWord rfl

theorem Sys2Proof.Laws.RoundTrip.preemption (r : Removal) : Sys2Proof.Laws.RoundTrip.Statement (.preemption r) :=
  .noWord rfl

theorem Sys2Proof.Laws.RoundTrip.gangResume (gang : Nat) : Sys2Proof.Laws.RoundTrip.Statement (.gangResume gang) :=
  .noWord rfl

theorem Sys2Proof.Laws.RoundTrip.coreRetirement (die core : Nat) : Sys2Proof.Laws.RoundTrip.Statement (.coreRetirement die core) :=
  .noWord rfl

theorem Sys2Proof.Laws.RoundTrip.uncorrectableError (p : Storage) : Sys2Proof.Laws.RoundTrip.Statement (.uncorrectableError p) :=
  .noWord rfl

theorem Sys2Proof.Laws.RoundTrip.hbmFrameRetirement (frame dest : Nat) (leaves : List Nat) : Sys2Proof.Laws.RoundTrip.Statement (.hbmFrameRetirement frame dest leaves) :=
  .noWord rfl

theorem Sys2Proof.Laws.RoundTrip.l2WayDisable (die slice way : Nat) : Sys2Proof.Laws.RoundTrip.Statement (.l2WayDisable die slice way) :=
  .noWord rfl

theorem Sys2Proof.Laws.RoundTrip.linkFailure (dev : Nat) (loss : LinkLoss) : Sys2Proof.Laws.RoundTrip.Statement (.linkFailure dev loss) :=
  .noWord rfl

theorem Sys2Proof.Laws.RoundTrip.haltRequest (die sel : Nat) : Sys2Proof.Laws.RoundTrip.Statement (.haltRequest die sel) :=
  .noWord rfl

theorem Sys2Proof.Laws.RoundTrip.resumeRequest (die sel : Nat) : Sys2Proof.Laws.RoundTrip.Statement (.resumeRequest die sel) :=
  .noWord rfl

theorem Sys2Proof.Laws.RoundTrip.accessRegister (die sel regno : Nat) (wr : Bool) (v : Word) : Sys2Proof.Laws.RoundTrip.Statement (.accessRegister die sel regno wr v) :=
  .noWord rfl

theorem Sys2Proof.Laws.RoundTrip.accessMemory (die sel : Nat) (virt wr : Bool) (size : Nat) (addr v : Word) : Sys2Proof.Laws.RoundTrip.Statement (.accessMemory die sel virt wr size addr v) :=
  .noWord rfl

theorem Sys2Proof.Laws.RoundTrip.traceSample (die : Nat) : Sys2Proof.Laws.RoundTrip.Statement (.traceSample die) :=
  .noWord rfl

theorem Sys2Proof.Laws.RoundTrip.stallCharge (gang rank : Nat) : Sys2Proof.Laws.RoundTrip.Statement (.stallCharge gang rank) :=
  .noWord rfl

theorem Sys2Proof.Laws.RoundTrip.hsemWrite (port : Nat) (v : Word) : Sys2Proof.Laws.RoundTrip.Statement (.hsemWrite port v) :=
  .noWord rfl

theorem Sys2Proof.Laws.RoundTrip.hostLinkDown (port : Nat) : Sys2Proof.Laws.RoundTrip.Statement (.hostLinkDown port) :=
  .noWord rfl

theorem Sys2Proof.Laws.RoundTrip.qcfgWrite (src : Source) (q : Nat) (hi : Bool) (v : Word) : Sys2Proof.Laws.RoundTrip.Statement (.qcfgWrite src q hi v) :=
  .noWord rfl

theorem Sys2Proof.Laws.RoundTrip.qstateWrite (src : Source) (q : Nat) (hi : Bool) (v : Word) : Sys2Proof.Laws.RoundTrip.Statement (.qstateWrite src q hi v) :=
  .noWord rfl

theorem Sys2Proof.Laws.RoundTrip.qtailWrite (tenant q : Nat) (v : Word) : Sys2Proof.Laws.RoundTrip.Statement (.qtailWrite tenant q v) :=
  .noWord rfl

theorem Sys2Proof.Laws.RoundTrip.rheadWrite (tenant : Nat) (v : Word) : Sys2Proof.Laws.RoundTrip.Statement (.rheadWrite tenant v) :=
  .noWord rfl

theorem Sys2Proof.Laws.RoundTrip.domcfgWrite (port : Nat) (v : Word) : Sys2Proof.Laws.RoundTrip.Statement (.domcfgWrite port v) :=
  .noWord rfl

theorem Sys2Proof.Laws.RoundTrip.peerCheck (p : PeerFound) : Sys2Proof.Laws.RoundTrip.Statement (.peerCheck p) :=
  .noWord rfl

theorem Sys2Proof.Laws.RoundTrip.registerWrite (r : RegWrite) (v : Word) : Sys2Proof.Laws.RoundTrip.Statement (.registerWrite r v) :=
  .noWord rfl

theorem Sys2Proof.Laws.RoundTrip.tcreate (port : Nat) (t : NewTenant) : Sys2Proof.Laws.RoundTrip.Statement (.tcreate port t) :=
  .noWord rfl

theorem Sys2Proof.Laws.RoundTrip.tdestroy (port : Nat) : Sys2Proof.Laws.RoundTrip.Statement (.tdestroy port) :=
  .noWord rfl

theorem Sys2Proof.Laws.RoundTrip.extset (port : Nat) : Sys2Proof.Laws.RoundTrip.Statement (.extset port) :=
  .noWord rfl

theorem Sys2Proof.Laws.RoundTrip.attest (src : Source) : Sys2Proof.Laws.RoundTrip.Statement (.attest src) :=
  .noWord rfl

theorem Sys2Proof.Laws.RoundTrip.stage (port : Nat) : Sys2Proof.Laws.RoundTrip.Statement (.stage port) :=
  .noWord rfl

theorem Sys2Proof.Laws.RoundTrip.activate (port : Nat) : Sys2Proof.Laws.RoundTrip.Statement (.activate port) :=
  .noWord rfl

theorem Sys2Proof.Laws.RoundTrip.svnadv (port : Nat) : Sys2Proof.Laws.RoundTrip.Statement (.svnadv port) :=
  .noWord rfl

theorem Sys2Proof.Laws.RoundTrip.preempt (port : Nat) : Sys2Proof.Laws.RoundTrip.Statement (.preempt port) :=
  .noWord rfl

theorem Sys2Proof.Laws.RoundTrip.functionLevelReset (tenant : Nat) : Sys2Proof.Laws.RoundTrip.Statement (.functionLevelReset tenant) :=
  .noWord rfl

theorem Sys2Proof.Laws.RoundTrip.hotReset (port : Nat) : Sys2Proof.Laws.RoundTrip.Statement (.hotReset port) :=
  .noWord rfl

theorem Sys2Proof.Laws.RoundTrip.coldReset : Sys2Proof.Laws.RoundTrip.Statement .coldReset :=
  .noWord rfl

theorem Sys2Proof.Laws.RoundTrip.ready (crpa : Nat) : Sys2Proof.Laws.RoundTrip.Statement (.ready crpa) :=
  .noWord rfl

theorem Sys2Proof.Laws.RoundTrip.correctedError (p : Place) : Sys2Proof.Laws.RoundTrip.Statement (.correctedError p) :=
  .noWord rfl

end
end

