-- ==== Sys2Proof/Safety.lean ====
section
/-! DEFINITION. What a safe run is, in the terms the statements use. -/

namespace Sys2Proof.Safety

open Sys2Proof.Machine

/-- What no step may break: the memory keeps its canonical form. -/
def Inv (s : State) : Prop := s.dev.mem.wf = true

/-- A step that neither faults nor refuses. -/
def Goes (s : State) : Prop := ∃ t, step s = .next t

end Sys2Proof.Safety
end

