-- ==== Sys2Proof/Certificates/Slice0/Obligations.lean ====
section
/-! DEFINITION. The statements for the provers: what the spec's numbered rules say of an instruction or of the machine.
The helper definitions spell the spec's tables out in Lean's own arithmetic, apart from the model's functions. -/

namespace Sys2Proof.Claims

open Sys2Proof.Machine

/-! ### Scalar integer instructions -/

/-- What the tables of R282 and R283 and the expansions of R32 give a scalar integer instruction: destination, value,
length. -/
inductive ScalarInt (s : State) : Instr → Reg → Word → Nat → Prop where
  | addi (d a : Reg) (i : BitVec 15) : ScalarInt s (.addi d a i) d (s.getX a + i.signExtend 64) 4
  | andi (d a : Reg) (i : BitVec 15) : ScalarInt s (.andi d a i) d (s.getX a &&& i.signExtend 64) 4
  | ori (d a : Reg) (i : BitVec 15) : ScalarInt s (.ori d a i) d (s.getX a ||| i.signExtend 64) 4
  | xori (d a : Reg) (i : BitVec 15) : ScalarInt s (.xori d a i) d (s.getX a ^^^ i.signExtend 64) 4
  | sltiS (d a : Reg) (i : BitVec 15) : ScalarInt s (.sltiS d a i) d (if (s.getX a).toInt < i.toInt then 1 else 0) 4
  | sltiZ (d a : Reg) (i : BitVec 15) : ScalarInt s (.sltiZ d a i) d (if (s.getX a).toNat < (i.toInt % 2 ^ 64).toNat then 1 else 0) 4
  | slli (d a : Reg) (k : BitVec 6) : ScalarInt s (.slli d a k) d (s.getX a <<< k.toNat) 4
  | srli (d a : Reg) (k : BitVec 6) : ScalarInt s (.srli d a k) d (s.getX a >>> k.toNat) 4
  | srai (d a : Reg) (k : BitVec 6) : ScalarInt s (.srai d a k) d (BitVec.ofInt 64 ((s.getX a).toInt / 2 ^ k.toNat)) 4
  | rori (d a : Reg) (k : BitVec 6) : ScalarInt s (.rori d a k) d (s.getX a >>> k.toNat ||| s.getX a <<< (64 - k.toNat)) 4
  | lui (d a : Reg) (i : BitVec 15) : ScalarInt s (.lui d a i) d (s.getX a + (i.signExtend 64) <<< 40) 4
  | addpc (d : Reg) (i : BitVec 15) : ScalarInt s (.addpc d i) d (BitVec.ofNat 64 s.h.pc.toNat + i.signExtend 64) 4
  | addiPxi (d a : Reg) (i : BitVec 41) : ScalarInt s (.addiPxi d a i) d (s.getX a + i.signExtend 64) 8
  | andiPxi (d a : Reg) (i : BitVec 41) : ScalarInt s (.andiPxi d a i) d (s.getX a &&& i.signExtend 64) 8
  | oriPxi (d a : Reg) (i : BitVec 41) : ScalarInt s (.oriPxi d a i) d (s.getX a ||| i.signExtend 64) 8
  | xoriPxi (d a : Reg) (i : BitVec 41) : ScalarInt s (.xoriPxi d a i) d (s.getX a ^^^ i.signExtend 64) 8
  | sltiSPxi (d a : Reg) (i : BitVec 41) : ScalarInt s (.sltiSPxi d a i) d (if (s.getX a).toInt < i.toInt then 1 else 0) 8
  | sltiZPxi (d a : Reg) (i : BitVec 41) : ScalarInt s (.sltiZPxi d a i) d (if (s.getX a).toNat < (i.toInt % 2 ^ 64).toNat then 1 else 0) 8
  | luiPxi (d a : Reg) (i : BitVec 41) : ScalarInt s (.luiPxi d a i) d (s.getX a + (i.signExtend 64) <<< 40) 8
  | addpcPxi (d : Reg) (i : BitVec 41) : ScalarInt s (.addpcPxi d i) d (BitVec.ofNat 64 s.h.pc.toNat + i.signExtend 64) 8
  | add (d a b : Reg) : ScalarInt s (.add d a b) d (s.getX a + s.getX b) 4
  | sub (d a b : Reg) : ScalarInt s (.sub d a b) d (s.getX a - s.getX b) 4
  | and (d a b : Reg) : ScalarInt s (.and d a b) d (s.getX a &&& s.getX b) 4
  | or (d a b : Reg) : ScalarInt s (.or d a b) d (s.getX a ||| s.getX b) 4
  | xor (d a b : Reg) : ScalarInt s (.xor d a b) d (s.getX a ^^^ s.getX b) 4
  | sll (d a b : Reg) : ScalarInt s (.sll d a b) d (s.getX a <<< ((s.getX b).toNat % 64)) 4
  | srl (d a b : Reg) : ScalarInt s (.srl d a b) d (s.getX a >>> ((s.getX b).toNat % 64)) 4
  | sra (d a b : Reg) : ScalarInt s (.sra d a b) d (BitVec.ofInt 64 ((s.getX a).toInt / 2 ^ ((s.getX b).toNat % 64))) 4
  | sltS (d a b : Reg) : ScalarInt s (.sltS d a b) d (if (s.getX a).toInt < (s.getX b).toInt then 1 else 0) 4
  | sltZ (d a b : Reg) : ScalarInt s (.sltZ d a b) d (if (s.getX a).toNat < (s.getX b).toNat then 1 else 0) 4
  | mul (d a b : Reg) : ScalarInt s (.mul d a b) d (s.getX a * s.getX b) 4
  | mulhS (d a b : Reg) : ScalarInt s (.mulhS d a b) d (BitVec.ofInt 64 ((s.getX a).toInt * (s.getX b).toInt / 2 ^ 64)) 4
  | mulhZ (d a b : Reg) : ScalarInt s (.mulhZ d a b) d (BitVec.ofNat 64 ((s.getX a).toNat * (s.getX b).toNat / 2 ^ 64)) 4
  | divS (d a b : Reg) : ScalarInt s (.divS d a b) d (if s.getX b = 0 then -1 else BitVec.ofInt 64 ((s.getX a).toInt.tdiv (s.getX b).toInt)) 4
  | divZ (d a b : Reg) : ScalarInt s (.divZ d a b) d (if s.getX b = 0 then -1 else s.getX a / s.getX b) 4
  | remS (d a b : Reg) : ScalarInt s (.remS d a b) d (if s.getX b = 0 then s.getX a else BitVec.ofInt 64 ((s.getX a).toInt.tmod (s.getX b).toInt)) 4
  | remZ (d a b : Reg) : ScalarInt s (.remZ d a b) d (if s.getX b = 0 then s.getX a else s.getX a % s.getX b) 4
  | minS (d a b : Reg) : ScalarInt s (.minS d a b) d (if (s.getX a).toInt ≤ (s.getX b).toInt then s.getX a else s.getX b) 4
  | minZ (d a b : Reg) : ScalarInt s (.minZ d a b) d (if (s.getX a).toNat ≤ (s.getX b).toNat then s.getX a else s.getX b) 4
  | maxS (d a b : Reg) : ScalarInt s (.maxS d a b) d (if (s.getX b).toInt ≤ (s.getX a).toInt then s.getX a else s.getX b) 4
  | maxZ (d a b : Reg) : ScalarInt s (.maxZ d a b) d (if (s.getX b).toNat ≤ (s.getX a).toNat then s.getX a else s.getX b) 4
  | andn (d a b : Reg) : ScalarInt s (.andn d a b) d (s.getX a &&& ~~~(s.getX b)) 4
  | clz (d a : Reg) : ScalarInt s (.clz d a) d (BitVec.ofNat 64 ((List.range 64).takeWhile fun k => !(s.getX a).getMsbD k).length) 4
  | ctz (d a : Reg) : ScalarInt s (.ctz d a) d (BitVec.ofNat 64 ((List.range 64).takeWhile fun k => !(s.getX a).getLsbD k).length) 4
  | cpop (d a : Reg) : ScalarInt s (.cpop d a) d (BitVec.ofNat 64 ((List.range 64).filter fun k => (s.getX a).getLsbD k).length) 4
  | madd (d a b c : Reg) : ScalarInt s (.madd d a b c) d (s.getX a * s.getX b + s.getX c) 4
  | addsh (d a b : Reg) (k : BitVec 3) : ScalarInt s (.addsh d a b k) d (s.getX a + s.getX b <<< k.toNat) 4
  | cAddi (d : Reg) (i : BitVec 5) : ScalarInt s (.cAddi d i) d (s.getX d + i.signExtend 64) 2
  | cLi (d : Reg) (i : BitVec 5) : ScalarInt s (.cLi d i) d (i.signExtend 64) 2
  | cMv (d b : Reg) : ScalarInt s (.cMv d b) d (s.getX b) 2
  | cAdd (d b : Reg) : ScalarInt s (.cAdd d b) d (s.getX d + s.getX b) 2
  | cSub (d b : Reg) : ScalarInt s (.cSub d b) d (s.getX d - s.getX b) 2
  | cAnd (d b : Reg) : ScalarInt s (.cAnd d b) d (s.getX d &&& s.getX b) 2
  | cOr (d b : Reg) : ScalarInt s (.cOr d b) d (s.getX d ||| s.getX b) 2
  | cXor (d b : Reg) : ScalarInt s (.cXor d b) d (s.getX d ^^^ s.getX b) 2
  | cSlli (d : Reg) (k : BitVec 5) : ScalarInt s (.cSlli d k) d (s.getX d <<< k.toNat) 2
  | cSrli (d : Reg) (k : BitVec 5) : ScalarInt s (.cSrli d k) d (s.getX d >>> k.toNat) 2

/-- After `t` register `d` holds `v` (x0 stays 0), every other register what it held, and nothing else of the machine
has changed but the program counter and, at the end of a loop body, the loop state. -/
def WritesOnly (s t : State) (d : Reg) (v : Word) : Prop :=
  (∀ r, t.getX r = if r = d ∧ r ≠ 0 then v else s.getX r) ∧
  t = { s with h := { s.h with x := t.h.x, pc := t.h.pc, pcHi := t.h.pcHi, lp := t.h.lp } }

/-- The address lies in the body of the active loop (R292). -/
def InBody (s : State) (a : Nat) : Prop :=
  s.h.lp.active = true ∧ s.h.lp.start.toNat ≤ a ∧ a < s.h.lp.fin.toNat

/-- The program counter and the loop after an instruction of `n` bytes that does not transfer control: at the end of
the body of an active loop as R292 says, else PC + n (R25), whose bits above the 52 of an address stand in `pcHi` for
the fetch to raise XLATE (R50). -/
def GoesOn (s t : State) (n : Nat) : Prop :=
  (InBody s s.h.pc.toNat ∧ s.h.pc.toNat + n = s.h.lp.fin.toNat →
    match s.h.lp.count with
    | none => t.h.pc = s.h.lp.start ∧ t.h.lp = s.h.lp
    | some c =>
      if 1 < c then t.h.pc = s.h.lp.start ∧ t.h.lp = { s.h.lp with count := some (c - 1) }
      else t.h.pc = s.h.lp.fin ∧ t.h.lp = { s.h.lp with active := false, count := some 0 }) ∧
  (¬(InBody s s.h.pc.toNat ∧ s.h.pc.toNat + n = s.h.lp.fin.toNat) →
    (t.h.pcHi ++ t.h.pc).toNat = s.h.pc.toNat + n ∧ t.h.lp = s.h.lp)

/-! ### Control flow -/

/-- Branches: when they are taken (R28, R32), the displacement field, the length. -/
inductive Branch (s : State) : Instr → Prop → Int → Nat → Prop where
  | beq (a b : Reg) (i : BitVec 12) : Branch s (.beq a b i) (s.getX a = s.getX b) i.toInt 4
  | bne (a b : Reg) (i : BitVec 12) : Branch s (.bne a b i) (s.getX a ≠ s.getX b) i.toInt 4
  | bltS (a b : Reg) (i : BitVec 12) : Branch s (.bltS a b i) ((s.getX a).toInt < (s.getX b).toInt) i.toInt 4
  | bgeS (a b : Reg) (i : BitVec 12) : Branch s (.bgeS a b i) ((s.getX b).toInt ≤ (s.getX a).toInt) i.toInt 4
  | bltZ (a b : Reg) (i : BitVec 12) : Branch s (.bltZ a b i) ((s.getX a).toNat < (s.getX b).toNat) i.toInt 4
  | bgeZ (a b : Reg) (i : BitVec 12) : Branch s (.bgeZ a b i) ((s.getX b).toNat ≤ (s.getX a).toNat) i.toInt 4
  | cBeqz (a : Reg) (i : BitVec 5) : Branch s (.cBeqz a i) (s.getX a = 0) i.toInt 2
  | cBnez (a : Reg) (i : BitVec 5) : Branch s (.cBnez a i) (s.getX a ≠ 0) i.toInt 2

/-- Jumps: the link register, the target, the length (R32, R290). -/
inductive Jump (s : State) : Instr → Reg → Word → Nat → Prop where
  | jal (d : Reg) (i : BitVec 20) : Jump s (.jal d i) d (BitVec.ofInt 64 (s.h.pc.toNat + 2 * i.toInt)) 4
  | cJ (i : BitVec 10) : Jump s (.cJ i) 0 (BitVec.ofInt 64 (s.h.pc.toNat + 2 * i.toInt)) 2
  | jalr (d a : Reg) (i : BitVec 15) : Jump s (.jalr d a i) d (s.getX a + i.signExtend 64) 4
  | jalrPxi (d a : Reg) (i : BitVec 41) : Jump s (.jalrPxi d a i) d (s.getX a + i.signExtend 64) 8
  | cJr (b : Reg) : Jump s (.cJr b) 0 (s.getX b) 2

/-- A taken transfer to `target` by the instruction at PC: the loop stays active unless the transfer leaves its body
(R292). Nothing else changes but the scalar registers and, when the hart is traced, the trace (R352). -/
def Transfers (s t : State) (target : Word) : Prop :=
  t.h.pcHi ++ t.h.pc = target ∧
  (t.h.lp.active = true ↔ s.h.lp.active = true ∧ (InBody s s.h.pc.toNat → InBody s target.toNat)) ∧
  t = { s.traceRec 1 0 target.toNat with h := { s.h with
    x := t.h.x
    pc := t.h.pc
    pcHi := t.h.pcHi
    lp := { s.h.lp with active := t.h.lp.active } } }

/-! ### Scalar floating point -/

/-- An operand of a scalar form: a register not boxed for its format reads as the canonical NaN (R11, R284). -/
def operand (s : State) (t : BitVec 2) (r : Reg) : FVal := (fmtOf t).value ((fmtOf t).unbox (s.getX r))

/-- What a result in format `t` leaves in its register: ones above its width (R11). -/
def boxed (t : BitVec 2) (r : FRes) : Word := (fmtOf t).box r.bits

/-- Scalar floating-point instructions: destination, flags raised, value (R187, R284). The forms that round read the
mode in FRM[2:0] (`rmOf`); the others ignore it. -/
inductive ScalarFloat (s : State) : Instr → Reg → Fl → Word → Prop where
  | fadd (d a b : Reg) (t : BitVec 2) (rm : RM) (r : FRes) (h : rmOf s.h.f.frm = some rm)
      (hr : r = (fmtOf t).round rm (sumProducts rm [operand s t a, operand s t b] [])) :
      ScalarFloat s (.fadd d a b t) d r.fl (boxed t r)
  | fsub (d a b : Reg) (t : BitVec 2) (rm : RM) (r : FRes) (h : rmOf s.h.f.frm = some rm)
      (hr : r = (fmtOf t).round rm (sumProducts rm [operand s t a, (operand s t b).negate] [])) :
      ScalarFloat s (.fsub d a b t) d r.fl (boxed t r)
  | fmul (d a b : Reg) (t : BitVec 2) (rm : RM) (r : FRes) (h : rmOf s.h.f.frm = some rm)
      (hr : r = (fmtOf t).round rm (sumProducts rm [] [(operand s t a, operand s t b)])) :
      ScalarFloat s (.fmul d a b t) d r.fl (boxed t r)
  | fdiv (d a b : Reg) (t : BitVec 2) (rm : RM) (r : FRes) (h : rmOf s.h.f.frm = some rm)
      (hr : r = (fmtOf t).round rm (divide (operand s t a) (operand s t b))) :
      ScalarFloat s (.fdiv d a b t) d r.fl (boxed t r)
  | fsqrt (d a : Reg) (t : BitVec 2) (rm : RM) (r : FRes) (h : rmOf s.h.f.frm = some rm)
      (hr : r = (fmtOf t).round rm (squareRoot (operand s t a))) : ScalarFloat s (.fsqrt d a t) d r.fl (boxed t r)
  | fmadd (d a b c : Reg) (t : BitVec 2) (rm : RM) (r : FRes) (h : rmOf s.h.f.frm = some rm)
      (hr : r = (fmtOf t).round rm (sumProducts rm [operand s t c] [(operand s t a, operand s t b)])) :
      ScalarFloat s (.fmadd d a b c t) d r.fl (boxed t r)
  | fnmsub (d a b c : Reg) (t : BitVec 2) (rm : RM) (r : FRes) (h : rmOf s.h.f.frm = some rm)
      (hr : r = (fmtOf t).round rm (sumProducts rm [operand s t c] [((operand s t a).negate, operand s t b)])) :
      ScalarFloat s (.fnmsub d a b c t) d r.fl (boxed t r)
  | fmin (d a b : Reg) (t : BitVec 2) (r : FRes)
      (hr : r = (fmtOf t).select false ((fmtOf t).unbox (s.getX a)) ((fmtOf t).unbox (s.getX b))) :
      ScalarFloat s (.fmin d a b t) d r.fl (boxed t r)
  | fmax (d a b : Reg) (t : BitVec 2) (r : FRes)
      (hr : r = (fmtOf t).select true ((fmtOf t).unbox (s.getX a)) ((fmtOf t).unbox (s.getX b))) :
      ScalarFloat s (.fmax d a b t) d r.fl (boxed t r)
  | fsgnj (d a b : Reg) (t : BitVec 2) : ScalarFloat s (.fsgnj d a b t) d 0
      ((fmtOf t).box ((fmtOf t).inject 0 ((fmtOf t).unbox (s.getX a)) ((fmtOf t).unbox (s.getX b))))
  | fsgnjn (d a b : Reg) (t : BitVec 2) : ScalarFloat s (.fsgnjn d a b t) d 0
      ((fmtOf t).box ((fmtOf t).inject 1 ((fmtOf t).unbox (s.getX a)) ((fmtOf t).unbox (s.getX b))))
  | fsgnjx (d a b : Reg) (t : BitVec 2) : ScalarFloat s (.fsgnjx d a b t) d 0
      ((fmtOf t).box ((fmtOf t).inject 2 ((fmtOf t).unbox (s.getX a)) ((fmtOf t).unbox (s.getX b))))
  | feq (d a b : Reg) (t : BitVec 2) : ScalarFloat s (.feq d a b t) d (cmpFl true (operand s t a) (operand s t b))
      (if (operand s t a).eq (operand s t b) then 1 else 0)
  | flt (d a b : Reg) (t : BitVec 2) : ScalarFloat s (.flt d a b t) d (cmpFl false (operand s t a) (operand s t b))
      (if (operand s t a).lt (operand s t b) then 1 else 0)
  | fle (d a b : Reg) (t : BitVec 2) : ScalarFloat s (.fle d a b t) d (cmpFl false (operand s t a) (operand s t b))
      (if (operand s t a).lt (operand s t b) ∨ (operand s t a).eq (operand s t b) then 1 else 0)
  | fclass (d a : Reg) (t : BitVec 2) : ScalarFloat s (.fclass d a t) d 0
      (BitVec.ofNat 64 ((fmtOf t).classOf ((fmtOf t).unbox (s.getX a))))
  | fcvtiS (d a : Reg) (t : BitVec 2) (rm : RM) (r : FRes) (h : rmOf s.h.f.frm = some rm)
      (hr : r = toInteger rm true 64 (operand s t a)) : ScalarFloat s (.fcvtiS d a t) d r.fl (BitVec.ofNat 64 r.bits)
  | fcvtiZ (d a : Reg) (t : BitVec 2) (rm : RM) (r : FRes) (h : rmOf s.h.f.frm = some rm)
      (hr : r = toInteger rm false 64 (operand s t a)) : ScalarFloat s (.fcvtiZ d a t) d r.fl (BitVec.ofNat 64 r.bits)
  | fcvtfS (d a : Reg) (t : BitVec 2) (rm : RM) (r : FRes) (h : rmOf s.h.f.frm = some rm)
      (hr : r = (fmtOf t).round rm (ofInteger (s.getX a).toInt)) : ScalarFloat s (.fcvtfS d a t) d r.fl (boxed t r)
  | fcvtfZ (d a : Reg) (t : BitVec 2) (rm : RM) (r : FRes) (h : rmOf s.h.f.frm = some rm)
      (hr : r = (fmtOf t).round rm (ofInteger (s.getX a).toNat)) : ScalarFloat s (.fcvtfZ d a t) d r.fl (boxed t r)
  | fcvt (d a : Reg) (k t : BitVec 2) (rm : RM) (r : FRes)
      (h : if k = t ∨ (2 ≤ k.toNat ∧ t.toNat ≤ 1) ∨ (k = 1 ∧ t = 0) then rm = .rne else rmOf s.h.f.frm = some rm)
      (hr : r = convert (fmtOf k) (fmtOf t) rm ((fmtOf k).unbox (s.getX a))) :
      ScalarFloat s (.fcvt d a k t) d r.fl (boxed t r)

/-- The flag registers after an instruction at the hart's PC has raised the classes `fl` for element `el` (R189): FFLAGS
is sticky; FIDX of a class that is newly set takes the element; FEPC takes the address when no flag was set before. -/
def Raised (s t : State) (el : Nat) (fl : Fl) : Prop :=
  t.h.f.fflags = s.h.f.fflags ||| fl ∧
  (∀ k : Fin 5, t.h.f.fidx[k] =
    if fl.getLsbD (4 - k.val) = true ∧ s.h.f.fflags.getLsbD (4 - k.val) = false then BitVec.ofNat 64 el else s.h.f.fidx[k]) ∧
  t.h.f.fepc = (if fl ≠ 0 ∧ s.h.f.fflags = 0 then BitVec.ofNat 64 s.h.pc.toNat else s.h.f.fepc) ∧
  t.h.f = { s.h.f with fflags := t.h.f.fflags, fidx := t.h.f.fidx, fepc := t.h.f.fepc }

/-- The rational number that a dyadic value stands for. -/
def rational (d : Dy) : ℚ := (if d.neg then -1 else 1) * d.m * (2 : ℚ) ^ d.e

/-! ### Memory accesses of a hart -/

/-- The walk of R56 finds for `va` a resident leaf that allows an access of kind `k`, with A set, and D for a write; the
extents grant the page (R58); no move or choice of a translation is open. `loc` is where the address leads. -/
structure Mapped (s : State) (va : Nat) (k : Kind) (l : Leaf) (loc : Loc) : Prop where
  address : va < 2 ^ 52 ∧ inWindow va = false
  walk : s.walk s.h.id.tenant s.h.hr.ptroot va = .ok l
  permits : allowed l.pte k = true
  resident : l.tiered = false
  accessed : bits (s.dev.mem.getNat l.ptea 8) 6 1 = 1
  dirty : k = .store ∨ k = .amo → bits l.pte 7 1 = 1
  place : loc = (l.loc s s.h.ctx va).2
  grant : s.dev.grants s.h.id.tenant (l.loc s s.h.ctx va).1 k = true
  idempotent : loc.attr < 2
  choices : s.oracle = []

/-- The `n` bytes at `loc` stand in local memory: no copy command owns their line (R131), none is in error (R340). -/
structure AtHome (s : State) (loc : Loc) (n : Nat) : Prop where
  region : regionOf loc.key = .hbm ∨ regionOf loc.key = .cxl
  line : loc.key % 128 + n ≤ 128
  free : s.dev.owned loc.key = false
  intact : s.dev.bad loc.key n = false

/-- The `n` bytes at `va` stand from `loc` on, where an access of kind `k` may go: in one page that is mapped, or in one
scratch bank of the hart's gang through a fixed window, READY or not tracked (R50, R115). -/
inductive Placed (s : State) (va n : Nat) (k : Kind) (loc : Loc) : Prop where
  | page (l : Leaf) (mapped : Mapped s va k l loc) (one : va % 0x10000 + n ≤ 0x10000) (below : loc.key + n ≤ 2 ^ 52)
  | bank (window : va < 2 ^ 52 ∧ inWindow va = true) (one : va % 0x4000 + n ≤ 0x4000)
      (place : s.fixed s.h.ctx va k n = .ok loc) (key : regionOf loc.key = .bank)
      (ready : s.dev.bankWaits loc.key = false ∧ s.dev.bankWaits (loc.key + n - 1) = false)

/-- The `n` bytes at `loc` stand in memory of this device or in a scratch bank: no copy command owns a line of them
(R131), none is in error (R340). -/
structure InMemory (s : State) (loc : Loc) (n : Nat) : Prop where
  region : regionOf loc.key = .hbm ∨ regionOf loc.key = .cxl ∨ regionOf loc.key = .bank
  whole : ∀ j < n, regionOf (loc.key + j) = regionOf loc.key ∧ s.dev.owned (loc.key + j) = false
  intact : s.dev.bad loc.key n = false

/-- A page whose places are NONIDEM (R49): the walk finds for `va` a resident leaf that allows an access of kind `k`. -/
structure Nonidem (s : State) (va : Nat) (k : Kind) (l : Leaf) (loc : Loc) : Prop where
  address : va < 2 ^ 52 ∧ inWindow va = false
  walk : s.walk s.h.id.tenant s.h.hr.ptroot va = .ok l
  permits : allowed l.pte k = true
  resident : l.tiered = false
  accessed : bits (s.dev.mem.getNat l.ptea 8) 6 1 = 1
  place : loc = (l.loc s s.h.ctx va).2
  attr : loc.attr = 2
  choices : s.oracle = []

/-- The `n` bytes at `loc` stand on device `d` of the domain, behind nothing that the hart has still to do there (R276),
and no own store overlaps them. -/
structure OnDevice (s : State) (loc : Loc) (n d : Nat) : Prop where
  region : regionOf loc.key = .domain d
  line : loc.key % 128 + n ≤ 128
  free : s.dev.owned loc.key = false
  queues : s.h.ms.loadQ = [] ∧ s.h.ms.landed = [] ∧ ∀ x ∈ s.h.ms.fabricQ, x.1 ≠ d
  stores : ∀ p ∈ s.h.ownStores, awayFrom p.key ≠ some d ∧ (p.key + p.bytes.length ≤ loc.key ∨ loc.key + n ≤ p.key)

/-- Scalar loads: destination, address, bytes, signedness, length (R27, R32, R286). -/
inductive ScalarLoad (s : State) : Instr → Reg → Word → Nat → Bool → Nat → Prop where
  | ld8Z (d a : Reg) (i : BitVec 12) : ScalarLoad s (.ld8Z d a i) d (s.getX a + i.signExtend 64) 1 false 4
  | ld16Z (d a : Reg) (i : BitVec 12) : ScalarLoad s (.ld16Z d a i) d (s.getX a + i.signExtend 64) 2 false 4
  | ld32Z (d a : Reg) (i : BitVec 12) : ScalarLoad s (.ld32Z d a i) d (s.getX a + i.signExtend 64) 4 false 4
  | ld64 (d a : Reg) (i : BitVec 12) : ScalarLoad s (.ld64 d a i) d (s.getX a + i.signExtend 64) 8 false 4
  | ld8S (d a : Reg) (i : BitVec 12) : ScalarLoad s (.ld8S d a i) d (s.getX a + i.signExtend 64) 1 true 4
  | ld16S (d a : Reg) (i : BitVec 12) : ScalarLoad s (.ld16S d a i) d (s.getX a + i.signExtend 64) 2 true 4
  | ld32S (d a : Reg) (i : BitVec 12) : ScalarLoad s (.ld32S d a i) d (s.getX a + i.signExtend 64) 4 true 4
  | ld8ZPxi (d a : Reg) (i : BitVec 38) : ScalarLoad s (.ld8ZPxi d a i) d (s.getX a + i.signExtend 64) 1 false 8
  | ld16ZPxi (d a : Reg) (i : BitVec 38) : ScalarLoad s (.ld16ZPxi d a i) d (s.getX a + i.signExtend 64) 2 false 8
  | ld32ZPxi (d a : Reg) (i : BitVec 38) : ScalarLoad s (.ld32ZPxi d a i) d (s.getX a + i.signExtend 64) 4 false 8
  | ld64Pxi (d a : Reg) (i : BitVec 38) : ScalarLoad s (.ld64Pxi d a i) d (s.getX a + i.signExtend 64) 8 false 8
  | ld8SPxi (d a : Reg) (i : BitVec 38) : ScalarLoad s (.ld8SPxi d a i) d (s.getX a + i.signExtend 64) 1 true 8
  | ld16SPxi (d a : Reg) (i : BitVec 38) : ScalarLoad s (.ld16SPxi d a i) d (s.getX a + i.signExtend 64) 2 true 8
  | ld32SPxi (d a : Reg) (i : BitVec 38) : ScalarLoad s (.ld32SPxi d a i) d (s.getX a + i.signExtend 64) 4 true 8
  | cLdsp (d : Reg) (o : BitVec 5) : ScalarLoad s (.cLdsp d o) d (s.getX 2 + BitVec.ofNat 64 (8 * o.toNat)) 8 false 2

/-- Scalar stores: source, address, bytes, length (R27, R32, R286). -/
inductive ScalarStore (s : State) : Instr → Reg → Word → Nat → Nat → Prop where
  | st8 (r a : Reg) (i : BitVec 12) : ScalarStore s (.st8 r a i) r (s.getX a + i.signExtend 64) 1 4
  | st16 (r a : Reg) (i : BitVec 12) : ScalarStore s (.st16 r a i) r (s.getX a + i.signExtend 64) 2 4
  | st32 (r a : Reg) (i : BitVec 12) : ScalarStore s (.st32 r a i) r (s.getX a + i.signExtend 64) 4 4
  | st64 (r a : Reg) (i : BitVec 12) : ScalarStore s (.st64 r a i) r (s.getX a + i.signExtend 64) 8 4
  | st8Pxi (r a : Reg) (i : BitVec 38) : ScalarStore s (.st8Pxi r a i) r (s.getX a + i.signExtend 64) 1 8
  | st16Pxi (r a : Reg) (i : BitVec 38) : ScalarStore s (.st16Pxi r a i) r (s.getX a + i.signExtend 64) 2 8
  | st32Pxi (r a : Reg) (i : BitVec 38) : ScalarStore s (.st32Pxi r a i) r (s.getX a + i.signExtend 64) 4 8
  | st64Pxi (r a : Reg) (i : BitVec 38) : ScalarStore s (.st64Pxi r a i) r (s.getX a + i.signExtend 64) 8 8
  | cStsp (r : Reg) (o : BitVec 5) : ScalarStore s (.cStsp r o) r (s.getX 2 + BitVec.ofNat 64 (8 * o.toNat)) 8 2

/-- The byte that the hart sees at location `k`: of its own newest store that is not yet at home, else of the home
(R252, R267). The stores stand oldest first. -/
def seen (ps : List Part) (home : Byte) (k : Nat) : Byte :=
  ps.foldl (fun b p =>
    if p.key ≤ k ∧ k < p.key + p.bytes.length then
      match p.mask with
      | none => (p.bytes[k - p.key]?).getD 0
      | some m => (b &&& ~~~m) ||| ((p.bytes[k - p.key]?).getD 0 &&& m)
    else b) home

/-- The little-endian number of the `n` bytes that the hart sees from location `k` on (R3). -/
def seenNat (s : State) (k n : Nat) : Nat :=
  ((List.range n).map fun j => (seen s.h.ownStores (s.dev.mem.get (k + j)) (k + j)).toNat * 256 ^ j).sum

/-- A number of `n` bytes as a register holds it: sign- or zero-extended (R27, R286). -/
def widened (n : Nat) (signed : Bool) (x : Nat) : Word :=
  if signed = true ∧ 2 ^ (8 * n - 1) ≤ x then BitVec.ofInt 64 ((x : Int) - 2 ^ (8 * n)) else BitVec.ofNat 64 x

/-- The one part that a naturally aligned store of the low `n` bytes of `x` by the hart's next instruction makes
(R273). -/
def partOf (s : State) (loc : Loc) (va n x : Nat) (rel : Option Nat) : Part :=
  { key := loc.key
    bytes := (List.range n).map fun j => BitVec.ofNat 8 (x / 256 ^ j)
    va := va
    map := loc.map
    rel := rel
    pc := s.h.pc }

/-- The parts of such a store at any alignment: one for each 128-byte line (R273). -/
def partsOf (s : State) (loc : Loc) (va n x : Nat) (rel : Option Nat) : List Part :=
  let m := 128 - loc.key % 128
  if n ≤ m then [partOf s loc va n x rel]
  else [partOf s loc va m x rel, partOf s { loc with key := loc.key + m } (va + m) (n - m) (x / 256 ^ m) rel]

/-- A load of the hart's next instruction that has come to another device (R276). -/
def landedLoad (s : State) (loc : Loc) (n : Nat) (bs : Option (List Byte)) : RemoteLoad :=
  { pc := s.h.pc, el := 0, key := loc.key, len := n, bytes := bs }

/-- Ordered loads (R288, R289) and ordered stores, with their bytes. -/
inductive OrderedLoad : Instr → Reg → Reg → Nat → Prop where
  | ld8ZAq (d a : Reg) (k : BitVec 3) : OrderedLoad (.ld8ZAq d a k) d a 1
  | ld16ZAq (d a : Reg) (k : BitVec 3) : OrderedLoad (.ld16ZAq d a k) d a 2
  | ld32ZAq (d a : Reg) (k : BitVec 3) : OrderedLoad (.ld32ZAq d a k) d a 4
  | ld64Aq (d a : Reg) (k : BitVec 3) : OrderedLoad (.ld64Aq d a k) d a 8

inductive OrderedStore : Instr → Reg → Reg → Nat → BitVec 3 → Prop where
  | st8Rl (r a : Reg) (k : BitVec 3) : OrderedStore (.st8Rl r a k) r a 1 k
  | st16Rl (r a : Reg) (k : BitVec 3) : OrderedStore (.st16Rl r a k) r a 2 k
  | st32Rl (r a : Reg) (k : BitVec 3) : OrderedStore (.st32Rl r a k) r a 4 k
  | st64Rl (r a : Reg) (k : BitVec 3) : OrderedStore (.st64Rl r a k) r a 8 k

/-- A number of `w` bits read as a signed one (R46). -/
def signedOf (w x : Nat) : Int := if x % 2 ^ w < 2 ^ (w - 1) then (x % 2 ^ w : Nat) else (x % 2 ^ w : Nat) - (2 : Int) ^ w

/-- Atomics (R288): rd, address register, .aq, .rl, scope, bytes, and the new value from the old one and X(rb)[8w-1:0]. -/
inductive Atomic (s : State) : Instr → Reg → Reg → Reg → Bool → Bool → BitVec 3 → Bool → (Nat → Nat → Nat → Nat) → Prop where
  | swap (d a b : Reg) (l q z : Bool) (k : BitVec 3) : Atomic s (.amoswap d a b l q k z) d a b l q k z fun _ _ b => b
  | add (d a b : Reg) (l q z : Bool) (k : BitVec 3) :
      Atomic s (.amoadd d a b l q k z) d a b l q k z fun w old b => (old + b) % 2 ^ w
  | and (d a b : Reg) (l q z : Bool) (k : BitVec 3) : Atomic s (.amoand d a b l q k z) d a b l q k z fun _ old b => old &&& b
  | or (d a b : Reg) (l q z : Bool) (k : BitVec 3) : Atomic s (.amoor d a b l q k z) d a b l q k z fun _ old b => old ||| b
  | xor (d a b : Reg) (l q z : Bool) (k : BitVec 3) : Atomic s (.amoxor d a b l q k z) d a b l q k z fun _ old b => old ^^^ b
  | minS (d a b : Reg) (l q z : Bool) (k : BitVec 3) : Atomic s (.amominS d a b l q k z) d a b l q k z
      fun w old b => if signedOf w old ≤ signedOf w b then old else b
  | minZ (d a b : Reg) (l q z : Bool) (k : BitVec 3) : Atomic s (.amominZ d a b l q k z) d a b l q k z fun _ old b => min old b
  | maxS (d a b : Reg) (l q z : Bool) (k : BitVec 3) : Atomic s (.amomaxS d a b l q k z) d a b l q k z
      fun w old b => if signedOf w b ≤ signedOf w old then old else b
  | maxZ (d a b : Reg) (l q z : Bool) (k : BitVec 3) : Atomic s (.amomaxZ d a b l q k z) d a b l q k z fun _ old b => max old b
  | cas (d a b : Reg) (l q z : Bool) (k : BitVec 3) : Atomic s (.amocas d a b l q k z) d a b l q k z
      fun w old b => if old = (s.getX d).toNat % 2 ^ w then b else old
  | signal (a b : Reg) : Atomic s (.signal a b) 0 a b true false 4 true fun w old b => (old + b) % 2 ^ w

/-- The hart does not run ahead: nothing is bound ahead of its next instruction, no DISCARD has entered the store queue
before its turn (R266), and every store of its own has its location (R250). -/
structure InStep (s : State) : Prop where
  bound : s.h.ms.bound = []
  look : s.h.ms.look = none
  early : s.h.ms.early = []
  stores : ∀ p ∈ s.h.ownStores, p.tier = none ∧ p.early = 0

/-- Nothing watches the hart's accesses of the `n` bytes at `va` (R349), and it does not run ahead (R266). -/
def Unwatched (s : State) (k : Kind) (va n : Nat) : Prop := s.h.watchHit k va n = none ∧ InStep s

/-! ### The machine as a whole -/

/-- Nothing but the next instruction concerns the hart that moves next: no input is due, no halt or stop is asked for, no
interrupt is pending, no execute trigger is armed, no earlier step has left work before the fetch. -/
structure Undisturbed (s : State) : Prop where
  inputs : ∀ e, s.inbox.head? = some e → s.cycle < e.1
  runs : s.h.status = .running ∧ s.h.db.halted = false ∧ s.h.db.haltReq = none
  stays : ∀ g ∈ s.dev.gangs, g.stopReq = none
  quiet : s.h.hr.tdl = 0 ∧ s.h.hr.hstat.dip = false
  triggers : ∀ k : Fin 4, (s.h.hr.watch[k]).getLsbD 63 = false
  front : s.h.pcHi = 0 ∧ s.h.ms.entryDrain = false ∧ s.h.ms.retDrain = false ∧ s.h.lp.active = false ∧ s.h.ms.ibuf = []
  sound : s.h.anyErr = false

/-- The `n` bytes at the PC lie from location `k` on in local memory, may be fetched, and hold the number `w`. -/
structure CodeAt (s : State) (k n w : Nat) : Prop where
  parcels : ∀ j, 2 * j < n → ∃ l loc, Mapped s (s.h.pc.toNat + 2 * j) .fetch l loc ∧ loc.key = k + 2 * j ∧
    (regionOf loc.key = .hbm ∨ regionOf loc.key = .cxl) ∧ s.dev.bad loc.key 2 = false
  value : s.dev.mem.getNat k n = w
  length : lengthOf w = n

/-- What a step does after the instruction at `s`: stalls end, a data trigger acts (R349), a single step ends in a halt
(R348), the device goes on by itself, the clock ticks, the next hart comes to the front. -/
def afterInstr (s t : State) : State :=
  (State.endStep s.h.pc s.h.handler ((t.endOfInstr s.h.pc).actWatch s.h.vc.vstart)).endOfStep

/-- What a fetch of the word `w` leaves: a completion mask stays before an access of mode 2 only (R21), counts of
unit-based instructions that the hart has left are gone (R77), and the parcels are fetched ones (R43). -/
def AfterFetch (s u : State) (w : Nat) : Prop :=
  u = { s with h := { s.h.dropUnits with
    vc := { s.h.vc with ecm := if mode2 w then s.h.vc.ecm else 0 }
    ms := { s.h.ms with ibuf := u.h.ms.ibuf } } }

/-! ### Traps, the handler and system registers -/

/-- `t` is `u`, gone on behind the `n` bytes of the instruction that started in `s` (R25). -/
def Done (s u t : State) (n : Nat) : Prop :=
  GoesOn s t n ∧ t = { u with h := { u.h with pc := t.h.pc, pcHi := t.h.pcHi, lp := t.h.lp } }

/-- The values of R15's fields as a word, VSPEC being 0. -/
def vtypeOf (ew grp : BitVec 2) : Word := BitVec.ofNat 64 (ew.toNat + 16 * grp.toNat)

/-- Entry into the handler from `s` (R324): a trap (`intr` false) or an interrupt with its code, EADDR, EELEM, and the
element that EVSTART names. -/
structure Entered (s t : State) (intr : Bool) (code : BitVec 8) (addr : Word) (el : Nat) (start : BitVec 48) : Prop where
  mode : t.h.handler = true
  pc : t.h.pc = s.h.hr.hvec ∧ t.h.pcHi = 0
  bank : t.h.hr.epc = s.h.pc ∧ t.h.hr.ecauseIntr = intr ∧ t.h.hr.ecause = code ∧ t.h.hr.eaddr = addr ∧
    t.h.hr.eelem = BitVec.ofNat 48 el ∧ t.h.hr.evl = BitVec.ofNat 16 s.h.vc.vl ∧
    t.h.hr.evtype = vtypeOf s.h.vc.ew s.h.vc.grp ∧ t.h.hr.evstart = start
  vlost : t.h.hr.hstat.vlost = (s.h.handler && (s.h.hr.hstat.vlost || !s.h.hr.hstat.stacked))
  status : t.h.hr.hstat.pm = s.h.handler ∧ t.h.hr.hstat.stacked = false ∧ t.h.hr.hstat.ie = false ∧
    t.h.hr.hstat.dip = s.h.hr.hstat.dip ∧ (t.h.hr.hstat.ecmv = true ↔ s.h.vc.ecm ≠ 0)
  mask : s.h.vc.ecm ≠ 0 → t.h.hr.hecm = s.h.vc.ecm
  kept : t.h.hr.hvec = s.h.hr.hvec ∧ t.h.hr.hscr = s.h.hr.hscr ∧ t.h.hr.tdl = s.h.hr.tdl ∧ t.h.hr.watch = s.h.hr.watch ∧
    t.h.hr.ptroot = s.h.hr.ptroot ∧ t.h.hr.asid = s.h.hr.asid ∧ t.h.hr.vlcap = s.h.hr.vlcap
  vstart : t.h.vc = { s.h.vc with vstart := 0, ecm := 0 }
  registers : t.h.x = s.h.x ∧ t.h.v = s.h.v ∧ t.h.f = s.h.f ∧ t.h.t = s.h.t ∧ t.h.lp = s.h.lp ∧ t.h.db = s.h.db ∧
    t.h.id = s.h.id ∧ t.h.sy.evt = s.h.sy.evt ∧ t.h.sy.mon = s.h.sy.mon ∧ t.h.sy.cseq = s.h.sy.cseq
  /-- queued stores stay and drain before the handler's first access (R281) -/
  stores : t.h.ms.storeQ.map (fun p => { p with early := 0 }) = s.h.ms.storeQ.map (fun p => { p with early := 0 }) ∧
    t.h.ms.fabricQ = s.h.ms.fabricQ ∧ t.h.ms.entryDrain = true
  /-- Esmen logs an MCHECK (R340) -/
  others : t.others = s.others ∧
    t.dev = { s.dev with mchecks := if intr = false ∧ code = 0x11 then (s.time, addr) :: s.dev.mchecks else s.dev.mchecks }

/-- The gang of the hart at the front of `s` has ended in `t` without a completion add (R326): every hart of it with its
strip, its completion made impossible. -/
structure GangEnded (s t : State) : Prop where
  front : t.h.status = .ended ∧ t.h.ms.strip = none
  others : ∀ h ∈ t.others, h.id.gang = s.h.id.gang → h.status = .vacant ∨ (h.status = .ended ∧ h.ms.strip = none)
  noAdd : ∃ x, t.dev.gangs.find? (fun x => x.id == s.h.id.gang.toNat) = some x ∧ x.ending = some false

/-- The report that `p` describes stands in `t` at the tail that the tenant's ring had in `s`, if the ring has room
(R360, R361), with the queue and the ring index of the gang. -/
def Reports (s t : State) (g : Gang) (p : Report → Prop) : Prop :=
  ((s.dev.tenant s.h.id.tenant).rtail + 16 - (s.dev.tenant s.h.id.tenant).rhead) % 16 < 15 →
    ∃ r, ((s.dev.tenant s.h.id.tenant).rtail, r) ∈ (t.dev.tenant s.h.id.tenant).ring ∧
      r.gang = s.h.id.gang.toNat ∧ r.queue = g.queue ∧ r.index = g.index ∧ p r

/-- Causes that resume at (PC, EELEM) (R320). -/
inductive AtElement : Cause → Prop where
  | misalign : AtElement .misalign
  | xlate : AtElement .xlate
  | perm : AtElement .perm
  | extent : AtElement .extent
  | fptrap : AtElement .fptrap
  | watch : AtElement .watch
  | mcheck : AtElement .mcheck
  | tierwait : AtElement .tierwait

/-- Causes whose EADDR is the address of the instruction (R320). -/
inductive AtInstruction : Cause → Prop where
  | illegal : AtInstruction .illegal
  | priv : AtInstruction .priv
  | stripw : AtInstruction .stripw
  | stripcap : AtInstruction .stripcap
  | stripop : AtInstruction .stripop
  | tileown : AtInstruction .tileown
  | break : AtInstruction .break

/-- The system registers as MFSR reads them (R13-R17, R322, R323, R331, R349). -/
inductive SysValue (s : State) : Nat → Word → Prop where
  | vl : SysValue s 0x000 (BitVec.ofNat 64 s.h.vc.vl)
  | vtype : s.h.vc.vspec = false → SysValue s 0x001 (vtypeOf s.h.vc.ew s.h.vc.grp)
  | vstart : SysValue s 0x002 (s.h.vc.vstart.setWidth 64)
  | vlmaxr : SysValue s 0x003 (BitVec.ofNat 64 s.h.vc.vlmaxr)
  | vff : SysValue s 0x004 s.h.vc.vff
  | vpx : SysValue s 0x005 s.h.vc.vpx
  | fflags : SysValue s 0x006 (s.h.f.fflags.setWidth 64)
  | frm : SysValue s 0x007 ((s.h.f.fen ++ (0 : BitVec 5) ++ s.h.f.frm).setWidth 64)
  | fxrnd : SysValue s 0x008 (s.h.f.fxrnd.setWidth 64)
  | fxsat : SysValue s 0x009 (if s.h.f.fxsat then 1 else 0)
  | fidx (k : Fin 5) : SysValue s (0x00A + k.val) s.h.f.fidx[k]
  | fepc : SysValue s 0x00F s.h.f.fepc
  | fmt (k : Fin 12) : SysValue s (0x010 + k.val) s.h.f.fmt[k]
  | rctrl : SysValue s 0x020 s.h.f.rctrl
  | rctrh : SysValue s 0x021 s.h.f.rctrh
  | rkey : SysValue s 0x022 s.h.f.rkey
  | tshape : SysValue s 0x023
      ((s.h.t.facN ++ (0 : BitVec 1) ++ s.h.t.cols ++ (0 : BitVec 1) ++ s.h.t.rows).setWidth 64)
  | town : SysValue s 0x024 (s.h.t.town.setWidth 64)
  | hartid : SysValue s 0x025 (s.h.id.hartid.setWidth 64)
  | gangid : SysValue s 0x026 (s.h.id.gang.setWidth 64)
  | gangsz : SysValue s 0x027 (BitVec.ofNat 64 s.h.id.gangsz)
  | grank : SysValue s 0x028 (BitVec.ofNat 64 s.h.id.rank)
  | cycle : SysValue s 0x029 (BitVec.ofNat 64 s.cycle)
  | time : SysValue s 0x02A (BitVec.ofNat 64 s.time)
  | sluice : SysValue s 0x02B 0
  | caps0 : SysValue s 0x02C 0x0FFF
  | caps1 : SysValue s 0x02D 0
  | kvstash : SysValue s 0x02E (BitVec.ofNat 64 (s.stashCount s.h))
  | hstat : SysValue s 0x100
      ((BitVec.ofBool s.h.hr.hstat.dip ++ BitVec.ofBool (decide (s.h.hr.tdl ≠ 0 ∧ s.h.hr.tdl.toNat ≤ s.time)) ++
        BitVec.ofBool s.h.hr.hstat.ie ++ (0 : BitVec 3) ++ BitVec.ofBool s.h.hr.hstat.ecmv ++
        BitVec.ofBool s.h.hr.hstat.pm ++ BitVec.ofBool s.h.hr.hstat.vlost ++ BitVec.ofBool s.h.hr.hstat.stacked ++
        (0 : BitVec 1)).setWidth 64)
  | epc : SysValue s 0x101 (s.h.hr.epc.setWidth 64)
  | ecause : SysValue s 0x102 (BitVec.ofBool s.h.hr.ecauseIntr ++ (0 : BitVec 55) ++ s.h.hr.ecause)
  | eaddr : SysValue s 0x103 s.h.hr.eaddr
  | eelem : SysValue s 0x104 (s.h.hr.eelem.setWidth 64)
  | evl : SysValue s 0x105 (s.h.hr.evl.setWidth 64)
  | evtype : SysValue s 0x106 s.h.hr.evtype
  | evstart : SysValue s 0x107 (s.h.hr.evstart.setWidth 64)
  | hvec : SysValue s 0x108 (s.h.hr.hvec.setWidth 64)
  | ptroot : SysValue s 0x109 (s.h.hr.ptroot.setWidth 64)
  | asid : SysValue s 0x10A (s.h.hr.asid.setWidth 64)
  | vlcap : SysValue s 0x10B (s.h.hr.vlcap.setWidth 64)
  | watch (k : Fin 4) : SysValue s (0x10C + k.val) s.h.hr.watch[k]

/-- An address with bit 0 cleared, as EPC and HVEC hold one (R323). -/
def evenAddr (v : Word) : BitVec 52 := v.extractLsb' 1 51 ++ (0 : BitVec 1)

/-- The hart after MTSR has written `v` to a system register (R13-R17, R154, R322, R323, R349): bits that no field names
are not kept, read-only registers stay, DIP and VLOST clear where 1 is written. -/
inductive SysWrite (s : State) (v : Word) : Nat → Hart → Prop where
  | readOnly (n : Nat) (h : n ∈ [0x000, 0x001, 0x003, 0x024, 0x025, 0x026, 0x027, 0x028, 0x029, 0x02A, 0x02B, 0x02C,
      0x02D, 0x02E]) : SysWrite s v n s.h
  | vstart : SysWrite s v 0x002 { s.h with vc := { s.h.vc with vstart := v.extractLsb' 0 48 } }
  | vff : SysWrite s v 0x004 { s.h with vc := { s.h.vc with vff := v &&& 0x8000FFFF0000FFFF } }
  | vpx : SysWrite s v 0x005 { s.h with vc := { s.h.vc with vpx := v &&& 0x1FFFF } }
  | fflags : SysWrite s v 0x006 { s.h with f := { s.h.f with fflags := v.extractLsb' 0 5 } }
  | frm : SysWrite s v 0x007 { s.h with f := { s.h.f with frm := v.extractLsb' 0 3, fen := v.extractLsb' 8 5 } }
  | fxrnd : SysWrite s v 0x008 { s.h with f := { s.h.f with fxrnd := v.extractLsb' 0 2 } }
  | fxsat : SysWrite s v 0x009 { s.h with f := { s.h.f with fxsat := v.getLsbD 0 } }
  | fidx (k : Fin 5) : SysWrite s v (0x00A + k.val) { s.h with f := { s.h.f with fidx := s.h.f.fidx.set k v } }
  | fepc : SysWrite s v 0x00F { s.h with f := { s.h.f with fepc := v } }
  | fmt (k : Fin 12) : SysWrite s v (0x010 + k.val) { s.h with f := { s.h.f with
      fmt := s.h.f.fmt.set k (if k.val % 3 = 0 then v &&& ~~~0x30008 else v) } }
  | rctrl : SysWrite s v 0x020 { s.h with f := { s.h.f with rctrl := v } }
  | rctrh : SysWrite s v 0x021 { s.h with f := { s.h.f with rctrh := v } }
  | rkey : SysWrite s v 0x022 { s.h with f := { s.h.f with rkey := v } }
  | tshape : SysWrite s v 0x023 { s.h with t := { s.h.t with
      rows := v.extractLsb' 0 7
      cols := v.extractLsb' 8 7
      facN := v.extractLsb' 16 7 } }
  | hstat : SysWrite s v 0x100 { s.h with hr := { s.h.hr with hstat := {
      dip := s.h.hr.hstat.dip && !v.getLsbD 10
      ie := v.getLsbD 8
      ecmv := v.getLsbD 4
      pm := v.getLsbD 3
      vlost := s.h.hr.hstat.vlost && !v.getLsbD 2
      stacked := v.getLsbD 1 } } }
  | epc : SysWrite s v 0x101 { s.h with hr := { s.h.hr with epc := evenAddr v } }
  | ecause : SysWrite s v 0x102 { s.h with hr := { s.h.hr with ecauseIntr := v.getLsbD 63, ecause := v.extractLsb' 0 8 } }
  | eaddr : SysWrite s v 0x103 { s.h with hr := { s.h.hr with eaddr := v } }
  | eelem : SysWrite s v 0x104 { s.h with hr := { s.h.hr with eelem := v.extractLsb' 0 48 } }
  | evl : SysWrite s v 0x105 { s.h with hr := { s.h.hr with evl := v.extractLsb' 0 16 } }
  | evtype : SysWrite s v 0x106 { s.h with hr := { s.h.hr with evtype := v } }
  | evstart : SysWrite s v 0x107 { s.h with hr := { s.h.hr with evstart := v.extractLsb' 0 48 } }
  | hvec : SysWrite s v 0x108 { s.h with hr := { s.h.hr with hvec := evenAddr v } }
  | ptroot : SysWrite s v 0x109 { s.h with hr := { s.h.hr with ptroot := v.extractLsb' 15 37 ++ (0 : BitVec 15) } }
  | asid : SysWrite s v 0x10A { s.h with hr := { s.h.hr with asid := v.extractLsb' 0 16 } }
  | vlcap (c : BitVec 4) (h : c.toNat = min (if 5 ≤ v.toNat % 16 then 4 else v.toNat % 16) (s.dev.tenant s.h.id.tenant).cap.toNat) :
      SysWrite s v 0x10B { s.h with hr := { s.h.hr with vlcap := c } }
  | watch (k : Fin 4) : SysWrite s v (0x10C + k.val) { s.h with hr := { s.h.hr with
      watch := s.h.hr.watch.set k (v &&& ~~~0x30000000000000) } }

/-- A TLB entry that a TINV removes (R61): kind 0 by address, 1 by ASID, 2 all of the tenant. -/
def removes (s : State) (kind opnd : Nat) (e : TlbEntry) : Prop :=
  e.tenant = s.h.id.tenant ∧
  (kind = 0 → e.base ≤ opnd ∧ opnd < e.base + e.size ∧ (e.asid = s.h.hr.asid.toNat ∨ e.pte.getLsbD 5 = true)) ∧
  (kind = 1 → e.asid = opnd % 2 ^ 16)

/-- The handler-only forms apart from TRET, with what they leave when nothing of the hart's stores is under way
(R61, R62, R329-R331). -/
inductive HandlerForm (s : State) : Instr → State → Prop where
  | hxchg (d : Reg) : HandlerForm s (.hxchg d)
      { s.setX d s.h.hr.hscr with h := { (s.setX d s.h.hr.hscr).h with hr := { s.h.hr with hscr := s.getX d } } }
  | ecmrd (d : Reg) (m : BitVec 16384)
      (hm : ∀ i : Nat, i < 16384 → m.getLsbD i =
        (s.h.hr.hstat.ecmv && decide (i < s.h.hr.evl.toNat) && decide (i < s.h.vlen) && s.h.hr.hecm.getLsbD i)) :
      HandlerForm s (.ecmrd d)
        { s with h := { s.h with v := s.h.v.set d { val := m, dirty := true, vt := s.h.vlen / 8 } } }
  | ecmwr (a : Reg) (m : BitVec 16384) (k : Nat)
      (hm : ∀ i : Nat, i < 16384 → m.getLsbD i = (decide (i < s.h.hr.evl.toNat) && (s.h.v[a]).val.getLsbD i))
      (below : ∀ j < k, m.getLsbD j = true) (at_ : k ≤ s.h.hr.evl.toNat ∧ (k < s.h.hr.evl.toNat → m.getLsbD k = false)) :
      HandlerForm s (.ecmwr a) { s with h := { s.h with hr := { s.h.hr with
        hecm := m
        hstat := { s.h.hr.hstat with ecmv := true }
        evstart := BitVec.ofNat 48 k } } }
  | tmset (a : Reg) : HandlerForm s (.tmset a) { s with h := { s.h with hr := { s.h.hr with tdl := s.getX a } } }
  | tinv (i : Instr) (kind opnd : Nat) (stays : TlbEntry → Bool)
      (form : (∃ a, i = .tinvVa a ∧ kind = 0 ∧ opnd = (s.getX a).toNat) ∨
        (∃ a, i = .tinvAsid a ∧ kind = 1 ∧ opnd = (s.getX a).toNat) ∨ (i = .tinvAll ∧ kind = 2 ∧ opnd = 0))
      (quiet : s.h.ms.storeQ = [] ∧ s.h.ms.fabricQ = [])
      (hl : ∀ e, stays e = true ↔ ¬removes s kind opnd e) :
      HandlerForm s i { s with
        h := { s.h with sy := { s.h.sy with tinvs := (kind, opnd, s.h.hr.asid.toNat, s.cycle) :: s.h.sy.tinvs } }
        dev := { s.dev with tlb := s.dev.tlb.filter stays } }
  | tsync (queues : ∀ h ∈ s.h :: s.others, h.ms.storeQ = [] ∧ h.ms.fabricQ = [] ∧ h.ms.loadQ = [] ∧ h.ms.strip = none)
      (copies : s.dev.cmds = []) :
      HandlerForm s .tsync { s with h := { s.h with sy := { s.h.sy with tinvs := [] } } }

/-- The forms of TRAP, WAIT, SEV and the debug and probe instructions that both modes may run, with what they leave
(R61, R297, R352, R355). -/
inductive TaskForm (s : State) : Instr → State → Prop where
  | wait (d a : Reg) (h : s.h.sy.evt = true ∨ (s.getX a ≠ 0 ∧ (s.getX a).toNat ≤ s.time)) :
      TaskForm s (.wait d a) { s.setX d (if s.h.sy.evt then 1 else 0) with h := { (s.setX d (if s.h.sy.evt then 1 else 0)).h with
        sy := { s.h.sy with evt := false, mon := none, monAddr := 0 }
        ms := { s.h.ms with bound := [] } } }
  | sev (a : Reg) (f : Hart → Hart) (quiet : s.h.ms.storeQ = [] ∧ s.h.ms.fabricQ = [])
      (hf : ∀ h, f h = if h.id.gang = s.h.id.gang ∧ h.status ≠ .vacant ∧
          ((s.getX a).toNat = 2 ^ 64 - 1 ∨ ((s.getX a).toNat < h.id.gangsz ∧ h.id.rank = (s.getX a).toNat))
        then { h with sy := { h.sy with evt := true } } else h) :
      TaskForm s (.sev a) { s with h := f s.h, others := s.others.map f }
  | tprobe (d a : Reg) (k : BitVec 2) (kind : Kind) (l : Leaf) (loc : Loc)
      (hk : kind = if k = 0 then .load else if k = 1 then .store else if k = 2 then .fetch else .amo)
      (hm : Mapped s (s.getX a).toNat kind l loc) :
      TaskForm s (.tprobe d a k) (s.setX d (BitVec.ofNat 64
        (bits l.pte 8 2 * 2 ^ 57 + loc.attr * 2 ^ 54 + (bits l.pte 16 36 * 2 ^ 16 / l.size * l.size + (s.getX a).toNat % l.size) % 2 ^ 52)))
  | tprobeFault (d a : Reg) (k : BitVec 2) (kind : Kind) (c : Cause)
      (hk : kind = if k = 0 then .load else if k = 1 then .store else if k = 2 then .fetch else .amo)
      (hf : s.probe s.h.ctx (s.getX a).toNat kind = .error c) :
      TaskForm s (.tprobe d a k) (s.setX d (1#1 ++ (0 : BitVec 55) ++ c.code))
  | spread (d a : Reg) (w : Word)
      (hw : w = if (s.getX a).toNat < 128 then
          match s.h.db.table[(s.getX a).toNat / 4]? with
          | none => 0
          | some e =>
            if (s.getX a).toNat % 4 = 0 then e.kind ++ (0 : BitVec 8) ++ e.ppc
            else if (s.getX a).toNat % 4 = 1 then e.cpc.setWidth 64
            else if (s.getX a).toNat % 4 = 2 then e.events ++ (0 : BitVec 16) ++ e.elag
            else e.lost
        else if (s.getX a).toNat = 128 then s.h.db.counter[0]
        else if (s.getX a).toNat = 129 then s.h.db.counter[1]
        else if (s.getX a).toNat = 130 then s.h.db.counter[2]
        else if (s.getX a).toNat = 131 then s.h.db.counter[3]
        else 0) :
      TaskForm s (.spread d a) (s.setX d w)
  | spclr : TaskForm s .spclr { s with h := { s.h with db := { s.h.db with table := [], counter := Vector.replicate 4 0 } } }
  | tmark (a : Reg) : TaskForm s (.tmark a) (s.traceRec 7 0 (s.getX a).toNat)

/-- The forms of SYS that only a handler may run (R39, R61, R327). -/
inductive HandlerOnly : Instr → Prop where
  | tinvVa (a : Reg) : HandlerOnly (.tinvVa a)
  | tinvAsid (a : Reg) : HandlerOnly (.tinvAsid a)
  | tinvAll : HandlerOnly .tinvAll
  | tsync : HandlerOnly .tsync
  | tret : HandlerOnly .tret
  | hxchg (d : Reg) : HandlerOnly (.hxchg d)
  | ecmrd (d : Reg) : HandlerOnly (.ecmrd d)
  | ecmwr (a : Reg) : HandlerOnly (.ecmwr a)
  | tmset (a : Reg) : HandlerOnly (.tmset a)

/-! ### Vector registers and element loops -/

/-- A number modulo 2^w. -/
def modW (w : Nat) (x : Int) : Nat := (x % 2 ^ w).toNat

/-- The mask bit of element `i` of a masked form is set, or the form is not masked (R46). -/
def on (h : Hart) (m : Bool) (i : Nat) : Bool := !m || (h.v[(0 : Fin 32)]).val.getLsbD i

/-- Operand b of element `k`: X(xb)[w-1:0] with ws = 1, else the element of vb (R164). -/
def operandB (h : Hart) (v : VArgs) (w k : Nat) : Nat :=
  if v.w then (h.getX v.b).toNat % 2 ^ w else h.elem v.b.val k w

/-- Two register groups meet. -/
def Meet (a : Reg) (n : Nat) (b : Reg) (k : Nat) : Prop := a.val < b.val + k ∧ b.val < a.val + n

/-- The registers from `d` on are about to be written: inside a strip their architectural slices are kept, those new to
Written, of which there may be 16 in all (R247). -/
def Claimed (h : Hart) (d : Reg) (n : Nat) (h0 : Hart) : Prop :=
  match h.ms.strip with
  | none => h0 = h
  | some st => ∃ new : List (Nat × VReg),
      new = (((List.range n).map fun k => k + d.val).filter fun r => !(st.arch.map Prod.fst).contains r).map
        (fun r => (r, h.v[Fin.ofNat 32 r])) ∧
      st.arch.length + new.length ≤ 16 ∧
      h0 = { h with ms := { h.ms with strip := some { st with arch := st.arch ++ new } } }

/-- The loop of R167: the elements from VSTART to VL - 1 in increasing order, `f` at an active one, each mask bit read at
its element's turn (R45). -/
def Loops (m : Bool) (f : Nat → Hart → Hart) (h h' : Hart) : Prop :=
  ∃ g : Nat → Hart, g h.vc.vstart.toNat = h ∧ g (max h.vc.vstart.toNat h.vc.vl) = h' ∧
    ∀ i, h.vc.vstart.toNat ≤ i → i < h.vc.vl → g (i + 1) = if on (g i) m i then f i (g i) else g i

/-- The step of R47: with z = 1 the elements from `lo` to `top - 1` that are not active become 0. -/
def Zeroes (lo : Nat) (m z : Bool) (d : Reg) (w top : Nat) (h h' : Hart) : Prop :=
  ∃ g : Nat → Hart, g lo = h ∧ g (max lo top) = h' ∧
    ∀ i, lo ≤ i → i < top → g (i + 1) =
      if z = true ∧ ¬(i < (g i).vc.vl ∧ on (g i) m i = true) then (g i).zeroElem d.val i w else g i

/-- A vector instruction that started in `s` completes with the hart as `h`: VSTART becomes 0 (R13). -/
def Finished (s : State) (h : Hart) (t : State) : Prop :=
  GoesOn s t 4 ∧
  t = { s with h := { h with
    pc := t.h.pc
    pcHi := t.h.pcHi
    lp := t.h.lp
    vc := { h.vc with vstart := 0, ecm := 0 }
    sy := { h.sy with fromElem := none } } }

/-- What a form on registers that writes the `n` registers from `d` on does: ILLEGAL when `bad`, STRIPW when they do not
fit into Written, else `body` from the claimed hart to the completed one. -/
def Acts (s : State) (i : Instr) (bad : Prop) (d : Reg) (n : Nat) (body : Hart → Hart → Prop) : Prop :=
  (bad → exec i s = .next (takeTrap .illegal 0 (s.h.pc.setWidth 64) s)) ∧
  (¬bad → (¬∃ h, Claimed s.h d n h) → exec i s = .next (takeTrap .stripw 0 (s.h.pc.setWidth 64) s)) ∧
  (¬bad → ∀ h, Claimed s.h d n h → ∃ h' t, body h h' ∧ exec i s = .next t ∧ Finished s h' t)

/-- An element loop and the step of R47 over the whole group. -/
def ElementLoop (m z : Bool) (d : Reg) (w : Nat) (f : Nat → Hart → Hart) (h h' : Hart) : Prop :=
  ∃ h1, Loops m f h h1 ∧ Zeroes h1.vc.vstart.toNat m z d w h1.vlmax h1 h'

/-! ### Vector integer, fixed-point, mask and permute instructions -/

/-- F of R168 on unsigned readings of a, b and d at width w; modulo 2^w. -/
inductive IntOp : Instr → VArgs → (Nat → Nat → Nat → Nat → Int) → Prop where
  | vadd (v : VArgs) : IntOp (.vadd v) v fun _ a b _ => a + b
  | vsub (v : VArgs) : IntOp (.vsub v) v fun _ a b _ => a - b
  | vrsub (v : VArgs) : IntOp (.vrsub v) v fun _ a b _ => b - a
  | vminS (v : VArgs) : IntOp (.vminS v) v fun w a b _ => min (signedOf w a) (signedOf w b)
  | vminZ (v : VArgs) : IntOp (.vminZ v) v fun _ a b _ => min a b
  | vmaxS (v : VArgs) : IntOp (.vmaxS v) v fun w a b _ => max (signedOf w a) (signedOf w b)
  | vmaxZ (v : VArgs) : IntOp (.vmaxZ v) v fun _ a b _ => max a b
  | vand (v : VArgs) : IntOp (.vand v) v fun _ a b _ => (a &&& b : Nat)
  | vor (v : VArgs) : IntOp (.vor v) v fun _ a b _ => (a ||| b : Nat)
  | vxor (v : VArgs) : IntOp (.vxor v) v fun _ a b _ => (a ^^^ b : Nat)
  | vsll (v : VArgs) : IntOp (.vsll v) v fun w a b _ => a * 2 ^ (b % w)
  | vsrl (v : VArgs) : IntOp (.vsrl v) v fun w a b _ => a / 2 ^ (b % w)
  | vsra (v : VArgs) : IntOp (.vsra v) v fun w a b _ => signedOf w a / 2 ^ (b % w)
  | vmul (v : VArgs) : IntOp (.vmul v) v fun _ a b _ => a * b
  | vmulhS (v : VArgs) : IntOp (.vmulhS v) v fun w a b _ => signedOf w a * signedOf w b / 2 ^ w
  | vmulhZ (v : VArgs) : IntOp (.vmulhZ v) v fun w a b _ => (a * b / 2 ^ w : Nat)
  | vdivS (v : VArgs) : IntOp (.vdivS v) v fun w a b _ => if b = 0 then -1 else (signedOf w a).tdiv (signedOf w b)
  | vdivZ (v : VArgs) : IntOp (.vdivZ v) v fun _ a b _ => if b = 0 then -1 else (a / b : Nat)
  | vremS (v : VArgs) : IntOp (.vremS v) v fun w a b _ => if b = 0 then a else (signedOf w a).tmod (signedOf w b)
  | vremZ (v : VArgs) : IntOp (.vremZ v) v fun _ a b _ => if b = 0 then a else (a % b : Nat)
  | vmacc (v : VArgs) : IntOp (.vmacc v) v fun _ a b d => d + a * b
  | vnmsac (v : VArgs) : IntOp (.vnmsac v) v fun _ a b d => d - a * b

/-- F of R169, at width 2w. -/
inductive WideOp : Instr → VArgs → (Nat → Nat → Nat → Nat → Int) → Prop where
  | vwaddS (v : VArgs) : WideOp (.vwaddS v) v fun w a b _ => signedOf w a + signedOf w b
  | vwaddZ (v : VArgs) : WideOp (.vwaddZ v) v fun _ a b _ => a + b
  | vwsubS (v : VArgs) : WideOp (.vwsubS v) v fun w a b _ => signedOf w a - signedOf w b
  | vwsubZ (v : VArgs) : WideOp (.vwsubZ v) v fun _ a b _ => a - b
  | vwmulS (v : VArgs) : WideOp (.vwmulS v) v fun w a b _ => signedOf w a * signedOf w b
  | vwmulZ (v : VArgs) : WideOp (.vwmulZ v) v fun _ a b _ => a * b
  | vwmaccS (v : VArgs) : WideOp (.vwmaccS v) v fun w a b d => d + signedOf w a * signedOf w b
  | vwmaccZ (v : VArgs) : WideOp (.vwmaccZ v) v fun _ a b d => d + a * b

/-- Rnd(x, sh) of R172. -/
def roundShift (mode : BitVec 2) (x : Int) (sh : Nat) : Int :=
  let q := x / 2 ^ sh
  let f := x % 2 ^ sh
  if mode = 0 then if 2 ^ sh ≤ 2 * f ∧ 0 < sh then q + 1 else q
  else if mode = 1 then if 2 ^ sh < 2 * f ∨ (2 * f = 2 ^ sh ∧ q % 2 = 1) then q + 1 else q
  else if mode = 2 then q
  else if f ≠ 0 ∧ q % 2 = 0 then q + 1 else q

/-- Forms of R173 and R174: the mode, the width w, the source a (of width 2w for a narrowing form) and b give the exact
value; `sat` says how it saturates, if it does. -/
inductive FixOp : Instr → VArgs → Bool → Option Bool → (BitVec 2 → Nat → Nat → Nat → Int) → Prop where
  | vsaddS (v : VArgs) : FixOp (.vsaddS v) v false (some true) fun _ w a b => signedOf w a + signedOf w b
  | vsaddZ (v : VArgs) : FixOp (.vsaddZ v) v false (some false) fun _ _ a b => a + b
  | vssubS (v : VArgs) : FixOp (.vssubS v) v false (some true) fun _ w a b => signedOf w a - signedOf w b
  | vssubZ (v : VArgs) : FixOp (.vssubZ v) v false (some false) fun _ _ a b => a - b
  | vaaddS (v : VArgs) : FixOp (.vaaddS v) v false none fun r w a b => roundShift r (signedOf w a + signedOf w b) 1
  | vaaddZ (v : VArgs) : FixOp (.vaaddZ v) v false none fun r _ a b => roundShift r (a + b) 1
  | vasubS (v : VArgs) : FixOp (.vasubS v) v false none fun r w a b => roundShift r (signedOf w a - signedOf w b) 1
  | vasubZ (v : VArgs) : FixOp (.vasubZ v) v false none fun r _ a b => roundShift r (a - b) 1
  | vsmulS (v : VArgs) : FixOp (.vsmulS v) v false (some true) fun r w a b => roundShift r (signedOf w a * signedOf w b) (w - 1)
  | vssraS (v : VArgs) : FixOp (.vssraS v) v false none fun r w a b => roundShift r (signedOf w a) (b % w)
  | vssrlZ (v : VArgs) : FixOp (.vssrlZ v) v false none fun r w a b => roundShift r a (b % w)
  | vnclipS (v : VArgs) : FixOp (.vnclipS v) v true (some true) fun r w a b => roundShift r (signedOf (2 * w) a) (b % (2 * w))
  | vnclipZ (v : VArgs) : FixOp (.vnclipZ v) v true (some false) fun r w a b => roundShift r a (b % (2 * w))
  | vnclipSu (v : VArgs) : FixOp (.vnclipSu v) v true (some false) fun r w a b => roundShift r (signedOf (2 * w) a) (b % (2 * w))

/-- Dot forms: how va and vb are read (R175). -/
inductive DotOp : Instr → VArgs → Bool → Bool → Prop where
  | vdot4S (v : VArgs) : DotOp (.vdot4S v) v true true
  | vdot4Z (v : VArgs) : DotOp (.vdot4Z v) v false false
  | vdot4Su (v : VArgs) : DotOp (.vdot4Su v) v true false

/-- A number of `w` bits read as signed or not. -/
def readAs (signed : Bool) (w x : Nat) : Int := if signed then signedOf w x else x

/-- The value within the range of `w` bits (R46). -/
def clampTo (w : Nat) (signed : Bool) (x : Int) : Int :=
  if signed then max (-2 ^ (w - 1)) (min x (2 ^ (w - 1) - 1)) else max 0 (min x (2 ^ w - 1))

/-- An element set to a value clamped as `sat` says; FXSAT when that changed it. -/
def setFixed (h : Hart) (d : Reg) (k : Nat) (sat : Option Bool) (x : Int) : Hart :=
  let y := match sat with
    | some sg => clampTo h.ew sg x
    | none => x
  let h' := h.setElem d.val k h.ew (modW h.ew y)
  if y = x then h' else { h' with f := { h'.f with fxsat := true } }

/-- The rows of R168-R175: instruction, what makes it ILLEGAL, destination, registers, mask, zeroing, width of the
destination element, and what an active element does. -/
inductive IntElement (s : State) : Instr → Prop → Reg → Nat → Bool → Bool → Nat → (Nat → Hart → Hart) → Prop where
  | op (i : Instr) (v : VArgs) (F : Nat → Nat → Nat → Nat → Int) (hi : IntOp i v F) :
      IntElement s i (¬(v.d.val % s.h.grp = 0 ∧ v.a.val % s.h.grp = 0 ∧ (v.w = false → v.b.val % s.h.grp = 0)))
        v.d s.h.grp v.m v.z s.h.ew
        fun k h => h.setElem v.d.val k h.ew
          (modW h.ew (F h.ew (h.elem v.a.val k h.ew) (operandB h v h.ew k) (h.elem v.d.val k h.ew)))
  | vmerge (d a b : Reg) (z w : Bool) :
      IntElement s (.vmerge d a b z w)
        (¬(d.val % s.h.grp = 0 ∧ a.val % s.h.grp = 0 ∧ (w = false → b.val % s.h.grp = 0))) d s.h.grp false z s.h.ew
        fun k h => h.setElem d.val k h.ew (if (h.v[(0 : Fin 32)]).val.getLsbD k then
          operandB h ⟨d, a, b, false, z, w⟩ h.ew k else h.elem a.val k h.ew)
  | vmv (d b : Reg) (m z w : Bool) :
      IntElement s (.vmv d b m z w) (¬(d.val % s.h.grp = 0 ∧ (w = false → b.val % s.h.grp = 0))) d s.h.grp m z s.h.ew
        fun k h => h.setElem d.val k h.ew (operandB h ⟨d, 0, b, m, z, w⟩ h.ew k)
  | wide (i : Instr) (v : VArgs) (F : Nat → Nat → Nat → Nat → Int) (hi : WideOp i v F) :
      IntElement s i (s.h.ew = 64 ∨ 4 < s.h.grp ∨ v.d.val % (2 * s.h.grp) ≠ 0 ∨ v.a.val % s.h.grp ≠ 0 ∨
          Meet v.d (2 * s.h.grp) v.a s.h.grp ∨
          (v.w = false ∧ (v.b.val % s.h.grp ≠ 0 ∨ Meet v.d (2 * s.h.grp) v.b s.h.grp)))
        v.d (2 * s.h.grp) v.m v.z (2 * s.h.ew)
        fun k h => h.setElem v.d.val k (2 * h.ew)
          (modW (2 * h.ew) (F h.ew (h.elem v.a.val k h.ew) (operandB h v h.ew k) (h.elem v.d.val k (2 * h.ew))))
  | vcrc (v : VArgs) :
      IntElement s (.vcrc v) (s.h.ew < 32 ∨
          ¬(v.d.val % s.h.grp = 0 ∧ v.a.val % s.h.grp = 0 ∧ (v.w = false → v.b.val % s.h.grp = 0)))
        v.d s.h.grp v.m v.z s.h.ew
        fun k h => if operandB h v h.ew k = 0 then h else h.setElem v.d.val k h.ew
          (crcFrom (h.elem v.d.val k h.ew % 2 ^ 32)
            ((toBytes 8 (h.elem v.a.val k h.ew)).take (min (operandB h v h.ew k) (h.ew / 8))))
  | vhash (v : VArgs) :
      IntElement s (.vhash v) (s.h.ew ≠ 64 ∨
          ¬(v.d.val % s.h.grp = 0 ∧ v.a.val % s.h.grp = 0 ∧ (v.w = false → v.b.val % s.h.grp = 0)))
        v.d s.h.grp v.m v.z s.h.ew
        fun k h => if operandB h v h.ew k = 0 then h else h.setElem v.d.val k h.ew
          (vhashF h.ew (h.elem v.a.val k h.ew) (operandB h v h.ew k) (h.elem v.d.val k h.ew))
  | fix (i : Instr) (v : VArgs) (sat : Option Bool) (F : BitVec 2 → Nat → Nat → Nat → Int) (hi : FixOp i v false sat F) :
      IntElement s i (¬(v.d.val % s.h.grp = 0 ∧ v.a.val % s.h.grp = 0 ∧ (v.w = false → v.b.val % s.h.grp = 0)))
        v.d s.h.grp v.m v.z s.h.ew
        fun k h => setFixed h v.d k sat (F h.f.fxrnd h.ew (h.elem v.a.val k h.ew) (operandB h v h.ew k))
  | clip (i : Instr) (v : VArgs) (sat : Option Bool) (F : BitVec 2 → Nat → Nat → Nat → Int) (hi : FixOp i v true sat F) :
      IntElement s i (s.h.ew = 64 ∨ 4 < s.h.grp ∨ v.a.val % (2 * s.h.grp) ≠ 0 ∨ v.d.val % s.h.grp ≠ 0 ∨
          Meet v.d s.h.grp v.a (2 * s.h.grp) ∨ (v.w = false ∧ v.b.val % s.h.grp ≠ 0))
        v.d s.h.grp v.m v.z s.h.ew
        fun k h => setFixed h v.d k sat (F h.f.fxrnd h.ew (h.elem v.a.val k (2 * h.ew)) (operandB h v h.ew k))
  | dot (i : Instr) (v : VArgs) (sa sb : Bool) (hi : DotOp i v sa sb) :
      IntElement s i (s.h.ew < 32 ∨
          ¬(v.d.val % s.h.grp = 0 ∧ v.a.val % s.h.grp = 0 ∧ (v.w = false → v.b.val % s.h.grp = 0)))
        v.d s.h.grp v.m v.z s.h.ew
        fun k h => setFixed h v.d k (some sa) (readAs sa h.ew (h.elem v.d.val k h.ew) +
          ((List.range 4).map fun j => readAs sa (h.ew / 4) (h.elem v.a.val (4 * k + j) (h.ew / 4)) *
            readAs sb (h.ew / 4) (if v.w then (h.getX v.b).toNat / 2 ^ (h.ew / 4 * j) % 2 ^ (h.ew / 4)
              else h.elem v.b.val (4 * k + j) (h.ew / 4))).sum)

/-- The comparisons of R176. -/
inductive MaskCompare : Instr → VArgs → (Nat → Nat → Nat → Prop) → Prop where
  | vmseq (v : VArgs) : MaskCompare (.vmseq v) v fun _ a b => a = b
  | vmsne (v : VArgs) : MaskCompare (.vmsne v) v fun _ a b => a ≠ b
  | vmsltS (v : VArgs) : MaskCompare (.vmsltS v) v fun w a b => signedOf w a < signedOf w b
  | vmsltZ (v : VArgs) : MaskCompare (.vmsltZ v) v fun _ a b => a < b
  | vmsleS (v : VArgs) : MaskCompare (.vmsleS v) v fun w a b => signedOf w a ≤ signedOf w b
  | vmsleZ (v : VArgs) : MaskCompare (.vmsleZ v) v fun _ a b => a ≤ b
  | vmsgtS (v : VArgs) : MaskCompare (.vmsgtS v) v fun w a b => signedOf w b < signedOf w a
  | vmsgtZ (v : VArgs) : MaskCompare (.vmsgtZ v) v fun _ a b => b < a
  | vmsgeS (v : VArgs) : MaskCompare (.vmsgeS v) v fun w a b => signedOf w b ≤ signedOf w a
  | vmsgeZ (v : VArgs) : MaskCompare (.vmsgeZ v) v fun _ a b => b ≤ a

/-- The mask logic of R177. -/
inductive MaskLogic : Instr → Reg → Reg → Reg → Bool → (Bool → Bool → Bool) → Prop where
  | vmand (d a b : Reg) (z : Bool) : MaskLogic (.vmand d a b z) d a b z fun x y => x && y
  | vmor (d a b : Reg) (z : Bool) : MaskLogic (.vmor d a b z) d a b z fun x y => x || y
  | vmxor (d a b : Reg) (z : Bool) : MaskLogic (.vmxor d a b z) d a b z fun x y => x ^^ y
  | vmandn (d a b : Reg) (z : Bool) : MaskLogic (.vmandn d a b z) d a b z fun x y => x && !y
  | vmorn (d a b : Reg) (z : Bool) : MaskLogic (.vmorn d a b z) d a b z fun x y => x || !y
  | vmnand (d a b : Reg) (z : Bool) : MaskLogic (.vmnand d a b z) d a b z fun x y => !(x && y)
  | vmnor (d a b : Reg) (z : Bool) : MaskLogic (.vmnor d a b z) d a b z fun x y => !(x || y)
  | vmxnor (d a b : Reg) (z : Bool) : MaskLogic (.vmxnor d a b z) d a b z fun x y => !(x ^^ y)

/-- `n` is the first active element below VL whose bit in `a` is set, or VL (R178, R179). -/
def FirstHit (h : Hart) (a : Reg) (m : Bool) (n : Nat) : Prop :=
  (∀ j < n, ¬(on h m j = true ∧ (h.v[a]).val.getLsbD j = true)) ∧ n ≤ h.vc.vl ∧
  (n < h.vc.vl → on h m n = true ∧ (h.v[a]).val.getLsbD n = true)

/-- Rows of R176-R180 that go element by element; the permutations read their source as it was before. -/
inductive MaskElement (s : State) : Instr → Prop → Reg → Nat → Bool → Bool → Nat → (Nat → Hart → Hart) → Prop where
  | compare (i : Instr) (v : VArgs) (C : Nat → Nat → Nat → Prop) (hi : MaskCompare i v C) (dec : ∀ w a b, Decidable (C w a b)) :
      MaskElement s i (¬(v.a.val % s.h.grp = 0 ∧ (v.w = false → v.b.val % s.h.grp = 0))) v.d 1 v.m v.z 1
        fun k h => h.setElem v.d.val k 1
          (match dec h.ew (h.elem v.a.val k h.ew) (operandB h v h.ew k) with
          | .isTrue _ => 1
          | .isFalse _ => 0)
  | logic (i : Instr) (d a b : Reg) (z : Bool) (F : Bool → Bool → Bool) (hi : MaskLogic i d a b z F) :
      MaskElement s i False d 1 false z 1
        fun k h => h.setElem d.val k 1 (if F ((h.v[a]).val.getLsbD k) ((h.v[b]).val.getLsbD k) then 1 else 0)
  | vmsbf (d a : Reg) (m z : Bool) (n : Nat) (hn : FirstHit s.h a m n) :
      MaskElement s (.vmsbf d a m z) (s.h.vc.vstart ≠ 0 ∨ d = a ∨ (m = true ∧ d = 0)) d 1 m z 1
        fun k h => h.setElem d.val k 1 (if k < n then 1 else 0)
  | vmsif (d a : Reg) (m z : Bool) (n : Nat) (hn : FirstHit s.h a m n) :
      MaskElement s (.vmsif d a m z) (s.h.vc.vstart ≠ 0 ∨ d = a ∨ (m = true ∧ d = 0)) d 1 m z 1
        fun k h => h.setElem d.val k 1 (if k ≤ n then 1 else 0)
  | vmsof (d a : Reg) (m z : Bool) (n : Nat) (hn : FirstHit s.h a m n) :
      MaskElement s (.vmsof d a m z) (s.h.vc.vstart ≠ 0 ∨ d = a ∨ (m = true ∧ d = 0)) d 1 m z 1
        fun k h => h.setElem d.val k 1 (if k = n then 1 else 0)
  | vslideup (d a b : Reg) (m z : Bool) :
      MaskElement s (.vslideup d a b m z) (a.val % s.h.grp ≠ 0 ∨ Meet d s.h.grp a s.h.grp ∨ d.val % s.h.grp ≠ 0) d s.h.grp m z s.h.ew
        fun k h => if (s.getX b).toNat ≤ k then h.setElem d.val k h.ew (s.h.elem a.val (k - (s.getX b).toNat) h.ew) else h
  | vslidedown (d a b : Reg) (m z : Bool) :
      MaskElement s (.vslidedown d a b m z) (a.val % s.h.grp ≠ 0 ∨ Meet d s.h.grp a s.h.grp ∨ d.val % s.h.grp ≠ 0) d s.h.grp m z s.h.ew
        fun k h => h.setElem d.val k h.ew
          (if k + (s.getX b).toNat < s.h.vlmax then s.h.elem a.val (k + (s.getX b).toNat) h.ew else 0)
  | vslide1up (d a b : Reg) (m z : Bool) :
      MaskElement s (.vslide1up d a b m z) (a.val % s.h.grp ≠ 0 ∨ Meet d s.h.grp a s.h.grp ∨ d.val % s.h.grp ≠ 0) d s.h.grp m z s.h.ew
        fun k h => h.setElem d.val k h.ew (if k = 0 then (s.getX b).toNat % 2 ^ h.ew else s.h.elem a.val (k - 1) h.ew)
  | vslide1down (d a b : Reg) (m z : Bool) :
      MaskElement s (.vslide1down d a b m z) (a.val % s.h.grp ≠ 0 ∨ Meet d s.h.grp a s.h.grp ∨ d.val % s.h.grp ≠ 0) d s.h.grp m z s.h.ew
        fun k h => h.setElem d.val k h.ew
          (if k + 1 < s.h.vc.vl then s.h.elem a.val (k + 1) h.ew else (s.getX b).toNat % 2 ^ h.ew)
  | vrgather (v : VArgs) :
      MaskElement s (.vrgather v) (v.a.val % s.h.grp ≠ 0 ∨ Meet v.d s.h.grp v.a s.h.grp ∨ v.d.val % s.h.grp ≠ 0 ∨
          (v.w = false ∧ (v.b.val % s.h.grp ≠ 0 ∨ Meet v.d s.h.grp v.b s.h.grp))) v.d s.h.grp v.m v.z s.h.ew
        fun k h => h.setElem v.d.val k h.ew
          (if operandB s.h v s.h.ew k < s.h.vlmax then s.h.elem v.a.val (operandB s.h v s.h.ew k) h.ew else 0)
  | vid (d : Reg) (m z : Bool) :
      MaskElement s (.vid d m z) (d.val % s.h.grp ≠ 0) d s.h.grp m z s.h.ew fun k h => h.setElem d.val k h.ew k

/-- Forms that give a scalar register a value computed from the vector registers (R178, R180). -/
inductive VectorScalar (s : State) : Instr → Prop → Reg → Word → Prop where
  | vcpop (d a : Reg) (m : Bool) : VectorScalar s (.vcpop d a m) (s.h.vc.vstart ≠ 0) d
      (BitVec.ofNat 64 ((List.range s.h.vc.vl).filter fun k => on s.h m k && (s.h.v[a]).val.getLsbD k).length)
  | vfirst (d a : Reg) (m : Bool) (n : Nat) (hn : FirstHit s.h a m n) :
      VectorScalar s (.vfirst d a m) (s.h.vc.vstart ≠ 0) d (if n < s.h.vc.vl then BitVec.ofNat 64 n else -1)
  | vmvXs (d a : Reg) : VectorScalar s (.vmvXs d a) (a.val % s.h.grp ≠ 0) d
      (BitVec.ofInt 64 (signedOf s.h.ew (s.h.elem a.val 0 s.h.ew)))

/-- With z = 1 every element from `lo` to `top - 1` becomes 0. -/
def ZeroesFrom (lo : Nat) (z : Bool) (d : Reg) (w top : Nat) (h h' : Hart) : Prop :=
  ∃ g : Nat → Hart, g lo = h ∧ g (max lo top) = h' ∧
    ∀ i, lo ≤ i → i < top → g (i + 1) = if z then (g i).zeroElem d.val i w else g i

/-- Elements written from index 0 on; those behind them count as inactive (R181, R203). -/
def PutsFrom (d : Reg) (z : Bool) (xs : List Nat) (h h' : Hart) : Prop :=
  ∃ g : Nat → Hart, g 0 = h ∧ (∀ k (hk : k < xs.length), g (k + 1) = (g k).setElem d.val k h.ew xs[k]) ∧
    ZeroesFrom xs.length z d h.ew h.vlmax (g xs.length) h'

/-- Whole permutations and scans (R180-R183). -/
inductive VectorWhole (s : State) : Instr → Prop → Reg → (Hart → Hart → Prop) → Prop where
  | vmvSx (d b : Reg) (m z : Bool) : VectorWhole s (.vmvSx d b m z) (d.val % s.h.grp ≠ 0) d fun h h' =>
      (s.h.vc.vstart = 0 ∧ 0 < s.h.vc.vl ∧ on s.h m 0 = true → h' = h.setElem d.val 0 h.ew (s.getX b).toNat) ∧
      (s.h.vc.vstart = 0 ∧ z = true ∧ ¬(0 < s.h.vc.vl ∧ on s.h m 0 = true) → h' = h.zeroElem d.val 0 h.ew) ∧
      (s.h.vc.vstart ≠ 0 → h' = h) ∧ (z = false → ¬(0 < s.h.vc.vl ∧ on s.h m 0 = true) → h' = h)
  | vcompress (d a b : Reg) (z : Bool) : VectorWhole s (.vcompress d a b z)
      (s.h.vc.vstart ≠ 0 ∨ d.val % s.h.grp ≠ 0 ∨ a.val % s.h.grp ≠ 0 ∨ Meet d s.h.grp a s.h.grp ∨ Meet d s.h.grp b 1) d
      (PutsFrom d z (((List.range s.h.vc.vl).filter fun k => (s.h.v[b]).val.getLsbD k).map fun k => s.h.elem a.val k s.h.ew))
  | vexpand (d a b : Reg) (z : Bool) : VectorWhole s (.vexpand d a b z)
      (s.h.vc.vstart ≠ 0 ∨ d.val % s.h.grp ≠ 0 ∨ a.val % s.h.grp ≠ 0 ∨ Meet d s.h.grp a s.h.grp ∨ Meet d s.h.grp b 1) d
      fun h h' => ∃ g : Nat → Hart, g 0 = h ∧ g s.h.vlmax = h' ∧ ∀ k < s.h.vlmax, g (k + 1) =
        if k < s.h.vc.vl ∧ (s.h.v[b]).val.getLsbD k = true then
          (g k).setElem d.val k s.h.ew (s.h.elem a.val ((List.range k).filter fun j => (s.h.v[b]).val.getLsbD j).length s.h.ew)
        else if z = true then (g k).zeroElem d.val k s.h.ew else g k
  | vscanadd (v : VArgs) : VectorWhole s (.vscanadd v)
      (s.h.vc.vstart ≠ 0 ∨ (v.w = false ∧ v.b ≠ 0) ∨ v.d.val % s.h.grp ≠ 0 ∨ v.a.val % s.h.grp ≠ 0) v.d
      fun h h' => ∃ (g : Nat → Hart) (c : Nat → Nat) (h1 : Hart), g 0 = h ∧ g s.h.vc.vl = h1 ∧
        c 0 = (if v.w then (s.getX v.b).toNat % 2 ^ s.h.ew else 0) ∧
        (∀ k < s.h.vc.vl, c (k + 1) = (if on (g k) v.m k then (c k + (g k).elem v.a.val k s.h.ew) % 2 ^ s.h.ew else c k) ∧
          g (k + 1) = if on (g k) v.m k then (g k).setElem v.d.val k s.h.ew (c (k + 1)) else g k) ∧
        Zeroes 0 v.m v.z v.d s.h.ew s.h.vlmax h1 h'
  | vscanaddSg (d a b : Reg) (z w : Bool) : VectorWhole s (.vscanaddSg d a b z w)
      (s.h.vc.vstart ≠ 0 ∨ (w = false ∧ b ≠ 0) ∨ d = 0 ∨ d.val % s.h.grp ≠ 0 ∨ a.val % s.h.grp ≠ 0) d
      fun h h' => ∃ (g : Nat → Hart) (c : Nat → Nat) (h1 : Hart), g 0 = h ∧ g s.h.vc.vl = h1 ∧
        c 0 = (if w then (s.getX b).toNat % 2 ^ s.h.ew else 0) ∧
        (∀ k < s.h.vc.vl, g (k + 1) = (g k).setElem d.val k s.h.ew ((c k + (g k).elem a.val k s.h.ew) % 2 ^ s.h.ew) ∧
          c (k + 1) = if ((g (k + 1)).v[(0 : Fin 32)]).val.getLsbD k then 0 else (c k + (g k).elem a.val k s.h.ew) % 2 ^ s.h.ew) ∧
        Zeroes 0 false z d s.h.ew s.h.vlmax h1 h'
  | vsortk (i : Instr) (d a : Reg) (z signed desc : Bool) (order : List Nat)
      (hi : i = if signed then (if desc then .vsortkdS d a z else .vsortkS d a z)
        else if desc then .vsortkdZ d a z else .vsortkZ d a z)
      (perm : order.Perm (List.range s.h.vc.vl))
      (sorted : order.Pairwise fun j k =>
        (if desc then readAs signed s.h.ew (s.h.elem a.val k s.h.ew) < readAs signed s.h.ew (s.h.elem a.val j s.h.ew)
         else readAs signed s.h.ew (s.h.elem a.val j s.h.ew) < readAs signed s.h.ew (s.h.elem a.val k s.h.ew)) ∨
        (s.h.elem a.val j s.h.ew = s.h.elem a.val k s.h.ew ∧ j < k)) :
      VectorWhole s i (s.h.vc.vstart ≠ 0 ∨ 2 ^ s.h.ew < s.h.vc.vl ∨ d.val % s.h.grp ≠ 0 ∨ a.val % s.h.grp ≠ 0 ∨
          Meet d s.h.grp a s.h.grp) d
        fun h h' => ∃ (g : Nat → Hart), g 0 = h ∧
          (∀ k (hk : k < order.length), g (k + 1) = (g k).setElem d.val k s.h.ew order[k]) ∧
          Zeroes 0 false z d s.h.ew s.h.vlmax (g order.length) h'

/-! ### Vector floating point -/

/-- The element format that EW and B name (R185). -/
inductive Format : Hart → Bool → FFmt → Prop where
  | f16 (h : Hart) : h.ew = 16 → Format h false Machine.f16
  | bf16 (h : Hart) : h.ew = 16 → Format h true Machine.bf16
  | f32 (h : Hart) : h.ew = 32 → Format h false Machine.f32
  | f64 (h : Hart) : h.ew = 64 → Format h false Machine.f64

/-- Groups of an element-wise form that break R18. -/
def BadGroups (h : Hart) (v : VArgs) : Prop :=
  ¬(v.d.val % h.grp = 0 ∧ v.a.val % h.grp = 0 ∧ (v.w = false → v.b.val % h.grp = 0))

/-- Groups of a widening form that break R169. -/
def BadWide (h : Hart) (d a b : Reg) (w : Bool) : Prop :=
  4 < h.grp ∨ d.val % (2 * h.grp) ≠ 0 ∨ a.val % h.grp ≠ 0 ∨ Meet d (2 * h.grp) a h.grp ∨
    (w = false ∧ (b.val % h.grp ≠ 0 ∨ Meet d (2 * h.grp) b h.grp))

/-- Exact results of R193 from the values of a, b and d; a sum's zero takes its sign from the mode (R194). -/
inductive FloatOp : Instr → VArgs → Bool → (RM → FVal → FVal → FVal → Exact) → Prop where
  | vfadd (v : VArgs) (b : Bool) : FloatOp (.vfadd v b) v b fun rm x y _ => sumProducts rm [x, y] []
  | vfsub (v : VArgs) (b : Bool) : FloatOp (.vfsub v b) v b fun rm x y _ => sumProducts rm [x, y.negate] []
  | vfrsub (v : VArgs) (b : Bool) : FloatOp (.vfrsub v b) v b fun rm x y _ => sumProducts rm [y, x.negate] []
  | vfmul (v : VArgs) (b : Bool) : FloatOp (.vfmul v b) v b fun rm x y _ => sumProducts rm [] [(x, y)]
  | vfdiv (v : VArgs) (b : Bool) : FloatOp (.vfdiv v b) v b fun _ x y _ => divide x y
  | vfrdiv (v : VArgs) (b : Bool) : FloatOp (.vfrdiv v b) v b fun _ x y _ => divide y x
  | vfmacc (v : VArgs) (b : Bool) : FloatOp (.vfmacc v b) v b fun rm x y d => sumProducts rm [d] [(x, y)]
  | vfnmacc (v : VArgs) (b : Bool) : FloatOp (.vfnmacc v b) v b fun rm x y d => sumProducts rm [d.negate] [(x.negate, y)]
  | vfmsac (v : VArgs) (b : Bool) : FloatOp (.vfmsac v b) v b fun rm x y d => sumProducts rm [d.negate] [(x, y)]
  | vfnmsac (v : VArgs) (b : Bool) : FloatOp (.vfnmsac v b) v b fun rm x y d => sumProducts rm [d] [(x.negate, y)]

/-- Results of R194 on codes. -/
inductive CodeOp : Instr → VArgs → Bool → (FFmt → Nat → Nat → FRes) → Prop where
  | vfmin (v : VArgs) (b : Bool) : CodeOp (.vfmin v b) v b fun f x y => f.select false x y
  | vfmax (v : VArgs) (b : Bool) : CodeOp (.vfmax v b) v b fun f x y => f.select true x y
  | vfsgnj (v : VArgs) (b : Bool) : CodeOp (.vfsgnj v b) v b fun f x y => ⟨f.inject 0 x y, 0⟩
  | vfsgnjn (v : VArgs) (b : Bool) : CodeOp (.vfsgnjn v b) v b fun f x y => ⟨f.inject 1 x y, 0⟩
  | vfsgnjx (v : VArgs) (b : Bool) : CodeOp (.vfsgnjx v b) v b fun f x y => ⟨f.inject 2 x y, 0⟩

/-- The compares of R195; the quiet ones raise NV only for a signalling NaN. -/
inductive FloatCompare : Instr → VArgs → Bool → Bool → (FVal → FVal → Bool) → Prop where
  | vmfeq (v : VArgs) (b : Bool) : FloatCompare (.vmfeq v b) v b true fun x y => x.eq y
  | vmfne (v : VArgs) (b : Bool) : FloatCompare (.vmfne v b) v b true fun x y => !x.eq y
  | vmflt (v : VArgs) (b : Bool) : FloatCompare (.vmflt v b) v b false fun x y => x.lt y
  | vmfle (v : VArgs) (b : Bool) : FloatCompare (.vmfle v b) v b false fun x y => x.lt y || x.eq y
  | vmfgt (v : VArgs) (b : Bool) : FloatCompare (.vmfgt v b) v b false fun x y => y.lt x
  | vmfge (v : VArgs) (b : Bool) : FloatCompare (.vmfge v b) v b false fun x y => y.lt x || y.eq x

/-- Forms of one operand that round (R196, R197, R201). -/
inductive FloatUnary : Instr → Reg → Reg → Bool → Bool → Bool → (FFmt → RM → Nat → FRes) → Prop where
  | vfcvtiS (d a : Reg) (m z b : Bool) : FloatUnary (.vfcvtiS d a m z b) d a m z b fun f rm x => toInteger rm true f.width (f.value x)
  | vfcvtiZ (d a : Reg) (m z b : Bool) : FloatUnary (.vfcvtiZ d a m z b) d a m z b fun f rm x => toInteger rm false f.width (f.value x)
  | vfcvtfS (d a : Reg) (m z b : Bool) :
      FloatUnary (.vfcvtfS d a m z b) d a m z b fun f rm x => f.round rm (ofInteger (signedOf f.width x))
  | vfcvtfZ (d a : Reg) (m z b : Bool) : FloatUnary (.vfcvtfZ d a m z b) d a m z b fun f rm x => f.round rm (ofInteger x)
  | vexp2 (d a : Reg) (m z b : Bool) : FloatUnary (.vexp2 d a m z b) d a m z b fun f rm x => f.round rm (exp2 (f.value x))
  | vlog2 (d a : Reg) (m z b : Bool) : FloatUnary (.vlog2 d a m z b) d a m z b fun f rm x => f.round rm (logTwo (f.value x))
  | vrcp (d a : Reg) (m z b : Bool) :
      FloatUnary (.vrcp d a m z b) d a m z b fun f rm x => f.round rm (divide (.fin ⟨false, 1, 0⟩) (f.value x))
  | vrsqrt (d a : Reg) (m z b : Bool) : FloatUnary (.vrsqrt d a m z b) d a m z b fun f rm x => f.round rm (invRoot (f.value x))
  | vsqrt (d a : Reg) (m z b : Bool) : FloatUnary (.vsqrt d a m z b) d a m z b fun f rm x => f.round rm (squareRoot (f.value x))

/-- The per-element float forms: instruction, illegal groups, destination, registers, mask, zeroing, width of the
destination element, and the result of an active element. -/
inductive FloatElement (s : State) : Instr → Prop → Reg → Nat → Bool → Bool → Nat → (Nat → Hart → FRes) → Prop where
  | op (i : Instr) (v : VArgs) (b : Bool) (F : RM → FVal → FVal → FVal → Exact) (f : FFmt) (rm : RM) (hi : FloatOp i v b F)
      (hf : Format s.h b f) (hr : rmOf s.h.f.frm = some rm) :
      FloatElement s i (BadGroups s.h v) v.d s.h.grp v.m v.z s.h.ew fun k h =>
        f.round rm (F rm (f.value (h.elem v.a.val k h.ew)) (f.value (operandB h v h.ew k)) (f.value (h.elem v.d.val k h.ew)))
  | code (i : Instr) (v : VArgs) (b : Bool) (F : FFmt → Nat → Nat → FRes) (f : FFmt) (hi : CodeOp i v b F)
      (hf : Format s.h b f) :
      FloatElement s i (BadGroups s.h v) v.d s.h.grp v.m v.z s.h.ew fun k h =>
        F f (h.elem v.a.val k h.ew) (operandB h v h.ew k)
  | compare (i : Instr) (v : VArgs) (b quiet : Bool) (C : FVal → FVal → Bool) (f : FFmt) (hi : FloatCompare i v b quiet C)
      (hf : Format s.h b f) :
      FloatElement s i (¬(v.a.val % s.h.grp = 0 ∧ (v.w = false → v.b.val % s.h.grp = 0))) v.d 1 v.m v.z 1 fun k h =>
        ⟨if C (f.value (h.elem v.a.val k h.ew)) (f.value (operandB h v h.ew k)) then 1 else 0,
          cmpFl quiet (f.value (h.elem v.a.val k h.ew)) (f.value (operandB h v h.ew k))⟩
  | unary (i : Instr) (d a : Reg) (m z b : Bool) (F : FFmt → RM → Nat → FRes) (f : FFmt) (rm : RM)
      (hi : FloatUnary i d a m z b F) (hf : Format s.h b f) (hr : rmOf s.h.f.frm = some rm) :
      FloatElement s i (¬(d.val % s.h.grp = 0 ∧ a.val % s.h.grp = 0)) d s.h.grp m z s.h.ew fun k h =>
        F f rm (h.elem a.val k h.ew)
  | vfclass (d a : Reg) (m z b : Bool) (f : FFmt) (hf : Format s.h b f) :
      FloatElement s (.vfclass d a m z b) (¬(d.val % s.h.grp = 0 ∧ a.val % s.h.grp = 0)) d s.h.grp m z s.h.ew fun k h =>
        ⟨f.classOf (h.elem a.val k h.ew), 0⟩
  | vfwcvt (d a : Reg) (m z b : Bool) (f : FFmt) (hf : Format s.h b f) (hw : s.h.ew ≠ 64) :
      FloatElement s (.vfwcvt d a m z b) (BadWide s.h d a 0 true) d (2 * s.h.grp) m z (2 * s.h.ew) fun k h =>
        convert f (if f.width = 16 then f32 else f64) .rne (h.elem a.val k h.ew)
  | vfncvt (d a : Reg) (m z b : Bool) (f : FFmt) (rm : RM) (hf : Format s.h b f) (hw : s.h.ew ≠ 64)
      (hr : rmOf s.h.f.frm = some rm) :
      FloatElement s (.vfncvt d a m z b) (4 < s.h.grp ∨ a.val % (2 * s.h.grp) ≠ 0 ∨ d.val % s.h.grp ≠ 0 ∨
          Meet d s.h.grp a (2 * s.h.grp)) d s.h.grp m z s.h.ew fun k h =>
        convert (if f.width = 16 then f32 else f64) f rm (h.elem a.val k (2 * h.ew))
  | vfwmacc (v : VArgs) (b : Bool) (f g : FFmt) (rm : RM) (hf : Format s.h b f) (hw : s.h.ew ≠ 64)
      (hg : g = if f.width = 16 then f32 else f64) (hr : rmOf s.h.f.frm = some rm) :
      FloatElement s (.vfwmacc v b) (BadWide s.h v.d v.a v.b v.w) v.d (2 * s.h.grp) v.m v.z (2 * s.h.ew) fun k h =>
        g.round rm (sumProducts rm [g.value (h.elem v.d.val k (2 * h.ew))]
          [(f.value (h.elem v.a.val k h.ew), f.value (operandB h v h.ew k))])
  | vfdot2 (v : VArgs) (b : Bool) (f g : FFmt) (rm : RM)
      (hf : (s.h.ew = 32 ∧ b = false ∧ f = f16 ∧ g = f32) ∨ (s.h.ew = 32 ∧ b = true ∧ f = bf16 ∧ g = f32) ∨
        (s.h.ew = 64 ∧ b = false ∧ f = f32 ∧ g = f64)) (hr : rmOf s.h.f.frm = some rm) :
      FloatElement s (.vfdot2 v b) (BadGroups s.h v) v.d s.h.grp v.m v.z s.h.ew fun k h =>
        g.round rm (sumProducts rm [g.value (h.elem v.d.val k h.ew)] ((List.range 2).map fun j =>
          (f.value (h.elem v.a.val (2 * k + j) (h.ew / 2)),
            f.value (if v.w then (h.getX v.b).toNat / 2 ^ (h.ew / 2 * j) % 2 ^ (h.ew / 2)
              else h.elem v.b.val (2 * k + j) (h.ew / 2)))))

/-- The hart after active element `k` has taken a result: the flags are reported (R189), then the element is written. -/
def tookResult (h : Hart) (d : Reg) (w k : Nat) (r : FRes) : Hart := (h.raise k r.fl).setElem d.val k w r.bits

/-- Forms that round have an effect only under a valid FRM, and every form only where EW and B name a format
(R185, R187). -/
inductive Rounds : Instr → Prop where
  | op (i : Instr) (v : VArgs) (b : Bool) (F) (h : FloatOp i v b F) : Rounds i
  | unary (i : Instr) (d a : Reg) (m z b : Bool) (F) (h : FloatUnary i d a m z b F) : Rounds i
  | vfncvt (d a : Reg) (m z b : Bool) : Rounds (.vfncvt d a m z b)
  | vfwmacc (v : VArgs) (b : Bool) : Rounds (.vfwmacc v b)
  | vfdot2 (v : VArgs) (b : Bool) : Rounds (.vfdot2 v b)
  | vfredsum (v : VArgs) (b : Bool) : Rounds (.vfredsum v b)
  | vfredsumO (v : VArgs) (b : Bool) : Rounds (.vfredsumO v b)
  | vfredsumSg (d a b : Reg) (z w h : Bool) : Rounds (.vfredsumSg d a b z w h)
  | vfscan (v : VArgs) (b : Bool) : Rounds (.vfscan v b)
  | vfscanO (v : VArgs) (b : Bool) : Rounds (.vfscanO v b)
  | vfscanSg (d a b : Reg) (z w h : Bool) : Rounds (.vfscanSg d a b z w h)
  | vcdfsel (d a b : Reg) (m h : Bool) : Rounds (.vcdfsel d a b m h)
  | vsmmerge (d a : Reg) (z : Bool) : Rounds (.vsmmerge d a z)

/-- The loop of R209: the mask selects by its bits at the start; with z = 1 the elements that are not selected become 0
(R47). -/
def Fills (m z : Bool) (d : Reg) (w : Nat) (f : Nat → Hart → Hart) (h h' : Hart) : Prop :=
  ∃ g : Nat → Hart, g h.vc.vstart.toNat = h ∧ g (max h.vc.vstart.toNat h.vlmax) = h' ∧
    ∀ i, h.vc.vstart.toNat ≤ i → i < h.vlmax → g (i + 1) =
      if i < h.vc.vl ∧ on h m i = true then f i (g i) else if z = true then (g i).zeroElem d.val i w else g i

/-- Random elements (R208, R209): word `n` of the hart's stream, and how far element `k` stands in it. -/
def randomElement (h : Hart) (m : Bool) (k : Nat) : Nat :=
  let per := if h.ew = 64 then 2 else 1
  let before := ((List.range k).filter fun j => on h m j).length
  let w (n : Nat) : Nat := randWord h.f.rkey.toNat h.counter (per * before + n)
  if h.ew = 64 then w 1 * 2 ^ 32 + w 0 else w 0

/-! ### Reductions and other whole forms -/

/-- Active elements below VL, in index order. -/
def actives (h : Hart) (m : Bool) : List Nat := (List.range h.vc.vl).filter fun k => on h m k

/-- Elements of `a` at the indices of a list. -/
def elems (h : Hart) (a : Reg) (js : List Nat) : List Nat := js.map fun k => h.elem a.val k h.ew

/-- The integer reductions of R207. -/
inductive IntReduce : Instr → VArgs → (Nat → Nat → Nat → Int) → Prop where
  | vredsum (v : VArgs) : IntReduce (.vredsum v) v fun _ x y => x + y
  | vredmaxS (v : VArgs) : IntReduce (.vredmaxS v) v fun w x y => max (signedOf w x) (signedOf w y)
  | vredmaxZ (v : VArgs) : IntReduce (.vredmaxZ v) v fun _ x y => max x y
  | vredminS (v : VArgs) : IntReduce (.vredminS v) v fun w x y => min (signedOf w x) (signedOf w y)
  | vredminZ (v : VArgs) : IntReduce (.vredminZ v) v fun _ x y => min x y
  | vredand (v : VArgs) : IntReduce (.vredand v) v fun _ x y => (x &&& y : Nat)
  | vredor (v : VArgs) : IntReduce (.vredor v) v fun _ x y => (x ||| y : Nat)
  | vredxor (v : VArgs) : IntReduce (.vredxor v) v fun _ x y => (x ^^^ y : Nat)

/-- The segments that the set bits of v0 end, below VL (R204): their elements in order. -/
def Segments (h : Hart) (segs : List (List Nat)) : Prop :=
  segs.flatten = List.range h.vc.vl ∧
  (∀ g ∈ segs, g ≠ []) ∧
  (∀ g ∈ segs, ∀ k ∈ g.dropLast, (h.v[(0 : Fin 32)]).val.getLsbD k = false) ∧
  (∀ g ∈ segs.dropLast, ∀ k ∈ g.getLast?, (h.v[(0 : Fin 32)]).val.getLsbD k = true)

/-- Groups of the scans and segmented forms that break R204, R205. -/
def BadScan (h : Hart) (d a b : Reg) (w seg : Bool) : Prop :=
  (w = false ∧ b ≠ 0) ∨ d.val % h.grp ≠ 0 ∨ a.val % h.grp ≠ 0 ∨ Meet d h.grp a h.grp ∨ (seg = true ∧ Meet d h.grp 0 1)

/-- Whole forms with a result in vector elements from 0 on (R202-R207, R211): the results in order, and the flags with the
elements that report them. -/
inductive VectorReduce (s : State) : Instr → Prop → Reg → Bool → List Nat → List (Nat × Fl) → Prop where
  | int (i : Instr) (v : VArgs) (F : Nat → Nat → Nat → Int) (hi : IntReduce i v F) :
      VectorReduce s i (BadGroups s.h v) v.d v.z
        [(elems s.h v.a (actives s.h v.m)).foldl (fun x y => modW s.h.ew (F s.h.ew x y)) (operandB s.h v s.h.ew 0)] []
  | intSeg (d a b : Reg) (z w : Bool) (segs : List (List Nat)) (hs : Segments s.h segs) :
      VectorReduce s (.vredsumSg d a b z w) (BadScan s.h d a b w true) d z
        (segs.mapIdx fun n g => ((elems s.h a g).sum + (if n = 0 ∧ w = true then (s.getX b).toNat else 0)) % 2 ^ s.h.ew) []
  | sumO (v : VArgs) (b : Bool) (f : FFmt) (rm : RM) (r : FRes) (hf : Format s.h b f) (hr : rmOf s.h.f.frm = some rm)
      (hv : r = f.passed ((elems s.h v.a (actives s.h v.m)).foldl (fun c x => f.add rm c ⟨x, 0⟩) ⟨operandB s.h v s.h.ew 0, 0⟩)) :
      VectorReduce s (.vfredsumO v b) (BadGroups s.h v) v.d v.z [r.bits] [(0, r.fl)]
  | sum (v : VArgs) (b : Bool) (f : FFmt) (rm : RM) (r : FRes) (hf : Format s.h b f) (hr : rmOf s.h.f.frm = some rm)
      (hv : r = f.passed ((redSum f rm (s.h.id.lanes * 64 / s.h.ew) (fun k => s.h.elem v.a.val k s.h.ew) (actives s.h v.m)
        (some ⟨operandB s.h v s.h.ew 0, 0⟩)).getD ⟨0, 0⟩)) :
      VectorReduce s (.vfredsum v b) (BadGroups s.h v) v.d v.z [r.bits] [(0, r.fl)]
  | extreme (v : VArgs) (b big : Bool) (i : Instr) (f : FFmt) (r : FRes) (hf : Format s.h b f)
      (hi : i = if big then .vfredmax v b else .vfredmin v b)
      (hv : r = f.passed ((elems s.h v.a (actives s.h v.m)).foldl
        (fun c x => ⟨(f.select big c.bits x).bits, c.fl ||| (f.select big c.bits x).fl⟩) ⟨operandB s.h v s.h.ew 0, 0⟩)) :
      VectorReduce s i (BadGroups s.h v) v.d v.z [r.bits] [(0, r.fl)]
  | sumSeg (d a b : Reg) (z w h : Bool) (f : FFmt) (rm : RM) (segs : List (List Nat)) (rs : List FRes)
      (hf : Format s.h h f) (hr : rmOf s.h.f.frm = some rm) (hs : Segments s.h segs)
      (hv : rs = segs.mapIdx fun n g => f.passed ((sumInOrder f rm
        (if n = 0 ∧ w = true then some ⟨(s.getX b).toNat % 2 ^ s.h.ew, 0⟩ else none) (elems s.h a g)).getD ⟨0, 0⟩)) :
      VectorReduce s (.vfredsumSg d a b z w h) (BadScan s.h d a b w true) d z (rs.map (·.bits)) (rs.map fun r => (0, r.fl))
  | merge (d a : Reg) (z : Bool) (f : FFmt) (rm : RM) (rs : List FRes) (hf : Format s.h false f)
      (hr : rmOf s.h.f.frm = some rm)
      (hv : rs = mergeStates f rm (elems s.h d (List.range s.h.vc.vl)) (elems s.h a (List.range s.h.vc.vl))) :
      VectorReduce s (.vsmmerge d a z) (s.h.ew < 32 ∨ s.h.vc.vl < 2 ∨ d.val % s.h.grp ≠ 0 ∨ a.val % s.h.grp ≠ 0) d z
        (rs.map (·.bits)) (rs.map fun r => (0, r.fl))

/-- Float scans (R205): the results at the active elements. -/
inductive FloatScan (s : State) : Instr → Reg → Reg → Reg → Bool → Bool → Bool → List (Nat × FRes) → Prop where
  | ordered (v : VArgs) (b : Bool) (f : FFmt) (rm : RM) (xs : List (Nat × FRes)) (hf : Format s.h b f)
      (hr : rmOf s.h.f.frm = some rm) (idx : xs.map Prod.fst = actives s.h v.m)
      (first : ∀ x ∈ xs.head?, x.2 = f.passed (if v.w then
        f.add rm ⟨(s.getX v.b).toNat % 2 ^ s.h.ew, 0⟩ ⟨s.h.elem v.a.val x.1 s.h.ew, 0⟩ else ⟨s.h.elem v.a.val x.1 s.h.ew, 0⟩))
      (next : ∀ k (hk : k + 1 < xs.length), xs[k + 1].2 =
        f.passed (f.add rm ⟨xs[k].2.bits, 0⟩ ⟨s.h.elem v.a.val xs[k + 1].1 s.h.ew, 0⟩)) :
      FloatScan s (.vfscanO v b) v.d v.a v.b v.m v.z v.w xs
  | tree (v : VArgs) (b : Bool) (f : FFmt) (rm : RM) (xs : List (Nat × FRes)) (hf : Format s.h b f)
      (hr : rmOf s.h.f.frm = some rm)
      (hx : xs = (actives s.h v.m).map fun k => (k, f.passed ((redSum f rm (s.h.id.lanes * 64 / s.h.ew)
        (fun j => s.h.elem v.a.val j s.h.ew) ((actives s.h v.m).filter (· ≤ k))
        (if v.w then some ⟨(s.getX v.b).toNat % 2 ^ s.h.ew, 0⟩ else none)).getD ⟨0, 0⟩))) :
      FloatScan s (.vfscan v b) v.d v.a v.b v.m v.z v.w xs
  | seg (d a b : Reg) (z w h : Bool) (f : FFmt) (rm : RM) (xs : List (Nat × FRes)) (hf : Format s.h h f)
      (hr : rmOf s.h.f.frm = some rm) (idx : xs.map Prod.fst = List.range s.h.vc.vl)
      (first : ∀ x ∈ xs.head?, x.2 = f.passed (if w then
        f.add rm ⟨(s.getX b).toNat % 2 ^ s.h.ew, 0⟩ ⟨s.h.elem a.val x.1 s.h.ew, 0⟩ else ⟨s.h.elem a.val x.1 s.h.ew, 0⟩))
      (next : ∀ k (hk : k + 1 < xs.length), xs[k + 1].2 = f.passed (
        if (s.h.v[(0 : Fin 32)]).val.getLsbD k then ⟨s.h.elem a.val (k + 1) s.h.ew, 0⟩
        else f.add rm ⟨xs[k].2.bits, 0⟩ ⟨s.h.elem a.val (k + 1) s.h.ew, 0⟩)) :
      FloatScan s (.vfscanSg d a b z w h) d a b false z w xs

/-- Whole forms that give a scalar register a value (R206, R210), with their flags. -/
inductive FloatScalar (s : State) : Instr → Reg → Reg → Word → Fl → Prop where
  | arg (d a : Reg) (m b big : Bool) (i : Instr) (f : FFmt) (w : Word) (hf : Format s.h b f)
      (hi : i = if big then .vfargmax d a m b else .vfargmin d a m b)
      (none' : (∀ k ∈ actives s.h m, (f.value (s.h.elem a.val k s.h.ew)).isNan = true) → w = -1)
      (best : (∃ k ∈ actives s.h m, (f.value (s.h.elem a.val k s.h.ew)).isNan = false) →
        ∃ k ∈ actives s.h m, w = BitVec.ofNat 64 k ∧ (f.value (s.h.elem a.val k s.h.ew)).isNan = false ∧
          (∀ j ∈ actives s.h m,
            ¬(if big then (f.value (s.h.elem a.val k s.h.ew)).lt (f.value (s.h.elem a.val j s.h.ew))
              else (f.value (s.h.elem a.val j s.h.ew)).lt (f.value (s.h.elem a.val k s.h.ew))) = true) ∧
          (∀ j ∈ actives s.h m, j < k → (f.value (s.h.elem a.val j s.h.ew)).isNan = false →
            (if big then (f.value (s.h.elem a.val j s.h.ew)).lt (f.value (s.h.elem a.val k s.h.ew))
              else (f.value (s.h.elem a.val k s.h.ew)).lt (f.value (s.h.elem a.val j s.h.ew))) = true)) :
      FloatScalar s i d a w (if (actives s.h m).any (fun k => (f.value (s.h.elem a.val k s.h.ew)).isSnan) then flNV else 0)
  | cdf (d a b : Reg) (m h : Bool) (f : FFmt) (rm : RM) (r : Nat × Fl) (hf : Format s.h h f) (hr : rmOf s.h.f.frm = some rm)
      (hv : r = cdfSelect f rm (fun k => s.h.elem a.val k s.h.ew) (actives s.h m) ((s.getX b).toNat % 2 ^ s.h.ew)) :
      FloatScalar s (.vcdfsel d a b m h) d a (BitVec.ofNat 64 r.1) r.2

/-- The hart with the flags of a list reported (R189). -/
def Reported (h : Hart) : List (Nat × Fl) → Hart
  | [] => h
  | (k, fl) :: r => Reported (h.raise k fl) r

/-- Some class of a list is enabled to trap (R190). -/
def Traps (h : Hart) (fls : List (Nat × Fl)) : Prop := ∃ p ∈ fls, p.2 &&& h.f.fen ≠ 0

/-! ### Vector length -/

/-- VLEN in bits under a CAP (R18). -/
def vlenUnder (h : Hart) (cap : BitVec 4) : Nat := min (1024 * h.id.lanes) (1024 * 2 ^ cap.toNat)

/-- VLMAX (R18). -/
def vlmaxUnder (h : Hart) (cap : BitVec 4) (ew grp : BitVec 2) : Nat := vlenUnder h cap / (8 * 2 ^ ew.toNat) * 2 ^ grp.toNat

/-- The hart after a pending VLCAP.CAP has taken effect: contents beyond a smaller VLEN become zero (R19). -/
structure CapTaken (h h' : Hart) : Prop where
  bits : ∀ (r : Reg) (k : Nat), (h'.v[r]).val.getLsbD k = (decide (k < vlenUnder h h.hr.vlcap) && (h.v[r]).val.getLsbD k)
  tags : ∀ r : Reg, (h'.v[r]).vt = min (h.v[r]).vt (vlenUnder h h.hr.vlcap / 8)
  rest : ∀ r : Reg, (h'.v[r]).dirty = (h.v[r]).dirty ∧ (h'.v[r]).err = (h.v[r]).err
  cap : h' = { h with v := h'.v, vc := { h.vc with cap := h.hr.vlcap } }

/-- The forms of VSET without row pointers: rd, widths, group factor, the flags R and X, and the length that the mask or
the AVL ask for under the VLMAX `vm` (R138-R140). `h` is the hart with its pending CAP taken. -/
inductive Vset (s : State) (h : Hart) : Instr → Reg → BitVec 2 → BitVec 2 → Bool → Bool → (Nat → Nat) → Prop where
  | vsetvl (d a b : Reg) (r x : Bool) (legal : (s.getX b).toNat / 64 = 0 ∧ (s.getX b).toNat % 16 ≤ 3) :
      Vset s h (.vsetvl d a b r x) d ((s.getX b).extractLsb' 0 2) ((s.getX b).extractLsb' 4 2) r x fun vm =>
        min (s.getX a).toNat vm
  | vsetvli (d a : Reg) (e : BitVec 3) (g : BitVec 2) (r x : Bool) :
      Vset s h (.vsetvli d a false e g r x) d (e.extractLsb' 0 2) g r x fun vm => min (s.getX a).toNat vm
  | vsetvliMax (d a : Reg) (e : BitVec 3) (g : BitVec 2) (r x : Bool) :
      Vset s h (.vsetvli d a true e g r x) d (e.extractLsb' 0 2) g r x fun vm => min (2 ^ 64 - 1) vm
  | vsetvlm (d a : Reg) (e : BitVec 3) (g : BitVec 2) (r x : Bool) (top : Nat → Nat) (sound : ∀ q : Reg, (h.v[q]).err = [])
      (ht : ∀ vm, top vm ≤ vm ∧ (0 < top vm → (h.v[a]).val.getLsbD (top vm - 1) = true) ∧
        ∀ k, top vm ≤ k → k < vm → (h.v[a]).val.getLsbD k = false) :
      Vset s h (.vsetvlm d a e g r x) d (e.extractLsb' 0 2) g r x top

/-- The hart `t` after a VSET that found `h`, with length `n` and result `v` in rd (R139, R143): at the end of a loop
body that replays, X = 1 and n = 0 leave the loop. -/
def VsetDone (s : State) (h : Hart) (d : Reg) (ew grp : BitVec 2) (vm n : Nat) (v : Word) (x : Bool) (t : State) : Prop :=
  (x = true ∧ n = 0 ∧ InBody s s.h.pc.toNat →
    t.h.pc = s.h.lp.fin ∧ t.h.pcHi = 0 ∧ t.h.lp = { s.h.lp with active := false }) ∧
  (¬(x = true ∧ n = 0 ∧ InBody s s.h.pc.toNat) → GoesOn s t 4) ∧
  (∀ r, t.getX r = if r = d ∧ r ≠ 0 then v else s.getX r) ∧
  t = { s with h := { h with
    x := t.h.x
    pc := t.h.pc
    pcHi := t.h.pcHi
    lp := t.h.lp
    vc := { h.vc with ew := ew, grp := grp, vlmaxr := vm, vl := n, vstart := 0, ecm := 0 } } }

/-- Row pointers that VSETFL reads (R141): entry `j` at `base + 4 j` is the number `row j`, in local memory. -/
def Rows (s : State) (base : Word) (row : Nat → Nat) (n : Nat) : Prop :=
  ∀ j ≤ n, ∃ l loc, Mapped s ((base.toNat + 4 * j) % 2 ^ 64) .load l loc ∧ AtHome s loc 4 ∧
    Unwatched s .load ((base.toNat + 4 * j) % 2 ^ 64) 4 ∧ row j = seenNat s loc.key 4

/-- RowPack (R141): `k` is how many of the `nr` rows are taken. -/
def Packs (row : Nat → Nat) (nr nmax k : Nat) : Prop :=
  k ≤ nr ∧ (∀ j < k, row j ≤ row (j + 1) ∧ row (j + 1) - row 0 ≤ nmax) ∧
  (k < nr → ¬(row k ≤ row (k + 1) ∧ row (k + 1) - row 0 ≤ nmax))

/-! ### Vector loads and stores -/

/-- A vector memory instruction starts afresh outside a strip, with nothing that splits it: no part of it is done, no
choice of the device is open, no trigger has matched. -/
structure Fresh (s : State) : Prop where
  strip : s.h.ms.strip = none
  start : s.h.sy.fromElem = none ∧ s.h.vc.ecm = 0
  length : s.h.vc.vl ≤ s.h.vlmax ∧ s.h.vlmax ≤ 16384
  choices : s.oracle = []
  quiet : s.h.ms.watchHit = none ∧ InStep s

/-- The same inside the strip `st`. -/
structure FreshIn (s : State) (st : Strip) : Prop where
  strip : s.h.ms.strip = some st
  start : s.h.sy.fromElem = none ∧ s.h.vc.ecm = 0
  length : s.h.vc.vl ≤ s.h.vlmax ∧ s.h.vlmax ≤ 16384
  choices : s.oracle = []
  quiet : s.h.ms.watchHit = none ∧ InStep s

/-- What a load of `va` faults with: a walk that finds no leaf, a leaf that permits no load, extents that do not grant
the page (R56, R58). -/
inductive ReadFault (s : State) (va : Nat) : Cause → Prop where
  | walk (c : Cause) (hw : s.walk s.h.id.tenant s.h.hr.ptroot va = .error (.cause c)) (hc : c = .xlate ∨ c = .extent) :
      ReadFault s va c
  | perm (l : Leaf) (hw : s.walk s.h.id.tenant s.h.hr.ptroot va = .ok l)
      (accessed : bits (s.dev.mem.getNat l.ptea 8) 6 1 = 1) (denied : allowed l.pte .load = false) : ReadFault s va .perm
  | extent (l : Leaf) (hw : s.walk s.h.id.tenant s.h.hr.ptroot va = .ok l)
      (accessed : bits (s.dev.mem.getNat l.ptea 8) 6 1 = 1) (permits : allowed l.pte .load = true) (resident : l.tiered = false)
      (attr : (l.loc s s.h.ctx va).2.attr < 2) (denied : s.dev.grants s.h.id.tenant (l.loc s s.h.ctx va).1 .load = false) :
      ReadFault s va .extent

/-- VFF as a suppressed fault of element `e` leaves it (R153, R248). -/
def faultWord (e : Nat) (c : Cause) : Word := BitVec.ofNat 64 (2 ^ 63 + c.code.toNat * 2 ^ 32 + e)

/-- The element that a held store or a watch record belongs to is `e` or a later one. -/
def fromOn (e : Nat) (tag : Option Nat) : Bool := tag.any fun t => decide (e ≤ t)

/-- A strip whose elements end at `e` (R248, R253): VL and VFF, and what it holds from element `e` on is annulled. -/
def cutAt (h : Hart) (e : Nat) (c : Cause) : Hart :=
  { h with
    vc := { h.vc with vl := e, vff := faultWord e c }
    ms := { h.ms with strip := h.ms.strip.map fun st => { st with
      held := st.held.filter fun x => !fromOn e x.tag
      watch := st.watch.filter fun x => !fromOn e x.2.1 } } }

/-- Bytes that a strip holds (R251). -/
def heldBytes (st : Strip) : Nat := (st.held.map fun x => x.part.bytes.length).sum

/-- Widths and groups of a native access (R146): `nf` fields of 2^f bytes each. -/
def LegalAccess (s : State) (d : Reg) (nf f : Nat) (sx : Bool) : Prop :=
  8 * 2 ^ f ≤ s.h.ew ∧ (sx = true → 8 * 2 ^ f < s.h.ew) ∧ d.val % s.h.grp = 0 ∧ d.val + nf * s.h.grp ≤ 32

/-- Native loads (R145-R147): destination, fields, mask, zeroing, log2 of the bytes, sign extension, first-fault, what
the indices need, and the address of field `q` of element `k`. -/
inductive NativeLoad (s : State) :
    Instr → Reg → Nat → Bool → Bool → Nat → Bool → Bool → Prop → (Nat → Nat → Nat) → Prop where
  | vld (d a : Reg) (m z : Bool) (f : BitVec 3) (k : Bool) (hf : f.toNat < 4) :
      NativeLoad s (.vld d a m z f k) d 1 m z f.toNat k false True fun i _ => ((s.getX a).toNat + i * 2 ^ f.toNat) % 2 ^ 64
  | vldf (d a : Reg) (m z : Bool) (f : BitVec 3) (k : Bool) (hf : f.toNat < 4) :
      NativeLoad s (.vldf d a m z f k) d 1 m z f.toNat k true True fun i _ => ((s.getX a).toNat + i * 2 ^ f.toNat) % 2 ^ 64
  | vlds (d a b : Reg) (m z : Bool) (f : BitVec 3) (k : Bool) :
      NativeLoad s (.vlds d a b m z f k) d 1 m z f.toNat k false True fun i _ =>
        ((s.getX a).toNat + i * (s.getX b).toNat) % 2 ^ 64
  | vldfs (d a b : Reg) (m z : Bool) (f : BitVec 3) (k : Bool) :
      NativeLoad s (.vldfs d a b m z f k) d 1 m z f.toNat k true True fun i _ =>
        ((s.getX a).toNat + i * (s.getX b).toNat) % 2 ^ 64
  | vldxu (d a b : Reg) (m z : Bool) (f : BitVec 3) (k : Bool) :
      NativeLoad s (.vldxu d a b m z f k) d 1 m z f.toNat k false
        (b.val % s.h.grp = 0 ∧ ¬Meet d s.h.grp b s.h.grp ∧ (m = true → d ≠ 0)) fun i _ =>
        ((s.getX a).toNat + s.h.elem b.val i s.h.ew) % 2 ^ 64
  | vldfxu (d a b : Reg) (m z : Bool) (f : BitVec 3) (k : Bool) :
      NativeLoad s (.vldfxu d a b m z f k) d 1 m z f.toNat k true
        (b.val % s.h.grp = 0 ∧ ¬Meet d s.h.grp b s.h.grp ∧ (m = true → d ≠ 0)) fun i _ =>
        ((s.getX a).toNat + s.h.elem b.val i s.h.ew) % 2 ^ 64
  | vldxo (d a b : Reg) (m z : Bool) (f : BitVec 3) (k : Bool) :
      NativeLoad s (.vldxo d a b m z f k) d 1 m z f.toNat k false
        (b.val % s.h.grp = 0 ∧ ¬Meet d s.h.grp b s.h.grp) fun i _ => ((s.getX a).toNat + s.h.elem b.val i s.h.ew) % 2 ^ 64
  | vldfxo (d a b : Reg) (m z : Bool) (f : BitVec 3) (k : Bool) :
      NativeLoad s (.vldfxo d a b m z f k) d 1 m z f.toNat k true
        (b.val % s.h.grp = 0 ∧ ¬Meet d s.h.grp b s.h.grp) fun i _ => ((s.getX a).toNat + s.h.elem b.val i s.h.ew) % 2 ^ 64
  | vldseg (d a : Reg) (n : BitVec 2) (m z : Bool) (f : BitVec 3) (k : Bool) :
      NativeLoad s (.vldseg d a n m z f k) d (n.toNat + 2) m z f.toNat k false True fun i q =>
        ((s.getX a).toNat + (i * (n.toNat + 2) + q) * 2 ^ f.toNat) % 2 ^ 64
  | vldfseg (d a : Reg) (n : BitVec 2) (m z : Bool) (f : BitVec 3) (k : Bool) :
      NativeLoad s (.vldfseg d a n m z f k) d (n.toNat + 2) m z f.toNat k true True fun i q =>
        ((s.getX a).toNat + (i * (n.toNat + 2) + q) * 2 ^ f.toNat) % 2 ^ 64

/-- Native stores (R145-R147). -/
inductive NativeStore (s : State) : Instr → Reg → Nat → Bool → Nat → Prop → (Nat → Nat → Nat) → Prop where
  | vst (r a : Reg) (m z : Bool) (f : BitVec 3) (hf : f.toNat < 4) :
      NativeStore s (.vst r a m z f) r 1 m f.toNat True fun i _ => ((s.getX a).toNat + i * 2 ^ f.toNat) % 2 ^ 64
  | vsts (r a b : Reg) (m z : Bool) (f : BitVec 3) :
      NativeStore s (.vsts r a b m z f) r 1 m f.toNat True fun i _ => ((s.getX a).toNat + i * (s.getX b).toNat) % 2 ^ 64
  | vstxu (r a b : Reg) (m z : Bool) (f : BitVec 3) :
      NativeStore s (.vstxu r a b m z f) r 1 m f.toNat (b.val % s.h.grp = 0) fun i _ =>
        ((s.getX a).toNat + s.h.elem b.val i s.h.ew) % 2 ^ 64
  | vstxo (r a b : Reg) (m z : Bool) (f : BitVec 3) :
      NativeStore s (.vstxo r a b m z f) r 1 m f.toNat (b.val % s.h.grp = 0) fun i _ =>
        ((s.getX a).toNat + s.h.elem b.val i s.h.ew) % 2 ^ 64
  | vstseg (r a : Reg) (n : BitVec 2) (m z : Bool) (f : BitVec 3) :
      NativeStore s (.vstseg r a n m z f) r (n.toNat + 2) m f.toNat True fun i q =>
        ((s.getX a).toNat + (i * (n.toNat + 2) + q) * 2 ^ f.toNat) % 2 ^ 64

/-- The `n` bytes at `va` are naturally aligned, readable and at home, watched by nothing, and hold `x` as the hart sees
them. -/
def ReadsAs (s : State) (va n x : Nat) : Prop :=
  va % n = 0 ∧ ∃ l loc, Mapped s va .load l loc ∧ AtHome s loc n ∧ s.h.watchHit .load va n = none ∧ x = seenNat s loc.key n

/-- The `n` bytes at `va` are naturally aligned and may be stored to local memory at `loc`, watched by nothing. -/
def StoresAt (s : State) (va n : Nat) (loc : Loc) : Prop :=
  va % n = 0 ∧ (∃ l, Mapped s va .store l loc) ∧ (regionOf loc.key = .hbm ∨ regionOf loc.key = .cxl) ∧
    s.h.watchHit .store va n = none

/-- The step of R47 over the fields of a load. -/
def ZeroFields (s : State) (m z : Bool) (d : Reg) (nf : Nat) (h h' : Hart) : Prop :=
  ∃ g : Nat → Hart, g 0 = h ∧ g nf = h' ∧ ∀ q < nf,
    Zeroes s.h.vc.vstart.toNat m z (Fin.ofNat 32 (d.val + q * s.h.grp)) s.h.ew s.h.vlmax (g q) (g (q + 1))

/-- The state after a vector load that has made the vector registers `v`: nothing else but VSTART and, where given, VL and
VFF has changed. -/
def Loaded (s t : State) (v : Vector VReg 32) (vl : Nat) (vff : Word) : Prop :=
  GoesOn s t 4 ∧ t = { s with h := { s.h with
    v := v
    pc := t.h.pc
    pcHi := t.h.pcHi
    lp := t.h.lp
    vc := { s.h.vc with vl := vl, vff := vff, vstart := 0, ecm := 0 }
    sy := { s.h.sy with fromElem := none } } }

/-- The state after a vector store whose parts are `ps`: they are the youngest entries of the store queue. -/
def Stored (s t : State) (ps : List Part) : Prop :=
  GoesOn s t 4 ∧ t = { s with h := { s.h with
    pc := t.h.pc
    pcHi := t.h.pcHi
    lp := t.h.lp
    vc := { s.h.vc with vstart := 0, ecm := 0 }
    ms := { s.h.ms with storeQ := s.h.ms.storeQ ++ ps }
    sy := { s.h.sy with fromElem := none } } }

/-- Elements from VSTART to VL - 1 that are active, in order. -/
def activeFrom (h : Hart) (m : Bool) : List Nat :=
  (List.range h.vc.vl).filter fun k => decide (h.vc.vstart.toNat ≤ k) && on h m k

/-- What the elements `ks` of a native store make, field by field, each with its element's tag (R250). -/
def heldParts (s : State) (r : Reg) (nf f : Nat) (addr : Nat → Nat → Nat) (loc : Nat → Nat → Loc) (ks : List Nat) :
    List Held :=
  ks.flatMap fun k => (List.range nf).map fun q =>
    ⟨some k, partOf s (loc k q) (addr k q) (2 ^ f) (s.h.elem (r.val + q * s.h.grp) k s.h.ew) none⟩

/-- A narrow descriptor that may be used (R154, R155), without a trailer: format, scale mode, block length. -/
structure UsableDesc (s : State) (n : Nat) (a : Reg) (dsc : Desc) : Prop where
  read : dsc = ⟨(s.h.f.fmt[Fin.ofNat 12 (3 * n)]).toNat, s.h.f.fmt[Fin.ofNat 12 (3 * n + 1)], s.h.f.fmt[Fin.ofNat 12 (3 * n + 2)]⟩
  valid : dsc.valid = true
  base : dsc.base.toNat ≤ (s.getX a).toNat
  noTrailer : bits dsc.w 21 1 = 0

/-- Where the container of element `k` of a narrow access at X(ra) stands: its byte and its first bit in it (R157). -/
def containerAt (s : State) (a : Reg) (dsc : Desc) (k : Nat) : Nat × Nat :=
  (((s.getX a).toNat + k * dsc.fmt.container / 8) % 2 ^ 64, k * dsc.fmt.container % 8)

/-- The tensor index of element `k` (R157). -/
def tensorIndex (s : State) (a : Reg) (dsc : Desc) (k : Nat) : Nat :=
  ((s.getX a).toNat - dsc.base.toNat) * 8 / dsc.fmt.container + k

/-- The scale byte that element `k` of a descriptor with SMODE 1 or 2 uses (R158). -/
inductive ScaleByte (dsc : Desc) (idx : Nat) : Option Nat → Prop where
  | none' : bits dsc.w 18 2 = 0 → ScaleByte dsc idx none
  | block : bits dsc.w 18 2 = 1 → ScaleByte dsc idx (some ((dsc.scale.toNat + idx / 32) % 2 ^ 64))
  | channel : bits dsc.w 18 2 = 2 → ScaleByte dsc idx (some ((dsc.scale.toNat + idx % bits dsc.w 24 16) % 2 ^ 64))

/-- The value of a narrow code with its scale byte in the wide format (R158). -/
def widenedCode (dsc : Desc) (wide : FFmt) (code : Nat) (sc : Option Nat) : FRes :=
  match sc with
  | none => wide.round .rne { v := .fin (dsc.fmt.value code) }
  | some 255 => ⟨wide.nanBits, flNV⟩
  | some b => wide.round .rne { v := .fin { dsc.fmt.value code with e := (dsc.fmt.value code).e + b - 127 } }

/-- The wide format of a narrow access (R158, R159). -/
def wideOf (s : State) : FFmt := if s.h.ew = 16 then bf16 else f32

/-! ### Strips -/

/-- The hart behind the close of its strip (R244): the held stores are the youngest of the store queue, in their order. -/
def closed (h : Hart) : Hart :=
  { h with ms := { h.ms with
    strip := none
    hold := if h.ms.strip = none then h.ms.hold else none
    storeQ := h.ms.storeQ ++ (h.ms.strip.elim [] fun st => st.held.map fun x => x.part) } }

/-- No data trigger has met an access of the open strip (R349). -/
def StripUnwatched (h : Hart) : Prop := ∀ st, h.ms.strip = some st → st.watch = []

/-- The checkpoint that a VSTRIP takes at `h` (R243). -/
structure Checkpointed (h : Hart) (c : Checkpoint) : Prop where
  scalar : c.x = h.x ∧ c.addr = h.pc
  vector : c.vl = h.vc.vl ∧ c.ew = h.vc.ew ∧ c.grp = h.vc.grp ∧ c.vlmaxr = h.vc.vlmaxr ∧ c.vff = h.vc.vff ∧ c.vpx = h.vc.vpx
  float : c.fflags = h.f.fflags ∧ c.fidx = h.f.fidx ∧ c.fepc = h.f.fepc ∧ c.fxsat = h.f.fxsat
  random : c.rctrl = h.f.rctrl ∧ c.rctrh = h.f.rctrh
  loop : c.loopActive = h.lp.active ∧ c.loopCount = h.lp.count

/-- The hart `t` behind the abandonment of its strip (R258): held stores and shadow slices go, the checkpoint is back, and
the hart stands at the VSTRIP. -/
structure Abandoned (h : Hart) (st : Strip) (t : Hart) : Prop where
  slices : ∀ r : Reg, t.v[r] = ((st.arch.find? fun x => x.1 == r.val).elim h.v[r] fun x => x.2)
  vc : t.vc = { h.vc with
    vl := st.cp.vl
    ew := st.cp.ew
    grp := st.cp.grp
    vlmaxr := st.cp.vlmaxr
    vff := st.cp.vff
    vpx := st.cp.vpx
    vspec := false
    vstart := 0
    ecm := 0 }
  f : t.f = { h.f with
    fflags := st.cp.fflags
    fidx := st.cp.fidx
    fepc := st.cp.fepc
    fxsat := st.cp.fxsat
    rctrl := st.cp.rctrl
    rctrh := st.cp.rctrh }
  lp : t.lp = { h.lp with active := st.cp.loopActive, count := st.cp.loopCount }
  ms : t.ms = { h.ms with strip := none, hold := none }
  rest : t = { h with x := st.cp.x, pc := st.cp.addr, pcHi := 0, v := t.v, vc := t.vc, f := t.f, lp := t.lp, ms := t.ms }

/-- Each written register has one architectural slice. -/
def OneSlice (st : Strip) : Prop := (st.arch.map fun x => x.1).Nodup ∧ ∀ x ∈ st.arch, x.1 < 32

/-- The first exiting element of a VEXIT below `vl` (R245). -/
def FirstExit (m : BitVec 16384) (vl : Nat) : Option Nat → Prop
  | none => ∀ j < vl, m.getLsbD j = false
  | some p => p < vl ∧ m.getLsbD p = true ∧ ∀ j < p, m.getLsbD j = false

/-- What Annul(v) leaves of a strip (R253): untagged stores, and those of elements below `v`. -/
def annulled (v : Nat) (st : Strip) : Strip :=
  { st with
    held := st.held.filter fun x => decide (∀ t, x.tag = some t → t < v)
    watch := st.watch.filter fun x => decide (∀ t, x.2.1 = some t → t < v) }

/-! ### Events of a hart -/

/-- A hart after a write to the line of location `k`: EVT where it monitors that line (R297). -/
def evented (k : Nat) (h : Hart) : Hart :=
  if h.sy.mon = some (k / 128 * 128) then { h with sy := { h.sy with evt := true } } else h

/-- A hart after agent `a` has written `n` bytes from location `k` on, within one line: EVT (R297), and elements that it
has bound ahead meet a later write of their bytes (R268), unless the write is its own. -/
def noted (a : Agent) (k n : Nat) (h : Hart) : Hart := evented k (h.noteLater a k n)

/-- `t` is `u` with the bytes `bs`, all of one line, performed at their home from location `k` on by agent `a` (R264,
R297, R340): no write-watch entry is set, and every other byte reads as before. -/
structure Performed (a : Agent) (u t : State) (k : Nat) (bs : List Byte) : Prop where
  canonical : u.dev.mem.wf = true ∧ u.dev.writeWatch = []
  bytes : ∀ j, t.dev.mem.get j = if k ≤ j ∧ j < k + bs.length then (bs[j - k]?).getD 0 else u.dev.mem.get j
  events : t.h = noted a k bs.length u.h ∧ t.others = u.others.map (noted a k bs.length)
  errors : ∀ e, e ∈ t.dev.errs ↔ e ∈ u.dev.errs ∧ ¬(k ≤ e.1 ∧ e.1 + e.2 ≤ k + bs.length)
  rest : t = { u with
    h := t.h
    others := t.others
    dev := { u.dev with mem := t.dev.mem, errs := t.dev.errs, kvForeign := t.dev.kvForeign } }

/-- An interrupt may be taken where the hart stands (R326, R332, R335, R345, R348). -/
structure Interruptible (s : State) : Prop where
  runs : s.h.status = .running ∧ s.h.db.halted = false ∧ s.h.db.haltReq = none ∧ s.h.db.stepping = false
  stays : ∀ g ∈ s.dev.gangs, g.stopReq = none
  mode : s.h.handler = false ∨ s.h.hr.hstat.ie = true
  handler : s.h.hr.hvec ≠ 0
  hold : ∀ c, s.h.ms.hold = some c → c ≤ s.cycle
  traced : s.traceUnit = none

/-- TIP (R322, R331). -/
def TimerDue (s : State) : Prop := s.h.hr.tdl ≠ 0 ∧ s.h.hr.tdl.toNat ≤ s.time

/-- The interrupt that an event offers, with its code: the doorbell stands behind the timer (R332). -/
inductive Interrupt (s : State) : (Nat → Nat → Instr) → BitVec 8 → Prop where
  | timer : TimerDue s → Interrupt s .timerInterrupt 1
  | doorbell : s.h.hr.hstat.dip = true → ¬TimerDue s → Interrupt s .doorbellInterrupt 2

/-- The completion mask as a point finds it: it stands before an access of mode 2 alone (R21, R324). -/
inductive MaskAt (s : State) : State → Prop where
  | stays (h : s.h.vc.ecm = 0 ∨ ∀ w, s.peekWord s.h.pc = some w → mode2 w = true) : MaskAt s s
  | goes (w : Nat) (h : s.peekWord s.h.pc = some w) (n : mode2 w = false) :
      MaskAt s { s with h := { s.h with vc := { s.h.vc with ecm := 0 } } }

/-- The hart may run ahead of its next instruction, at which it has bound nothing (R266). -/
structure RunsAhead (s : State) : Prop where
  runs : s.h.status = .running ∧ s.h.db.halted = false ∧ s.h.db.stepping = false ∧ s.h.db.haltReq = none
  drained : s.h.ms.entryDrain = false ∧ s.h.ms.retDrain = false
  plain : s.h.pcHi = 0 ∧ s.h.ms.strip = none ∧ s.h.ms.bound = [] ∧ s.h.ms.early = []
  stores : ∀ p ∈ s.h.ownStores, p.tier = none ∧ p.early = 0

/-- The state with the stall accounting of `u`, which a step that ends a wait may charge (R354). -/
def chargedAs (s u : State) : State := { s with h := { s.h with db := u.h.db } }

/-- The register state in which nothing of an instruction waits. -/
def unwaiting (y : SyncState) : SyncState := { y with tierClock := [], tierAsk := none, pendWait := none }

/-- Stall kind codes (R353). -/
inductive StallCode : WaitKind → BitVec 4 → Prop where
  | memory : StallCode .memory 2
  | fabric : StallCode .fabric 3
  | bank : StallCode .bank 4
  | ownership : StallCode .ownership 5
  | tier : StallCode .tier 6
  | sluice : StallCode .sluice 7
  | queueRoom : StallCode .queueRoom 8
  | event : StallCode .event 9
  | tile : StallCode .tile 10
  | drain : StallCode .drain 11

/-- What an event does at the hart that it names, which stands at the front of `s`: `e` takes the gang and the rank. -/
inductive HartEvent (s : State) : (Nat → Nat → Instr) → (State → Prop) → Prop where
  /-- R331, R332 -/
  | interrupt (e : Nat → Nat → Instr) (c : BitVec 8) (s' : State) (h : Interrupt s e c) (m : Interruptible s)
      (st : s.h.ms.strip = none) (mk : MaskAt s s') :
      HartEvent s e fun u => Entered (chargedAs s' u) u true c 0 s.h.vc.vstart.toNat s.h.vc.vstart ∧
        (s.h.db.stall = none → u.h.db = s.h.db)
  /-- R260 -/
  | interruptInStrip (e : Nat → Nat → Instr) (c : BitVec 8) (st : Strip) (h' : Hart) (h : Interrupt s e c)
      (m : Interruptible s) (hs : s.h.ms.strip = some st) (one : OneSlice st) (ha : Abandoned s.h st h') :
      HartEvent s e fun u => Entered (chargedAs { s with h := h' } u) u true c 0 0 0 ∧ u.h.ms.strip = none ∧
        u.h.ms.resumeHold = st.cp.addr :: s.h.ms.resumeHold ∧ (s.h.db.stall = none → u.h.db = s.h.db)
  /-- R260 -/
  | holdExpiry (c : Nat) (h : s.h.ms.hold = some c) (due : c ≤ s.cycle) :
      HartEvent s .holdExpiry (· = { s with h := { s.h with ms := { s.h.ms with hold := none } } })
  /-- R297: a WAIT ends at its deadline with 0. -/
  | waitDeadline (d a b c : Reg) (h : s.h.sy.pendWait = some ⟨s.h.pc, false, d, a, b, c⟩) (none' : s.h.sy.evt = false)
      (due : s.getX a ≠ 0 ∧ (s.getX a).toNat ≤ s.time)
      (runs : s.h.status = .running ∧ s.h.db.halted = false ∧ s.h.db.stepping = false ∧ s.h.db.waited ≠ some s.cycle)
      (st : s.h.ms.strip = none) :
      HartEvent s .waitDeadline fun u => Done s { chargedAs (s.setX d 0) u with h := { (chargedAs (s.setX d 0) u).h with
        sy := unwaiting { s.h.sy with evt := false, mon := none, monAddr := 0 }
        ms := { s.h.ms with bound := [], loadQ := [], landed := [], holdNext := s.h.ms.holdNext.filter (· == u.h.pc) } } } u 4
  /-- R316: a WAITGE ends at its deadline with the value that it then reads. -/
  | waitgeDeadline (d a b c : Reg) (l : Leaf) (loc : Loc) (h : s.h.sy.pendWait = some ⟨s.h.pc, true, d, a, b, c⟩)
      (due : s.getX c ≠ 0 ∧ (s.getX c).toNat ≤ s.time)
      (runs : s.h.status = .running ∧ s.h.db.halted = false ∧ s.h.db.stepping = false ∧ s.h.db.waited ≠ some s.cycle)
      (st : s.h.ms.strip = none) (al : (s.getX a).toNat % 8 = 0) (m : Mapped s (s.getX a).toNat .load l loc)
      (home : AtHome s loc 8) (w : Unwatched s .load (s.getX a).toNat 8) :
      HartEvent s .waitDeadline fun u =>
        Done s { chargedAs (s.setX d (BitVec.ofNat 64 (seenNat s loc.key 8))) u with
          h := { (chargedAs (s.setX d (BitVec.ofNat 64 (seenNat s loc.key 8))) u).h with
            sy := unwaiting { s.h.sy with
              evt := false
              mon := some (loc.key / 128 * 128)
              monAddr := BitVec.ofNat 52 (s.getX a).toNat }
            ms := { s.h.ms with loadQ := [], landed := [], holdNext := s.h.ms.holdNext.filter (· == u.h.pc) } } } u 4
  /-- R57: a promotion wait has lasted 10 ms. -/
  | tierwait (el va p t0 : Nat) (h : s.h.sy.tierAsk = some (el, va, p))
      (clock : s.h.sy.tierClock.find? (fun x => x.1 == p) = some (p, t0)) (due : t0 + 10000000 ≤ s.time)
      (leaf : s.dev.mem.getNat p 8 % 4 = 3 ∧ (s.dev.mem.getNat p 8).testBit 62 = false)
      (runs : s.h.status = .running ∧ s.h.db.halted = false ∧ s.h.db.stepping = false)
      (st : s.h.ms.strip = none) (hv : s.h.hr.hvec ≠ 0) (tr : s.traceUnit = none) :
      HartEvent s .tierwait fun u => Entered s u false 0x12 (BitVec.ofNat 64 va) el (BitVec.ofNat 48 el)
  /-- R266, R267: an aligned scalar load at the PC takes its bytes ahead, as the hart sees them now. -/
  | bind (i : Instr) (d : Reg) (va : Word) (n : Nat) (sg : Bool) (len : Nat) (l : Leaf) (loc : Loc) (free : RunsAhead s)
      (at_ : s.nextInstr = some i) (ld : ScalarLoad s i d va n sg len) (al : va.toNat % n = 0)
      (m : Mapped s va.toNat .load l loc) (home : AtHome s loc n) :
      HartEvent s (fun g r => .bind g r ⟨[s.h.pc], 0⟩) fun u => ∃ bs : List Byte, bs.length = n ∧
        (∀ j < n, (bs[j]?).getD 0 = seen s.h.ownStores (s.dev.mem.get (loc.key + j)) (loc.key + j)) ∧
        u = { s with
          tick := s.tick + 1
          h := { s.h with ms := { s.h.ms with bound := [{
            pc := s.h.pc
            elems := [{ el := 0, vas := [(va.toNat, n)], parts := [(loc.key, bs)], id := s.tick }] }] } } }
  /-- R268: what a condition has met of the instruction at `pc` is unbound. -/
  | replay (pc : BitVec 52) : HartEvent s (fun g r => .replay g r pc)
      (· = { s with h := { s.h with ms := { s.h.ms with bound := s.h.ms.bound.map fun e =>
        if e.pc = pc then { e with elems := e.elems.filter fun b => !b.stale } else e } } })
  /-- R266, R271: the line of the DISCARD at the PC enters the store queue ahead of its completion. -/
  | early (a b : Reg) (l : Leaf) (loc : Loc) (free : RunsAhead s) (at_ : s.nextInstr = some (.discard a b))
      (trigger : s.h.execTrigger s.h.pc = none ∧ s.h.ms.watchHit = none) (hb : s.getX b = 128)
      (al : (s.getX a).toNat % 128 = 0) (m : Mapped s (s.getX a).toNat .store l loc) (home : AtHome s loc 128) :
      HartEvent s (fun g r => .early g r [s.h.pc]) (· = { s with h := { s.h with ms := { s.h.ms with
        storeQ := s.h.ms.storeQ ++ [{ partOf s loc (s.getX a).toNat 128 0 none with early := 1 }]
        early := [s.h.pc] } } })
  /-- R264, R266: the oldest queued store is performed at its home in the device. -/
  | drain (p : Part) (r : List Part) (h : s.h.ms.storeQ = p :: r) (home : regionOf p.key = .hbm ∨ regionOf p.key = .cxl)
      (line : p.key % 128 + p.bytes.length ≤ 128) (whole : p.mask = none) (free : s.dev.owned p.key = false)
      (release : p.rel = some 4 → s.h.ms.fabricQ = []) (at_ : p.tier = none)
      (order : p.nonidem = true → ∀ q ∈ s.h.ms.fabricQ, q.2.nonidem = false) (canonical : s.dev.mem.wf = true ∧ s.dev.writeWatch = []) :
      HartEvent s .drain fun u => Performed (hartAgent s.h) { s with h := { s.h with ms := { s.h.ms with storeQ := r } } } u p.key p.bytes
  /-- R276: the oldest queued store of another device goes toward it. -/
  | drainAway (p : Part) (r : List Part) (n : Nat) (h : s.h.ms.storeQ = p :: r) (home : regionOf p.key = .domain n)
      (free : s.dev.owned p.key = false) (release : p.rel = some 4 → s.h.ms.fabricQ = []) (at_ : p.tier = none)
      (order : p.nonidem = true → ∀ q ∈ s.h.ms.fabricQ, q.2.nonidem = true → q.1 = n) :
      HartEvent s .drain (· = { s with h := { s.h with ms := { s.h.ms with
        storeQ := r
        fabricQ := s.h.ms.fabricQ ++ [(n, p)] } } })
  /-- R276: the oldest store toward device `n` arrives there. -/
  | arrive (n : Nat) (p : Part) (q r : List (Nat × Part)) (h : s.h.ms.fabricQ = q ++ (n, p) :: r) (first : ∀ x ∈ q, x.1 ≠ n)
      (free : s.dev.owned p.key = false) (up : s.dev.peerUp n = true ∧ n ∉ s.dev.failNext) (whole : p.mask = none)
      (canonical : s.dev.mem.wf = true ∧ s.dev.writeWatch = []) :
      HartEvent s (fun g k => .arrive g k n) fun u =>
        Performed (hartAgent s.h) { s with h := { s.h with ms := { s.h.ms with fabricQ := q ++ r } } } u p.key p.bytes
  /-- R276, R48: the oldest load that has been issued toward device `n`, behind no store, binds there, or fails where the
  device does not answer. -/
  | arriveLoad (n : Nat) (l : RemoteLoad) (q r : List (Nat × RemoteLoad)) (up : Bool) (v : State)
      (h : s.h.ms.loadQ = q ++ (n, l) :: r) (first : ∀ x ∈ q, x.1 ≠ n) (behind : ∀ x ∈ s.h.ms.fabricQ, x.1 ≠ n)
      (free : s.dev.owned l.key = false) (reach : s.remoteAccess n = (up, v)) (intact : s.dev.bad l.key l.len = false) :
      HartEvent s (fun g k => .arrive g k n) (· = { v with h := { s.h with ms := { s.h.ms with
        loadQ := q ++ r
        landed := s.h.ms.landed ++
          [{ l with bytes := if up then some (s.dev.mem.getBytes l.key l.len) else none }] } } })
  /-- R342: it fails where the device does not answer, or the link's retries have failed for it, and the failure is held. -/
  | arriveFails (n : Nat) (fl : List Nat) (p : Part) (q r : List (Nat × Part)) (h : s.h.ms.fabricQ = q ++ (n, p) :: r) (first : ∀ x ∈ q, x.1 ≠ n)
      (free : s.dev.owned p.key = false)
      (up : (s.dev.peerUp n = false ∧ fl = s.dev.failNext) ∨
        (s.dev.peerUp n = true ∧ n ∈ s.dev.failNext ∧ fl = s.dev.failNext.erase n)) (no : s.h.ms.fabFail = none) :
      HartEvent s (fun g k => .arrive g k n) (· = { s with dev := { s.dev with failNext := fl }, h := { s.h with ms := { s.h.ms with
        fabricQ := q ++ r
        fabFail := some (BitVec.ofNat 64 p.va) } } })
  /-- R354: a stall of the instruction at the PC that has an entry, or finds room for one. -/
  | stallCharge (k : WaitKind) (code : BitVec 4) (on : BitVec 52) (c n : Nat) (h : s.h.db.stall = some (k, on, c)) (hk : StallCode k code)
      (hn : n = s.cycle - c) (long : 1024 ≤ n) (room : s.h.db.table.length < 32) :
      HartEvent s .stallCharge fun u => ∃ tab : List StallEntry,
        u = { s with h := { s.h with db := { s.h.db with stall := some (k, on, s.cycle), table := tab } } } ∧
        ((∀ e ∈ s.h.db.table, ¬(e.cpc = s.h.pc ∧ e.kind = code ∧ e.ppc = on)) → tab = s.h.db.table ++
          [{ lost := BitVec.ofNat 64 n, events := 0, elag := 0, cpc := s.h.pc, kind := code, ppc := on }]) ∧
        ((∃ e ∈ s.h.db.table, e.cpc = s.h.pc ∧ e.kind = code ∧ e.ppc = on) → tab.length = s.h.db.table.length ∧
          ∀ (j : Nat) (e : StallEntry), s.h.db.table[j]? = some e → tab[j]? = some
            (if e.cpc = s.h.pc ∧ e.kind = code ∧ e.ppc = on then
              { e with lost := BitVec.ofNat 64 (min (e.lost.toNat + n) (2 ^ 64 - 1)) } else e))
  /-- R340 -/
  | regError (r : Reg) (b : Nat) : HartEvent s (fun g k => .uncorrectableError (.reg g k r.val b))
      (· = { s with h := { s.h with v := s.h.v.set r { s.h.v[r] with err := b :: (s.h.v[r]).err } } })
  | tileError (t : Tile) (b : Nat) : HartEvent s (fun g k => .uncorrectableError (.tile g k t.val b))
      (· = { s with h := { s.h with t := { s.h.t with
        tile := s.h.t.tile.set t { s.h.t.tile[t] with err := b :: (s.h.t.tile[t]).err } } } })
  | latchError (l : Latch) (b : Nat) : HartEvent s (fun g k => .uncorrectableError (.latch g k l.val b))
      (· = { s with h := { s.h with t := { s.h.t with latchErr := s.h.t.latchErr.set l (b :: s.h.t.latchErr[l]) } } })

/-- No other hart that is resident has the name of the front one. -/
def Alone (s : State) : Prop :=
  s.h.status ≠ .vacant ∧ ∀ o ∈ s.others, o.status ≠ .vacant → ¬(o.id.gang = s.h.id.gang ∧ o.id.rank = s.h.id.rank)

/-! ### Parts that fail, doorbells and the debug module -/

/-- The memory `m'` is `m` with the 64 KiB at `src` copied to `dst` and the leaf at `leaf` written (R93, R341). -/
structure PageCopied (m m' : Memory) (src dst leaf pte : Nat) : Prop where
  page : ∀ j < 0x10000, m'.get (dst + j) = m.get (src + j)
  entry : m'.getNat leaf 8 = pte
  rest : ∀ j, ¬(dst ≤ j ∧ j < dst + 0x10000) → ¬(leaf ≤ j ∧ j < leaf + 8) → m'.get j = m.get j

/-- Errors counted at a place (R340). -/
def countOf (l : List (Place × Nat)) (p : Place) : Nat := (l.find? fun x => decide (x.1 = p)).elim 0 fun x => x.2

/-- The harts behind a write of the device register at `off`: EVT where a hart monitors its line (R297). -/
def belled (off : Nat) (u : State) : State :=
  { u with h := evented (0xE000000000000 + off) u.h, others := u.others.map (evented (0xE000000000000 + off)) }

/-- The extent-table number of a source outside the device (R362). -/
inductive TableOf : Source → Nat → Prop where
  | vf (t : Nat) : TableOf (.vf t) t
  | domain (d : Nat) : TableOf (.domain d) (0x100 + d)
  | cxl (p : Nat) : TableOf (.cxl p) (0x200 + p)

/-- A source may write the doorbell register of the hart with HARTID `n` (R359, R362). -/
def MayWriteBell (s : State) (src : Source) (n : Nat) : Prop :=
  (∃ p, src = .pf p) ∨ src = .esmen ∨ ∃ t, TableOf src t ∧ s.dev.grants t (0xE000001000000 + 8 * n) .store = true

/-- A doorbell write from `src` reaches a hart of tenant `t` (R333, R359, R362). -/
inductive MayRing : Source → Nat → Prop where
  | pf (p t : Nat) : MayRing (.pf p) t
  | esmen (t : Nat) : MayRing .esmen t
  | vf (t : Nat) : MayRing (.vf t) t

/-- The debug module of `die` behind a debugger's request over JTAG, which names the hart `sel` (R344, R372): `u` is else
the state `v`. That a request activates the module and clears cmderr is the model's choice (notes/assumptions/54.md). -/
structure Named (s v u : State) (die sel : Nat) : Prop where
  now : u.dev.dm die = { s.dev.dm die with active := true, sel := sel, cmderr := 0 }
  others : ∀ d, d ≠ die → u.dev.dm d = s.dev.dm d
  rest : u = { v with dev := { v.dev with dms := u.dev.dms } }

/-- The Causeway core stopped with a DCSR cause: what its firmware left in its registers is a free value each
(notes/assumptions/55.md). -/
structure CausewayStopped (s u : State) (cause : Nat) : Prop where
  halted : u.dev.causeway.halted = true
  zero : u.dev.causeway.x[0] = 0
  regs : ∀ k : Fin 32, k ≠ 0 → u.dev.causeway.x[k] = Config.causewayReg s.tick k.val
  pc : u.dev.causeway.pc = Config.causewayReg s.tick 32
  csrs : ∀ n v, (n, v) ∈ u.dev.causeway.csrs → v = Config.causewayReg s.tick (0x1000 + n)
  dcsr : ∀ j : Nat, j < 32 → u.dev.causeway.dcsr.getLsbD j = if 6 ≤ j ∧ j ≤ 8 then cause.testBit (j - 6) else s.dev.causeway.dcsr.getLsbD j
  tick : u.tick = s.tick + 1

/-- Events of the device's own parts, with what they leave (R333, R340-R342, R348, R352). -/
inductive DeviceEvent (s : State) : Instr → (State → Prop) → Prop where
  /-- R362: a doorbell write is an access of the doorbell register, which its source must be allowed to make. -/
  | doorbell (src : Source) (n : Nat) (f : Hart → Hart) (hn : n < 2048) (up : s.dev.hosts.fail = false)
      (may : MayWriteBell s src n)
      (hit : ∀ h, h.id.hartid.toNat = n ∧ (h.status = .running ∨ h.status = .stopped ∨ h.status = .saved) ∧ MayRing src h.id.tenant →
        f h = { h with hr := { h.hr with hstat := { h.hr.hstat with dip := true } } })
      (miss : ∀ h, ¬(h.id.hartid.toNat = n ∧ (h.status = .running ∨ h.status = .stopped ∨ h.status = .saved) ∧ MayRing src h.id.tenant) → f h = h) :
      DeviceEvent s (.doorbellWrite src n) (· = belled (0x1000000 + 8 * n) { s with h := f s.h, others := s.others.map f })
  | doorbellDropped (src : Source) (n : Nat) (no : 2048 ≤ n ∨ ¬MayWriteBell s src n ∨ s.dev.hosts.fail = true) :
      DeviceEvent s (.doorbellWrite src n) (· = s)
  | bytesError (k n : Nat) (hn : 0 < n) :
      DeviceEvent s (.uncorrectableError (.bytes k n)) (· = { s with dev := { s.dev with errs := (k, n) :: s.dev.errs } })
  | corrected (p : Place) : DeviceEvent s (.correctedError p) fun u =>
      (∀ q, countOf u.dev.corrected q = countOf s.dev.corrected q + if q = p then 1 else 0) ∧
      u = { s with dev := { s.dev with corrected := u.dev.corrected } }
  /-- R341: the page of a frame that is to be retired moves to another frame, and no value that an agent reads changes. -/
  | retireFrame (f d leaf : Nat) (hbm : f * 0x10000 < 0x8000000000 ∧ d * 0x10000 < 0x8000000000) (other : f ≠ d)
      (records : s.dev.inCrArea f = false ∧ s.dev.inCrArea d = false) (idle : s.frameBusy (f * 0x10000) = false ∧ ∀ m ∈ s.dev.moves, m.ptea ≠ leaf)
      (maps : s.dev.mem.getNat leaf 8 % 4 = 2 ∧ s.dev.mem.getNat leaf 8 / 2 ^ 8 % 4 = 0 ∧
        s.dev.mem.getNat leaf 8 / 2 ^ 16 % 2 ^ 36 = f)
      (apart : leaf + 8 ≤ d * 0x10000 ∨ (d + 1) * 0x10000 ≤ leaf) (line : leaf % 8 = 0)
      (canonical : s.dev.mem.wf = true ∧ s.dev.writeWatch = []) :
      DeviceEvent s (.hbmFrameRetirement f d [leaf]) fun u =>
        PageCopied s.dev.mem u.dev.mem (f * 0x10000) (d * 0x10000) leaf
          (s.dev.mem.getNat leaf 8 / 2 ^ 52 * 2 ^ 52 + d * 2 ^ 16 + s.dev.mem.getNat leaf 8 % 2 ^ 16) ∧
        u.dev.retiredFrames = f :: s.dev.retiredFrames ∧ (∀ t ∈ u.dev.tenants, f ∉ t.hbmFrames) ∧
        (∀ e ∈ u.dev.tlb, e.ptea ≠ leaf) ∧ u.h.x = s.h.x ∧ u.h.v = s.h.v ∧ u.h.pc = s.h.pc
  | wayOff (die slice way : Nat) (f : DieParts → DieParts)
      (hf : ∀ p, (p.die = die → f p = { p with l2off := (slice, way) :: p.l2off }) ∧ (p.die ≠ die → f p = p)) :
      DeviceEvent s (.l2WayDisable die slice way) (· = { s with dev := { s.dev with parts := s.dev.parts.map f } })
  | linkLanes (d : Nat) (l : Fin 12) : DeviceEvent s (.linkFailure d (.lanes l)) fun u => d ∈ u.dev.linkSlow ∧
      (∀ x, x ≠ d → (x ∈ u.dev.linkSlow ↔ x ∈ s.dev.linkSlow)) ∧
      u = { s with dev := { s.dev with linkSlow := u.dev.linkSlow, links := s.dev.links.set l .reduced } }
  | linkOne (d : Nat) (l : Fin 12) : DeviceEvent s (.linkFailure d (.one l))
      (· = { s with dev := { s.dev with links := s.dev.links.set l .removed } })
  | linkLast (d : Nat) (l : Fin 12) : DeviceEvent s (.linkFailure d (.last l)) fun u => u.dev.peerUp d = false ∧
      (∀ x, x ≠ d → u.dev.peerUp x = s.dev.peerUp x) ∧
      u = { s with dev := { s.dev with linkDown := u.dev.linkDown, links := s.dev.links.set l .removed } }
  /-- R342: the next access toward the device fails after the link's retries. -/
  | linkAccess (d : Nat) : DeviceEvent s (.linkFailure d .access)
      (· = { s with dev := { s.dev with failNext := s.dev.failNext ++ [d] } })
  /-- R348: a halt is asked for; the hart halts at its next point. -/
  | halt (die sel : Nat) (f : Hart → Hart) (open_ : s.dev.hosts.dbgopen = true) (core : die ≠ 8)
      (hit : ∀ h, sel < 256 ∧ h.id.hartid.toNat = 256 * die + sel ∧ (h.status = .running ∨ h.status = .stopped) ∧
          h.db.halted = false →
        f h = { h with db := { h.db with haltReq := some (h.db.haltReq.getD 3) } })
      (miss : ∀ h, ¬(sel < 256 ∧ h.id.hartid.toNat = 256 * die + sel ∧ (h.status = .running ∨ h.status = .stopped) ∧
        h.db.halted = false) → f h = h) :
      DeviceEvent s (.haltRequest die sel) fun u => Named s { s with h := f s.h, others := s.others.map f } u die sel
  /-- R344: hart 0 of the I/O die's module is the Causeway core, which halts at once. -/
  | haltCauseway (open_ : s.dev.hosts.dbgopen = true) (runs : s.dev.causeway.halted = false) :
      DeviceEvent s (.haltRequest 8 0) fun u => CausewayStopped s u 3 ∧
        Named s { s with dev := { s.dev with causeway := u.dev.causeway }, tick := s.tick + 1 } u 8 0
  | haltHalted (open_ : s.dev.hosts.dbgopen = true) (halted : s.dev.causeway.halted = true) :
      DeviceEvent s (.haltRequest 8 0) fun u => Named s s u 8 0
  /-- A resumed Causeway core runs, or stops after one instruction where DCSR.step is 1. -/
  | resumeCauseway (open_ : s.dev.hosts.dbgopen = true) (halted : s.dev.causeway.halted = true) :
      DeviceEvent s (.resumeRequest 8 0) fun u =>
        u.dev.dm 8 = { s.dev.dm 8 with active := true, sel := 0, cmderr := 0, resumeAck := true } ∧
        (∀ d, d ≠ 8 → u.dev.dm d = s.dev.dm d) ∧
        (s.dev.causeway.dcsr.getLsbD 2 = true → CausewayStopped s u 4 ∧
          u = { s with dev := { s.dev with causeway := u.dev.causeway, dms := u.dev.dms }, tick := s.tick + 1 }) ∧
        (s.dev.causeway.dcsr.getLsbD 2 = false →
          u = { s with dev := { s.dev with causeway := { s.dev.causeway with halted := false }, dms := u.dev.dms } })
  /-- R372: without DBGOPEN nothing happens. -/
  | shut (i : Instr) (no : s.dev.hosts.dbgopen = false)
      (form : (∃ d n, i = .haltRequest d n) ∨ (∃ d n, i = .resumeRequest d n) ∨ (∃ d n r w v, i = .accessRegister d n r w v) ∨
        ∃ d n t w z a v, i = .accessMemory d n t w z a v) :
      DeviceEvent s i (· = s)
  /-- R352: a sample of the one hart, which is traced; the buffer has room. -/
  | sample (t : TraceUnit) (k : BitVec 4) (w : Nat) (alone : s.others = []) (runs : s.h.status = .running)
      (unit : s.dev.trace = [t]) (mine : t.die = s.h.id.hartid.toNat / 256 ∧ s.h.id.hartid.toNat % 256 ∈ t.harts)
      (room : t.used < t.size ∧ t.dropped = 0) (period : t.sampled < s.cycle / 2 ^ t.sper)
      (stall : (∀ x, s.h.db.stall ≠ some x) ∧ k = 0 ∨ ∃ x on c, s.h.db.stall = some (x, on, c) ∧ StallCode x k)
      (hw : w = s.h.pc.toNat * 2 ^ 76 + s.h.vc.vstart.toNat % 2 ^ 16 * 2 ^ 60 + s.h.vc.vspec.toNat * 2 ^ 59 + 6 * 2 ^ 48 +
        s.h.id.hartid.toNat * 2 ^ 32 + k.toNat) (canonical : s.dev.mem.wf = true) :
      DeviceEvent s (.traceSample t.die) fun u =>
        (∀ j, u.dev.mem.get j = if t.base + 16 * (t.wptr % t.size) ≤ j ∧ j < t.base + 16 * (t.wptr % t.size) + 16 then
          BitVec.ofNat 8 (w / 256 ^ (j - (t.base + 16 * (t.wptr % t.size)))) else s.dev.mem.get j) ∧
        u = { s with dev := { s.dev with
          mem := u.dev.mem
          trace := [{ t with wptr := t.wptr + 1, used := t.used + 1, sampled := s.cycle / 2 ^ t.sper }] } }

/-- The debug module of a die has answered a command to the hart `sel` with `code` (R344), and with `data` where a value
was read; nothing else of the machine differs from `s`. -/
structure Answered (s u : State) (die sel : Nat) (code : BitVec 3) (data : Word) : Prop where
  now : u.dev.dm die = { s.dev.dm die with active := true, sel := sel, cmderr := code, data := data }
  others : ∀ d, d ≠ die → u.dev.dm d = s.dev.dm d
  rest : u = { s with dev := { s.dev with dms := u.dev.dms } }

/-- The word `k` of 64 bits of a register, a tile or a latch. -/
def wordAt64 {n : Nat} (x : BitVec n) (k : Nat) : Word := x.extractLsb' (64 * k) 64

/-- What DWIN shows of the hart at the front (R347). -/
inductive Window (s : State) : Word → Prop where
  | tile (t : Tile) (h : s.h.db.didxSel.toNat = t.val) (own : s.h.t.town.getLsbD t.val = true) (w : s.h.db.didxIdx.toNat < 2048) :
      Window s (wordAt64 (s.h.t.tile[t]).val s.h.db.didxIdx.toNat)
  | latch (l : Latch) (h : s.h.db.didxSel.toNat = 4 + l.val) (own : s.h.t.town.getLsbD (4 + l.val) = true)
      (w : s.h.db.didxIdx.toNat < 2048) : Window s (wordAt64 s.h.t.latch[l] s.h.db.didxIdx.toNat)
  | mode (t : Tile) (h : s.h.db.didxSel = 6) (i : s.h.db.didxIdx.toNat = t.val) (own : s.h.t.town.getLsbD t.val = true) :
      Window s ((BitVec.ofBool (s.h.t.tile[t]).factor ++ BitVec.ofBool (s.h.t.tile[t]).broken ++ (s.h.t.tile[t]).n).setWidth 64)
  | mask (h : s.h.db.didxSel = 7) (w : s.h.db.didxIdx.toNat < 256) : Window s (wordAt64 s.h.vc.ecm s.h.db.didxIdx.toNat)

/-- An abstract register of the hart at the front as it reads, and the hart behind the read (R345, R346). -/
inductive AbstractRead (s : State) : Nat → Word → Hart → Prop where
  | system (n : Nat) (v : Word) (h : SysValue s n v) : AbstractRead s n v s.h
  | dcsr : AbstractRead s 0x300 ((BitVec.ofBool s.h.db.ebrk ++ BitVec.ofBool s.h.db.step ++ BitVec.ofBool s.h.db.stepie ++
      BitVec.ofBool s.h.db.ghalt ++ BitVec.ofBool s.h.ms.strip.isSome ++ (0 : BitVec 3) ++ s.h.db.cause ++
      (0 : BitVec 4)).setWidth 64) s.h
  | dpc : AbstractRead s 0x301 (s.h.db.dpc.setWidth 64) s.h
  | delem : AbstractRead s 0x302 (s.h.db.delem.setWidth 64) s.h
  | hscr : AbstractRead s 0x303 s.h.hr.hscr s.h
  | tdl : AbstractRead s 0x304 s.h.hr.tdl s.h
  | loopStart : AbstractRead s 0x305 (s.h.lp.start.setWidth 64) s.h
  | loopEnd : AbstractRead s 0x306 (s.h.lp.fin.setWidth 64) s.h
  | loopCount (c : Nat) (h : s.h.lp.count = some c) :
      AbstractRead s 0x307 (BitVec.ofBool s.h.lp.active ++ BitVec.ofNat 63 c) s.h
  | evt (h : s.h.sy.mon.isSome) :
      AbstractRead s 0x308 (BitVec.ofBool s.h.sy.evt ++ (0 : BitVec 11) ++ s.h.sy.monAddr.extractLsb' 7 45 ++ (0 : BitVec 7)) s.h
  | evtNone (h : s.h.sy.mon = none) : AbstractRead s 0x308 (BitVec.ofBool s.h.sy.evt ++ (0 : BitVec 63)) s.h
  | cseq (k : Fin 4) : AbstractRead s (0x309 + k.val) s.h.sy.cseq[k] s.h
  | mode : AbstractRead s 0x30D (if s.h.handler then 1 else 0) s.h
  | x (r : Reg) : AbstractRead s (0x1000 + r.val) (s.getX r) s.h
  | vector (r : Reg) (k : Nat) (hk : k < 256 ∧ k < min (1024 * s.h.id.lanes) (1024 * 2 ^ s.h.vc.cap.toNat) / 64) :
      AbstractRead s (0xC000 + 256 * r.val + k) (wordAt64 (s.h.v[r]).val k) s.h
  | didx : AbstractRead s 0xE000 (s.h.db.didxSel ++ (0 : BitVec 40) ++ s.h.db.didxIdx) s.h
  | dwin (w : Word) (h : Window s w) :
      AbstractRead s 0xE001 w { s.h with db := { s.h.db with didxIdx := s.h.db.didxIdx + 1 } }

/-- Numbers of registers that the debug module may not write (R13, R346). -/
def ReadOnlyNumber (n : Nat) : Prop := n = 3 ∨ 0x24 ≤ n ∧ n ≤ 0x2E

/-- An abstract register of the hart at the front written with `v` (R346, R347), apart from vector words. -/
inductive AbstractWrite (s : State) (v : Word) : Nat → Hart → Prop where
  | vl : AbstractWrite s v 0 { s.h with vc := { s.h.vc with vl := min v.toNat s.h.vc.vlmaxr } }
  | vtype (m : Nat) (legal : v.toNat / 64 = 0 ∧ v.toNat % 16 ≤ 3)
      (hm : m = vlmaxUnder s.h s.h.vc.cap (v.extractLsb' 0 2) (v.extractLsb' 4 2)) :
      AbstractWrite s v 1 { s.h with vc := { s.h.vc with
        ew := v.extractLsb' 0 2
        grp := v.extractLsb' 4 2
        vlmaxr := m
        vl := min s.h.vc.vl m } }
  | system (n : Nat) (h : Hart) (w : SysWrite s v n h) (no : 1 < n ∧ ¬ReadOnlyNumber n) : AbstractWrite s v n h
  | dcsr : AbstractWrite s v 0x300 { s.h with db := { s.h.db with
      ebrk := v.getLsbD 15
      step := v.getLsbD 14
      stepie := v.getLsbD 13
      ghalt := v.getLsbD 12 } }
  | dpc : AbstractWrite s v 0x301 { s.h with db := { s.h.db with dpc := evenAddr v } }
  | delem : AbstractWrite s v 0x302 { s.h with vc := { s.h.vc with vstart := v.extractLsb' 0 48 } }
  | hscr : AbstractWrite s v 0x303 { s.h with hr := { s.h.hr with hscr := v } }
  | tdl : AbstractWrite s v 0x304 { s.h with hr := { s.h.hr with tdl := v } }
  | loopStart : AbstractWrite s v 0x305 { s.h with lp := { s.h.lp with start := evenAddr v, body := [] } }
  | loopEnd : AbstractWrite s v 0x306 { s.h with lp := { s.h.lp with fin := evenAddr v, body := [] } }
  | loopCount : AbstractWrite s v 0x307 { s.h with lp := { s.h.lp with active := v.getLsbD 63, count := some (v.toNat % 2 ^ 63) } }
  | cseq (k : Fin 4) : AbstractWrite s v (0x309 + k.val) { s.h with sy := { s.h.sy with cseq := s.h.sy.cseq.set k v } }
  | mode : AbstractWrite s v 0x30D { s.h with handler := v.getLsbD 0 }
  | x (r : Reg) (h : r ≠ 0) : AbstractWrite s v (0x1000 + r.val) { s.h with x := s.h.x.set r v }
  | x0 : AbstractWrite s v 0x1000 s.h
  | didx : AbstractWrite s v 0xE000 { s.h with db := { s.h.db with didxSel := v.extractLsb' 56 8, didxIdx := v.extractLsb' 0 16 } }

/-- `die` and `sel` name the hart at the front, and no other (R344). -/
def Selected (s : State) (die sel : Nat) : Prop :=
  die < 8 ∧ sel < 256 ∧ s.h.id.hartid.toNat = 256 * die + sel ∧ (s.h.status = .running ∨ s.h.status = .stopped) ∧
  ∀ o ∈ s.others, ¬(o.id.hartid = s.h.id.hartid ∧ (o.status = .running ∨ o.status = .stopped))

/-- Commands to the hart at the front, with what they leave (R344-R348), when the module has no access to finish. -/
inductive DebugCommand (s : State) (die sel : Nat) : Instr → (State → Prop) → Prop where
  | resume (halted : s.h.db.halted = true) (tr : s.traceUnit = none) :
      DebugCommand s die sel (.resumeRequest die sel) fun u =>
        u.dev.dm die = { s.dev.dm die with active := true, sel := sel, cmderr := 0, resumeAck := true } ∧ (∀ d, d ≠ die → u.dev.dm d = s.dev.dm d) ∧
        u = { s with
          dev := { s.dev with dms := u.dev.dms }
          h := { s.h with
            pc := s.h.db.dpc
            pcHi := 0
            vc := { s.h.vc with vstart := s.h.db.delem }
            db := { s.h.db with halted := false, haltReq := none, stepping := s.h.db.step } } }
  | notHalted (i : Instr) (no : s.h.db.halted = false)
      (form : (∃ r w v, i = .accessRegister die sel r w v) ∨ ∃ t w z a v, z ≤ 3 ∧ i = .accessMemory die sel t w z a v) :
      DebugCommand s die sel i fun u => Answered s u die sel 4 (s.dev.dm die).data
  | read (n : Nat) (x v : Word) (h : Hart) (halted : s.h.db.halted = true) (r : AbstractRead s n x h) :
      DebugCommand s die sel (.accessRegister die sel n false v) fun u => Answered { s with h := h } u die sel 0 x
  | write (n : Nat) (v : Word) (h : Hart) (halted : s.h.db.halted = true) (w : AbstractWrite s v n h) :
      DebugCommand s die sel (.accessRegister die sel n true v) fun u =>
        Answered { s with h := { h with db := { h.db with delem := h.vc.vstart } } } u die sel 0 (s.dev.dm die).data
  | readOnly (n : Nat) (v : Word) (halted : s.h.db.halted = true) (no : ReadOnlyNumber n) :
      DebugCommand s die sel (.accessRegister die sel n true v) fun u => Answered s u die sel 2 (s.dev.dm die).data
  | unlisted (n : Nat) (wr : Bool) (v : Word) (halted : s.h.db.halted = true)
      (no : 0x30E ≤ n ∧ n < 0x1000 ∨ 0x1020 ≤ n ∧ n < 0xC000 ∨ 0xE002 ≤ n) :
      DebugCommand s die sel (.accessRegister die sel n wr v) fun u => Answered s u die sel 2 (s.dev.dm die).data
  | vectorBeyond (n : Nat) (wr : Bool) (v : Word) (halted : s.h.db.halted = true) (hn : 0xC000 ≤ n ∧ n < 0xE000)
      (no : min (1024 * s.h.id.lanes) (1024 * 2 ^ s.h.vc.cap.toNat) / 64 ≤ n % 256) :
      DebugCommand s die sel (.accessRegister die sel n wr v) fun u => Answered s u die sel 3 (s.dev.dm die).data
  | load (z : Nat) (a v : Word) (l : Leaf) (loc : Loc) (halted : s.h.db.halted = true) (hz : z ≤ 3) (al : a.toNat % 2 ^ z = 0)
      (m : Mapped s a.toNat .load l loc) (home : AtHome s loc (2 ^ z)) (b : InStep s) :
      DebugCommand s die sel (.accessMemory die sel true false z a v) fun u =>
        Answered s u die sel 0 (BitVec.ofNat 64 (seenNat s loc.key (2 ^ z)))
  | store (z : Nat) (a v : Word) (l : Leaf) (loc : Loc) (halted : s.h.db.halted = true) (hz : z ≤ 3) (al : a.toNat % 2 ^ z = 0)
      (m : Mapped s a.toNat .store l loc) (home : regionOf loc.key = .hbm ∨ regionOf loc.key = .cxl)
      (st : s.h.ms.strip = none) (b : InStep s) :
      DebugCommand s die sel (.accessMemory die sel true true z a v) fun u =>
        Answered { s with h := { s.h with ms := { s.h.ms with
          storeQ := s.h.ms.storeQ ++ [partOf s loc a.toNat (2 ^ z) v.toNat none] } } } u die sel 0 (s.dev.dm die).data
  | noAddress (z : Nat) (wr : Bool) (a v : Word) (halted : s.h.db.halted = true) (hz : z ≤ 3) (far : 2 ^ 52 ≤ a.toNat)
      (al : a.toNat % 2 ^ z = 0) (b : InStep s) :
      DebugCommand s die sel (.accessMemory die sel true wr z a v) fun u => Answered s u die sel 3 (s.dev.dm die).data
  | tooWide (t wr : Bool) (z : Nat) (a v : Word) (hz : 3 < z) :
      DebugCommand s die sel (.accessMemory die sel t wr z a v) fun u => Answered s u die sel 2 (s.dev.dm die).data

/-! ### What comes from outside -/

/-- Queue `n` is `q` in `u`; no other queue and nothing else of the machine differs from `s`. -/
structure QueueSet (s u : State) (n : Nat) (q : Queue) : Prop where
  now : u.dev.queue n = q
  others : ∀ m, m ≠ n → u.dev.queue m = s.dev.queue m
  rest : u = { s with dev := { s.dev with queues := u.dev.queues } }

/-- Tenant `n` is `t` in `u`; no other tenant and nothing else of the machine differs from `s`. -/
structure TenantSet (s u : State) (n : Nat) (t : Tenant) : Prop where
  now : u.dev.tenant n = t
  others : ∀ m, m ≠ n → u.dev.tenant m = s.dev.tenant m
  rest : u = { s with dev := { s.dev with tenants := u.dev.tenants } }

/-- Port `p` holds HSEM (R357). -/
def Holds (s : State) (p : Nat) : Prop := s.dev.hosts.semHeld = true ∧ s.dev.hosts.semOwner = decide (p = 1)

/-- The machine with other host registers. -/
def withHosts (s : State) (f : HostRegs → HostRegs) : State := { s with dev := { s.dev with hosts := f s.dev.hosts } }

/-- A gated register of the device window (R358). -/
def Gated (off : Nat) : Prop :=
  0 < off ∧ off < 0x1000 ∨ 0x100000 ≤ off ∧ off < 0x102000 ∨ 0x200000 ≤ off ∧ off < 0x200200 ∨
    0x20000000 ≤ off ∧ off < 0x20090000

/-- A TAIL write (R301). -/
def tailWritten (q : Queue) (v : BitVec 32) : Queue :=
  if 2 ^ q.log2n < (v - q.head).toNat then { q with ovf := true } else { q with tail := v }

/-- A queue behind a write of one of its registers: the instant at which the record at HEAD reached it stands (R306). -/
def headNoted (s : State) (q : Queue) : Queue :=
  if q.head = q.tail then { q with reached := none, checked := none, tierClock := [], depSeen := none }
  else if q.reached.map (·.1) = some q.head then q else { q with reached := some (q.head, s.time) }

/-- Who may write QCFG, QSTATE and TIERCFG (R91, R299, R358): the HSEM holder, and Esmen. -/
def MayConfig (s : State) (src : Source) : Prop := (∃ p, p ≤ 1 ∧ src = .pf p ∧ Holds s p) ∨ src = .esmen

/-- The register that an event writes. -/
def registerOf : Instr → Option Nat
  | .hsemWrite _ _ => some 0
  | .domcfgWrite _ _ => some 0x50
  | .qcfgWrite _ q hi _ => some (0x100000 + 32 * q + if hi then 8 else 0)
  | .qstateWrite _ q hi _ => some (0x100010 + 32 * q + if hi then 8 else 0)
  | .qtailWrite t q _ => some (0x10001000 + 0x10000 * t + 8 * q)
  | .rheadWrite t _ => some (0x10000020 + 0x10000 * t)
  | .registerWrite (.host _ off) _ => some off
  | _ => none

/-- `n` bytes from `pa` on lie in one line of local memory that no copy command owns, and the source's table grants an
access of kind `k` (R131, R362). -/
structure InboundOk (s : State) (src : Source) (pa n : Nat) (k : Kind) : Prop where
  size : 0 < n ∧ pa % 128 + n ≤ 128
  home : regionOf pa = .hbm ∨ regionOf pa = .cxl
  granted : ∃ t, TableOf src t ∧ s.dev.grants t pa k = true
  free : s.dev.owned pa = false

/-- Writes of the host to the device registers and accesses that come in, with what they leave (R300, R301, R350, R352,
R357-R363). -/
inductive HostEvent (s : State) : Instr → (State → Prop) → Prop where
  /-- R357: a grant of the free semaphore -/
  | semGrant (p : Nat) (v : Word) (hp : p ≤ 1) (hv : v.getLsbD 0 = true) (free : s.dev.hosts.semHeld = false) :
      HostEvent s (.hsemWrite p v) (· = withHosts s fun r =>
        { r with semHeld := true, semOwner := decide (p = 1), semGen := r.semGen + 1 })
  | semRelease (p : Nat) (v : Word) (hp : p ≤ 1) (hv : v.getLsbD 0 = false) (mine : Holds s p) :
      HostEvent s (.hsemWrite p v) (· = withHosts s fun r => { r with semHeld := false })
  | semIgnored (p : Nat) (v : Word) (hp : p ≤ 1)
      (h : v.getLsbD 0 = true ∧ s.dev.hosts.semHeld = true ∨ v.getLsbD 0 = false ∧ ¬Holds s p) :
      HostEvent s (.hsemWrite p v) (· = s)
  | linkDown (p : Nat) : HostEvent s (.hostLinkDown p) fun u =>
      (Holds s p → u = withHosts s fun r => { r with semHeld := false }) ∧ (¬Holds s p → u = s)
  /-- R358: a gated write of another than the holder is dropped and counted. -/
  | denied (i : Instr) (p q : Nat) (hi : Bool) (v : Word) (hp : p ≤ 1) (hq : q < 256) (other : ¬Holds s p)
      (up : s.dev.hosts.fail = false)
      (form : i = .qcfgWrite (.pf p) q hi v ∨ i = .qstateWrite (.pf p) q hi v ∨ i = .domcfgWrite p v ∨
        ∃ off, Gated off ∧ i = .registerWrite (.host (.pf p) off) v) :
      HostEvent s i (· = withHosts s fun r => { r with hdeny := r.hdeny + 1 })
  /-- R300 -/
  | cfgLow (src : Source) (q : Nat) (v : Word) (dies : BitVec 8) (hd : dies = v.extractLsb' 32 8) (hq : q < 256)
      (mine : MayConfig s src) (up : s.dev.hosts.fail = false) :
      HostEvent s (.qcfgWrite src q false v) fun u => QueueSet s u q <| headNoted s { s.dev.queue q with
        dies := dies
        tenant := (v.extractLsb' 24 5).toNat
        pmax := (v.extractLsb' 16 2).toNat
        log2n := (v.extractLsb' 8 4).toNat
        en := v.getLsbD 0 && decide (4 ≤ (v.extractLsb' 8 4).toNat ∧ dies ≠ 0) }
  | cfgHigh (src : Source) (q : Nat) (v : Word) (hq : q < 256) (mine : MayConfig s src) (up : s.dev.hosts.fail = false) :
      HostEvent s (.qcfgWrite src q true v) fun u => QueueSet s u q <| headNoted s { s.dev.queue q with
        base := v.extractLsb' 12 40 ++ (0 : BitVec 12) }
  /-- R301 -/
  | stateLow (src : Source) (q : Nat) (v : Word) (hq : q < 256) (mine : MayConfig s src) (up : s.dev.hosts.fail = false) :
      HostEvent s (.qstateWrite src q false v) fun u => QueueSet s u q <| headNoted s { s.dev.queue q with
        valid := (s.dev.queue q).valid && !v.getLsbD 63
        ovf := (s.dev.queue q).ovf && !v.getLsbD 62 }
  | stateHigh (src : Source) (q : Nat) (v : Word) (hq : q < 256) (mine : MayConfig s src) (up : s.dev.hosts.fail = false) :
      HostEvent s (.qstateWrite src q true v) fun u =>
        QueueSet s u q (headNoted s (tailWritten (s.dev.queue q) (v.extractLsb' 32 32)))
  /-- R360: the queue doorbell of a tenant page -/
  | tail (t q : Nat) (v : Word) (ht : t < 32) (hq : q < 256) (up : s.dev.hosts.fail = false) :
      HostEvent s (.qtailWrite t q v) fun u =>
        ((s.dev.queue q).tenant = t → QueueSet s u q (headNoted s (tailWritten (s.dev.queue q) (v.setWidth 32)))) ∧
        ((s.dev.queue q).tenant ≠ t → u = s)
  | rhead (t : Nat) (v : Word) (ht : t < 32) (up : s.dev.hosts.fail = false) :
      HostEvent s (.rheadWrite t v) fun u => TenantSet s u t { s.dev.tenant t with rhead := v.toNat % 16 }
  /-- R363 -/
  | domainOn (p : Nat) (v : Word) (hp : p ≤ 1) (mine : Holds s p) (hv : v.getLsbD 8 = true) :
      HostEvent s (.domcfgWrite p v) (· = withHosts s fun r => { r with domEn := true, domId := v.setWidth 8 })
  | domainOff (p : Nat) (v : Word) (hp : p ≤ 1) (mine : Holds s p) (hv : v.getLsbD 8 = false) :
      HostEvent s (.domcfgWrite p v) fun u => u.dev.hosts.domEn = false ∧ u.dev.hosts.peers = 0 ∧
        u.dev.hosts.domId = v.setWidth 8 ∧ (∀ h ∈ u.h :: u.others, h.ms.fabricQ = []) ∧
        ((∀ h ∈ s.h :: s.others, h.ms.fabricQ = []) →
          u = withHosts s fun r => { r with domEn := false, domId := v.setWidth 8, peers := 0 })
  | peerCheck (d : Nat) (on_ : s.dev.hosts.domEn = true) (hd : d ≤ 255) (other : d ≠ s.dev.hosts.domId.toNat) :
      HostEvent s (.peerCheck ⟨d, true⟩) fun u =>
        (∀ j : Nat, j < 256 → u.dev.hosts.peers.getLsbD j = (s.dev.hosts.peers.getLsbD j || (Config.signatureOk s.tick && decide (j = d)))) ∧
        u = { withHosts s (fun r => { r with peers := u.dev.hosts.peers }) with tick := s.tick + 1 }
  | peerSame (d : Nat) (unique : Bool) (on_ : s.dev.hosts.domEn = true) (hd : d ≤ 255)
      (same : unique = false ∨ d = s.dev.hosts.domId.toNat) :
      HostEvent s (.peerCheck ⟨d, unique⟩) fun u =>
        (∀ j : Nat, j < 256 → u.dev.hosts.peers.getLsbD j = (s.dev.hosts.peers.getLsbD j && decide (j ≠ d))) ∧
        u = { withHosts s (fun r => { r with peers := u.dev.hosts.peers }) with tick := s.tick + 1 }
  /-- R368: the mailbox arguments -/
  | mailboxArg (p : Nat) (k : Fin 4) (v : Word) (hp : p ≤ 1) (mine : Holds s p) :
      HostEvent s (.registerWrite (.host (.pf p) (0x28 + 8 * k.val)) v) (· = withHosts s fun r => { r with mbArg := r.mbArg.set k v })
  /-- R91: TIERCFG -/
  | tierLow (src : Source) (t : Nat) (v : Word) (ht : t < 32) (mine : MayConfig s src) (up : s.dev.hosts.fail = false) :
      HostEvent s (.registerWrite (.host src (0x200000 + 16 * t)) v) fun u =>
        TenantSet s u t { s.dev.tenant t with tcxl := v.extractLsb' 32 32, thbm := v.extractLsb' 0 32 }
  | tierHigh (src : Source) (t : Nat) (v : Word) (ht : t < 32) (mine : MayConfig s src) (up : s.dev.hosts.fail = false) :
      HostEvent s (.registerWrite (.host src (0x200000 + 16 * t + 8)) v) fun u => TenantSet s u t { s.dev.tenant t with
        excap := v.extractLsb' 32 16
        rdepth := if v.extractLsb' 16 8 = 0 then 1 else v.extractLsb' 16 8 }
  /-- R350: a write-watch register -/
  | watch (die n i : Nat) (v : Word) (w w' : WriteWatch) (hn : n < 8) (open_ : s.dev.hosts.dbgopen = true)
      (old : (s.dev.writeWatch.find? fun x => x.die == die && x.idx == n) = some w)
      (new : (i = 0 ∧ w' = { w with pa := v.extractLsb' 0 52 }) ∨
        (i = 1 ∧ w' = { w with
          en := v.getLsbD 63
          agents := v.extractLsb' 48 8
          act := decide (v.extractLsb' 46 2 = 1)
          gang := v.extractLsb' 16 16
          len := v.extractLsb' 0 8 }) ∨
        (i = 2 ∧ v.getLsbD 63 = true ∧ w' = { w with hitV := false, hitKind := 0, hitSrc := 0, hitCount := 0 })) :
      HostEvent s (.registerWrite (.watch die n i) v) fun u =>
        (u.dev.writeWatch.find? fun x => x.die == die && x.idx == n) = some w' ∧
        (∀ d m, ¬(d = die ∧ m = n) → (u.dev.writeWatch.find? fun x => x.die == d && x.idx == m) =
          s.dev.writeWatch.find? fun x => x.die == d && x.idx == m) ∧
        u = { s with dev := { s.dev with writeWatch := u.dev.writeWatch } }
  /-- R352: the trace buffer of a die, outside every tenant's extents -/
  | trace (die base size : Nat) (harts : List Nat) (v : Word) (open_ : s.dev.hosts.dbgopen = true)
      (place : base % 16 = 0 ∧ base + 16 * size ≤ 0x8000000000)
      (apart : ∀ e ∈ s.dev.extents, e.v = true → e.src < 32 → base + 16 * size ≤ e.base * 0x10000 ∨ (e.last + 1) * 0x10000 ≤ base) :
      HostEvent s (.registerWrite (.trace die base size harts) v) fun u =>
        (u.dev.trace.find? fun x => x.die == die) = some {
          die := die
          base := base
          size := size
          harts := harts
          sper := v.toNat
          sampled := s.cycle / 2 ^ v.toNat
          dropped := (s.dev.trace.find? fun x => x.die == die).elim 0 fun x => x.dropped } ∧
        (∀ d, d ≠ die → (u.dev.trace.find? fun x => x.die == d) = s.dev.trace.find? fun x => x.die == d) ∧
        u = { s with dev := { s.dev with trace := u.dev.trace } }
  /-- R352: records taken out of the buffer leave room -/
  | taken (die : Nat) (v : Word) (f : TraceUnit → TraceUnit) (open_ : s.dev.hosts.dbgopen = true)
      (hf : ∀ x, (x.die = die → f x = { x with used := x.used - v.toNat }) ∧ (x.die ≠ die → f x = x)) :
      HostEvent s (.registerWrite (.taken die) v) (· = { s with dev := { s.dev with trace := s.dev.trace.map f } })
  /-- R362: an inbound write -/
  | inWrite (src : Source) (pa n : Nat) (bs : List Byte) (ok : InboundOk s src pa bs.length .store)
      (canonical : s.dev.mem.wf = true ∧ s.dev.writeWatch = []) :
      HostEvent s (.inboundAccess src pa n bs) fun u => Performed (sourceAgent src) s u pa bs
  | inRead (src : Source) (pa n : Nat) (bs : List Byte) (ok : InboundOk s src pa n .load) (intact : s.dev.bad pa n = false)
      (hb : bs.length = n ∧ ∀ j < n, (bs[j]?).getD 0 = s.dev.mem.get (pa + j)) :
      HostEvent s (.inboundAccess src pa n []) (· = { s with dev := { s.dev with reply := some (src, bs) } })
  | inWriteRefused (src : Source) (pa n t : Nat) (bs : List Byte) (size : bs ≠ [] ∧ pa % 128 + bs.length ≤ 128)
      (home : regionOf pa = .hbm ∨ regionOf pa = .cxl) (ht : TableOf src t) (no : s.dev.grants t pa .store = false) :
      HostEvent s (.inboundAccess src pa n bs) (· = s)
  | inReadRefused (src : Source) (pa n t : Nat) (size : 0 < n ∧ pa % 128 + n ≤ 128)
      (home : regionOf pa = .hbm ∨ regionOf pa = .cxl) (ht : TableOf src t) (no : s.dev.grants t pa .load = false) :
      HostEvent s (.inboundAccess src pa n [])
        (· = { s with dev := { s.dev with reply := some (src, List.replicate n 0xFF) } })
  /-- R359: a register read by a physical function -/
  | inRegister (p off : Nat) (hoff : off % 8 = 0 ∧ off + 8 ≤ 0x10000000000) (up : s.dev.hosts.fail = false) :
      HostEvent s (.inboundAccess (.pf p) (0xE000000000000 + off) 8 [])
        (· = { s with dev := { s.dev with reply := some (.pf p,
          (List.range 8).map fun j => BitVec.ofNat 8 (s.readReg off / 256 ^ j)) } })

/-- The state after a mailbox command that ends with a status (R368). -/
def answered (u : State) (code : BitVec 8) : State := withHosts u fun r => { r with mbDone := true, mbStatus := code }

/-- Argument `k` of the host mailbox. -/
def mbArg (s : State) (k : Fin 4) : Word := s.dev.hosts.mbArg[k]

/-- Nothing of tenant `t` is still to be performed that a change of its extents has to wait for (R58, R62). -/
def Settles (s : State) (t : Nat) : Prop :=
  (∀ h ∈ s.h :: s.others, h.id.tenant = t → h.ms.storeQ = [] ∧ h.ms.fabricQ = [] ∧ h.ms.strip = none) ∧
  ∀ c ∈ s.dev.cmds, c.tenant = t → c.lines = [] ∧ c.map = []

/-- Nothing of any hart is still to be performed. -/
def AllQuiet (s : State) : Prop := ∀ h ∈ s.h :: s.others, h.ms.storeQ = [] ∧ h.ms.fabricQ = [] ∧ h.ms.strip = none

/-- No hart monitors a line or has bound a load ahead, and no write-watch entry is set. -/
def NoMonitors (s : State) : Prop :=
  (∀ h ∈ s.h :: s.others, h.sy.mon = none ∧ ∀ e ∈ h.ms.bound, e.elems = []) ∧ s.dev.writeWatch = []

/-- What a reset of the functions of the tenants in `T` leaves (R367). -/
structure TenantsReset (s u : State) (T : Nat → Prop) : Prop where
  /-- their gangs end without a completion add -/
  gangs : u.dev.gangs.length = s.dev.gangs.length ∧ ∀ (j : Nat) (g : Gang), s.dev.gangs[j]? = some g →
    (T g.tenant → u.dev.gangs[j]? = some { g with ending := some false }) ∧ (¬T g.tenant → u.dev.gangs[j]? = some g)
  harts : ∀ (j : Nat) (h : Hart), (s.h :: s.others)[j]? = some h →
    ((∃ g ∈ s.dev.gangs, T g.tenant ∧ g.id = h.id.gang.toNat) ∧ h.status ≠ .vacant →
      (u.h :: u.others)[j]? = some { h with status := .ended, ms := { h.ms with strip := none } }) ∧
    (¬((∃ g ∈ s.dev.gangs, T g.tenant ∧ g.id = h.id.gang.toNat) ∧ h.status ≠ .vacant) → (u.h :: u.others)[j]? = some h)
  queues : ∀ (j : Nat) (q : Queue), s.dev.queues[j]? = some q →
    (T q.tenant → u.dev.queues[j]? = some { q with en := false }) ∧ (¬T q.tenant → u.dev.queues[j]? = some q)
  extents : ∀ e, e ∈ u.dev.extents ↔ e ∈ s.dev.extents ∧ ¬T e.src
  tlb : ∀ e, e ∈ u.dev.tlb ↔ e ∈ s.dev.tlb ∧ ¬T e.tenant
  requests : ∀ r, r ∈ u.dev.proms ↔ r ∈ s.dev.proms ∧ ¬T r.tenant
  /-- their records are free -/
  records : ∀ c ∈ s.dev.crs, (∃ t, T t ∧ s.dev.slotTenant c.slot = some t) → (u.dev.cr c.slot).st = .free
  stashes : ∀ x ∈ u.dev.stashes, T x.tenant → x.ids = [] ∧ x.asked = 0

/-- Commands of the host mailbox, with what they leave (R310, R360, R366-R371). -/
inductive MailboxEvent (s : State) : Nat → Instr → (State → Prop) → Prop where
  | tcreateBad (p : Nat) (x : NewTenant)
      (bad : 32 ≤ (mbArg s 0).toNat ∨ (s.dev.tenant (mbArg s 0).toNat).live = true ∨ (mbArg s 1).toNat % 128 ≠ 0 ∨
        2 ^ 32 ≤ (mbArg s 2).toNat ∨ 4 < (mbArg s 3).toNat / 2 ^ 16 % 16 ∨ 2 ^ 20 ≤ (mbArg s 3).toNat ∨
        4096 < (mbArg s 3).toNat % 2 ^ 16) :
      MailboxEvent s p (.tcreate p x) (· = answered s 1)
  | tcreate (p t : Nat) (x : NewTenant) (ht : t = (mbArg s 0).toNat)
      (good : t < 32 ∧ (s.dev.tenant t).live = false ∧ (mbArg s 1).toNat % 128 = 0 ∧ (mbArg s 2).toNat < 2 ^ 32 ∧
        (mbArg s 3).toNat / 2 ^ 16 % 16 ≤ 4 ∧ (mbArg s 3).toNat < 2 ^ 20 ∧ (mbArg s 3).toNat % 2 ^ 16 ≤ 4096)
      (room : (mbArg s 3).toNat % 2 ^ 16 ≤ s.dev.freeGroups t)
      (choice : s.dev.mayGive t x = true ∧ x.groups.length = (mbArg s 3).toNat % 2 ^ 16) (keys : (x.extents.map fun e => e.1).Nodup) :
      MailboxEvent s p (.tcreate p x) fun u => ∃ w, u = answered w 0 ∧
        w = { s with dev := { s.dev with tenants := w.dev.tenants, extents := w.dev.extents } } ∧
        w.dev.tenant t = { s.dev.tenant t with
          live := true
          root := x.root
          asid := x.asid
          cap := (mbArg s 3).extractLsb' 16 4
          poolBase := (mbArg s 1).toNat
          poolSize := (mbArg s 2).toNat
          freeIds := List.range (mbArg s 2).toNat
          crGroups := x.groups
          hbmFrames := x.hbm
          cxlFrames := x.cxl
          flashFree := x.flash } ∧
        (∀ m, m ≠ t → w.dev.tenant m = s.dev.tenant m) ∧
        ∀ e, e ∈ w.dev.extents ↔
          (∃ y ∈ x.extents, e = { src := t, idx := y.1, base := y.2.1, last := y.2.2.1, w := true, y := y.2.2.2, v := true }) ∨
          (e ∈ s.dev.extents ∧ ¬(e.src = t ∧ ∃ y ∈ x.extents, y.1 = e.idx))
  /-- More CR slot groups than are free: the status is the model's choice (notes/assumptions/61.md). -/
  | tcreateFull (p t : Nat) (x : NewTenant) (ht : t = (mbArg s 0).toNat)
      (good : t < 32 ∧ (s.dev.tenant t).live = false ∧ (mbArg s 1).toNat % 128 = 0 ∧ (mbArg s 2).toNat < 2 ^ 32 ∧
        (mbArg s 3).toNat / 2 ^ 16 % 16 ≤ 4 ∧ (mbArg s 3).toNat < 2 ^ 20 ∧ (mbArg s 3).toNat % 2 ^ 16 ≤ 4096)
      (full : s.dev.freeGroups t < (mbArg s 3).toNat % 2 ^ 16) :
      MailboxEvent s p (.tcreate p x) (· = answered s 4)
  | tdestroyBad (p : Nat) (bad : 32 ≤ (mbArg s 0).toNat ∨ (s.dev.tenant (mbArg s 0).toNat).live = false) :
      MailboxEvent s p (.tdestroy p) (· = answered s 1)
  | tdestroy (p t : Nat) (ht : t = (mbArg s 0).toNat ∧ t < 32) (live : (s.dev.tenant t).live = true) (quiet : Settles s t ∧ NoMonitors s)
      (ids : (s.dev.gangs.map fun g => g.id).Nodup) :
      MailboxEvent s p (.tdestroy p) fun u => TenantsReset s u (· = t) ∧ (u.dev.tenant t).live = false ∧
        (u.dev.tenant t).crGroups = [] ∧ u.dev.hosts = (answered s 0).dev.hosts
  | extsetBad (p : Nat)
      (bad : ¬((mbArg s 0).toNat % 2 ^ 16 < 0x20 ∨ 0x100 ≤ (mbArg s 0).toNat % 2 ^ 16 ∧ (mbArg s 0).toNat % 2 ^ 16 ≤ 0x1FF ∨
        0x200 ≤ (mbArg s 0).toNat % 2 ^ 16 ∧ (mbArg s 0).toNat % 2 ^ 16 ≤ 0x203)) :
      MailboxEvent s p (.extset p) (· = answered s 1)
  | extset (p src : Nat) (x : Extent) (hs : src = (mbArg s 0).toNat % 2 ^ 16) (quiet : Settles s src)
      (ok : src < 0x20 ∨ 0x100 ≤ src ∧ src ≤ 0x1FF ∨ 0x200 ≤ src ∧ src ≤ 0x203)
      (hx : x = {
        src := src
        idx := ((mbArg s 0).extractLsb' 16 6).toNat
        base := ((mbArg s 1).extractLsb' 16 36).toNat
        last := ((mbArg s 2).extractLsb' 16 36).toNat
        w := (mbArg s 1).getLsbD 2
        y := (mbArg s 1).getLsbD 1
        v := (mbArg s 1).getLsbD 0 }) :
      MailboxEvent s p (.extset p) fun u => ∃ w, u = answered w 0 ∧
        w = { s with dev := { s.dev with extents := w.dev.extents } } ∧
        ∀ e, e ∈ w.dev.extents ↔ e = x ∨ (e ∈ s.dev.extents ∧ ¬(e.src = x.src ∧ e.idx = x.idx))
  | attest (p : Nat) (room : s.dev.hosts.reports < 32768 ∧ s.dev.hosts.bootNo ≤ 32768) :
      MailboxEvent s p (.attest (.pf p)) fun u => ∃ bs : List Byte, bs.length = 5944 ∧
        bs[0]? = some 1 ∧ bs[4]? = some 0xFF ∧ bs[5]? = some (if s.dev.hosts.dbgopen then 1 else 0) ∧
        (∀ j < 8, bs[8 + j]? = some (BitVec.ofNat 8 (s.dev.hosts.svn.toNat / 256 ^ j))) ∧
        (∀ j < 8, bs[16 + j]? = some (BitVec.ofNat 8 (s.dev.hosts.minsvn.toNat / 256 ^ j))) ∧
        (∀ j < 8, bs[3020 + j]? = some (BitVec.ofNat 8 (s.dev.hosts.bootNo / 256 ^ j))) ∧
        (∀ j < 8, bs[216 + j]? = some (BitVec.ofNat 8 (s.time / 256 ^ j))) ∧
        u = answered { withHosts s (fun r => { r with reports := r.reports + 1 }) with
          tick := s.tick + 1
          dev := { (withHosts s fun r => { r with reports := r.reports + 1 }).dev with
            hostOut := s.dev.hostOut ++ [(mbArg s 1, bs)] } } 0
  | attestOver (p : Nat) (none_ : 32768 ≤ s.dev.hosts.reports ∨ 32768 < s.dev.hosts.bootNo) :
      MailboxEvent s p (.attest (.pf p)) (· = answered s 4)
  | stage (p : Nat) : MailboxEvent s p (.stage p) fun u =>
      (Config.signatureOk s.tick = false → u = answered { s with tick := s.tick + 1 } 2) ∧
      (Config.signatureOk s.tick = true → (Config.imageSvn s.tick).toNat < s.dev.hosts.minsvn.toNat →
        u = answered { s with tick := s.tick + 1 } 3) ∧
      (Config.signatureOk s.tick = true → s.dev.hosts.minsvn.toNat ≤ (Config.imageSvn s.tick).toNat →
        u = answered { withHosts s (fun r => { r with staged := some (Config.imageSvn s.tick, false) }) with tick := s.tick + 1 } 0)
  | activate (p : Nat) (x : BitVec 32) (b : Bool) (h : s.dev.hosts.staged = some (x, b)) :
      MailboxEvent s p (.activate p) (· = answered (withHosts s fun r => { r with staged := some (x, true) }) 0)
  | activateNone (p : Nat) (h : s.dev.hosts.staged = none) : MailboxEvent s p (.activate p) (· = answered s 1)
  | svnadv (p : Nat) (h : (mbArg s 0).toNat ≤ s.dev.hosts.svn.toNat) :
      MailboxEvent s p (.svnadv p) (· = answered (withHosts s fun r =>
        { r with minsvn := BitVec.ofNat 64 (max r.minsvn.toNat (mbArg s 0).toNat) }) 0)
  | svnadvHigh (p : Nat) (h : s.dev.hosts.svn.toNat < (mbArg s 0).toNat) : MailboxEvent s p (.svnadv p) (· = answered s 3)
  | preempt (p : Nat) (g : Gang) (hg : g ∈ s.dev.gangs) (name : g.id = (mbArg s 1).toNat ∧ g.die = (mbArg s 0).toNat)
      (here : g.saved = false ∧ g.ending = none) (once : ∀ x ∈ s.dev.gangs, x.id = g.id → x = g) :
      MailboxEvent s p (.preempt p) fun u => ∃ f : Gang → Gang, (∀ x ∈ s.dev.gangs, x.id ≠ g.id → f x = x) ∧
        f g = { g with stopReq := some (g.stopReq.getD false) } ∧
        u = answered { s with dev := { s.dev with gangs := s.dev.gangs.map f } } 0
  | preemptNone (p : Nat) (no : ∀ g ∈ s.dev.gangs, ¬(g.id = (mbArg s 1).toNat ∧ g.die = (mbArg s 0).toNat)) :
      MailboxEvent s p (.preempt p) (· = answered s 1)

/-- Resets, with what they leave (R366, R367), when no mailbox command runs. -/
inductive Reset (s : State) : Instr → (State → Prop) → Prop where
  | function (t : Nat) (ht : t < 32) (none_ : s.dev.hosts.mbRun = none) (quiet : AllQuiet s ∧ NoMonitors s) (ids : (s.dev.gangs.map fun g => g.id).Nodup) :
      Reset s (.functionLevelReset t) fun u => TenantsReset s u (· = t) ∧ u.dev.hosts = s.dev.hosts ∧
        (u.dev.tenant t).live = (s.dev.tenant t).live
  | hot (p : Nat) (hp : p ≤ 1) (none_ : s.dev.hosts.mbRun = none) (quiet : AllQuiet s ∧ NoMonitors s) (ids : (s.dev.gangs.map fun g => g.id).Nodup) :
      Reset s (.hotReset p) fun u => TenantsReset s u (fun t => 16 * p ≤ t ∧ t < 16 * p + 16) ∧
        (Holds s p → u.dev.hosts = { s.dev.hosts with semHeld := false }) ∧ (¬Holds s p → u.dev.hosts = s.dev.hosts)
  | cold : Reset s .coldReset fun u => u.h = {} ∧ u.others = [] ∧
      (∃ r, u.dev = { State.reset.dev with hosts := r } ∧ r.minsvn = s.dev.hosts.minsvn ∧ r.bootNo = s.dev.hosts.bootNo ∧
        r.ready = false ∧ r.semHeld = false ∧ r.domEn = false ∧ r.peers = 0 ∧
        (r.fail = false → r.minsvn.toNat ≤ r.svn.toNat)) ∧ u.cycle = 0
  | ready (c : Nat) (now : s.dev.hosts.ready = false ∧ s.dev.hosts.fail = false)
      (place : c % 0x10000 = 0 ∧ c + 0x10000000 ≤ 0x8000000000) :
      Reset s (.ready c) (· = { s with dev := { s.dev with
        crpa := c
        hosts := { s.dev.hosts with ready := true, bootNo := s.dev.hosts.bootNo + 1, reports := 0 } } })

/-! ### Banks -/

/-- `t` is `w`, gone on behind a vector or unit-based instruction of `s` (R13, R25): VSTART is 0. -/
def DoneV (s w t : State) : Prop :=
  GoesOn s t 4 ∧ t = { w with h := { w.h with
    pc := t.h.pc
    pcHi := t.h.pcHi
    lp := t.h.lp
    vc := { w.h.vc with vstart := 0, ecm := 0 }
    sy := { w.h.sy with fromElem := none } } }

/-- The core that holds gang rank `k` (R50). -/
def RankCore (s : State) (k core : Nat) : Prop :=
  (k = s.h.id.rank ∧ core = s.h.id.hartid.toNat / 4 % 64) ∨
  (k ≠ s.h.id.rank ∧ ∃ o, ((s.h :: s.others).find? fun h => decide (h.id.gang = s.h.id.gang ∧ h.id.rank = k ∧ h.status ≠ .vacant)) =
    some o ∧ core = o.id.hartid.toNat / 4 % 64)

/-- Addresses of banks: the own-core scratch window and the gang window (R50): core and number on the hart's die. -/
inductive BankAddress (s : State) : Nat → Nat → Nat → Prop where
  | own (n : Nat) (hn : n < 48) : BankAddress s (0x7F0000000000 + 0x4000 * n) (s.h.id.hartid.toNat / 4 % 64) n
  | gang (k n core : Nat) (hk : k < s.h.id.gangsz) (hn : n < 48) (hc : RankCore s k core)
      (inside : 0x7F1000000000 + 0x100000 * k < 0x7F8000000000) :
      BankAddress s (0x7F1000000000 + 0x100000 * k + 0x4000 * n) core n

/-- A valid bank address (R119), and the bank. -/
def NamedBank (s : State) (va : Nat) (b : Bank) : Prop :=
  ∃ core n, BankAddress s va core n ∧ 4 ≤ n ∧ s.dev.bank? (s.h.id.hartid.toNat / 256) core n = some b ∧
    b.gang = s.h.id.gang.toNat

/-- No copy command names the bank (R113, R120). -/
def BankIdle (s : State) (b : Bank) : Prop :=
  ∀ c ∈ s.dev.cmds, c.die = b.die → (b.core, b.num) ∉ c.dbanks ∧ (b.core, b.num) ∉ c.sbanks

/-- The banks of the device with bank `b` changed to `b'`. -/
def withBank (s : State) (b b' : Bank) : List Bank :=
  s.dev.banks.map fun y => if y.die = b.die ∧ y.core = b.core ∧ y.num = b.num then b' else y

/-- First location of a bank's bytes. -/
def bankBase (b : Bank) : Nat := 2 ^ 52 + ((b.die * 64 + b.core) * 48 + b.num) * 0x4000

/-- Modes by their code (R120). -/
inductive ModeCode : BankMode → Nat → Prop where
  | cache : ModeCode .cache 0
  | scratch : ModeCode .scratch 1
  | fifo : ModeCode .fifo 2

/-- What BSLOT makes of a scratch bank (R114, R120); operation 3 alone does not wait until the bank is idle. -/
inductive SlotOp (s : State) (b : Bank) : Nat → Bank → Prop where
  | untrack : BankIdle s b → SlotOp s b 0 { b with trk := false }
  | empty : BankIdle s b → SlotOp s b 1 { b with trk := true, st := 0, hold := false }
  | filling : BankIdle s b → SlotOp s b 2 { b with trk := true, st := 1, hold := true }
  | release : BankIdle s b → b.trk = true → b.st = 1 → SlotOp s b 3 { b with hold := false, st := 2 }
  | keep : ¬(BankIdle s b ∧ b.trk = true ∧ b.st = 1) → SlotOp s b 3 { b with hold := false }
  | ready : BankIdle s b → SlotOp s b 4 { b with trk := true, st := 2, hold := false }

/-- BMODE, BSLOT and BQRY: the result in rd, and what else they leave of the machine (R113, R114, R120). -/
inductive BankForm (s : State) : Instr → Reg → Word → (State → Prop) → Prop where
  | modeInvalid (d a b : Reg) (no : ∀ x, ¬NamedBank s (s.getX a).toNat x) : BankForm s (.bmode d a b) d 1 (· = s)
  | modeUnknown (d a b : Reg) (x : Bank) (h : NamedBank s (s.getX a).toNat x) (hb : 3 ≤ (s.getX b).toNat) :
      BankForm s (.bmode d a b) d 2 (· = s)
  | modeSame (d a b : Reg) (x : Bank) (h : NamedBank s (s.getX a).toNat x) (hm : ModeCode x.mode (s.getX b).toNat) :
      BankForm s (.bmode d a b) d 0 (· = s)
  | modeChange (d a b : Reg) (x : Bank) (m : BankMode) (h : NamedBank s (s.getX a).toNat x) (hm : ModeCode m (s.getX b).toNat)
      (other : x.mode ≠ m) (idle : BankIdle s x) (quiet : s.h.ms.storeQ = [] ∧ s.h.ms.fabricQ = []) (canonical : s.dev.mem.wf = true) :
      BankForm s (.bmode d a b) d 0 fun w =>
        (∀ j, w.dev.mem.get j = if bankBase x ≤ j ∧ j < bankBase x + 0x4000 then 0 else s.dev.mem.get j) ∧
        (∀ e, e ∈ w.dev.errs ↔ e ∈ s.dev.errs ∧ ¬(bankBase x ≤ e.1 ∧ e.1 + e.2 ≤ bankBase x + 0x4000)) ∧
        w = { s with
          h := { s.h with ms := { s.h.ms with bound := [] } }
          dev := { s.dev with
            mem := w.dev.mem
            errs := w.dev.errs
            banks := withBank s x { x with mode := m, trk := false, st := 0, hold := false, fifo := [] } } }
  | slotInvalid (d a b : Reg) (no : ∀ x, NamedBank s (s.getX a).toNat x → x.mode ≠ .scratch) :
      BankForm s (.bslot d a b) d 1 (· = s)
  | slotUnknown (d a b : Reg) (x : Bank) (h : NamedBank s (s.getX a).toNat x) (hm : x.mode = .scratch)
      (hb : 5 ≤ (s.getX b).toNat) : BankForm s (.bslot d a b) d 2 (· = s)
  | slot (d a b : Reg) (x y : Bank) (h : NamedBank s (s.getX a).toNat x) (hm : x.mode = .scratch)
      (op : SlotOp s x (s.getX b).toNat y) (quiet : s.h.ms.storeQ = [] ∧ s.h.ms.fabricQ = []) (once : ∀ z ∈ s.dev.banks,
        z.die = x.die ∧ z.core = x.core ∧ z.num = x.num → z = x) :
      BankForm s (.bslot d a b) d 0 (· = { s with
        h := { s.h with ms := { s.h.ms with bound := [] } }
        dev := { s.dev with banks := withBank s x y } })

/-- BQRY's word (R120). -/
inductive BankWord (s : State) (va : Nat) : Word → Prop where
  | invalid : (∀ x, ¬NamedBank s va x) → BankWord s va 0x8000000000000000
  | status (x : Bank) (n m : Nat) (h : NamedBank s va x) (hm : ModeCode x.mode m) (hn : n = (s.dev.cmds.filter fun c =>
        decide (c.die = x.die ∧ ((x.core, x.num) ∈ c.dbanks ∨ (x.core, x.num) ∈ c.sbanks))).length)
      (fits : x.fifo.length ≤ 128 ∧ n < 256 ∧ x.st < 4) :
      BankWord s va ((BitVec.ofNat 8 x.fifo.length ++ BitVec.ofNat 8 n ++ (0 : BitVec 1) ++ BitVec.ofBool x.hold ++ BitVec.ofBool x.trk ++
        BitVec.ofNat 2 x.st ++ (0 : BitVec 1) ++ BitVec.ofNat 2 m).setWidth 64)

/-- The limits of FPUSH and FPOP (R121). -/
def FifoLimits (s : State) (v : Reg) : Prop := s.h.vc.vstart = 0 ∧ s.h.vc.vl * s.h.ew = 1024 ∧ v.val % s.h.grp = 0

/-- Line `k` of a range that starts at `xa` (R122). -/
def rangeLine (xa k : Nat) : Nat := (xa / 128 * 128 + 128 * k) % 2 ^ 64

/-- Lines that a range overlaps (R122). -/
def linesOf (xa xb : Nat) : Nat := if xb = 0 then 0 else (xa + xb + 127) / 128 - xa / 128

/-! ### Copy engines -/

/-- Forms of CPY, and whether X(xc + 1) is read (R126). -/
inductive Copy : Instr → CpyForm → Reg → Reg → Reg → Reg → BitVec 2 → Bool → Prop where
  | lin (d a b c : Reg) (e : BitVec 2) : Copy (.cpyLin d a b c e) .lin d a b c e false
  | twoD (d a b c : Reg) (e : BitVec 2) : Copy (.cpy2d d a b c e) .twoD d a b c e true
  | gath (d a b c : Reg) (e : BitVec 2) : Copy (.cpyGath d a b c e) .gath d a b c e true
  | conv (d a b c : Reg) (e : BitVec 2) : Copy (.cpyConv d a b c e) .conv d a b c e true
  | fill (d a b c : Reg) (e : BitVec 2) : Copy (.cpyFill d a b c e) .fill d a b c e false

/-- Commands of two owners, engines or numbers differ. -/
abbrev SameCmd (c x : Cmd) : Prop := c.owner = x.owner ∧ c.eng = x.eng ∧ c.num = x.num

/-- The command that a CPY makes from what the hart holds at issue (R124, R129), without the lines it takes. -/
def captured (s : State) (form : CpyForm) (a b c : Reg) (e : BitVec 2) (aux : Word) : Cmd :=
  { owner := ⟨s.h.id.gang.toNat, s.h.id.rank⟩
    pc := s.h.pc
    die := s.h.id.hartid.toNat / 256
    core := s.h.id.hartid.toNat / 4 % 64
    eng := e.toNat
    num := s.h.sy.cseq[e.toFin] + 1
    form := form
    dst := s.getX a
    src := s.getX b
    cnt := s.getX c
    aux := aux
    tenant := s.h.id.tenant
    root := s.h.hr.ptroot
    asid := s.h.hr.asid
    fmt := s.h.f.fmt[Fin.ofNat 12 (3 * (aux.toNat % 4))]
    fmtB := s.h.f.fmt[Fin.ofNat 12 (3 * (aux.toNat % 4) + 1)]
    fmtS := s.h.f.fmt[Fin.ofNat 12 (3 * (aux.toNat % 4) + 2)]
    frm := s.h.f.frm
    fen := s.h.f.fen
    rkey := s.h.f.rkey
    rctrl := s.h.f.rctrl
    rctrh := s.h.f.rctrh
    hartid := s.h.id.hartid
    gangsz := s.h.id.gangsz
    rank := s.h.id.rank }

/-- COUNT and RB (R126). -/
def countOfCmd (c : Cmd) : Nat := if c.form = .gath then c.cnt.toNat % 2 ^ 32 else c.cnt.toNat
def rowBytes (c : Cmd) : Nat := if c.form = .gath then c.cnt.toNat / 2 ^ 32 % 2 ^ 16 else c.aux.toNat % 2 ^ 16

/-- Row `k` of the destination of a 2D (R127). -/
def dstRow (c : Cmd) (k : Nat) : Nat := (c.dst + BitVec.ofNat 64 k * (c.aux.extractLsb' 16 24).signExtend 64).toNat
def srcRow (c : Cmd) (k : Nat) : Nat := (c.src + BitVec.ofNat 64 k * (c.aux.extractLsb' 40 24).signExtend 64).toNat

/-- What a CONV is to convert with (R126, R154). -/
def convDesc (c : Cmd) : Desc := ⟨c.fmt.toNat, c.fmtB, c.fmtS⟩

/-- The destination bytes of a command (R127, R130). Of a narrowing CONV: one without a trailer whose scales are not
computed. -/
inductive Covers (c : Cmd) : Nat → Prop where
  | lin (o : Nat) (h : c.form = .lin ∨ c.form = .fill) (ho : o < countOfCmd c) : Covers c ((c.dst.toNat + o) % 2 ^ 64)
  | twoD (k j : Nat) (h : c.form = .twoD) (hk : k < countOfCmd c) (hj : j < rowBytes c) :
      Covers c ((dstRow c k + j) % 2 ^ 64)
  | gath (o : Nat) (h : c.form = .gath) (ho : o < countOfCmd c * rowBytes c) : Covers c ((c.dst.toNat + o) % 2 ^ 64)
  | widen (o : Nat) (h : c.form = .conv) (dir : c.aux.getLsbD 2 = false)
      (ho : o < countOfCmd c * (if c.aux.getLsbD 3 then 4 else 2)) : Covers c ((c.dst.toNat + o) % 2 ^ 64)
  | narrow (o : Nat) (h : c.form = .conv) (dir : c.aux.getLsbD 2 = true)
      (ho : o < (countOfCmd c * (convDesc c).fmt.container + 7) / 8) : Covers c ((c.dst.toNat + o) % 2 ^ 64)

/-- Why a CPY with a count is refused, with its code (R126, R128). -/
inductive RefusedField (c : Cmd) : Prop where
  | rows (h : c.form = .twoD ∨ c.form = .gath) (rb : rowBytes c = 0)
  | reserved (h : c.form = .gath) (r : c.cnt.toNat / 2 ^ 48 ≠ 0)
  | table (h : c.form = .gath) (r : c.aux.toNat % 4 ≠ 0)
  | conv (h : c.form = .conv) (r : c.aux.toNat / 2 ^ 4 ≠ 0)

/-- The lines that a command takes, rising, each once, and their places (R128, R131). -/
structure Takes (s : State) (c : Cmd) (lines : List Nat) (place : Nat → Nat) : Prop where
  exact : ∀ l, l ∈ lines ↔ ∃ va, Covers c va ∧ va / 128 = l
  rising : lines.Pairwise (· < ·)
  few : lines.length ≤ 8192
  mapped : ∀ va, Covers c va → ∃ l loc, Mapped s va .store l loc ∧ loc.key / 128 = place (va / 128) ∧
    s.dev.owned loc.key = false
  room : (s.dev.cmds.filter fun x => decide (x.die = c.die ∧ x.core = c.core ∧ x.eng = c.eng)).length < 16 ∧
    ((s.dev.cmds.filter fun x => decide (x.die = c.die ∧ x.core = c.core ∧ x.eng = c.eng)).map fun x => x.lines.length).sum +
      lines.length ≤ 16384
  sources : c.form = .gath ∨ c.form = .fill ∨ ∀ l ∈ Machine.linesOf c.sources, inWindow (l * 128) = false

/-- A command may be issued, its fields being in range (R126-R128). -/
structure Issuable (s : State) (c : Cmd) : Prop where
  count : countOfCmd c ≠ 0
  fields : ¬RefusedField c
  conv : c.form = .conv → (convDesc c).valid = true ∧ (c.aux.getLsbD 2 = true →
    (convDesc c).trl = false ∧ (convDesc c).smode ≠ 1)
  quiet : s.h.ms.storeQ = [] ∧ s.h.ms.fabricQ = [] ∧ s.h.ms.strip = none

/-- The counter behind a narrowing CONV with stochastic rounding, which uses a step for four elements (R130). -/
def counterAfter (s : State) (c : Cmd) : BitVec 128 :=
  (s.h.f.rctrh ++ s.h.f.rctrl) + if c.form = .conv ∧ c.aux.getLsbD 2 = true ∧ (convDesc c).rnd = 2 then
    BitVec.ofNat 128 ((countOfCmd c + 3) / 4) else 0

/-- DONE(e) of the moving hart (R124): outstanding commands and cancelled ones are not complete. -/
inductive DoneIs (s : State) (e : BitVec 2) : Nat → Prop where
  | all (h : ∀ c ∈ s.dev.cmds, ¬(c.owner = ⟨s.h.id.gang.toNat, s.h.id.rank⟩ ∧ c.eng = e.toNat))
      (g : ∀ g ∈ s.dev.gangs, g.id = s.h.id.gang.toNat → g.savedCmds = []) : DoneIs s e (s.h.sy.cseq[e.toFin]).toNat
  | upTo (c : Cmd) (hc : c ∈ s.dev.cmds) (mine : c.owner = ⟨s.h.id.gang.toNat, s.h.id.rank⟩ ∧ c.eng = e.toNat)
      (first : ∀ x ∈ s.dev.cmds, x.owner = c.owner → x.eng = c.eng → c.num.toNat ≤ x.num.toNat)
      (issued : c.num.toNat ≤ (s.h.sy.cseq[e.toFin]).toNat)
      (g : ∀ g ∈ s.dev.gangs, g.id = s.h.id.gang.toNat → g.savedCmds = []) : DoneIs s e (c.num.toNat - 1)

/-- The page at `va` translates for an access of kind `k` with what the command has captured, to local memory or a bank
(R124, R131, R132). -/
def EngineMaps (s : State) (c : Cmd) (va : Nat) (k : Kind) (loc : Loc) : Prop :=
  va < 2 ^ 52 ∧ inWindow va = false ∧ s.oracle = [] ∧ ∃ l : Leaf, s.walk c.tenant c.root va = .ok l ∧ allowed l.pte k = true ∧
    l.tiered = false ∧ bits (s.dev.mem.getNat l.ptea 8) 6 1 = 1 ∧ (k = .store → bits l.pte 7 1 = 1) ∧
    loc = (l.loc s c.ctx va).2 ∧ s.dev.grants c.tenant (l.loc s c.ctx va).1 k = true ∧ loc.attr < 2 ∧
    (regionOf loc.key = .hbm ∨ regionOf loc.key = .cxl)

/-- The banks after a command has left the engine: a tracked bank that it names, and that no other command names, goes from
FILLING to READY unless HOLD = 1, or from DRAINING to EMPTY (R114, R133). -/
def BanksCompleted (s u : State) (c : Cmd) : Prop :=
  u.dev.banks.length = s.dev.banks.length ∧ ∀ (j : Nat) (b : Bank), s.dev.banks[j]? = some b →
    ((b.die = c.die ∧ b.trk = true ∧ BankIdle u b) ∧ (b.core, b.num) ∈ c.dbanks ∧ b.st = 1 ∧ b.hold = false →
      u.dev.banks[j]? = some { b with st := 2 }) ∧
    ((b.die = c.die ∧ b.trk = true ∧ BankIdle u b) ∧ (b.core, b.num) ∈ c.sbanks ∧ b.st = 3 → u.dev.banks[j]? = some { b with st := 0 }) ∧
    (¬((b.die = c.die ∧ b.trk = true ∧ BankIdle u b) ∧ ((b.core, b.num) ∈ c.dbanks ∧ b.st = 1 ∧ b.hold = false ∨
      (b.core, b.num) ∈ c.sbanks ∧ b.st = 3)) → u.dev.banks[j]? = some b)

/-- The command `c` is the first of its engine's queue, and no other has its name (R124); no row of its GATH lies in a tracked bank
(R128). -/
def Runs (s : State) (c : Cmd) : Prop :=
  (s.dev.cmds.find? fun x => x.die == c.die && x.core == c.core && x.eng == c.eng) = some c ∧
  (∀ x ∈ s.dev.cmds, SameCmd x c → x = c) ∧ (∀ g ∈ s.dev.gangs, ∀ x ∈ g.savedCmds, ¬SameCmd x c) ∧ s.rowFault c = none

/-- The commands of the device with `c` changed. -/
def cmdsWith (s : State) (c c' : Cmd) : List Cmd := s.dev.cmds.map fun x => if SameCmd x c then c' else x

/-- Commands other than `c`. -/
def cmdsWithout (s : State) (c : Cmd) : List Cmd := s.dev.cmds.filter fun x => !decide (x.owner = c.owner ∧ x.eng = c.eng ∧ x.num = c.num)

/-- The value that the command writes into the byte at `va` (R127), none for a byte outside its destination; source bytes
are as the engine has read them. -/
inductive CopyByte (c : Cmd) (va : Nat) : Option Byte → Prop where
  | lin (o : Nat) (h : c.form = .lin) (ho : o < countOfCmd c) (hv : va = (c.dst.toNat + o) % 2 ^ 64) :
      CopyByte c va (some (c.byteAt ((c.src.toNat + o) % 2 ^ 64)))
  | fill (o : Nat) (h : c.form = .fill) (ho : o < countOfCmd c) (hv : va = (c.dst.toNat + o) % 2 ^ 64) :
      CopyByte c va (some (c.src.extractLsb' (8 * (va % 8)) 8))
  | twoD (k j : Nat) (h : c.form = .twoD) (hk : k < countOfCmd c) (hj : j < rowBytes c) (hv : va = (dstRow c k + j) % 2 ^ 64)
      (top : ∀ q r, k < q → q < countOfCmd c → r < rowBytes c → va ≠ (dstRow c q + r) % 2 ^ 64) :
      CopyByte c va (some (c.byteAt ((srcRow c k + j) % 2 ^ 64)))
  | gath (k j : Nat) (h : c.form = .gath) (hk : k < countOfCmd c) (hj : j < rowBytes c)
      (hv : va = (c.dst.toNat + k * rowBytes c + j) % 2 ^ 64) :
      CopyByte c va (some (c.byteAt ((c.src.toNat + c.idx k * rowBytes c + j) % 2 ^ 64)))
  | none' (h : ¬Covers c va) : CopyByte c va none

/-- Steps of an engine, with what they leave (R114, R132, R133, R135, R136). -/
inductive EngineEvent (s : State) (c : Cmd) : Instr → (State → Prop) → Prop where
  /-- R132: a source line is read, as it stands at its home. -/
  | read (n l va : Nat) (loc : Loc) (bs : List Byte) (run : Runs s c) (hl : c.unread[n]? = some l)
      (hv : va = lowestByte (c.sources ++ c.gathRows) l) (m : EngineMaps s c va .load loc)
      (intact : s.dev.bad (loc.key / 128 * 128) 128 = false)
      (hb : bs.length = 128 ∧ ∀ j < 128, (bs[j]?).getD 0 = s.dev.mem.get (loc.key / 128 * 128 + j)) (more : c.lines ≠ []) :
      EngineEvent s c (.read c.die c.core c.eng n)
        (· = { s with dev := { s.dev with cmds := cmdsWith s c { c with got := (l, bs) :: c.got, map := loc.map :: c.map } } })
  /-- R133: a destination line is written once its command has read all it needs; with the last one the command
  completes. -/
  | write (n key l : Nat) (run : Runs s c) (form : c.form ≠ .conv) (read : c.unread = []) (hl : c.lines[n]? = some (key, l))
      (home : regionOf (key * 128) = .hbm ∨ regionOf (key * 128) = .cxl ∨ regionOf (key * 128) = .bank)
      (canonical : s.dev.mem.wf = true ∧ s.dev.writeWatch = []) (line : l < 2 ^ 57) :
      EngineEvent s c (.write c.die c.core c.eng n) fun u =>
        (∀ j < 128, ∀ v, CopyByte c (l * 128 + j) v → u.dev.mem.get (key * 128 + j) = v.getD (s.dev.mem.get (key * 128 + j))) ∧
        (∀ j, j / 128 ≠ key → u.dev.mem.get j = s.dev.mem.get j) ∧
        (∃ f : Hart → Hart, u.h = f s.h ∧ u.others = s.others.map f ∧ ∀ h, (h.ms.bound = [] → f h = evented (key * 128) h) ∧
          f h = { evented (key * 128) h with ms := { h.ms with bound := (f h).ms.bound } }) ∧
        (c.lines.erase (key, l) ≠ [] → u.dev.cmds = cmdsWith s c { c with lines := c.lines.erase (key, l) } ∧
          u.dev.banks = s.dev.banks) ∧
        (c.lines.erase (key, l) = [] → u.dev.cmds = cmdsWithout s c ∧ BanksCompleted s u c)
  /-- R135: a source line does not translate: the command completes with the failure, and what it has not written stays. -/
  | fail (n l va : Nat) (x : Cause) (f : Hart → Hart) (run : Runs s c) (form : c.form ≠ .conv) (hl : c.unread[n]? = some l)
      (hv : va = lowestByte (c.sources ++ c.gathRows) l) (low : va < 2 ^ 52 ∧ inWindow va = false) (choice : s.oracle = [])
      (fault : s.walk c.tenant c.root va = .error (.cause x))
      (mine : ∀ h, h.id.gang.toNat = c.owner.gang ∧ h.id.rank = c.owner.rank ∧ h.status ≠ .vacant →
        h.sy.fail[Fin.ofNat 4 c.eng] = none → f h = { h with sy := { h.sy with
          fail := h.sy.fail.set (Fin.ofNat 4 c.eng) (some { num := c.num, cause := x, addr := BitVec.ofNat 64 va }) } })
      (full : ∀ h r, h.id.gang.toNat = c.owner.gang ∧ h.id.rank = c.owner.rank ∧ h.status ≠ .vacant →
        h.sy.fail[Fin.ofNat 4 c.eng] = some r → f h = { h with db := { h.db with counter := h.db.counter.set 1 (BitVec.ofNat 64 (min (h.db.counter[1].toNat + 1) (2 ^ 64 - 1))) } })
      (other : ∀ h, ¬(h.id.gang.toNat = c.owner.gang ∧ h.id.rank = c.owner.rank ∧ h.status ≠ .vacant) → f h = h) :
      EngineEvent s c (.cpyFail c.die c.core c.eng n) fun u =>
        u = { s with
          h := f s.h
          others := s.others.map f
          dev := { s.dev with cmds := cmdsWithout s c, banks := u.dev.banks } } ∧ BanksCompleted s u c
  /-- R136: a cancelled command is issued again with its own number, at the place where its hart now is; with the last one
  the harts of the gang run. -/
  | reissue (g : Gang) (rest : List Cmd) (o : Hart) (place : Nat → Nat) (f : Hart → Hart)
      (hg : (s.dev.gangs.find? fun x => x.id == g.id) = some g) (once : (s.dev.gangs.map fun x => x.id).Nodup)
      (hc : g.savedCmds = c :: rest) (back : g.saved = false ∧ g.stopReq = none) (own : c.owner.gang = g.id)
      (names : ∀ x ∈ rest, ¬SameCmd x c)
      (ho : ((s.h :: s.others).find? fun h => decide (h.id.gang.toNat = c.owner.gang ∧ h.id.rank = c.owner.rank ∧ h.status ≠ .vacant)) = some o)
      (idle : s.dev.cmds = []) (few : (Machine.linesOf c.dests).length ≤ 16384)
      (maps : ∀ l ∈ Machine.linesOf c.dests, ∃ loc, EngineMaps s c (lowestByte c.dests l) .store loc ∧ loc.key / 128 = place l)
      (pages : ∀ l ∈ Machine.linesOf c.dests, ∀ k ∈ Machine.linesOf c.dests, l / 512 = k / 512 → place l + k = place k + l)
      (plain : ∀ l ∈ Machine.linesOf c.dests ++ Machine.linesOf c.sources, inWindow (l * 128) = false)
      (run : ∀ h, f h = if rest = [] ∧ h.id.gang.toNat = g.id ∧ h.status = .stopped then { h with status := .running } else h) :
      EngineEvent s c (.cpyReissue g.id) fun u => ∃ (m : List Mapping) (k : Gang → Gang),
        k g = { g with savedCmds := rest } ∧ (∀ x, x.id ≠ g.id → k x = x) ∧
        u = { s with
          h := f s.h
          others := s.others.map f
          dev := { s.dev with
            gangs := s.dev.gangs.map k
            cmds := [{ c with
              die := o.id.hartid.toNat / 256
              core := o.id.hartid.toNat / 4 % 64
              hartid := o.id.hartid
              lines := (Machine.linesOf c.dests).map fun l => (place l, l)
              map := m
              dbanks := []
              sbanks := [] }] } }

/-! ### Key-value instructions -/

/-- Nothing of a KV instruction is done and nothing splits it; the hart's older stores are performed, no line is
monitored or watched, no load has bound ahead, no byte is in error. -/
structure KvFresh (s : State) : Prop where
  strip : s.h.ms.strip = none
  start : s.h.vc.vstart = 0 ∧ ∀ x ∈ s.h.sy.units, x.pc ≠ s.h.pc
  queues : s.h.ms.storeQ = [] ∧ s.h.ms.fabricQ = []
  choices : s.oracle = []
  canonical : s.dev.mem.wf = true
  monitors : NoMonitors s
  sound : s.dev.errs = []

/-- The stash of the hart's core (R74); an empty one where the device lists none. -/
def coreStash (w : State) : Stash :=
  (w.dev.stashes.find? fun x => x.die == w.h.id.hartid.toNat / 256 && x.core == w.h.id.hartid.toNat / 4 % 64).getD
    { die := w.h.id.hartid.toNat / 256, core := w.h.id.hartid.toNat / 4 % 64 }

/-- A stash behind a KV instruction of a hart of tenant `t` (R74): it asks for a refill when fewer than 8 IDs are left and
none is outstanding. One without an ID is then that tenant's, the model's choice (notes/assumptions/30.md). -/
def leftStash (t : Nat) (x : Stash) : Stash :=
  if x.asked ≠ 0 ∨ 8 ≤ x.ids.length then x
  else if x.ids = [] then { x with tenant := t, dry := x.dry && decide (x.tenant = t), asked := 32, askedFor := t }
  else { x with asked := 32 - x.ids.length, askedFor := x.tenant }

/-- `v` is `w` as a KV instruction leaves it: the stash of its core alone differs. -/
structure KvLeft (w v : State) : Prop where
  stashes : v.dev.stashes =
    if w.dev.stashes.any fun x => x.die == (coreStash w).die && x.core == (coreStash w).core then
      w.dev.stashes.map fun x => if x.die = (coreStash w).die ∧ x.core = (coreStash w).core
        then leftStash w.h.id.tenant (coreStash w) else x
    else w.dev.stashes ++ [leftStash w.h.id.tenant (coreStash w)]
  tenants : ∀ n, v.dev.tenant n = w.dev.tenant n
  rest : v = { w with dev := { w.dev with stashes := v.dev.stashes, tenants := v.dev.tenants } }

/-- `t` is `w`, gone on behind a KV instruction of `s` (R74, R77): the stash is left, VSTART is 0, no load stays bound. -/
def DoneKv (s w t : State) : Prop :=
  GoesOn s t 4 ∧ ∃ v, KvLeft w v ∧ t = { v with h := { w.h with
    pc := t.h.pc
    pcHi := t.h.pcHi
    lp := t.h.lp
    vc := { w.h.vc with vstart := 0, ecm := 0 }
    ms := { w.h.ms with bound := [] }
    sy := { w.h.sy with fromElem := none } } }

/-- The `n` bytes at `va` stand at location `k` of local memory and may be read, and written where `w` says so. -/
def Lies (s : State) (va n k : Nat) (w : Bool) : Prop :=
  va % n = 0 ∧ ∃ l c, Mapped s va .load l c ∧ c.key = k ∧ AtHome s c n ∧ (w = true → ∃ l', Mapped s va .store l' c)

/-- Every byte from `va` on may be read and written, byte `j` at location `loc j`; no two stand at one place. -/
def Spread (s : State) (va n : Nat) (loc : Nat → Nat) : Prop :=
  (∀ j < n, ∃ l l' c, Mapped s (va + j) .load l c ∧ Mapped s (va + j) .store l' c ∧ c.key = loc j ∧ AtHome s c 1) ∧
  ∀ i < n, ∀ j < n, loc i = loc j → i = j

/-- The little-endian number in the `n` bytes of `m` from `k` on (R3). -/
def numAt (m : Nat → Byte) (k n : Nat) : Nat := ((List.range n).map fun j => (m (k + j)).toNat * 256 ^ j).sum

/-- The bytes at their home. -/
def homes (s : State) (k : Nat) : Byte := s.dev.mem.get k

/-- `u` is `s` with other memory contents, and what the model keeps beside them: a tick, the metadata lines known. -/
def MemOnly (s u : State) : Prop :=
  u = { s with tick := u.tick, dev := { s.dev with mem := u.dev.mem, kvLines := u.dev.kvLines } }

/-- A sequence's descriptor (R68). -/
structure Sequence where
  pool : Nat
  bt : Nat
  slab : Nat
  len : Nat
  dlen : Nat
  dhead : Nat
  layers : Nat
  heads : Nat
  d : Nat
  kfmt : Nat
  vfmt : Nat
  chk : Bool
  ne : Nat
  poolsz : Nat
  caplen : Nat

def sequenceOf (w : Nat) : Sequence :=
  { pool := w % 2 ^ 64
    bt := w / 2 ^ 64 % 2 ^ 64
    slab := w / 2 ^ 128 % 2 ^ 64
    len := w / 2 ^ 192 % 2 ^ 32
    dlen := w / 2 ^ 224 % 2 ^ 7
    dhead := w / 2 ^ 232 % 2 ^ 6
    layers := w / 2 ^ 240 % 2 ^ 12 + 1
    heads := w / 2 ^ 252 % 2 ^ 8 + 1
    d := 64 * 2 ^ (w / 2 ^ 260 % 4)
    kfmt := w / 2 ^ 262 % 2
    vfmt := w / 2 ^ 263 % 2
    chk := w.testBit 264
    ne := w / 2 ^ 288 % 2 ^ 16
    poolsz := w / 2 ^ 320 % 2 ^ 32
    caplen := w / 2 ^ 352 % 2 ^ 32 }

/-- Reserved fields are 0, DIM is not 3, DLEN is at most 64 (R68). -/
def LegalSeq (w : Nat) : Prop :=
  (∀ i, (i = 231 ∨ i = 238 ∨ i = 239 ∨ (265 ≤ i ∧ i < 288) ∨ (304 ≤ i ∧ i < 320) ∨ 384 ≤ i) → w.testBit i = false) ∧
  w / 2 ^ 260 % 4 ≠ 3 ∧ w / 2 ^ 224 % 2 ^ 7 ≤ 64

/-- The descriptor at `va` is legal, stands at location `k` and holds `w`. -/
def SeqAt (s : State) (va w k : Nat) (wr : Bool) : Prop :=
  Lies s va 64 k wr ∧ w = numAt (homes s) k 64 ∧ LegalSeq w

/-- A field of `n` bits from bit `o` on of a record replaced. -/
def withField (w o n x : Nat) : Nat := w - w / 2 ^ o % 2 ^ n * 2 ^ o + x % 2 ^ n * 2 ^ o

/-- The bytes from `k` on hold `w`, every other byte what `m` says. -/
def patched (m : Nat → Byte) (k n w : Nat) (j : Nat) : Byte := if k ≤ j ∧ j < k + n then BitVec.ofNat 8 (w / 256 ^ (j - k)) else m j

namespace Sequence
variable (q : Sequence)
def chunk : Nat := 128 * ((q.d + 127) / 128)
def keyAt : Nat := 128 + q.chunk
def vscAt : Nat := q.keyAt + 32 * q.d
def valAt : Nat := q.vscAt + q.chunk
def trlAt : Nat := q.valAt + 32 * q.d
def stride : Nat := q.trlAt + 128
def block (i : Nat) : Nat := (q.pool + i * q.stride) % 2 ^ 64
def entry (l h e : Nat) : Nat := (q.bt + ((l * q.heads + h) * q.ne + e) * 4) % 2 ^ 64
def draft (l h j : Nat) : Nat := (q.slab + ((l * q.heads + h) * 64 + (q.dhead + j) % 64) * (4 * q.d)) % 2 ^ 64
end Sequence

/-- The pair that a selector without SCOPE names is one of the sequence (R69), with D and PART where they are used. -/
def OnePair (q : Sequence) (x l h : Nat) (draft : Bool) (part : Nat) : Prop :=
  x = l + h * 2 ^ 16 + part * 2 ^ 24 + draft.toNat * 2 ^ 26 ∧ l < q.layers ∧ h < q.heads ∧ part < 4 ∧ (draft = true → part < 2)

/-- The ones of a survivor bitmap below bit `o` (R70). -/
def onesBelow (x o : Nat) : Nat := ((List.range o).filter fun i => x.testBit i).length

/-- The metadata at location `k` is what KV instructions have written, and nothing else has written it since (R65). -/
def KnownMeta (s : State) (k : Nat) : Prop := k / 128 ∈ s.dev.kvLines ∧ k / 128 ∉ s.dev.kvForeign

/-- The metadata of a block (R65) may be read at location `k` and is `m`. -/
def MetaAt (s : State) (va k m : Nat) : Prop := Lies s va 16 k false ∧ m = numAt (homes s) k 16 ∧ KnownMeta s k

/-- How a position of a pair translates (R70, R79): an address, or none where it is absent. -/
inductive Translated (s : State) (q : Sequence) (l h part p : Nat) : Bool → Option Nat → Prop where
  | draft : p < 64 → Translated s q l h part p true (some ((q.draft l h p + if part = 1 then 2 * q.d else 0) % 2 ^ 64))
  | beyond : q.len ≤ p ∨ q.ne ≤ p / 32 → Translated s q l h part p false none
  | noBlock (k : Nat) : p < q.len → p / 32 < q.ne → Lies s (q.entry l h (p / 32)) 4 k false →
      numAt (homes s) k 4 = 0xFFFFFFFF ∨ numAt (homes s) k 4 = 0xFFFFFFFE → Translated s q l h part p false none
  | evicted (k i km m : Nat) : p < q.len → p / 32 < q.ne → Lies s (q.entry l h (p / 32)) 4 k false →
      numAt (homes s) k 4 = i → i < 0xFFFFFFFE → i < q.poolsz → MetaAt s (q.block i) km m → m.testBit (p % 32) = false →
      Translated s q l h part p false none
  | present (k i km m : Nat) : p < q.len → p / 32 < q.ne → Lies s (q.entry l h (p / 32)) 4 k false →
      numAt (homes s) k 4 = i → i < 0xFFFFFFFE → i < q.poolsz → MetaAt s (q.block i) km m → m.testBit (p % 32) = true →
      Translated s q l h part p false (some ((q.block i + (match part with
        | 0 => q.keyAt + onesBelow m (p % 32) * q.d
        | 1 => q.valAt + onesBelow m (p % 32) * q.d
        | 2 => 128
        | _ => q.vscAt + onesBelow m (p % 32) * (q.d / 32))) % 2 ^ 64))

/-- A key whose magnitude lies above the range of its channel's scale byte `b`, which can still rise (R72). -/
def Above (kf b : Nat) : FVal → Prop
  | .inf _ => b < 254
  | .nan _ => False
  | .fin v => b < 254 ∧ ¬v.absLe { (kvFmt kf).fmax with e := (kvFmt kf).fmax.e + b - 127 } = true

/-- The CRC of a block's bytes (R66). -/
def blockCrc (q : Sequence) (B : Nat → Byte) : Nat :=
  crc32c (((List.range 16).map B) ++ ((List.range q.d).map fun j => B (128 + j)) ++
    (List.range (onesBelow (numAt B 0 4) 32)).flatMap fun t =>
      ((List.range q.d).map fun j => B (q.keyAt + t * q.d + j)) ++ ((List.range q.d).map fun j => B (q.valAt + t * q.d + j)) ++
      (List.range (q.d / 32)).map fun j => B (q.vscAt + t * (q.d / 32) + j))

/-- What an append at packed slot `n` makes of channel `ch` of the keys of a block: scale byte, codes (R71, R72). -/
structure KeyChannel (q : Sequence) (n : Nat) (x : FVal) (ch : Nat) (B B' : Nat → Byte) (rescale : Bool) : Prop where
  rescales : rescale = true ↔ (B 4).toNat % 64 ≠ 0 ∧ Above q.kfmt (B (128 + ch)).toNat x
  scale : B' (128 + ch) = if (B 4).toNat % 64 = 0 ∨ rescale = true
    then BitVec.ofInt 8 (scaleExp (kvFmt q.kfmt).fmax x + 127) else B (128 + ch)
  code : B' (q.keyAt + n * q.d + ch) = BitVec.ofNat 8 ((kvFmt q.kfmt).quant x ((B' (128 + ch)).toNat - 127)).1
  older : ∀ t < n, if rescale = true
    then ∃ y, (kvFmt q.kfmt).decode (B (q.keyAt + t * q.d + ch)).toNat ((B (128 + ch)).toNat - 127) = some y ∧
      B' (q.keyAt + t * q.d + ch) = BitVec.ofNat 8 ((kvFmt q.kfmt).round { y with e := y.e - ((B' (128 + ch)).toNat - 127) }).1
    else B' (q.keyAt + t * q.d + ch) = B (q.keyAt + t * q.d + ch)

/-- Value group `g` of an append (R72): its scale byte and its codes. -/
structure ValueGroup (q : Sequence) (n : Nat) (val : Nat → FVal) (g : Nat) (B' : Nat → Byte) : Prop where
  scale : B' (q.vscAt + n * (q.d / 32) + g) =
    BitVec.ofInt 8 (scaleExp (kvFmt q.vfmt).fmax (maxMagnitude ((List.range 32).map fun i => val (32 * g + i))) + 127)
  codes : ∀ i < 32, B' (q.valAt + n * q.d + 32 * g + i) = BitVec.ofNat 8 ((kvFmt q.vfmt).quant (val (32 * g + i))
    ((B' (q.vscAt + n * (q.d / 32) + g)).toNat - 127)).1

/-- An append of one token at offset `o` of a block (R72): its bytes before and after, by offset; `n` is the packed slot.
What MAXMAG becomes is left out. -/
structure Appended (q : Sequence) (n o : Nat) (key val : Nat → FVal) (B B' : Nat → Byte) (rescale : Nat → Bool) : Prop where
  meta' : numAt B' 0 16 = withField (withField (withField (numAt B 0 16) 0 32 (numAt B 0 4 ||| 2 ^ o)) 32 6 (o + 1)) 64 16
    (min (numAt B 8 2 + ((List.range q.d).filter rescale).length) 0xFFFF)
  keys : ∀ ch < q.d, KeyChannel q n (key ch) ch B B' (rescale ch)
  values : ∀ g < q.d / 32, ValueGroup q n val g B'
  saturated : numAt B' (q.trlAt + 4) 4 = min (numAt B (q.trlAt + 4) 4 +
    ((List.range q.d).filter fun ch => ((kvFmt q.kfmt).quant (key ch) ((B' (128 + ch)).toNat - 127)).2).length +
    ((List.range q.d).filter fun ch => ((kvFmt q.vfmt).quant (val ch)
      ((B' (q.vscAt + n * (q.d / 32) + ch / 32)).toNat - 127)).2).length) 0xFFFFFFFF
  crc : numAt B' (q.trlAt + 8) 4 = blockCrc q B'
  rest : ∀ j, 16 ≤ j → ¬(128 ≤ j ∧ j < 128 + q.d) → ¬(q.keyAt ≤ j ∧ j < q.keyAt + (n + 1) * q.d) →
    ¬(q.vscAt + n * (q.d / 32) ≤ j ∧ j < q.vscAt + (n + 1) * (q.d / 32)) →
    ¬(q.valAt + n * q.d ≤ j ∧ j < q.valAt + (n + 1) * q.d) → ¬(q.trlAt ≤ j ∧ j < q.trlAt + 12) → B' j = B j

/-- A block that an append at offset `o` may take (R72), whose bytes stand where `loc` says: `n` slots in use; where CHK is
1 its CRC is right; where a key rescales, every older code of the channel is one that quantisation gives. -/
structure Takeable (s : State) (q : Sequence) (va n o : Nat) (key : Nat → FVal) (loc : Nat → Nat) : Prop where
  bytes : Spread s va q.stride loc
  known : KnownMeta s (loc 0)
  single : numAt (homes s ∘ loc) 0 16 / 2 ^ 40 % 2 ^ 12 = 1
  fill : o < 32 ∧ (homes s (loc 4)).toNat % 64 = o
  used : n = onesBelow (numAt (homes s ∘ loc) 0 4) 32 ∧ ∀ i < 32, (numAt (homes s ∘ loc) 0 4).testBit i = true → i < o
  checked : q.chk = true → numAt (homes s ∘ loc) (q.trlAt + 8) 4 = blockCrc q (homes s ∘ loc)
  codes : ∀ ch < q.d, Above q.kfmt (homes s (loc (128 + ch))).toNat (key ch) → ∀ t < n,
    ((kvFmt q.kfmt).decode (homes s (loc (q.keyAt + t * q.d + ch))).toNat ((homes s (loc (128 + ch))).toNat - 127)).isSome = true

/-- After `u` the block at `loc` holds `B'` and the descriptor at `k` holds `w`; every other byte is what it was. -/
structure BlockAndSeq (s u : State) (n : Nat) (loc : Nat → Nat) (B' : Nat → Byte) (k w : Nat) : Prop where
  block : ∀ j < n, homes u (loc j) = B' j
  seq : numAt (homes u) k 64 = w
  rest : ∀ j, (∀ i < n, j ≠ loc i) → ¬(k ≤ j ∧ j < k + 64) → homes u j = homes s j
  only : MemOnly s u

/-- Every entry of a sequence's table: its location `K` and its value `T`. -/
def TableIs (s : State) (q : Sequence) (T K : Nat → Nat → Nat → Nat) (w : Bool) : Prop :=
  ∀ l < q.layers, ∀ h < q.heads, ∀ e < q.ne, Lies s (q.entry l h e) 4 (K l h e) w ∧ T l h e = numAt (homes s) (K l h e) 4 ∧
    (T l h e < q.poolsz ∨ T l h e = 0xFFFFFFFE ∨ T l h e = 0xFFFFFFFF)

/-- The number of leading entry indices that are covered for every pair (R68). -/
def CoveredTo (q : Sequence) (T : Nat → Nat → Nat → Nat) (n : Nat) : Prop :=
  n ≤ q.ne ∧ (∀ e < n, ∀ l < q.layers, ∀ h < q.heads, T l h e < q.poolsz ∨ T l h e = 0xFFFFFFFE) ∧
  (n < q.ne → ∃ l < q.layers, ∃ h < q.heads, ¬(T l h n < q.poolsz ∨ T l h n = 0xFFFFFFFE))

/-- POOL and POOLSZ are those of the tenant's registration (R68). -/
def Registered (s : State) (q : Sequence) : Prop :=
  q.pool = (s.dev.tenant s.h.id.tenant).poolBase ∧ q.poolsz = (s.dev.tenant s.h.id.tenant).poolSize ∧ q.poolsz < 0xFFFFFFFE

/-- The pairs that a selector with SCOPE names (R69). -/
inductive InScope (q : Sequence) (x : Nat) : Nat → Nat → Prop where
  | one (l h : Nat) : OnePair q x l h false 0 → InScope q x l h
  | layer (l h : Nat) : x / 2 ^ 28 = 1 → x % 2 ^ 12 = l → h < q.heads → InScope q x l h
  | all (l h : Nat) : x / 2 ^ 28 = 2 → l < q.layers → h < q.heads → InScope q x l h

/-- A selector with SCOPE that is legal (R69). -/
def LegalScope (q : Sequence) (x : Nat) : Prop :=
  (∃ l h, OnePair q x l h false 0) ∨
  (x / 2 ^ 28 = 1 ∧ x / 2 ^ 24 % 16 = 0 ∧ x / 2 ^ 12 % 16 = 0 ∧ x % 2 ^ 12 < q.layers) ∨
  (x / 2 ^ 28 = 2 ∧ x / 2 ^ 24 % 16 = 0 ∧ x / 2 ^ 12 % 16 = 0)

/-- The one stash of the hart's core (R74) belongs to the hart's tenant. -/
def StashOf (s : State) (x : Stash) : Prop :=
  x ∈ s.dev.stashes ∧ x.die = s.h.id.hartid.toNat / 256 ∧ x.core = s.h.id.hartid.toNat / 4 % 64 ∧ x.tenant = s.h.id.tenant ∧
  ∀ y ∈ s.dev.stashes, y.die = x.die → y.core = x.core → y = x

/-- The stashes with `x` replaced by `y`. -/
def withStash (s : State) (x y : Stash) : List Stash :=
  s.dev.stashes.map fun z => if z.die = x.die ∧ z.core = x.core then y else z

/-- What KVEVICT leaves of a private block without slot `n` (R83): later rows one slot down, the CRC anew. -/
structure Evicted (q : Sequence) (n o : Nat) (B B' : Nat → Byte) : Prop where
  meta' : numAt B' 0 16 = withField (numAt B 0 16) 0 32 (numAt B 0 4 - 2 ^ o)
  keys : ∀ t, n ≤ t → t + 1 < onesBelow (numAt B 0 4) 32 → ∀ j < q.d, B' (q.keyAt + t * q.d + j) = B (q.keyAt + (t + 1) * q.d + j)
  values : ∀ t, n ≤ t → t + 1 < onesBelow (numAt B 0 4) 32 → ∀ j < q.d, B' (q.valAt + t * q.d + j) = B (q.valAt + (t + 1) * q.d + j)
  scales : ∀ t, n ≤ t → t + 1 < onesBelow (numAt B 0 4) 32 → ∀ j < q.d / 32,
    B' (q.vscAt + t * (q.d / 32) + j) = B (q.vscAt + (t + 1) * (q.d / 32) + j)
  crc : numAt B' (q.trlAt + 8) 4 = blockCrc q B'
  rest : ∀ j, 16 ≤ j → ¬(q.keyAt + n * q.d ≤ j ∧ j < q.keyAt + (onesBelow (numAt B 0 4) 32 - 1) * q.d) →
    ¬(q.vscAt + n * (q.d / 32) ≤ j ∧ j < q.vscAt + (onesBelow (numAt B 0 4) 32 - 1) * (q.d / 32)) →
    ¬(q.valAt + n * q.d ≤ j ∧ j < q.valAt + (onesBelow (numAt B 0 4) 32 - 1) * q.d) →
    ¬(q.trlAt + 8 ≤ j ∧ j < q.trlAt + 12) → B' j = B j

/-- KV instructions with their descriptor register, where the ILLEGAL checks of KVXL, KVXLM and KVAPP pass (R79, R80). -/
inductive KvForm (s : State) : Instr → Reg → Prop where
  | kvxl (d a b c : Reg) (h : s.h.ew = 64 ∧ d.val % s.h.grp = 0 ∧ c.val % s.h.grp = 0) : KvForm s (.kvxl d a b c) a
  | kvxlm (d a b c : Reg) (h : s.h.ew = 64 ∧ c.val % s.h.grp = 0) : KvForm s (.kvxlm d a b c) a
  | kvapp (v a b c : Reg) (h : (s.h.ew = 16 ∨ s.h.ew = 32) ∧ v.val % s.h.grp = 0) : KvForm s (.kvapp v a b c) a
  | kvcommit (a b : Reg) : KvForm s (.kvcommit a b) a
  | kvtrunc (a b : Reg) : KvForm s (.kvtrunc a b) a
  | kvevict (d a b c : Reg) : KvForm s (.kvevict d a b c) a
  | kvalloc (d a b : Reg) : KvForm s (.kvalloc d a b) a
  | kvfree (d a b c : Reg) : KvForm s (.kvfree d a b c) a
  | kvfork (d a b : Reg) : KvForm s (.kvfork d a b) a

/-! ### Continuations -/

/-- Slot `c` belongs to the tenant of the hart (R88, R101). -/
def MySlot (s : State) (c : Nat) : Prop := c < 65536 ∧ c / 16 ∈ (s.dev.tenant s.h.id.tenant).crGroups

/-- State codes of R92. -/
inductive SlotState : CrState → Nat → Prop where
  | free : SlotState .free 0
  | open' : SlotState .open 1
  | parked : SlotState .parked 2
  | waking : SlotState .waking 3
  | launched : SlotState .launched 4
  | failed : SlotState .failed 5

/-- First location of a slot's record (R88). -/
def recordAt (s : State) (c : Nat) : Nat := s.dev.crpa + c * 4096

/-- A header with the engine's fields of `y`, its state having code `st` (R89). -/
def headerOf (old : Nat) (y : Cr) (st : Nat) : Nat :=
  [(448, 64, y.wtime), (384, 64, y.ptime), (320, 52, y.root.toNat), (240, 16, y.asid.toNat), (232, 5, y.tenant), (208, 8, y.queue),
    (200, 2, y.tier), (192, 8, st)].foldl (fun w f => withField w f.1 f.2.1 f.2.2) old

/-- Nothing monitors or watches a line, and no byte is in error. -/
def Calm (s : State) : Prop := NoMonitors s ∧ s.dev.errs = [] ∧ s.dev.mem.wf = true

/-- The engine's table holds `y` for a slot in `u`, and what it held for every other one. -/
def SlotIs (s u : State) (y : Cr) : Prop :=
  u.dev.cr y.slot = y ∧ ∀ c, c ≠ y.slot → u.dev.cr c = s.dev.cr c

/-- The engine's table and the record's header in `u` are those of `y`; nothing else differs from `s` (R89). -/
structure SlotChanged (s u : State) (y : Cr) : Prop where
  entry : SlotIs s u y
  header : ∃ st, SlotState y.st st ∧ numAt (homes u) (recordAt s y.slot) 64 = headerOf (numAt (homes s) (recordAt s y.slot) 64) y st
  memory : ∀ j, ¬(recordAt s y.slot ≤ j ∧ j < recordAt s y.slot + 64) → homes u j = homes s j
  rest : u = { s with dev := { s.dev with mem := u.dev.mem, crs := u.dev.crs, kvForeign := u.dev.kvForeign } }

/-- Tier of a leaf (R104). -/
inductive TierOf : Nat → Nat → Prop where
  | hbm (p : Nat) : p % 4 = 2 → regionOf (p / 2 ^ 16 % 2 ^ 36 * 0x10000) = .hbm → TierOf p 0
  | cxl (p : Nat) : p % 4 = 2 → regionOf (p / 2 ^ 16 % 2 ^ 36 * 0x10000) = .cxl → TierOf p 1
  | flash (p : Nat) : p % 4 = 3 → TierOf p 2

/-- A leaf whose page the engine moves: 64 KiB, NORMAL, in a tier (R90), no frame of the records, which never leave HBM
(R88). -/
def Movable (s : State) (p : Nat) : Prop :=
  p / 2 ^ 8 % 4 = 0 ∧ p / 2 ^ 10 % 8 = 0 ∧ (∃ n, TierOf p n) ∧ ¬(p % 4 = 2 ∧ s.dev.inCrArea (p / 2 ^ 16 % 2 ^ 36) = true)

/-- Page `va` of a record of slot `c`, whose leaf the engine moves (R90), read from the record and translated through
the root `root` of tenant `t`. -/
def Listed (s : State) (c t : Nat) (root : BitVec 52) (va : Nat) (l : Leaf) : Prop :=
  (∃ j p e, j < numAt (homes s) (recordAt s c + 28) 1 ∧ e = numAt (homes s) (recordAt s c + 128 + 16 * j) 16 ∧
    p < e / 2 ^ 64 % 2 ^ 32 ∧ va = (e / 2 ^ 16 % 2 ^ 36 + p) * 0x10000) ∧
  va < 2 ^ 52 ∧ inWindow va = false ∧ s.walkFrom t va (root.toNat / 2 ^ 15 * 2 ^ 15) 3 = .ok l ∧
  Movable s l.pte

/-- What PARK refuses of a record (R102). -/
inductive BadRecord (s : State) (c : Nat) : Prop where
  | cookie : numAt (homes s) (recordAt s c) 8 = 0 → BadRecord s c
  | count : 248 < numAt (homes s) (recordAt s c + 28) 1 → BadRecord s c
  | reserved (i : Nat) : (64 ≤ i ∧ i < 192 ∨ 202 ≤ i ∧ i < 208 ∨ 237 ≤ i ∧ i < 240 ∨ 372 ≤ i ∧ i < 384) →
      (numAt (homes s) (recordAt s c) 64).testBit i = true → BadRecord s c
  | range (j e : Nat) : j < numAt (homes s) (recordAt s c + 28) 1 → e = numAt (homes s) (recordAt s c + 128 + 16 * j) 16 →
      (∃ i, (i < 16 ∨ 52 ≤ i ∧ i < 64 ∨ 96 ≤ i ∧ i < 112 ∨ 124 ≤ i ∧ i < 128) ∧ e.testBit i = true) ∨ e / 2 ^ 64 % 2 ^ 32 = 0 ∨
        2 ^ 36 < e / 2 ^ 16 % 2 ^ 36 + e / 2 ^ 64 % 2 ^ 32 → BadRecord s c

/-- The due time of a timer of `n` ms (R91, R94). -/
def timerDue (now : Nat) (n : BitVec 32) : Option Nat := if n = 0xFFFFFFFF then none else some (now + n.toNat * 1000000)

/-- The transition of PARK (R92, R102) of slot `c`. -/
structure Parked (s u : State) (c : Nat) : Prop where
  entry : ∃ y, SlotIs s u y ∧ y.slot = c ∧ y.st = .parked ∧ y.tenant = s.h.id.tenant ∧ y.root = s.h.hr.ptroot ∧
    y.asid = s.h.hr.asid ∧ y.ptime = s.time ∧ y.wtime = (s.dev.cr c).wtime ∧ y.queue = numAt (homes s) (recordAt s c + 26) 1 ∧
    y.thbm = timerDue s.time (s.dev.tenant s.h.id.tenant).thbm ∧ y.tcxl = none ∧ y.pass = none ∧
    (∀ va l n, Listed s c s.h.id.tenant s.h.hr.ptroot va l → TierOf l.pte n → n ≤ y.tier) ∧
    (y.tier = 0 ∨ ∃ va l, Listed s c s.h.id.tenant s.h.hr.ptroot va l ∧ TierOf l.pte y.tier) ∧
    numAt (homes u) (recordAt s c) 64 = headerOf (numAt (homes s) (recordAt s c) 64) y 2
  accessed : ∀ va l, Listed s c s.h.id.tenant s.h.hr.ptroot va l →
    numAt (homes u) l.ptea 8 = withField (numAt (homes s) l.ptea 8) 6 1 0 ∧ ∀ e ∈ u.dev.tlb, e.ptea ≠ l.ptea
  memory : ∀ j, ¬(recordAt s c ≤ j ∧ j < recordAt s c + 64) →
    (∀ va l, Listed s c s.h.id.tenant s.h.hr.ptroot va l → ¬(l.ptea ≤ j ∧ j < l.ptea + 8)) → homes u j = homes s j
  rest : u = { s with dev := { s.dev with mem := u.dev.mem, crs := u.dev.crs, tlb := u.dev.tlb, kvForeign := u.dev.kvForeign } }

/-- The hart's older stores are visible (R101). -/
def Visible (s : State) : Prop := s.h.ms.strip = none ∧ s.h.ms.storeQ = [] ∧ s.h.ms.fabricQ = []

/-- CRGET, PARK and CRFREE: result, and what else they leave (R92, R102). -/
inductive SlotForm (s : State) : Instr → Reg → Word → (State → Prop) → Prop where
  | none' (d : Reg) (no : ∀ c, MySlot s c → (s.dev.cr c).st ≠ .free) : SlotForm s (.crget d) d 0x8000000000000000 (· = s)
  | get (d : Reg) (c : Nat) (mine : MySlot s c) (free : (s.dev.cr c).st = .free)
      (lowest : ∀ b, b < c → MySlot s b → (s.dev.cr b).st ≠ .free) : SlotForm s (.crget d) d (BitVec.ofNat 64 c) fun u =>
      SlotIs s u { slot := c, tenant := 0, st := .open } ∧
      (∀ j, homes u j = if recordAt s c ≤ j ∧ j < recordAt s c + 128 then (if j = recordAt s c + 24 then 1 else 0) else homes s j) ∧
      u = { s with dev := { s.dev with mem := u.dev.mem, crs := u.dev.crs, kvForeign := u.dev.kvForeign } }
  | parkInvalid (d a : Reg) (no : ¬MySlot s (s.getX a).toNat) : SlotForm s (.park d a) d 1 (· = s)
  | parkState (d a : Reg) (mine : MySlot s (s.getX a).toNat) (no : (s.dev.cr (s.getX a).toNat).st ≠ .open) :
      SlotForm s (.park d a) d 2 (· = s)
  | parkBad (d a : Reg) (mine : MySlot s (s.getX a).toNat) (st : (s.dev.cr (s.getX a).toNat).st = .open)
      (bad : BadRecord s (s.getX a).toNat) : SlotForm s (.park d a) d 3 (· = s)
  | park (d a : Reg) (c : Nat) (hc : (s.getX a).toNat = c) (mine : MySlot s c) (st : (s.dev.cr c).st = .open) (good : ¬BadRecord s c)
      (apart : ∀ va l, Listed s c s.h.id.tenant s.h.hr.ptroot va l → l.ptea + 8 ≤ recordAt s c ∨ recordAt s c + 4096 ≤ l.ptea)
      (done : ∀ h ∈ s.others, h.ms.storeQ = [] ∧ h.ms.fabricQ = [])
      (still : ∀ va l, Listed s c s.h.id.tenant s.h.hr.ptroot va l → l.pte % 4 = 2 →
        s.frameBusy (l.pte / 2 ^ 16 % 2 ^ 36 * 0x10000) = false) :
      SlotForm s (.park d a) d 0 (Parked s · c)
  | freeInvalid (d a : Reg) (no : ¬MySlot s (s.getX a).toNat) : SlotForm s (.crfree d a) d 1 (· = s)
  | freeState (d a : Reg) (mine : MySlot s (s.getX a).toNat) (no : (s.dev.cr (s.getX a).toNat).st ∈ [.free, .waking, .launched]) :
      SlotForm s (.crfree d a) d 2 (· = s)
  | free (d a : Reg) (c : Nat) (hc : (s.getX a).toNat = c) (mine : MySlot s c) (st : (s.dev.cr c).st ∈ [.open, .parked, .failed]) :
      SlotForm s (.crfree d a) d 0 (SlotChanged s ·
        { s.dev.cr c with st := .free, thbm := none, tcxl := none, overflow := false, pass := none })

/-- A leaf stands in the move table (R93). -/
def inMove (s : State) (ptea : Nat) : Nat := if s.dev.moves.any (fun m => decide (m.ptea = ptea)) then 1 else 0

/-- TQRY's word for an address (R104). -/
inductive TierWord (s : State) (va : Nat) : Nat → Prop where
  | high : 2 ^ 52 ≤ va → TierWord s va (2 ^ 63 + 0x04)
  | fault (c : Cause) : va < 2 ^ 52 → inWindow va = false →
      s.walkFrom s.h.id.tenant va (s.h.hr.ptroot.toNat / 2 ^ 15 * 2 ^ 15) 3 = .error (.cause c) → TierWord s va (2 ^ 63 + c.code.toNat)
  | perm (l : Leaf) : va < 2 ^ 52 → inWindow va = false →
      s.walkFrom s.h.id.tenant va (s.h.hr.ptroot.toNat / 2 ^ 15 * 2 ^ 15) 3 = .ok l → l.pte.testBit 2 = false →
      TierWord s va (2 ^ 63 + Cause.perm.code.toNat)
  | resident (l : Leaf) (n : Nat) : va < 2 ^ 52 → inWindow va = false →
      s.walkFrom s.h.id.tenant va (s.h.hr.ptroot.toNat / 2 ^ 15 * 2 ^ 15) 3 = .ok l → l.pte.testBit 2 = true → l.tiered = false →
      s.dev.grants s.h.id.tenant (l.loc s s.h.ctx va).1 .load = true → TierOf l.pte n → TierWord s va (n + 4 * inMove s l.ptea)
  | elsewhere (l : Leaf) : va < 2 ^ 52 → inWindow va = false →
      s.walkFrom s.h.id.tenant va (s.h.hr.ptroot.toNat / 2 ^ 15 * 2 ^ 15) 3 = .ok l → l.pte.testBit 2 = true → l.tiered = false →
      s.dev.grants s.h.id.tenant (l.loc s s.h.ctx va).1 .load = true → l.pte % 4 = 2 → (∀ n, ¬TierOf l.pte n) →
      TierWord s va (3 + 4 * inMove s l.ptea)
  | window (x : Loc) : va < 2 ^ 52 → inWindow va = true → s.fixed s.h.ctx (va / 8 * 8) .load 8 = .ok x → TierWord s va 3
  | windowFault (c : Cause) : va < 2 ^ 52 → inWindow va = true → s.fixed s.h.ctx (va / 8 * 8) .load 8 = .error c →
      TierWord s va (2 ^ 63 + c.code.toNat)
  | tiered (l : Leaf) : va < 2 ^ 52 → inWindow va = false →
      s.walkFrom s.h.id.tenant va (s.h.hr.ptroot.toNat / 2 ^ 15 * 2 ^ 15) 3 = .ok l → l.pte.testBit 2 = true → l.tiered = true →
      TierWord s va (2 + 4 * inMove s l.ptea + 8 * (l.pte / 2 ^ 62 % 2) + 16 * (l.pte / 2 ^ 61 % 2))

/-- Pages of the engine's own record of a CR that are not in HBM, by their leaves (R104). -/
def Away (s : State) (y : Cr) (va : Nat) : Prop :=
  va < 2 ^ 52 ∧ inWindow va = false ∧ ∃ l n, s.walkFrom y.tenant va (y.root.toNat / 2 ^ 15 * 2 ^ 15) 3 = .ok l ∧
    Movable s l.pte ∧ TierOf l.pte n ∧ n ≠ 0

/-- CRQRY's word (R104). -/
inductive SlotWord (s : State) (x : Nat) : Nat → Prop where
  | invalid : ¬MySlot s x → SlotWord s x (2 ^ 63)
  | idle (st : Nat) : MySlot s x → SlotState (s.dev.cr x).st st → st < 2 → SlotWord s x (st + (s.dev.cr x).tier % 4 * 2 ^ 8)
  | away (st : Nat) (f : Nat × Nat → Bool) : MySlot s x → SlotState (s.dev.cr x).st st → 2 ≤ st →
      (∀ p ∈ (s.dev.cr x).pages, f p = true ↔ Away s (s.dev.cr x) p.2) →
      SlotWord s x (st + (s.dev.cr x).tier % 4 * 2 ^ 8 + ((s.dev.cr x).pages.filter f).length % 2 ^ 32 * 2 ^ 16)

/-- A counter that saturates (R360). -/
def satUp (w : Word) : Word := if w = 0xFFFFFFFFFFFFFFFF then w else w + 1

/-- The list of the tier a place of the move goes back to (R93, R402). -/
def withPlace (t : Tenant) (tier f : Nat) : Tenant :=
  match tier with
  | 0 => { t with hbmFrames := t.hbmFrames ++ [f], coldAsked := false }
  | 1 => { t with cxlFrames := t.cxlFrames ++ [f] }
  | _ => { t with flashFree := t.flashFree ++ [f] }

/-- Where the bytes of a place stand: a frame, or a block of the flash store. -/
def placeAt (tier f : Nat) : Nat := if tier = 2 then flashKey f else f * 0x10000

/-- Events of the Peat engine, with what they leave (R92-R98, R318, R362). -/
inductive PeatEvent (s : State) : Instr → (State → Prop) → Prop where
  /-- R92, R94: a pass begins over the listed pages, and the timer is used up. -/
  | timer (c : Nat) (flash : Bool) (due : Nat) (st : (s.dev.cr c).st = .parked ∧ (s.dev.cr c).pass = none)
      (armed : (if flash then (s.dev.cr c).tcxl else (s.dev.cr c).thbm) = some due) (now : due ≤ s.time) (num : (s.dev.cr c).slot = c) :
      PeatEvent s (if flash then .tCxlExpiry c else .tHbmExpiry c) fun u =>
        SlotIs s u { s.dev.cr c with pass := some (flash, (s.dev.cr c).pages), thbm := none, tcxl := none, overflow := false } ∧
        u = { s with dev := { s.dev with crs := u.dev.crs } }
  | early (c : Nat) (flash : Bool) (no : (s.dev.cr c).st ≠ .parked ∨
        ∀ d, (if flash then (s.dev.cr c).tcxl else (s.dev.cr c).thbm) = some d → s.time < d) :
      PeatEvent s (if flash then .tCxlExpiry c else .tHbmExpiry c) (· = s)
  | wheel (f : Cr → Cr) (hf : ∀ y, f y = { y with overflow := (f y).overflow } ∧ ((f y).overflow = true ↔ y.overflow = true ∧
        ∃ d, (y.thbm = some d ∨ y.tcxl = some d) ∧ s.time + 4096 * 1000000 ≤ d)) :
      PeatEvent s .timerWheelTick (· = { s with dev := { s.dev with crs := s.dev.crs.map f } })
  /-- R93: the move of a leaf ends: contents, leaf, move table, old place; then TIER of the records is written again
  (R89). -/
  | move (m : Move) (p n f : Nat) (here : m ∈ s.dev.moves) (one : ∀ y ∈ s.dev.moves, y.ptea = m.ptea → y = m)
      (leaf : numAt (homes s) m.ptea 8 = p) (tier : TierOf p n) (frame : f = p / 2 ^ 16 % 2 ^ 36) (plain : m.expert = none)
      (idle : n = 2 ∨ s.frameBusy (f * 0x10000) = false) (line : m.ptea % 8 = 0 ∧ m.tier < 3)
      (apart : placeAt n f ≠ placeAt m.tier m.dest ∧
        (m.ptea + 8 ≤ placeAt m.tier m.dest ∨ placeAt m.tier m.dest + 0x10000 ≤ m.ptea) ∧
        (m.ptea + 8 ≤ placeAt n f ∨ placeAt n f + 0x10000 ≤ m.ptea)) (calm : Calm s) :
      PeatEvent s (.pageMove m.ptea) fun v => ∃ u : State, v = u.retier ∧
        PageCopied s.dev.mem u.dev.mem (placeAt n f) (placeAt m.tier m.dest) m.ptea
          (p / 2 ^ 52 % 2 ^ 9 * 2 ^ 52 + m.dest % 2 ^ 36 * 2 ^ 16 + p / 4 % 2 ^ 14 * 4 + if m.tier = 2 then 3 else 2) ∧
        (∀ y, y ∈ u.dev.moves ↔ y ∈ s.dev.moves ∧ y ≠ m) ∧ u.dev.tenant m.tenant = withPlace (s.dev.tenant m.tenant) n f ∧
        (∀ t, t ≠ m.tenant → u.dev.tenant t = s.dev.tenant t) ∧ u = { s with dev := { s.dev with
          mem := u.dev.mem
          moves := u.dev.moves
          tenants := u.dev.tenants
          kvLines := u.dev.kvLines
          kvForeign := u.dev.kvForeign } }
  /-- R98: FAIL is set in the leaf of a page that no CR promotes; the frame goes back. -/
  | promotionFails (m : Move) (here : m ∈ s.dev.moves) (one : ∀ y ∈ s.dev.moves, y.ptea = m.ptea → y = m) (up : m.tier = 0)
      (leaf : numAt (homes s) m.ptea 8 % 4 = 3) (alone : m.slot = none) (line : m.ptea % 8 = 0) (calm : Calm s) :
      PeatEvent s (.promotionFail m.ptea) fun u =>
        numAt (homes u) m.ptea 8 = withField (numAt (homes s) m.ptea 8) 61 1 1 ∧
        (∀ j, ¬(m.ptea ≤ j ∧ j < m.ptea + 8) → homes u j = homes s j) ∧ (∀ y, y ∈ u.dev.moves ↔ y ∈ s.dev.moves ∧ y ≠ m) ∧
        u.dev.tenant m.tenant = withPlace (s.dev.tenant m.tenant) 0 m.dest ∧
        (∀ t, t ≠ m.tenant → u.dev.tenant t = s.dev.tenant t) ∧
        u = { s with dev := { s.dev with mem := u.dev.mem, moves := u.dev.moves, tenants := u.dev.tenants, kvForeign := u.dev.kvForeign } }
  /-- R92: a page that fails after launch makes the CR end in FAILED. -/
  | laterFails (m : Move) (c : Nat) (here : m ∈ s.dev.moves) (one : ∀ y ∈ s.dev.moves, y.ptea = m.ptea → y = m) (up : m.tier = 0)
      (leaf : numAt (homes s) m.ptea 8 % 4 = 3) (its : m.slot = some c) (st : (s.dev.cr c).st = .launched) (num : (s.dev.cr c).slot = c)
      (line : m.ptea % 8 = 0) (calm : Calm s) : PeatEvent s (.promotionFail m.ptea) fun u =>
        SlotIs s u { s.dev.cr c with pageFailed := true } ∧
        numAt (homes u) m.ptea 8 = withField (numAt (homes s) m.ptea 8) 61 1 1 ∧ m ∉ u.dev.moves
  /-- R98 -/
  | demotionFails (m : Move) (here : m ∈ s.dev.moves) (one : ∀ y ∈ s.dev.moves, y.ptea = m.ptea → y = m) (down : m.tier = 1 ∨ m.tier = 2) :
      PeatEvent s (.demotionFail m.ptea) fun u => (∀ y, y ∈ u.dev.moves ↔ y ∈ s.dev.moves ∧ y ≠ m) ∧
        TenantSet { s with dev := { s.dev with moves := u.dev.moves } } u m.tenant
          { withPlace (s.dev.tenant m.tenant) m.tier m.dest with wrej := satUp (s.dev.tenant m.tenant).wrej }
  /-- R318: the start record enters the CR's queue with the CR's tenant, root and ASID, and the CR is LAUNCHED. -/
  | relaunch (c k : Nat) (y : Cr) (q : Queue) (hy : y = s.dev.cr c) (num : y.slot = c) (st : y.st = .waking ∧ y.staged = true)
      (depth : ∀ p ∈ y.pages, p.1 < (if numAt (homes s) (recordAt s c + 27) 1 = 0 then (s.dev.tenant y.tenant).rdepth.toNat
        else numAt (homes s) (recordAt s c + 27) 1) → ¬Away s y p.2) (hq : q = s.dev.queue y.queue) (qnum : q.num = y.queue)
      (on : q.en = true ∧ q.tenant = y.tenant ∧ y.queue < 256) (room : q.count < 2 ^ q.log2n)
      (grant : s.dev.grants q.tenant (q.entryPa q.tail) .store = true) (hk : k = s.dev.homeOf (q.entryPa q.tail))
      (free : s.dev.owned k = false) (line : k % 64 = 0)
      (apart : k + 64 ≤ recordAt s c ∨ recordAt s c + 4096 ≤ k) (calm : Calm s) : PeatEvent s (.relaunchSubmit c) fun u =>
        numAt (homes u) k 64 = withField (numAt (homes s) (recordAt s c + 64) 64) 499 5 y.tenant ∧ SlotIs s u { y with st := .launched } ∧
        numAt (homes u) (recordAt s c) 64 = headerOf (numAt (homes s) (recordAt s c) 64) y 4 ∧
        (∀ j, ¬(k ≤ j ∧ j < k + 64) → ¬(recordAt s c ≤ j ∧ j < recordAt s c + 64) → homes u j = homes s j) ∧
        (u.dev.queue y.queue).tail = q.tail + 1 ∧ (q.tail.toNat, y.root, y.asid) ∈ (u.dev.queue y.queue).relaunch ∧
        u = { s with dev := { s.dev with mem := u.dev.mem, crs := u.dev.crs, queues := u.dev.queues, kvForeign := u.dev.kvForeign } }
  /-- R92, R95: a matching wake write; timers are cancelled, WTIME is set. -/
  | wake (src c : Nat) (v : Word) (hc : c < 65536) (grant : s.dev.grants src (drBase + 0x10000000000 + c * 8) .store = true)
      (st : (s.dev.cr c).st = .parked) (num : (s.dev.cr c).slot = c) (hit : v.toNat = numAt (homes s) (recordAt s c) 8) (calm : Calm s) :
      PeatEvent s (.wakeWrite src c v) (SlotChanged s · { s.dev.cr c with
        st := .waking
        wtime := s.time
        thbm := none
        tcxl := none
        overflow := false
        pass := none
        staged := false
        pageFailed := false
        todo := [] })
  | wakeRejected (src c t : Nat) (v : Word) (hc : c < 65536)
      (grant : s.dev.grants src (drBase + 0x10000000000 + c * 8) .store = true)
      (miss : (s.dev.cr c).st ≠ .parked ∨ v.toNat ≠ numAt (homes s) (recordAt s c) 8) (owner : s.dev.slotTenant c = some t) :
      PeatEvent s (.wakeWrite src c v) (TenantSet (s.touch (drBase + 0x10000000000 + c * 8)) · t { s.dev.tenant t with wrej := satUp (s.dev.tenant t).wrej })
  /-- R362 -/
  | wakeRefused (src c : Nat) (v : Word) (no : s.dev.grants src (drBase + 0x10000000000 + c * 8) .store = false) :
      PeatEvent s (.wakeWrite src c v) (· = s)

/-! ### Launch and scheduling -/

/-- What LAUNCH answers without touching the queue (R313). -/
inductive LaunchRefused (s : State) (n : Nat) : Nat → Prop where
  | queue : 255 < n ∨ (s.dev.queue n).en = false ∨ (s.dev.queue n).tenant ≠ s.h.id.tenant → LaunchRefused s n 1
  | grant : n ≤ 255 → (s.dev.queue n).en = true → (s.dev.queue n).tenant = s.h.id.tenant →
      s.dev.grants s.h.id.tenant ((s.dev.queue n).entryPa (s.dev.queue n).tail) .store = false → LaunchRefused s n 3
  | full : n ≤ 255 → (s.dev.queue n).en = true → (s.dev.queue n).tenant = s.h.id.tenant →
      s.dev.grants s.h.id.tenant ((s.dev.queue n).entryPa (s.dev.queue n).tail) .store = true →
      ((s.dev.queue n).tail - (s.dev.queue n).head).toNat = 2 ^ (s.dev.queue n).log2n → LaunchRefused s n 2

/-- Physical address of ring entry `i` of a queue (R299). -/
def ringAt (q : Queue) (i : BitVec 32) : Nat := (q.base.toNat + 64 * (i.toNat % 2 ^ q.log2n)) % 2 ^ 52

/-- Queue `q`, number `n`, takes a record at location `k` (R313). -/
structure TakesRecord (s : State) (n : Nat) (q : Queue) (k : Nat) : Prop where
  here : q = s.dev.queue n ∧ q.num = n ∧ n ≤ 255
  on : q.en = true ∧ q.tenant = s.h.id.tenant
  grant : s.dev.grants q.tenant (ringAt q q.tail) .store = true
  room : (q.tail - q.head).toNat < 2 ^ q.log2n
  home : k = s.dev.homeOf (ringAt q q.tail) ∧ k % 64 = 0 ∧ s.dev.owned k = false

/-- `va` translates for an access of `n` bytes of kind `k` in context `c`, with nothing to be set or waited for (R56). -/
def MapsFor (s : State) (c : Ctx) (va n : Nat) (k : Kind) (loc : Loc) : Prop :=
  va < 2 ^ 52 ∧ inWindow va = false ∧ s.oracle = [] ∧ va % n = 0 ∧ ∃ l : Leaf, s.walk c.tenant c.root va = .ok l ∧
    allowed l.pte k = true ∧ l.tiered = false ∧ bits (s.dev.mem.getNat l.ptea 8) 6 1 = 1 ∧ (k = .store ∨ k = .amo → bits l.pte 7 1 = 1) ∧
    loc = (l.loc s c va).2 ∧ s.dev.grants c.tenant (l.loc s c va).1 k = true ∧ loc.attr < 2 ∧
    (regionOf loc.key = .hbm ∨ regionOf loc.key = .cxl)

/-- Esmen's report `r` reaches tenant `t` and raises vector 0 of its function, or is lost where 15 are unread (R360). -/
structure ReportTo (s u : State) (t : Nat) (r : Report) : Prop where
  room : ((s.dev.tenant t).rtail + 16 - (s.dev.tenant t).rhead) % 16 < 15 →
    ((s.dev.tenant t).rtail, r) ∈ (u.dev.tenant t).ring ∧ (u.dev.tenant t).rtail = ((s.dev.tenant t).rtail + 1) % 16 ∧
    (u.dev.tenant t).msix = (s.dev.tenant t).msix + 1
  full : ¬((s.dev.tenant t).rtail + 16 - (s.dev.tenant t).rhead) % 16 < 15 →
    (u.dev.tenant t).ring = (s.dev.tenant t).ring ∧ (u.dev.tenant t).rlost = (s.dev.tenant t).rlost + 1 ∧
    (u.dev.tenant t).msix = (s.dev.tenant t).msix
  others : ∀ x, x ≠ t → u.dev.tenant x = s.dev.tenant x

/-- The record at HEAD of a queue may be read at `k` and is `w` (R299, R303). -/
structure AtHead (s : State) (n : Nat) (q : Queue) (k w : Nat) : Prop where
  here : q = s.dev.queue n ∧ q.num = n
  ready : s.dev.hosts.ready = true
  waiting : q.en = true ∧ q.head ≠ q.tail ∧ q.checked = none
  grant : s.dev.grants q.tenant (ringAt q q.head) .load = true
  home : k = s.dev.homeOf (ringAt q q.head) ∧ s.dev.bad k 64 = false
  answers : ∀ d, regionOf k = .domain d → s.dev.peerUp d = true ∧ d ∉ s.dev.failNext
  word : w = numAt (homes s) k 64

/-- BADREC (R302, R303). -/
def BadRec (w : Nat) : Prop :=
  w / 2 ^ 448 % 2 ^ 19 ≠ 0 ∨ w / 2 ^ 496 % 2 ^ 3 ≠ 0 ∨ w / 2 ^ 488 % 4 = 3 ∨ w / 2 ^ 488 % 4 < w / 2 ^ 486 % 4 ∨
  w / 2 ^ 490 % 16 < 10 ∨ 14 < w / 2 ^ 490 % 16 ∨ 11 * 2 ^ (w / 2 ^ 488 % 4) < w / 2 ^ 480 % 64 ∨ 4 < w / 2 ^ 477 % 8 ∨
  2 < w / 2 ^ 475 % 4 ∨ w / 2 ^ 320 % 8 ≠ 0 ∨ w / 2 ^ 192 % 8 ≠ 0 ∨ w / 2 ^ 64 % 64 ≠ 0 ∨ 2 ^ 52 ≤ w % 2 ^ 64 ∨ w % 2 = 1

/-- A record that fails its check with a status: no hart starts, no byte changes (R303), and no die stays reserved for it
(R306). -/
structure RecordFails (s u : State) (n : Nat) (q : Queue) (code : Nat) : Prop where
  queue : ∃ y, y = u.dev.queue n ∧ y.valid = true ∧ (q.valid = false → y.index = q.head ∧ y.code.toNat = code) ∧
    (q.valid = true → y.index = q.index ∧ y.code = q.code) ∧
    (code = 6 → y.head = q.head ∧ y.en = false) ∧ (code ≠ 6 → y.head = q.head + 1 ∧ y.en = true ∧ y.checked = none) ∧ y.tail = q.tail
  others : ∀ m, m ≠ n → u.dev.queue m = s.dev.queue m
  report : ReportTo s u q.tenant { time := s.time, kind := 1, index := q.head.toNat, queue := n, code := code }
  reserved : ∀ x, x ∈ u.dev.reserved ↔ x ∈ s.dev.reserved ∧ x.2 ≠ (false, n)
  rest : u = { s with dev := { s.dev with queues := u.dev.queues, tenants := u.dev.tenants, reserved := u.dev.reserved } }

/-- The context that a queue's head record is translated in: the tenant's defaults, or those of a relaunch (R308, R318). -/
def HeadContext (s : State) (q : Queue) (c : Ctx) : Prop :=
  c.tenant = q.tenant ∧ c = s.dev.recCtx q ∧
  ((∀ x ∈ q.relaunch, x.1 ≠ q.head.toNat) → c.root = (s.dev.tenant q.tenant).root ∧ c.asid = (s.dev.tenant q.tenant).asid)

/-- A hart at launch (R23, R308, R326): its record, its place (core, lane group), its context. -/
structure Launched (s : State) (w : Nat) (handler : Word) (c : Ctx) (die core lgrp gang rank : Nat) (h : Hart) : Prop where
  runs : h.status = .running ∧ h.handler = false
  place : h.id.hartid.toNat = 256 * die + 4 * core + lgrp ∧ h.id.lanes = 4 * 2 ^ (w / 2 ^ 488 % 4) ∧ h.id.lshare = h.id.lanes ∧
    h.id.lmin = 4 * 2 ^ (w / 2 ^ 486 % 4)
  names : h.id.gang.toNat = gang ∧ h.id.rank = rank ∧ h.id.gangsz = w / 2 ^ 467 % 256 + 1 ∧ h.id.tenant = c.tenant
  scalars : ∀ r : Reg, h.x[r] = if r = 10 then BitVec.ofNat 64 (w / 2 ^ 128 % 2 ^ 64) else 0
  entry : h.pc.toNat = w % 2 ^ 52 ∧ h.pcHi = 0
  vectors : ∀ r : Reg, (h.v[r]).val = 0
  units : h.t.town.toNat = 2 ^ (w / 2 ^ 477 % 8) - 1 + (2 ^ (w / 2 ^ 475 % 4) - 1) * 16
  cap : h.hr.vlcap.toNat = min (w / 2 ^ 490 % 16 - 10) (s.dev.tenant c.tenant).cap.toNat ∧ h.vc.cap = h.hr.vlcap
  translation : h.hr.ptroot = c.root ∧ h.hr.asid = c.asid
  handlers : h.hr.hscr = BitVec.ofNat 64 (w / 2 ^ 128 % 2 ^ 64) ∧
    h.hr.hvec = if handler = 0 then 0 else BitVec.ofNat 52 ((w / 2 ^ 64 % 2 ^ 64 + handler.toNat) / 2 * 2)
  quiet : h.lp.active = false ∧ h.sy.evt = false ∧ h.sy.mon = none ∧ (∀ e : Fin 4, h.sy.cseq[e] = 0) ∧ h.hr.tdl = 0 ∧ h.ms = { codeMem := s.dev.mem }

/-- The one candidate of the allocators is the record `w` at HEAD of queue `q`, of one gang of one hart, on an empty device:
die `die` is the lowest that its queue allows (R305-R307). -/
structure OneRecord (s : State) (q : Queue) (w : Nat) (handler : Word) (since die : Nat) : Prop where
  queues : s.dev.queues = [q] ∧ s.dev.gangs = [] ∧ s.dev.banks = []
  empty : ∀ h ∈ s.h :: s.others, h.status ≠ .running ∧ h.status ≠ .stopped
  cores : ∀ p ∈ s.dev.parts, p.absent = []
  head : q.en = true ∧ q.checked = some (w, handler) ∧ ∃ i, q.reached = some (i, since)
  die : die < 8 ∧ q.dies.getLsbD die = true ∧ ∀ d < die, q.dies.getLsbD d = false
  good : ¬BadRec w
  one : w / 2 ^ 504 % 256 = 0 ∧ w / 2 ^ 467 % 256 = 0

/-- The dependence of the record is met (R305). -/
def DepMet (q : Queue) (w : Nat) : Prop :=
  w / 2 ^ 320 % 2 ^ 64 = 0 ∨ ∃ v, q.depSeen = some v ∧ w / 2 ^ 384 % 2 ^ 64 ≤ v.toNat

/-- What a grant of that record on core `core`, lane group `lgrp` leaves. -/
structure Granted (s u : State) (q : Queue) (w : Nat) (handler : Word) (die core lgrp : Nat) : Prop where
  hart : ∃ h, u.others = s.others ++ [h] ∧ Launched s w handler (s.dev.recCtx q) die core lgrp 1 0 h
  queue : (u.dev.queue q.num).head = q.head + 1 ∧ (u.dev.queue q.num).checked = none ∧ (u.dev.queue q.num).tail = q.tail
  gang : ∃ g, u.dev.gangs = [g] ∧ g.id = 1 ∧ g.die = die ∧ g.size = 1 ∧ g.tenant = q.tenant ∧
    g.ctr = BitVec.ofNat 64 (w / 2 ^ 192 % 2 ^ 64) ∧ g.inc = BitVec.ofNat 64 (w / 2 ^ 256 % 2 ^ 64) ∧
    g.prio = min (w / 2 ^ 494 % 4) q.pmax ∧ g.queue = q.num ∧ g.index = q.head.toNat ∧ g.saved = false ∧ g.ending = none
  banks : ∀ b : Bank, b ∈ u.dev.banks ↔ ∃ i < w / 2 ^ 480 % 64, b = { die := die, core := core, num := 4 + 11 * lgrp + i, gang := 1 }
  zero : ∀ b ∈ u.dev.banks, ∀ j < 0x4000, homes u (bankBase b + j) = 0
  memory : ∀ j, (∀ b ∈ u.dev.banks, ¬(bankBase b ≤ j ∧ j < bankBase b + 0x4000)) → homes u j = homes s j
  rest : u = { s with others := u.others, dev := { s.dev with
    queues := u.dev.queues
    gangs := u.dev.gangs
    banks := u.dev.banks
    mem := u.dev.mem
    errs := u.dev.errs
    grantNo := u.dev.grantNo
    reserved := u.dev.reserved } }

/-- The banks that gang `g` holds have gone back, and it and its harts are no more (R311). -/
structure GangGone (s u : State) (g : Gang) : Prop where
  harts : (s.h.id.gang.toNat ≠ g.id ∨ s.h.status = .vacant → u.h = s.h) ∧ (s.h.id.gang.toNat = g.id ∧ s.h.status ≠ .vacant → u.h = {}) ∧
    ∀ h, h ∈ u.others ↔ h ∈ s.others ∧ (h.id.gang.toNat ≠ g.id ∨ h.status = .vacant)
  gangs : ∀ x, x ∈ u.dev.gangs ↔ x ∈ s.dev.gangs ∧ x.id ≠ g.id
  banks : ∀ b, b ∈ u.dev.banks ↔ b ∈ s.dev.banks ∧ b.gang ≠ g.id

/-- A gang of `s` whose every hart has ended, with nothing left to wait for (R311). -/
structure Ended (s : State) (g : Gang) : Prop where
  here : g ∈ s.dev.gangs ∧ ∀ x ∈ s.dev.gangs, x.id = g.id → x = g
  done : g.ending = some true
  quiet : ∀ h ∈ s.h :: s.others, h.id.gang.toNat = g.id → h.ms.storeQ = [] ∧ h.ms.fabricQ = []
  commands : g.savedCmds = [] ∧ ∀ c ∈ s.dev.cmds, c.owner.gang ≠ g.id

/-- A hart as a save leaves it (R335, R336, R354): vector bytes at and above VT are 0, no strip body, stall pair or buffer
survives. -/
structure SavedHart (h h' : Hart) : Prop where
  vectors : ∀ r : Reg, (h'.v[r]).val.toNat = (h.v[r]).val.toNat % 2 ^ (8 * (h.v[r]).vt) ∧ (h'.v[r]).dirty = false ∧
    (h'.v[r]).vt = (h.v[r]).vt
  table : h'.db.table = [] ∧ ∀ i : Fin 4, h'.db.counter[i] = 0
  rest : h' = { h with
    status := .saved
    v := h'.v
    lp := { h.lp with body := [] }
    db := { h.db with table := [], counter := h'.db.counter, stall := none, waited := none }
    ms := { h.ms with ibuf := [] } }

/-- Events of the lane allocators and the save engine, with what they leave (R303-R311, R335-R339). -/
inductive AllocEvent (s : State) : Instr → (State → Prop) → Prop where
  /-- R311: the counter takes INC, and the gang is over. -/
  | add (g : Gang) (loc : Loc) (e : Ended s g) (on : g.ctr ≠ 0) (noBanks : ∀ b ∈ s.dev.banks, b.gang ≠ g.id)
      (maps : ∀ c : Ctx, c.tenant = g.tenant → c.root = g.endRoot → c.asid = g.endAsid → MapsFor s c g.ctr.toNat 8 .amo loc)
      (free : s.dev.owned loc.key = false) (calm : Calm s) : AllocEvent s (.completionAdd g.id) fun u => GangGone s u g ∧
        numAt (homes u) loc.key 8 = (numAt (homes s) loc.key 8 + g.inc.toNat) % 2 ^ 64 ∧
        ∀ j, ¬(loc.key ≤ j ∧ j < loc.key + 8) → homes u j = homes s j
  | noCounter (g : Gang) (e : Ended s g) (off : g.ctr = 0) : AllocEvent s (.completionAdd g.id) fun u => GangGone s u g ∧
        ∀ j, (∀ b ∈ s.dev.banks, b.gang = g.id → ¬(bankBase b ≤ j ∧ j < bankBase b + 0x4000)) → homes u j = homes s j
  | notYet (g : Gang) (here : g ∈ s.dev.gangs ∧ ∀ x ∈ s.dev.gangs, x.id = g.id → x = g) (no : g.ending ≠ some true) :
      AllocEvent s (.completionAdd g.id) (· = s)
  /-- R303, in the order of its table -/
  | ring (n : Nat) (q : Queue) (here : q = s.dev.queue n ∧ q.num = n) (ready : s.dev.hosts.ready = true)
      (waiting : q.en = true ∧ q.head ≠ q.tail ∧ q.checked = none) (no : s.dev.grants q.tenant (ringAt q q.head) .load = false ∨
        (∃ d, regionOf (s.dev.homeOf (ringAt q q.head)) = .domain d ∧ s.dev.peerUp d = false) ∨
        s.dev.bad (s.dev.homeOf (ringAt q q.head)) 64 = true ∧
          ∀ d, regionOf (s.dev.homeOf (ringAt q q.head)) = .domain d → d ∉ s.dev.failNext) : AllocEvent s (.recordCheck n) (RecordFails s · n q 6)
  | tenant (n k w : Nat) (q : Queue) (a : AtHead s n q k w) (no : w / 2 ^ 499 % 32 ≠ q.tenant) :
      AllocEvent s (.recordCheck n) (RecordFails s · n q 5)
  | badrec (n k w : Nat) (q : Queue) (a : AtHead s n q k w) (ok : w / 2 ^ 499 % 32 = q.tenant) (bad : BadRec w) :
      AllocEvent s (.recordCheck n) (RecordFails s · n q 1)
  | header (n k w : Nat) (q : Queue) (c : Ctx) (x : Cause) (a : AtHead s n q k w) (ok : w / 2 ^ 499 % 32 = q.tenant) (good : ¬BadRec w)
      (hc : HeadContext s q c) (choices : s.oracle = []) (low : w / 2 ^ 64 % 2 ^ 64 < 2 ^ 52 ∧ inWindow (w / 2 ^ 64 % 2 ^ 64) = false)
      (no : s.walk c.tenant c.root (w / 2 ^ 64 % 2 ^ 64) = .error (.cause x)) : AllocEvent s (.recordCheck n) (RecordFails s · n q 4)
  | passes (n k w : Nat) (q : Queue) (c : Ctx) (code dep : Loc) (a : AtHead s n q k w) (ok : w / 2 ^ 499 % 32 = q.tenant)
      (good : ¬BadRec w) (hc : HeadContext s q c) (mc : MapsFor s c (w / 2 ^ 64 % 2 ^ 64) 64 .load code)
      (md : w / 2 ^ 320 % 2 ^ 64 ≠ 0 → MapsFor s c (w / 2 ^ 320 % 2 ^ 64) 8 .load dep) (calm : Calm s)
      (caps : numAt (homes s) (code.key + 16) 8 &&& 0xFFFFFFFFFFFFF000 = 0 ∧ numAt (homes s) (code.key + 24) 8 = 0)
      (fits : s.fitsEmpty q ⟨w⟩ = true) : AllocEvent s (.recordCheck n) (QueueSet s · n { q with
        checked := some (w, BitVec.ofNat 64 (numAt (homes s) (code.key + 8) 8))
        depSeen := if w / 2 ^ 320 % 2 ^ 64 = 0 then none else some (BitVec.ofNat 64 (numAt (homes s) dep.key 8)) })
  /-- R339: a record that has passed its checks and that an absent core leaves without a place -/
  | lost (n w : Nat) (handler : Word) (q : Queue) (here : q = s.dev.queue n ∧ q.num = n) (ready : s.dev.hosts.ready = true)
      (on : q.en = true ∧ q.head ≠ q.tail ∧ q.checked = some (w, handler)) (no : s.fitsEmpty q ⟨w⟩ = false) :
      AllocEvent s (.recordCheck n) (RecordFails s · n q 3)
  /-- R305-R308: on the lowest groups, or on the group given. -/
  | grant (die core lgrp since w : Nat) (handler : Word) (q : Queue) (groups : List Nat) (o : OneRecord s q w handler since die)
      (dep : DepMet q w) (free : s.dev.reserved = []) (place : groups = [] ∧ core = 0 ∧ lgrp = 0 ∨
        groups = [4 * core + lgrp] ∧ core < 64 ∧ lgrp < 4 ∧ lgrp % 2 ^ (w / 2 ^ 488 % 4) = 0) (calm : Calm s) :
      AllocEvent s (.grant die q.num groups) (Granted s · q w handler die core lgrp)
  | notMet (die since w : Nat) (handler : Word) (q : Queue) (groups : List Nat) (o : OneRecord s q w handler since die)
      (dep : ¬DepMet q w) : AllocEvent s (.grant die q.num groups) (· = s)
  | poll (n w : Nat) (handler : Word) (q : Queue) (c : Ctx) (loc : Loc) (here : q = s.dev.queue n ∧ q.num = n)
      (head : q.checked = some (w, handler)) (dep : w / 2 ^ 320 % 2 ^ 64 ≠ 0) (hc : HeadContext s q c)
      (maps : MapsFor s c (w / 2 ^ 320 % 2 ^ 64) 8 .load loc) (calm : Calm s) : AllocEvent s (.depPoll n) (QueueSet s · n { q with
        depSeen := some (BitVec.ofNat 64 (numAt (homes s) loc.key 8)) })
  /-- R306: effective priority 3 for 8 ms, and the record cannot be granted. -/
  | reserve (die since w : Nat) (handler : Word) (q : Queue) (o : OneRecord s q w handler since die) (dep : ¬DepMet q w)
      (free : s.dev.reserved = []) (long : since + (3 - min (w / 2 ^ 494 % 4) q.pmax) * 2000000 + 8000000 ≤ s.time) :
      AllocEvent s (.reservation die) (· = { s with dev := { s.dev with reserved := [(die, false, q.num)] } })
  | unreserved (die since w : Nat) (handler : Word) (q : Queue) (o : OneRecord s q w handler since die)
      (short : s.time < since + (3 - min (w / 2 ^ 494 % 4) q.pmax) * 2000000 + 8000000) : AllocEvent s (.reservation die) (· = s)
  /-- R310: the one gang of a lower priority makes room for a candidate of PRIO 3 that has waited 100 µs. -/
  | victim (g : Gang) (q : Queue) (w since : Nat) (handler : Word) (gangs : s.dev.gangs = [g]) (queues : s.dev.queues = [q])
      (resident : g.saved = false ∧ g.stopReq = none ∧ g.ending = none ∧ g.prio < 3)
      (head : q.en = true ∧ q.checked = some (w, handler) ∧ q.dies.getLsbD g.die = true ∧ ∃ i, q.reached = some (i, since))
      (prio : min (w / 2 ^ 494 % 4) q.pmax = 3) (long : since + 100000 ≤ s.time)
      (fits : s.fits (fun _ => false) g.die ⟨false, q.num, 3, since, q.num⟩ = false ∧ s.fits (· = g.id) g.die ⟨false, q.num, 3, since, q.num⟩ = true)
      (kept : ∀ x ∈ s.dev.reserved, x.1 = g.die → x.2 = (false, q.num)) :
      AllocEvent s (.preemption (.allocator g.id)) (· = { s with dev := { s.dev with gangs := [{ g with stopReq := some false }] } })
  | safe (g : Gang) (here : g ∈ s.dev.gangs ∧ ∀ x ∈ s.dev.gangs, x.id = g.id → x = g) (no : g.stopReq = none) (high : 3 ≤ g.prio) :
      AllocEvent s (.preemption (.allocator g.id)) (· = s)
  /-- R310: Esmen's own request -/
  | esmen (g : Gang) (here : g ∈ s.dev.gangs ∧ ∀ x ∈ s.dev.gangs, x.id = g.id → x = g)
      (no : g.stopReq = none ∧ g.saved = false ∧ g.ending = none) : AllocEvent s (.preemption (.esmen g.id))
      (· = { s with dev := { s.dev with gangs := s.dev.gangs.map fun x => if x.id = g.id then { g with stopReq := some false } else x } })
  /-- R335, R336: every hart of the gang has stopped, its queues are empty, its commands are done. -/
  | save (g : Gang) (who : Removal) (by_ : who = .allocator g.id ∨ who = .esmen g.id) (here : g ∈ s.dev.gangs ∧ ∀ x ∈ s.dev.gangs, x.id = g.id → x = g) (asked : g.stopReq ≠ none)
      (open_ : g.saved = false ∧ g.ending = none) (commands : s.dev.cmds = []) (cores : ∀ p ∈ s.dev.parts, p.absent = [])
      (stopped : ∀ h ∈ s.h :: s.others, h.id.gang.toNat = g.id → h.status = .stopped ∧ h.ms.storeQ = [] ∧ h.ms.fabricQ = [] ∧ h.db.table = [])
      (size : g.id < 2 ^ 16) : AllocEvent s (.preemption who) fun u => ∃ (f : Hart → Hart) (x : Gang),
        (∀ h, (h.id.gang.toNat = g.id → SavedHart h (f h)) ∧ (h.id.gang.toNat ≠ g.id → f h = h)) ∧
        u.h = f s.h ∧ u.others = s.others.map f ∧ x = { g with saved := true, stopReq := none, savedBanks := x.savedBanks, savedMem := x.savedMem, savedErrs := x.savedErrs } ∧
        (∀ b, b ∈ x.savedBanks ↔ b ∈ s.dev.banks ∧ b.gang = g.id) ∧ (∀ b, b ∈ u.dev.banks ↔ b ∈ s.dev.banks ∧ b.gang ≠ g.id) ∧
        u.dev.gangs = s.dev.gangs.map (fun y => if y.id = g.id then x else y) ∧
        (∀ c, c ∈ x.savedMem ↔ c ∈ s.dev.mem ∧ ∃ b ∈ s.dev.banks, b.gang = g.id ∧ bankBase b ≤ c.1 ∧ c.1 < bankBase b + 0x4000) ∧
        (∀ e, e ∈ x.savedErrs ↔ e ∈ s.dev.errs ∧ ∃ b ∈ s.dev.banks, b.gang = g.id ∧ bankBase b ≤ e.1 ∧ e.1 < bankBase b + 0x4000) ∧
        u = { s with h := u.h, others := u.others, dev := { s.dev with
          banks := u.dev.banks
          mem := u.dev.mem
          errs := u.dev.errs
          gangs := u.dev.gangs } }
  /-- R310, R337: the one saved gang resumes on its empty place; the bodies of active loops are captured again (R292). -/
  | resume (g : Gang) (f : Hart → Hart) (gangs : s.dev.gangs = [g] ∧ s.dev.queues = [] ∧ s.dev.banks = [] ∧ s.dev.reserved = [])
      (saved : g.saved = true ∧ g.stopReq = none ∧ g.savedCmds = [] ∧ g.die < 8) (cores : ∀ p ∈ s.dev.parts, p.absent = [])
      (harts : ∀ h ∈ s.h :: s.others, h.status = .vacant ∨ h.status = .ended ∨ (h.status = .saved ∧ h.id.gang.toNat = g.id))
      (hf : ∀ h, f h = if h.id.gang.toNat = g.id ∧ h.status = .saved
        then { h with status := .running, vc := { h.vc with vlmaxr := h.vlmax }, sy := { h.sy with evt := true } } else h)
      (cells : s.dev.mem.wf = true ∧ g.savedMem.wf = true) (loops : ∀ h ∈ s.h :: s.others, h.lp.active = false) : AllocEvent s (.gangResume g.id) fun u =>
        u.h = f s.h ∧ u.others = s.others.map f ∧ u.dev.banks = g.savedBanks ∧
        (∀ c ∈ g.savedMem, homes u c.1 = c.2) ∧ (∀ j, (∀ c ∈ g.savedMem, c.1 ≠ j) → homes u j = homes s j) ∧
        u.dev.errs = s.dev.errs ++ g.savedErrs ∧ u.dev.gangs = [{ g with saved := false, savedBanks := [], savedMem := [], savedErrs := [] }]
  | resumeLoops (g : Gang) (gangs : s.dev.gangs = [g] ∧ s.dev.queues = [] ∧ s.dev.banks = [] ∧ s.dev.reserved = [])
      (saved : g.saved = true ∧ g.stopReq = none ∧ g.savedCmds = [] ∧ g.die < 8) (cores : ∀ p ∈ s.dev.parts, p.absent = [])
      (harts : ∀ h ∈ s.h :: s.others, h.status = .vacant ∨ h.status = .ended ∨ (h.status = .saved ∧ h.id.gang.toNat = g.id)) :
      AllocEvent s (.gangResume g.id) fun u => u.dev.banks = g.savedBanks ∧
        u.dev.gangs = [{ g with saved := false, savedBanks := [], savedMem := [], savedErrs := [] }] ∧
        (s.h.id.gang.toNat = g.id → s.h.status = .saved → u.h.status = .running ∧ u.h.sy.evt = true) ∧
        u.h.x = s.h.x ∧ u.h.v = s.h.v ∧ u.h.pc = s.h.pc
  | notSaved (g : Gang) (here : g ∈ s.dev.gangs ∧ ∀ x ∈ s.dev.gangs, x.id = g.id → x = g) (no : g.saved = false) :
      AllocEvent s (.gangResume g.id) (· = s)
  /-- R338: the harts of the core stop where they stand, their gangs are to be saved, a spare takes the core's place or, as
  R339 says, the core is absent. -/
  | retire (die core : Nat) (f : Hart → Hart) (p : DieParts → DieParts) (commands : s.dev.cmds = []) (noneSaved : ∀ g ∈ s.dev.gangs, g.saved = false)
      (strips : ∀ h ∈ s.h :: s.others, h.ms.strip = none ∧ h.ms.early = [])
      (hf : ∀ h, h.ms.strip = none → h.ms.early = [] → f h = if h.id.hartid.toNat / 256 = die ∧ h.id.hartid.toNat / 4 % 64 = core ∧ h.status = .running
        then { h with
          status := .stopped
          ms := { h.ms with bound := [], loadQ := [], landed := [] }
          sy := unwaiting h.sy
          db := if h.db.halted then { h.db with dpc := h.pc, delem := h.vc.vstart } else h.db } else h)
      (hp : ∀ x, p x = if x.die ≠ die then x else if 0 < x.spares then { x with spares := x.spares - 1 }
        else { x with absent := core :: x.absent.filter fun y => y ≠ core }) : AllocEvent s (.coreRetirement die core) fun u =>
        u.h = f s.h ∧ u.others = s.others.map f ∧ u.dev.parts = s.dev.parts.map p ∧
        (∀ g ∈ s.dev.gangs, g.ending = none → (∃ h ∈ s.h :: s.others, h.id.gang.toNat = g.id ∧ h.id.hartid.toNat / 256 = die ∧
          h.id.hartid.toNat / 4 % 64 = core ∧ (h.status = .running ∨ h.status = .stopped)) → { g with stopReq := some true } ∈ u.dev.gangs) ∧
        u = { s with h := u.h, others := u.others, dev := { s.dev with parts := u.dev.parts, gangs := u.dev.gangs } }

/-! ### The tile engine and factor tiles -/

/-- `t` is `w`, gone on behind an 8-byte tile instruction of `s` (R13, R25): VSTART is 0. -/
def DoneT (s w t : State) : Prop :=
  GoesOn s t 8 ∧ t = { w with h := { w.h with
    pc := t.h.pc
    pcHi := t.h.pcHi
    lp := t.h.lp
    vc := { w.h.vc with vstart := 0, ecm := 0 }
    sy := { w.h.sy with fromElem := none } } }

/-- Element (i, j) of a tile (R214). -/
def cell (x : TileReg) (i j : Nat) : Nat := (x.val.extractLsb' (32 * (64 * i + j)) 32).toNat

/-- `n` bits of row `r` of a latch from byte `b` on (R214). -/
def latchBits (x : BitVec 131072) (r b n : Nat) : Nat := (x.extractLsb' (8 * (256 * r + b)) n).toNat

/-- `u` is `s` with tile `k` being `x`. -/
def TileIs (s u : State) (k : Tile) (x : TileReg) : Prop :=
  u = { s with h := { s.h with t := { s.h.t with tile := s.h.t.tile.set k x } } }

/-- Product-mode work on tile `k` (R220, R223, R224, R228): the elements of `W` become what `v` says, the others stay; the tile
is in product mode and not BROKEN; its N is undefined. -/
structure ProductWork (s u : State) (k : Tile) (W : Nat → Nat → Prop) (v : Nat → Nat → Nat) : Prop where
  written : ∀ i < 64, ∀ j < 64, W i j → cell u.h.t.tile[k] i j = v i j
  kept : ∀ i < 64, ∀ j < 64, ¬W i j → cell u.h.t.tile[k] i j = cell s.h.t.tile[k] i j
  mode : u.h.t.tile[k].factor = false ∧ u.h.t.tile[k].broken = false
  errors : ∀ e ∈ u.h.t.tile[k].err, e ∈ s.h.t.tile[k].err ∧ ¬W (e / 64) (e % 64)
  rest : TileIs { s with tick := u.tick } u k u.h.t.tile[k]

/-- The vector that a latch operand supplies at step `k` (R223). -/
def topVector (x : BitVec 131072) (wide row hi : Bool) (k i : Nat) : FVal :=
  match wide, row with
  | false, false => bf16.value (latchBits x i (2 * k) 16)
  | false, true => bf16.value (latchBits x k (2 * (64 * hi.toNat + i)) 16)
  | true, false => f32.value (latchBits x i (4 * k) 32)
  | true, true => f32.value (latchBits x k (4 * i) 32)

/-- Rows or columns of TSHAPE (R216). -/
inductive Clip (x : BitVec 7) : Nat → Prop where
  | all : x = 0 → Clip x 64
  | some' : x ≠ 0 → x.toNat ≤ 64 → Clip x x.toNat

/-- Element `e`'s place in a tile (R224). -/
def placeOf (row : BitVec 6) (colw : Bool) (e : Nat) : Nat × Nat :=
  if colw then (e % 64, row.toNat + e / 64) else (row.toNat + e / 64, e % 64)

/-- A legal TRD or TWR (R224). -/
def LegalMove (s : State) (v : Reg) (row : BitVec 6) : Prop :=
  s.h.ew = 32 ∧ s.h.vc.vl ≤ (64 - row.toNat) * 64 ∧ v.val % s.h.grp = 0

/-- TILE instructions but TGL (R215-R224): what is illegal, whether a strip bars it, what the hart must own, what it
leaves. -/
inductive TileForm (s : State) : Instr → Prop → Bool → Prop → (State → Prop) → Prop where
  | zeroTile (t : Fin 6) (k : Tile) (h : t.val = k.val) : TileForm s (.tzero t) False true (s.h.t.town.getLsbD k.val = true) fun u =>
      ProductWork s u k (fun _ _ => True) fun _ _ => 0
  | zeroLatch (t : Fin 6) (k : Latch) (h : t.val = 4 + k.val) : TileForm s (.tzero t) False true
      (s.h.t.town.getLsbD (4 + k.val) = true) (· = { s with h := { s.h with t := { s.h.t with
        latch := s.h.t.latch.set k 0
        latchErr := s.h.t.latchErr.set k [] } } })
  | top (t : Tile) (a b : Latch) (w oa ob ha hb za : Bool) (n c K : Nat) (g : Nat → Nat → Nat → Nat) (hn : Clip s.h.t.rows n)
      (hc : Clip s.h.t.cols c) (hK : K = min s.h.vc.vl (min (if !w && !oa then 128 else 64) (if !w && !ob then 128 else 64)))
      (start : ∀ i j, g i j 0 = if za then 0 else cell s.h.t.tile[t] i j)
      (step : ∀ i j k, g i j (k + 1) = (f32.round .rne (sumProducts .rne [f32.value (g i j k)]
        [(topVector s.h.t.latch[a] w oa ha k i, topVector s.h.t.latch[b] w ob hb k j)])).bits) :
      TileForm s (.top t a b w oa ob ha hb za) False true
        (s.h.t.town.getLsbD t.val = true ∧ s.h.t.town.getLsbD (4 + a.val) = true ∧ s.h.t.town.getLsbD (4 + b.val) = true) fun u =>
        ProductWork s u t (fun i j => i < n ∧ j < c ∧ (0 < K ∨ za = true)) fun i j => g i j K
  | topShape (t : Tile) (a b : Latch) (w oa ob ha hb za : Bool) (bad : 64 < s.h.t.rows.toNat ∨ 64 < s.h.t.cols.toNat) :
      TileForm s (.top t a b w oa ob ha hb za) True true True fun _ => False
  | twr (t : Tile) (b : Reg) (row : BitVec 6) (colw : Bool) : TileForm s (.twr t b row colw) (¬LegalMove s b row) true
      (s.h.t.town.getLsbD t.val = true) fun u =>
      ProductWork s u t (fun i j => ∃ e < s.h.vc.vl, placeOf row colw e = (i, j)) fun i j =>
        s.h.elem b.val (if colw then 64 * (j - row.toNat) + i else 64 * (i - row.toNat) + j) 32
  | trd (d : Reg) (t : Tile) (row : BitVec 6) (colw clr : Bool) (h0 : Hart) (cl : Claimed s.h d s.h.grp h0) :
      TileForm s (.trd d t row colw clr) (¬LegalMove s d row) clr (s.h.t.town.getLsbD t.val = true) fun u =>
      ∃ (g : Nat → Hart) (x : TileReg), g 0 = h0 ∧ (∀ e < s.h.vc.vl, g (e + 1) =
          (g e).setElem d.val e 32 (cell s.h.t.tile[t] (placeOf row colw e).1 (placeOf row colw e).2)) ∧
        (clr = false → x = s.h.t.tile[t]) ∧
        (clr = true → (∀ i < 64, ∀ j < 64, cell x i j = if ∃ e < s.h.vc.vl, placeOf row colw e = (i, j) then 0 else cell s.h.t.tile[t] i j) ∧
          x = { s.h.t.tile[t] with val := x.val, err := x.err }) ∧
        TileIs { s with h := g s.h.vc.vl } u t x

/-- Row `i` of a gather may be read (R221, R222): 256 bytes at `a` that start a line and stay in one scratch bank of the gang,
which is not tracked or READY; byte `j` as the hart sees it is `v j`. -/
def RowReads (s : State) (a : Nat) (v : Nat → Byte) : Prop :=
  ∃ base core n b off, BankAddress s base core n ∧ a = base + off ∧ off % 128 = 0 ∧ off ≤ 0x3F00 ∧
    s.dev.bank? (s.h.id.hartid.toNat / 256) core n = some b ∧ b.gang = s.h.id.gang.toNat ∧ b.mode = .scratch ∧
    (b.trk = true → b.st = 2) ∧ b.die = s.h.id.hartid.toNat / 256 ∧ b.core = core ∧ b.num = n ∧
    s.dev.owned (bankBase b + off) = false ∧ s.dev.owned (bankBase b + off + 128) = false ∧
    s.dev.bad (bankBase b + off) 256 = false ∧ s.h.watchHit .load a 256 = none ∧
    ∀ j < 256, v j = seen s.h.ownStores (homes s (bankBase b + off + j)) (bankBase b + off + j)

/-! ### Factor tiles -/

/-- What every FACT instruction that reads a factor needs (R230): tile, its order. -/
structure FactorTile (s : State) (k : Tile) (n : Nat) : Prop where
  start : s.h.vc.vstart = 0
  owned : s.h.t.town.getLsbD k.val = true
  factor : s.h.t.tile[k].factor = true
  order : n = s.h.t.tile[k].n.toNat ∧ 1 ≤ n ∧ n ≤ 64

/-- Operands of order `n` (R230). -/
def Operands (s : State) (n : Nat) (vs : List Reg) : Prop := s.h.ew = 32 ∧ s.h.vc.vl = n ∧ ∀ v ∈ vs, v.val % s.h.grp = 0

/-- A code that is neither NaN nor infinite: its exponent field is not all ones. -/
def Finite (x : Nat) : Prop := x / 2 ^ 23 % 256 ≠ 255

/-- RoundTo(·, binary32, RNE) (R230). -/
def rounded (x : Exact) : Nat := (f32.round .rne x).bits

/-- A finite number. -/
def ratOf (d : Dy) : ℚ := (if d.neg then -1 else 1) * d.m * (2 : ℚ) ^ d.e

/-- The number of a finite code. -/
def numberOf (x : Nat) : ℚ :=
  match f32.value x with
  | .fin d => ratOf d
  | _ => 0

/-- R233: r² - t² does not exceed δ r². -/
def Lost (dlt r t : Nat) : Prop := numberOf r ^ 2 - numberOf t ^ 2 ≤ numberOf r ^ 2 / 2 ^ dlt

/-- ρ, c and s of a column (R232). `dlt` marks a removal. -/
structure Rotation (dlt : Option Nat) (r t rho c s : Nat) : Prop where
  q : ∃ q, q = rounded (sumProducts .rne [if dlt.isSome then (f32.value (rounded (sumProducts .rne [] [(f32.value t, f32.value t)]))).negate
      else f32.value (rounded (sumProducts .rne [] [(f32.value t, f32.value t)]))] [(f32.value r, f32.value r)]) ∧
    (0 < q ∧ q < 2 ^ 31 → rho = rounded (squareRoot (f32.value q))) ∧
    (¬(0 < q ∧ q < 2 ^ 31) → rho = rounded (squareRoot (sumProducts .rne [] [(f32.value r, f32.value r),
      (if dlt.isSome then (f32.value t).negate else f32.value t, f32.value t)]).v))
  c : c = rounded (divide (f32.value r) (f32.value rho))
  s : s = rounded (divide (f32.value t) (f32.value rho))

/-- Element `j` of the new row and of the new vector (R232). -/
def newRow (dlt : Option Nat) (c s x y : Nat) : Nat :=
  rounded (sumProducts .rne [] [(f32.value c, f32.value x), (if dlt.isSome then (f32.value s).negate else f32.value s, f32.value y)])
def newVec (c s x y : Nat) : Nat :=
  rounded (sumProducts .rne [] [(f32.value c, f32.value y), ((f32.value s).negate, f32.value x)])

/-- Column `k` of a sweep over `n` columns (R232): the tile `C` and the vector `w` before and after. -/
inductive Column (dlt : Option Nat) (n k : Nat) (C C' : Nat → Nat → Nat) (w w' : Nat → Nat) : Prop where
  | skip (no : dlt = none) (zero : C k k % 2 ^ 31 = 0 ∧ w k % 2 ^ 31 = 0) (hC : C' = C) (hw : w' = w) : Column dlt n k C C' w w'
  | turn (rho c s : Nat) (keep : ∀ d, dlt = some d → ¬Lost d (C k k) (w k)) (some' : dlt = none → ¬(C k k % 2 ^ 31 = 0 ∧ w k % 2 ^ 31 = 0))
      (rot : Rotation dlt (C k k) (w k) rho c s) (finite : Finite rho ∧ Finite c ∧ Finite s)
      (row : ∀ j, k < j → j < n → Finite (newRow dlt c s (C k j) (w j)) ∧ Finite (newVec c s (C k j) (w j)))
      (hC : ∀ i j, C' i j = if i = k ∧ j = k then rho else if i = k ∧ k < j ∧ j < n then newRow dlt c s (C k j) (w j) else C i j)
      (hw : ∀ j, w' j = if k < j ∧ j < n then newVec c s (C k j) (w j) else w j) : Column dlt n k C C' w w'

/-- A column that overflows (R234). -/
def Overflows (dlt : Option Nat) (n k : Nat) (C : Nat → Nat → Nat) (w : Nat → Nat) : Prop :=
  ∃ rho c s, (∀ d, dlt = some d → ¬Lost d (C k k) (w k)) ∧ (dlt = none → ¬(C k k % 2 ^ 31 = 0 ∧ w k % 2 ^ 31 = 0)) ∧
    Rotation dlt (C k k) (w k) rho c s ∧ (¬Finite rho ∨ ¬Finite c ∨ ¬Finite s ∨
      ∃ j, k < j ∧ j < n ∧ (¬Finite (newRow dlt c s (C k j) (w j)) ∨ ¬Finite (newVec c s (C k j) (w j))))

/-- The sweep's first `k` columns are done: the elements of the tile and the vector before column `i` are `C i` and `w i`. -/
structure SweptTo (s : State) (t : Tile) (b : Reg) (dlt : Option Nat) (n k : Nat) (C : Nat → Nat → Nat → Nat) (w : Nat → Nat → Nat) :
    Prop where
  tile : ∀ i < 64, ∀ j < 64, C 0 i j = cell s.h.t.tile[t] i j
  vec : ∀ j < n, w 0 j = s.h.elem b.val j 32
  columns : ∀ i < k, Column dlt n i (C i) (C (i + 1)) (w i) (w (i + 1))

/-- TFUPD and TFDND with the exponent of δ (R229, R233). -/
inductive SweepForm : Instr → Tile → Reg → Option Nat → Prop where
  | tfupd (t : Tile) (b : Reg) : SweepForm (.tfupd t b) t b none
  | tfdnd (t : Tile) (b : Reg) (d : BitVec 6) : SweepForm (.tfdnd t b d) t b (some (if d = 0 then 20 else d.toNat))

/-- `x` has the elements `v` and is otherwise `y`. -/
def CellsAre (x y : TileReg) (v : Nat → Nat → Nat) : Prop :=
  (∀ i < 64, ∀ j < 64, cell x i j = v i j) ∧ x.factor = y.factor ∧ x.n = y.n ∧ x.broken = y.broken

/-- Element `i` of a solve: the numerator's terms are `b` and the negated products (R235). -/
def quotient (b : Nat) (ts : List (Nat × Nat)) (d : Nat) : Nat :=
  rounded (divide (sumProducts .rne [f32.value b] (ts.map fun p => ((f32.value p.1).negate, f32.value p.2))).v (f32.value d))

/-- The solution `z` of TFSOLV with PART (R235); `y` is what the forward part gives. -/
structure Solved (x : TileReg) (n : Nat) (part : BitVec 2) (b y z : Nat → Nat) : Prop where
  forward : part ≠ 2 → ∀ i < n, y i = quotient (b i) ((List.range i).map fun k => (cell x k i, y k)) (cell x i i) ∧ Finite (y i)
  given : part = 2 → ∀ i < n, y i = b i
  back : part ≠ 1 → ∀ i < n, z i = quotient (y i) ((List.range (n - (i + 1))).map fun k => (cell x i (i + 1 + k), z (i + 1 + k)))
    (cell x i i) ∧ Finite (z i)
  taken : part = 1 → ∀ i < n, z i = y i

/-- Line `i` of an image at `base` (R237, R238): line 0 is the header, row `i` stands in lines 2i + 1 and 2i + 2. -/
def imageLine (base : Word) (i : Nat) : Nat := (base.toNat + 128 * i) % 2 ^ 64

/-- The bytes of the rows of an image. -/
def rowsOf (x : TileReg) (n : Nat) : List Byte := (List.range (256 * n)).map fun j => x.val.extractLsb' (8 * j) 8

/-- The CRC of an image: header bytes 0-11 and the rows (R237). -/
def imageCrc (n : Nat) (broken : Bool) (rows : List Byte) : Nat :=
  crc32c (BitVec.ofNat 8 (n + 128 * broken.toNat) :: List.replicate 11 0 ++ rows)

/-- R28, R290, R292: a branch whose comparison holds goes to its address plus twice the displacement, another goes on;
no register, flag or byte of memory changes (but the trace buffer of a traced hart). -/
def Branches : Prop :=
∀ (s : State) (i : Instr) (c : Prop) (disp : Int) (n : Nat), Branch s i c disp n →
    ∃ t, exec i s = .next t ∧
      (c → Transfers s t (BitVec.ofInt 64 (s.h.pc.toNat + 2 * disp)) ∧ t.h.x = s.h.x) ∧
      (¬c → GoesOn s t n ∧ t = { s with h := { s.h with pc := t.h.pc, pcHi := t.h.pcHi, lp := t.h.lp } })

/-- R290: a jump computes its target first, then writes the address after it to rd (x0 stays zero), then goes there. -/
def Jumps : Prop :=
∀ (s : State) (i : Instr) (d : Reg) (target : Word) (n : Nat), Jump s i d target n →
    target.toNat % 2 = 0 → ∃ t, exec i s = .next t ∧ Transfers s t target ∧
      ∀ r, t.getX r = if r = d ∧ r ≠ 0 then BitVec.ofNat 64 (s.h.pc.toNat + n) else s.getX r

/-- R24, R290: a jump through a register whose target has bit 0 set raises MISALIGN with EADDR the target; rd is
unchanged, for the trap is taken of the state as it was. -/
def OddTargetTraps : Prop :=
∀ (s : State) (d a : Reg),
    (∀ i : BitVec 15, (s.getX a + i.signExtend 64).toNat % 2 = 1 →
      exec (.jalr d a i) s = .next (takeTrap .misalign 0 (s.getX a + i.signExtend 64) s)) ∧
    (∀ i : BitVec 41, (s.getX a + i.signExtend 64).toNat % 2 = 1 →
      exec (.jalrPxi d a i) s = .next (takeTrap .misalign 0 (s.getX a + i.signExtend 64) s)) ∧
    ((s.getX a).toNat % 2 = 1 → exec (.cJr a) s = .next (takeTrap .misalign 0 (s.getX a) s))

/-- R284, R187, R189: every scalar floating-point instruction whose flags are not enabled to trap completes: rd holds the
result, the flag registers are as R189 says (element 0), nothing else changes. -/
def ScalarFloatResults : Prop :=
∀ (s : State) (i : Instr) (d : Reg) (fl : Fl) (v : Word), ScalarFloat s i d fl v → fl &&& s.h.f.fen = 0 →
    ∃ t, exec i s = .next t ∧ (∀ r, t.getX r = if r = d ∧ r ≠ 0 then v else s.getX r) ∧ Raised s t 0 fl ∧ GoesOn s t 4 ∧
      t = { s with h := { s.h with x := t.h.x, f := t.h.f, pc := t.h.pc, pcHi := t.h.pcHi, lp := t.h.lp } }

/-- R190: a scalar form that raises an enabled class keeps its flags, writes no destination, and raises FPTRAP with element
and EADDR 0. -/
def ScalarFloatTraps : Prop :=
∀ (s : State) (i : Instr) (d : Reg) (fl : Fl) (v : Word), ScalarFloat s i d fl v → fl &&& s.h.f.fen ≠ 0 →
    ∃ u, exec i s = .next (takeTrap .fptrap 0 0 u) ∧ Raised s u 0 fl ∧ u = { s with h := { s.h with f := u.h.f } }

/-- R286, R267, R27, R50, R115: a scalar load within one page or bank completes at any alignment: rd takes the bytes the
hart sees, own stores that are not yet at home before memory, little-endian and extended as the width says; no byte of
memory and nothing else changes. -/
def LocalLoads : Prop :=
∀ (s : State) (i : Instr) (d : Reg) (va : Word) (n : Nat) (sg : Bool) (len : Nat) (loc : Loc),
    ScalarLoad s i d va n sg len → Placed s va.toNat n .load loc → InMemory s loc n → Unwatched s .load va.toNat n →
    ∃ t, exec i s = .next t ∧ WritesOnly s t d (widened n sg (seenNat s loc.key n)) ∧ GoesOn s t len

/-- R276, R48, R342: an aligned scalar load of another device of the domain reaches it and takes its bytes, or raises
MCHECK where the device does not answer. What the fabric queue then holds is the model's choice (notes/assumptions/8.md). -/
def RemoteLoads : Prop :=
∀ (s : State) (i : Instr) (d : Reg) (va : Word) (n : Nat) (sg : Bool) (len : Nat) (l : Leaf) (loc : Loc) (e : Nat)
    (up : Bool) (u : State),
    ScalarLoad s i d va n sg len → va.toNat % n = 0 → Mapped s va.toNat .load l loc → OnDevice s loc n e →
    Unwatched s .load va.toNat n → s.remoteAccess e = (up, u) → s.dev.bad loc.key n = false →
    (up = true → ∃ t, exec i s = .next t ∧ GoesOn s t len ∧
      (∀ r, t.getX r = if r = d ∧ r ≠ 0 then widened n sg (s.dev.mem.getNat loc.key n) else s.getX r) ∧
      t = { s with h := { s.h with
        x := t.h.x
        pc := t.h.pc
        pcHi := t.h.pcHi
        lp := t.h.lp
        ms := { s.h.ms with landed := [landedLoad s loc n (some (s.dev.mem.getBytes loc.key n))] } } }) ∧
    (up = false → exec i s = .next (takeTrap .mcheck 0 va { u with h := { s.h with
      ms := { s.h.ms with landed := [landedLoad s loc n none] } } }))

/-- R287, R49: a scalar load or store of a NONIDEM page that is not naturally aligned raises PERM with EADDR its
address. -/
def MisalignedNonidem : Prop :=
∀ (s : State) (i : Instr) (r : Reg) (va : Word) (n len : Nat) (l : Leaf) (loc : Loc), InStep s →
    va.toNat % n ≠ 0 → va.toNat % 0x10000 + n ≤ 0x10000 →
    ((∃ sg, ScalarLoad s i r va n sg len) ∧ Nonidem s va.toNat .load l loc →
      exec i s = .next (takeTrap .perm 0 va s)) ∧
    (ScalarStore s i r va n len ∧ Nonidem s va.toNat .store l loc → exec i s = .next (takeTrap .perm 0 va s))

/-- R286, R265, R273: a scalar store outside a strip, within one page or bank and of any home and alignment, completes:
the low bytes of its register enter the store queue as its youngest entry, one part for each line; no register and no
byte of memory changes. -/
def ScalarStores : Prop :=
∀ (s : State) (i : Instr) (r : Reg) (va : Word) (n len : Nat) (loc : Loc),
    ScalarStore s i r va n len → Placed s va.toNat n .store loc → Unwatched s .store va.toNat n → s.h.ms.strip = none →
    ∃ t, exec i s = .next t ∧ GoesOn s t len ∧
      t = { s with h := { s.h with
        pc := t.h.pc
        pcHi := t.h.pcHi
        lp := t.h.lp
        ms := { s.h.ms with storeQ := s.h.ms.storeQ ++ partsOf s loc va.toNat n (s.getX r).toNat none } } }

/-- R250, R251: inside a strip the same store is held by the strip, untagged, while its live bytes stay within its
share; else it raises STRIPCAP. -/
def StripHoldsStores : Prop :=
∀ (s : State) (st : Strip) (i : Instr) (r : Reg) (va : Word) (n len : Nat) (loc : Loc),
    ScalarStore s i r va n len → Placed s va.toNat n .store loc → Unwatched s .store va.toNat n → s.h.ms.strip = some st →
    ((st.held.map fun x => x.part.bytes.length).sum + n ≤ st.share →
      ∃ t, exec i s = .next t ∧ GoesOn s t len ∧
        t = { s with h := { s.h with
          pc := t.h.pc
          pcHi := t.h.pcHi
          lp := t.h.lp
          ms := { s.h.ms with
            strip := some { st with held := st.held ++ (partsOf s loc va.toNat n (s.getX r).toNat none).map (⟨none, ·⟩) } } } }) ∧
    (st.share < (st.held.map fun x => x.part.bytes.length).sum + n →
      exec i s = .next (takeTrap .stripcap 0 (BitVec.ofNat 64 s.h.pc.toNat) s))

/-- R289, R297: an acquire load completes as a load does, sets the monitored line, and leaves nothing bound ahead. -/
def AcquireLoads : Prop :=
∀ (s : State) (i : Instr) (d a : Reg) (n : Nat) (l : Leaf) (loc : Loc), OrderedLoad i d a n →
    (s.getX a).toNat % n = 0 → Mapped s (s.getX a).toNat .load l loc → AtHome s loc n →
    Unwatched s .load (s.getX a).toNat n → s.h.ms.strip = none →
    ∃ t, exec i s = .next t ∧ GoesOn s t 4 ∧
      (∀ r, t.getX r = if r = d ∧ r ≠ 0 then BitVec.ofNat 64 (seenNat s loc.key n) else s.getX r) ∧
      t = { s with h := { s.h with
        x := t.h.x
        pc := t.h.pc
        pcHi := t.h.pcHi
        lp := t.h.lp
        sy := { s.h.sy with mon := some (loc.key / 128 * 128), monAddr := BitVec.ofNat 52 (s.getX a).toNat } } }

/-- R289, R274: a release store completes as a store does; its entry carries its scope, for DRAIN to wait by. -/
def ReleaseStores : Prop :=
∀ (s : State) (i : Instr) (r a : Reg) (n : Nat) (k : BitVec 3) (l : Leaf) (loc : Loc), OrderedStore i r a n k →
    (s.getX a).toNat % n = 0 → Mapped s (s.getX a).toNat .store l loc →
    (regionOf loc.key = .hbm ∨ regionOf loc.key = .cxl) → Unwatched s .store (s.getX a).toNat n → s.h.ms.strip = none →
    s.h.ms.fabFail = none → s.h.ms.tierFail = none →
    ∃ t, exec i s = .next t ∧ GoesOn s t 4 ∧
      t = { s with h := { s.h with
        pc := t.h.pc
        pcHi := t.h.pcHi
        lp := t.h.lp
        ms := { s.h.ms with storeQ := s.h.ms.storeQ ++ [partOf s loc (s.getX a).toNat n (s.getX r).toNat (some k.toNat)] } } }

/-- R289: an ordered access or an atomic whose address is not naturally aligned raises MISALIGN with EADDR the address. -/
def OrderedMisaligned : Prop :=
∀ (s : State) (i : Instr), s.h.ms.strip = none →
    (∀ (d a : Reg) (n : Nat), OrderedLoad i d a n → (s.getX a).toNat % n ≠ 0 →
      exec i s = .next (takeTrap .misalign 0 (s.getX a) s)) ∧
    (∀ (r a : Reg) (n : Nat) (k : BitVec 3), OrderedStore i r a n k → (s.getX a).toNat % n ≠ 0 →
      exec i s = .next (takeTrap .misalign 0 (s.getX a) s)) ∧
    (∀ (d a b : Reg) (rl aq : Bool) (k : BitVec 3) (z : Bool) (f : Nat → Nat → Nat → Nat), Atomic s i d a b rl aq k z f →
      (s.getX a).toNat % (if z then 8 else 4) ≠ 0 → exec i s = .next (takeTrap .misalign 0 (s.getX a) s))

/-- R275: a FENCE whose hart has no store under way completes and changes nothing but what may be bound ahead and, at
scope core or wider, which contents of a parcel a later fetch may give (R43; notes/assumptions/73.md). -/
def FenceCompletes : Prop :=
∀ (s : State) (k : BitVec 5), s.h.ms.strip = none → s.h.ms.storeQ = [] → s.h.ms.fabricQ = [] → s.h.ms.fabFail = none →
    s.h.ms.tierFail = none →
    ∃ t, exec (.fence k) s = .next t ∧ GoesOn s t 4 ∧
      t = { s with h := { s.h with
        pc := t.h.pc
        pcHi := t.h.pcHi
        lp := t.h.lp
        ms := { s.h.ms with
          bound := []
          ibuf := if 1 ≤ k.toNat then [] else s.h.ms.ibuf
          codeMem := if 1 ≤ k.toNat then s.dev.mem else s.h.ms.codeMem } } }

/-- R25, R41: when nothing disturbs the hart and the bytes at its PC decode to an instruction, the step is that
instruction's meaning at the state that the fetch leaves, with what a step does around it. The model's choice, no rule of the
spec: the completion mask that a vector instruction leaves (notes/assumptions/51.md), and that a resumption drops the units of a
form other than the one that left them (notes/assumptions/56.md). -/
def StepRunsInstruction : Prop :=
∀ (s : State) (k n w : Nat) (i : Instr), Undisturbed s → CodeAt s k n w → decode w = .ok i →
    ∃ u, AfterFetch s u w ∧
      step s = match exec i u with
        | .next t => .next (afterInstr s t)
        | .fault f => .fault f
        | .refused r => .refused r

/-- R40: bytes that no encoding admits raise ILLEGAL. -/
def UndefinedWordIsIllegal : Prop :=
∀ (s : State) (k n w : Nat) (e : DecodeErr), Undisturbed s → CodeAt s k n w → decode w = .error e →
    ∃ u, AfterFetch s u w ∧
      step s = .next (afterInstr s (takeTrap .illegal 0 (s.h.pc.setWidth 64) u))

/-- R324, R320: a trap outside a strip, of a hart with a handler and without a trace, enters the handler: the bank takes
the resumable position, the cause, the address and the vector state, and nothing else of the machine changes. -/
def TrapEntry : Prop :=
∀ (s : State) (c : Cause) (el : Nat) (a : Word), s.h.hr.hvec ≠ 0 → s.h.ms.strip = none → s.traceUnit = none →
    ((AtInstruction c → Entered s (takeTrap c el a s) false c.code (s.h.pc.setWidth 64) el s.h.vc.vstart) ∧
     (AtElement c → Entered s (takeTrap c el a s) false c.code a el (BitVec.ofNat 48 el)) ∧
     (¬AtInstruction c → ¬AtElement c → Entered s (takeTrap c el a s) false c.code a el s.h.vc.vstart))

/-- R258, R259: a trap inside a strip abandons the strip and enters the handler from its VSTRIP, element 0; EADDR is the
address of the instruction that raised it, or the cause's own. -/
def TrapInStrip : Prop :=
∀ (s : State) (st : Strip) (h : Hart) (c : Cause) (el : Nat) (a : Word), s.h.ms.strip = some st → OneSlice st →
    Abandoned s.h st h → s.h.hr.hvec ≠ 0 → s.traceUnit = none →
    (AtInstruction c → Entered { s with h := h } (takeTrap c el a s) false c.code (s.h.pc.setWidth 64) el 0) ∧
    (¬AtInstruction c → Entered { s with h := h } (takeTrap c el a s) false c.code a el 0)

/-- R328: TRET in handler mode whose bank is not lost and whose EVTYPE is valid returns: mode, PC, VTYPE, VL, VSTART and
the completion mask come back from the bank; the stores of the handler are to be performed before the next access of the
task; a VSTRIP returned to may get its hold (R260); nothing else changes. -/
def HandlerReturn : Prop :=
∀ (s : State) (vm vl : Nat), s.h.handler = true → s.h.ms.strip = none → s.traceUnit = none →
    (s.h.hr.hstat.vlost = true → s.h.hr.hstat.pm = true) →
    s.h.hr.evtype.toNat % 8 ≤ 3 → s.h.hr.evtype &&& 0xFFFFFFFFFFFFFF48 = 0 →
    vm = min (1024 * s.h.id.lanes) (1024 * 2 ^ s.h.vc.cap.toNat) / (8 * 2 ^ (s.h.hr.evtype.toNat % 4)) *
      2 ^ (s.h.hr.evtype.toNat / 16 % 4) →
    vl = min s.h.hr.evl.toNat vm →
    ∃ t, exec .tret s = .next t ∧
      (∀ i : Nat, i < 16384 → t.h.vc.ecm.getLsbD i = (s.h.hr.hstat.ecmv && decide (i < vl) && s.h.hr.hecm.getLsbD i)) ∧
      t = { s with h := { s.h with
        handler := s.h.hr.hstat.pm
        pc := s.h.hr.epc
        pcHi := 0
        vc := { s.h.vc with
          ew := s.h.hr.evtype.extractLsb' 0 2
          grp := s.h.hr.evtype.extractLsb' 4 2
          vspec := false
          vlmaxr := vm
          vl := vl
          vstart := s.h.hr.evstart
          ecm := t.h.vc.ecm }
        hr := { s.h.hr with hstat := { s.h.hr.hstat with pm := s.h.hr.hstat.pm && !s.h.hr.hstat.vlost } }
        ms := { s.h.ms with
          bound := []
          retDrain := true
          resumeHold := t.h.ms.resumeHold
          holdNext := t.h.ms.holdNext }
        sy := { s.h.sy with tierClock := [], tierAsk := none, pendWait := none, fromElem := none } } }

/-- R328, R326, R361: TRET ends the gang when the task's bank is lost: every hart of it with its strip, without the
completion add, and HLOST is reported with cause 0 and the EPC, EADDR and EELEM that the bank holds. It raises ILLEGAL for
an EVTYPE that no VTYPE is. -/
def HandlerReturnFails : Prop :=
∀ s : State, s.h.handler = true → s.h.ms.strip = none →
    (∀ g : Gang, s.h.hr.hstat.vlost = true → s.h.hr.hstat.pm = false → s.h.status = .running →
      s.dev.gangs.find? (fun x => x.id == s.h.id.gang.toNat) = some g →
      ∃ t, exec .tret s = .next t ∧ GangEnded s t ∧ t.h.x = s.h.x ∧
        Reports s t g fun r => r.kind = 3 ∧ r.cause = 0 ∧ r.epc = s.h.hr.epc.setWidth 64 ∧ r.eaddr = s.h.hr.eaddr ∧
          r.eelem = s.h.hr.eelem.toNat) ∧
    (¬(s.h.hr.hstat.vlost = true ∧ s.h.hr.hstat.pm = false) →
      (3 < s.h.hr.evtype.toNat % 8 ∨ s.h.hr.evtype &&& 0xFFFFFFFFFFFFFF48 ≠ 0) →
      exec .tret s = .next (takeTrap .illegal 0 (s.h.pc.setWidth 64) s))

/-- R13, R14, R15, R322, R323: MFSR of an assigned number, outside a strip and in a mode that may name it, gives rd the
register's value and changes nothing else. -/
def SystemRegisterReads : Prop :=
∀ (s : State) (d : Reg) (n : BitVec 12) (v : Word), SysValue s n.toNat v → s.h.ms.strip = none →
    (0x100 ≤ n.toNat → s.h.handler = true) →
    ∃ t, exec (.mfsr d n) s = .next t ∧ Done s (s.setX d v) t 4

/-- R13, R14, R17, R322, R323: MTSR writes the fields that the register has, and changes nothing else. -/
def SystemRegisterWrites : Prop :=
∀ (s : State) (a : Reg) (n : BitVec 12) (h : Hart), SysWrite s (s.getX a) n.toNat h → s.h.ms.strip = none →
    (0x100 ≤ n.toNat → s.h.handler = true) →
    ∃ t, exec (.mtsr a n) s = .next t ∧ Done s { s with h := h } t 4

/-- R61, R62, R329, R330, R331: the handler-only forms have their effect in handler mode. -/
def HandlerForms : Prop :=
∀ (s : State) (i : Instr) (u : State), HandlerForm s i u → s.h.handler = true → s.h.ms.strip = none →
    ∃ t, exec i s = .next t ∧ Done s u t 4

/-- R61, R297, R352, R355: WAIT, SEV, TPROBE, SPREAD, SPCLR and TMARK have their effect outside a strip. The
model's choice, no rule of the spec: what TPROBE answers for a cause that R61 does not list (notes/assumptions/48.md). -/
def TaskForms : Prop :=
∀ (s : State) (i : Instr) (u : State), TaskForm s i u → s.h.ms.strip = none → ∃ t, exec i s = .next t ∧ Done s u t 4

/-- R178, R180: VCPOP, VFIRST and VMV.XS give rd its value and change nothing else but VSTART. -/
def VectorScalars : Prop :=
∀ (s : State) (i : Instr) (bad : Prop) (d : Reg) (v : Word), VectorScalar s i bad d v →
    (bad → exec i s = .next (takeTrap .illegal 0 (s.h.pc.setWidth 64) s)) ∧
    (¬bad → ∃ t, exec i s = .next t ∧ Finished s (s.setX d v).h t)

/-- R180-R183: VMV.SX, compression, expansion, running sums and key sorts complete with the elements that their rules
give; the source of a sort keeps equal keys in order. -/
def VectorPermutes : Prop :=
∀ (s : State) (i : Instr) (bad : Prop) (d : Reg) (body : Hart → Hart → Prop), VectorWhole s i bad d body →
    Acts s i bad d s.h.grp body

/-- R190: with traps enabled the elements before the first one that raises an enabled class are performed; that one keeps
its flags, writes no element, and raises FPTRAP with its index. -/
def VectorFloatTraps : Prop :=
∀ (s : State) (i : Instr) (bad : Prop) (d : Reg) (n : Nat) (m z : Bool) (w : Nat) (F : Nat → Hart → FRes) (h : Hart)
    (g : Nat → Hart) (e : Nat), FloatElement s i bad d n m z w F → ¬bad → Claimed s.h d n h →
    g h.vc.vstart.toNat = h → h.vc.vstart.toNat ≤ e → e < h.vc.vl →
    (∀ k, h.vc.vstart.toNat ≤ k → k < e → g (k + 1) = (if on (g k) m k then tookResult (g k) d w k (F k (g k)) else g k) ∧
      (on (g k) m k = true → (F k (g k)).fl &&& h.f.fen = 0)) →
    on (g e) m e = true → (F e (g e)).fl &&& h.f.fen ≠ 0 →
    exec i s = .next (takeTrap .fptrap e 0 { s with h := (g e).raise e (F e (g e)).fl })

/-- R185, R187: a float form raises ILLEGAL where FRM names no mode and the form rounds, and at e8. -/
def VectorFloatIllegal : Prop :=
∀ (s : State) (i : Instr),
    (Rounds i → rmOf s.h.f.frm = none → exec i s = .next (takeTrap .illegal 0 (s.h.pc.setWidth 64) s)) ∧
    (Rounds i → s.h.ew = 8 → exec i s = .next (takeTrap .illegal 0 (s.h.pc.setWidth 64) s)) ∧
    (∀ (v : VArgs) (b q : Bool) (C : FVal → FVal → Bool), FloatCompare i v b q C → s.h.ew = 8 →
      exec i s = .next (takeTrap .illegal 0 (s.h.pc.setWidth 64) s))

/-- R202-R204, R207, R211: a reduction or a merge with VSTART 0 and no enabled class raised puts its results into the
elements from 0 on, zeroes the rest when z = 1, reports its flags, and completes; an enabled class raises FPTRAP with
element 0 and leaves the destination as it was (R190). -/
def VectorReductions : Prop :=
∀ (s : State) (i : Instr) (bad : Prop) (d : Reg) (z : Bool) (xs : List Nat) (fls : List (Nat × Fl)),
    VectorReduce s i bad d z xs fls →
    (¬Traps s.h fls → Acts s i (bad ∨ s.h.vc.vstart ≠ 0) d s.h.grp fun h h' => PutsFrom d z xs (Reported h fls) h') ∧
    (¬bad → s.h.vc.vstart = 0 → ∀ h, Claimed s.h d s.h.grp h → Traps s.h fls →
      exec i s = .next (takeTrap .fptrap 0 0 { s with h := Reported h fls }))

/-- R205: a float scan with VSTART 0 and no enabled class raised writes each active element its running sum, reports each
element's flags at its index, and completes. -/
def VectorScans : Prop :=
∀ (s : State) (i : Instr) (d a b : Reg) (m z w : Bool) (xs : List (Nat × FRes)), FloatScan s i d a b m z w xs →
    ¬Traps s.h (xs.map fun x => (x.1, x.2.fl)) →
    Acts s i (BadScan s.h d a b w false ∨ s.h.vc.vstart ≠ 0) d s.h.grp fun h h' =>
      ∃ (g : Nat → Hart), g 0 = Reported h (xs.map fun x => (x.1, x.2.fl)) ∧
        (∀ k (hk : k < xs.length), g (k + 1) = (g k).setElem d.val xs[k].1 s.h.ew xs[k].2.bits) ∧
        ∃ g2 : Nat → Hart, g2 0 = g xs.length ∧ g2 s.h.vlmax = h' ∧ ∀ k < s.h.vlmax, g2 (k + 1) =
          if z = true ∧ ¬(k < s.h.vc.vl ∧ on s.h m k = true) then (g2 k).zeroElem d.val k s.h.ew else g2 k

/-- R138, R139, R140, R143, R19: VSETVL, VSETVLI and VSETVLM outside a strip take the pending CAP, set VTYPE, VLMAXR and VL,
give rd the new length, set VSTART to 0, and leave a replaying loop when X = 1 and the length is 0. The allocator makes no
repartition here. -/
def VsetLengths : Prop :=
∀ (s : State) (h : Hart) (i : Instr) (d : Reg) (ew grp : BitVec 2) (r x : Bool) (len : Nat → Nat) (vm : Nat),
    CapTaken s.h h → Vset s h i d ew grp r x len → s.h.ms.strip = none → s.oracle = [] →
    vm = vlmaxUnder s.h s.h.hr.vlcap ew grp →
    ∃ t, exec i s = .next t ∧ VsetDone s h d ew grp vm (len vm) (BitVec.ofNat 64 (len vm)) x t

/-- R138, R254: inside a strip a VSET without R keeps the CAP in force and sets the length; with R it raises STRIPOP. -/
def VsetInStrip : Prop :=
∀ (s : State) (i : Instr) (d : Reg) (ew grp : BitVec 2) (r x : Bool) (len : Nat → Nat) (vm : Nat),
    Vset s s.h i d ew grp r x len → s.h.ms.strip.isSome → vm = vlmaxUnder s.h s.h.vc.cap ew grp →
    (r = false → ∃ t, exec i s = .next t ∧ VsetDone s s.h d ew grp vm (len vm) (BitVec.ofNat 64 (len vm)) x t) ∧
    (r = true → exec i s = .next (takeTrap .stripop 0 (s.h.pc.setWidth 64) s))

/-- R138: a VSETVL that asks for a VTYPE with a reserved bit or a width above e64 raises ILLEGAL. -/
def VsetIllegal : Prop :=
∀ (s : State) (d a b : Reg) (r x : Bool), (s.getX b).toNat / 64 ≠ 0 ∨ 3 < (s.getX b).toNat % 16 →
    exec (.vsetvl d a b r x) s = .next (takeTrap .illegal 0 (s.h.pc.setWidth 64) s)

/-- R141: VSETFL outside a strip packs rows: VL is the entries of the rows taken, or VLMAX when the first row alone is
longer, rd the number of rows, and v0 has exactly the bits of the last elements of the rows that are not empty. -/
def VsetflPacksRows : Prop :=
∀ (s : State) (h : Hart) (d a b : Reg) (e : BitVec 3) (g : BitVec 2) (r x : Bool) (row : Nat → Nat) (vm k n : Nat),
    CapTaken s.h h → s.h.ms.strip = none → s.oracle = [] → (s.getX a).toNat % 4 = 0 →
    s.h.id.lanes ∈ [4, 8, 16] →
    vm = vlmaxUnder s.h s.h.hr.vlcap (e.extractLsb' 0 2) g →
    ((s.getX b).toNat ≠ 0 → Rows s (s.getX a) row (min (s.getX b).toNat vm)) →
    Packs row (min (s.getX b).toNat vm) vm k →
    n = (if 0 < k then row k - row 0 else if (s.getX b).toNat ≠ 0 ∧ row 0 ≤ row 1 then vm else 0) →
    ∃ (t : State) (h' : Hart), exec (.vsetfl d a b e g r x) s = .next t ∧
      (∀ c < vm, (h'.v[(0 : Fin 32)]).val.getLsbD c = true ↔ ∃ j < k, row j < row (j + 1) ∧ c + 1 = row (j + 1) - row 0) ∧
      (∀ q : Reg, q ≠ 0 → h'.v[q] = h.v[q]) ∧ h' = { h with v := h'.v } ∧
      VsetDone s h' d (e.extractLsb' 0 2) g vm n (BitVec.ofNat 64 k) x t

/-- R145-R152, R27, R47: a native vector load whose active elements can all be read completes: each destination element
takes its bytes, widened, the others become 0 when z = 1, and nothing else changes; the first-fault forms clear VFF. -/
def NativeLoads : Prop :=
∀ (s : State) (i : Instr) (d : Reg) (nf : Nat) (m z : Bool) (f : Nat) (sx ff : Bool) (legal : Prop)
    (addr val : Nat → Nat → Nat), NativeLoad s i d nf m z f sx ff legal addr → legal → LegalAccess s d nf f sx → Fresh s →
    (∀ k q, s.h.vc.vstart.toNat ≤ k → k < s.h.vc.vl → q < nf → ReadsAs s (addr k q) (2 ^ f) (val k q)) →
    ∃ (h1 h2 : Hart) (t : State),
      Loops m (fun k h => (List.range nf).foldl (fun h q => h.setElem (d.val + q * s.h.grp) k s.h.ew
        (if sx then modW s.h.ew (signedOf (8 * 2 ^ f) (val k q)) else val k q)) h) s.h h1 ∧
      ZeroFields s m z d nf h1 h2 ∧ exec i s = .next t ∧
      Loaded s t h2.v s.h.vc.vl (if ff then 0 else s.h.vc.vff)

/-- R153: a first-fault load outside a strip whose element `e` > 0 is the first to fault (ReadFault) writes the elements
below it, records the fault in VFF, sets VL to `e`, and completes; one whose element 0 faults traps. -/
def FirstFaultLoads : Prop :=
∀ (s : State) (i : Instr) (d : Reg) (nf : Nat) (m z : Bool) (f : Nat) (sx : Bool) (legal : Prop)
    (addr val : Nat → Nat → Nat) (e : Nat) (c : Cause), NativeLoad s i d nf m z f sx true legal addr → legal →
    LegalAccess s d nf f sx → Fresh s → (m = true → d ≠ 0) →
    s.h.vc.vstart.toNat ≤ e → e < s.h.vc.vl → on s.h m e = true →
    (∀ k q, s.h.vc.vstart.toNat ≤ k → k < e → q < nf → ReadsAs s (addr k q) (2 ^ f) (val k q)) →
    addr e 0 % 2 ^ f = 0 → addr e 0 < 2 ^ 52 →
    (∀ k q, e ≤ k → k < s.h.vc.vl → on s.h m k = true → q < nf → inWindow (addr k q) = false) →
    ReadFault s (addr e 0) c →
    (0 < e → ∃ (h1 h2 : Hart) (t : State),
      Loops m (fun k h => (List.range nf).foldl (fun h q => h.setElem (d.val + q * s.h.grp) k s.h.ew
        (if sx then modW s.h.ew (signedOf (8 * 2 ^ f) (val k q)) else val k q)) h)
        { s.h with vc := { s.h.vc with vl := e } } h1 ∧
      ZeroFields s m z d nf h1 h2 ∧ exec i s = .next t ∧
      Loaded s t h2.v e (faultWord e c)) ∧
    (e = 0 → ∃ u, exec i s = .next (takeTrap c 0 (BitVec.ofNat 64 (addr 0 0)) u) ∧ u.h.v = s.h.v ∧ u.h.x = s.h.x ∧
      u.dev = s.dev)

/-- R248, R247, R253: inside a strip every native vector load claims its registers and suppresses the first fault
(ReadFault) of an element `e` > 0: the elements below it are written, VFF records the fault, VL becomes `e`, held stores
and watch records of later elements go, and the load completes; one whose elements can all be read completes as it does
outside and leaves VFF; a fault of element 0 is taken. -/
def StripLoads : Prop :=
∀ (s : State) (st : Strip) (h : Hart) (i : Instr) (d : Reg) (nf : Nat) (m z : Bool) (f : Nat) (sx ff : Bool) (legal : Prop)
    (addr val : Nat → Nat → Nat) (e : Nat) (c : Cause), NativeLoad s i d nf m z f sx ff legal addr → legal →
    LegalAccess s d nf f sx → FreshIn s st → Claimed s.h d (nf * s.h.grp) h → (m = true → d ≠ 0) →
    s.h.vc.vstart.toNat ≤ e → e ≤ s.h.vc.vl →
    (∀ k q, s.h.vc.vstart.toNat ≤ k → k < e → q < nf → ReadsAs s (addr k q) (2 ^ f) (val k q)) →
    (∀ k q, e ≤ k → k < s.h.vc.vl → on s.h m k = true → q < nf → inWindow (addr k q) = false) →
    (e < s.h.vc.vl → on s.h m e = true ∧ addr e 0 % 2 ^ f = 0 ∧ addr e 0 < 2 ^ 52 ∧ ReadFault s (addr e 0) c) →
    (0 < e ∨ e = s.h.vc.vl → ∃ (h1 h2 : Hart) (t : State),
      Loops m (fun k h => (List.range nf).foldl (fun h q => h.setElem (d.val + q * s.h.grp) k s.h.ew
        (if sx then modW s.h.ew (signedOf (8 * 2 ^ f) (val k q)) else val k q)) h)
        { h with vc := { h.vc with vl := e } } h1 ∧
      ZeroFields s m z d nf h1 h2 ∧ exec i s = .next t ∧
      Finished s (if e < s.h.vc.vl then cutAt h2 e c else h2) t) ∧
    (e = 0 → e < s.h.vc.vl → ∃ u, exec i s = .next (takeTrap c 0 (BitVec.ofNat 64 (addr 0 0)) u) ∧ u.h.v = s.h.v ∧
      u.h.x = s.h.x ∧ u.dev = s.dev ∧ u.h.ms.strip.map (fun x => (x.cp, x.held)) = some (st.cp, st.held))

/-- R145-R152, R265, R273: a native vector store whose active elements can all be stored completes: their low bytes enter
the store queue in element order, field by field, and nothing else changes. -/
def NativeStores : Prop :=
∀ (s : State) (i : Instr) (r : Reg) (nf : Nat) (m : Bool) (f : Nat) (legal : Prop) (addr : Nat → Nat → Nat)
    (loc : Nat → Nat → Loc), NativeStore s i r nf m f legal addr → legal → LegalAccess s r nf f false → Fresh s →
    (∀ k q, s.h.vc.vstart.toNat ≤ k → k < s.h.vc.vl → q < nf → StoresAt s (addr k q) (2 ^ f) (loc k q)) →
    ∃ t, exec i s = .next t ∧ Stored s t ((activeFrom s.h m).flatMap fun k => (List.range nf).map fun q =>
      partOf s (loc k q) (addr k q) (2 ^ f) (s.h.elem (r.val + q * s.h.grp) k s.h.ew) none)

/-- R250, R251: inside a strip a native vector store is held, each part with its element's tag, while the strip's live
bytes stay within its share; the first element that does not fit raises STRIPCAP, the elements below it being held. -/
def StripStores : Prop :=
∀ (s : State) (st : Strip) (i : Instr) (r : Reg) (nf : Nat) (m : Bool) (f : Nat) (legal : Prop) (addr : Nat → Nat → Nat)
    (loc : Nat → Nat → Loc), NativeStore s i r nf m f legal addr → legal → LegalAccess s r nf f false → FreshIn s st →
    (∀ k q, s.h.vc.vstart.toNat ≤ k → k < s.h.vc.vl → q < nf → StoresAt s (addr k q) (2 ^ f) (loc k q)) →
    (heldBytes st + (activeFrom s.h m).length * (nf * 2 ^ f) ≤ st.share →
      ∃ t, exec i s = .next t ∧ Finished s { s.h with ms := { s.h.ms with
        strip := some { st with held := st.held ++ heldParts s r nf f addr loc (activeFrom s.h m) } } } t) ∧
    (∀ (below above : List Nat) (e : Nat), activeFrom s.h m = below ++ e :: above →
      heldBytes st + below.length * (nf * 2 ^ f) ≤ st.share → st.share < heldBytes st + (below.length + 1) * (nf * 2 ^ f) →
      ∃ u, exec i s = .next (takeTrap .stripcap e (s.h.pc.setWidth 64) u) ∧ u.dev = s.dev ∧ u.h.v = s.h.v ∧ u.h.x = s.h.x ∧
        u.h.ms.strip = some { st with held := st.held ++ heldParts s r nf f addr loc below })

/-- R154-R158: VLD and VLDF of a narrow format without a trailer, whose active elements and scale bytes can be read,
complete: each active element becomes its code's value times its scale, rounded to nearest; FLG reports flags, which no
enabled class traps here. -/
def NarrowLoads : Prop :=
∀ (s : State) (d a : Reg) (m z : Bool) (f : BitVec 3) (k ff : Bool) (dsc : Desc) (byte : Nat → Nat) (sc : Nat → Option Nat),
    4 ≤ f.toNat → s.h.ew = 16 ∨ s.h.ew = 32 → d.val % s.h.grp = 0 → UsableDesc s (f.toNat - 4) a dsc → Fresh s →
    s.h.f.fen = 0 →
    (∀ e, s.h.vc.vstart.toNat ≤ e → e < s.h.vc.vl → ReadsAs s (containerAt s a dsc e).1 1 (byte e) ∧
      ∃ p, ScaleByte dsc (tensorIndex s a dsc e) p ∧ (p = none → sc e = none) ∧
        (∀ sa, p = some sa → ∃ b, sc e = some b ∧ ReadsAs s sa 1 b)) →
    ∃ (h1 h2 : Hart) (t : State),
      Loops m (fun e h => (if bits dsc.w 20 1 = 1 then
          h.raise e (widenedCode dsc (wideOf s) (byte e / 2 ^ (containerAt s a dsc e).2 % 2 ^ dsc.fmt.codeBits) (sc e)).fl else h).setElem
        d.val e s.h.ew (widenedCode dsc (wideOf s) (byte e / 2 ^ (containerAt s a dsc e).2 % 2 ^ dsc.fmt.codeBits) (sc e)).bits) s.h h1 ∧
      ZeroFields s m z d 1 h1 h2 ∧ exec (if ff then .vldf d a m z f k else .vld d a m z f k) s = .next t ∧
      GoesOn s t 4 ∧ t.h.f = h1.f ∧ t.h.v = h2.v ∧ t.h.x = s.h.x ∧ t.dev = s.dev ∧ t.h.vc.vl = s.h.vc.vl ∧
      t.h.vc.vff = (if ff then 0 else s.h.vc.vff)

/-- R155, R146, R157: a narrow access through a descriptor that is not valid raises ILLEGAL, one below its BASE raises
MISALIGN, and a masked store with block scales raises ILLEGAL; a narrow store in a strip raises STRIPOP, which the model checks before the
descriptor (the model's choice, notes/assumptions/16.md). -/
def NarrowChecks : Prop :=
∀ (s : State) (d a : Reg) (m z : Bool) (f : BitVec 3) (k : Bool) (dsc : Desc), 4 ≤ f.toNat → s.h.ew = 16 ∨ s.h.ew = 32 →
    d.val % s.h.grp = 0 →
    dsc = ⟨(s.h.f.fmt[Fin.ofNat 12 (3 * (f.toNat - 4))]).toNat, s.h.f.fmt[Fin.ofNat 12 (3 * (f.toNat - 4) + 1)],
      s.h.f.fmt[Fin.ofNat 12 (3 * (f.toNat - 4) + 2)]⟩ →
    (dsc.valid = false → exec (.vld d a m z f k) s = .next (takeTrap .illegal 0 (s.h.pc.setWidth 64) s) ∧
      (s.h.ms.strip = none → exec (.vst d a m z f) s = .next (takeTrap .illegal 0 (s.h.pc.setWidth 64) s))) ∧
    (dsc.valid = true → (s.getX a).toNat < dsc.base.toNat →
      exec (.vld d a m z f k) s = .next (takeTrap .misalign 0 (s.getX a) s) ∧
      (s.h.ms.strip = none → ¬(m = true ∧ bits dsc.w 18 2 = 1) →
        exec (.vst d a m z f) s = .next (takeTrap .misalign 0 (s.getX a) s))) ∧
    (dsc.valid = true → m = true → bits dsc.w 18 2 = 1 → s.h.ms.strip = none →
      exec (.vst d a m z f) s = .next (takeTrap .illegal 0 (s.h.pc.setWidth 64) s)) ∧
    (s.h.ms.strip.isSome → exec (.vst d a m z f) s = .next (takeTrap .stripop 0 (s.h.pc.setWidth 64) s))

/-- R157, R159: a narrow store without block scales, trailers or random rounding, of elements and scale bytes that can be
accessed, puts each active element's code into the store queue: a byte, or the bits of one, and reports nothing when FLG
is 0. -/
def NarrowStores : Prop :=
∀ (s : State) (r a : Reg) (m z : Bool) (f : BitVec 3) (dsc : Desc) (loc : Nat → Loc) (sc : Nat → Option Nat),
    4 ≤ f.toNat → s.h.ew = 16 ∨ s.h.ew = 32 → r.val % s.h.grp = 0 → UsableDesc s (f.toNat - 4) a dsc → Fresh s →
    (∀ q : Reg, (s.h.v[q]).err = []) → bits dsc.w 18 2 ≠ 1 → bits dsc.w 20 1 = 0 → bits dsc.w 22 2 ≠ 2 →
    (∀ e, s.h.vc.vstart.toNat ≤ e → e < s.h.vc.vl → StoresAt s (containerAt s a dsc e).1 1 (loc e) ∧
      ∃ p, ScaleByte dsc (tensorIndex s a dsc e) p ∧ (p = none → sc e = none) ∧
        (∀ sa, p = some sa → ∃ b l lc, sc e = some b ∧ Mapped s sa .load l lc ∧ AtHome s lc 1 ∧
          s.h.watchHit .load sa 1 = none ∧ b = (s.dev.mem.get lc.key).toNat ∧
          (∀ p ∈ s.h.ms.storeQ, ¬(p.key ≤ lc.key ∧ lc.key < p.key + p.bytes.length)) ∧
          ∀ e', (loc e').key ≠ lc.key)) →
    ∃ t, exec (.vst r a m z f) s = .next t ∧ Stored s t ((activeFrom s.h m).map fun e =>
      let c := dsc.fmt.container
      let code := (match sc e with
        | some 255 => 0
        | some b => (dsc.fmt.quant (if bits dsc.w 22 2 = 0 then .rne else .rtz) ((wideOf s).value (s.h.elem r.val e s.h.ew)) ((b : Int) - 127)).code
        | none => (dsc.fmt.quant (if bits dsc.w 22 2 = 0 then .rne else .rtz) ((wideOf s).value (s.h.elem r.val e s.h.ew)) 0).code)
      { partOf s (loc e) (containerAt s a dsc e).1 1 (code * 2 ^ (containerAt s a dsc e).2) none with
        mask := if c = 8 then none else some (BitVec.ofNat 8 ((2 ^ c - 1) * 2 ^ (containerAt s a dsc e).2)) })

/-- R243, R244, R251, R260: VSTRIP closes the open strip, if any, takes the pending CAP, checkpoints, opens a strip of
min(AVL, VLMAX) elements with an empty Written set and a share of 4 VLEN / 8 bytes, and gives
rd the length. The hart that an interrupt has put back to this VSTRIP holds further interrupts for 2,048 cycles. -/
def StripOpens : Prop :=
∀ (s : State) (h : Hart) (cp : Checkpoint) (d a : Reg) (e : BitVec 2) (p : Bool) (g : BitVec 2) (n vm : Nat),
    CapTaken (closed s.h) h → StripUnwatched s.h → Checkpointed s.h cp → s.traceUnit = none → s.oracle = [] →
    vm = vlmaxUnder s.h s.h.hr.vlcap e g → n = min (if p then 2 ^ 64 - 1 else (s.getX a).toNat) vm →
    ∃ t, exec (.vstrip d a e p g) s = .next t ∧ GoesOn s t 4 ∧
      (∀ r, t.getX r = if r = d ∧ r ≠ 0 then BitVec.ofNat 64 n else s.getX r) ∧
      t = { s with h := { h with
        x := t.h.x
        pc := t.h.pc
        pcHi := t.h.pcHi
        lp := t.h.lp
        vc := { h.vc with ew := e, grp := g, vlmaxr := vm, vl := n, vstart := 0, ecm := 0, vff := 0, vpx := 0 }
        ms := { h.ms with
          strip := some { cp := cp, share := 4 * vlenUnder s.h s.h.hr.vlcap / 8 }
          holdNext := if s.h.ms.holdNext = some s.h.pc then none else s.h.ms.holdNext
          hold := if s.h.ms.holdNext = some s.h.pc then some (s.cycle + 2048) else h.ms.hold } } }

/-- R244: VSTREND closes the open strip: its registers are the hart's, its held stores follow those of the store queue in
their order. With no strip open it has no effect. -/
def StripCloses : Prop :=
∀ s : State, StripUnwatched s.h → s.traceUnit = none →
    (∃ t, exec .vstrend s = .next t ∧ Done s { s with h := closed s.h } t 4) ∧
    (s.h.ms.strip = none → closed s.h = s.h)

/-- R245, R253: VEXIT finds the first exiting element below VL, records it in VPX, cuts VL there, with the element (.i) or
without it (.b), annuls the held stores of the elements cut off, and gives rd the new VL, then rb VPX[16]; elements of the run-ahead stream
that had bound an annulled byte are marked (R257). With VSTART ≠ 0 it raises ILLEGAL. -/
def StripExits : Prop :=
∀ (s : State) (i : Instr) (d a b : Reg) (keep : Bool) (p : Option Nat) (vl : Nat) (vpx : Word),
    (i = .vexitI d a b ∧ keep = true) ∨ (i = .vexitB d a b ∧ keep = false) →
    (s.h.vc.vstart ≠ 0 → exec i s = .next (takeTrap .illegal 0 (s.h.pc.setWidth 64) s)) ∧
    (s.h.vc.vstart = 0 → FirstExit (s.h.v[a]).val s.h.vc.vl p →
      vl = p.elim s.h.vc.vl (fun j => if keep then j + 1 else j) →
      vpx = p.elim s.h.vc.vpx (fun j => BitVec.ofNat 64 (0x10000 + j)) →
      ∃ t, exec i s = .next t ∧ GoesOn s t 4 ∧
        (∀ r, t.getX r = (if r = 0 then 0 else if r = b then vpx >>> 16 &&& 1 else if r = d then BitVec.ofNat 64 vl
          else s.getX r : Word)) ∧
        t = { s with h := { s.h with
          x := t.h.x
          pc := t.h.pc
          pcHi := t.h.pcHi
          lp := t.h.lp
          vc := { s.h.vc with vl := vl, vpx := vpx, vstart := 0, ecm := 0 }
          ms := { s.h.ms with
            strip := if p = none then s.h.ms.strip else s.h.ms.strip.map (annulled vl)
            bound := t.h.ms.bound }
          sy := { s.h.sy with fromElem := none } } } ∧
        t.h.ms.bound.map (fun e => (e.pc, e.traced, e.elems.map fun b => { b with stale := false })) =
          s.h.ms.bound.map (fun e => (e.pc, e.traced, e.elems.map fun b => { b with stale := false })))

/-- R333, R340, R341, R342, R348, R352, R362, R372: events of the device's parts have the effect that their rules give, and nothing
else changes. The model's choice, no rule of the spec: a debugger's request activates the module and clears its cmderr, and what a
stopped Causeway core holds is free (notes/assumptions/54.md, 55.md). -/
def DeviceEvents : Prop :=
∀ (s : State) (i : Instr) (P : State → Prop), DeviceEvent s i P → ∃ u, P u ∧ exec i s = .next u

/-- R344, R345, R346, R347, R348: with DBGOPEN, a command finds the hart that it names wherever that stands in the order of
the harts, and has its effect or its cmderr: 1 while an access of the module is not done. The model's choice, no rule of the
spec: LOOP, CSEQ and the mode can be written and CMDERR is set by every command (notes/assumptions/39.md), a width above 3 gives
cmderr 2, a busy module 1, and a request clears the cmderr before it (notes/assumptions/54.md). -/
def DebugCommands : Prop :=
(∀ (s : State) (p die sel : Nat) (i : Instr) (P : State → Prop), p ≤ s.others.length → s.dev.hosts.dbgopen = true →
    Alone (State.rotate^[p] s) → Selected (State.rotate^[p] s) die sel → DebugCommand (State.rotate^[p] s) die sel i P →
    (s.dev.dm die).pending = none →
    ∃ u, P u ∧ exec i s = .next (State.rotate^[s.others.length + 1 - p] u)) ∧
  (∀ (s : State) (die sel : Nat) (i : Instr), s.dev.hosts.dbgopen = true → (s.dev.dm die).pending.isSome →
    ((∃ r w v, i = .accessRegister die sel r w v) ∨ ∃ t w z a v, i = .accessMemory die sel t w z a v) →
    ∃ u, Answered s u die sel 1 (s.dev.dm die).data ∧ exec i s = .next u)

/-- R116, R121: FPUSH appends elements 0 to VL - 1 as one entry of a FIFO bank that is not full, once the hart's stores are
visible; FPOP takes the oldest entry into them. -/
def FifoMoves : Prop :=
∀ (s : State) (v a : Reg) (b : Bank), FifoLimits s v → s.h.ms.strip = none → NamedBank s (s.getX a).toNat b → b.mode = .fifo →
    (∀ z ∈ s.dev.banks, z.die = b.die ∧ z.core = b.core ∧ z.num = b.num → z = b) →
    (b.fifo.length < 128 → s.h.ms.storeQ = [] → s.h.ms.fabricQ = [] →
      ∃ (x : BitVec 1024) (t : State), (∀ k j, k < s.h.vc.vl → j < s.h.ew →
          x.getLsbD (k * s.h.ew + j) = (s.h.elem v.val k s.h.ew).testBit j) ∧
        exec (.fpush v a) s = .next t ∧
        DoneV s { s with dev := { s.dev with banks := withBank s b { b with fifo := b.fifo ++ [x] } } } t) ∧
    (∀ (x : BitVec 1024) (r : List (BitVec 1024)), b.fifo = x :: r →
      ∃ (g : Nat → Hart) (t : State), g 0 = s.h ∧
        (∀ k < s.h.vc.vl, g (k + 1) = (g k).setElem v.val k s.h.ew (x.extractLsb' (k * s.h.ew) s.h.ew).toNat) ∧
        exec (.fpop v a) s = .next t ∧
        DoneV s { s with
          h := { g s.h.vc.vl with ms := { s.h.ms with bound := [] } }
          dev := { s.dev with banks := withBank s b { b with fifo := r } } } t)

/-- R119, R121: FPUSH and FPOP raise ILLEGAL where VSTART, VL or the group break the limits, then MISALIGN for an address
that is no bank's, and PERM for a bank that is not in FIFO mode. -/
def FifoTraps : Prop :=
∀ (s : State) (i : Instr) (v a : Reg), i = .fpush v a ∨ i = .fpop v a → s.h.ms.strip = none →
    (¬FifoLimits s v → exec i s = .next (takeTrap .illegal 0 (s.h.pc.setWidth 64) s)) ∧
    (FifoLimits s v → (s.getX a).toNat % 0x4000 ≠ 0 → exec i s = .next (takeTrap .misalign 0 (s.getX a) s)) ∧
    (∀ b, FifoLimits s v → NamedBank s (s.getX a).toNat b → b.mode ≠ .fifo → exec i s = .next (takeTrap .perm 0 (s.getX a) s))

/-- R124, R126-R131: a CPY with nothing in its way issues: it takes its destination lines, captures what the hart holds, and
gives rd its number, which CSEQ takes; a narrowing CONV with stochastic rounding moves the counter on. A count of 0 only
takes a number. -/
def CopyIssues : Prop :=
∀ (s : State) (i : Instr) (form : CpyForm) (d a b c : Reg) (e : BitVec 2) (pair : Bool) (aux : Word) (cmd : Cmd),
    Copy i form d a b c e pair → (pair = true → c ≠ 0 ∧ c ≠ 31) → aux = (if pair then s.getX (c + 1) else 0) →
    cmd = captured s form a b c e aux → s.h.ms.strip = none →
    (∀ (lines : List Nat) (place : Nat → Nat), Issuable s cmd → Takes s cmd lines place →
      ∃ (t : State) (m : List Mapping), exec i s = .next t ∧
        Done s { s.setX d cmd.num with
          h := { (s.setX d cmd.num).h with
            sy := { s.h.sy with cseq := s.h.sy.cseq.set e.toFin cmd.num }
            f := { s.h.f with
              rctrl := (counterAfter s cmd).extractLsb' 0 64
              rctrh := (counterAfter s cmd).extractLsb' 64 64 } }
          dev := { s.dev with cmds := s.dev.cmds ++ [{ cmd with lines := lines.map fun l => (place l, l), map := m }] } } t 4) ∧
    (countOfCmd cmd = 0 → ∃ t, exec i s = .next t ∧
      Done s { s.setX d cmd.num with
        h := { (s.setX d cmd.num).h with sy := { s.h.sy with cseq := s.h.sy.cseq.set e.toFin cmd.num } } } t 4)

/-- R125, R126, R128, R254: a CPY that is refused says why in rd and changes nothing else: code 2 for a field, 3 for the
descriptor of a CONV, 1 for a destination of more than 8,192 lines; a pair that starts at x0 or x31 raises ILLEGAL, a CPY
in a strip STRIPOP. That code 2 is told before 3 and 3 before 1 is the model's choice, no rule of the spec
(notes/assumptions/28.md). -/
def CopyRefused : Prop :=
∀ (s : State) (i : Instr) (form : CpyForm) (d a b c : Reg) (e : BitVec 2) (pair : Bool) (aux : Word) (cmd : Cmd),
    Copy i form d a b c e pair → aux = (if pair then s.getX (c + 1) else 0) → cmd = captured s form a b c e aux →
    (pair = true → c = 0 ∨ c = 31 → exec i s = .next (takeTrap .illegal 0 (s.h.pc.setWidth 64) s)) ∧
    ((pair = true → c ≠ 0 ∧ c ≠ 31) → s.h.ms.strip.isSome → exec i s = .next (takeTrap .stripop 0 (s.h.pc.setWidth 64) s)) ∧
    ((pair = true → c ≠ 0 ∧ c ≠ 31) → s.h.ms.strip = none → countOfCmd cmd ≠ 0 →
      (RefusedField cmd → ∃ t, exec i s = .next t ∧ Done s (s.setX d 0x8000000000000002) t 4) ∧
      (¬RefusedField cmd → form = .conv → (convDesc cmd).valid = false →
        ∃ t, exec i s = .next t ∧ Done s (s.setX d 0x8000000000000003) t 4) ∧
      (form = .lin ∨ form = .fill → 8192 * 128 < (s.getX a).toNat % 128 + countOfCmd cmd →
        ∃ t, exec i s = .next t ∧ Done s (s.setX d 0x8000000000000001) t 4))

/-- R124, R134, R135: CPYQRY gives rd DONE(e); CPYWAIT completes once DONE(e) has reached X(ra) or CSEQ(e), unless the
failure record holds a number at or below X(ra), which it then raises and clears. -/
def CopyWaits : Prop :=
∀ (s : State) (e : BitVec 2) (n : Nat), DoneIs s e n →
    (∀ d : Reg, ∃ t, exec (.cpyqry d e) s = .next t ∧ Done s (s.setX d (BitVec.ofNat 64 n)) t 4) ∧
    (∀ a : Reg, s.h.ms.strip = none → min (s.getX a).toNat (s.h.sy.cseq[e.toFin]).toNat ≤ n →
      ((∀ r, s.h.sy.fail[e.toFin] = some r → (s.getX a).toNat < r.num.toNat) →
        ∃ t, exec (.cpywait a e) s = .next t ∧ Done s { s with h := { s.h with ms := { s.h.ms with bound := [] } } } t 4) ∧
      (∀ r, s.h.sy.fail[e.toFin] = some r → r.num.toNat ≤ (s.getX a).toNat →
        exec (.cpywait a e) s = .next (takeTrap r.cause 0 r.addr
          { s with h := { s.h with sy := { s.h.sy with fail := s.h.sy.fail.set e.toFin none } } })))

/-- R69, R70, R79: KVXL writes to each element the address that its position translates to, or 0, and KVXLM to each mask
bit whether it is present; other elements and all else stay. -/
def KvTranslates : Prop :=
∀ (s : State) (d a b c : Reg) (w k l h part : Nat) (draft : Bool) (g : Nat → Hart) (r : Nat → Option Nat),
    KvFresh s → s.h.ew = 64 → c.val % s.h.grp = 0 →
    SeqAt s (s.getX a).toNat w k false → OnePair (sequenceOf w) (s.getX b).toNat l h draft part → g 0 = s.h →
    (∀ i < s.h.vc.vl, Translated s (sequenceOf w) l h part ((g i).elem c.val i 64) draft (r i)) →
    (d.val % s.h.grp = 0 → (∀ i < s.h.vc.vl, g (i + 1) = (g i).setElem d.val i 64 ((r i).getD 0)) →
      ∃ t, exec (.kvxl d a b c) s = .next t ∧ DoneKv s { s with h := { s.h with v := (g s.h.vc.vl).v } } t) ∧
    (part = 0 → (∀ i < s.h.vc.vl, g (i + 1) = (g i).setElem d.val i 1 (r i).isSome.toNat) →
      ∃ t, exec (.kvxlm d a b c) s = .next t ∧ DoneKv s { s with h := { s.h with v := (g s.h.vc.vl).v } } t)

/-- R68, R77, R78: in a strip every KV instruction raises STRIPOP (KVXL, KVXLM and KVAPP after their ILLEGAL checks); outside
one, with its older stores performed, a descriptor that is not 64-byte aligned raises MISALIGN at it, and one with a field
that is not legal KVDESC at it. That KVFORK takes the child's alignment and descriptor before the parent's is the model's choice,
no rule of the spec (notes/assumptions/57.md), and so is when a stash is seen to be low (notes/assumptions/30.md). -/
def KvChecks : Prop :=
∀ (s : State) (i : Instr) (a : Reg), KvForm s i a →
    (s.h.ms.strip.isSome → exec i s = .next (takeTrap .stripop 0 (s.h.pc.setWidth 64) s)) ∧
    (KvFresh s → (s.getX a).toNat % 64 ≠ 0 →
      ∃ u, exec i s = .next (takeTrap .misalign 0 (s.getX a) u) ∧ KvLeft { s with h := { s.h with ms := { s.h.ms with bound := [] } } } u) ∧
    (∀ k, KvFresh s → Lies s (s.getX a).toNat 64 k true → ¬LegalSeq (numAt (homes s) k 64) →
      (∀ d b, i = .kvfork d a b → (s.getX b).toNat % 64 = 0) →
      ∃ u, exec i s = .next (takeTrap .kvdesc 0 (s.getX a) u) ∧ KvLeft { s with h := { s.h with ms := { s.h.ms with bound := [] } } } u)

/-- R82: KVTRUNC lowers DLEN to X(xb) and changes no other byte. R83: KVEVICT of a position that is absent for every pair in
scope gives 0, and of one that is present in a private block that keeps other tokens removes its slot and gives 1. -/
def KvRemoves : Prop :=
(∀ (s : State) (a b : Reg) (w k : Nat), KvFresh s → SeqAt s (s.getX a).toNat w k true →
    ∃ u t, MemOnly s u ∧ homes u = patched (homes s) k 64 (withField w 224 7 (min (sequenceOf w).dlen (s.getX b).toNat)) ∧
      exec (.kvtrunc a b) s = .next t ∧ DoneKv s u t) ∧
  (∀ (s : State) (d a b c : Reg) (w k : Nat), KvFresh s → SeqAt s (s.getX a).toNat w k false →
    LegalScope (sequenceOf w) (s.getX b).toNat → (s.getX c).toNat < (sequenceOf w).len →
    (∀ l h, InScope (sequenceOf w) (s.getX b).toNat l h → Translated s (sequenceOf w) l h 0 (s.getX c).toNat false none) →
    ∃ t, exec (.kvevict d a b c) s = .next t ∧ DoneKv s (s.setX d 0) t) ∧
  (∀ (s : State) (d a b c : Reg) (w k l h ke i p : Nat) (loc : Nat → Nat) (q : Sequence) (m : Nat),
    KvFresh s → SeqAt s (s.getX a).toNat w k false → q = sequenceOf w → OnePair q (s.getX b).toNat l h false 0 →
    (s.getX c).toNat = p → p < q.len → p / 32 < q.ne → Lies s (q.entry l h (p / 32)) 4 ke true → numAt (homes s) ke 4 = i →
    i < 0xFFFFFFFE → i < q.poolsz → Spread s (q.block i) q.stride loc → KnownMeta s (loc 0) →
    m = numAt (homes s ∘ loc) 0 4 → m.testBit (p % 32) = true → m ≠ 2 ^ (p % 32) ∨ (homes s (loc 4)).toNat % 64 ≠ 32 →
    numAt (homes s ∘ loc) 0 16 / 2 ^ 40 % 2 ^ 12 = 1 →
    (q.chk = true → numAt (homes s ∘ loc) (q.trlAt + 8) 4 = blockCrc q (homes s ∘ loc)) →
    ∃ (B' : Nat → Byte) (u t : State), Evicted q (onesBelow m (p % 32)) (p % 32) (homes s ∘ loc) B' ∧ MemOnly s u ∧
      (∀ j < q.stride, homes u (loc j) = B' j) ∧ (∀ j, (∀ x < q.stride, j ≠ loc x) → homes u j = homes s j) ∧
      exec (.kvevict d a b c) s = .next t ∧ DoneKv s (u.setX d 1) t)

/-- R84: KVALLOC with no entry to fill gives 0 and sets CAPLEN; with one, for a sequence of one pair, it grants an ID of the
stash: META and TRL are fresh, the entry names the block, CAPLEN counts it, and the result is 1. KVFREE over entries that
hold no block makes them NONE, lowers LEN and sets CAPLEN. KVFORK of an empty parent sets the child's CAPLEN and DHEAD. The
model's choice, no rule of the spec: the ID granted is the first of the stash (R74 leaves it open; notes/assumptions/30.md), and a
block granted has CRC 0 (notes/assumptions/57.md). -/
def KvEntries : Prop :=
(∀ (s : State) (d a b : Reg) (w k n : Nat) (q : Sequence) (T K : Nat → Nat → Nat → Nat), KvFresh s →
    SeqAt s (s.getX a).toNat w k true → q = sequenceOf w → Registered s q → (s.getX b).toNat ≤ 32 * q.ne →
    TableIs s q T K false → CoveredTo q T n →
    (∀ e, q.caplen / 32 ≤ e → e < ((s.getX b).toNat + 31) / 32 → ∀ l < q.layers, ∀ h < q.heads, T l h e ≠ 0xFFFFFFFF) →
    ∃ u t, MemOnly s u ∧ homes u = patched (homes s) k 64 (withField w 352 32 (32 * n)) ∧ exec (.kvalloc d a b) s = .next t ∧
      DoneKv s (u.setX d 0) t) ∧
  (∀ (s g : State) (d a b : Reg) (w k e i n : Nat) (q : Sequence) (T T' K : Nat → Nat → Nat → Nat) (x : Stash) (r : List Nat)
    (loc : Nat → Nat), KvFresh s → SeqAt s (s.getX a).toNat w k true → q = sequenceOf w → Registered s q →
    q.layers = 1 ∧ q.heads = 1 → q.caplen = 32 * e → (s.getX b).toNat = 32 * e + 32 → e < q.ne → TableIs s q T K true →
    T 0 0 e = 0xFFFFFFFF → StashOf s x → x.ids = i :: r → i ∉ r → i < q.poolsz → Spread s (q.block i) q.stride loc →
    -- `g` is `s` with the grant made
    g = { s with dev := { s.dev with mem := g.dev.mem, kvLines := g.dev.kvLines, kvForeign := g.dev.kvForeign, stashes := withStash s x { x with ids := r } } } →
    (∀ j < 128, homes g (loc j) = if j = 5 then 1 else 0) → (∀ j < 128, homes g (loc (q.trlAt + j)) = 0) →
    numAt (homes g) (K 0 0 e) 4 = i → g.dev.mem.wf = true →
    (∀ j, (∀ y < 128, j ≠ loc y ∧ j ≠ loc (q.trlAt + y)) → ¬(K 0 0 e ≤ j ∧ j < K 0 0 e + 4) → homes g j = homes s j) →
    (∀ l, l ∈ g.dev.kvForeign ↔ l ∈ s.dev.kvForeign ∧ l ≠ loc 0 / 128) →
    TableIs g q T' K false → CoveredTo q T' n → SeqAt g (s.getX a).toNat w k true →
    ∃ u t, MemOnly { g with dev := { g.dev with kvForeign := u.dev.kvForeign } } u ∧ (∀ l, l ∈ u.dev.kvForeign ↔ l ∈ g.dev.kvForeign) ∧
      homes u = patched (homes g) k 64 (withField w 352 32 (32 * n)) ∧ exec (.kvalloc d a b) s = .next t ∧ DoneKv s (u.setX d 1) t) ∧
  (∀ (s : State) (d a b c : Reg) (w k n : Nat) (q : Sequence) (T K : Nat → Nat → Nat → Nat), KvFresh s →
    SeqAt s (s.getX a).toNat w k true → q = sequenceOf w → Registered s q → LegalScope q (s.getX b).toNat →
    TableIs s q T K true → CoveredTo q T n →
    (∀ l h e, InScope q (s.getX b).toNat l h → (s.getX c).toNat ≤ e → e < q.ne → T l h e = 0xFFFFFFFF) →
    ∃ u t, MemOnly s u ∧ homes u = patched (homes s) k 64 (withField (withField w 192 32 (min q.len (32 * (s.getX c).toNat))) 352 32 (32 * n)) ∧
      exec (.kvfree d a b c) s = .next t ∧ DoneKv s (u.setX d 0) t) ∧
  (∀ (s : State) (d a b : Reg) (w k wp kp n : Nat) (q p : Sequence) (T K : Nat → Nat → Nat → Nat), KvFresh s →
    SeqAt s (s.getX a).toNat w k true → SeqAt s (s.getX b).toNat wp kp false → q = sequenceOf w →
    p = sequenceOf wp → Registered s q → Registered s p → q.layers = p.layers ∧ q.heads = p.heads ∧ q.d = p.d →
    q.kfmt = p.kfmt ∧ q.vfmt = p.vfmt → q.len = 0 ∧ q.dlen = 0 ∧ p.len = 0 → TableIs s q T K false → CoveredTo q T n →
    ∃ u t, MemOnly s u ∧ homes u = patched (homes s) k 64 (withField (withField w 352 32 (32 * n)) 232 6 0) ∧
      exec (.kvfork d a b) s = .next t ∧ DoneKv s (u.setX d 0) t)

/-- R74, R75: a refill reply with distinct IDs that Esmen holds free, no more than were asked for, puts as
many as fit behind those of the stash that asked, which holds 32; an empty reply leaves the stash as it was but dry, where Esmen holds none and no continuation is
parked. -/
def StashRefill : Prop :=
∀ (s : State) (x : Stash) (ids : List Nat) (tn : Tenant), x ∈ s.dev.stashes →
    (∀ y ∈ s.dev.stashes, y.die = x.die → y.core = x.core → y = x) → x.asked ≠ 0 → x.askedFor = x.tenant →
    tn = s.dev.tenant x.tenant → ids.Nodup → ids.length ≤ x.asked → (∀ i ∈ ids, i ∈ tn.freeIds) →
    (ids ≠ [] → ∃ t, exec (.stashRefillReply x.die x.core ids) s = .next t ∧
      TenantSet { s with dev := { s.dev with stashes := withStash s x { x with ids := x.ids ++ ids.take (32 - x.ids.length), asked := 0, dry := false } } } t
        x.tenant { tn with freeIds := tn.freeIds.filter fun i => !decide (i ∈ ids.take (32 - x.ids.length)) }) ∧
    (ids = [] → tn.freeIds = [] → s.dev.coldest x.tenant = none → ∃ t, exec (.stashRefillReply x.die x.core ids) s = .next t ∧
      TenantSet { s with dev := { s.dev with stashes := withStash s x { x with asked := 0, dry := true } } } t x.tenant tn)

/-- R92, R101, R102: CRGET, PARK and CRFREE outside a strip, with the hart's older stores visible, complete with their
status or slot, and the slot makes its transition. -/
def SlotForms : Prop :=
∀ (s : State) (i : Instr) (d : Reg) (v : Word) (P : State → Prop), SlotForm s i d v P → Visible s → Calm s →
    ∃ u t, P u ∧ exec i s = .next t ∧ Done s (u.setX d v) t 4

/-- R103, R99: PROMOTE changes nothing but the predictor, the tenant's hints and the expert cache's requests, and with a length
of 0 asks for no page; the predictor's newest entry is the hint's. R104: TQRY and CRQRY give their words and change nothing
else. -/
def TierQueries : Prop :=
∀ (s : State) (d a b c : Reg), s.h.ms.strip = none →
    (∃ u t, exec (.promote a b c) s = .next t ∧ Done s u t 4 ∧
      u = { s with dev := { s.dev with predictor := u.dev.predictor, tenants := u.dev.tenants, proms := u.dev.proms, moves := u.dev.moves, experts := u.dev.experts, expertNo := u.dev.expertNo } } ∧
      (s.getX b = 0 → u.dev.proms = s.dev.proms ∧ u.dev.moves = s.dev.moves ∧ u.dev.experts = s.dev.experts) ∧
      (∀ m, m ∈ u.dev.moves.map (fun m => (m.ptea, m.tenant, m.tier, m.dest, m.slot, m.extra, m.expert.isSome)) ↔
        m ∈ s.dev.moves.map (fun m => (m.ptea, m.tenant, m.tier, m.dest, m.slot, m.extra, m.expert.isSome))) ∧
      (s.dev.predictor.length ≤ 4096 → u.dev.predictor.length ≤ 4096) ∧
      ∃ p, u.dev.predictor.getLast? = some p ∧ p.tenant = s.h.id.tenant ∧ p.layer = (s.getX c).toNat % 2 ^ 12 ∧
        p.expert = (s.getX c).toNat / 2 ^ 16 % 2 ^ 12 ∧
        (s.getX b ≠ 0 → p.base = (s.getX a).toNat ∧ p.len = (s.getX b).toNat ∧ p.root = s.h.hr.ptroot ∧ p.asid = s.h.hr.asid)) ∧
    (∀ w, TierWord s (s.getX a).toNat w → ∃ t, exec (.tqry d a) s = .next t ∧ Done s (s.setX d (BitVec.ofNat 64 w)) t 4) ∧
    (∀ w, SlotWord s (s.getX a).toNat w → ∃ t, exec (.crqry d a) s = .next t ∧ Done s (s.setX d (BitVec.ofNat 64 w)) t 4)

/-- R313: LAUNCH of a record that the hart can read answers 1, 3 or 2 with bit 63, in that order, and touches nothing; or, with
the hart's stores visible, writes the record with the hart's tenant to the entry at TAIL, raises TAIL by one and answers the
index. A record address that is not a multiple of 64 raises MISALIGN; a failed store that the hart still holds raises MCHECK
or, where its page was never promoted, TIERWAIT, whatever LAUNCH would answer (R342; TIERWAIT here is the model's choice,
notes/assumptions/53.md). -/
def Launch : Prop :=
∀ (s : State) (d a b : Reg) (w : Nat), s.h.ms.strip = none →
    ((s.getX a).toNat % 64 ≠ 0 → exec (.launch d a b) s = .next (takeTrap .misalign 0 (s.getX a) s)) ∧
    (ReadsAs s (s.getX a).toNat 64 w → InStep s → ∀ c, LaunchRefused s (s.getX b).toNat c →
      (s.h.ms.fabFail = none → s.h.ms.tierFail = none → ∃ t, exec (.launch d a b) s = .next t ∧ Done s (s.setX d (BitVec.ofNat 64 (2 ^ 63 + c))) t 4) ∧
      (∀ e, s.h.ms.fabFail = some e → exec (.launch d a b) s =
        .next (takeTrap .mcheck 0 e { s with h := { s.h with ms := { s.h.ms with fabFail := none } } })) ∧
      ∀ e, s.h.ms.fabFail = none → s.h.ms.tierFail = some e → exec (.launch d a b) s =
        .next (takeTrap .tierwait 0 e { s with h := { s.h with ms := { s.h.ms with tierFail := none } } })) ∧
    (ReadsAs s (s.getX a).toNat 64 w → InStep s → Calm s → s.h.ms.storeQ = [] → s.h.ms.fabricQ = [] → s.h.ms.fabFail = none →
      s.h.ms.tierFail = none → ∀ q k, TakesRecord s (s.getX b).toNat q k → ∃ u t, exec (.launch d a b) s = .next t ∧
        Done s (u.setX d (BitVec.ofNat 64 q.tail.toNat)) t 4 ∧
        homes u = patched (homes s) k 64 (withField w 499 5 s.h.id.tenant) ∧
        (u.dev.queue q.num).tail = q.tail + 1 ∧ (u.dev.queue q.num).head = q.head ∧ (∀ m, m ≠ q.num → u.dev.queue m = s.dev.queue m) ∧
        u = { s with dev := { s.dev with mem := u.dev.mem, queues := u.dev.queues, kvForeign := u.dev.kvForeign } })

/-- R314: GBAR completes once every other live hart of the gang has arrived at the hart's generation, which rises by one. R316:
WAITGE whose word reaches X(rb), or whose deadline has passed, ends with the word in rd and the word's line monitored. R317:
HEND with the hart's stores and commands done ends the hart; the last of a gang ends the gang. -/
def WaitForms : Prop :=
(∀ s : State, s.h.ms.strip = none → (s.h.sy.arrived = true ∨ s.h.ms.storeQ = [] ∧ s.h.ms.fabricQ = []) →
    (∀ h ∈ s.others, h.id.gang = s.h.id.gang → h.status ≠ .vacant → h.status ≠ .ended →
      s.h.sy.barGen < h.sy.barGen ∨ h.sy.barGen = s.h.sy.barGen ∧ h.sy.arrived = true) →
    ∃ t, exec .gbar s = .next t ∧ Done s { s with h := { s.h with
      ms := { s.h.ms with bound := [] }
      sy := { s.h.sy with barGen := s.h.sy.barGen + 1, arrived := false } } } t 4) ∧
  (∀ (s : State) (d a b c : Reg) (l : Leaf) (loc : Loc), s.h.ms.strip = none → InStep s →
    (s.getX a).toNat % 8 = 0 → Mapped s (s.getX a).toNat .load l loc → AtHome s loc 8 → s.h.watchHit .load (s.getX a).toNat 8 = none →
    s.h.sy.pendWait = none → (s.getX b).toNat ≤ seenNat s loc.key 8 ∨ (s.getX c ≠ 0 ∧ (s.getX c).toNat ≤ s.time) →
    ∃ t, exec (.waitge d a b c) s = .next t ∧ Done s ({ s with h := { s.h with
      sy := { s.h.sy with mon := some (loc.key / 128 * 128), monAddr := BitVec.ofNat 52 (s.getX a).toNat } } }.setX d
        (BitVec.ofNat 64 (seenNat s loc.key 8))) t 4) ∧
  (∀ s : State, s.h.ms.strip = none → s.h.ms.storeQ = [] → s.h.ms.fabricQ = [] → s.h.ms.fabFail = none → s.h.ms.tierFail = none →
    (∀ e : BitVec 2, DoneIs s e (s.h.sy.cseq[e.toFin]).toNat) →
    ∃ t, exec .hend s = .next t ∧ t.h = { s.h with status := .ended } ∧ t.others = s.others ∧
      ((∃ h ∈ s.others, h.id.gang = s.h.id.gang ∧ h.status ≠ .vacant ∧ h.status ≠ .ended) → t.dev = s.dev) ∧
      ((∀ h ∈ s.others, h.id.gang = s.h.id.gang → h.status = .vacant ∨ h.status = .ended) →
        t.dev = { s.dev with gangs := s.dev.gangs.map fun g => if g.id = s.h.id.gang.toNat
          then { g with ending := some true, endRoot := s.h.hr.ptroot, endAsid := s.h.hr.asid, endHart := s.h.id.hartid } else g }))

/-- R215-R220, R223, R224, R228: TZERO, TOP, TRD and TWR raise ILLEGAL, STRIPOP and TILEOWN in this order, or do their work as
one unit. -/
def TileForms : Prop :=
∀ (s : State) (i : Instr) (bad : Prop) (barred : Bool) (owned : Prop) (P : State → Prop), TileForm s i bad barred owned P →
    (bad ∨ s.h.vc.vstart ≠ 0 → exec i s = .next (takeTrap .illegal 0 (s.h.pc.setWidth 64) s)) ∧
    (¬bad → s.h.vc.vstart = 0 → barred = true → s.h.ms.strip.isSome → exec i s = .next (takeTrap .stripop 0 (s.h.pc.setWidth 64) s)) ∧
    (¬bad → s.h.vc.vstart = 0 → ¬(barred = true ∧ s.h.ms.strip.isSome) → ¬owned →
      exec i s = .next (takeTrap .tileown 0 (s.h.pc.setWidth 64) s)) ∧
    (¬bad → s.h.vc.vstart = 0 → ¬(barred = true ∧ s.h.ms.strip.isSome) → owned → ∃ u t, P u ∧ exec i s = .next t ∧ DoneT s u t)

/-- R221, R222: TGL whose active rows can be read puts their bytes into the rows of its latch from ROW0 on and leaves every
other byte of it. A breach of its limits raises ILLEGAL; an address that does not start a line, or whose row leaves its bank,
raises MISALIGN, with every tracked bank READY. -/
def TileGather : Prop :=
∀ (s : State) (l : Latch) (b : Reg) (row : BitVec 6) (m : Bool) (v : Nat → Nat → Byte), Fresh s →
    (s.h.ew ≠ 64 ∨ 64 - row.toNat < s.h.vc.vl ∨ b.val % s.h.grp ≠ 0 →
      exec (.tgl l b row m) s = .next (takeTrap .illegal 0 (s.h.pc.setWidth 64) s)) ∧
    (s.h.ew = 64 → s.h.vc.vl ≤ 64 - row.toNat → b.val % s.h.grp = 0 → s.h.t.town.getLsbD (4 + l.val) = false →
      exec (.tgl l b row m) s = .next (takeTrap .tileown 0 (s.h.pc.setWidth 64) s)) ∧
    (s.h.ew = 64 → s.h.vc.vl ≤ 64 - row.toNat → b.val % s.h.grp = 0 → s.h.t.town.getLsbD (4 + l.val) = true →
      (∀ l' : Latch, s.h.t.latchErr[l'] = []) → (∀ k ∈ activeFrom s.h m, RowReads s (s.h.elem b.val k 64) (v k)) →
      ∃ (x : BitVec 131072) (t : State), exec (.tgl l b row m) s = .next t ∧
        (∀ r < 64, ∀ j < 256, latchBits x r j 8 = if r - row.toNat ∈ activeFrom s.h m ∧ row.toNat ≤ r then (v (r - row.toNat) j).toNat
          else latchBits s.h.t.latch[l] r j 8) ∧
        DoneT s { s with h := { s.h with t := { s.h.t with latch := s.h.t.latch.set l x } } } t) ∧
    (∀ k, s.h.ew = 64 → s.h.vc.vl ≤ 64 - row.toNat → b.val % s.h.grp = 0 → s.h.t.town.getLsbD (4 + l.val) = true →
      k = s.h.vc.vstart.toNat → k < s.h.vc.vl → on s.h m k = true → (∀ x ∈ s.dev.banks, x.trk = true → x.st = 2) →
      s.h.elem b.val k 64 % 128 ≠ 0 ∨ 0x3F00 < s.h.elem b.val k 64 % 0x4000 →
      ∃ u, exec (.tgl l b row m) s = .next (takeTrap .misalign k (BitVec.ofNat 64 (s.h.elem b.val k 64)) u) ∧ u.h.t = s.h.t ∧
        u.h.v = s.h.v ∧ u.h.x = s.h.x ∧ u.dev = s.dev)

/-- R231: TFINIT makes the tile a factor of the order that TSHAPE.FN gives with √λ on its diagonal; a λ that is NaN, infinite
or below -0 raises FPTRAP with NV at element 0. R236: TFRD gives row ROW, TFWR writes it from the diagonal on, a -0 diagonal as
+0; a negative diagonal raises FPTRAP with NV at ROW. R230: TFWR raises LOSTDEF at element n on a BROKEN tile, and FPTRAP with NV
at its lowest element, from ROW on, that is NaN or infinite. -/
def FactorRows : Prop :=
(∀ (s : State) (k : Tile) (a : Reg), 64 < s.h.t.facN.toNat →
    exec (.tfinit k a) s = .next (takeTrap .illegal 0 (s.h.pc.setWidth 64) s)) ∧
  (∀ (s : State) (k : Tile) (a : Reg) (n : Nat) (v : FVal), Clip s.h.t.facN n → s.h.vc.vstart = 0 → s.h.ms.strip = none →
    s.h.t.town.getLsbD k.val = true → v = f32.value ((s.getX a).toNat % 2 ^ 32) →
    ((v.isNan = true ∨ v.isInf = true ∨ (v.isNeg = true ∧ v.isZero = false)) →
      exec (.tfinit k a) s = .next (takeTrapAt .fptrap 0 0 0 { s with h := s.h.raise 0 0x10 })) ∧
    (v.isNan = false → v.isInf = false → v.isNeg = false ∨ v.isZero = true → ∃ x u t,
      (∀ i < 64, ∀ j < 64, cell x i j = if i = j ∧ i < n then (if v.isZero then 0 else rounded (squareRoot v)) else 0) ∧
      x.factor = true ∧ x.n.toNat = n ∧ x.broken = false ∧ x.err = [] ∧ TileIs s u k x ∧ exec (.tfinit k a) s = .next t ∧ DoneT s u t)) ∧
  (∀ (s : State) (d : Reg) (k : Tile) (row : BitVec 6) (n : Nat) (h : Hart), FactorTile s k n → Operands s n [d] → row.toNat < n →
    Claimed s.h d s.h.grp h → ∃ (g : Nat → Hart) (t : State), g 0 = h ∧
      (∀ j < n, g (j + 1) = (g j).setElem d.val j 32 (cell s.h.t.tile[k] row.toNat j)) ∧
      exec (.tfrd d k row) s = .next t ∧ DoneT s { s with h := g n } t) ∧
  (∀ (s : State) (k : Tile) (b : Reg) (row : BitVec 6) (n : Nat), FactorTile s k n → Operands s n [b] → row.toNat < n →
    s.h.ms.strip = none → s.h.t.tile[k].broken = false → (∀ j, row.toNat ≤ j → j < n → Finite (s.h.elem b.val j 32)) →
    (2 ^ 31 < s.h.elem b.val row.toNat 32 →
      exec (.tfwr k b row) s = .next (takeTrapAt .fptrap 0 row.toNat 0 { s with h := s.h.raise row.toNat 0x10 })) ∧
    (s.h.elem b.val row.toNat 32 ≤ 2 ^ 31 → ∃ x u t, CellsAre x s.h.t.tile[k] (fun i j =>
        if i = row.toNat ∧ i ≤ j ∧ j < n then (if i = j ∧ s.h.elem b.val j 32 = 2 ^ 31 then 0 else s.h.elem b.val j 32)
        else cell s.h.t.tile[k] i j) ∧ TileIs s u k x ∧ exec (.tfwr k b row) s = .next t ∧ DoneT s u t)) ∧
  (∀ (s : State) (k : Tile) (b : Reg) (row : BitVec 6) (n : Nat), FactorTile s k n → Operands s n [b] → row.toNat < n →
    s.h.ms.strip = none →
    (s.h.t.tile[k].broken = true → exec (.tfwr k b row) s = .next (takeTrapAt .lostdef 0 n 0 s)) ∧
    (∀ e < n, s.h.t.tile[k].broken = false → row.toNat ≤ e → ¬Finite (s.h.elem b.val e 32) →
      (∀ j, row.toNat ≤ j → j < e → Finite (s.h.elem b.val j 32)) →
      exec (.tfwr k b row) s = .next (takeTrapAt .fptrap 0 e 0 { s with h := s.h.raise e 0x10 })))

/-- R230, R235: TFSOLV with no zero on the diagonal and finite elements throughout writes the solution and leaves the tile; a
zero diagonal raises LOSTDEF at it. On a BROKEN tile TFSOLV, TFUPD and TFDND raise LOSTDEF at element n. -/
def FactorSolves : Prop :=
∀ (s : State) (d : Reg) (k : Tile) (b : Reg) (part : BitVec 2) (n : Nat), FactorTile s k n → Operands s n [d, b] → n ≤ 64 → part ≠ 3 →
    (s.h.t.tile[k].broken = true → exec (.tfsolv d k b part) s = .next (takeTrapAt .lostdef 0 n 0 s) ∧
      ∀ i c dlt, SweepForm i k c dlt → c.val % s.h.grp = 0 → s.h.ms.strip = none → exec i s = .next (takeTrapAt .lostdef 0 n 0 s)) ∧
    (s.h.t.tile[k].broken = false → (∀ j < n, Finite (s.h.elem b.val j 32)) →
      (∀ e < n, cell s.h.t.tile[k] e e = 0 → (∀ j < e, cell s.h.t.tile[k] j j ≠ 0) →
        exec (.tfsolv d k b part) s = .next (takeTrapAt .lostdef 0 e 0 s)) ∧
      (∀ (h : Hart) (y z : Nat → Nat), (∀ e < n, cell s.h.t.tile[k] e e ≠ 0) → Claimed s.h d s.h.grp h →
        Solved s.h.t.tile[k] n part (fun i => s.h.elem b.val i 32) y z → ∃ (g : Nat → Hart) (t : State), g 0 = h ∧
          (∀ i < n, g (i + 1) = (g i).setElem d.val i 32 (z i)) ∧ exec (.tfsolv d k b part) s = .next t ∧ DoneT s { s with h := g n } t))

end Sys2Proof.Claims

open Sys2Proof Sys2Proof.Machine Sys2Proof.Claims

/-- R282, R283, R32: every scalar integer instruction completes in every state with the value its table gives in rd, x0
staying zero, and changes nothing else; no form traps and none sets a flag. -/
def Obligations.ScalarIntegerResults : Prop :=
∀ (s : State) (i : Instr) (d : Reg) (v : Word) (n : Nat), ScalarInt s i d v n →
    ∃ t, exec i s = .next t ∧ WritesOnly s t d v ∧ GoesOn s t n

/-- R290: branches and jumps go to their targets, write only the link register, and trap on odd targets; the word of `jalr x1,
0(x5)` is the one the rule gives. -/
def Obligations.ControlTransfers : Prop :=
  Claims.Branches ∧ Claims.Jumps ∧ Claims.OddTargetTraps ∧ decodeTableWord 32 0x000050A4 = some (.jalr 1 5 0)

/-- R291: SLOOP whose body can be fetched (`captureFrom` answers the body, the address after it, and the state its
fetches leave) starts the loop, or goes to its end when the count is 0; X(ra) is not written. -/
def Obligations.SloopStartsLoop : Prop :=
∀ (s u : State) (a : Reg) (n : BitVec 5) (body : List (BitVec 52 × Nat)) (fin : Nat),
    ¬InBody s s.h.pc.toNat → s.h.ms.strip = none →
    (captureFrom (n.toNat + 1) (s.h.pc.toNat + 4)).run s = (.ok (body, fin), u) →
    ∃ t, exec (.sloop a n) s = .next t ∧
      (a = 0 ∨ u.getX a ≠ 0 →
        t = { u with h := { u.h with
          pc := BitVec.ofNat 52 (s.h.pc.toNat + 4)
          lp := {
            active := true
            start := BitVec.ofNat 52 (s.h.pc.toNat + 4)
            fin := BitVec.ofNat 52 fin
            count := if a = 0 then none else some (u.getX a).toNat
            body := body } } }) ∧
      (a ≠ 0 ∧ u.getX a = 0 → t = u.jump (BitVec.ofNat 64 fin))

/-- R284, R187, R189: every scalar floating-point instruction whose flags are not enabled to trap completes: rd holds the
result, the flag registers are as R189 says (element 0), nothing else changes. R190: a scalar form that raises an enabled
class keeps its flags, writes no destination, and raises FPTRAP with element and EADDR 0. -/
def Obligations.ScalarFloats : Prop :=
  Claims.ScalarFloatResults ∧ Claims.ScalarFloatTraps

/-- The comparisons of R195 on values: on two finite numbers FLT and FEQ are the order and equality of the rationals that
the codes stand for (R185). -/
def Obligations.CompareIsNumeric : Prop :=
∀ x y : Dy, ((FVal.fin x).lt (.fin y) = true ↔ rational x < rational y) ∧
    ((FVal.fin x).eq (.fin y) = true ↔ rational x = rational y)

/-- R286, R267, R27, R50, R115: a scalar load within one page or bank completes at any alignment: rd takes the bytes the hart
sees, own stores that are not yet at home before memory, little-endian and extended as the width says; no byte of memory and
nothing else changes. R276, R48, R342: an aligned scalar load of another device of the domain reaches it and takes its
bytes, or raises MCHECK where the device does not answer. What the fabric queue then holds is the model's choice
(notes/assumptions/8.md). R287, R49: a scalar load or store of a NONIDEM page that is not naturally aligned raises PERM with
EADDR its address. -/
def Obligations.ScalarLoads : Prop :=
  Claims.LocalLoads ∧ Claims.RemoteLoads ∧ Claims.MisalignedNonidem

/-- R286, R265, R273: a scalar store outside a strip, within one page or bank and of any home and alignment, completes: the low
bytes of its register enter the store queue as its youngest entry, one part for each line; no register and no byte of memory
changes. R250, R251: inside a strip the same store is held by the strip, untagged, while its live bytes stay within its
share; else it raises STRIPCAP. -/
def Obligations.ScalarStoresQueue : Prop :=
  Claims.ScalarStores ∧ Claims.StripHoldsStores

/-- R289, R297: an acquire load completes as a load does, sets the monitored line, and leaves nothing bound ahead. R289, R274: a
release store completes as a store does; its entry carries its scope, for DRAIN to wait by. R289: an ordered access or an
atomic whose address is not naturally aligned raises MISALIGN with EADDR the address. R275: a FENCE whose hart has no store
under way completes and changes nothing but what may be bound ahead and, at scope core or wider, which contents of a parcel
a later fetch may give (R43; notes/assumptions/73.md). -/
def Obligations.OrderedAccesses : Prop :=
  Claims.AcquireLoads ∧ Claims.ReleaseStores ∧ Claims.OrderedMisaligned ∧ Claims.FenceCompletes

/-- R288, R289: an atomic whose hart has no store under way reads its `w` bytes at home, writes the new value there
(.cas only when it differs), and gives rd the old value sign-extended; every other byte of memory reads as before, and no
other register changes. -/
def Obligations.Atomics : Prop :=
∀ (s : State) (i : Instr) (d a b : Reg) (rl aq : Bool) (k : BitVec 3) (z : Bool) (f : Nat → Nat → Nat → Nat) (l : Leaf)
    (loc : Loc) (w old new : Nat), Atomic s i d a b rl aq k z f → w = (if z then 8 else 4) →
    old = s.dev.mem.getNat loc.key w → new = f (8 * w) old ((s.getX b).toNat % 2 ^ (8 * w)) →
    (s.getX a).toNat % w = 0 → Mapped s (s.getX a).toNat .amo l loc → AtHome s loc w →
    Unwatched s .amo (s.getX a).toNat w → s.h.ms.strip = none → s.h.ms.storeQ = [] → s.h.ms.fabricQ = [] →
    s.h.ms.fabFail = none → s.h.ms.tierFail = none → s.dev.mem.wf = true →
    ∃ t, exec i s = .next t ∧ GoesOn s t 4 ∧
      (∀ r, t.getX r = if r = d ∧ r ≠ 0 then BitVec.ofInt 64 (signedOf (8 * w) old) else s.getX r) ∧
      (∀ j, t.dev.mem.get j = if loc.key ≤ j ∧ j < loc.key + w then BitVec.ofNat 8 (new / 256 ^ (j - loc.key))
        else s.dev.mem.get j) ∧
      t.h.v = s.h.v ∧ t.h.f = s.h.f ∧ t.h.vc = s.h.vc ∧ t.h.hr = s.h.hr ∧ t.h.t = s.h.t

/-- R24, R26, R32, R34, R145: words written out field by field, highest first, from the encodings of the spec, and words
that the spec gives as examples, decode to the instructions they stand for. -/
def Obligations.SpecWordsDecode : Prop :=
-- addi x5, x6, 3: imm15, ra, rd, major 0x01
  decode 0b000000000000011_00110_00101_000001_0 = .ok (.addi 5 6 3) ∧
  -- add x5, x6, x7: fn5, rc, rb, ra, rd, major 0x0A
  decode 0b00000_00000_00111_00110_00101_001010_0 = .ok (.add 5 6 7) ∧
  -- ld64 x2, 24(x3): disp12, width 3, ra, rd, major 0x0C
  decode 0b000000011000_011_00011_00010_001100_0 = .ok (.ld64 2 3 24) ∧
  -- bne x1, x2, -4: disp12, cond 1, xb, xa, major 0x10
  decode 0b111111111110_001_00010_00001_010000_0 = .ok (.bne 1 2 0xFFE) ∧
  -- jal x1, +16: disp20, rd, major 0x11
  decode 0b00000000000000001000_00001_010001_0 = .ok (.jal 1 8) ∧
  -- tret: fn10 0x180, rb, ra, rd, major 0x0F
  decode 0b0110000000_00000_00000_00000_001111_0 = .ok .tret ∧
  -- vadd v8, v16, v24: fn7, ws, z, m, vb, va, vd, major 0x18
  decode 0b0000000_0_0_0_11000_10000_01000_011000_0 = .ok (.vadd ⟨8, 16, 24, false, false, false⟩) ∧
  -- c.addi x5, -3 (R32): f2, f1, cop, 0b01
  decode 0b11101_00101_0000_01 = .ok (.cAddi 5 (-3)) ∧
  -- addi x5, x6, 2^15 (R34): body, then the prefix with payload 1 and kind 1 below it
  decode 0b000000000000000_00110_00101_000001_0_00000000000000000000000001_0001_11 = .ok (.addiPxi 5 6 0x8000) ∧
  -- examples of R145: vlds v8, (x6), x7, e32; vldf v8, (x6), e8; vldr v16, (x6)
  decode 0x110E642A = .ok (.vlds 8 6 7 false false 2 false) ∧
  decode 0x0000642C = .ok (.vldf 8 6 false false 0 false) ∧
  decode 0x0600682A = .ok (.vldr 16 6)

/-- R24-R39: every instruction that a word encodes, with every operand at every value its encoding admits, is read back
from its own word. -/
def Obligations.RoundTrip : Prop :=
∀ i : Instr, Sys2Proof.Laws.RoundTrip.Statement i

/-- R366: right after reset no hart is resident, memory lists nothing, no queue, gang, bank or command exists, READY is 0
and each die has four spare cores. -/
def Obligations.ResetValues : Prop :=
State.reset.h.status = .vacant ∧ State.reset.others = [] ∧ State.reset.dev.mem = [] ∧ State.reset.dev.queues = [] ∧
  State.reset.dev.gangs = [] ∧ State.reset.dev.banks = [] ∧ State.reset.dev.cmds = [] ∧
  State.reset.dev.hosts.ready = false ∧ State.reset.dev.hosts.domEn = false ∧
  State.reset.dev.parts.map (fun p => (p.die, p.spares)) = (List.range 8).map fun d => (d, 4)

/-- The memory right after reset is in canonical form. -/
def Obligations.ResetKeepsForm : Prop :=
Safety.Inv State.reset

/-- R264: a byte has one current value: every step, whatever it does, keeps the memory in canonical form, one
byte to an address, none of them listed twice. -/
def Obligations.StepKeepsForm : Prop :=
∀ s t : State, Safety.Inv s → step s = .next t → Safety.Inv t

/-- R25, R41: when nothing disturbs the hart and the bytes at its PC decode to an instruction, the step is that instruction's
meaning at the state that the fetch leaves, with what a step does around it. The model's choice, no rule of the spec: the
completion mask that a vector instruction leaves (notes/assumptions/51.md), and that a resumption drops the units of a form
other than the one that left them (notes/assumptions/56.md). R40: bytes that no encoding admits raise ILLEGAL. -/
def Obligations.FetchedWord : Prop :=
  Claims.StepRunsInstruction ∧ Claims.UndefinedWordIsIllegal

/-- R324, R320: a trap outside a strip, of a hart with a handler and without a trace, enters the handler: the bank takes the
resumable position, the cause, the address and the vector state, and nothing else of the machine changes. R258, R259: a trap
inside a strip abandons the strip and enters the handler from its VSTRIP, element 0; EADDR is the address of the instruction
that raised it, or the cause's own. -/
def Obligations.TrapEntries : Prop :=
  Claims.TrapEntry ∧ Claims.TrapInStrip

/-- R326, R259, R361: a trap with no handler ends the gang without its completion add, every hart of it with its strip, and
reports the cause, EPC (the VSTRIP inside a strip), EADDR and EELEM to the tenant, if its ring has room. -/
def Obligations.NoHandlerEndsGang : Prop :=
∀ (s : State) (c : Cause) (el : Nat) (a : Word) (g : Gang), s.h.hr.hvec = 0 → s.h.status = .running →
    s.dev.gangs.find? (fun x => x.id == s.h.id.gang.toNat) = some g →
    GangEnded s (takeTrap c el a s) ∧
    Reports s (takeTrap c el a s) g fun r =>
      r.kind = 2 ∧ r.cause = c.code.toNat ∧ r.eelem = el ∧
      r.epc = (match s.h.ms.strip with | none => s.h.pc | some st => st.cp.addr).setWidth 64 ∧
      (AtElement c → r.eaddr = a) ∧ (AtInstruction c → r.eaddr = s.h.pc.setWidth 64)

/-- R328: TRET in handler mode whose bank is not lost and whose EVTYPE is valid returns: mode, PC, VTYPE, VL, VSTART and the
completion mask come back from the bank; the stores of the handler are to be performed before the next access of the task; a
VSTRIP returned to may get its hold (R260); nothing else changes. R328, R326, R361: TRET ends the gang when the task's bank
is lost: every hart of it with its strip, without the completion add, and HLOST is reported with cause 0 and the EPC, EADDR
and EELEM that the bank holds. It raises ILLEGAL for an EVTYPE that no VTYPE is. -/
def Obligations.HandlerReturns : Prop :=
  Claims.HandlerReturn ∧ Claims.HandlerReturnFails

/-- R13, R14, R15, R322, R323: MFSR of an assigned number, outside a strip and in a mode that may name it, gives rd the
register's value and changes nothing else. R13, R14, R17, R322, R323: MTSR writes the fields that the register has, and
changes nothing else. -/
def Obligations.SystemRegisters : Prop :=
  Claims.SystemRegisterReads ∧ Claims.SystemRegisterWrites

/-- R13, R14, R39, R254: what stands in the way of a system form, in this order: an unassigned register number, the mode,
an open strip. -/
def Obligations.SystemChecks : Prop :=
∀ s : State,
    (∀ (d a : Reg) (n : BitVec 12), (∀ v, ¬SysValue { s with h := { s.h with vc := { s.h.vc with vspec := false } } } n.toNat v) →
      exec (.mfsr d n) s = .next (takeTrap .illegal 0 (s.h.pc.setWidth 64) s) ∧
      exec (.mtsr a n) s = .next (takeTrap .illegal 0 (s.h.pc.setWidth 64) s)) ∧
    (∀ (d a : Reg) (n : BitVec 12), 0x100 ≤ n.toNat → n.toNat ≤ 0x10F → s.h.handler = false →
      exec (.mfsr d n) s = .next (takeTrap .priv 0 (s.h.pc.setWidth 64) s) ∧
      exec (.mtsr a n) s = .next (takeTrap .priv 0 (s.h.pc.setWidth 64) s)) ∧
    (∀ i : Instr, HandlerOnly i → s.h.handler = false → exec i s = .next (takeTrap .priv 0 (s.h.pc.setWidth 64) s)) ∧
    (∀ i : Instr, HandlerOnly i → s.h.handler = true → s.h.ms.strip.isSome →
      exec i s = .next (takeTrap .stripop 0 (s.h.pc.setWidth 64) s))

/-- R61, R62, R329, R330, R331: the handler-only forms have their effect in handler mode. R61, R297, R352, R355: WAIT, SEV,
TPROBE, SPREAD, SPCLR and TMARK have their effect outside a strip. The model's choice, no rule of the spec: what TPROBE
answers for a cause that R61 does not list (notes/assumptions/48.md). -/
def Obligations.SystemForms : Prop :=
  Claims.HandlerForms ∧ Claims.TaskForms

/-- R296, R297, R355: TRAP raises SYSCALL with EADDR X(ra), and DBRK enters a debug halt with CAUSE 1 where EBRK is set and
raises BREAK elsewhere; WAIT without event and deadline stays where it is and changes no register (R297). -/
def Obligations.TrapAndBreak : Prop :=
∀ s : State, s.h.ms.strip = none →
    (∀ a : Reg, exec (.trap a) s = .next (takeTrap .syscall 0 (s.getX a) s)) ∧
    (s.h.db.ebrk = false → exec .dbrk s = .next (takeTrap .break 0 (s.h.pc.setWidth 64) s)) ∧
    (s.h.db.ebrk = true → ∃ t, exec .dbrk s = .next t ∧ t.h.db.halted = true ∧ t.h.db.cause = 1 ∧
      t.h.db.dpc = s.h.pc ∧ t.h.db.delem = s.h.vc.vstart ∧ t.h.pc = s.h.pc ∧ t.h.x = s.h.x ∧ t.h.hr = s.h.hr) ∧
    (∀ d a : Reg, s.h.sy.evt = false → ¬(s.getX a ≠ 0 ∧ (s.getX a).toNat ≤ s.time) →
      ∃ t, exec (.wait d a) s = .next t ∧ t.h.pc = s.h.pc ∧ t.h.x = s.h.x ∧ t.h.sy.evt = false ∧ t.h.sy.mon = s.h.sy.mon ∧
        t.dev = s.dev)

/-- R46, R18: writing element `i` of a legal group gives that element the low `w` bits of the value, leaves every other
element of the group and every register outside it as it was, and changes nothing else of the hart. -/
def Obligations.ElementAccess : Prop :=
∀ (h : Hart) (v : Reg) (i j w x : Nat), w ∈ [1, 8, 16, 32, 64] → h.id.lanes ∈ [4, 8, 16] →
    v.val + i / (h.vlen / w) < 32 → v.val + j / (h.vlen / w) < 32 →
    (h.setElem v.val i w x).elem v.val j w = (if j = i then x % 2 ^ w else h.elem v.val j w) ∧
    (∀ r : Reg, r.val ≠ v.val + i / (h.vlen / w) → (h.setElem v.val i w x).v[r] = h.v[r]) ∧
    h.setElem v.val i w x = { h with v := (h.setElem v.val i w x).v }

/-- R167-R175, R45, R47: the element-wise integer and fixed-point forms perform their active elements in order with the
value of their row, zero the others when z = 1, and complete; illegal groups or widths raise ILLEGAL. -/
def Obligations.VectorIntegers : Prop :=
∀ (s : State) (i : Instr) (bad : Prop) (d : Reg) (n : Nat) (m z : Bool) (w : Nat) (f : Nat → Hart → Hart),
    IntElement s i bad d n m z w f → Acts s i bad d n (ElementLoop m z d w f)

/-- R176, R177, R179, R180: compares, mask logic, the forms of the first set bit, slides, gathers and VID go element by
element and complete. -/
def Obligations.VectorMasks : Prop :=
∀ (s : State) (i : Instr) (bad : Prop) (d : Reg) (n : Nat) (m z : Bool) (w : Nat) (f : Nat → Hart → Hart),
    MaskElement s i bad d n m z w f → Acts s i bad d n (ElementLoop m z d w f)

/-- R178, R180: VCPOP, VFIRST and VMV.XS give rd its value and change nothing else but VSTART. R180-R183: VMV.SX, compression,
expansion, running sums and key sorts complete with the elements that their rules give; the source of a sort keeps equal
keys in order. -/
def Obligations.VectorScalarsAndMoves : Prop :=
  Claims.VectorScalars ∧ Claims.VectorPermutes

/-- R185-R201, R189: the per-element float forms of a hart with no trap enabled, the special functions of R201 among them,
give every active element its result, report its flags at its index, zero the others when z = 1, and complete. That the
results of VEXP2 and VLOG2 are those of `exp2` and `log2` rests on the model's choice of notes/assumptions/26.md. -/
def Obligations.VectorFloats : Prop :=
∀ (s : State) (i : Instr) (bad : Prop) (d : Reg) (n : Nat) (m z : Bool) (w : Nat) (F : Nat → Hart → FRes),
    FloatElement s i bad d n m z w F → s.h.f.fen = 0 →
    Acts s i bad d n (ElementLoop m z d w fun k h => tookResult h d w k (F k h))

/-- R190: with traps enabled the elements before the first one that raises an enabled class are performed; that one keeps its
flags, writes no element, and raises FPTRAP with its index. R185, R187: a float form raises ILLEGAL where FRM names no mode
and the form rounds, and at e8. -/
def Obligations.VectorFloatTrapping : Prop :=
  Claims.VectorFloatTraps ∧ Claims.VectorFloatIllegal

/-- R208, R209: VRAND and VRANDF give every active element the words of the hart's stream that its place among them
names, and advance the counter by whole blocks. -/
def Obligations.RandomElements : Prop :=
∀ (s : State) (d : Reg) (m z : Bool),
    Acts s (.vrand d m z) (s.h.ew = 8 ∨ d.val % s.h.grp ≠ 0) d s.h.grp
      (fun h h' => ∃ h1, Fills m z d s.h.ew (fun k t => t.setElem d.val k t.ew (randomElement h m k)) h h1 ∧
        h' = h1.bumpCounter (((if s.h.ew = 64 then 2 else 1) *
          ((List.range s.h.vc.vl).filter fun j => on s.h m j).length + 3) / 4)) ∧
    Acts s (.vrandf d m z (s.h.ew == 16)) (s.h.ew = 8 ∨ d.val % s.h.grp ≠ 0) d s.h.grp
      (fun h h' => ∃ h1, Fills m z d s.h.ew (fun k t => t.setElem d.val k t.ew
          (if s.h.ew = 16 then (bf16.round .rne { v := .fin ⟨false, randomElement h m k / 2 ^ 24, -8⟩ }).bits
           else if s.h.ew = 32 then (f32.round .rne { v := .fin ⟨false, randomElement h m k / 2 ^ 8, -24⟩ }).bits
           else (f64.round .rne { v := .fin ⟨false, randomElement h m k / 2 ^ 11, -53⟩ }).bits)) h h1 ∧
        h' = h1.bumpCounter (((if s.h.ew = 64 then 2 else 1) *
          ((List.range s.h.vc.vl).filter fun j => on s.h m j).length + 3) / 4))

/-- R202-R204, R207, R211: a reduction or a merge with VSTART 0 and no enabled class raised puts its results into the elements
from 0 on, zeroes the rest when z = 1, reports its flags, and completes; an enabled class raises FPTRAP with element 0 and
leaves the destination as it was (R190). R205: a float scan with VSTART 0 and no enabled class raised writes each active
element its running sum, reports each element's flags at its index, and completes. -/
def Obligations.FloatReductions : Prop :=
  Claims.VectorReductions ∧ Claims.VectorScans

/-- R206, R210: VFARGMAX, VFARGMIN and VCDFSEL with VSTART 0 and no enabled class raised give rd the index and report
their flags. -/
def Obligations.VectorFloatScalars : Prop :=
∀ (s : State) (i : Instr) (d a : Reg) (v : Word) (fl : Fl), FloatScalar s i d a v fl → a.val % s.h.grp = 0 →
    s.h.vc.vstart = 0 → fl &&& s.h.f.fen = 0 →
    ∃ t, exec i s = .next t ∧ Finished s ((s.h.raise 0 fl).setX d v) t

/-- R185, R187, R188: rounding a value that a format holds gives its own code back, whatever the mode, and raises
nothing. -/
def Obligations.RoundingKeepsCodes : Prop :=
∀ (f : FFmt) (rm : RM) (x : Nat), f ∈ [f64, f32, f16, bf16] → x < 2 ^ f.width → (f.value x).isNan = false →
    f.round rm { v := f.value x } = ⟨x, 0⟩

/-- R138, R139, R140, R143, R19: VSETVL, VSETVLI and VSETVLM outside a strip take the pending CAP, set VTYPE, VLMAXR and VL,
give rd the new length, set VSTART to 0, and leave a replaying loop when X = 1 and the length is 0. The allocator makes no
repartition here. R138, R254: inside a strip a VSET without R keeps the CAP in force and sets the length; with R it raises
STRIPOP. R138: a VSETVL that asks for a VTYPE with a reserved bit or a width above e64 raises ILLEGAL. R141: VSETFL outside
a strip packs rows: VL is the entries of the rows taken, or VLMAX when the first row alone is longer, rd the number of rows,
and v0 has exactly the bits of the last elements of the rows that are not empty. -/
def Obligations.VectorLengths : Prop :=
  Claims.VsetLengths ∧ Claims.VsetInStrip ∧ Claims.VsetIllegal ∧ Claims.VsetflPacksRows

/-- R145-R152, R27, R47: a native vector load whose active elements can all be read completes: each destination element takes
its bytes, widened, the others become 0 when z = 1, and nothing else changes; the first-fault forms clear VFF. R153: a
first-fault load outside a strip whose element `e` > 0 is the first to fault (ReadFault) writes the elements below it,
records the fault in VFF, sets VL to `e`, and completes; one whose element 0 faults traps. R248, R247, R253: inside a strip
every native vector load claims its registers and suppresses the first fault (ReadFault) of an element `e` > 0: the elements
below it are written, VFF records the fault, VL becomes `e`, held stores and watch records of later elements go, and the
load completes; one whose elements can all be read completes as it does outside and leaves VFF; a fault of element 0 is
taken. -/
def Obligations.VectorLoads : Prop :=
  Claims.NativeLoads ∧ Claims.FirstFaultLoads ∧ Claims.StripLoads

/-- R145-R152, R265, R273: a native vector store whose active elements can all be stored completes: their low bytes enter the
store queue in element order, field by field, and nothing else changes. R250, R251: inside a strip a native vector store is
held, each part with its element's tag, while the strip's live bytes stay within its share; the first element that does not
fit raises STRIPCAP, the elements below it being held. -/
def Obligations.VectorStores : Prop :=
  Claims.NativeStores ∧ Claims.StripStores

/-- R148: VLDR loads, and VSTR stores, the bytes of a whole group from unit VSTART on, whatever VL and mask; VLDM loads
bits VSTART to VL - 1 of a register, and VSTM stores them byte by byte, merging a byte of which some bits are not
written. -/
def Obligations.WholeRegisters : Prop :=
∀ (s : State) (d a : Reg) (val : Nat → Nat) (loc : Nat → Loc) (top : Nat), Fresh s → (∀ q : Reg, (s.h.v[q]).err = []) →
    s.h.id.lanes ∈ [4, 8, 16] →
    (d.val % s.h.grp = 0 → top = s.h.vlen * s.h.grp / 8 →
      ((∀ k, s.h.vc.vstart.toNat ≤ k → k < top → ReadsAs s (((s.getX a).toNat + k) % 2 ^ 64) 1 (val k)) →
        ∃ (g : Nat → Hart) (t : State), g s.h.vc.vstart.toNat = s.h ∧
          (∀ k, s.h.vc.vstart.toNat ≤ k → k < top → g (k + 1) = (g k).setElem d.val k 8 (val k)) ∧
          exec (.vldr d a) s = .next t ∧ Loaded s t (g (max s.h.vc.vstart.toNat top)).v s.h.vc.vl s.h.vc.vff) ∧
      ((∀ k, s.h.vc.vstart.toNat ≤ k → k < top → StoresAt s (((s.getX a).toNat + k) % 2 ^ 64) 1 (loc k)) →
        ∃ t, exec (.vstr d a) s = .next t ∧
          Stored s t (((List.range top).filter fun k => decide (s.h.vc.vstart.toNat ≤ k)).map fun k =>
            partOf s (loc k) (((s.getX a).toNat + k) % 2 ^ 64) 1 (s.h.elem d.val k 8) none))) ∧
    (top = (s.h.vc.vl + 7) / 8 →
      ((∀ k, s.h.vc.vstart.toNat / 8 ≤ k → k < top → ReadsAs s (((s.getX a).toNat + k) % 2 ^ 64) 1 (val k)) →
        ∃ (g : Nat → Hart) (t : State), g s.h.vc.vstart.toNat = s.h ∧
          (∀ k, s.h.vc.vstart.toNat ≤ k → k < s.h.vc.vl → g (k + 1) = (g k).setElem d.val k 1 (val (k / 8) / 2 ^ (k % 8))) ∧
          exec (.vldm d a) s = .next t ∧
          Loaded s t (g (max s.h.vc.vstart.toNat s.h.vc.vl)).v s.h.vc.vl s.h.vc.vff) ∧
      ((∀ k, s.h.vc.vstart.toNat / 8 ≤ k → k < top → StoresAt s (((s.getX a).toNat + k) % 2 ^ 64) 1 (loc k)) →
        ∃ t, exec (.vstm d a) s = .next t ∧
          Stored s t (((List.range top).filter fun k => decide (s.h.vc.vstart.toNat < 8 * k + 8) &&
              decide (s.h.vc.vstart.toNat < s.h.vc.vl)).map fun k =>
            { partOf s (loc k) (((s.getX a).toNat + k) % 2 ^ 64) 1 (s.h.elem d.val k 8) none with
              mask := if s.h.vc.vstart.toNat ≤ 8 * k ∧ 8 * k + 8 ≤ s.h.vc.vl then none
                else some (BitVec.ofNat 8 (2 ^ (min (8 * k + 8) s.h.vc.vl - 8 * k) - 2 ^ (max s.h.vc.vstart.toNat (8 * k) - 8 * k))) })))

/-- R154-R158: VLD and VLDF of a narrow format without a trailer, whose active elements and scale bytes can be read, complete:
each active element becomes its code's value times its scale, rounded to nearest; FLG reports flags, which no enabled class
traps here. R155, R146, R157: a narrow access through a descriptor that is not valid raises ILLEGAL, one below its BASE
raises MISALIGN, and a masked store with block scales raises ILLEGAL; a narrow store in a strip raises STRIPOP, which the
model checks before the descriptor (the model's choice, notes/assumptions/16.md). R157, R159: a narrow store without block
scales, trailers or random rounding, of elements and scale bytes that can be accessed, puts each active element's code into
the store queue: a byte, or the bits of one, and reports nothing when FLG is 0. -/
def Obligations.NarrowAccesses : Prop :=
  Claims.NarrowLoads ∧ Claims.NarrowChecks ∧ Claims.NarrowStores

/-- R243, R244, R251, R260: VSTRIP closes the open strip, if any, takes the pending CAP, checkpoints, opens a strip of min(AVL,
VLMAX) elements with an empty Written set and a share of 4 VLEN / 8 bytes, and gives rd the length. The hart that an
interrupt has put back to this VSTRIP holds further interrupts for 2,048 cycles. R244: VSTREND closes the open strip: its
registers are the hart's, its held stores follow those of the store queue in their order. With no strip open it has no
effect. R245, R253: VEXIT finds the first exiting element below VL, records it in VPX, cuts VL there, with the element (.i)
or without it (.b), annuls the held stores of the elements cut off, and gives rd the new VL, then rb VPX[16]; elements of
the run-ahead stream that had bound an annulled byte are marked (R257). With VSTART ≠ 0 it raises ILLEGAL. -/
def Obligations.Strips : Prop :=
  Claims.StripOpens ∧ Claims.StripCloses ∧ Claims.StripExits

/-- R57, R260, R264, R266, R268, R271, R276, R297, R316, R331, R332, R340, R342, R354: an event of a hart finds it wherever
it stands in the order of the harts, acts there as its rule says, and keeps that order. The model's own choices in it: the entry a stall charges with EVENTS
and ELAG 0 while it lasts (notes/assumptions/24.md), the completion mask at a point (51.md), that BIND, EARLY and REPLAY
come as events and what a look ahead knows (8.md). -/
def Obligations.HartEvents : Prop :=
∀ (s : State) (p : Nat) (e : Nat → Nat → Instr) (P : State → Prop), p ≤ s.others.length →
    Alone (State.rotate^[p] s) → HartEvent (State.rotate^[p] s) e P →
    ∃ u, P u ∧ exec (e (State.rotate^[p] s).h.id.gang.toNat (State.rotate^[p] s).h.id.rank) s =
      .next (State.rotate^[s.others.length + 1 - p] u)

/-- R333, R340, R341, R342, R348, R352, R362, R372: events of the device's parts have the effect that their rules give, and
nothing else changes. The model's choice, no rule of the spec: a debugger's request activates the module and clears its
cmderr, and what a stopped Causeway core holds is free (notes/assumptions/54.md, 55.md). R344, R345, R346, R347, R348: with
DBGOPEN, a command finds the hart that it names wherever that stands in the order of the harts, and has its effect or its
cmderr: 1 while an access of the module is not done. The model's choice, no rule of the spec: LOOP, CSEQ and the mode can be
written and CMDERR is set by every command (notes/assumptions/39.md), a width above 3 gives cmderr 2, a busy module 1, and a
request clears the cmderr before it (notes/assumptions/54.md). -/
def Obligations.DeviceAndDebugEvents : Prop :=
  Claims.DeviceEvents ∧ Claims.DebugCommands

/-- R91, R300, R301, R350, R352, R357-R363: writes of the host to the device registers, peer checks and inbound accesses
have the effect that their rules give, and nothing else of the machine changes but EVT of the harts that monitor the line of the
register written (R297). The model's choice, no rule of the spec: an inbound write of any width and alignment is performed
(notes/assumptions/40.md), and what PEER_CHECK reports (notes/assumptions/41.md). -/
def Obligations.HostEvents : Prop :=
∀ (s : State) (i : Instr) (P : State → Prop), HostEvent s i P →
    ∃ u, P u ∧ exec i s = .next ((registerOf i).elim u fun off => belled off u)

/-- R297, R310, R358, R360, R368-R371: a command of the HSEM holder's, once READY is 1 and none runs, is performed by Esmen behind
the stores that can be performed, and ends with its status; of another port it is dropped and counted. The model's choice, no
rule of the spec: the status numbers that R368 does not give, of a full TCREATE, of ACTIVATE and of PREEMPT with nothing, and
the ranges of a bad TCREATE (notes/assumptions/61.md); TDESTROY ends the registration (notes/assumptions/40.md). -/
def Obligations.MailboxCommands : Prop :=
∀ (s r : State) (p : Nat) (i : Instr) (P : State → Prop), r = State.eachHart State.drainQueues s → MailboxEvent r p i P →
    p ≤ 1 → s.dev.hosts.ready = true → s.dev.hosts.mbRun = none → s.dev.resets = [] → s.dev.causeway.halted = false →
    (Holds s p → ∃ u, P u ∧ exec i s = .next (belled 0x20 u)) ∧
    (¬Holds s p → exec i s = .next (belled 0x20 (withHosts s fun r => { r with hdeny := r.hdeny + 1 })))

/-- R366, R367: function-level, hot and cold resets, and the end of bring-up. The model's choice, no rule of the spec: what a
function-level reset leaves registered (notes/assumptions/40.md), and that a cold reset keeps the boot number
(notes/assumptions/41.md). -/
def Obligations.Resets : Prop :=
∀ (s : State) (i : Instr) (P : State → Prop), Reset s i P → ∃ u, P u ∧ exec i s = .next u

/-- R113, R114, R120: BMODE and BSLOT outside a strip, and BQRY anywhere, complete with their status or status word; a bank
of a new mode is zeroed or empty, untracked, EMPTY, with HOLD = 0; a slot operation changes the fields that it names. -/
def Obligations.BankModes : Prop :=
∀ s : State,
    (∀ (i : Instr) (d : Reg) (v : Word) (P : State → Prop), BankForm s i d v P → s.h.ms.strip = none →
      ∃ w t, P w ∧ exec i s = .next t ∧ Done s (w.setX d v) t 4) ∧
    (∀ (d a : Reg) (w : Word), BankWord s (s.getX a).toNat w → ∃ t, exec (.bqry d a) s = .next t ∧ Done s (s.setX d w) t 4)

/-- R116, R121: FPUSH appends elements 0 to VL - 1 as one entry of a FIFO bank that is not full, once the hart's stores are
visible; FPOP takes the oldest entry into them. R119, R121: FPUSH and FPOP raise ILLEGAL where VSTART, VL or the group break
the limits, then MISALIGN for an address that is no bank's, and PERM for a bank that is not in FIFO mode. -/
def Obligations.FifoBanks : Prop :=
  Claims.FifoMoves ∧ Claims.FifoTraps

/-- R117, R118, R122: the line operations over the lines of a range from line VSTART on. LPF only ends; LCLEAN and LINV
change nothing that an agent reads where each line is skipped or may be read; DISCARD queues a line of zeros for each. -/
def Obligations.LineOperations : Prop :=
∀ (s : State) (a b : Reg) (loc : Nat → Loc),
    (∃ t, exec (.lpfL2 a b) s = .next t ∧ DoneV s s t) ∧ (∃ t, exec (.lpfL1 a b) s = .next t ∧ DoneV s s t) ∧
    (Fresh s → (∀ k, s.h.vc.vstart.toNat ≤ k → k < linesOf (s.getX a).toNat (s.getX b).toNat →
        (inWindow (rangeLine (s.getX a).toNat k) = true ∧ rangeLine (s.getX a).toNat k < 2 ^ 52) ∨
        ∃ l c, Mapped s (rangeLine (s.getX a).toNat k) .load l c) →
      (∃ t, exec (.lclean a b) s = .next t ∧ DoneV s s t) ∧ (∃ t, exec (.linv a b) s = .next t ∧ DoneV s s t)) ∧
    (Fresh s → s.h.ms.early = [] → (s.getX a).toNat % 128 = 0 → (s.getX b).toNat % 128 = 0 →
      (∀ k, s.h.vc.vstart.toNat ≤ k → k < (s.getX b).toNat / 128 → StoresAt s ((s.getX a).toNat + 128 * k) 128 (loc k)) →
      ∃ t, exec (.discard a b) s = .next t ∧
        Stored s t (((List.range ((s.getX b).toNat / 128)).filter fun k => decide (s.h.vc.vstart.toNat ≤ k)).map fun k =>
          partOf s (loc k) ((s.getX a).toNat + 128 * k) 128 0 none)) ∧
    (s.h.ms.strip = none → s.h.pc ∉ s.h.ms.early → (s.getX a).toNat % 128 ≠ 0 ∨ (s.getX b).toNat % 128 ≠ 0 →
      exec (.discard a b) s = .next (takeTrap .misalign 0 (s.getX a) s))

/-- R124, R126-R131: a CPY with nothing in its way issues: it takes its destination lines, captures what the hart holds, and
gives rd its number, which CSEQ takes; a narrowing CONV with stochastic rounding moves the counter on. A count of 0 only
takes a number. R125, R126, R128, R254: a CPY that is refused says why in rd and changes nothing else: code 2 for a field, 3
for the descriptor of a CONV, 1 for a destination of more than 8,192 lines; a pair that starts at x0 or x31 raises ILLEGAL,
a CPY in a strip STRIPOP. That code 2 is told before 3 and 3 before 1 is the model's choice, no rule of the spec
(notes/assumptions/28.md). R124, R134, R135: CPYQRY gives rd DONE(e); CPYWAIT completes once DONE(e) has reached X(ra) or
CSEQ(e), unless the failure record holds a number at or below X(ra), which it then raises and clears. -/
def Obligations.Copies : Prop :=
  Claims.CopyIssues ∧ Claims.CopyRefused ∧ Claims.CopyWaits

/-- R114, R132, R133, R135, R136: what reading a source line, writing a destination line, failing and issuing again leave of
a command that its engine runs. The model's choice, no rule of the spec: a failed command writes no further line, and a command
issued again runs as a whole (notes/assumptions/29.md). -/
def Obligations.EngineSteps : Prop :=
∀ (s : State) (c : Cmd) (i : Instr) (P : State → Prop), EngineEvent s c i P → ∃ u, P u ∧ exec i s = .next u

/-- R69, R70, R79: KVXL writes to each element the address that its position translates to, or 0, and KVXLM to each mask bit
whether it is present; other elements and all else stay. R68, R77, R78: in a strip every KV instruction raises STRIPOP
(KVXL, KVXLM and KVAPP after their ILLEGAL checks); outside one, with its older stores performed, a descriptor that is not
64-byte aligned raises MISALIGN at it, and one with a field that is not legal KVDESC at it. That KVFORK takes the child's
alignment and descriptor before the parent's is the model's choice, no rule of the spec (notes/assumptions/57.md), and so is
when a stash is seen to be low (notes/assumptions/30.md). -/
def Obligations.KvQueries : Prop :=
  Claims.KvTranslates ∧ Claims.KvChecks

/-- R71, R72, R80: KVAPP of a token to a block that can take it, at LEN or LEN - 1, appends it and raises LEN to its
position + 1 at least; R81: KVCOMMIT of one draft of a sequence of one pair appends the draft's token and moves LEN, DHEAD
and DLEN on by one, and with T = LEN changes nothing. When
the stash is seen to be low is the model's choice, no rule of the spec (notes/assumptions/30.md). -/
def Obligations.KvAppends : Prop :=
(∀ (s : State) (v a b c : Reg) (w k l h ke i n : Nat) (loc : Nat → Nat) (q : Sequence) (key val : Nat → FVal) (p : Nat),
    KvFresh s → s.h.ew = 16 ∨ s.h.ew = 32 → v.val % s.h.grp = 0 → SeqAt s (s.getX a).toNat w k true → q = sequenceOf w →
    OnePair q (s.getX b).toNat l h false 0 → s.h.vc.vl = 2 * q.d → q.dlen = 0 → (s.getX c).toNat = p → p = q.len ∨ p + 1 = q.len →
    p + 1 < 2 ^ 32 → p / 32 < q.ne → Lies s (q.entry l h (p / 32)) 4 ke false → numAt (homes s) ke 4 = i → i < 0xFFFFFFFE →
    i < q.poolsz → (∀ j, key j = (wideOf s).value (s.h.elem v.val j s.h.ew)) →
    (∀ j, val j = (wideOf s).value (s.h.elem v.val (q.d + j) s.h.ew)) → Takeable s q (q.block i) n (p % 32) key loc →
    (∀ j < q.stride, ¬(k ≤ loc j ∧ loc j < k + 64)) →
    ∃ (B' : Nat → Byte) (rescale : Nat → Bool) (u t : State), Appended q n (p % 32) key val (homes s ∘ loc) B' rescale ∧
      BlockAndSeq s u q.stride loc B' k (withField w 192 32 (max q.len (p + 1))) ∧ exec (.kvapp v a b c) s = .next t ∧
      DoneKv s u t) ∧
  (∀ (s : State) (a b : Reg) (w k : Nat), KvFresh s → SeqAt s (s.getX a).toNat w k false →
    (s.getX b).toNat = (sequenceOf w).len → ∃ t, exec (.kvcommit a b) s = .next t ∧ DoneKv s s t) ∧
  (∀ (s : State) (a b : Reg) (w k ke kd i n : Nat) (loc : Nat → Nat) (q : Sequence) (key val : Nat → FVal),
    KvFresh s → SeqAt s (s.getX a).toNat w k true → q = sequenceOf w → q.layers = 1 ∧ q.heads = 1 →
    (s.getX b).toNat = q.len + 1 → q.len + 1 < 2 ^ 32 → 0 < q.dlen → q.len / 32 < q.ne →
    Lies s (q.entry 0 0 (q.len / 32)) 4 ke false → numAt (homes s) ke 4 = i → i < 0xFFFFFFFE → i < q.poolsz →
    (∀ j < 4 * q.d, ∃ l c, Mapped s (q.draft 0 0 0 + j) .load l c ∧ c.key = kd + j ∧ AtHome s c 1) →
    (∀ j, key j = bf16.value (numAt (homes s) (kd + 2 * j) 2)) → (∀ j, val j = bf16.value (numAt (homes s) (kd + 2 * q.d + 2 * j) 2)) →
    Takeable s q (q.block i) n (q.len % 32) key loc → (∀ j < q.stride, ¬(k ≤ loc j ∧ loc j < k + 64)) →
    ∃ (B' : Nat → Byte) (rescale : Nat → Bool) (u t : State), Appended q n (q.len % 32) key val (homes s ∘ loc) B' rescale ∧
      BlockAndSeq s u q.stride loc B' k (withField (withField (withField w 192 32 (q.len + 1)) 232 6 (q.dhead + 1)) 224 7 (q.dlen - 1)) ∧
      exec (.kvcommit a b) s = .next t ∧ DoneKv s u t)

/-- R82: KVTRUNC lowers DLEN to X(xb) and changes no other byte. R83: KVEVICT of a position that is absent for every pair in
scope gives 0, and of one that is present in a private block that keeps other tokens removes its slot and gives 1. R84:
KVALLOC with no entry to fill gives 0 and sets CAPLEN; with one, for a sequence of one pair, it grants an ID of the stash:
META and TRL are fresh, the entry names the block, CAPLEN counts it, and the result is 1. KVFREE over entries that hold no
block makes them NONE, lowers LEN and sets CAPLEN. KVFORK of an empty parent sets the child's CAPLEN and DHEAD. The model's
choice, no rule of the spec: the ID granted is the first of the stash (R74 leaves it open; notes/assumptions/30.md), and a
block granted has CRC 0 (notes/assumptions/57.md). R74, R75: a refill reply with distinct IDs that Esmen holds free, no more
than were asked for, puts as many as fit behind those of the stash that asked, which holds 32; an empty reply leaves the
stash as it was but dry, where Esmen holds none and no continuation is parked. -/
def Obligations.KvEdits : Prop :=
  Claims.KvRemoves ∧ Claims.KvEntries ∧ Claims.StashRefill

/-- R92, R101, R102: CRGET, PARK and CRFREE outside a strip, with the hart's older stores visible, complete with their status or
slot, and the slot makes its transition. R103, R99: PROMOTE changes nothing but the predictor, the tenant's hints and the
expert cache's requests, and with a length of 0 asks for no page; the predictor's newest entry is the hint's. R104: TQRY and
CRQRY give their words and change nothing else. -/
def Obligations.CaravanForms : Prop :=
  Claims.SlotForms ∧ Claims.TierQueries

/-- R92-R98, R318, R362: what the events of the Peat engine do: timers, the wheel, the end of a page move, failures, the
submission of a relaunch, wake writes. The model's choice, no rule of the spec: a relaunch submits bytes 64 to 127 as they stand at
the submission (notes/assumptions/59.md), and the order of page moves and which records they retier (notes/assumptions/35.md). -/
def Obligations.PeatEvents : Prop :=
∀ (s : State) (i : Instr) (P : State → Prop), PeatEvent s i P → ∃ t, exec i s = .next t ∧ P t

/-- R313: LAUNCH of a record that the hart can read answers 1, 3 or 2 with bit 63, in that order, and touches nothing; or, with
the hart's stores visible, writes the record with the hart's tenant to the entry at TAIL, raises TAIL by one and answers the
index. A record address that is not a multiple of 64 raises MISALIGN; a failed store that the hart still holds raises MCHECK
or, where its page was never promoted, TIERWAIT, whatever LAUNCH would answer (R342; TIERWAIT here is the model's choice,
notes/assumptions/53.md). R314: GBAR completes once every other live hart of the gang has arrived at the hart's generation,
which rises by one. R316: WAITGE whose word reaches X(rb), or whose deadline has passed, ends with the word in rd and the
word's line monitored. R317: HEND with the hart's stores and commands done ends the hart; the last of a gang ends the gang. -/
def Obligations.GangForms : Prop :=
  Claims.Launch ∧ Claims.WaitForms

/-- R303-R311, R335-R339: what the events of the lane allocators and the save engine do: completion adds, record checks, grants,
polls, reservations, pre-emption, saving, resumption, core retirement. The model's choice, no rule of the spec: a grant takes the
lowest free GANGID (notes/assumptions/36.md), what a saved hart's image holds of the stall table (notes/assumptions/37.md), and that
an event whose conditions fail changes nothing (notes/assumptions/6.md). -/
def Obligations.AllocEvents : Prop :=
∀ (s : State) (i : Instr) (P : State → Prop), AllocEvent s i P → ∃ t, exec i s = .next t ∧ P t

/-- R215-R220, R223, R224, R228: TZERO, TOP, TRD and TWR raise ILLEGAL, STRIPOP and TILEOWN in this order, or do their work as
one unit. R221, R222: TGL whose active rows can be read puts their bytes into the rows of its latch from ROW0 on and leaves
every other byte of it. A breach of its limits raises ILLEGAL; an address that does not start a line, or whose row leaves
its bank, raises MISALIGN, with every tracked bank READY. -/
def Obligations.TileOperations : Prop :=
  Claims.TileForms ∧ Claims.TileGather

/-- R231: TFINIT makes the tile a factor of the order that TSHAPE.FN gives with √λ on its diagonal; a λ that is NaN, infinite or
below -0 raises FPTRAP with NV at element 0. R236: TFRD gives row ROW, TFWR writes it from the diagonal on, a -0 diagonal as
+0; a negative diagonal raises FPTRAP with NV at ROW. R230: TFWR raises LOSTDEF at element n on a BROKEN tile, and FPTRAP
with NV at its lowest element, from ROW on, that is NaN or infinite. R230, R235: TFSOLV with no zero on the diagonal and
finite elements throughout writes the solution and leaves the tile; a zero diagonal raises LOSTDEF at it. On a BROKEN tile
TFSOLV, TFUPD and TFDND raise LOSTDEF at element n. -/
def Obligations.FactorTiles : Prop :=
  Claims.FactorRows ∧ Claims.FactorSolves

/-- R230-R234: TFUPD and TFDND of finite elements whose every column turns leave the swept factor; a removal that loses
definiteness at column k raises LOSTDEF there, and a column that overflows FPTRAP with OF, with the rows below k swept and the
tile BROKEN. -/
def Obligations.FactorSweeps : Prop :=
∀ (s : State) (i : Instr) (k : Tile) (b : Reg) (dlt : Option Nat) (n c : Nat) (C : Nat → Nat → Nat → Nat) (w : Nat → Nat → Nat),
    SweepForm i k b dlt → FactorTile s k n → Operands s n [b] → n ≤ 64 → s.h.ms.strip = none → s.h.t.tile[k].broken = false →
    (∀ j < n, Finite (s.h.elem b.val j 32)) → (∀ j < n, Finite (cell s.h.t.tile[k] j j)) → SweptTo s k b dlt n c C w → c ≤ n →
    (c = n → ∃ x u t, CellsAre x s.h.t.tile[k] (C n) ∧ TileIs s u k x ∧ exec i s = .next t ∧ DoneT s u t) ∧
    (c < n → (∃ d, dlt = some d ∧ Lost d (C c c c) (w c c)) → ∃ x u, CellsAre x { s.h.t.tile[k] with broken := true } (C c) ∧
      TileIs s u k x ∧ exec i s = .next (takeTrapAt .lostdef 0 c (BitVec.ofNat 64 (C c c c * 2 ^ 32 + w c c)) u)) ∧
    (c < n → Overflows dlt n c (C c) (w c) → ∃ x u, CellsAre x { s.h.t.tile[k] with broken := true } (C c) ∧ TileIs s u k x ∧
      exec i s = .next (takeTrapAt .fptrap 0 c (BitVec.ofNat 64 (C c c c * 2 ^ 32 + w c c)) { u with h := u.h.raise c 0x04 }))

/-- R237, R238: TFSAVE to lines that can be stored enters the rows and then the header, a release, into the store queue.
TFLOAD of an image whose header, CRC and rows are right makes the tile the factor it holds; an address that is not a multiple
of 128 raises MISALIGN in both. The domain scope of the header's release is the model's choice, no rule of the spec
(notes/assumptions/31.md). -/
def Obligations.FactorImages : Prop :=
(∀ (s : State) (k : Tile) (a : Reg) (n : Nat) (loc : Nat → Loc), FactorTile s k n → Fresh s → 1 ≤ n → n ≤ 64 → s.h.ms.fabFail = none → s.h.ms.tierFail = none →
    (s.getX a).toNat % 128 = 0 → (∀ i < 2 * n + 1, StoresAt s (imageLine (s.getX a) i) 128 (loc i)) →
    ∃ t, exec (.tfsave k a) s = .next t ∧ DoneT s { s with h := { s.h with ms := { s.h.ms with storeQ := s.h.ms.storeQ ++
      ((List.range (2 * n)).map fun i => partOf s (loc (i + 1)) (imageLine (s.getX a) (i + 1)) 128
        (s.h.t.tile[k].val.extractLsb' (1024 * i) 1024).toNat none) ++
      [partOf s (loc 0) (imageLine (s.getX a) 0) 128 (n + 128 * s.h.t.tile[k].broken.toNat +
        imageCrc n s.h.t.tile[k].broken (rowsOf s.h.t.tile[k] n) * 2 ^ 96) (some 4)] } } } t) ∧
  (∀ (s : State) (k : Tile) (a : Reg) (n : Nat) (hd : Nat) (x : TileReg), s.h.vc.vstart = 0 → Fresh s →
    s.h.t.town.getLsbD k.val = true → (s.getX a).toNat % 128 = 0 → ReadsAs s (imageLine (s.getX a) 0) 128 hd → 1 ≤ n → n ≤ 64 →
    hd % 2 ^ 96 = n + 128 * x.broken.toNat → hd / 2 ^ 96 % 2 ^ 32 = imageCrc n x.broken (rowsOf x n) →
    x.val.toNat < 2 ^ (2048 * n) → x.factor = true → x.n.toNat = n → x.err = [] →
    (∀ i < 2 * n, ReadsAs s (imageLine (s.getX a) (i + 1)) 128 (x.val.extractLsb' (1024 * i) 1024).toNat) →
    (x.broken = false → ∀ i < n, ∀ j < 64, (j < i ∨ n ≤ j → cell x i j = 0) ∧ Finite (cell x i j) ∧ (i = j → cell x i j < 2 ^ 31)) →
    ∃ u t, TileIs s u k x ∧ exec (.tfload k a) s = .next t ∧ DoneT s u t) ∧
  (∀ (s : State) (k : Tile) (a : Reg) (n : Nat), FactorTile s k n → s.h.ms.strip = none → (s.getX a).toNat % 128 ≠ 0 →
    exec (.tfsave k a) s = .next (takeTrapAt .misalign 0 0 (s.getX a) s) ∧
    exec (.tfload k a) s = .next (takeTrapAt .misalign 0 0 (s.getX a) s))
end

