-- ==== Sys2Proof/Laws/Ahead.lean ====
section
/-! SUPPORT. What a write, a store and a trap leave of the elements that a hart has bound ahead (R267, R268): only the
stream changes, and nothing does where the stream holds no element. -/

namespace Sys2Proof.Machine

theorem Hart.noteAll_eq (h : Hart) (k n : Nat) :
    h.noteAll k n = { h with ms := { h.ms with bound := (h.noteAll k n).ms.bound } } := rfl

theorem Hart.noteAll_idle (h : Hart) (k n : Nat) (hb : h.ms.bound = []) : h.noteAll k n = h := by
  unfold Hart.noteAll
  rw [hb, List.map_nil, ← hb]

theorem Hart.noteLater_idle (h : Hart) (a : Agent) (k n : Nat) (hb : h.ms.bound = []) : h.noteLater a k n = h := by
  simp [Hart.noteLater, hb]

/-- Only the stream of a hart changes by a write of another agent. -/
theorem Hart.noteLater_eq (h : Hart) (a : Agent) (k n : Nat) :
    h.noteLater a k n = { h with ms := { h.ms with bound := (h.noteLater a k n).ms.bound } } := by
  unfold Hart.noteLater; split <;> rfl

theorem Hart.dropBound_idle (h : Hart) (ps : List Part) (hb : h.ms.bound = []) : h.dropBound ps = h := by
  simp [Hart.dropBound, hb]

theorem Hart.dropRead_idle (h : Hart) (ps : List (Nat × List Byte)) (hb : h.ms.bound = []) : h.dropRead ps = h := by
  simp [Hart.dropRead, Hart.unsettle, hb]

@[simp] theorem MemState.unbind_bound (m : MemState) : m.unbind.bound = [] := by
  by_cases h : m.early = [] <;> simp [MemState.unbind, h]
@[simp] theorem MemState.unbind_loadQ (m : MemState) : m.unbind.loadQ = [] := by
  by_cases h : m.early = [] <;> simp [MemState.unbind, h]
@[simp] theorem MemState.unbind_landed (m : MemState) : m.unbind.landed = [] := by
  by_cases h : m.early = [] <;> simp [MemState.unbind, h]
@[simp] theorem MemState.unbind_strip (m : MemState) : m.unbind.strip = m.strip := by
  by_cases h : m.early = [] <;> simp [MemState.unbind, h]
@[simp] theorem MemState.unbind_fabricQ (m : MemState) : m.unbind.fabricQ = m.fabricQ := by
  by_cases h : m.early = [] <;> simp [MemState.unbind, h]
@[simp] theorem MemState.unbind_early (m : MemState) : m.unbind.early = [] := by
  by_cases h : m.early = [] <;> simp [MemState.unbind, h]

end Sys2Proof.Machine
end

