-- ==== Sys2Proof/Laws/Memory.lean ====
section
/-! SUPPORT. Memory: reading after writing, and that every operation keeps the canonical form. -/

namespace Sys2Proof.Machine

theorem Memory.wfFrom_mono {m : Memory} : ∀ {lo lo' : Nat}, lo' ≤ lo → m.wfFrom lo = true → m.wfFrom lo' = true := by
  intro lo lo' h hw
  cases m with
  | nil => rfl
  | cons c r =>
    simp only [Memory.wfFrom, Bool.and_eq_true, decide_eq_true_eq] at hw ⊢
    exact ⟨⟨by omega, hw.1.2⟩, hw.2⟩

theorem Memory.get_below {m : Memory} : ∀ {lo a : Nat}, m.wfFrom lo = true → a < lo → m.get a = 0 := by
  intro lo a hw h
  cases m with
  | nil => rfl
  | cons c r =>
    simp only [Memory.wfFrom, Bool.and_eq_true, decide_eq_true_eq] at hw
    simp only [Memory.get]
    rw [if_pos (by omega)]

theorem Memory.set_wfFrom {m : Memory} : ∀ {lo a : Nat} {b : Byte}, m.wfFrom lo = true → lo ≤ a →
    (m.set a b).wfFrom lo = true := by
  induction m with
  | nil => intro lo a b _ h; unfold Memory.set; split <;> simp_all [Memory.wfFrom]
  | cons c r ih =>
    intro lo a b hw h
    have hw' := hw
    simp only [Memory.wfFrom, Bool.and_eq_true, decide_eq_true_eq] at hw'
    obtain ⟨⟨h1, h2⟩, h3⟩ := hw'
    unfold Memory.set
    split_ifs with h4 h5 h6 h7
    · exact hw
    · simp_all [Memory.wfFrom]
    · exact Memory.wfFrom_mono (by omega) h3
    · simp_all [Memory.wfFrom]
    · simp only [Memory.wfFrom, Bool.and_eq_true, decide_eq_true_eq]
      exact ⟨⟨h1, h2⟩, ih h3 (by omega)⟩

/-- A write keeps the canonical form. -/
theorem Memory.set_wf {m : Memory} {a : Nat} {b : Byte} (h : m.wf = true) : (m.set a b).wf = true :=
  Memory.set_wfFrom h (Nat.zero_le a)

theorem Memory.get_setFrom {m : Memory} : ∀ {lo a k : Nat} {b : Byte}, m.wfFrom lo = true →
    (m.set a b).get k = if k = a then b else m.get k := by
  induction m with
  | nil =>
    intro lo a k b _
    unfold Memory.set
    split_ifs <;> simp_all [Memory.get]
  | cons c r ih =>
    intro lo a k b hw
    have hw' := hw
    simp only [Memory.wfFrom, Bool.and_eq_true, decide_eq_true_eq] at hw'
    obtain ⟨⟨h1, h2⟩, h3⟩ := hw'
    have low : ∀ j, j < c.1 + 1 → Memory.get r j = 0 := fun j hj => Memory.get_below h3 hj
    have hr := @ih (c.1 + 1) a k b h3
    unfold Memory.set
    simp only [Memory.get]
    by_cases q1 : a < c.1
    · rw [if_pos q1]
      by_cases q2 : b = 0
      · rw [if_pos q2]; simp only [Memory.get]; split_ifs <;> first | rfl | omega | simp_all
      · rw [if_neg q2]; simp only [Memory.get]; split_ifs <;> first | rfl | omega
    · rw [if_neg q1]
      by_cases q2 : a = c.1
      · rw [if_pos q2]
        by_cases q3 : b = 0
        · rw [if_pos q3]
          split_ifs with q4 q5 q6
          · rw [q3]; exact low k (by omega)
          · exact low k (by omega)
          · omega
          · rfl
        · rw [if_neg q3]; simp only [Memory.get]; split_ifs <;> first | rfl | omega | exact low k (by omega)
      · rw [if_neg q2]
        simp only [Memory.get]
        split_ifs <;> first | rfl | omega | (rw [hr]; split_ifs <;> first | rfl | omega)

/-- A byte read after a write. -/
theorem Memory.get_set {m : Memory} {a k : Nat} {b : Byte} (h : m.wf = true) :
    (m.set a b).get k = if k = a then b else m.get k := Memory.get_setFrom h

theorem Memory.setBytes_wf (bs : List Byte) : ∀ {m : Memory} {a : Nat}, m.wf = true → (m.setBytes a bs).wf = true := by
  induction bs with
  | nil => intro m a h; exact h
  | cons b r ih => intro m a h; exact ih (Memory.set_wf h)

/-- A byte read after several bytes have been written. -/
theorem Memory.get_setBytes (bs : List Byte) : ∀ {m : Memory} {a k : Nat}, m.wf = true →
    (m.setBytes a bs).get k = if a ≤ k ∧ k < a + bs.length then (bs[k - a]?).getD 0 else m.get k := by
  induction bs with
  | nil => intro m a k _; rw [if_neg (by simp)]; rfl
  | cons b r ih =>
    intro m a k h
    simp only [Memory.setBytes]
    rw [ih (Memory.set_wf h), Memory.get_set h]
    simp only [List.length_cons]
    by_cases e : k = a
    · subst e
      rw [if_neg (by omega), if_pos rfl, if_pos (by omega)]
      simp
    · by_cases q : a + 1 ≤ k ∧ k < a + 1 + r.length
      · rw [if_pos q, if_pos (by omega), show k - a = (k - (a + 1)) + 1 by omega]
        simp
      · rw [if_neg q, if_neg e, if_neg (by omega)]

theorem Memory.filter_wfFrom (p : Host.Cell → Bool) {m : Memory} : ∀ {lo : Nat}, m.wfFrom lo = true →
    Memory.wfFrom lo (m.filter p) = true := by
  induction m with
  | nil => intro lo _; rfl
  | cons c r ih =>
    intro lo hw
    simp only [Memory.wfFrom, Bool.and_eq_true, decide_eq_true_eq] at hw
    obtain ⟨⟨h1, h2⟩, h3⟩ := hw
    simp only [List.filter_cons]
    split
    · simp only [Memory.wfFrom, Bool.and_eq_true, decide_eq_true_eq]
      exact ⟨⟨h1, h2⟩, ih h3⟩
    · exact Memory.wfFrom_mono (by omega) (ih h3)

/-- Dropping cells keeps the canonical form. -/
theorem Memory.filter_wf (p : Host.Cell → Bool) {m : Memory} (h : m.wf = true) : Memory.wf (m.filter p) = true :=
  Memory.filter_wfFrom p h

/-- Writing cells one after another keeps it. -/
theorem Memory.foldSet_wf (f : Host.Cell → Nat) (cs : List Host.Cell) : ∀ {m : Memory}, m.wf = true →
    Memory.wf (cs.foldl (fun m c => m.set (f c) c.2) m) = true := by
  induction cs with
  | nil => intro m h; exact h
  | cons c r ih => intro m h; exact ih (Memory.set_wf h)

theorem Memory.copyFrame_wf {m : Memory} {src dst : Nat} (h : m.wf = true) : (m.copyFrame src dst).wf = true :=
  Memory.foldSet_wf _ _ (Memory.filter_wf _ h)

theorem TraceUnit.put_wf {u : TraceUnit} {m : Memory} {w : Nat} (h : m.wf = true) : (u.put m w).2.wf = true := by
  unfold TraceUnit.put
  have q : ∀ (a : Nat) (bs : List Byte), (m.setBytes a bs).wf = true := fun a bs => Memory.setBytes_wf bs h
  have q2 : ∀ (a c : Nat) (bs cs : List Byte), ((m.setBytes a bs).setBytes c cs).wf = true :=
    fun a c bs cs => Memory.setBytes_wf cs (q a bs)
  by_cases h1 : u.size ≤ u.used
  · rw [if_pos h1]; exact h
  · rw [if_neg h1]
    generalize toBytes 16 w = b1
    dsimp only
    generalize toBytes 16 _ = b2
    by_cases h2 : (u.dropped != 0) = true
    · rw [if_pos h2]
      by_cases h3 : u.size ≤ u.used + 1
      · rw [if_pos h3]; exact q _ _
      · rw [if_neg h3]; exact q2 _ _ _ _
    · rw [if_neg h2]; exact q _ _

/-- The reset memory is canonical. -/
theorem State.reset_mem_wf : State.reset.dev.mem.wf = true := rfl

theorem Memory.getBytes_length (m : Memory) : ∀ (n a : Nat), (m.getBytes a n).length = n := by
  intro n
  induction n with
  | zero => intro a; rfl
  | succ n ih => intro a; simp [Memory.getBytes, ih]

theorem Memory.getBytes_get (m : Memory) : ∀ (n a i : Nat), i < n → (m.getBytes a n)[i]? = some (m.get (a + i)) := by
  intro n
  induction n with
  | zero => intro a i h; omega
  | succ n ih =>
    intro a i h
    cases i with
    | zero => simp [Memory.getBytes]
    | succ i => simp only [Memory.getBytes, List.getElem?_cons_succ, ih (a + 1) i (by omega)]; congr 2; omega

theorem toBytes_length : ∀ (n w : Nat), (toBytes n w).length = n := by
  intro n
  induction n with
  | zero => intro w; rfl
  | succ n ih => intro w; simp [toBytes, ih]

/-- Bytes of a number read back as the number. -/
theorem ofBytes_toBytes : ∀ (n w : Nat), ofBytes (toBytes n w) = w % 256 ^ n := by
  intro n
  induction n with
  | zero => intro w; simp [toBytes, ofBytes, Nat.mod_one]
  | succ n ih =>
    intro w
    simp only [toBytes, ofBytes, ih, BitVec.toNat_ofNat, Nat.reducePow]
    rw [Nat.pow_succ', Nat.mod_mul]

end Sys2Proof.Machine
end

