-- ==== Sys2Proof/Laws/Run.lean ====
section
/-! SUPPORT. Running the meanings of the longer instructions: one equation per primitive of `M`, and what `runM` makes of
each way to end. -/

namespace Sys2Proof.Machine

theorem run_pure {α : Type} (a : α) (s : State) : (pure a : M α).run s = (.ok a, s) := rfl

theorem run_bind {α β : Type} (m : M α) (f : α → M β) (s : State) :
    (m >>= f).run s = match m.run s with
      | (.ok a, t) => (f a).run t
      | (.error e, t) => (.error e, t) := by
  show (ExceptT.bind m f) s = _
  unfold ExceptT.bind ExceptT.mk ExceptT.run
  show (StateT.bind m (ExceptT.bindCont f)) s = _
  unfold StateT.bind
  rcases h : m s with ⟨r, t⟩
  cases r <;> rfl

/-- A bind whose first part goes on. -/
theorem run_bind_ok {α β : Type} {m : M α} {f : α → M β} {s t : State} {a : α} (h : m.run s = (.ok a, t)) :
    (m >>= f).run s = (f a).run t := by rw [run_bind, h]

/-- A bind whose first part stops. -/
theorem run_bind_error {α β : Type} {m : M α} {f : α → M β} {s t : State} {e : Stop} (h : m.run s = (.error e, t)) :
    (m >>= f).run s = (.error e, t) := by rw [run_bind, h]

theorem run_throw {α : Type} (e : Stop) (s : State) : (throw e : M α).run s = (.error e, s) := rfl
theorem run_trap {α : Type} (c : Cause) (el : Nat) (a : Word) (s : State) :
    (trap c el a : M α).run s = (.error (.trap c el a), s) := rfl
theorem run_wait {α : Type} (k : WaitKind) (on : BitVec 52) (s : State) :
    (wait k on : M α).run s = (.error (.wait k on), s) := rfl
theorem run_trapInstr {α : Type} (c : Cause) (s : State) :
    (trapInstr c : M α).run s = (.error (.trap c 0 (s.h.pc.setWidth 64)), s) := rfl
theorem run_get (s : State) : (get : M State).run s = (.ok s, s) := rfl
theorem run_set (s t : State) : (set t : M Unit).run s = (.ok (), t) := rfl
theorem run_modify (f : State → State) (s : State) : (modify f : M Unit).run s = (.ok (), f s) := rfl
theorem run_getH (s : State) : getH.run s = (.ok s.h, s) := rfl
theorem run_modH (f : Hart → Hart) (s : State) : (modH f).run s = (.ok (), { s with h := f s.h }) := rfl
theorem run_getD (s : State) : getD.run s = (.ok s.dev, s) := rfl
theorem run_modD (f : Device → Device) (s : State) : (modD f).run s = (.ok (), { s with dev := f s.dev }) := rfl
theorem run_getTime (s : State) : getTime.run s = (.ok s.time, s) := rfl
theorem run_readX (r : Reg) (s : State) : (readX r).run s = (.ok (s.getX r), s) := rfl
theorem run_writeX (r : Reg) (v : Word) (s : State) : (writeX r v).run s = (.ok (), s.setX r v) := rfl
theorem run_retire (n : Nat) (s : State) : (retire n).run s = (.ok (), s.advance n) := rfl
theorem run_retireV (s : State) : retireV.run s = (.ok (), { s with h := s.h.retireV }) := rfl
theorem run_freshTick (s : State) : freshTick.run s = (.ok s.tick, { s with tick := s.tick + 1 }) := rfl

theorem run_ite {α : Type} (c : Prop) [Decidable c] (m n : M α) (s : State) :
    (if c then m else n).run s = if c then m.run s else n.run s := by split <;> rfl

/-- `runM` of a meaning that completes. -/
theorem runM_ok {m : M Unit} {s t : State} (h : m.run s = (.ok (), t)) : runM m s = .next t := by simp [runM, h]

/-- `runM` of a meaning that traps. -/
theorem runM_trap {m : M Unit} {s t : State} {c : Cause} {e : Nat} {a : Word} (h : m.run s = (.error (.trap c e a), t)) :
    runM m s = .next (takeTrap c e a t) := by simp [runM, h]

/-- `runM` of a meaning that waits. -/
theorem runM_wait {m : M Unit} {s t : State} {k : WaitKind} {on : BitVec 52} (h : m.run s = (.error (.wait k on), t)) :
    runM m s = .next { t with h := t.h.stalled k on t.cycle } := by simp [runM, h]

/-- `runM` never refuses, and faults only where the meaning throws a fault. -/
theorem runM_next_or_fault (m : M Unit) (s : State) :
    (∃ t, runM m s = .next t) ∨ ∃ f t, m.run s = (.error (.fault f), t) ∧ runM m s = .fault f := by
  rcases h : m.run s with ⟨r, t⟩
  simp only [runM, h]
  rcases r with e | u
  · cases e <;> simp
  · simp

end Sys2Proof.Machine
end

