-- ==== Sys2Proof/Laws/State.lean ====
section
/-! SUPPORT. What the named updates of a hart leave in each field, so that no proof unfolds a record update. -/

namespace Sys2Proof.Machine

/-! ### Scalar registers -/

theorem Hart.getX_zero (h : Hart) : h.getX 0 = 0 := by simp [Hart.getX]

/-- A register read after a write: x0 stays zero (R11). -/
theorem Hart.getX_setX (h : Hart) (d r : Reg) (v : Word) :
    (h.setX d v).getX r = if r = d ∧ r ≠ 0 then v else h.getX r := by
  by_cases hr : r = 0
  · subst hr; simp [Hart.getX]
  · by_cases hd : d = 0
    · subst hd; simp [Hart.setX, hr]
    · by_cases e : r = d
      · subst e; simp [Hart.getX, Hart.setX, hr]
      · have e2 : d.val ≠ r.val := fun q => e (Fin.ext q.symm)
        simp [Hart.getX, Hart.setX, hr, hd, e, Vector.getElem_set, e2]

theorem Hart.setX_eq (h : Hart) (d : Reg) (v : Word) : h.setX d v = { h with x := (h.setX d v).x } := by
  unfold Hart.setX; split <;> rfl

@[simp] theorem Hart.setX_pc (h : Hart) (d : Reg) (v : Word) : (h.setX d v).pc = h.pc := by unfold Hart.setX; split <;> rfl
@[simp] theorem Hart.setX_pcHi (h : Hart) (d : Reg) (v : Word) : (h.setX d v).pcHi = h.pcHi := by unfold Hart.setX; split <;> rfl
@[simp] theorem Hart.setX_lp (h : Hart) (d : Reg) (v : Word) : (h.setX d v).lp = h.lp := by unfold Hart.setX; split <;> rfl
@[simp] theorem Hart.setX_v (h : Hart) (d : Reg) (v : Word) : (h.setX d v).v = h.v := by unfold Hart.setX; split <;> rfl
@[simp] theorem Hart.setX_vc (h : Hart) (d : Reg) (v : Word) : (h.setX d v).vc = h.vc := by unfold Hart.setX; split <;> rfl
@[simp] theorem Hart.setX_f (h : Hart) (d : Reg) (v : Word) : (h.setX d v).f = h.f := by unfold Hart.setX; split <;> rfl
@[simp] theorem Hart.setX_t (h : Hart) (d : Reg) (v : Word) : (h.setX d v).t = h.t := by unfold Hart.setX; split <;> rfl
@[simp] theorem Hart.setX_hr (h : Hart) (d : Reg) (v : Word) : (h.setX d v).hr = h.hr := by unfold Hart.setX; split <;> rfl
@[simp] theorem Hart.setX_sy (h : Hart) (d : Reg) (v : Word) : (h.setX d v).sy = h.sy := by unfold Hart.setX; split <;> rfl
@[simp] theorem Hart.setX_ms (h : Hart) (d : Reg) (v : Word) : (h.setX d v).ms = h.ms := by unfold Hart.setX; split <;> rfl
@[simp] theorem Hart.setX_db (h : Hart) (d : Reg) (v : Word) : (h.setX d v).db = h.db := by unfold Hart.setX; split <;> rfl
@[simp] theorem Hart.setX_id (h : Hart) (d : Reg) (v : Word) : (h.setX d v).id = h.id := by unfold Hart.setX; split <;> rfl
@[simp] theorem Hart.setX_status (h : Hart) (d : Reg) (v : Word) : (h.setX d v).status = h.status := by
  unfold Hart.setX; split <;> rfl
@[simp] theorem Hart.setX_handler (h : Hart) (d : Reg) (v : Word) : (h.setX d v).handler = h.handler := by
  unfold Hart.setX; split <;> rfl

@[simp] theorem State.setX_h (s : State) (d : Reg) (v : Word) : (s.setX d v).h = s.h.setX d v := rfl
@[simp] theorem State.setX_others (s : State) (d : Reg) (v : Word) : (s.setX d v).others = s.others := rfl
@[simp] theorem State.setX_dev (s : State) (d : Reg) (v : Word) : (s.setX d v).dev = s.dev := rfl
@[simp] theorem State.setX_inbox (s : State) (d : Reg) (v : Word) : (s.setX d v).inbox = s.inbox := rfl
@[simp] theorem State.setX_oracle (s : State) (d : Reg) (v : Word) : (s.setX d v).oracle = s.oracle := rfl
@[simp] theorem State.setX_pace (s : State) (d : Reg) (v : Word) : (s.setX d v).pace = s.pace := rfl
@[simp] theorem State.setX_cycle (s : State) (d : Reg) (v : Word) : (s.setX d v).cycle = s.cycle := rfl
@[simp] theorem State.setX_tick (s : State) (d : Reg) (v : Word) : (s.setX d v).tick = s.tick := rfl
@[simp] theorem State.setX_issue (s : State) (d : Reg) (v : Word) : (s.setX d v).issue = s.issue := rfl
@[simp] theorem State.setX_retry (s : State) (d : Reg) (v : Word) : (s.setX d v).retry = s.retry := rfl

theorem State.getX_setX (s : State) (d r : Reg) (v : Word) :
    (s.setX d v).getX r = if r = d ∧ r ≠ 0 then v else s.getX r := Hart.getX_setX s.h d r v

/-! ### The program counter -/

@[simp] theorem State.setPc_pc (s : State) (p : BitVec 52) : (s.setPc p).h.pc = p := rfl
@[simp] theorem State.setPc_x (s : State) (p : BitVec 52) : (s.setPc p).h.x = s.h.x := rfl
@[simp] theorem State.setPc_v (s : State) (p : BitVec 52) : (s.setPc p).h.v = s.h.v := rfl
@[simp] theorem State.setPc_hr (s : State) (p : BitVec 52) : (s.setPc p).h.hr = s.h.hr := rfl
@[simp] theorem State.setPc_dev (s : State) (p : BitVec 52) : (s.setPc p).dev = s.dev := rfl

theorem Hart.goTo_addr (h : Hart) (t : Word) : (h.goTo t).pcHi ++ (h.goTo t).pc = t := by
  apply BitVec.eq_of_toNat_eq
  simp only [Hart.goTo, BitVec.toNat_append, BitVec.toNat_setWidth, BitVec.extractLsb'_toNat]
  rw [← Nat.shiftLeft_add_eq_or_of_lt (Nat.mod_lt _ (by positivity)), Nat.shiftLeft_eq, Nat.shiftRight_eq_div_pow]
  have := t.isLt
  omega

/-- Outside an active loop an instruction goes on at the address after it (R25). -/
theorem Hart.advance_idle (h : Hart) (n : Nat) (hl : h.lp.active = false) :
    h.advance n = h.goTo (h.pc.setWidth 64 + BitVec.ofNat 64 n) := by
  simp [Hart.advance, Hart.inLoop, hl]

/-- Going on changes the program counter and the loop state only. -/
theorem Hart.advance_eq (h : Hart) (n : Nat) : h.advance n =
    { h with pc := (h.advance n).pc, pcHi := (h.advance n).pcHi, lp := (h.advance n).lp } := by
  unfold Hart.advance Hart.goTo
  dsimp only
  split
  · split
    · rfl
    · split <;> rfl
  · rfl

@[simp] theorem Hart.advance_x (h : Hart) (n : Nat) : (h.advance n).x = h.x := by rw [Hart.advance_eq]
@[simp] theorem Hart.advance_v (h : Hart) (n : Nat) : (h.advance n).v = h.v := by rw [Hart.advance_eq]
@[simp] theorem Hart.advance_vc (h : Hart) (n : Nat) : (h.advance n).vc = h.vc := by rw [Hart.advance_eq]
@[simp] theorem Hart.advance_f (h : Hart) (n : Nat) : (h.advance n).f = h.f := by rw [Hart.advance_eq]
@[simp] theorem Hart.advance_t (h : Hart) (n : Nat) : (h.advance n).t = h.t := by rw [Hart.advance_eq]
@[simp] theorem Hart.advance_hr (h : Hart) (n : Nat) : (h.advance n).hr = h.hr := by rw [Hart.advance_eq]
@[simp] theorem Hart.advance_sy (h : Hart) (n : Nat) : (h.advance n).sy = h.sy := by rw [Hart.advance_eq]
@[simp] theorem Hart.advance_ms (h : Hart) (n : Nat) : (h.advance n).ms = h.ms := by rw [Hart.advance_eq]
@[simp] theorem Hart.advance_db (h : Hart) (n : Nat) : (h.advance n).db = h.db := by rw [Hart.advance_eq]
@[simp] theorem Hart.advance_id (h : Hart) (n : Nat) : (h.advance n).id = h.id := by rw [Hart.advance_eq]
@[simp] theorem Hart.advance_status (h : Hart) (n : Nat) : (h.advance n).status = h.status := by rw [Hart.advance_eq]
@[simp] theorem Hart.advance_handler (h : Hart) (n : Nat) : (h.advance n).handler = h.handler := by rw [Hart.advance_eq]

theorem Hart.advance_getX (h : Hart) (n : Nat) (r : Reg) : (h.advance n).getX r = h.getX r := by
  simp only [Hart.getX, Hart.advance_x]

/-- A transfer changes the program counter and whether the loop is active. -/
theorem Hart.jump_eq (h : Hart) (t : Word) :
    h.jump t = { h with pc := (h.jump t).pc, pcHi := (h.jump t).pcHi, lp := { h.lp with active := (h.jump t).lp.active } } := rfl

theorem Hart.jump_addr (h : Hart) (t : Word) : (h.jump t).pcHi ++ (h.jump t).pc = t := Hart.goTo_addr _ t

/-! ### The end of an instruction -/

/-- All that a scalar instruction with a register result does. -/
theorem State.result_spec (s : State) (d : Reg) (v : Word) (n : Nat) :
    (∀ r, (s.result d v n).getX r = if r = d ∧ r ≠ 0 then v else s.getX r) ∧
    s.result d v n = { s with h := { s.h with
      x := (s.result d v n).h.x
      pc := (s.result d v n).h.pc
      pcHi := (s.result d v n).h.pcHi
      lp := (s.result d v n).h.lp } } := by
  constructor
  · intro r
    simp only [State.result, State.advance, State.getX, Hart.advance_getX]
    exact Hart.getX_setX s.h d r v
  · simp only [State.result, State.advance, State.setX]
    rw [Hart.advance_eq, Hart.setX_eq]

theorem State.result_idle (s : State) (d : Reg) (v : Word) (n : Nat) (hl : s.h.lp.active = false) :
    (s.result d v n).h.pcHi ++ (s.result d v n).h.pc = s.h.pc.setWidth 64 + BitVec.ofNat 64 n ∧
    (s.result d v n).h.lp = s.h.lp := by
  simp only [State.result, State.advance, State.setX]
  rw [Hart.advance_idle _ _ (by simpa using hl), Hart.goTo_addr]
  simp [Hart.goTo]

end Sys2Proof.Machine
end

