-- ==== Sys2Proof/Tests/Slice0.lean ====
section
/-! SUPPORT. Tests: the words of the spec, a refused word for every reason, an ill-formed term for every static limit,
single steps with results from the spec, and a state that meets the hypotheses of every statement. -/

namespace Sys2Proof.Tests

set_option Elab.async false

open Sys2Proof Sys2Proof.Machine Sys2Proof.Claims

/-! ### Words of the spec

Every word below is written in the spec beside its assembly form; a prefixed instruction is (body << 32) OR prefix. -/

/-- R30, R32, R282, R283, R284. -/
theorem test_scalar_words : ∀ p ∈ ([
    (0x0006528E, .slli 5 5 3), (0x0086528E, .srli 5 5 3), (0x000E6294, .add 5 6 7), (0x000E5294, .add 5 5 7),
    (0xFFFA5282, .addi 5 5 (-3)), (0xE941, .cAddi 5 (-3)), (0x012E0702, .addi 14 0 151), (0x003A0782, .addi 15 0 29),
    (0xD04A5894, .addsh 17 5 5 1), (0xD09A0714, .addsh 14 0 13 2), (0x901A6314, .minZ 6 6 13), (0x0002D710, .lui 14 13 1),
    (0x020E6296, .fadd 5 6 7 1), (0xA20E6296, .fmadd 5 6 7 8 0), (0x8A006596, .fcvtfZ 11 6 1),
    (0x0305, .cLi 12 0), (0x330D, .cAdd 12 6), (0x350D, .cAdd 20 6), (0x354D, .cAdd 21 6)] : List (Nat × Instr)),
    decode p.1 = .ok p.2 := by decide +kernel

/-- R286, R288, R289, R290, R291. -/
theorem test_memory_and_control_words : ∀ p ∈ ([
    (0x0006AA18, .ld64 20 10 0), (0x0086AA98, .ld64 21 10 8), (0x0106A498, .ld64 9 10 16), (0x0186A61A, .st64 12 10 24),
    (0x0004F318, .ld32Z 6 15 0), (0x1B00911C, .ld64Aq 2 9 3), (0x3C00909C, .st64Rl 1 9 4),
    (0x5B06811C, .amoadd 2 8 3 false false 3 true), (0x5B02AE1C, .amoadd 28 10 1 false false 3 true),
    (0x000050A4, .jalr 1 5 0), (0x99F5, .cBeqz 7 (-13)), (0x00049026, .sloop 9 2),
    (0x0046001E, .fence 3)] : List (Nat × Instr)), decode p.1 = .ok p.2 := by decide +kernel

/-- R30, R61, R62, R296, R297, R328-R331, R355. -/
theorem test_system_words : ∀ p ∈ ([
    (0x0400029E, .mfsr 5 0), (0x0500731E, .mtsr 6 7), (0x0400961E, .mfsr 12 9), (0x0500801E, .mtsr 0 8),
    (0x0410229E, .mfsr 5 0x102), (0x0510129E, .mtsr 5 0x101), (0x0800629E, .wait 5 6), (0x0840701E, .sev 7),
    (0x0C00A01E, .trap 10), (0x4000901E, .tinvVa 9), (0x4040401E, .tinvAsid 4), (0x4102629E, .tprobe 5 6 1),
    (0x6000001E, .tret), (0x6040029E, .hxchg 5), (0x6080009E, .ecmrd 1), (0x60C0101E, .ecmwr 1), (0x6100601E, .tmset 6),
    (0x8040629E, .spread 5 6), (0x80C0701E, .tmark 7)] : List (Nat × Instr)), decode p.1 = .ok p.2 := by decide +kernel

/-- R138, R145, R146. -/
theorem test_vector_memory_words : ∀ p ∈ ([
    (0x000E62A8, .vsetvl 5 6 7 false false), (0x408062A8, .vsetvli 5 6 false 1 0 false false),
    (0xA0801028, .vsetvlm 0 1 1 0 false true), (0xC116A3A8, .vsetfl 7 10 11 2 0 false false),
    (0x554002A8, .vsetvli 5 0 true 2 1 true false), (0x0402622A, .vldseg 4 6 1 false false 0 false),
    (0x110E642A, .vlds 8 6 7 false false 2 false), (0x1A52642E, .vstxu 8 6 9 true false 3),
    (0x0000642C, .vldf 8 6 false false 0 false), (0x2800942E, .vst 8 9 false false 5),
    (0x0600682A, .vldr 16 6), (0x070060AA, .vldm 1 6)] : List (Nat × Instr)), decode p.1 = .ok p.2 := by decide +kernel

/-- R164. -/
theorem test_vector_integer_words : ∀ p ∈ ([
    (0x00310430, .vadd ⟨8, 16, 24, false, false, false⟩), (0x01C70430, .vadd ⟨8, 16, 3, true, true, true⟩),
    (0x4F0A1230, .vwmaccZ ⟨4, 1, 5, false, false, true⟩), (0x190C4532, .vnclipZ ⟨10, 4, 6, false, false, true⟩),
    (0x20188232, .vdot4S ⟨4, 8, 12, false, false, false⟩), (0x610E8130, .vcrc ⟨2, 8, 7, false, false, true⟩),
    (0x010680BA, .vmseq ⟨1, 8, 3, false, false, true⟩), (0x300012BA, .vcpop 5 1 false), (0x3200133A, .vfirst 6 1 false),
    (0x24008638, .vsortkdZ 12 8 false), (0x03274838, .vslidedown 16 20 19 false false)] : List (Nat × Instr)),
    decode p.1 = .ok p.2 := by decide +kernel

/-- R192. -/
theorem test_vector_float_words : ∀ p ∈ ([
    (0x80310434, .vfadd ⟨8, 16, 24, false, false, false⟩ true), (0x170C8234, .vfmacc ⟨4, 8, 6, false, false, true⟩ false),
    (0x241280B4, .vmflt ⟨1, 8, 9, false, false, false⟩ false), (0xC2188234, .vfdot2 ⟨4, 8, 12, false, false, false⟩ true),
    (0x00068136, .vfredsum ⟨2, 8, 3, false, false, false⟩ false), (0x03008136, .vfredsumO ⟨2, 8, 0, false, false, true⟩ false),
    (0x100082B6, .vfargmax 5 8 false false), (0x0000943C, .vexp2 8 9 false false false), (0x1200023C, .vrandf 4 false false false),
    (0x190E833C, .vcdfsel 6 8 7 false false), (0x1A01483C, .vsmmerge 16 20 false)] : List (Nat × Instr)),
    decode p.1 = .ok p.2 := by decide +kernel

/-- R242, R76, R90, R112, R125, R312. -/
theorem test_unit_words : ∀ p ∈ ([
    (0x010002BE, .vstrip 5 0 0 true 0), (0x028062BE, .vstrip 5 6 2 false 1), (0x0800003E, .vstrend),
    (0x100E133E, .vexitI 6 1 7), (0x1800133E, .vexitB 6 1 0),
    (0x0256A440, .kvxl 8 10 11 9), (0x0A56A0C0, .kvxlm 1 10 11 9), (0x1316A840, .kvapp 16 10 11 12), (0x1818A040, .kvcommit 10 12),
    (0x2018A040, .kvtrunc 10 12), (0x2B16A2C0, .kvevict 5 10 11 12), (0x3016A2C0, .kvalloc 5 10 11),
    (0x3B16A2C0, .kvfree 5 10 11 12), (0x4014D2C0, .kvfork 5 13 10),
    (0x000002C6, .crget 5), (0x080142C6, .park 5 20), (0x100142C6, .crfree 5 20), (0x1A928046, .promote 8 9 10),
    (0x200082C6, .tqry 5 8), (0x280142C6, .crqry 5 20),
    (0x000E62C4, .bmode 5 6 7), (0x080E62C4, .bslot 5 6 7), (0x100062C4, .bqry 5 6), (0x18006444, .fpush 8 6),
    (0x200064C4, .fpop 9 6), (0x28128044, .lpfL2 8 9), (0x30128044, .lpfL1 8 9), (0x38128044, .lclean 8 9),
    (0x40128044, .linv 8 9), (0x48128044, .discard 8 9),
    (0x020E62C2, .cpyLin 5 6 7 8 0), (0x2A0E62C2, .cpy2d 5 6 7 8 1), (0x520E62C2, .cpyGath 5 6 7 8 2),
    (0x7A0E62C2, .cpyConv 5 6 7 8 3), (0x820E62C2, .cpyFill 5 6 7 8 0), (0xA0005042, .cpywait 5 0), (0xC00002C2, .cpyqry 5 0),
    (0x000E62C8, .launch 5 6 7), (0x08000048, .gbar), (0x10128048, .signal 8 9), (0x1A9282C8, .waitge 5 8 9 10),
    (0x20000048, .hend)] : List (Nat × Instr)), decode p.1 = .ok p.2 := by decide +kernel

/-- R33, R34, R217, R229. -/
theorem test_prefixed_words : ∀ p ∈ ([
    (0x3456239800000487, .ld64Pxi 7 2 0x12345),
    (0x000000CA0000000B, .tzero 1), (0x0810024A0000000B, .tgl 0 8 0 false), (0x081202CA8002000B, .tgl 1 9 32 true),
    (0x100A404A0000000B, .top 0 0 1 false false false false false false),
    (0x100A40CA0024000B, .top 1 0 1 false false true false false true),
    (0x100A514A00A0000B, .top 2 1 1 true false true false false false),
    (0x1800024A2300000B, .trd 4 0 8 true true), (0x201801CA0000000B, .twr 3 12 0 false),
    (0x000050CC0000000F, .tfinit 1 5), (0x0810004C0000000F, .tfupd 0 8), (0x1010004C0000000F, .tfdnd 0 8 0),
    (0x1010004C0100000F, .tfdnd 0 8 16), (0x181004CC0000000F, .tfsolv 9 0 8 0), (0x181004CC0004000F, .tfsolv 9 0 8 1),
    (0x2000224C0C00000F, .tfrd 4 2 3), (0x2808014C0C00000F, .tfwr 2 4 3), (0x3000904C0000000F, .tfsave 0 9),
    (0x3800904C0000000F, .tfload 0 9)] : List (Nat × Instr)), decode p.1 = .ok p.2 := by decide +kernel

/-- R31, R33, R36, R38, R40: a word for every reason to be no instruction: majors 0x00 and 0x27, the all-ones word, OP with
fn5 0x1B, `add` with rc = 1, `ld64.aq` with SCOPE 5, PXI before an SHI body, a TILE body alone. -/
theorem test_refused_words : ∀ p ∈ ([
    (0x00000000, .reservedMajor), (0x0000004E, .reservedMajor), (0x000E6294FFFFFFFF, .prefixKind), (0xD80E6294, .unassigned),
    (0x004E6294, .reservedBits), (0x1D00911C, .limit), (0x0006528E00000007, .pairing), (0x000000CA, .bareBody)]
    : List (Nat × DecodeErr)), decode p.1 = .error p.2 := by decide +kernel

/-- R24: three bytes hold no 32-bit word. -/
theorem test_truncated_bytes : decodeBytes [0x94, 0x62, 0x0E] = .error .truncated := by decide +kernel

/-- The host's numbering of a word's bits is the decoder's (R24). -/
theorem test_table_word : decodeTableWord 64 0x2000224C0C00000F = some (.tfrd 4 2 3) := by decide +kernel

/-! ### Ill-formed terms, one for every static limit -/

theorem test_wf_scope : Instr.wf (.ld64Aq 2 9 5) = false ∧ Instr.wf (.st8Rl 2 9 5) = false ∧
    Instr.wf (.amoadd 1 2 3 false false 5 false) = false ∧ Instr.wf (.fence 5) = false := by decide +kernel
theorem test_wf_compressed : Instr.wf (.cAddi 0 1) = false ∧ Instr.wf (.cLdsp 0 1) = false ∧ Instr.wf (.cJr 0) = false := by
  decide +kernel
theorem test_wf_vset : Instr.wf (.vsetvli 1 2 false 4 0 false false) = false ∧ Instr.wf (.vsetvli 1 2 true 0 0 false false) = false ∧
    Instr.wf (.vsetvlm 1 2 4 0 false false) = false ∧ Instr.wf (.vsetfl 1 2 3 4 0 false false) = false := by decide +kernel
theorem test_wf_vector_memory : Instr.wf (.vld 1 2 false false 4 true) = false ∧ Instr.wf (.vlds 1 2 3 false false 4 false) = false ∧
    Instr.wf (.vld 0 2 true false 0 false) = false ∧ Instr.wf (.vldfxo 0 2 3 true false 0 false) = false ∧
    Instr.wf (.vstxu 1 2 3 false false 5) = false := by decide +kernel
theorem test_wf_strip : Instr.wf (.vstrip 1 2 0 true 0) = false ∧ Instr.wf (.vexitI 3 1 3) = false ∧
    Instr.wf (.vexitB 3 1 3) = false := by decide +kernel
theorem test_wf_pairs : Instr.wf (.cpy2d 1 2 3 0 0) = false ∧ Instr.wf (.cpyGath 1 2 3 31 0) = false ∧
    Instr.wf (.cpyConv 1 2 3 0 0) = false := by decide +kernel
theorem test_wf_tiles : Instr.wf (.top 0 0 1 false false false true false false) = false ∧
    Instr.wf (.top 0 0 1 true false true false true false) = false ∧ Instr.wf (.tfsolv 1 0 2 3) = false := by decide +kernel
theorem test_wf_good : Instr.wf (.vstxu 8 6 9 true false 3) = true ∧ Instr.wf (.vexitB 6 1 0) = true ∧
    Instr.wf (.vsetvli 5 0 true 2 1 true false) = true := by decide +kernel

/-! ### Small states

One running hart of four lanes whose page table maps the first 256 MiB onto themselves, by the first of the four entries
of a page of 1 GiB. -/

/-- `f` of that hart, on its device. -/
def here (f : Hart → Hart := id) : State :=
  { State.reset with
    h := f { status := .running, pc := 0x200000, hr := { ptroot := 0x8000 } }
    dev := { State.reset.dev with
      mem := [(0x8000, 0x01), (0x8002, 0x01), (0x10000, 0xDE), (0x10001, 0x02)]
      extents := [{ src := 0, idx := 0, base := 0, last := 0xFFFF, w := true, y := true, v := true }] } }

/-- Scalar registers set. -/
def withX (l : List (Reg × Word)) (h : Hart) : Hart := { h with x := l.foldl (fun x p => x.set p.1 p.2) h.x }

/-- Bytes put into memory. -/
def holding (a : Nat) (bs : List Byte) (s : State) : State := { s with dev := { s.dev with mem := s.dev.mem.setBytes a bs } }

/-- The device changed. -/
def withDev (f : Device → Device) (s : State) : State := { s with dev := f s.dev }

/-- A handler at 0x300000. -/
def handled (h : Hart) : Hart := { h with hr := { h.hr with hvec := 0x300000 } }

/-- In handler mode. -/
def handling (h : Hart) : Hart := { handled h with handler := true }

/-- A VTYPE and a VL. -/
def vectors (ew grp : BitVec 2) (vl : Nat) (h : Hart) : Hart :=
  { h with vc := { h.vc with ew := ew, grp := grp, vl := vl, vlmaxr := 4096 / (8 * 2 ^ ew.toNat) * 2 ^ grp.toNat } }

/-- A strip opened at PC - 4 with its share. -/
def stripped (h : Hart) : Hart :=
  { h with ms := { h.ms with strip := some {
      cp := { x := h.x, vl := h.vc.vl, ew := h.vc.ew, grp := h.vc.grp, vlmaxr := h.vc.vlmaxr, vff := 0, vpx := 0, fflags := 0
              fidx := Vector.replicate 5 0, fepc := 0, fxsat := false, rctrl := 0, rctrh := 0, loopActive := false
              loopCount := some 0, addr := 0x1FFFFC }
      share := 2048 } } }

/-- The leaf of the page and the place of an address in it. -/
def page : Leaf := ⟨0x2DE, 0x10000⟩
def placeOf (s : State) (va : Nat) : Loc := (page.loc s s.h.ctx va).2

theorem test_page_is_mapped : ∀ k ∈ [Kind.fetch, .load, .store, .amo],
    (here.walk 0 0x8000 0x400 = .ok page ∧ allowed page.pte k = true ∧ here.dev.grants 0 0x400 k = true) := by decide +kernel

/-- What a run that ends well leaves. -/
theorem ran {α : Type} {r : Except Stop α × State} {p : α → State → Bool}
    (h : (match r with | (.ok a, u) => p a u | _ => false) = true) : ∃ a u, r = (.ok a, u) ∧ p a u = true := by
  obtain ⟨e | a, u⟩ := r
  · cases h
  · exact ⟨a, u, rfl, h⟩

/-- A hart that has nothing bound, looked for or queued is in step. -/
theorem step_of {s : State} (h : s.h.ms.bound = [] ∧ s.h.ms.look = none ∧ s.h.ms.early = [] ∧ s.h.ownStores = []) : InStep s :=
  ⟨h.1, h.2.1, h.2.2.1, by rw [h.2.2.2]; simp⟩
theorem fresh_of {s : State} (h : s.h.ms.strip = none ∧ (s.h.sy.fromElem = none ∧ s.h.vc.ecm = 0) ∧
    (s.h.vc.vl ≤ s.h.vlmax ∧ s.h.vlmax ≤ 16384) ∧ s.oracle = [] ∧ s.h.ms.watchHit = none ∧
    (s.h.ms.bound = [] ∧ s.h.ms.look = none ∧ s.h.ms.early = [] ∧ s.h.ownStores = [])) : Fresh s :=
  ⟨h.1, h.2.1, h.2.2.1, h.2.2.2.1, h.2.2.2.2.1, step_of h.2.2.2.2.2⟩

/-! ### Every statement's hypotheses are met -/

theorem meets_ScalarIntegerResults : ∃ v w, ScalarInt (here (withX [(5, 7)])) (.addi 5 5 (-3)) 5 v 4 ∧
    ScalarInt (here (withX [(5, 7)])) (.addi 0 5 (-3)) 0 w 4 := ⟨_, _, .addi 5 5 (-3), .addi 0 5 (-3)⟩

theorem meets_Branches : ∃ c d, Branch (here (withX [(7, 0)])) (.cBeqz 7 (-13)) c d 2 ∧ c := ⟨_, _, .cBeqz 7 (-13), by decide +kernel⟩
theorem meets_Branches_not : ∃ c d, Branch (here (withX [(7, 1)])) (.cBeqz 7 (-13)) c d 2 ∧ ¬c :=
  ⟨_, _, .cBeqz 7 (-13), by decide +kernel⟩
theorem meets_Jumps : ∃ v, Jump (here (withX [(5, 0x200101)])) (.jalr 1 5 (-1)) 1 v 4 ∧ v.toNat % 2 = 0 :=
  ⟨_, .jalr 1 5 (-1), by decide +kernel⟩
theorem meets_OddTargetTraps : ((here (withX [(5, 0x200100)])).getX 5 + (1 : BitVec 15).signExtend 64).toNat % 2 = 1 ∧
    ((here (withX [(5, 0x200100)])).getX 5 + (1 : BitVec 41).signExtend 64).toNat % 2 = 1 ∧
    ((here (withX [(5, 1)])).getX 5).toNat % 2 = 1 := by decide +kernel

/-- A body of one `add` behind the SLOOP. -/
def looping : State := holding 0x200004 [0x94, 0x62, 0x0E, 0x00] (here (withX [(9, 3)]))
theorem meets_SloopStartsLoop : ¬InBody looping looping.h.pc.toNat ∧ looping.h.ms.strip = none ∧
    ∃ (b : List (BitVec 52 × Nat) × Nat) (u : State), (captureFrom 1 0x200004).run looping = (.ok b, u) ∧
      decide (b = ([(0x200004, 0x000E6294)], 0x200008) ∧ u.getX 9 = 3) = true :=
  ⟨fun h => absurd h.1 (by decide), by decide +kernel, ran (by decide +kernel)⟩

theorem meets_ScalarFloatResults : ∃ fl v, ScalarFloat (here (withX [(6, -1), (7, -1)])) (.fadd 5 6 7 1) 5 fl v ∧
    fl &&& (here (withX [(6, -1), (7, -1)])).h.f.fen = 0 := ⟨_, _, .fadd 5 6 7 1 .rne _ (by decide +kernel) rfl, by decide +kernel⟩

/-- A hart that traps on every class. -/
def trapping (h : Hart) : Hart := { h with f := { h.f with fen := 31 } }
theorem meets_ScalarFloatTraps : ∃ fl v, ScalarFloat (here (trapping ∘ withX [(6, 0xFFFFFFFF7F7FFFFF)])) (.fadd 5 6 6 1) 5 fl v ∧
    fl &&& (here (trapping ∘ withX [(6, 0xFFFFFFFF7F7FFFFF)])).h.f.fen ≠ 0 :=
  ⟨_, _, .fadd 5 6 6 1 .rne _ (by decide +kernel) rfl, by decide +kernel⟩

/-! Loads and stores. -/

/-- x9 = 0x400. -/
def at400 : State := here (withX [(9, 0x400), (3, 0x80)])
theorem mapped400 (k : Kind) : Mapped at400 0x400 k page (placeOf at400 0x400) := by
  cases k <;> constructor <;> decide +kernel
theorem home400 : AtHome at400 (placeOf at400 0x400) 8 := by constructor <;> decide +kernel
theorem meets_ScalarLoads : ∃ va, ScalarLoad at400 (.ld64 5 9 0) 5 va 8 false 4 ∧ va.toNat % 8 = 0 ∧
    Mapped at400 va.toNat .load page (placeOf at400 0x400) ∧ AtHome at400 (placeOf at400 0x400) 8 ∧
    Unwatched at400 .load va.toNat 8 := ⟨_, .ld64 5 9 0, by decide +kernel, mapped400 .load, home400, by decide +kernel, step_of (by decide +kernel)⟩
theorem meets_ScalarStores : ∃ va, ScalarStore at400 (.st64 5 9 0) 5 va 8 4 ∧ va.toNat % 8 = 0 ∧
    Mapped at400 va.toNat .store page (placeOf at400 0x400) ∧ regionOf (placeOf at400 0x400).key = .hbm ∧
    Unwatched at400 .store va.toNat 8 ∧ at400.h.ms.strip = none :=
  ⟨_, .st64 5 9 0, by decide +kernel, mapped400 .store, by decide +kernel, ⟨by decide +kernel, step_of (by decide +kernel)⟩, rfl⟩
/-- The same hart in a strip. -/
def strip400 : State := here (stripped ∘ withX [(9, 0x400), (3, 0x80)])
theorem meets_StripHoldsStores : ∃ va st, ScalarStore strip400 (.st64 5 9 0) 5 va 8 4 ∧ va.toNat % 8 = 0 ∧
    Mapped strip400 va.toNat .store page (placeOf strip400 0x400) ∧ regionOf (placeOf strip400 0x400).key = .hbm ∧
    Unwatched strip400 .store va.toNat 8 ∧ strip400.h.ms.strip = some st ∧
    (st.held.map fun x => x.part.bytes.length).sum + 8 ≤ st.share :=
  ⟨_, _, .st64 5 9 0, by decide +kernel, by constructor <;> decide +kernel, by decide +kernel, ⟨by decide +kernel, step_of (by decide +kernel)⟩, rfl,
    by decide +kernel⟩
theorem meets_AcquireLoads : OrderedLoad (.ld64Aq 2 9 3) 2 9 8 ∧ (at400.getX 9).toNat % 8 = 0 ∧
    Mapped at400 (at400.getX 9).toNat .load page (placeOf at400 0x400) ∧ AtHome at400 (placeOf at400 0x400) 8 ∧
    Unwatched at400 .load (at400.getX 9).toNat 8 ∧ at400.h.ms.strip = none :=
  ⟨.ld64Aq 2 9 3, by decide +kernel, mapped400 .load, home400, ⟨by decide +kernel, step_of (by decide +kernel)⟩, rfl⟩
theorem meets_ReleaseStores : OrderedStore (.st64Rl 2 9 3) 2 9 8 3 ∧ (at400.getX 9).toNat % 8 = 0 ∧
    Mapped at400 (at400.getX 9).toNat .store page (placeOf at400 0x400) ∧ regionOf (placeOf at400 0x400).key = .hbm ∧
    Unwatched at400 .store (at400.getX 9).toNat 8 ∧ at400.h.ms.strip = none ∧ at400.h.ms.fabFail = none ∧ at400.h.ms.tierFail = none :=
  ⟨.st64Rl 2 9 3, by decide +kernel, mapped400 .store, by decide +kernel, ⟨by decide +kernel, step_of (by decide +kernel)⟩, rfl, rfl, rfl⟩
theorem meets_OrderedMisaligned : ∃ f, OrderedLoad (.ld64Aq 2 3 3) 2 3 8 ∧ OrderedStore (.st16Rl 2 3 3) 2 3 2 3 ∧
    Atomic (here (withX [(3, 0x401)])) (.amoadd 2 3 4 false false 3 false) 2 3 4 false false 3 false f ∧
    (∀ n ∈ [2, 4, 8], ((here (withX [(3, 0x401)])).getX 3).toNat % n ≠ 0) ∧ (here (withX [(3, 0x401)])).h.ms.strip = none :=
  ⟨_, .ld64Aq 2 3 3, .st16Rl 2 3 3, .add 2 3 4 false false false 3, by decide +kernel, rfl⟩
theorem meets_Atomics : ∃ f, Atomic at400 (.amocas 2 9 3 true true 3 true) 2 9 3 true true 3 true f ∧ (at400.getX 9).toNat % 8 = 0 ∧
    Mapped at400 (at400.getX 9).toNat .amo page (placeOf at400 0x400) ∧ AtHome at400 (placeOf at400 0x400) 8 ∧
    Unwatched at400 .amo (at400.getX 9).toNat 8 ∧ at400.h.ms.strip = none ∧ at400.h.ms.storeQ = [] ∧ at400.h.ms.fabricQ = [] ∧
    at400.h.ms.fabFail = none ∧ at400.h.ms.tierFail = none ∧ at400.dev.mem.wf = true :=
  ⟨_, .cas 2 9 3 true true true 3, by decide +kernel, mapped400 .amo, home400, ⟨by decide +kernel, step_of (by decide +kernel)⟩, rfl, rfl, rfl, rfl, rfl,
    by decide +kernel⟩
theorem meets_FenceCompletes : at400.h.ms.strip = none ∧ at400.h.ms.storeQ = [] ∧ at400.h.ms.fabricQ = [] ∧
    at400.h.ms.fabFail = none ∧ at400.h.ms.tierFail = none := ⟨rfl, rfl, rfl, rfl, rfl⟩

/-! Steps. -/

/-- What a step that goes on leaves. -/
theorem went {r : Host.Outcome State Fault Refusal} {p : State → Bool}
    (h : (match r with | .next t => p t | _ => false) = true) : ∃ t, r = .next t ∧ p t = true := by
  cases r with
  | next t => exact ⟨t, rfl, h⟩
  | fault => cases h
  | refused => cases h

theorem meets_StepKeepsForm : Safety.Inv at400 ∧ ∃ t, step at400 = .next t ∧ decide (t.h.pc = 0x200000) = true :=
  ⟨by unfold Safety.Inv; decide +kernel, went (by decide +kernel)⟩

/-- `add x5, x6, x7` at the PC, and an all-zero word there. -/
def adding : State := holding 0x200000 [0x94, 0x62, 0x0E, 0x00] (here (withX [(6, 3), (7, 4)]))
theorem fetches (s : State) (h : s = adding ∨ s = here id) : ∀ j, 2 * j < 4 → ∃ l loc,
    Mapped s (s.h.pc.toNat + 2 * j) .fetch l loc ∧ loc.key = 0x200000 + 2 * j ∧
    (regionOf loc.key = .hbm ∨ regionOf loc.key = .cxl) ∧ s.dev.bad loc.key 2 = false := by
  intro j hj
  refine ⟨page, placeOf s (0x200000 + 2 * j), ?_, ?_, ?_, ?_⟩
  · obtain h | h := h <;> subst h <;> obtain h | h : j = 0 ∨ j = 1 := by omega
    all_goals subst h; constructor <;> decide +kernel
  all_goals obtain h | h := h <;> subst h <;> obtain h | h : j = 0 ∨ j = 1 := by omega
  all_goals subst h; decide +kernel
theorem undisturbed (s : State) (h : s = adding ∨ s = here id) : Undisturbed s := by
  obtain h | h := h <;> subst h <;> constructor <;> decide +kernel
theorem meets_StepRunsInstruction : Undisturbed adding ∧ CodeAt adding 0x200000 4 0x000E6294 ∧
    decode 0x000E6294 = .ok (.add 5 6 7) :=
  ⟨undisturbed _ (.inl rfl), ⟨fetches _ (.inl rfl), by decide +kernel, by decide +kernel⟩, by decide +kernel⟩
theorem meets_UndefinedWordIsIllegal : Undisturbed (here id) ∧ CodeAt (here id) 0x200000 4 0 ∧
    decode 0 = .error .reservedMajor :=
  ⟨undisturbed _ (.inr rfl), ⟨fetches _ (.inr rfl), by decide +kernel, by decide +kernel⟩, by decide +kernel⟩

/-! Traps and the handler. -/

theorem meets_TrapEntry : (here handled).h.hr.hvec ≠ 0 ∧ (here handled).h.ms.strip = none ∧ (here handled).traceUnit = none ∧
    AtInstruction .illegal ∧ AtElement .fptrap ∧ ¬AtInstruction .syscall ∧ ¬AtElement .syscall :=
  ⟨by decide +kernel, rfl, by decide +kernel, .illegal, .fptrap, nofun, nofun⟩
/-- A gang of one hart. -/
def gang0 : Gang where
  id := 0
  die := 0
  size := 1
  tenant := 0
  ctr := 0
  inc := 0
  prio := 0
  queue := 0
  index := 0
  headTime := 0
  grantNo := 0
def ganged (s : State) : State := { s with dev := { s.dev with gangs := [gang0] } }
theorem meets_NoHandlerEndsGang : ∃ g, (ganged (here id)).h.hr.hvec = 0 ∧ (ganged (here id)).h.ms.strip = none ∧
    (ganged (here id)).h.status = .running ∧
    (ganged (here id)).dev.gangs.find? (fun x => x.id == (ganged (here id)).h.id.gang.toNat) = some g ∧
    (((ganged (here id)).dev.tenant 0).rtail + 16 - ((ganged (here id)).dev.tenant 0).rhead) % 16 < 15 :=
  ⟨gang0, rfl, rfl, rfl, by decide +kernel, by decide +kernel⟩
theorem meets_HandlerReturn : ∃ vm vl, (here handling).h.handler = true ∧ (here handling).h.ms.strip = none ∧
    (here handling).traceUnit = none ∧ ((here handling).h.hr.hstat.vlost = true → (here handling).h.hr.hstat.pm = true) ∧
    (here handling).h.hr.evtype.toNat % 8 ≤ 3 ∧ (here handling).h.hr.evtype &&& 0xFFFFFFFFFFFFFF48 = 0 ∧
    vm = min (1024 * (here handling).h.id.lanes) (1024 * 2 ^ (here handling).h.vc.cap.toNat) /
      (8 * 2 ^ ((here handling).h.hr.evtype.toNat % 4)) * 2 ^ ((here handling).h.hr.evtype.toNat / 16 % 4) ∧
    vl = min (here handling).h.hr.evl.toNat vm :=
  ⟨_, _, rfl, rfl, by decide +kernel, by decide +kernel, by decide +kernel, by decide +kernel, rfl, rfl⟩
/-- The handler with a lost bank, and with an EVTYPE of width code 4. -/
def lost (h : Hart) : Hart := { handling h with hr := { (handling h).hr with hstat := { vlost := true } } }
def oddType (h : Hart) : Hart := { handling h with hr := { (handling h).hr with evtype := 4 } }
theorem meets_HandlerReturnFails : ((here lost).h.handler = true ∧ (here lost).h.ms.strip = none ∧
      (here lost).h.hr.hstat.vlost = true ∧ (here lost).h.hr.hstat.pm = false ∧ (here lost).h.status ≠ .vacant) ∧
    ((here oddType).h.handler = true ∧ (here oddType).h.ms.strip = none ∧ (here oddType).h.hr.hstat.vlost = false ∧
      3 < (here oddType).h.hr.evtype.toNat % 8) := by decide +kernel
theorem meets_SystemRegisterReads : ∃ v w, SysValue (here handling) 0x10F v ∧ (here handling).h.ms.strip = none ∧
    (here handling).h.handler = true ∧ SysValue (here id) 0x02E w ∧ (here id).h.handler = false :=
  ⟨_, _, .watch 3, rfl, rfl, .kvstash, rfl⟩
theorem meets_SystemRegisterWrites : ∃ h g, SysWrite (here handling) 0xFF 0x10C h ∧ (here handling).h.ms.strip = none ∧
    (here handling).h.handler = true ∧ SysWrite (here id) 0xFF 0x02E g := ⟨_, _, .watch 0, rfl, rfl, .readOnly _ (by decide)⟩
theorem meets_SystemChecks : (∀ v, ¬SysValue (here id) 0x02F v) ∧ HandlerOnly .tret ∧ (here id).h.handler = false ∧
    (here (stripped ∘ handling)).h.handler = true ∧ (here (stripped ∘ handling)).h.ms.strip.isSome = true := by
  refine ⟨fun v h => ?_, .tret, rfl, rfl, rfl⟩
  generalize hn : (0x02F : Nat) = n at h
  cases h <;> omega
theorem meets_HandlerForms : ∃ u, HandlerForm (here handling) (.hxchg 5) u ∧ (here handling).h.handler = true ∧
    (here handling).h.ms.strip = none := ⟨_, .hxchg 5, rfl, rfl⟩
theorem meets_HandlerForms_tsync : ∃ u, HandlerForm (here handling) .tsync u := ⟨_, .tsync (by decide +kernel) rfl⟩
theorem meets_TaskForms : ∃ u, TaskForm at400 (.tprobe 5 9 1) u ∧ at400.h.ms.strip = none :=
  ⟨_, .tprobe 5 9 1 .store page _ (by decide) (mapped400 .store), rfl⟩
theorem meets_TrapAndBreak : at400.h.ms.strip = none ∧ at400.h.db.ebrk = false ∧ at400.h.sy.evt = false ∧
    ¬(at400.getX 0 ≠ 0 ∧ (at400.getX 0).toNat ≤ at400.time) ∧
    (here fun h => { h with db := { h.db with ebrk := true } }).h.db.ebrk = true := by decide +kernel

/-! Vectors. -/

theorem meets_ElementAccess : (16 : Nat) ∈ [1, 8, 16, 32, 64] ∧ (here id).h.id.lanes ∈ [4, 8, 16] ∧
    31 + 63 / ((here id).h.vlen / 16) < 32 ∧ 30 + 127 / ((here id).h.vlen / 16) < 32 := by decide +kernel

/-- e32, g2, VL = 5, v0 = 0b10110, VSTART = 1. -/
def vec (h : Hart) : Hart :=
  { vectors 2 1 5 h with
    v := h.v.set 0 { val := 0x16 }
    vc := { (vectors 2 1 5 h).vc with vstart := 1 } }
theorem meets_VectorIntegers : ∃ bad f, IntElement (here vec) (.vadd ⟨8, 16, 24, true, true, false⟩) bad 8 2 true true 32 f ∧ ¬bad :=
  ⟨_, _, .op _ _ _ (.vadd _), by decide +kernel⟩
theorem meets_VectorIntegers_bad : ∃ bad f, IntElement (here vec) (.vwaddS ⟨8, 10, 24, false, true, false⟩) bad 8 4 false true 64 f ∧
    bad := ⟨_, _, .wide _ _ _ (.vwaddS _), by unfold Meet; decide +kernel⟩
theorem meets_VectorIntegers_strip : ∃ h, Claimed (here (stripped ∘ vec)).h 8 2 h :=
  ⟨_, _, rfl, by decide +kernel, rfl⟩
theorem meets_VectorMasks : ∃ bad f, MaskElement (here vec) (.vmseq ⟨0, 8, 3, true, false, true⟩) bad 0 1 true false 1 f ∧ ¬bad :=
  ⟨_, _, .compare _ _ _ (.vmseq _) fun _ _ _ => inferInstance, by decide +kernel⟩
theorem meets_VectorScalars : ∃ bad v, VectorScalar (here vec) (.vcpop 5 1 true) bad 5 v ∧ bad :=
  ⟨_, _, .vcpop 5 1 true, by decide +kernel⟩
theorem meets_VectorScalars_good : ∃ bad v, VectorScalar (here vec) (.vmvXs 5 8) bad 5 v ∧ ¬bad := ⟨_, _, .vmvXs 5 8, by decide +kernel⟩
theorem meets_VectorPermutes : ∃ bad b, VectorWhole (here vec) (.vmvSx 8 5 false true) bad 8 b ∧ ¬bad :=
  ⟨_, _, .vmvSx 8 5 false true, by decide +kernel⟩
/-- Keys 0 in every element: the order kept is a sorted one. -/
theorem meets_VectorPermutes_sort : ∃ bad b, VectorWhole (here (vectors 2 1 5)) (.vsortkdZ 8 16 false) bad 8 b ∧ ¬bad :=
  ⟨_, _, .vsortk _ 8 16 false false true (List.range 5) rfl (List.Perm.refl _) (by decide +kernel), by unfold Meet; decide +kernel⟩

/-! Floats. -/

theorem meets_VectorFloats : ∃ bad F, FloatElement (here vec) (.vfadd ⟨8, 16, 24, true, true, false⟩ false) bad 8 2 true true 32 F ∧
    (here vec).h.f.fen = 0 ∧ ¬bad :=
  ⟨_, _, .op _ _ false _ f32 .rne (.vfadd _ _) (.f32 _ (by decide +kernel)) (by decide +kernel), rfl, by
    unfold BadGroups; decide +kernel⟩
/-- Signalling NaNs in v16, element 1 on: VSTART = 1 is the element that traps. -/
def signalling (h : Hart) : Hart :=
  { trapping (vec h) with v := (vec h).v.set 16 { val := 0x7F8000017F8000017F80000100000000 } }
theorem meets_VectorFloatTraps : ∃ (bad : Prop) (F : Nat → Hart → FRes) (h : Hart) (g : Nat → Hart),
    FloatElement (here signalling) (.vmflt ⟨1, 16, 24, true, false, false⟩ false) bad 1 1 true false 1 F ∧ ¬bad ∧
    Claimed (here signalling).h 1 1 h ∧ g 1 = h ∧ h.vc.vstart.toNat = 1 ∧ 1 < h.vc.vl ∧ on (g 1) true 1 = true ∧
    (F 1 (g 1)).fl &&& h.f.fen ≠ 0 :=
  ⟨_, _, (here signalling).h, fun _ => (here signalling).h,
    .compare _ _ false false _ f32 (.vmflt _ _) (.f32 _ (by decide +kernel)), by decide +kernel, rfl, rfl, by decide +kernel,
    by decide +kernel, by decide +kernel, by decide +kernel⟩
theorem meets_VectorFloatIllegal : Rounds (.vfredsum ⟨2, 8, 3, false, false, false⟩ false) ∧
    rmOf (here fun h => { h with f := { h.f with frm := 5 } }).h.f.frm = none ∧ (here id).h.ew = 8 ∧
    ∃ v b q C, FloatCompare (.vmflt v b) v b q C :=
  ⟨.vfredsum _ _, by decide +kernel, by decide +kernel, ⟨1, 2, 3, false, false, false⟩, false, _, _, .vmflt _ _⟩
theorem meets_RandomElements : ¬((here vec).h.ew = 8 ∨ (8 : Reg).val % (here vec).h.grp ≠ 0) ∧
    Claimed (here vec).h 8 (here vec).h.grp (here vec).h := ⟨by decide +kernel, rfl⟩
theorem meets_VectorReductions : ∃ bad xs fls,
    VectorReduce (here (vectors 2 0 5)) (.vfredsumO ⟨2, 8, 0, false, false, true⟩ false) bad 2 false xs fls ∧
    ¬Traps (here (vectors 2 0 5)).h fls ∧ ¬(bad ∨ (here (vectors 2 0 5)).h.vc.vstart ≠ 0) :=
  ⟨_, _, _, .sumO _ false f32 .rne _ (.f32 _ (by decide +kernel)) (by decide +kernel) rfl, by unfold Traps; decide +kernel, by
    unfold BadGroups; decide +kernel⟩
/-- A signalling NaN among the elements, and every class enabled. -/
def nanFirst (h : Hart) : Hart := { trapping (vectors 2 0 1 h) with v := h.v.set 8 { val := 0x7F800001 } }
theorem meets_VectorReductions_trap : ∃ bad xs fls,
    VectorReduce (here nanFirst) (.vfredsumO ⟨2, 8, 0, false, false, true⟩ false) bad 2 false xs fls ∧ ¬bad ∧
    (here nanFirst).h.vc.vstart = 0 ∧ Claimed (here nanFirst).h 2 1 (here nanFirst).h ∧ Traps (here nanFirst).h fls :=
  ⟨_, _, _, .sumO _ false f32 .rne _ (.f32 _ (by decide +kernel)) (by decide +kernel) rfl, by
    unfold BadGroups; decide +kernel, rfl, rfl, by unfold Traps; decide +kernel⟩
theorem meets_VectorScans : ∃ xs, FloatScan (here (vectors 2 0 5)) (.vfscan ⟨2, 8, 0, false, false, true⟩ false) 2 8 0 false false true xs ∧
    ¬Traps (here (vectors 2 0 5)).h (xs.map fun x => (x.1, x.2.fl)) ∧ ¬BadScan (here (vectors 2 0 5)).h 2 8 0 true false :=
  ⟨_, .tree ⟨2, 8, 0, false, false, true⟩ false f32 .rne _ (.f32 _ (by decide +kernel)) (by decide +kernel) rfl, by
    unfold Traps; decide +kernel, by unfold BadScan Meet; decide +kernel⟩
theorem meets_VectorFloatScalars : ∃ v fl, FloatScalar (here (vectors 2 0 5)) (.vcdfsel 6 8 7 false false) 6 8 v fl ∧
    (8 : Reg).val % (here (vectors 2 0 5)).h.grp = 0 ∧ (here (vectors 2 0 5)).h.vc.vstart = 0 ∧
    fl &&& (here (vectors 2 0 5)).h.f.fen = 0 :=
  ⟨_, _, .cdf 6 8 7 false false f32 .rne _ (.f32 _ (by decide +kernel)) (by decide +kernel) rfl, by decide +kernel, rfl, by
    decide +kernel⟩
theorem meets_RoundingKeepsCodes : bf16 ∈ [f64, f32, f16, bf16] ∧ 0xFF80 < 2 ^ bf16.width ∧ (bf16.value 0xFF80).isNan = false ∧
    f64 ∈ [f64, f32, f16, bf16] ∧ (f64.value 1).isNan = false := by decide +kernel

/-! Vector lengths. -/

theorem capTaken (f : Hart → Hart) (h : ∀ r : Reg, ∀ k : Nat, ((here f).h.v[r]).val.getLsbD k =
    (decide (k < vlenUnder (here f).h (here f).h.hr.vlcap) && ((here f).h.v[r]).val.getLsbD k))
    (ht : ∀ r : Reg, ((here f).h.v[r]).vt = min ((here f).h.v[r]).vt (vlenUnder (here f).h (here f).h.hr.vlcap / 8))
    (hc : (here f).h.vc.cap = (here f).h.hr.vlcap) : CapTaken (here f).h (here f).h :=
  ⟨h, ht, fun _ => ⟨rfl, rfl⟩, by rw [← hc]⟩
theorem zeros (r : Reg) : ((here id).h.v[r]) = {} := by revert r; decide +kernel
theorem capTaken_here : CapTaken (here id).h (here id).h :=
  capTaken id (fun r k => by rw [zeros r]; simp) (fun r => by rw [zeros r]; simp) rfl
theorem meets_VsetLengths : ∃ ew len, Vset (here id) (here id).h (.vsetvli 5 6 false 1 0 false true) 5 ew 0 false true len ∧
    CapTaken (here id).h (here id).h ∧ (here id).h.ms.strip = none ∧ (here id).oracle = [] :=
  ⟨_, _, .vsetvli 5 6 1 0 false true, capTaken_here, rfl, rfl⟩
theorem meets_VsetInStrip : ∃ ew len, Vset strip400 strip400.h (.vsetvli 5 6 true 1 0 true false) 5 ew 0 true false len ∧
    strip400.h.ms.strip.isSome = true := ⟨_, _, .vsetvliMax 5 6 1 0 true false, rfl⟩
theorem meets_VsetIllegal : ((here (withX [(7, 0x40)])).getX 7).toNat / 64 ≠ 0 ∧
    3 < ((here (withX [(7, 4)])).getX 7).toNat % 16 := by decide +kernel
/-- One row that ends where it starts: the entries at 0x400 and 0x404 are 0. -/
def rows : State := here (withX [(10, 0x400), (11, 1)])
theorem meets_VsetflPacksRows : CapTaken rows.h rows.h ∧ rows.h.ms.strip = none ∧ rows.oracle = [] ∧ (rows.getX 10).toNat % 4 = 0 ∧
    rows.h.id.lanes ∈ [4, 8, 16] ∧ (rows.getX 11).toNat = 1 ∧ Rows rows (rows.getX 10) (fun _ => 0) (min 1 128) ∧
    Packs (fun _ => 0) (min 1 128) 128 1 := by
  refine ⟨capTaken _ (fun r k => ?_) (fun r => ?_) rfl, rfl, rfl, by decide +kernel, by decide +kernel, by decide +kernel,
    fun j hj => ⟨page, placeOf rows (0x400 + 4 * j), ?_, ?_, ?_, ?_⟩, by unfold Packs; decide +kernel⟩
  · rw [show (here (withX [(10, 0x400), (11, 1)])).h.v[r] = {} from zeros r]; simp
  · rw [show (here (withX [(10, 0x400), (11, 1)])).h.v[r] = {} from zeros r]; simp
  all_goals obtain h | h : j = 0 ∨ j = 1 := by omega
  all_goals subst h
  iterate 2 · constructor <;> decide +kernel
  iterate 2 · constructor <;> decide +kernel
  iterate 2 · exact ⟨by decide +kernel, step_of (by decide +kernel)⟩
  iterate 2 · decide +kernel

/-! Vector memory accesses. -/

/-- e32, VL = 2, x9 = 0x400, x10 the last word of the page, x11 behind it; FMT1 holds 4-bit codes with scales per 32. -/
def mem32 : State := here fun h =>
  { withX [(9, 0x400), (10, 0x0FFFFFFC), (11, 0x10000000)] (vectors 2 0 2 h) with
    f := { h.f with fmt := (h.f.fmt.set 3 0x1401A1 |>.set 4 0x400 |>.set 5 0x480) } }
theorem fresh32 : Fresh mem32 := fresh_of (by decide +kernel)
theorem reads32 (va n : Nat) (h : (va, n) ∈ [(0x400, 4), (0x404, 4), (0x0FFFFFFC, 4), (0x400, 1), (0x480, 1)]) : ReadsAs mem32 va n 0 := by
  simp only [List.mem_cons, Prod.mk.injEq, List.not_mem_nil, or_false] at h
  refine ⟨?_, page, placeOf mem32 va, ?_, ?_, ?_, ?_⟩
  all_goals obtain ⟨h, h'⟩ | ⟨h, h'⟩ | ⟨h, h'⟩ | ⟨h, h'⟩ | ⟨h, h'⟩ := h <;> subst h <;> subst h'
  iterate 5 · decide +kernel
  iterate 5 · constructor <;> decide +kernel
  iterate 5 · constructor <;> decide +kernel
  all_goals decide +kernel
theorem stores32 (va n : Nat) (h : (va, n) ∈ [(0x400, 4), (0x404, 4), (0x400, 1), (0x480, 1)]) :
    StoresAt mem32 va n (placeOf mem32 va) := by
  simp only [List.mem_cons, Prod.mk.injEq, List.not_mem_nil, or_false] at h
  refine ⟨?_, ⟨page, ?_⟩, ?_, ?_⟩
  all_goals obtain ⟨h, h'⟩ | ⟨h, h'⟩ | ⟨h, h'⟩ | ⟨h, h'⟩ := h <;> subst h <;> subst h'
  iterate 4 · decide +kernel
  iterate 4 · constructor <;> decide +kernel
  all_goals decide +kernel
theorem vl32 : mem32.h.vc.vl = 2 := rfl
theorem meets_VectorLoads : ∃ legal addr, NativeLoad mem32 (.vld 8 9 true true 2 false) 8 1 true true 2 false false legal addr ∧ legal ∧
    LegalAccess mem32 8 1 2 false ∧ Fresh mem32 ∧
    ∀ k q, 0 ≤ k → k < 2 → q < 1 → ReadsAs mem32 (addr k q) (2 ^ 2) 0 := by
  refine ⟨_, _, .vld 8 9 true true 2 false (by decide), trivial, by unfold LegalAccess; decide +kernel, fresh32, fun k q _ hk _ => ?_⟩
  obtain h | h : k = 0 ∨ k = 1 := by omega
  all_goals subst h; exact reads32 _ _ (by decide +kernel)
theorem meets_FirstFaultLoads : ∃ legal addr, NativeLoad mem32 (.vldf 8 10 false true 2 false) 8 1 false true 2 false true legal addr ∧
    legal ∧ LegalAccess mem32 8 1 2 false ∧ Fresh mem32 ∧ on mem32.h false 1 = true ∧ 1 < mem32.h.vc.vl ∧
    ReadsAs mem32 (addr 0 0) (2 ^ 2) 0 ∧ addr 1 0 % 2 ^ 2 = 0 ∧ addr 1 0 < 2 ^ 52 ∧
    (∀ k q, 1 ≤ k → k < 2 → q < 1 → inWindow (addr k q) = false) ∧
    mem32.walk mem32.h.id.tenant mem32.h.hr.ptroot (addr 1 0) = .error (.cause .xlate) := by
  refine ⟨_, _, .vldf 8 10 false true 2 false (by decide), trivial, by unfold LegalAccess; decide +kernel, fresh32, rfl, by decide +kernel,
    reads32 _ _ (by decide +kernel), by decide +kernel, by decide +kernel, fun k q h1 h2 _ => ?_, by decide +kernel⟩
  obtain rfl : k = 1 := by omega
  decide +kernel
theorem meets_FirstFaultLoads_first : ∃ legal addr, NativeLoad mem32 (.vldf 8 11 false true 2 false) 8 1 false true 2 false true legal addr ∧
    legal ∧ on mem32.h false 0 = true ∧ addr 0 0 % 2 ^ 2 = 0 ∧
    (∀ k q, 0 ≤ k → k < 2 → q < 1 → inWindow (addr k q) = false) ∧
    mem32.walk mem32.h.id.tenant mem32.h.hr.ptroot (addr 0 0) = .error (.cause .xlate) := by
  refine ⟨_, _, .vldf 8 11 false true 2 false (by decide), trivial, rfl, by decide +kernel, fun k q _ h2 _ => ?_, by decide +kernel⟩
  obtain rfl | rfl : k = 0 ∨ k = 1 := by omega
  all_goals decide +kernel
theorem meets_VectorStores : ∃ legal addr, NativeStore mem32 (.vst 8 9 false false 2) 8 1 false 2 legal addr ∧ legal ∧
    LegalAccess mem32 8 1 2 false ∧ Fresh mem32 ∧
    ∀ k q, 0 ≤ k → k < 2 → q < 1 → StoresAt mem32 (addr k q) (2 ^ 2) (placeOf mem32 (0x400 + 4 * k)) := by
  refine ⟨_, _, .vst 8 9 false false 2 (by decide), trivial, by unfold LegalAccess; decide +kernel, fresh32, fun k q _ hk _ => ?_⟩
  obtain h | h : k = 0 ∨ k = 1 := by omega
  all_goals subst h; exact stores32 _ _ (by decide +kernel)

/-- The last byte of a register group, and the one mask byte of VL = 2. -/
def last : State := here fun h => { withX [(9, 0x400)] (vectors 0 0 2 h) with vc := { (vectors 0 0 2 h).vc with vstart := 127 } }
theorem meets_WholeRegisters : Fresh last ∧ (∀ q : Reg, (last.h.v[q]).err = []) ∧ last.h.id.lanes ∈ [4, 8, 16] ∧
    last.h.vlen * last.h.grp / 8 = 128 ∧ ReadsAs last 0x47F 1 0 ∧ StoresAt last 0x47F 1 (placeOf last 0x47F) := by
  refine ⟨fresh_of (by decide +kernel), by decide +kernel, by decide +kernel, by decide +kernel,
    ⟨by decide, page, placeOf last 0x47F, ?_, ?_, ?_, ?_⟩, ⟨by decide, ⟨page, ?_⟩, ?_, ?_⟩⟩
  · constructor <;> decide +kernel
  · constructor <;> decide +kernel
  · decide +kernel
  · decide +kernel
  · constructor <;> decide +kernel
  · decide +kernel
  · decide +kernel
theorem meets_WholeRegisters_mask : (∀ q : Reg, (mem32.h.v[q]).err = []) ∧ (mem32.h.vc.vl + 7) / 8 = 1 ∧ ReadsAs mem32 0x400 1 0 ∧
    StoresAt mem32 0x400 1 (placeOf mem32 0x400) :=
  ⟨by decide +kernel, by decide +kernel, reads32 _ _ (by decide), stores32 _ _ (by decide)⟩

def desc : Desc := ⟨0x1401A1, 0x400, 0x480⟩
theorem usable : UsableDesc mem32 1 9 desc := by constructor <;> decide +kernel
theorem meets_NarrowLoads : 4 ≤ (5 : BitVec 3).toNat ∧ mem32.h.ew = 32 ∧ (8 : Reg).val % mem32.h.grp = 0 ∧
    UsableDesc mem32 ((5 : BitVec 3).toNat - 4) 9 desc ∧ Fresh mem32 ∧ mem32.h.f.fen = 0 ∧
    ∀ e, 0 ≤ e → e < 2 → ReadsAs mem32 (containerAt mem32 9 desc e).1 1 0 ∧
      ScaleByte desc (tensorIndex mem32 9 desc e) (some 0x480) ∧ ReadsAs mem32 0x480 1 0 := by
  refine ⟨by decide, by decide +kernel, by decide +kernel, usable, fresh32, rfl, fun e _ he => ⟨?_, ?_, reads32 _ _ (by decide)⟩⟩
  all_goals obtain h | h : e = 0 ∨ e = 1 := by omega
  all_goals subst h
  · exact reads32 _ _ (by decide +kernel)
  · exact reads32 _ _ (by decide +kernel)
  · exact .block (by decide +kernel)
  · exact .block (by decide +kernel)
theorem meets_NarrowChecks : (⟨0, 0, 0⟩ : Desc).valid = false ∧ (here (vectors 2 0 2)).h.f.fmt[(3 : Fin 12)] = 0 ∧
    (here (vectors 2 0 2)).h.ew = 32 ∧ (8 : Reg).val % (here (vectors 2 0 2)).h.grp = 0 := by decide +kernel
theorem meets_NarrowChecks_valid : desc.valid = true ∧ (mem32.getX 0).toNat < desc.base.toNat ∧ bits desc.w 18 2 = 1 ∧
    mem32.h.ms.strip = none ∧ mem32.h.ew = 32 := by decide +kernel

/-- The same format without scales and without flags. -/
def plain : State := here fun h => { mem32.h with f := { h.f with fmt := (h.f.fmt.set 3 0x1A1 |>.set 4 0x400) } }
theorem meets_NarrowStores : UsableDesc plain 1 9 ⟨0x1A1, 0x400, 0⟩ ∧ Fresh plain ∧ (∀ q : Reg, (plain.h.v[q]).err = []) ∧
    bits 0x1A1 18 2 ≠ 1 ∧ bits 0x1A1 20 1 = 0 ∧ bits 0x1A1 22 2 ≠ 2 ∧
    ∀ e, 0 ≤ e → e < 2 → StoresAt plain (containerAt plain 9 ⟨0x1A1, 0x400, 0⟩ e).1 1 (placeOf plain 0x400) ∧
      ScaleByte ⟨0x1A1, 0x400, 0⟩ (tensorIndex plain 9 ⟨0x1A1, 0x400, 0⟩ e) none := by
  refine ⟨by constructor <;> decide +kernel, fresh_of (by decide +kernel), by decide +kernel, by decide +kernel,
    by decide +kernel, by decide +kernel, fun e _ he => ⟨⟨?_, ⟨page, ?_⟩, ?_, ?_⟩, .none' (by decide +kernel)⟩⟩
  all_goals obtain h | h : e = 0 ∨ e = 1 := by omega
  all_goals subst h
  iterate 2 · decide +kernel
  iterate 2 · constructor <;> decide +kernel
  all_goals decide +kernel

/-! Strips. -/

/-- The strip of `strip400` with a held store and a written register. -/
def strip2 : State := { strip400 with h := { strip400.h with ms := { strip400.h.ms with
  strip := strip400.h.ms.strip.map fun st => { st with arch := [(8, {})], held := [⟨some 1, { key := 0x400, bytes := [7], va := 0x400 }⟩] } } } }
theorem meets_StripOpens : ∃ cp, CapTaken (closed (here id).h) (here id).h ∧ StripUnwatched (here id).h ∧ Checkpointed (here id).h cp ∧
    (here id).traceUnit = none ∧ (here id).oracle = [] ∧ vlmaxUnder (here id).h (here id).h.hr.vlcap 0 0 = 128 :=
  ⟨{ x := (here id).h.x, vl := 0, ew := 0, grp := 0, vlmaxr := 128, vff := 0, vpx := 0, fflags := 0, fidx := Vector.replicate 5 0,
     fepc := 0, fxsat := false, rctrl := 0, rctrh := 0, loopActive := false, loopCount := some 0, addr := 0x200000 },
    capTaken_here, nofun, by constructor <;> decide +kernel, by decide +kernel, rfl, by decide +kernel⟩
theorem unwatched2 : StripUnwatched strip2.h := by
  intro st h
  injection h with h
  subst h
  rfl
theorem meets_StripCloses : StripUnwatched strip2.h ∧ strip2.traceUnit = none ∧ strip2.h.ms.strip.isSome = true ∧
    (here id).h.ms.strip = none := ⟨unwatched2, by decide +kernel, rfl, rfl⟩
/-- VL = 5, and bits 2 and 4 of v1. -/
def exiting (h : Hart) : Hart := { vectors 0 0 5 h with v := h.v.set 1 { val := 0x14 } }
theorem meets_StripExits : (here exiting).h.vc.vstart = 0 ∧ FirstExit ((here exiting).h.v[(1 : Reg)]).val (here exiting).h.vc.vl (some 2) ∧
    FirstExit ((here exiting).h.v[(2 : Reg)]).val (here exiting).h.vc.vl none ∧ (here vec).h.vc.vstart ≠ 0 := by
  refine ⟨rfl, ?_, ?_, by decide +kernel⟩ <;> unfold FirstExit <;> decide +kernel
theorem meets_TrapInStrip : ∃ st h, (here (handled ∘ stripped)).h.ms.strip = some st ∧ OneSlice st ∧
    Abandoned (here (handled ∘ stripped)).h st h ∧ (here (handled ∘ stripped)).h.hr.hvec ≠ 0 ∧
    (here (handled ∘ stripped)).traceUnit = none :=
  ⟨_, (here (handled ∘ stripped)).h.abandon, rfl, by unfold OneSlice; decide +kernel, by constructor <;> decide +kernel,
    by decide +kernel, by decide +kernel⟩

/-! Events of a hart. -/

/-- The named hart stands second. -/
def second (s : State) : State := { s with others := [s.h], h := {} }
theorem meets_HartEvents : (1 ≤ (second (here handled)).others.length) ∧ Alone (State.rotate^[1] (second (here handled))) := by
  refine ⟨by decide +kernel, ?_⟩
  unfold Alone
  decide +kernel
/-- An old store, a pending doorbell, a hold that has run out, a wait at its deadline, a stall of 1,024 cycles, a store that
is on its way to another device. -/
def busy : State := { here (fun h => { handled h with
  hr := { (handled h).hr with hstat := { dip := true } }
  sy := { h.sy with pendWait := some ⟨0x200000, false, 5, 6, 0, 0⟩ }
  db := { h.db with stall := some (.event, 0, 0) }
  x := h.x.set 6 1
  ms := { h.ms with
    hold := some 1024
    storeQ := [{ key := 0x400, bytes := [1, 2], va := 0x400 }]
    fabricQ := [(3, { key := 0x8018000000000, bytes := [1], va := 0x500 })] } }) with cycle := 1024 }
theorem meets_HartEvents_alone : Alone (State.rotate^[0] busy) := by unfold Alone; decide +kernel
theorem meets_HartEvents_doorbell : ∃ P, HartEvent busy .doorbellInterrupt P :=
  ⟨_, .interrupt _ 2 _ (.doorbell rfl (by unfold TimerDue; decide +kernel)) (by constructor <;> decide +kernel) rfl (.stays (.inl rfl))⟩
/-- A timer that is due inside a strip. -/
def timed (h : Hart) : Hart := { stripped (handled h) with hr := { (handled h).hr with tdl := 1 } }
def timedOut : State := { here timed with cycle := 3 }
theorem meets_HartEvents_strip : ∃ P, HartEvent timedOut .timerInterrupt P :=
  ⟨_, .interruptInStrip _ 1 _ timedOut.h.abandon (.timer (by unfold TimerDue; decide +kernel)) (by constructor <;> decide +kernel) rfl
    (by unfold OneSlice; decide +kernel) (by constructor <;> decide +kernel)⟩
theorem meets_HartEvents_hold : ∃ P, HartEvent busy .holdExpiry P := ⟨_, .holdExpiry 1024 rfl (by decide +kernel)⟩
theorem meets_HartEvents_wait : ∃ P, HartEvent busy .waitDeadline P :=
  ⟨_, .waitDeadline 5 6 0 0 rfl rfl (by decide +kernel) (by decide +kernel) rfl⟩
theorem meets_HartEvents_drain : ∃ P, HartEvent busy .drain P :=
  ⟨_, .drain _ [] rfl (by decide +kernel) (by decide +kernel) rfl (by decide +kernel) (by decide +kernel) rfl (by decide +kernel)
    (by decide +kernel)⟩
theorem meets_HartEvents_arrive : ∃ P, HartEvent busy (fun g k => .arrive g k 3) P :=
  ⟨_, .arriveFails 3 _ _ [] [] rfl nofun (by decide +kernel) (.inl ⟨by decide +kernel, rfl⟩) rfl⟩
theorem meets_HartEvents_stall : ∃ P, HartEvent busy .stallCharge P :=
  ⟨_, .stallCharge .event 9 0 0 1024 rfl .event (by decide +kernel) (by decide +kernel) (by decide +kernel)⟩
/-- `ld64 x5, 0(x9)` and `discard x9, x8` at the PC, as the step that looks ahead has read them. -/
def binding : State := { holding 0x200000 [0x98, 0x92, 0x06, 0x00] (here (withX [(9, 0x400), (8, 128)])) with
  issue := [(0x00069298, .ld64 5 9 0)] }
noncomputable def discarding : State := { holding 0x200000 [0x44, 0x90, 0x10, 0x48] (here (withX [(9, 0x400), (8, 128)])) with
  issue := [(0x48109044, .discard 9 8)] }
theorem meets_HartEvents_bind : ∃ P, HartEvent binding (fun g r => .bind g r ⟨[0x200000], 0⟩) P :=
  ⟨_, .bind (.ld64 5 9 0) 5 _ 8 false 4 page (placeOf binding 0x400) (by constructor <;> decide +kernel) (by decide +kernel)
    (.ld64 5 9 0) (by decide +kernel) (by constructor <;> decide +kernel) (by constructor <;> decide +kernel)⟩
theorem meets_HartEvents_early : ∃ P, HartEvent discarding (fun g r => .early g r [0x200000]) P :=
  ⟨_, .early 9 8 page (placeOf discarding 0x400) (by constructor <;> decide +kernel) (by decide +kernel) (by decide +kernel)
    (by decide +kernel) (by decide +kernel) (by constructor <;> decide +kernel) (by constructor <;> decide +kernel)⟩

/-! Events of the device, the debug module, the host. -/

/-- DBGOPEN, a halted hart of die 0, and a traced one. -/
def debugged : State := { here (fun h => { stripped h with db := { h.db with halted := true } }) with dev := { (here id).dev with
  hosts := { dbgopen := true } } }
def unstripped : State := { debugged with h := { debugged.h with ms := {} } }
theorem meets_DeviceEvents : ∃ P, DeviceEvent (here id) (.doorbellWrite .esmen 0) P := by
  classical
  exact ⟨_, .doorbell .esmen 0 (fun h =>
    if h.id.hartid.toNat = 0 ∧ (h.status = .running ∨ h.status = .stopped ∨ h.status = .saved) ∧ MayRing .esmen h.id.tenant then
      { h with hr := { h.hr with hstat := { h.hr.hstat with dip := true } } } else h) (by decide) rfl (.inr (.inl rfl)) (fun _ hh => if_pos hh) (fun _ hh => if_neg hh)⟩
theorem meets_DeviceEvents_error : ∃ P, DeviceEvent (here id) (.uncorrectableError (.bytes 0x400 1)) P := ⟨_, .bytesError 0x400 1 (by decide)⟩
/-- Frame 3 holds a 64 KiB page whose leaf stands at 0x20000. -/
def framed : State := holding 0x20000 [0xDE, 0x00, 0x03] (here id)
theorem meets_DeviceEvents_frame : ∃ P, DeviceEvent framed (.hbmFrameRetirement 3 4 [0x20000]) P :=
  ⟨_, .retireFrame 3 4 0x20000 (by decide) (by decide) (by decide +kernel) (by decide +kernel) (by decide +kernel) (by decide) (by decide)
    (by decide +kernel)⟩
theorem meets_DeviceEvents_shut : ∃ P, DeviceEvent (here id) (.haltRequest 0 0) P := ⟨_, .shut _ rfl (.inl ⟨0, 0, rfl⟩)⟩
/-- A trace buffer of four records at 0x1000 that traces hart 0. -/
def traced : State := { here id with
  cycle := 8
  dev := { (here id).dev with trace := [{ die := 0, base := 0x1000, size := 4, harts := [0], sper := 3 }] } }
theorem meets_DeviceEvents_sample : ∃ P, DeviceEvent traced (.traceSample 0) P :=
  ⟨_, .sample { die := 0, base := 0x1000, size := 4, harts := [0], sper := 3 } 0 _ rfl rfl rfl (by decide +kernel) (by decide +kernel)
    (by decide +kernel) (.inl ⟨nofun, rfl⟩) rfl (by decide +kernel)⟩
theorem selected (s : State) (h : s = debugged ∨ s = unstripped) : Claims.Selected (State.rotate^[0] s) 0 0 ∧ Alone (State.rotate^[0] s) ∧
    s.dev.hosts.dbgopen = true := by
  unfold Claims.Selected Alone
  obtain h | h := h <;> subst h <;> decide +kernel
theorem meets_DebugCommands_read : Claims.Selected (State.rotate^[0] debugged) 0 0 ∧
    ∃ P, DebugCommand debugged 0 0 (.accessRegister 0 0 0xC0FF false 0) P :=
  ⟨(selected _ (.inl rfl)).1, _, .vectorBeyond 0xC0FF false 0 rfl (by decide) (by decide +kernel)⟩
theorem meets_DebugCommands_word : ∃ P, DebugCommand debugged 0 0 (.accessRegister 0 0 (0xC000 + 256 * 31 + 15) false 0) P :=
  ⟨_, .read _ _ 0 _ rfl (.vector 31 15 (by decide +kernel))⟩
theorem meets_DebugCommands_write : ∃ P, DebugCommand debugged 0 0 (.accessRegister 0 0 (0x1000 + 31) true 9) P :=
  ⟨_, .write _ 9 _ rfl (.x 31 (by decide))⟩
theorem meets_DebugCommands_store : ∃ P, DebugCommand unstripped 0 0 (.accessMemory 0 0 true true 3 0x400 9) P :=
  ⟨_, .store 3 0x400 9 page (placeOf unstripped 0x400) rfl (by decide) (by decide) (by constructor <;> decide +kernel)
    (by decide +kernel) rfl (step_of (by decide +kernel))⟩
theorem meets_DebugCommands_running : ∃ P, DebugCommand (here id) 0 0 (.accessRegister 0 0 0 false 0) P :=
  ⟨_, .notHalted _ rfl (.inl ⟨0, false, 0, rfl⟩)⟩

/-- READY = 1, HSEM held by port 0, with mailbox arguments. -/
def hosted (a0 a1 : Word) : State := withHosts (here id) fun r =>
  { r with ready := true, semHeld := true, dbgopen := true, mbArg := (r.mbArg.set 0 a0).set 1 a1 }
theorem holds (a0 a1 : Word) : Holds (hosted a0 a1) 0 := ⟨rfl, rfl⟩
theorem meets_HostEvents_grant : ∃ P, HostEvent (here id) (.hsemWrite 1 1) P := ⟨_, .semGrant 1 1 (by decide) rfl rfl⟩
theorem meets_HostEvents_denied : ∃ P, HostEvent (hosted 0 0) (.qcfgWrite (.pf 1) 255 false 0) P :=
  ⟨_, .denied _ 1 255 false 0 (by decide) (by decide) (fun h => absurd h.2 (by decide +kernel)) rfl (.inl rfl)⟩
theorem meets_HostEvents_queue : ∃ P, HostEvent (hosted 0 0) (.qcfgWrite (.pf 0) 255 false 0x0000000103010401) P :=
  ⟨_, .cfgLow (.pf 0) 255 _ _ rfl (by decide) (.inl ⟨0, by decide, rfl, holds 0 0⟩) rfl⟩
theorem meets_HostEvents_tail : ∃ P, HostEvent (hosted 0 0) (.qtailWrite 31 255 5) P := ⟨_, .tail 31 255 5 (by decide) (by decide) rfl⟩
theorem meets_HostEvents_trace : ∃ P, HostEvent (hosted 0 0) (.registerWrite (.trace 0 0x100000000 4 [0]) 3) P :=
  ⟨_, .trace 0 0x100000000 4 [0] 3 rfl (by decide) (by decide +kernel)⟩
theorem meets_HostEvents_write : ∃ P, HostEvent (here id) (.inboundAccess (.vf 0) 0x47F 1 [9]) P :=
  ⟨_, .inWrite (.vf 0) 0x47F 1 [9] ⟨by decide, .inl (by decide +kernel), ⟨0, .vf 0, by decide +kernel⟩, by decide +kernel⟩ (by decide +kernel)⟩
theorem meets_HostEvents_refused : ∃ P, HostEvent (here id) (.inboundAccess (.domain 255) 0x47F 1 []) P :=
  ⟨_, .inReadRefused (.domain 255) 0x47F 1 _ (by decide) (.inl (by decide +kernel)) (.domain 255) (by decide +kernel)⟩
/-- A tenant with its pages of device registers alone. -/
def newTenant : NewTenant where
  root := 0x8000
  asid := 1
  groups := []
  hbm := []
  cxl := []
  flash := []
  extents := [(0, 0xE00000000 + 0x100, 0xE00000000 + 0x101F, false)]
theorem meets_MailboxCommands : (hosted 31 0).dev.hosts.ready = true ∧ (hosted 31 0).dev.hosts.mbRun = none ∧
    (hosted 31 0).dev.resets = [] ∧ (hosted 31 0).dev.causeway.halted = false ∧
    hosted 31 0 = State.eachHart State.drainQueues (hosted 31 0) ∧ ∃ P, MailboxEvent (hosted 31 0) 0 (.tcreate 0 newTenant) P :=
  ⟨rfl, rfl, rfl, rfl, rfl, _, .tcreate 0 31 newTenant rfl (by decide +kernel) (by decide +kernel) (by decide +kernel) (by decide +kernel)⟩
theorem meets_MailboxCommands_bad : ∃ P, MailboxEvent (hosted 32 0) 0 (.tcreate 0 newTenant) P := ⟨_, .tcreateBad 0 newTenant (by decide +kernel)⟩
theorem meets_MailboxCommands_extent : ∃ P, MailboxEvent (hosted 0x3F0203 0x7) 0 (.extset 0) P :=
  ⟨_, .extset 0 0x203 _ (by decide +kernel) (by unfold Settles; decide +kernel) (by decide) rfl⟩
theorem meets_MailboxCommands_preempt : ∃ P, MailboxEvent (ganged (hosted 0 0)) 0 (.preempt 0) P :=
  ⟨_, .preempt 0 gang0 (by decide +kernel) (by decide +kernel) (by decide +kernel) (by decide +kernel)⟩
theorem meets_Resets_function : ∃ P, Reset (here id) (.functionLevelReset 31) P :=
  ⟨_, .function 31 (by decide) rfl (by unfold AllQuiet NoMonitors; decide +kernel) (by decide +kernel)⟩
theorem meets_Resets_ready : ∃ P, Reset (here id) (.ready 0x10000000) P := ⟨_, .ready 0x10000000 (by decide +kernel) (by decide)⟩

/-! Banks and lines. -/

/-- Bank 4 of core 0, and its address. -/
def bank0 : Bank where
  die := 0
  core := 0
  num := 4
  gang := 0
def banked (b : Bank) (l : List (Reg × Word)) (f : Hart → Hart := id) : State :=
  { here (f ∘ withX l) with dev := { (here id).dev with banks := [b] } }
theorem names (b : Bank) (l : List (Reg × Word)) (f : Hart → Hart) (hb : b.die = 0 ∧ b.core = 0 ∧ b.num = 4 ∧ b.gang = 0)
    (hf : (banked b l f).h.id = {}) : NamedBank (banked b l f) 0x7F0000010000 b := by
  refine ⟨(banked b l f).h.id.hartid.toNat / 4 % 64, 4, .own 4 (by decide), by decide, ?_, ?_⟩
  · rw [hf]
    simp [banked, Device.bank?, hb]
  · rw [hf]; exact hb.2.2.2
theorem meets_BankModes : ∃ P, BankForm (banked bank0 [(5, 0x7F0000010000), (6, 2)]) (.bmode 7 5 6) 7 0 P ∧
    (banked bank0 [(5, 0x7F0000010000), (6, 2)]).h.ms.strip = none :=
  ⟨_, .modeChange 7 5 6 bank0 .fifo (names bank0 _ id (by decide) rfl) .fifo (by decide) (by unfold BankIdle; decide +kernel)
    ⟨rfl, rfl⟩ (by decide +kernel), rfl⟩
theorem meets_BankModes_slot : ∃ P, BankForm (banked bank0 [(5, 0x7F0000010000), (6, 4)]) (.bslot 7 5 6) 7 0 P :=
  ⟨_, .slot 7 5 6 bank0 _ (names bank0 _ id (by decide) rfl) rfl (.ready (by unfold BankIdle; decide +kernel)) ⟨rfl, rfl⟩
    (by decide +kernel)⟩
theorem meets_BankModes_query : ∃ w, BankWord (banked bank0 []) 0x7F0000010000 w :=
  ⟨_, .status bank0 0 1 (names bank0 [] id (by decide) rfl) .scratch (by decide +kernel) (by decide)⟩

/-- A FIFO of one entry, e64, VL = 16. -/
def fifo0 : Bank := { bank0 with mode := .fifo, fifo := [5] }
def pushing : State := banked fifo0 [(5, 0x7F0000010000)] (vectors 3 0 16)
theorem meets_FifoMoves : FifoLimits pushing 8 ∧ pushing.h.ms.strip = none ∧ NamedBank pushing (pushing.getX 5).toNat fifo0 ∧
    fifo0.mode = .fifo ∧ (∀ z ∈ pushing.dev.banks, z.die = fifo0.die ∧ z.core = fifo0.core ∧ z.num = fifo0.num → z = fifo0) ∧
    fifo0.fifo.length < 128 ∧ pushing.h.ms.storeQ = [] ∧ pushing.h.ms.fabricQ = [] ∧ fifo0.fifo = 5 :: [] :=
  ⟨by unfold FifoLimits; decide +kernel, rfl, names fifo0 _ _ (by decide) rfl, rfl, by decide +kernel, by decide, rfl, rfl, rfl⟩
def wrongBank : State := banked bank0 [(5, 0x7F0000010000), (6, 8)] (vectors 3 0 16)
theorem meets_FifoTraps : ¬FifoLimits (here id) 8 ∧ FifoLimits wrongBank 8 ∧ wrongBank.h.ms.strip = none ∧
    (wrongBank.getX 6).toNat % 0x4000 ≠ 0 ∧ NamedBank wrongBank (wrongBank.getX 5).toNat bank0 ∧ bank0.mode ≠ .fifo :=
  ⟨by unfold FifoLimits; decide +kernel, by unfold FifoLimits; decide +kernel, rfl, by decide +kernel,
    names bank0 _ _ (by decide) rfl, by decide⟩

/-- One line at 0x400. -/
def oneLine : State := here (withX [(9, 0x400), (8, 128)])
theorem meets_LineOperations : Fresh oneLine ∧ oneLine.h.ms.early = [] ∧ (oneLine.getX 9).toNat % 128 = 0 ∧
    (oneLine.getX 8).toNat % 128 = 0 ∧ linesOf (oneLine.getX 9).toNat (oneLine.getX 8).toNat = 1 ∧
    Mapped oneLine (rangeLine (oneLine.getX 9).toNat 0) .load page (placeOf oneLine 0x400) ∧ (oneLine.getX 8).toNat / 128 = 1 ∧
    StoresAt oneLine ((oneLine.getX 9).toNat + 128 * 0) 128 (placeOf oneLine 0x400) := by
  refine ⟨fresh_of (by decide +kernel), by decide +kernel, by decide +kernel, by decide +kernel, by decide +kernel, ?_,
    by decide +kernel, by decide +kernel, ⟨page, ?_⟩, by decide +kernel, by decide +kernel⟩ <;> constructor <;> decide +kernel
theorem meets_LineOperations_misaligned : (here (withX [(9, 0x400)])).h.ms.strip = none ∧
    (here (withX [(9, 0x400), (8, 1)])).h.pc ∉ (here (withX [(9, 0x400), (8, 1)])).h.ms.early ∧
    ((here (withX [(9, 0x400), (8, 1)])).getX 8).toNat % 128 ≠ 0 := by decide +kernel

/-! Copy engines. -/

/-- x9 = 0x400, x8 = 0x800, x7 = 1: one byte to copy; the hart's next command 1 on engine 0. -/
def copying : State := here (withX [(9, 0x400), (8, 0x800), (7, 1)])
def copy1 : Cmd := captured copying .lin 9 8 7 0 0
theorem covers1 (va : Nat) (h : Covers copy1 va) : va = 0x400 := by
  cases h with
  | lin o _ ho => obtain rfl : o = 0 := by have : countOfCmd copy1 = 1 := by decide +kernel
                                           omega
                  decide +kernel
  | twoD _ _ h => cases h
  | gath _ h => cases h
  | widen _ h => cases h
  | narrow _ h => cases h
theorem covered1 : Covers copy1 0x400 := by
  have h : Covers copy1 ((copy1.dst.toNat + 0) % 2 ^ 64) := .lin 0 (.inl rfl) (by decide +kernel)
  rwa [show (copy1.dst.toNat + 0) % 2 ^ 64 = 0x400 by decide +kernel] at h
theorem meets_CopyIssues : Copy (.cpyLin 5 9 8 7 0) .lin 5 9 8 7 0 false ∧ copying.h.ms.strip = none ∧ Issuable copying copy1 ∧
    Takes copying copy1 [8] fun _ => (placeOf copying 0x400).key / 128 := by
  refine ⟨.lin 5 9 8 7 0, rfl, ⟨by decide +kernel, fun h => ?_, nofun, by decide +kernel⟩, ⟨fun l => ⟨fun h => ?_, fun ⟨va, h, e⟩ => ?_⟩,
    by decide, by decide, fun va h => ⟨page, placeOf copying 0x400, ?_, ?_, ?_⟩, by decide +kernel, .inr (.inr (by decide +kernel))⟩⟩
  · cases h with
    | rows h => cases h <;> contradiction
    | reserved h => cases h
    | table h => cases h
    | conv h => cases h
  · obtain rfl : l = 8 := by simpa using h
    exact ⟨_, covered1, by decide⟩
  · rw [covers1 va h] at e
    subst e; decide
  · rw [covers1 va h]; constructor <;> decide +kernel
  · rfl
  · decide +kernel
theorem meets_CopyIssues_pair : Copy (.cpyGath 5 9 8 6 0) .gath 5 9 8 6 0 true ∧ (6 : Reg) ≠ 0 ∧ (6 : Reg) ≠ 31 ∧
    countOfCmd (captured copying .gath 9 8 6 0 (copying.getX 7)) = 0 := ⟨.gath 5 9 8 6 0, by decide, by decide, by decide +kernel⟩
theorem meets_CopyRefused : RefusedField (captured copying .twoD 9 8 7 0 (copying.getX 8 - 0x800)) ∧
    countOfCmd (captured copying .twoD 9 8 7 0 (copying.getX 8 - 0x800)) ≠ 0 ∧ copying.h.ms.strip = none ∧
    Copy (.cpy2d 5 9 8 31 0) .twoD 5 9 8 31 0 true ∧ strip400.h.ms.strip.isSome = true :=
  ⟨.rows (.inl rfl) (by decide +kernel), by decide +kernel, rfl, .twoD 5 9 8 31 0, rfl⟩
theorem meets_CopyRefused_conv : ¬RefusedField (captured copying .conv 9 8 7 0 0) ∧ countOfCmd (captured copying .conv 9 8 7 0 0) ≠ 0 ∧
    (convDesc (captured copying .conv 9 8 7 0 0)).valid = false := by
  refine ⟨fun h => ?_, by decide +kernel, by decide +kernel⟩
  cases h with
  | rows h => cases h <;> contradiction
  | reserved h => cases h
  | table h => cases h
  | conv _ r => exact r (by decide +kernel)
theorem meets_CopyRefused_long : 8192 * 128 < ((here (withX [(7, 0x100001)])).getX 9).toNat % 128 +
    countOfCmd (captured (here (withX [(7, 0x100001)])) .lin 9 8 7 0 0) := by decide +kernel
/-- The same hart with its command outstanding, and with a failure of its first. -/
def outstanding (c : Cmd) : State := { copying with
  h := { copying.h with sy := { copying.h.sy with cseq := copying.h.sy.cseq.set 0 1 } }
  dev := { copying.dev with cmds := [c] } }
def failedCopy : State := here fun h => { withX [(9, 1)] h with sy := { h.sy with
  cseq := h.sy.cseq.set 0 1
  fail := h.sy.fail.set 0 (some { num := 1, cause := .xlate, addr := 0x500 }) } }
theorem meets_CopyWaits : DoneIs (outstanding copy1) 0 0 ∧ min ((outstanding copy1).getX 6).toNat 1 ≤ 0 :=
  ⟨.upTo copy1 (.head _) (by decide +kernel) (by decide +kernel) (by decide +kernel) nofun, by decide +kernel⟩
theorem meets_CopyWaits_failed : ∃ r, DoneIs failedCopy 0 1 ∧ failedCopy.h.ms.strip = none ∧
    min (failedCopy.getX 9).toNat (failedCopy.h.sy.cseq[(0 : BitVec 2).toFin]).toNat ≤ 1 ∧
    failedCopy.h.sy.fail[(0 : BitVec 2).toFin] = some r ∧ r.num.toNat ≤ (failedCopy.getX 9).toNat :=
  ⟨_, .all nofun nofun, rfl, by decide +kernel, rfl, by decide +kernel⟩

/-- Its one destination line; its source line read. -/
def taken : Cmd := { copy1 with lines := [(8, 8)] }
def readIn : Cmd := { taken with got := [(16, List.replicate 128 3)] }
theorem runs (c : Cmd) (h : c = taken ∨ c = readIn) : Runs (outstanding c) c := by
  refine ⟨?_, fun x h _ => by simpa [outstanding] using h, nofun, ?_⟩ <;>
  obtain h | h := h <;> subst h <;> decide +kernel
theorem meets_EngineSteps : ∃ P, EngineEvent (outstanding taken) taken (.read 0 0 0 0) P :=
  ⟨_, .read 0 16 0x800 (placeOf copying 0x800) (List.replicate 128 0) (runs _ (.inl rfl)) (by decide +kernel) (by decide +kernel)
    ⟨by decide, by decide, rfl, page, by decide +kernel, by decide +kernel, by decide +kernel, by decide +kernel, nofun, by decide +kernel,
      by decide +kernel, by decide +kernel, by decide +kernel⟩ (by decide +kernel) (by decide +kernel) (by decide)⟩
theorem meets_EngineSteps_write : ∃ P, EngineEvent (outstanding readIn) readIn (.write 0 0 0 0) P :=
  ⟨_, .write 0 8 8 (runs _ (.inr rfl)) (by decide) (by decide +kernel) rfl (by decide +kernel) (by decide +kernel) (by decide)⟩
/-- Its source page is not mapped. -/
def lostCopy : Cmd := { taken with src := 0x10000000 }
theorem runsLost : Runs (outstanding lostCopy) lostCopy := by
  exact ⟨by decide +kernel, fun x h _ => by simpa [outstanding] using h, nofun, by decide +kernel⟩
/-- What the failure does to a hart. -/
def takesFailure (h : Hart) : Hart :=
  if h.id.gang.toNat = 0 ∧ h.id.rank = 0 ∧ h.status ≠ .vacant then
    match h.sy.fail[(0 : Fin 4)] with
    | none => { h with sy := { h.sy with fail := h.sy.fail.set 0 (some { num := 1, cause := .xlate, addr := 0x10000000 }) } }
    | some _ => { h with db := { h.db with counter := h.db.counter.set 1 (BitVec.ofNat 64 (min (h.db.counter[1].toNat + 1) (2 ^ 64 - 1))) } }
  else h
theorem meets_EngineSteps_fail : ∃ P, EngineEvent (outstanding lostCopy) lostCopy (.cpyFail 0 0 0 0) P :=
  ⟨_, .fail 0 0x200000 0x10000000 .xlate takesFailure runsLost (by decide) (by decide +kernel) (by decide +kernel) (by decide +kernel)
    rfl (by decide +kernel)
    (fun h hm hf => by
      replace hm : h.id.gang.toNat = 0 ∧ h.id.rank = 0 ∧ h.status ≠ .vacant := hm
      replace hf : h.sy.fail[(0 : Fin 4)] = none := hf
      rw [takesFailure, if_pos hm, hf]; rfl)
    (fun h r hm hf => by
      replace hm : h.id.gang.toNat = 0 ∧ h.id.rank = 0 ∧ h.status ≠ .vacant := hm
      replace hf : h.sy.fail[(0 : Fin 4)] = some r := hf
      rw [takesFailure, if_pos hm, hf])
    (fun h hm => if_neg hm)⟩
/-- The command is cancelled, and its gang back on its harts. -/
def backGang : Gang := { gang0 with savedCmds := [copy1] }
def reissuing : State := { copying with dev := { copying.dev with gangs := [backGang] } }
theorem meets_EngineSteps_reissue : ∃ P, EngineEvent reissuing copy1 (.cpyReissue 0) P :=
  ⟨_, .reissue backGang [] reissuing.h (fun _ => 8) _ (by decide +kernel) (by decide) rfl ⟨rfl, rfl⟩ rfl nofun (by decide +kernel) rfl
    (by decide +kernel)
    (fun l hl => by
      obtain rfl : l = 8 := by
        rw [show Machine.linesOf copy1.dests = [8] by decide +kernel] at hl
        simpa using hl
      exact ⟨placeOf copying 0x400, ⟨by decide +kernel, by decide +kernel, rfl, page, by decide +kernel, by decide +kernel,
        by decide +kernel, by decide +kernel, by decide +kernel, by decide +kernel, by decide +kernel, by decide +kernel,
        by decide +kernel⟩, by decide +kernel⟩)
    (by decide +kernel) (by decide +kernel) fun _ => rfl⟩

/-! Continuations. -/

/-- Slots 0-15 are the tenant's, their records from 0x100000 on; slot 0 as `y`, its cookie 7. -/
def slots (y : Cr) (l : List (Reg × Word) := []) : State := holding 0x100000 [7] (withDev (fun d =>
  { d with
    tenants := [{ num := 0, live := true, crGroups := [0] }]
    crpa := 0x100000
    crs := [y]
    extents := d.extents ++ [{ src := 0, idx := 1, base := 0xE01000000, last := 0xE01000007, w := true, y := true, v := true }] })
  (here (withX l)))
def crFree : Cr := { slot := 0, tenant := 0 }
def crOpen : Cr := { slot := 0, tenant := 0, st := .open }
def crParked : Cr := { slot := 0, tenant := 0, st := .parked, thbm := some 0 }
theorem visible (y : Cr) (l : List (Reg × Word)) : Visible (slots y l) := ⟨rfl, rfl, rfl⟩
theorem calm (y : Cr) : Calm (slots y) := ⟨⟨fun h hh => by obtain rfl := List.mem_singleton.mp hh; exact ⟨rfl, nofun⟩, rfl⟩, rfl, by
  rw [show (slots y).dev.mem = (slots crFree).dev.mem from rfl]; decide +kernel⟩
theorem meets_SlotForms : ∃ P, SlotForm (slots crFree) (.crget 5) 5 0 P ∧ Visible (slots crFree) ∧ Calm (slots crFree) :=
  ⟨_, .get 5 0 (by unfold MySlot; decide +kernel) (by decide +kernel) nofun, visible _ _, calm _⟩
theorem cookie : numAt (homes (slots crOpen)) (recordAt (slots crOpen) 0) 64 = 7 ∧
    numAt (homes (slots crOpen)) (recordAt (slots crOpen) 0) 8 = 7 ∧
    numAt (homes (slots crOpen)) (recordAt (slots crOpen) 0 + 28) 1 = 0 := by decide +kernel
theorem calmOthers : ∀ h ∈ (slots crOpen).others, h.ms.storeQ = [] ∧ h.ms.fabricQ = [] := by decide +kernel
theorem meets_SlotForms_park : ∃ P, SlotForm (slots crOpen) (.park 5 0) 5 0 P := by
  refine ⟨_, .park 5 0 0 (by decide +kernel) (by unfold MySlot; decide +kernel) (by decide +kernel) (fun h => ?_) (fun va l h => ?_) calmOthers
    fun va l h => ?_⟩
  · cases h with
    | cookie h => rw [cookie.2.1] at h; cases h
    | count h => rw [cookie.2.2] at h; omega
    | reserved i hi h =>
      rw [cookie.1, Nat.testBit_eq_decide_div_mod_eq, Nat.div_eq_of_lt] at h
      · cases h
      · exact Nat.lt_of_lt_of_le (show 7 < 2 ^ 3 by decide) (Nat.pow_le_pow_right (by decide) (by omega))
    | range j e h => rw [cookie.2.2] at h; omega
  all_goals
    obtain ⟨⟨j, _, _, h, _⟩, _⟩ := h
    rw [cookie.2.2] at h; omega
theorem meets_SlotForms_parkBad : ∃ P, SlotForm (slots crOpen [(6, 1)]) (.park 5 6) 5 2 P :=
  ⟨_, .parkState 5 6 (by unfold MySlot; decide +kernel) (by decide +kernel)⟩
theorem meets_SlotForms_free : ∃ P, SlotForm (slots crParked) (.crfree 5 0) 5 0 P :=
  ⟨_, .free 5 0 0 (by decide +kernel) (by unfold MySlot; decide +kernel) (by decide +kernel)⟩
theorem meets_TierQueries : (slots crParked).h.ms.strip = none ∧ ∃ w, TierWord (slots crParked) 0x400 w ∧ ∃ v,
    SlotWord (slots crParked) 0 v := by
  refine ⟨rfl, _, .resident page 0 (by decide) (by decide) (by decide +kernel) (by decide) (by decide +kernel) (by decide +kernel)
    (.hbm _ (by decide) (by decide +kernel)), _, .away 2 (fun _ => false) (by unfold MySlot; decide +kernel) ?_ (by decide) nofun⟩
  rw [show ((slots crParked).dev.cr 0).st = .parked by decide +kernel]; exact .parked
theorem meets_TierQueries_fault : ∃ w, TierWord (here id) 0x10000000 w :=
  ⟨_, .fault .xlate (by decide) (by decide) (by decide +kernel)⟩

theorem meets_PeatEvents : ∃ P, PeatEvent (slots crParked) (.tHbmExpiry 0) P :=
  ⟨_, .timer 0 false 0 (by decide +kernel) (by decide +kernel) (by decide +kernel) (by decide +kernel)⟩
/-- Frame 3 on its way to frame 5 of CXL; the leaf at 0x20000. -/
def toCxl : Move where
  ptea := 0x20000
  tenant := 0
  tier := 1
  dest := 5
def moving : State := withDev (fun d => { d with moves := [toCxl] }) framed
theorem calmMoving : Calm moving := ⟨⟨fun h hh => by obtain rfl := List.mem_singleton.mp hh; exact ⟨rfl, nofun⟩, rfl⟩, rfl, by decide +kernel⟩
theorem meets_PeatEvents_move : ∃ P, PeatEvent moving (.pageMove 0x20000) P :=
  ⟨_, .move toCxl _ 0 3 (.head _) (by decide +kernel) rfl (.hbm _ (by decide +kernel) (by decide +kernel)) (by decide +kernel) rfl
    (.inr (by decide +kernel)) (by decide) (by decide) calmMoving⟩
theorem meets_PeatEvents_demotionFails : ∃ P, PeatEvent moving (.demotionFail 0x20000) P :=
  ⟨_, .demotionFails toCxl (.head _) (by decide +kernel) (.inl rfl)⟩
/-- Flash block 3 on its way to frame 5. -/
def toHbm : Move := { toCxl with tier := 0 }
def promoting : State := withDev (fun d => { d with moves := [toHbm] }) (holding 0x20000 [0xDF] framed)
theorem calmPromoting : Calm promoting := ⟨⟨fun h hh => by obtain rfl := List.mem_singleton.mp hh; exact ⟨rfl, nofun⟩, rfl⟩, rfl, by decide +kernel⟩
theorem meets_PeatEvents_promotionFails : ∃ P, PeatEvent promoting (.promotionFail 0x20000) P :=
  ⟨_, .promotionFails toHbm (.head _) (by decide +kernel) rfl (by decide +kernel) rfl (by decide) calmPromoting⟩
theorem meets_PeatEvents_wake : ∃ P, PeatEvent (slots crParked) (.wakeWrite 0 0 7) P :=
  ⟨_, .wake 0 0 7 (by decide) (by decide +kernel) (by decide +kernel) (by decide +kernel) (by decide +kernel) (calm _)⟩
theorem meets_PeatEvents_reject : ∃ P, PeatEvent (slots crParked) (.wakeWrite 0 0 8) P :=
  ⟨_, .wakeRejected 0 0 0 8 (by decide) (by decide +kernel) (.inr (by decide +kernel)) (by decide +kernel)⟩
/-- Queue 0 of the tenant, two entries at 0x40000. -/
def queue0 : Queue := { num := 0, en := true, base := 0x40000, log2n := 1, dies := 1, pmax := 3 }
def queued (q : Queue) (s : State) : State := withDev (fun d => { d with queues := [q], hosts := { d.hosts with ready := true } }) s
def crWaking : Cr := { slot := 0, tenant := 0, st := .waking, staged := true }
theorem calmQueued (q : Queue) (y : Cr) : Calm (queued q (slots y)) := calm y
theorem meets_PeatEvents_relaunch : ∃ P, PeatEvent (queued queue0 (slots crWaking)) (.relaunchSubmit 0) P :=
  ⟨_, .relaunch 0 0x40000 crWaking queue0 (by decide +kernel) rfl (by decide) nofun (by decide +kernel) rfl (by decide) (by decide +kernel)
    (by decide +kernel) (by decide +kernel) (by decide +kernel) (by decide) (by decide +kernel) (calmQueued _ _)⟩

/-! Launch, waits, allocators. -/

/-- The record is at 0x400, all zeros. -/
def launching : State := queued queue0 at400
theorem meets_Launch : launching.h.ms.strip = none ∧ ReadsAs launching (launching.getX 9).toNat 64 0 ∧ InStep launching ∧
    Calm launching ∧ launching.h.ms.storeQ = [] ∧ launching.h.ms.fabricQ = [] ∧ launching.h.ms.fabFail = none ∧
    TakesRecord launching (launching.getX 0).toNat queue0 0x40000 := by
  refine ⟨rfl, ⟨by decide +kernel, page, placeOf launching 0x400, ?_, ?_, by decide +kernel, by decide +kernel⟩, step_of (by decide +kernel),
    ⟨⟨fun h hh => by obtain rfl := List.mem_singleton.mp hh; exact ⟨rfl, nofun⟩, rfl⟩, rfl, by decide +kernel⟩, rfl, rfl, rfl, ?_⟩ <;>
  constructor <;> decide +kernel
theorem meets_Launch_refused : ∃ c, LaunchRefused launching (launching.getX 9).toNat c ∧ (launching.getX 9 + 1).toNat % 64 ≠ 0 :=
  ⟨1, .queue (.inl (by decide +kernel)), by decide +kernel⟩
theorem meets_WaitForms : at400.h.ms.strip = none ∧ (at400.h.ms.storeQ = [] ∧ at400.h.ms.fabricQ = []) ∧ at400.h.ms.fabFail = none ∧
    InStep at400 ∧ (at400.getX 9).toNat % 8 = 0 ∧ Mapped at400 (at400.getX 9).toNat .load page (placeOf at400 0x400) ∧
    AtHome at400 (placeOf at400 0x400) 8 ∧ at400.h.watchHit .load (at400.getX 9).toNat 8 = none ∧ at400.h.sy.pendWait = none ∧
    (at400.getX 0).toNat ≤ seenNat at400 (placeOf at400 0x400).key 8 ∧
    ∀ e : BitVec 2, DoneIs at400 e (at400.h.sy.cseq[e.toFin]).toNat :=
  ⟨rfl, ⟨rfl, rfl⟩, rfl, step_of (by decide +kernel), by decide +kernel, mapped400 .load, home400, by decide +kernel, rfl, by decide +kernel,
    fun e => .all nofun nofun⟩

def endingGang : Gang := { gang0 with ending := some true }
def savedGang : Gang := { gang0 with saved := true }
def withGang (g : Gang) (s : State) : State := withDev (fun d => { d with gangs := [g] }) s
theorem meets_AllocEvents : ∃ P, AllocEvent (withGang endingGang (here id)) (.completionAdd 0) P :=
  ⟨_, .noCounter endingGang (by constructor <;> decide +kernel) rfl⟩
/-- The record with the tenant wrong, and one that is bad. -/
theorem atHead (s : State) (h : s = queued { queue0 with tail := 1 } (here id)) : AtHead s 0 { queue0 with tail := 1 } 0x40000 0 := by
  subst h
  constructor
  case answers =>
    intro d h
    rw [show regionOf 0x40000 = .hbm by decide +kernel] at h
    cases h
  all_goals decide +kernel
theorem meets_AllocEvents_badrec : ∃ P, AllocEvent (queued { queue0 with tail := 1 } (here id)) (.recordCheck 0) P :=
  ⟨_, .badrec 0 0x40000 0 _ (atHead _ rfl) (by decide +kernel) (by unfold BadRec; decide +kernel)⟩
/-- A record of one hart: code at 0x1000, header at 0x2000, VLCAP 1,024. -/
def record0 : Nat := 0x1000 + 0x2000 * 2 ^ 64 + 10 * 2 ^ 490
def waiting : Queue := { queue0 with tail := 1, checked := some (record0, 0), reached := some (0, 0) }
def placing : State := { queued waiting (here id) with h := {} }
theorem candidate : OneRecord placing waiting record0 0 0 0 := by
  refine ⟨by decide +kernel, by decide +kernel, by decide +kernel, ⟨rfl, rfl, 0, rfl⟩, by decide +kernel, ?_, by decide +kernel⟩
  unfold BadRec
  decide +kernel
theorem meets_AllocEvents_grant : ∃ P, AllocEvent placing (.grant 0 0 []) P :=
  ⟨_, .grant 0 0 0 0 record0 0 waiting [] candidate (.inl (by decide +kernel)) rfl (.inl ⟨rfl, rfl, rfl⟩)
    ⟨⟨fun h hh => by obtain rfl := List.mem_singleton.mp hh; exact ⟨rfl, nofun⟩, rfl⟩, rfl, by decide +kernel⟩⟩
theorem meets_AllocEvents_unreserved : ∃ P, AllocEvent placing (.reservation 0) P :=
  ⟨_, .unreserved 0 0 record0 0 waiting candidate (by decide +kernel)⟩
theorem meets_AllocEvents_resume : ∃ P, AllocEvent { withGang savedGang (here id) with h := {} } (.gangResume 0) P :=
  ⟨_, .resume savedGang _ ⟨rfl, rfl, rfl, rfl⟩ (by decide +kernel) (by decide +kernel) (by decide +kernel) (fun _ => rfl)
    ⟨by decide +kernel, rfl⟩ (by decide +kernel)⟩
theorem meets_AllocEvents_safe : ∃ P, AllocEvent (withGang { gang0 with prio := 3 } (here id)) (.preemption (.allocator 0)) P :=
  ⟨_, .safe { gang0 with prio := 3 } (by decide +kernel) rfl (by decide)⟩
theorem meets_AllocEvents_retire : ∃ P, AllocEvent (ganged (here id)) (.coreRetirement 0 0) P :=
  ⟨_, .retire 0 0 _ _ rfl (by decide +kernel) (by decide +kernel) (fun _ _ _ => rfl) fun _ => rfl⟩

/-! Tiles. -/

/-- All four tiles and both latches; e32, VL = 1; tile 0 a factor of order 1 with `x` on its diagonal, v8 holds `y`. -/
def tiled (x y : Nat) (broken : Bool) (h : Hart) : Hart := { vectors 2 0 1 h with
  v := h.v.set 8 { val := BitVec.ofNat _ y }
  t := { h.t with
    town := 63
    tile := h.t.tile.set 0 { val := BitVec.ofNat _ x, factor := true, n := 1, broken := broken } } }
def one : Nat := 0x3F800000
theorem meets_TileForms : (∃ b o P, TileForm (here (tiled one 0 false)) (.tzero 5) False b o P ∧ o) ∧
    (here (tiled one 0 false)).h.vc.vstart = 0 ∧ ¬((here (tiled one 0 false)).h.ms.strip.isSome = true) ∧
    (here (stripped ∘ tiled one 0 false)).h.ms.strip.isSome = true :=
  ⟨⟨_, _, _, .zeroLatch 5 1 (by decide), by decide +kernel⟩, rfl, nofun, rfl⟩
theorem meets_TileForms_unowned : ∃ b o P, TileForm (here id) (.tzero 0) False b o P ∧ ¬o := ⟨_, _, _, .zeroTile 0 0 (by decide), by decide +kernel⟩
theorem meets_TileForms_move : ∃ bad b o P, TileForm (here (tiled one 0 false)) (.trd 8 0 3 true true) bad b o P ∧ ¬bad ∧ o :=
  ⟨_, _, _, _, .trd 8 0 3 true true _ rfl, by unfold LegalMove; decide +kernel, by decide +kernel⟩
theorem meets_TileForms_write : ∃ bad b o P, TileForm (here (tiled one 0 false)) (.twr 0 8 63 false) bad b o P ∧ ¬bad ∧ o :=
  ⟨_, _, _, _, .twr 0 8 63 false, by unfold LegalMove; decide +kernel, by decide +kernel⟩
theorem meets_TileForms_shape : ∃ b o P, TileForm (here fun h => { h with t := { h.t with rows := 65 } })
    (.top 0 0 1 false false false false false false) True b o P := ⟨_, _, _, .topShape 0 0 1 false false false false false false (.inl (by decide))⟩

/-- e64, VL = 1, v8 = the address of bank 4, a latch owned. -/
def gatherer (a : Nat) (h : Hart) : Hart := { vectors 3 0 1 h with
  v := h.v.set 8 { val := BitVec.ofNat _ a }
  t := { h.t with town := 16 } }
def gathering : State := banked bank0 [] (gatherer 0x7F0000010000)
theorem meets_TileGather : Fresh gathering ∧ gathering.h.ew = 64 ∧ gathering.h.vc.vl ≤ 64 - (63 : BitVec 6).toNat ∧
    (8 : Reg).val % gathering.h.grp = 0 ∧ gathering.h.t.town.getLsbD 4 = true ∧ (∀ l : Latch, gathering.h.t.latchErr[l] = []) ∧
    activeFrom gathering.h false = [0] ∧ RowReads gathering (gathering.h.elem 8 0 64) (fun _ => 0) := by
  refine ⟨fresh_of (by decide +kernel), by decide +kernel, by decide +kernel, by decide +kernel, by decide +kernel,
    by decide +kernel, by decide +kernel, 0x7F0000010000, 0, 4, bank0, 0, ?_, by decide +kernel⟩
  have h : BankAddress gathering (0x7F0000000000 + 0x4000 * 4) (gathering.h.id.hartid.toNat / 4 % 64) 4 := .own 4 (by decide)
  rwa [show gathering.h.id.hartid.toNat / 4 % 64 = 0 by decide +kernel] at h
theorem meets_TileGather_traps : (here id).h.ew ≠ 64 ∧ (banked bank0 [] (gatherer 0x7F0000010001)).h.elem 8 0 64 % 128 ≠ 0 ∧
    on (banked bank0 [] (gatherer 0x7F0000010001)).h false 0 = true ∧ (here (vectors 3 0 1)).h.t.town.getLsbD 4 = false ∧
    (here (vectors 3 0 1)).h.ew = 64 := by decide +kernel


/-! More components. -/

/-- An access of die 0's debug module is not done. -/
def unanswered : State := withDev (fun d => { d with
  hosts := { d.hosts with dbgopen := true }
  dms := [{ die := 0, pending := some ⟨0, true, false, 3, 0x400, 0⟩ }] }) (here id)
theorem meets_DebugCommands_pending : unanswered.dev.hosts.dbgopen = true ∧ (unanswered.dev.dm 0).pending.isSome = true := by decide +kernel
theorem meets_DeviceEvents_link : ∃ P, DeviceEvent (here id) (.linkFailure 3 .access) P := ⟨_, .linkAccess 3⟩
theorem meets_DeviceEvents_causeway : ∃ P, DeviceEvent (hosted 0 0) (.haltRequest 8 0) P := ⟨_, .haltCauseway rfl rfl⟩
/-- Device 3 answers, and its next access fails after retry. -/
def failing : State := withDev (fun d => { d with failNext := [3], hosts := { d.hosts with domEn := true, peers := d.hosts.peers ||| 8 } })
  busy
theorem meets_HartEvents_failsOnce : ∃ P, HartEvent failing (fun g k => .arrive g k 3) P :=
  ⟨_, .arriveFails 3 _ _ [] [] rfl nofun (by decide +kernel) (.inr ⟨by decide +kernel, by decide +kernel, rfl⟩) rfl⟩
theorem meets_AllocEvents_esmen : ∃ P, AllocEvent (ganged (here id)) (.preemption (.esmen 0)) P :=
  ⟨_, .esmen gang0 (by decide +kernel) ⟨rfl, rfl, rfl⟩⟩
theorem meets_AllocEvents_resumeLoops : ∃ P, AllocEvent { withGang savedGang (here id) with h := {} } (.gangResume 0) P :=
  ⟨_, .resumeLoops savedGang ⟨rfl, rfl, rfl, rfl⟩ (by decide +kernel) (by decide +kernel) (by decide +kernel)⟩
/-- No core of die 0 is left, where alone the queue's gangs may run. -/
def lostPlace : State := withDev (fun d => { d with parts := [{ die := 0, spares := 0, absent := List.range 64 }] }) placing
theorem meets_AllocEvents_lost : ∃ P, AllocEvent lostPlace (.recordCheck 0) P :=
  ⟨_, .lost 0 record0 0 waiting (by decide +kernel) rfl (by decide +kernel) (by decide +kernel)⟩
theorem factorTile (x y : Nat) (broken : Bool) : FactorTile (here (tiled x y broken)) 0 1 := ⟨rfl, show (63 : BitVec 6).getLsbD 0 = true by decide, by rfl, by rfl, by decide, by decide⟩
theorem operands (x y : Nat) (broken : Bool) : Operands (here (tiled x y broken)) 1 [8] := ⟨by rfl, rfl, by
  intro v hv; obtain rfl := List.mem_singleton.mp hv; show 8 % 2 ^ (0 : BitVec 2).toNat = 0; decide⟩
theorem meets_FactorRows : (64 < (here fun h => { h with t := { h.t with facN := 65 } }).h.t.facN.toNat) ∧
    Clip (here (tiled one 0 false)).h.t.facN 64 ∧ (here (tiled one 0 false)).h.t.town.getLsbD 0 = true ∧
    (f32.value ((here (tiled one 0 false)).getX 0).toNat).isZero = true := ⟨by decide +kernel, .all rfl, by decide +kernel, by decide +kernel⟩
theorem meets_FactorRows_row : FactorTile (here (tiled one one false)) 0 1 ∧ Operands (here (tiled one one false)) 1 [8] ∧
    (∃ h, Claimed (here (tiled one one false)).h 8 (here (tiled one one false)).h.grp h) ∧
    (here (tiled one one false)).h.t.tile[(0 : Tile)].broken = false ∧ (∀ j < 1, Claims.Finite ((here (tiled one one false)).h.elem 8 j 32)) ∧
    (here (tiled one one false)).h.elem 8 0 32 ≤ 2 ^ 31 :=
  ⟨factorTile _ _ _, operands _ _ _, ⟨_, rfl⟩, by decide +kernel, by unfold Claims.Finite; decide +kernel, by decide +kernel⟩
theorem meets_FactorRows_negative : 2 ^ 31 < (here (tiled one (2 ^ 31 + one) false)).h.elem 8 0 32 := by decide +kernel
theorem meets_FactorRows_bad : (here (tiled one 0 true)).h.t.tile[(0 : Tile)].broken = true ∧
    ¬Claims.Finite ((here (tiled one 0x7F800000 false)).h.elem 8 0 32) := ⟨by decide +kernel, by unfold Claims.Finite; decide +kernel⟩

/-- Tile 0 before a sweep of its one column. -/
def cells (s : State) : Nat → Nat → Nat := cell s.h.t.tile[(0 : Tile)]
theorem meets_FactorSweeps : SweptTo (here (tiled 0 0 false)) 0 8 none 1 1 (fun _ => cells (here (tiled 0 0 false))) (fun _ _ => 0) := by
  refine ⟨fun _ _ _ _ => rfl, by decide +kernel, fun i hi => ?_⟩
  obtain rfl : i = 0 := by omega
  exact .skip rfl (by decide +kernel) rfl rfl
theorem meets_FactorSweeps_premises : SweepForm (.tfdnd 0 8 20) 0 8 (some 20) ∧ FactorTile (here (tiled 0 0 false)) 0 1 ∧
    Operands (here (tiled 0 0 false)) 1 [8] ∧ (here (tiled 0 0 false)).h.ms.strip = none ∧
    (here (tiled 0 0 false)).h.t.tile[(0 : Tile)].broken = false ∧ (∀ j < 1, Claims.Finite ((here (tiled 0 0 false)).h.elem 8 j 32)) ∧
    (∀ j < 1, Claims.Finite (cells (here (tiled 0 0 false)) j j)) :=
  ⟨.tfdnd 0 8 20, factorTile _ _ _, operands _ _ _, rfl, by decide +kernel, by unfold Claims.Finite; decide +kernel, by
    unfold Claims.Finite; decide +kernel⟩
theorem meets_FactorSweeps_lost : SweptTo (here (tiled 0 0 false)) 0 8 (some 20) 1 0 (fun _ => cells (here (tiled 0 0 false))) (fun _ _ => 0) ∧
    Lost 20 (cells (here (tiled 0 0 false)) 0 0) 0 := by
  refine ⟨⟨fun _ _ _ _ => rfl, by decide +kernel, nofun⟩, ?_⟩
  rw [show cells (here (tiled 0 0 false)) 0 0 = 0 by decide +kernel]
  unfold Lost
  rw [show numberOf 0 = 0 by unfold numberOf; rw [show f32.value 0 = .fin ⟨false, 0, -149⟩ by decide +kernel]; simp [ratOf]]
  norm_num
/-- The largest finite number, twice: the diagonal overflows. -/
def big : Nat := 0x7F7FFFFF
theorem meets_FactorSweeps_overflows : Overflows none 1 0 (cells (here (tiled big big false))) (fun _ => big) := by
  refine ⟨0x7F800000, 0, 0, nofun, fun _ => by decide +kernel, ⟨⟨0x7F800000, by decide +kernel, by decide +kernel, by decide +kernel⟩,
    by decide +kernel, by decide +kernel⟩, .inl (by unfold Claims.Finite; decide)⟩

theorem meets_FactorSolves : FactorTile (here (tiled one 0 false)) 0 1 ∧ Operands (here (tiled one 0 false)) 1 [8, 8] ∧
    (∀ e < 1, cells (here (tiled one 0 false)) e e ≠ 0) ∧ (∀ j < 1, Claims.Finite ((here (tiled one 0 false)).h.elem 8 j 32)) ∧
    (∃ h, Claimed (here (tiled one 0 false)).h 8 (here (tiled one 0 false)).h.grp h) ∧
    Solved (here (tiled one 0 false)).h.t.tile[(0 : Tile)] 1 0 (fun i => (here (tiled one 0 false)).h.elem 8 i 32) (fun _ => 0) (fun _ => 0) := by
  refine ⟨factorTile _ _ _, ⟨by rfl, rfl, by decide +kernel⟩, by decide +kernel, by unfold Claims.Finite; decide +kernel, ⟨_, rfl⟩,
    ⟨fun _ i hi => ?_, nofun, fun _ i hi => ?_, nofun⟩⟩ <;> obtain rfl : i = 0 := by omega
  all_goals exact ⟨by decide +kernel, by unfold Claims.Finite; decide +kernel⟩
theorem meets_FactorSolves_zero : cells (here (tiled 0 0 false)) 0 0 = 0 ∧ (here (tiled 0 0 true)).h.t.tile[(0 : Tile)].broken = true ∧
    SweepForm (.tfupd 0 8) 0 8 none := ⟨by decide +kernel, by decide +kernel, .tfupd 0 8⟩

/-- The image of order 1 at 0x400, its one element `x`. -/
def imaged : TileReg := { val := 0x3F800000, factor := true, n := 1 }
theorem crcFrom_append (c : Nat) (l r : List Byte) : crcFrom c (l ++ r) = crcFrom (crcFrom c l) r := by
  induction l generalizing c with
  | nil => rfl
  | cons b l ih => exact ih _
/-- 36 bytes of zeros. -/
def zeros36 : List Byte := List.replicate 36 0
theorem row1 : rowsOf imaged 1 = [0, 0, 0x80, 0x3F] ++ (zeros36 ++ (zeros36 ++ (zeros36 ++ (zeros36 ++ (zeros36 ++ (zeros36 ++
    zeros36)))))) := by decide +kernel
theorem crc_head : crcFrom 0xFFFFFFFF (BitVec.ofNat 8 (1 + 128 * false.toNat) :: List.replicate 11 0 ++ [0, 0, 0x80, 0x3F]) = 0xdab0e787 := by decide +kernel
theorem crc_zeros : crcFrom 0xdab0e787 zeros36 = 0x1e370c75 ∧ crcFrom 0x1e370c75 zeros36 = 0x3dfcba22 ∧ crcFrom 0x3dfcba22 zeros36 = 0x960c0ea7 ∧ 
    crcFrom 0x960c0ea7 zeros36 = 0x50fdfc3d ∧ crcFrom 0x50fdfc3d zeros36 = 0x70ef977 ∧ crcFrom 0x70ef977 zeros36 = 0x8f186cd9 ∧ 
    crcFrom 0x8f186cd9 zeros36 = 0xf41e0435 := by decide +kernel
theorem crc_ends (bs : List Byte) (c : Nat) (h : crcFrom 0xFFFFFFFF bs = c) : crc32c bs = c ^^^ 0xFFFFFFFF := by subst h; rfl
theorem crc1 : imageCrc 1 false (rowsOf imaged 1) = 0xBE1FBCA := by
  obtain ⟨h1, h2, h3, h4, h5, h6, h7⟩ := crc_zeros
  refine (crc_ends _ 0xF41E0435 ?_).trans (by decide)
  rw [row1, ← List.append_assoc, crcFrom_append, crc_head, crcFrom_append, h1, crcFrom_append, h2, crcFrom_append, h3,
    crcFrom_append, h4, crcFrom_append, h5, crcFrom_append, h6, h7]
def header1 : Nat := 1 + 0xBE1FBCA * 2 ^ 96
def imaging : State := holding 0x480 [0, 0, 0x80, 0x3F] (holding 0x400 ((List.range 16).map fun j => BitVec.ofNat 8 (header1 / 256 ^ j))
  (here fun h => withX [(9, 0x400), (8, 0x401)] (tiled one 0 false h)))
theorem lines (i : Nat) (hi : i < 3) : StoresAt imaging (imageLine (imaging.getX 9) i) 128 (placeOf imaging (0x400 + 128 * i)) ∧
    Mapped imaging (imageLine (imaging.getX 9) i) .load page (placeOf imaging (0x400 + 128 * i)) ∧
    AtHome imaging (placeOf imaging (0x400 + 128 * i)) 128 := by
  refine ⟨⟨?_, ⟨page, ?_⟩, ?_, ?_⟩, ?_, ?_⟩
  all_goals obtain h | h | h : i = 0 ∨ i = 1 ∨ i = 2 := by omega
  all_goals subst h
  iterate 3 · decide +kernel
  iterate 3 · constructor <;> decide +kernel
  iterate 6 · decide +kernel
  iterate 3 · constructor <;> decide +kernel
  all_goals constructor <;> decide +kernel
theorem fresh_imaging : Fresh imaging := fresh_of (by decide +kernel)
theorem meets_FactorImages : FactorTile imaging 0 1 ∧ Fresh imaging ∧ (imaging.getX 9).toNat % 128 = 0 ∧
    ∀ i < 3, StoresAt imaging (imageLine (imaging.getX 9) i) 128 (placeOf imaging (0x400 + 128 * i)) :=
  ⟨by constructor <;> decide +kernel, fresh_imaging, by decide +kernel, fun i hi => (lines i hi).1⟩
theorem readsLine (i x : Nat) (hi : i < 3) (hx : x = seenNat imaging (placeOf imaging (0x400 + 128 * i)).key 128) :
    ReadsAs imaging (imageLine (imaging.getX 9) i) 128 x := ⟨(lines i hi).1.1, page, _, (lines i hi).2.1, (lines i hi).2.2, by
  obtain h | h | h : i = 0 ∨ i = 1 ∨ i = 2 := by omega
  all_goals subst h; decide +kernel, hx⟩
theorem meets_FactorImages_load : ReadsAs imaging (imageLine (imaging.getX 9) 0) 128 header1 ∧ header1 % 2 ^ 96 = 1 + 128 * imaged.broken.toNat ∧
    header1 / 2 ^ 96 % 2 ^ 32 = imageCrc 1 false (rowsOf imaged 1) ∧ imaged.val.toNat < 2 ^ (2048 * 1) ∧
    (∀ i < 2, ReadsAs imaging (imageLine (imaging.getX 9) (i + 1)) 128 (imaged.val.extractLsb' (1024 * i) 1024).toNat) ∧
    ∀ i < 1, ∀ j < 64, (j < i ∨ 1 ≤ j → cell imaged i j = 0) ∧ Claims.Finite (cell imaged i j) ∧ (i = j → cell imaged i j < 2 ^ 31) := by
  refine ⟨readsLine 0 _ (by decide) (by decide +kernel), by decide +kernel, crc1.symm ▸ by decide +kernel, by decide +kernel,
    fun i hi => readsLine (i + 1) _ (by omega) ?_, by unfold Claims.Finite; decide +kernel⟩
  obtain h | h : i = 0 ∨ i = 1 := by omega
  all_goals subst h; decide +kernel
theorem meets_FactorImages_misaligned : FactorTile imaging 0 1 ∧ imaging.h.ms.strip = none ∧ (imaging.getX 8).toNat % 128 ≠ 0 :=
  ⟨meets_FactorImages.1, rfl, by decide +kernel⟩

/-! Key-value sequences. -/

/-- A state whose first 2 MiB stand at their own addresses, with nothing in the way. -/
structure Low (s : State) : Prop where
  ident : s.h.id = {}
  quiet : s.oracle = [] ∧ s.dev.cmds = [] ∧ s.dev.errs = []
  walks : ∀ i < 32, s.walk s.h.id.tenant s.h.hr.ptroot (i * 65536) = .ok page
  accessed : bits (s.dev.mem.getNat 0x10000 8) 6 1 = 1
  extents : s.dev.extents = (here id).dev.extents
theorem walk_page (s : State) (t : Nat) (r : BitVec 52) (va : Nat) : s.walk t r va = s.walk t r (va / 65536 * 65536) := by
  have h : ∀ b n, s.walkFrom t va b n = s.walkFrom t (va / 65536 * 65536) b n := by
    intro b n
    induction n generalizing b with
    | zero => rfl
    | succ n ih =>
      have : bits va (16 + 12 * n) 12 = bits (va / 65536 * 65536) (16 + 12 * n) 12 := by
        unfold bits
        rw [show (2 : Nat) ^ (16 + 12 * n) = 65536 * 2 ^ (12 * n) by rw [Nat.pow_add], ← Nat.div_div_eq_div_mul, ← Nat.div_div_eq_div_mul,
          Nat.mul_div_cancel _ (by decide)]
      unfold State.walkFrom
      simp only [ih, this]
  unfold State.walk
  rw [h]
theorem low_region (va : Nat) (h : va < 0x200000) : regionOf va = .hbm := if_pos (by omega)
theorem low_pa (s : State) (va : Nat) (h : va < 0x200000) : (page.loc s s.h.ctx va).1 = va := by
  unfold Leaf.loc
  dsimp only
  rw [show page.size = 0x40000000 by decide, show bits page.pte 16 36 = 0 by decide]
  omega
theorem low_key (s : State) (va : Nat) (h : va < 0x200000) : (placeOf s va).key = va := by
  have e := low_pa s va h
  unfold Leaf.loc at e
  dsimp only at e
  unfold placeOf Leaf.loc
  dsimp only
  rw [e]
  unfold Device.homeOf
  rw [low_region va h]
theorem low_mapped (s : State) (l : Low s) (va : Nat) (h : va < 0x200000) (k : Kind) : Mapped s va k page (placeOf s va) where
  address := ⟨by omega, by simp [inWindow]; omega⟩
  walk := by rw [walk_page]; exact l.walks _ (by omega)
  permits := by cases k <;> decide
  resident := by decide
  accessed := l.accessed
  dirty _ := by decide
  place := rfl
  grant := by
    rw [low_pa s va h, l.ident]
    unfold Device.grants
    rw [low_region va h, l.extents]
    have : va / 0x10000 ≤ 0xFFFF := by omega
    cases k <;> simp [here, this]
  idempotent := by
    have e : (placeOf s va).attr = if forcedNonidem (placeOf s va).key then 2 else bits page.pte 10 3 := by unfold placeOf Leaf.loc; dsimp only
    rw [e, low_key s va h, forcedNonidem, low_region va h]
    decide
  choices := l.quiet.1
theorem low_home (s : State) (l : Low s) (va n : Nat) (h : va < 0x200000) (hn : va % 128 + n ≤ 128) : AtHome s (placeOf s va) n := by
  constructor
  · rw [low_key s va h]; exact .inl (low_region va h)
  · rw [low_key s va h]; exact hn
  · unfold Device.owned; rw [l.quiet.2.1]; rfl
  · unfold Device.bad; rw [l.quiet.2.2]; rfl
theorem low_lies (s : State) (l : Low s) (va n : Nat) (h : va < 0x200000) (ha : va % n = 0) (hn : va % 128 + n ≤ 128) (w : Bool) :
    Lies s va n va w :=
  ⟨ha, page, placeOf s va, low_mapped s l va h _, low_key s va h, low_home s l va n h hn, fun _ => ⟨page, low_mapped s l va h _⟩⟩
theorem low_spread (s : State) (l : Low s) (va n : Nat) (h : va + n ≤ 0x200000) : Spread s va n (fun j => va + j) :=
  ⟨fun j hj => ⟨page, page, placeOf s (va + j), low_mapped s l _ (by omega) _, low_mapped s l _ (by omega) _, low_key s _ (by omega),
    low_home s l _ 1 (by omega) (by omega)⟩, fun i _ j _ e => by simpa using e⟩

/-- A descriptor of one pair and one entry, D = 64, blocks from 0x100000 on, table at 0x600, drafts at 0x2000: LEN, DLEN,
CAPLEN. -/
def seqWord (len dlen caplen : Nat) : Nat := 0x100000 + 0x600 * 2 ^ 64 + 0x2000 * 2 ^ 128 + len * 2 ^ 192 + dlen * 2 ^ 224 + 2 ^ 288 + 2 ^ 320 +
  caplen * 2 ^ 352
/-- That descriptor at 0x400 and, of length 0, at 0x440; the table's entry; bytes 0-5 of the block's META. -/
def kv (len dlen caplen : Nat) (entry meta' : List Byte) (l : List (Reg × Word)) (f : Hart → Hart := id) : State :=
  holding 0x100000 meta' (holding 0x600 entry (holding 0x440 (toBytes 64 (seqWord 0 0 0)) (holding 0x400 (toBytes 64 (seqWord len dlen caplen))
    (withDev (fun d => { d with kvLines := [8192], tenants := [{ num := 0, live := true, poolBase := 0x100000, poolSize := 1 }] })
      (here (f ∘ withX ([(9, 0x400), (8, 0x440)] ++ l)))))))
def live : List Byte := [0, 0, 0, 0, 0, 1]
theorem legal (w : Nat) (hw : w < 2 ^ 384)
    (h : ∀ i < 384, (i = 231 ∨ i = 238 ∨ i = 239 ∨ (265 ≤ i ∧ i < 288) ∨ (304 ≤ i ∧ i < 320)) → w.testBit i = false)
    (hd : w / 2 ^ 260 % 4 ≠ 3 ∧ w / 2 ^ 224 % 2 ^ 7 ≤ 64) : LegalSeq w :=
  ⟨fun i hi => if h' : i < 384 then h i h' (by omega) else
    Nat.testBit_lt_two_pow (Nat.lt_of_lt_of_le hw (Nat.pow_le_pow_right (by decide) (by omega))), hd⟩
theorem legal_seq (n d c : Nat) (h : (n, d, c) ∈ [(0, 0, 0), (1, 0, 0), (0, 1, 0), (0, 0, 32)]) : LegalSeq (seqWord n d c) := by
  simp only [List.mem_cons, Prod.mk.injEq, List.not_mem_nil, or_false] at h
  obtain ⟨h, h', h''⟩ | ⟨h, h', h''⟩ | ⟨h, h', h''⟩ | ⟨h, h', h''⟩ := h
  all_goals subst h; subst h'; subst h''; exact legal _ (by decide +kernel) (by decide +kernel) (by decide +kernel)
theorem fresh_kv (s : State) (h : s.h.ms.strip = none ∧ s.h.vc.vstart = 0 ∧ s.h.sy.units = [] ∧ s.h.ms.storeQ = [] ∧ s.h.ms.fabricQ = [] ∧
    s.oracle = [] ∧ s.dev.mem.wf = true ∧ (s.h.sy.mon = none ∧ s.h.ms.bound = []) ∧ s.others = [] ∧ s.dev.writeWatch = [] ∧ s.dev.errs = []) : KvFresh s :=
  have ⟨h1, h2, h3, h4, h5, h6, h7, h8, h9, h10, h11⟩ := h
  ⟨h1, ⟨h2, by rw [h3]; exact nofun⟩, ⟨h4, h5⟩, h6, h7, ⟨by rw [h9]; intro x hx; rw [List.mem_singleton.mp hx, h8.2]; exact ⟨h8.1, nofun⟩, h10⟩, h11⟩

/-! The position 0 of one token, in a block whose META marks it. -/
def present : State := kv 1 0 0 [] [1, 0, 0, 0, 1, 1] [] (vectors 3 0 1)
theorem low_present : Low present := by constructor <;> decide +kernel
theorem meets_KvTranslates : KvFresh present ∧ present.h.ew = 64 ∧ present.h.vc.vl = 1 ∧ (8 : Reg).val % present.h.grp = 0 ∧
    SeqAt present (present.getX 9).toNat (seqWord 1 0 0) 0x400 false ∧ OnePair (sequenceOf (seqWord 1 0 0)) (present.getX 0).toNat 0 0 false 0 ∧
    ∃ r, Translated present (sequenceOf (seqWord 1 0 0)) 0 0 0 (present.h.elem 8 0 64) false (some r) := by
  refine ⟨fresh_kv _ (by decide +kernel), by decide +kernel, rfl, by decide +kernel, ⟨?_, by decide +kernel, legal_seq _ _ _ (by decide)⟩,
    by unfold OnePair; decide +kernel, _, .present 0x600 0 0x100000 (1 + 2 ^ 32 + 2 ^ 40) (by decide +kernel) (by decide +kernel) ?_ (by decide +kernel)
      (by decide +kernel) (by decide +kernel) ⟨?_, by decide +kernel, by unfold KnownMeta; decide +kernel⟩ (by decide +kernel)⟩
  · rw [show (present.getX 9).toNat = 0x400 by decide +kernel]; exact low_lies _ low_present _ _ (by decide) (by decide) (by decide) _
  · rw [show (sequenceOf (seqWord 1 0 0)).entry 0 0 (present.h.elem 8 0 64 / 32) = 0x600 by decide +kernel]
    exact low_lies _ low_present _ _ (by decide) (by decide) (by decide) _
  · rw [show (sequenceOf (seqWord 1 0 0)).block 0 = 0x100000 by decide +kernel]
    exact low_lies _ low_present _ _ (by decide) (by decide) (by decide) _

/-! An append to an empty block of an empty sequence, and a commit of one draft to it. -/
def empty : State := kv 0 0 0 [] live [] (vectors 1 0 128)
def drafted : State := kv 0 1 0 [] live [(7, 1)]
theorem low_empty : Low empty := by constructor <;> decide +kernel
theorem low_drafted : Low drafted := by constructor <;> decide +kernel
theorem takeable (s : State) (l : Low s) (q : Sequence) (hq : q = sequenceOf (seqWord 0 0 0) ∨ q = sequenceOf (seqWord 0 1 0)) (key : Nat → FVal)
    (hm : (∀ j < 4, homes s (0x100000 + j) = 0) ∧ homes s 0x100004 = 0 ∧ numAt (homes s ∘ fun j => 0x100000 + j) 0 16 / 2 ^ 40 % 2 ^ 12 = 1 ∧
      KnownMeta s 0x100000 ∧ numAt (homes s ∘ fun j => 0x100000 + j) 0 4 = 0) :
    Takeable s q (q.block 0) 0 0 key fun j => 0x100000 + j := by
  have hb : q.block 0 = 0x100000 ∧ q.stride = 4608 ∧ q.chk = false := by obtain h | h := hq <;> subst h <;> decide +kernel
  constructor
  · rw [hb.1, hb.2.1]; exact low_spread s l _ _ (by decide)
  · exact hm.2.2.2.1
  · exact hm.2.2.1
  · exact ⟨by decide, by rw [hm.2.1]; rfl⟩
  · rw [hm.2.2.2.2]; exact ⟨by decide, fun i _ h => by simp at h⟩
  · rw [hb.2.2]; exact nofun
  · exact fun _ _ _ t ht => absurd ht (by omega)
theorem meets_KvAppends : KvFresh empty ∧ empty.h.ew = 16 ∧ (4 : Reg).val % empty.h.grp = 0 ∧
    SeqAt empty (empty.getX 9).toNat (seqWord 0 0 0) 0x400 true ∧ OnePair (sequenceOf (seqWord 0 0 0)) (empty.getX 0).toNat 0 0 false 0 ∧
    empty.h.vc.vl = 2 * (sequenceOf (seqWord 0 0 0)).d ∧ (sequenceOf (seqWord 0 0 0)).dlen = 0 ∧ (empty.getX 0).toNat = (sequenceOf (seqWord 0 0 0)).len ∧
    (empty.getX 0).toNat / 32 < (sequenceOf (seqWord 0 0 0)).ne ∧ Lies empty ((sequenceOf (seqWord 0 0 0)).entry 0 0 0) 4 0x600 false ∧
    numAt (homes empty) 0x600 4 = 0 ∧ 0 < (sequenceOf (seqWord 0 0 0)).poolsz ∧
    ∀ key, Takeable empty (sequenceOf (seqWord 0 0 0)) ((sequenceOf (seqWord 0 0 0)).block 0) 0 0 key fun j => 0x100000 + j := by
  refine ⟨fresh_kv _ (by decide +kernel), by decide +kernel, by decide +kernel, ⟨?_, by decide +kernel, legal_seq _ _ _ (by decide)⟩,
    by unfold OnePair; decide +kernel, by decide +kernel, by decide +kernel, by decide +kernel, by decide +kernel, ?_, by decide +kernel,
    by decide +kernel, fun key => takeable _ low_empty _ (.inl rfl) key (by unfold KnownMeta; decide +kernel)⟩
  · rw [show (empty.getX 9).toNat = 0x400 by decide +kernel]; exact low_lies _ low_empty _ _ (by decide) (by decide) (by decide) _
  · rw [show (sequenceOf (seqWord 0 0 0)).entry 0 0 0 = 0x600 by decide +kernel]
    exact low_lies _ low_empty _ _ (by decide) (by decide) (by decide) _
theorem meets_KvAppends_commit : KvFresh drafted ∧ SeqAt drafted (drafted.getX 9).toNat (seqWord 0 1 0) 0x400 true ∧
    (sequenceOf (seqWord 0 1 0)).layers = 1 ∧ (sequenceOf (seqWord 0 1 0)).heads = 1 ∧ (drafted.getX 7).toNat = (sequenceOf (seqWord 0 1 0)).len + 1 ∧
    0 < (sequenceOf (seqWord 0 1 0)).dlen ∧ (drafted.getX 0).toNat = (sequenceOf (seqWord 0 1 0)).len ∧
    (∀ j < 4 * (sequenceOf (seqWord 0 1 0)).d, ∃ l c, Mapped drafted ((sequenceOf (seqWord 0 1 0)).draft 0 0 0 + j) .load l c ∧ c.key = 0x2000 + j ∧
      AtHome drafted c 1) ∧
    ∀ key, Takeable drafted (sequenceOf (seqWord 0 1 0)) ((sequenceOf (seqWord 0 1 0)).block 0) 0 0 key fun j => 0x100000 + j := by
  refine ⟨fresh_kv _ (by decide +kernel), ⟨?_, by decide +kernel, legal_seq _ _ _ (by decide)⟩, by decide +kernel, by decide +kernel,
    by decide +kernel, by decide +kernel, by decide +kernel, fun j hj => ?_, fun key => takeable _ low_drafted _ (.inr rfl) key (by unfold KnownMeta; decide +kernel)⟩
  · rw [show (drafted.getX 9).toNat = 0x400 by decide +kernel]; exact low_lies _ low_drafted _ _ (by decide) (by decide) (by decide) _
  · rw [show 4 * (sequenceOf (seqWord 0 1 0)).d = 256 by decide +kernel] at hj
    rw [show (sequenceOf (seqWord 0 1 0)).draft 0 0 0 = 0x2000 by decide +kernel]
    exact ⟨page, placeOf drafted (0x2000 + j), low_mapped _ low_drafted _ (by omega) _, low_key _ _ (by omega), low_home _ low_drafted _ _ (by omega) (by omega)⟩

/-! Eviction of position 0: absent, and one of two tokens present. -/
def absent : State := kv 1 0 0 [] live []
def twoTokens : State := kv 1 0 0 [] [3, 0, 0, 0, 2, 1] []
theorem low_absent : Low absent := by constructor <;> decide +kernel
theorem low_two : Low twoTokens := by constructor <;> decide +kernel
theorem meets_KvRemoves : KvFresh absent ∧ SeqAt absent (absent.getX 9).toNat (seqWord 1 0 0) 0x400 true ∧
    LegalScope (sequenceOf (seqWord 1 0 0)) (absent.getX 0).toNat ∧ (absent.getX 0).toNat < (sequenceOf (seqWord 1 0 0)).len ∧
    Translated absent (sequenceOf (seqWord 1 0 0)) 0 0 0 (absent.getX 0).toNat false none := by
  refine ⟨fresh_kv _ (by decide +kernel), ⟨?_, by decide +kernel, legal_seq _ _ _ (by decide)⟩,
    .inl ⟨0, 0, by unfold OnePair; decide +kernel⟩, by decide +kernel, .evicted 0x600 0 0x100000 (2 ^ 40) (by decide +kernel) (by decide +kernel) ?_ (by decide +kernel)
      (by decide +kernel) (by decide +kernel) ⟨?_, by decide +kernel, by unfold KnownMeta; decide +kernel⟩ (by decide +kernel)⟩
  · rw [show (absent.getX 9).toNat = 0x400 by decide +kernel]; exact low_lies _ low_absent _ _ (by decide) (by decide) (by decide) _
  · rw [show (sequenceOf (seqWord 1 0 0)).entry 0 0 ((absent.getX 0).toNat / 32) = 0x600 by decide +kernel]
    exact low_lies _ low_absent _ _ (by decide) (by decide) (by decide) _
  · rw [show (sequenceOf (seqWord 1 0 0)).block 0 = 0x100000 by decide +kernel]
    exact low_lies _ low_absent _ _ (by decide) (by decide) (by decide) _
theorem meets_KvRemoves_present : KvFresh twoTokens ∧ SeqAt twoTokens (twoTokens.getX 9).toNat (seqWord 1 0 0) 0x400 false ∧
    Lies twoTokens ((sequenceOf (seqWord 1 0 0)).entry 0 0 0) 4 0x600 true ∧ numAt (homes twoTokens) 0x600 4 = 0 ∧
    Spread twoTokens ((sequenceOf (seqWord 1 0 0)).block 0) (sequenceOf (seqWord 1 0 0)).stride (fun j => 0x100000 + j) ∧
    (numAt (homes twoTokens ∘ fun j => 0x100000 + j) 0 4 = 3) ∧ numAt (homes twoTokens ∘ fun j => 0x100000 + j) 0 16 / 2 ^ 40 % 2 ^ 12 = 1 := by
  refine ⟨fresh_kv _ (by decide +kernel), ⟨?_, by decide +kernel, legal_seq _ _ _ (by decide)⟩, ?_, by decide +kernel, ?_, by decide +kernel, by decide +kernel⟩
  · rw [show (twoTokens.getX 9).toNat = 0x400 by decide +kernel]; exact low_lies _ low_two _ _ (by decide) (by decide) (by decide) _
  · rw [show (sequenceOf (seqWord 1 0 0)).entry 0 0 0 = 0x600 by decide +kernel]
    exact low_lies _ low_two _ _ (by decide) (by decide) (by decide) _
  · rw [show (sequenceOf (seqWord 1 0 0)).block 0 = 0x100000 by decide +kernel,
      show (sequenceOf (seqWord 1 0 0)).stride = 4608 by decide +kernel]
    exact low_spread _ low_two _ _ (by decide)

/-! Entries: nothing to allocate; a grant of block 0; a fork. -/
def hollow (n : Nat) : State := kv 0 0 n [0xFF, 0xFF, 0xFF, 0xFF] [] [(7, 32)]
theorem low_hollow : Low (hollow 0) ∧ Low (hollow 32) := by constructor <;> constructor <;> decide +kernel
theorem meets_KvEntries : KvFresh (hollow 0) ∧ SeqAt (hollow 0) ((hollow 0).getX 9).toNat (seqWord 0 0 0) 0x400 true ∧
    SeqAt (hollow 0) ((hollow 0).getX 8).toNat (seqWord 0 0 0) 0x440 false ∧ Registered (hollow 0) (sequenceOf (seqWord 0 0 0)) ∧
    LegalScope (sequenceOf (seqWord 0 0 0)) ((hollow 0).getX 0).toNat ∧
    TableIs (hollow 0) (sequenceOf (seqWord 0 0 0)) (fun _ _ _ => 0xFFFFFFFF) (fun _ _ _ => 0x600) true ∧
    CoveredTo (sequenceOf (seqWord 0 0 0)) (fun _ _ _ => 0xFFFFFFFF) 0 := by
  refine ⟨fresh_kv _ (by decide +kernel), ⟨?_, by decide +kernel, legal_seq _ _ _ (by decide)⟩, ⟨?_, by decide +kernel, legal_seq _ _ _ (by decide)⟩,
    by unfold Registered; decide +kernel, .inl ⟨0, 0, by unfold OnePair; decide +kernel⟩, fun l hl h hh e he => ?_, by decide, nofun, fun _ => ?_⟩
  · rw [show ((hollow 0).getX 9).toNat = 0x400 by decide +kernel]; exact low_lies _ low_hollow.1 _ _ (by decide) (by decide) (by decide) _
  · rw [show ((hollow 0).getX 8).toNat = 0x440 by decide +kernel]; exact low_lies _ low_hollow.1 _ _ (by decide) (by decide) (by decide) _
  · obtain rfl : l = 0 := by have : (sequenceOf (seqWord 0 0 0)).layers = 1 := by decide +kernel
                             omega
    obtain rfl : h = 0 := by have : (sequenceOf (seqWord 0 0 0)).heads = 1 := by decide +kernel
                             omega
    obtain rfl : e = 0 := by have : (sequenceOf (seqWord 0 0 0)).ne = 1 := by decide +kernel
                             omega
    rw [show (sequenceOf (seqWord 0 0 0)).entry 0 0 0 = 0x600 by decide +kernel]
    exact ⟨low_lies _ low_hollow.1 _ _ (by decide) (by decide) (by decide) _, by decide +kernel, .inr (.inr rfl)⟩
  · exact ⟨0, by decide +kernel, 0, by decide +kernel, by decide⟩
theorem meets_KvEntries_full : (∀ e, (sequenceOf (seqWord 0 0 32)).caplen / 32 ≤ e → e < (((hollow 32).getX 7).toNat + 31) / 32 → False) ∧
    ((hollow 32).getX 7).toNat ≤ 32 * (sequenceOf (seqWord 0 0 32)).ne := by
  rw [show (sequenceOf (seqWord 0 0 32)).caplen = 32 by decide +kernel, show ((hollow 32).getX 7).toNat = 32 by decide +kernel]
  exact ⟨fun e h h' => by omega, by decide +kernel⟩
/-- Block 0 in the stash, and the state that its grant makes. -/
def stash0 : Stash := { die := 0, core := 0, ids := [0] }
def hollowed (entry : List Byte) : State :=
  holding 0x600 entry (holding 0x440 (toBytes 64 (seqWord 0 0 0)) (holding 0x400 (toBytes 64 (seqWord 0 0 0)) (here id)))
def granting : State := withDev (fun d => { d with stashes := [stash0] }) (kv 0 0 0 [0xFF, 0xFF, 0xFF, 0xFF] [] [(7, 32)])
def gave : State := withDev (fun d => { d with stashes := [{ stash0 with ids := [] }] }) (kv 0 0 0 [] live [(7, 32)])
theorem low_granting : Low granting ∧ Low gave := by constructor <;> constructor <;> decide +kernel
theorem meets_KvEntries_grant : StashOf granting stash0 ∧ stash0.ids = 0 :: [] ∧ (granting.getX 7).toNat = 32 * 0 + 32 ∧
    Spread granting ((sequenceOf (seqWord 0 0 0)).block 0) (sequenceOf (seqWord 0 0 0)).stride (fun j => 0x100000 + j) ∧
    gave = { granting with dev := { granting.dev with mem := gave.dev.mem, stashes := withStash granting stash0 { stash0 with ids := [] } } } ∧
    (∀ j < 128, homes gave (0x100000 + j) = if j = 5 then 1 else 0) ∧
    (∀ j < 128, homes gave (0x100000 + ((sequenceOf (seqWord 0 0 0)).trlAt + j)) = 0) ∧ numAt (homes gave) 0x600 4 = 0 ∧ gave.dev.mem.wf = true ∧
    SeqAt gave (granting.getX 9).toNat (seqWord 0 0 0) 0x400 true ∧ CoveredTo (sequenceOf (seqWord 0 0 0)) (fun _ _ _ => 0) 1 := by
  refine ⟨by unfold StashOf; decide +kernel, rfl, by decide +kernel, ?_, by decide +kernel, by decide +kernel, by decide +kernel,
    by decide +kernel, by decide +kernel, ⟨?_, by decide +kernel, legal_seq _ _ _ (by decide)⟩, by decide +kernel, fun _ _ _ _ _ _ => ?_, fun h => ?_⟩
  · rw [show (sequenceOf (seqWord 0 0 0)).block 0 = 0x100000 by decide +kernel,
      show (sequenceOf (seqWord 0 0 0)).stride = 4608 by decide +kernel]
    exact low_spread _ low_granting.1 _ _ (by decide)
  · rw [show (granting.getX 9).toNat = 0x400 by decide +kernel]; exact low_lies _ low_granting.2 _ _ (by decide) (by decide) (by decide) _
  · exact .inl (show 0 < (sequenceOf (seqWord 0 0 0)).poolsz by decide +kernel)
  · rw [show (sequenceOf (seqWord 0 0 0)).ne = 1 by decide +kernel] at h; cases h; contradiction
theorem outside (s : State) (hs : s.dev.mem.wf = true) (a : Nat) (bs : List Byte) (j : Nat) (h : ¬(a ≤ j ∧ j < a + bs.length)) :
    homes (holding a bs s) j = homes s j := by
  show (s.dev.mem.setBytes a bs).get j = s.dev.mem.get j
  rw [Memory.get_setBytes bs hs, if_neg h]
theorem meets_KvEntries_rest (j : Nat) (h : ∀ y < 128, j ≠ 0x100000 + y) (h' : ¬(0x600 ≤ j ∧ j < 0x600 + 4)) : homes gave j = homes granting j := by
  have hj : ¬(0x100000 ≤ j ∧ j < 0x100000 + 6) := fun hj => h (j - 0x100000) (by omega) (by omega)
  have e1 : gave.dev.mem = (holding 0x100000 live (hollowed [])).dev.mem := by decide +kernel
  have e2 : granting.dev.mem = (holding 0x100000 [] (hollowed [0xFF, 0xFF, 0xFF, 0xFF])).dev.mem := by decide +kernel
  unfold homes
  rw [e1, e2]
  change homes (holding 0x100000 live (hollowed [])) j = homes (holding 0x100000 [] (hollowed [0xFF, 0xFF, 0xFF, 0xFF])) j
  rw [outside _ (by decide +kernel) _ _ _ hj, outside _ (by decide +kernel) _ _ _ (by simp)]
  unfold hollowed
  rw [outside _ (by decide +kernel) 0x600 [] j (by simp), outside _ (by decide +kernel) 0x600 [0xFF, 0xFF, 0xFF, 0xFF] j h']

theorem meets_KvChecks : KvForm (here (withX [(9, 0x401)])) (.kvfork 5 9 8) 9 ∧ strip400.h.ms.strip.isSome = true ∧ KvFresh (here (withX [(9, 0x401)])) ∧
    ((here (withX [(9, 0x401)])).getX 9).toNat % 64 ≠ 0 := ⟨.kvfork 5 9 8, rfl, fresh_kv _ (by decide +kernel), by decide +kernel⟩
/-- Bit 231 of the descriptor is 1. -/
theorem meets_KvChecks_desc : ¬LegalSeq (2 ^ 231) ∧ numAt (homes (holding 0x41C [0x80] (here id))) 0x400 64 = 2 ^ 231 ∧
    Low (holding 0x41C [0x80] (here id)) :=
  ⟨fun h => absurd (h.1 231 (.inl rfl)) (by decide +kernel), by decide +kernel, by constructor <;> decide +kernel⟩

/-- A stash that has asked, of a tenant with one free block. -/
def asked : Stash := { die := 0, core := 0, asked := 32 }
def refilling : State := withDev (fun d => { d with stashes := [asked], tenants := [{ num := 0, live := true, freeIds := [3] }] }) (here id)
theorem meets_StashRefill : asked ∈ refilling.dev.stashes ∧ (∀ y ∈ refilling.dev.stashes, y.die = asked.die → y.core = asked.core → y = asked) ∧
    asked.asked ≠ 0 ∧ asked.askedFor = asked.tenant ∧ [3].Nodup ∧ [3].length ≤ asked.asked ∧
    (∀ i ∈ [3], i ∈ (refilling.dev.tenant asked.tenant).freeIds) := by decide +kernel
theorem meets_StashRefill_dry : ((withDev (fun d => { d with stashes := [asked] }) (here id)).dev.tenant 0).freeIds = [] ∧
    (withDev (fun d => { d with stashes := [asked] }) (here id)).dev.coldest 0 = none := by decide +kernel

/-! Accesses of any home and alignment. -/

/-- x9 = 0x3FD: the eight bytes there cross a line. -/
def atEdge : State := here (withX [(9, 0x3FD), (5, 0x1122334455667788)])
theorem placedEdge (k : Kind) : Placed atEdge 0x3FD 8 k (placeOf atEdge 0x3FD) :=
  .page page (by cases k <;> constructor <;> decide +kernel) (by decide) (by decide +kernel)
theorem meets_ScalarLoads_edge : ScalarLoad atEdge (.ld64 6 9 0) 6 0x3FD 8 false 4 ∧ Placed atEdge 0x3FD 8 .load (placeOf atEdge 0x3FD) ∧
    InMemory atEdge (placeOf atEdge 0x3FD) 8 ∧ Unwatched atEdge .load 0x3FD 8 :=
  ⟨.ld64 6 9 0, placedEdge .load, by constructor <;> decide +kernel, by decide +kernel, step_of (by decide +kernel)⟩
theorem meets_ScalarStores_edge : ScalarStore atEdge (.st64 5 9 0) 5 0x3FD 8 4 ∧ Placed atEdge 0x3FD 8 .store (placeOf atEdge 0x3FD) ∧
    Unwatched atEdge .store 0x3FD 8 ∧ atEdge.h.ms.strip = none ∧ (partsOf atEdge (placeOf atEdge 0x3FD) 0x3FD 8 0 none).length = 2 :=
  ⟨.st64 5 9 0, placedEdge .store, ⟨by decide +kernel, step_of (by decide +kernel)⟩, rfl, by decide +kernel⟩

/-- x9 names a byte of a scratch bank. -/
def atBank : State := banked bank0 [(9, 0x7F0000010001)]
theorem placedBank (k : Kind) (h : k = .load ∨ k = .store) : Placed atBank 0x7F0000010001 8 k { key := bankKey 0 0 4 1 } := by
  obtain rfl | rfl := h <;> exact .bank (by decide +kernel) (by decide) (by decide +kernel) (by decide +kernel) (by decide +kernel)
theorem meets_ScalarLoads_bank : ScalarLoad atBank (.ld64 6 9 0) 6 0x7F0000010001 8 false 4 ∧
    InMemory atBank { key := bankKey 0 0 4 1 } 8 ∧ Unwatched atBank .load 0x7F0000010001 8 ∧ Unwatched atBank .store 0x7F0000010001 8 :=
  ⟨.ld64 6 9 0, by constructor <;> decide +kernel, ⟨by decide +kernel, step_of (by decide +kernel)⟩, by decide +kernel, step_of (by decide +kernel)⟩

/-- The second GiB is at `pte`'s place, with grants for every frame. -/
def secondGiB (pte : List Byte) (s : State) : State :=
  withDev (fun d => { d with
    extents := [{ src := 0, idx := 0, base := 0, last := 0xFFFFFFFFF, w := true, y := true, v := true }] }) (holding 0x10020 pte s)
def leaf2 (pte : Nat) : Leaf := ⟨pte, 0x10020⟩
/-- It is NONIDEM, and x9 is not aligned. -/
def odd2 : State := secondGiB [0xDE, 0x0A, 0x00, 0x40] (here (withX [(9, 0x40000401)]))
theorem meets_MisalignedNonidem : InStep odd2 ∧ ScalarLoad odd2 (.ld64 6 9 0) 6 0x40000401 8 false 4 ∧
    ScalarStore odd2 (.st64 6 9 0) 6 0x40000401 8 4 ∧
    ∀ k ∈ [Kind.load, .store], Nonidem odd2 0x40000401 k (leaf2 0x40000ADE) ((leaf2 0x40000ADE).loc odd2 odd2.h.ctx 0x40000401).2 := by
  refine ⟨step_of (by decide +kernel), .ld64 6 9 0, .st64 6 9 0, fun k hk => ?_⟩
  simp only [List.mem_cons, List.not_mem_nil, or_false] at hk
  obtain rfl | rfl := hk <;> constructor <;> decide +kernel
/-- It is device 3's memory, which answers, or not. -/
def far (up : Bool) : State := withDev (fun d => { d with hosts := { d.hosts with domEn := true, peers := if up then 8 else 0 } })
  (secondGiB [0xDE, 0x02, 0x00, 0x00, 0x80, 0x01, 0x08] (here (withX [(9, 0x40000400)])))
theorem meets_RemoteLoads (up : Bool) : ∃ loc u, ScalarLoad (far up) (.ld64 6 9 0) 6 0x40000400 8 false 4 ∧
    Mapped (far up) 0x40000400 .load (leaf2 0x80180000002DE) loc ∧ OnDevice (far up) loc 8 3 ∧ Unwatched (far up) .load 0x40000400 8 ∧
    (far up).remoteAccess 3 = (up, u) ∧ (far up).dev.bad loc.key 8 = false := by
  refine ⟨((leaf2 0x80180000002DE).loc (far up) (far up).h.ctx 0x40000400).2, _, .ld64 6 9 0, ?_, ?_, ⟨?_, step_of ?_⟩,
    (show (far up).remoteAccess 3 = (up, ((far up).remoteAccess 3).2) from ?_), ?_⟩ <;> cases up
  iterate 4 · constructor <;> decide +kernel
  all_goals decide +kernel

/-! Vector loads and stores in strips. -/

/-- The hart of `mem32` in a strip, with `share` bytes for held stores. -/
def strip32 (share : Nat) : State := { mem32 with h :=
  let h := stripped mem32.h
  { h with ms := { h.ms with strip := h.ms.strip.map fun st => { st with share := share } } } }
theorem freshIn32 (share : Nat) : ∃ st, FreshIn (strip32 share) st ∧ st.share = share ∧ heldBytes st = 0 :=
  ⟨_, ⟨rfl, ⟨rfl, rfl⟩, ⟨by show 2 ≤ mem32.h.vlmax; decide +kernel, by show mem32.h.vlmax ≤ 16384; decide +kernel⟩, rfl, rfl, rfl, rfl, rfl, nofun⟩, rfl, rfl⟩
theorem readsIn (va : Nat) (h : va ∈ [0x400, 0x404, 0x0FFFFFFC]) : ReadsAs (strip32 2048) va (2 ^ 2) 0 := by
  simp only [List.mem_cons, List.not_mem_nil, or_false] at h
  refine ⟨?_, page, placeOf (strip32 2048) va, ?_, ?_, ?_, ?_⟩
  all_goals obtain h | h | h := h <;> subst h
  iterate 3 · decide +kernel
  iterate 3 · constructor <;> decide +kernel
  iterate 3 · constructor <;> decide +kernel
  all_goals decide +kernel
theorem claimed32 : ∃ h, Claimed (strip32 2048).h 8 (1 * (strip32 2048).h.grp) h :=
  ⟨_, _, rfl, by decide +kernel, rfl⟩
theorem legal32 : LegalAccess (strip32 2048) 8 1 2 false := by unfold LegalAccess; decide +kernel
theorem meets_StripLoads : ∃ legal addr, NativeLoad (strip32 2048) (.vld 8 9 true true 2 false) 8 1 true true 2 false false legal addr ∧ legal ∧
    ∀ k q, 0 ≤ k → k < 2 → q < 1 → ReadsAs (strip32 2048) (addr k q) (2 ^ 2) 0 := by
  refine ⟨_, _, .vld 8 9 true true 2 false (by decide), trivial, fun k q _ hk _ => ?_⟩
  obtain h | h : k = 0 ∨ k = 1 := by omega
  all_goals subst h; exact readsIn _ (by decide +kernel)
theorem meets_StripLoads_cut : ∃ legal addr, NativeLoad (strip32 2048) (.vld 8 10 false true 2 false) 8 1 false true 2 false false legal addr ∧
    legal ∧ ReadsAs (strip32 2048) (addr 0 0) (2 ^ 2) 0 ∧ (∀ k q, 1 ≤ k → k < 2 → q < 1 → inWindow (addr k q) = false) ∧
    addr 1 0 % 2 ^ 2 = 0 ∧ addr 1 0 < 2 ^ 52 ∧ ReadFault (strip32 2048) (addr 1 0) .xlate := by
  refine ⟨_, _, .vld 8 10 false true 2 false (by decide), trivial, readsIn _ (by decide +kernel), fun k q h1 h2 _ => ?_, by decide +kernel,
    by decide +kernel, .walk _ (by decide +kernel) (.inl rfl)⟩
  obtain rfl : k = 1 := by omega
  decide +kernel
theorem meets_StripLoads_first : ∃ legal addr, NativeLoad (strip32 2048) (.vld 8 11 false true 2 false) 8 1 false true 2 false false legal addr ∧
    legal ∧ (∀ k q, 0 ≤ k → k < 2 → q < 1 → inWindow (addr k q) = false) ∧
    addr 0 0 % 2 ^ 2 = 0 ∧ addr 0 0 < 2 ^ 52 ∧ ReadFault (strip32 2048) (addr 0 0) .xlate := by
  refine ⟨_, _, .vld 8 11 false true 2 false (by decide), trivial, fun k q _ h2 _ => ?_, by decide +kernel,
    by decide +kernel, .walk _ (by decide +kernel) (.inl rfl)⟩
  obtain rfl | rfl : k = 0 ∨ k = 1 := by omega
  all_goals decide +kernel
/-- A share of 8 bytes takes both elements, one of 4 the first alone. -/
theorem meets_StripStores (share : Nat) (h : share = 8 ∨ share = 4) :
    ∃ legal addr, NativeStore (strip32 share) (.vst 8 9 false false 2) 8 1 false 2 legal addr ∧ legal ∧
    LegalAccess (strip32 share) 8 1 2 false ∧ activeFrom (strip32 share).h false = [0] ++ 1 :: [] ∧
    ∀ k q, 0 ≤ k → k < 2 → q < 1 → StoresAt (strip32 share) (addr k q) (2 ^ 2) (placeOf (strip32 share) (0x400 + 4 * k)) := by
  refine ⟨_, _, .vst 8 9 false false 2 (by decide), trivial, ?_, ?_, fun k q _ hk _ => ⟨?_, ⟨page, ?_⟩, ?_, ?_⟩⟩
  · obtain rfl | rfl := h <;> unfold LegalAccess <;> decide +kernel
  · obtain rfl | rfl := h <;> decide +kernel
  all_goals obtain rfl | rfl := h <;> (obtain h | h : k = 0 ∨ k = 1 := by omega) <;> subst h
  iterate 4 · decide +kernel
  iterate 4 · constructor <;> decide +kernel
  all_goals decide +kernel
/-- No share is left for a scalar store. -/
theorem meets_StripHoldsStores_full : ScalarStore (strip32 4) (.st64 5 9 0) 5 0x400 8 4 ∧
    Placed (strip32 4) 0x400 8 .store (placeOf (strip32 4) 0x400) ∧ Unwatched (strip32 4) .store 0x400 8 ∧
    ∃ st, (strip32 4).h.ms.strip = some st ∧ st.share < (st.held.map fun x => x.part.bytes.length).sum + 8 :=
  ⟨.st64 5 9 0, .page page (by constructor <;> decide +kernel) (by decide) (by decide +kernel), ⟨by decide +kernel, step_of (by decide +kernel)⟩,
    _, rfl, by decide +kernel⟩

/-! Premises on failed stores, commands of a debugger, loads on their way. -/

theorem meets_noFailure : launching.h.ms.tierFail = none ∧ imaging.h.ms.tierFail = none ∧
    (here id).h.ms.tierFail = none ∧ (here id).h.ms.fabFail = none := ⟨rfl, rfl, rfl, rfl⟩
/-- A failed store is held: of another device, or of a page that was never promoted. -/
def failed (m t : Option Word) : State := { launching with h := { launching.h with ms := { launching.h.ms with fabFail := m, tierFail := t } } }
theorem meets_Launch_failed : (∃ c, LaunchRefused (failed (some 0x500) none) ((failed (some 0x500) none).getX 9).toNat c) ∧
    (∃ c, LaunchRefused (failed none (some 0x500)) ((failed none (some 0x500)).getX 9).toNat c) ∧
    InStep (failed (some 0x500) none) ∧ InStep (failed none (some 0x500)) :=
  ⟨⟨1, .queue (.inl (by decide +kernel))⟩, ⟨1, .queue (.inl (by decide +kernel))⟩, step_of (by decide +kernel), step_of (by decide +kernel)⟩
theorem meets_VsetLengths_mask : Vset (here exiting) (here exiting).h (.vsetvlm 5 3 1 0 false false) 5 1 0 false false fun _ => 0 := by
  have hz : ((here exiting).h.v[(3 : Reg)]).val = 0 := by decide +kernel
  refine .vsetvlm 5 3 1 0 false false _ (by decide +kernel) fun vm => ⟨Nat.zero_le _, fun h => absurd h (Nat.lt_irrefl _), fun k _ _ => ?_⟩
  rw [hz]
  exact BitVec.getLsbD_zero
/-- A load on its way to device 3, which answers. -/
def loading : State := { far true with h := { (far true).h with ms := { (far true).h.ms with
  loadQ := [(3, { pc := 0x200000, el := 0, key := 0x8018000000400, len := 8, bytes := none })] } } }
theorem meets_HartEvents_arriveLoad : ∃ P, HartEvent loading (fun g k => .arrive g k 3) P :=
  ⟨_, .arriveLoad 3 _ [] [] true (loading.remoteAccess 3).2 rfl nofun nofun (by decide +kernel)
    (show loading.remoteAccess 3 = (true, (loading.remoteAccess 3).2) by decide +kernel) (by decide +kernel)⟩
theorem meets_DeviceEvents_dropped : ∃ P, DeviceEvent (here id) (.doorbellWrite (.vf 0) 2048) P :=
  ⟨_, .doorbellDropped (.vf 0) 2048 (.inl (by decide))⟩
/-- The extents of virtual function 1 grant no register. -/
theorem meets_DeviceEvents_refused : ∃ P, DeviceEvent (here id) (.doorbellWrite (.vf 1) 0) P := by
  refine ⟨_, .doorbellDropped (.vf 1) 0 (.inr (.inl ?_))⟩
  rintro (⟨p, h⟩ | h | ⟨t, ⟨⟩, h⟩)
  · cases h
  · cases h
  · exact absurd h (by decide +kernel)
/-- The Causeway core is halted; DCSR.step is 1, or 0. -/
def cored (step : Bool) : State := withDev (fun d => { d with
  hosts := { d.hosts with dbgopen := true }
  causeway := { d.causeway with halted := true, dcsr := if step then 0x40000007 else 0x40000003 } }) (here id)
theorem meets_DeviceEvents_cored (step : Bool) : (∃ P, DeviceEvent (cored step) (.haltRequest 8 0) P) ∧
    (∃ P, DeviceEvent (cored step) (.resumeRequest 8 0) P) ∧ (cored step).dev.causeway.dcsr.getLsbD 2 = step :=
  ⟨⟨_, .haltHalted rfl rfl⟩, ⟨_, .resumeCauseway rfl rfl⟩, by cases step <;> decide +kernel⟩

/-! ### Single steps

The expected values are the spec's worked examples, or computed by hand from the rule named. -/

/-- `exec` goes on to a state of which `p` holds. -/
noncomputable def gives (i : Instr) (s : State) (p : State → Bool) : Bool :=
  match exec i s with
  | .next t => p t
  | _ => false

/-- R283: -2^63 + -2^63 wraps, the upper word of (-1)(-1) unsigned, -7 by 2 and by 0. -/
def numbers : State := here (withX [(5, 0x8000000000000000), (6, -1), (7, -7), (8, 2)])
theorem test_add_wraps : gives (.add 9 5 5) numbers (fun t => t.getX 9 == 0) = true := by decide +kernel
theorem test_mulh : gives (.mulhZ 9 6 6) numbers (fun t => t.getX 9 == -2) = true := by decide +kernel
theorem test_div : gives (.divS 9 7 8) numbers (fun t => t.getX 9 == -3) = true := by decide +kernel
theorem test_rem_by_zero : gives (.remS 9 7 0) numbers (fun t => t.getX 9 == -7) = true := by decide +kernel
theorem test_div_overflows : gives (.divS 9 5 6) numbers (fun t => t.getX 9 == 0x8000000000000000) = true := by decide +kernel
/-- R8, R16: x0 discards its writes. -/
theorem test_zero_register : gives (.add 0 6 6) numbers (fun t => t.getX 0 == 0 && t.h.pc == 0x200004) = true := by decide +kernel
/-- R289: the example of `c.beqz` branches 13 parcels back. -/
theorem test_branch_back : gives (.cBeqz 9 (-13)) numbers (fun t => t.h.pc == 0x1FFFE6) = true := by decide +kernel

/-- R284, R11: 0.1 + 0.2 in binary32 and boxed; an unboxed operand reads as NaN. -/
theorem test_fadd : gives (.fadd 9 5 6 1) (here (withX [(5, 0xFFFFFFFF3DCCCCCD), (6, 0xFFFFFFFF3E4CCCCD)]))
    (fun t => t.getX 9 == 0xFFFFFFFF3E99999A) = true := by decide +kernel
theorem test_unboxed : gives (.fadd 9 5 6 1) (here (withX [(5, 0x3DCCCCCD), (6, 0xFFFFFFFF3E4CCCCD)]))
    (fun t => t.getX 9 == 0xFFFFFFFF7FC00000) = true := by decide +kernel

/-- R141: row pointers 0, 3, 4, 4, 9, 15, 20 at e64. -/
def csr : State := holding 0x400 ([0, 3, 4, 4, 9, 15, 20].flatMap fun x => toBytes 4 x)
  (here fun h => { withX [(10, 0x400), (11, 6)] h with vc := { h.vc with cap := 0 } })
theorem test_vsetfl : gives (.vsetfl 7 10 11 3 0 false false)
    { csr with h := { csr.h with hr := { csr.h.hr with vlcap := 0 } } }
    (fun t => t.h.vc.vl == 15 && t.getX 7 == 5 && t.h.v[(0 : Reg)].val == 0x410C) = true := by decide +kernel

/-- R176: 0x7FFFFF00 and four products that cancel to -254. -/
def dots : State := here fun h => { vectors 2 0 1 h with
  v := h.v.set 4 { val := 0x7FFFFF00 } |>.set 8 { val := 0x80807F7F } |>.set 12 { val := 0x7F7F7F7F } }
theorem test_vdot4 : gives (.vdot4S ⟨4, 8, 12, false, false, false⟩) dots
    (fun t => t.h.elem 4 0 32 == 2147483138 && t.h.f.fxsat == false) = true := by decide +kernel

/-- R213: (3, 2, 4, 8) and (5, 1, 1, -2). -/
def merging : State := here fun h => { vectors 2 0 4 h with
  v := h.v.set 16 { val := 0x41000000408000004000000040400000 } |>.set 20 { val := 0xC00000003F8000003F80000040A00000 } }
theorem test_vsmmerge : gives (.vsmmerge 16 20 false) merging (fun t => (t.h.v[(16 : Reg)]).val == 0x00000000400000003FC0000040A00000) = true := by
  decide +kernel

/-- Chapter 12's worked example: rows (a, b) and (0, d) of a0 and two elements of v8, e32, VL = 2. -/
def square (a b d x y : Nat) : State := here fun h => { handled (vectors 2 0 2 h) with
  v := h.v.set 8 { val := BitVec.ofNat _ (x + y * 2 ^ 32) }
  t := { h.t with
    town := 1
    facN := 2
    tile := h.t.tile.set 0 { val := BitVec.ofNat _ (a + b * 2 ^ 32 + d * 2 ^ 2080), factor := true, n := 2 } } }
def three : Nat := 0x40400000
def four : Nat := 0x40800000
def five : Nat := 0x40A00000
def rowsAre (a b d : Nat) (t : State) : Bool :=
  t.h.t.tile[(0 : Tile)].val == BitVec.ofNat _ (a + b * 2 ^ 32 + d * 2 ^ 2080) && t.h.t.tile[(0 : Tile)].factor
theorem test_tfupd_first : gives (.tfupd 0 8) (square 0 0 0 three four) (rowsAre three four 0) = true := by decide +kernel
theorem test_tfupd_second : gives (.tfupd 0 8) (square three four 0 0 five) (rowsAre three four five) = true := by decide +kernel
theorem test_tfdnd : gives (.tfdnd 0 8 0) (square three four five 0 three) (rowsAre three four four) = true := by decide +kernel
/-- b = (21, 44). -/
theorem test_tfsolv : gives (.tfsolv 9 0 8 0) (square three four four 0x41A80000 0x42300000)
    (fun t => (t.h.v[(9 : Reg)]).val == 0x3F8000003F800000) = true := by decide +kernel
theorem test_tfdnd_loses : gives (.tfdnd 0 8 0) (square three four four 0 four) (fun t => rowsAre three four four t &&
    t.h.t.tile[(0 : Tile)].broken && t.h.hr.ecause == Cause.lostdef.code && t.h.hr.eelem == 1 && t.h.hr.eaddr == 0x4080000040800000 &&
    t.h.pc == 0x300000 && t.h.handler) = true := by decide +kernel

/-- The worked store of 4-bit codes with MX scales of chapter 8: FMT1 at 0x400, its scales at 0x480. -/
def mx : State := here fun h => { withX [(9, 0x400)] (vectors 2 0 32 h) with
  f := { h.f with fmt := (h.f.fmt.set 3 0x1401A1 |>.set 4 0x400 |>.set 5 0x480) }
  v := h.v.set 8 { val := 0x3E851EB841200000BF33333340400000 } }
def storedBytes (t : State) (a n : Nat) : List Byte := (List.range n).map fun j => seen t.h.ownStores (homes t (a + j)) (a + j)
theorem test_mx_store : gives (.vst 8 9 false false 5) mx (fun t => storedBytes t 0x400 2 == [0x93, 0x06] &&
    storedBytes t 0x480 1 == [0x80] && t.h.f.fflags == 0x03 && t.h.f.fepc == 0x200000) = true := by decide +kernel

/-- Chapter 3's worked walk. -/
def walking : State := holding 0x10000A818 (toBytes 8 0x0000000100010001) (holding 0x100000010 (toBytes 8 0x0000000100008001)
  (holding 0x100010038 (toBytes 8 0x000000205A30004E) (withDev (fun d => { d with
    mem := []
    extents := [{ src := 0, idx := 0, base := 0x10000, last := 0x1FFFF, w := false, y := true, v := true },
      { src := 0, idx := 1, base := 0x200000, last := 0x3FFFFF, w := true, y := true, v := true }] })
    (here fun h => { withX [(7, 9), (8, 0x0025030071234)] h with hr := { h.hr with ptroot := 0x100000000 } }))))
theorem test_walk : gives (.st32 7 8 0) walking (fun t => (t.h.ms.storeQ.map fun p => (p.key, p.bytes)) == [(0x205A301234, [9, 0, 0, 0])] &&
    t.dev.mem.getNat 0x100010038 8 == 0x205A3000CE) = true := by decide +kernel
theorem test_tprobe : gives (.tprobe 5 8 1) walking (fun t => t.getX 5 == 0x205A301234) = true := by decide +kernel

/-- R297, R324: a system call banks pc, VL, VTYPE and VSTART, and the handler runs with interrupts off. -/
def calling : State := here fun h => { handled (withX [(10, 77)] (vectors 2 0 9 h)) with hr := { (handled h).hr with hstat := { ie := true } } }
theorem test_trap : gives (.trap 10) calling (fun t => t.h.pc == 0x300000 && t.h.handler && t.h.hr.ecause == Cause.syscall.code &&
    t.h.hr.eaddr == 77 && t.h.hr.evl == 9 && !t.h.hr.hstat.ie && !t.h.hr.hstat.pm && !t.h.hr.hstat.ecmv) = true := by decide +kernel
/-- R290: an odd target raises MISALIGN, and no link is written. -/
theorem test_odd_target : gives (.jalr 1 5 0) (here fun h => handled (withX [(5, 0x1001)] h))
    (fun t => t.h.hr.ecause == Cause.misalign.code && t.getX 1 == 0) = true := by decide +kernel
/-- R324, R328: a handler that has not saved its bank loses it. -/
theorem test_bank_lost : gives (.trap 10) (here handling) (fun t => t.h.hr.hstat.vlost && t.h.hr.hstat.pm) = true := by decide +kernel

/-- R70: BITMAP 0xF5 and FILL 8; positions 6, 3 and 8 of a block at 0x100000: slot 4, absent, absent. -/
def mapped70 : State := kv 32 0 0 [] [0xF5, 0, 0, 0, 8, 1] [] fun h => { vectors 3 0 3 h with v := h.v.set 8 { val := 6 + 3 * 2 ^ 64 + 8 * 2 ^ 128 } }
theorem test_kvxl : gives (.kvxl 4 9 0 8) mapped70 (fun t => (t.h.v[(4 : Reg)]).val == 0x100000 + 256 + 4 * 64) = true := by decide +kernel
/-- R71: under E4M3, 460 is 448 and not clamped; 470 is clamped. -/
theorem test_quantise : (kvFmt 0).quant (f32.value 0x43E60000) 0 = (0x7E, false) ∧ (kvFmt 0).quant (f32.value 0x43EB0000) 0 = (0x7E, true) := by
  decide +kernel
/-- R66: the polynomial, the initial value and the final XOR, over the digits 1 to 9. -/
theorem test_crc : crc32c ([0x31, 0x32, 0x33, 0x34, 0x35, 0x36, 0x37, 0x38, 0x39] : List Byte) = 0xE3069283 := by decide +kernel
end Sys2Proof.Tests
end

section
/-! What the system forms do (R13-R17, R322, R323): an instruction that goes on, fields of words, the value and the
fields of every assigned register, and the checks in their order. -/

namespace Sys2Proof.Machine

open Sys2Proof.Claims

/-! ### Going on behind an instruction -/

/-- The address behind an instruction of `n` bytes, as a number. -/
theorem toNat_pc_add (p : BitVec 52) {n : Nat} (hn : n < 2 ^ 52) :
    (p.setWidth 64 + BitVec.ofNat 64 n).toNat = p.toNat + n := by
  have := p.isLt
  simp only [BitVec.toNat_add, BitVec.toNat_setWidth, BitVec.toNat_ofNat]
  omega

/-- `Hart.inLoop` decides R292's condition. -/
theorem inLoop_iff (s : State) : s.h.inLoop s.h.pc = true ↔ InBody s s.h.pc.toNat := by
  simp [Hart.inLoop, InBody, and_assoc]

/-- The test of `Hart.advance` for the end of a loop body. -/
theorem atLoopEnd_iff (s : State) {n : Nat} (hn : n < 2 ^ 52) :
    (s.h.inLoop s.h.pc && s.h.pc.setWidth 64 + BitVec.ofNat 64 n == s.h.lp.fin.setWidth 64) = true ↔
      InBody s s.h.pc.toNat ∧ s.h.pc.toNat + n = s.h.lp.fin.toNat := by
  have hf : (s.h.lp.fin.setWidth 64).toNat = s.h.lp.fin.toNat := by simp [BitVec.toNat_setWidth]; omega
  rw [Bool.and_eq_true, inLoop_iff, beq_iff_eq, ← BitVec.toNat_inj, toNat_pc_add _ hn, hf]

/-- `State.advance` goes on as R25 and R292 say. -/
theorem goesOn_advance (s : State) {n : Nat} (hn : n < 2 ^ 52) : GoesOn s (s.advance n) n := by
  have hend := atLoopEnd_iff s hn
  refine ⟨fun h => ?_, fun h => ?_⟩
  · have hfin : s.h.pc.setWidth 64 + BitVec.ofNat 64 n = s.h.lp.fin.setWidth 64 :=
      beq_iff_eq.mp (Bool.and_eq_true_iff.mp (hend.mpr h)).2
    simp only [State.advance, Hart.advance, if_pos (hend.mpr h)]
    rcases s.h.lp.count with _ | c
    · exact ⟨rfl, rfl⟩
    · by_cases hc : 1 < c
      · simp [hc]
      · simp [hc, Hart.goTo, hfin]
  · simp only [State.advance, Hart.advance, if_neg (mt hend.mp h), Hart.goTo_addr]
    exact ⟨toNat_pc_add _ hn, rfl⟩

/-- A state whose hart stands where that of `s` does goes on as an instruction that starts in `s`. -/
theorem done_advance {s u : State} {n : Nat} (hn : n < 2 ^ 52) (hpc : u.h.pc = s.h.pc) (hlp : u.h.lp = s.h.lp) :
    Done s u (u.advance n) n := by
  refine ⟨?_, ?_⟩
  · have h := goesOn_advance u hn
    simpa only [GoesOn, InBody, hpc, hlp] using h
  · rw [State.advance, ← Hart.advance_eq]

/-! ### Fields of words -/

theorem toNat_append_eq_add {m k : Nat} (x : BitVec m) (y : BitVec k) : (x ++ y).toNat = y.toNat + 2 ^ k * x.toNat := by
  rw [BitVec.toNat_append, ← Nat.shiftLeft_add_eq_or_of_lt y.isLt, Nat.shiftLeft_eq, Nat.mul_comm, Nat.add_comm]

/-- A field taken by `bits` is the one that `extractLsb'` takes. -/
theorem ofNat_bits (v : Word) (lo n : Nat) : BitVec.ofNat n (bits v.toNat lo n) = v.extractLsb' lo n := by
  apply BitVec.eq_of_toNat_eq
  simp [bits, Nat.shiftRight_eq_div_pow]

/-- A field of `n` bits above `k` zeros. -/
theorem ofNat_bits_mul (v : Word) (lo n k : Nat) :
    BitVec.ofNat (n + k) (bits v.toNat lo n * 2 ^ k) = v.extractLsb' lo n ++ (0 : BitVec k) := by
  apply BitVec.eq_of_toNat_eq
  have hlt : bits v.toNat lo n * 2 ^ k < 2 ^ (n + k) := by
    rw [Nat.pow_add]
    exact Nat.mul_lt_mul_of_pos_right (Nat.mod_lt _ (by positivity)) (by positivity)
  rw [toNat_append_eq_add, ← ofNat_bits, BitVec.toNat_ofNat, Nat.mod_eq_of_lt hlt, BitVec.toNat_ofNat, bits, Nat.mod_mod]
  simp [Nat.mul_comm]

/-- A number that is a field's, as a register's value. -/
theorem ofNat_eq_setWidth {m x : Nat} {b : BitVec m} (h : x = b.toNat) : BitVec.ofNat 64 x = b.setWidth 64 := by
  rw [h, BitVec.ofNat_toNat]

theorem frmWord_eq (f : FRegs) :
    BitVec.ofNat 64 (f.frm.toNat + 256 * f.fen.toNat) = (f.fen ++ (0 : BitVec 5) ++ f.frm).setWidth 64 := by
  apply ofNat_eq_setWidth
  simp only [toNat_append_eq_add, BitVec.ofNat_eq_ofNat, BitVec.toNat_ofNat]
  omega

theorem tshapeWord_eq (t : TileState) :
    BitVec.ofNat 64 (t.rows.toNat + 2 ^ 8 * t.cols.toNat + 2 ^ 16 * t.facN.toNat) =
      (t.facN ++ (0 : BitVec 1) ++ t.cols ++ (0 : BitVec 1) ++ t.rows).setWidth 64 := by
  apply ofNat_eq_setWidth
  simp only [toNat_append_eq_add, BitVec.ofNat_eq_ofNat, BitVec.toNat_ofNat]
  omega

theorem hstatWord_eq (x : Hstat) (tip : Bool) :
    BitVec.ofNat 64 (x.word tip) = (BitVec.ofBool x.dip ++ BitVec.ofBool tip ++ BitVec.ofBool x.ie ++ (0 : BitVec 3) ++
      BitVec.ofBool x.ecmv ++ BitVec.ofBool x.pm ++ BitVec.ofBool x.vlost ++ BitVec.ofBool x.stacked ++
      (0 : BitVec 1)).setWidth 64 := by
  apply ofNat_eq_setWidth
  simp only [Hstat.word, toNat_append_eq_add, BitVec.ofNat_eq_ofNat, BitVec.toNat_ofNat, BitVec.toNat_ofBool]
  omega

theorem ecauseWord_eq (intr : Bool) (c : BitVec 8) :
    BitVec.ofNat 64 (intr.toNat * 2 ^ 63 + c.toNat) = BitVec.ofBool intr ++ (0 : BitVec 55) ++ c := by
  apply BitVec.eq_of_toNat_eq
  have := c.isLt
  have := intr.toNat_le
  simp only [toNat_append_eq_add, BitVec.ofNat_eq_ofNat, BitVec.toNat_ofNat, BitVec.toNat_ofBool]
  omega

/-- VLCAP stores the number that R17 gives. -/
theorem toNat_capStored (v : Word) (cap : BitVec 4) :
    (capStored v cap).toNat = min (if 5 ≤ v.toNat % 16 then 4 else v.toNat % 16) cap.toNat := by
  have := cap.isLt
  simp only [capStored, bits, BitVec.toNat_ofNat, Nat.reducePow, Nat.div_one]
  exact Nat.mod_eq_of_lt (by omega)

/-! ### Register numbers -/

/-- The numbers that the tables of R13 and R14 list. -/
def Assigned (n : Nat) : Prop := n ≤ 0x1B ∨ (0x20 ≤ n ∧ n ≤ 0x2E) ∨ (0x100 ≤ n ∧ n ≤ 0x10F)

theorem assigned_of_taskReg {s : State} {h : Hart} {n : Nat} {w : Word} (hw : s.taskReg h n = some w) : Assigned n := by
  by_contra hn
  simp only [Assigned, not_or, not_and] at hn
  obtain ⟨h1, h2, h3⟩ := hn
  simp (disch := omega) only [State.taskReg, if_neg] at hw
  exact absurd hw nofun

theorem assigned_of_handlerReg {s : State} {h : Hart} {n : Nat} {w : Word} (hw : s.handlerReg h n = some w) :
    Assigned n := by
  unfold State.handlerReg at hw
  unfold Assigned
  split at hw <;> simp_all

/-- Exactly the assigned numbers have a value. -/
theorem isSome_sysReg_iff (s : State) (h : Hart) (n : Nat) : (s.sysReg h n).isSome = true ↔ Assigned n := by
  constructor
  · intro hs
    obtain ⟨w, hw⟩ := Option.isSome_iff_exists.mp hs
    unfold State.sysReg at hw
    split at hw
    · exact assigned_of_taskReg hw
    · exact assigned_of_handlerReg hw
  · rintro (hn | ⟨lo, hi⟩ | ⟨lo, hi⟩) <;> interval_cases n <;> rfl

theorem sysReg_eq_none_iff (s : State) (h : Hart) (n : Nat) : s.sysReg h n = none ↔ ¬Assigned n := by
  rw [← isSome_sysReg_iff s h n, Option.not_isSome_iff_eq_none]

/-! ### Values and writes of the registers -/

/-- The tables of R13 and R14 give a value to every number they list, where VSPEC is 0. -/
theorem exists_sysValue {s : State} {n : Nat} (hn : Assigned n) (hv : s.h.vc.vspec = false) : ∃ v, SysValue s n v := by
  rcases hn with hn | ⟨lo, hi⟩ | ⟨lo, hi⟩ <;> interval_cases n
  exacts [⟨_, .vl⟩, ⟨_, .vtype hv⟩, ⟨_, .vstart⟩, ⟨_, .vlmaxr⟩, ⟨_, .vff⟩, ⟨_, .vpx⟩, ⟨_, .fflags⟩, ⟨_, .frm⟩, ⟨_, .fxrnd⟩,
    ⟨_, .fxsat⟩, ⟨_, .fidx 0⟩, ⟨_, .fidx 1⟩, ⟨_, .fidx 2⟩, ⟨_, .fidx 3⟩, ⟨_, .fidx 4⟩, ⟨_, .fepc⟩,
    ⟨_, .fmt 0⟩, ⟨_, .fmt 1⟩, ⟨_, .fmt 2⟩, ⟨_, .fmt 3⟩, ⟨_, .fmt 4⟩, ⟨_, .fmt 5⟩, ⟨_, .fmt 6⟩, ⟨_, .fmt 7⟩, ⟨_, .fmt 8⟩,
    ⟨_, .fmt 9⟩, ⟨_, .fmt 10⟩, ⟨_, .fmt 11⟩,
    ⟨_, .rctrl⟩, ⟨_, .rctrh⟩, ⟨_, .rkey⟩, ⟨_, .tshape⟩, ⟨_, .town⟩, ⟨_, .hartid⟩, ⟨_, .gangid⟩, ⟨_, .gangsz⟩, ⟨_, .grank⟩,
    ⟨_, .cycle⟩, ⟨_, .time⟩, ⟨_, .sluice⟩, ⟨_, .caps0⟩, ⟨_, .caps1⟩, ⟨_, .kvstash⟩,
    ⟨_, .hstat⟩, ⟨_, .epc⟩, ⟨_, .ecause⟩, ⟨_, .eaddr⟩, ⟨_, .eelem⟩, ⟨_, .evl⟩, ⟨_, .evtype⟩, ⟨_, .evstart⟩, ⟨_, .hvec⟩,
    ⟨_, .ptroot⟩, ⟨_, .asid⟩, ⟨_, .vlcap⟩, ⟨_, .watch 0⟩, ⟨_, .watch 1⟩, ⟨_, .watch 2⟩, ⟨_, .watch 3⟩]

/-- Outside a strip `State.sysReg` gives every register its value. -/
theorem sysReg_of_sysValue {s : State} {n : Nat} {v : Word} (h : SysValue s n v) (hs : s.h.ms.strip = none) :
    s.sysReg s.h n = some v := by
  cases h with
  | vl | vlmaxr | vff | vpx | fepc | rctrl | rctrh | rkey | gangsz | grank | cycle | time | caps0 | caps1 | kvstash | eaddr
  | evtype => rfl
  | vstart | fflags | fxrnd | town | hartid | gangid | epc | eelem | evl | evstart | hvec | ptroot | asid | vlcap =>
    exact congrArg some (BitVec.ofNat_toNat ..)
  | vtype hv =>
    show some (vtypeWord _ _ _) = some (vtypeOf _ _)
    rw [hv]; rfl
  | frm => exact congrArg some (frmWord_eq s.h.f)
  | fxsat =>
    show some (BitVec.ofNat 64 s.h.f.fxsat.toNat) = _
    cases s.h.f.fxsat <;> rfl
  | tshape => exact congrArg some (tshapeWord_eq s.h.t)
  | sluice =>
    show some (BitVec.ofNat 64 s.h.sluice) = _
    rw [Hart.sluice, hs]; rfl
  | hstat =>
    refine congrArg some ((hstatWord_eq s.h.hr.hstat _).trans ?_)
    simp [bne, beq_eq_decide]
  | ecause => exact congrArg some (ecauseWord_eq s.h.hr.ecauseIntr s.h.hr.ecause)
  | fidx k | fmt k | watch k => fin_cases k <;> rfl

theorem assigned_of_sysWrite {s : State} {v : Word} {n : Nat} {g : Hart} (h : SysWrite s v n g) : Assigned n := by
  unfold Assigned
  cases h with
  | readOnly n hn => simp only [List.mem_cons, List.not_mem_nil, or_false] at hn; omega
  | _ => omega

/-- `State.writeSysReg` writes every register's fields and leaves the rest of the hart. -/
theorem writeSysReg_of_sysWrite {s : State} {v : Word} {n : Nat} {g : Hart} (h : SysWrite s v n g) :
    s.writeSysReg s.h n v = g := by
  cases h with
  | readOnly n hn =>
    simp only [List.mem_cons, List.not_mem_nil, or_false] at hn
    rcases hn with rfl | rfl | rfl | rfl | rfl | rfl | rfl | rfl | rfl | rfl | rfl | rfl | rfl | rfl <;> rfl
  | vff | vpx | fxsat | fepc | rctrl | rctrh | rkey | hstat | eaddr | evtype => rfl
  | vstart | fflags | fxrnd | ecause | eelem | evl | evstart | asid =>
    rw [← BitVec.setWidth_eq_extractLsb' (by decide)]; rfl
  | frm =>
    rw [← BitVec.setWidth_eq_extractLsb' (by decide), ← ofNat_bits]; rfl
  | tshape =>
    rw [← BitVec.setWidth_eq_extractLsb' (by decide), ← ofNat_bits, ← ofNat_bits]; rfl
  | epc | hvec => rw [evenAddr, ← ofNat_bits_mul]; rfl
  | ptroot => rw [← ofNat_bits_mul]; rfl
  | vlcap c hc =>
    rw [BitVec.eq_of_toNat_eq (hc.trans (toNat_capStored v _).symm)]; rfl
  | fidx k | fmt k | watch k => fin_cases k <;> rfl

theorem writeSysReg_keeps_position (s : State) {v : Word} {n : Nat} {g : Hart} (h : SysWrite s v n g) :
    g.pc = s.h.pc ∧ g.lp = s.h.lp := by
  cases h <;> exact ⟨rfl, rfl⟩

/-! ### The checks (R39, R254) -/

theorem run_noStrip {s : State} (hs : s.h.ms.strip = none) : noStrip.run s = (.ok (), s) := by
  simp [noStrip, run_bind, run_getH, hs, run_pure]

theorem run_noStrip_inStrip {s : State} (hs : s.h.ms.strip.isSome) :
    noStrip.run s = (.error (.trap .stripop 0 (s.h.pc.setWidth 64)), s) := by
  simp [noStrip, run_bind, run_getH, hs, run_trapInstr]

theorem run_handlerOnly_task {s : State} (hm : s.h.handler = false) :
    handlerOnly.run s = (.error (.trap .priv 0 (s.h.pc.setWidth 64)), s) := by
  simp [handlerOnly, run_bind, run_getH, hm, run_trapInstr]

theorem run_handlerOnly_inStrip {s : State} (hm : s.h.handler = true) (hs : s.h.ms.strip.isSome) :
    handlerOnly.run s = (.error (.trap .stripop 0 (s.h.pc.setWidth 64)), s) := by
  simp [handlerOnly, run_bind, run_getH, hm, run_noStrip_inStrip hs]

theorem run_sysCheck_unassigned {s : State} {n : Nat} (hn : ¬Assigned n) :
    (sysCheck n).run s = (.error (.trap .illegal 0 (s.h.pc.setWidth 64)), s) := by
  simp [sysCheck, run_bind, run_get, (sysReg_eq_none_iff s s.h n).mpr hn, run_trapInstr]

theorem run_sysCheck_task {s : State} {n : Nat} (lo : 0x100 ≤ n) (hi : n ≤ 0x10F) (hm : s.h.handler = false) :
    (sysCheck n).run s = (.error (.trap .priv 0 (s.h.pc.setWidth 64)), s) := by
  obtain ⟨v, hv⟩ := Option.isSome_iff_exists.mp ((isSome_sysReg_iff s s.h n).mpr (.inr (.inr ⟨lo, hi⟩)))
  simp [sysCheck, run_bind, run_get, hv, lo, hm, run_trapInstr]

theorem run_sysCheck {s : State} {n : Nat} {v : Word} (hv : s.sysReg s.h n = some v) (hm : 0x100 ≤ n → s.h.handler = true)
    (hs : s.h.ms.strip = none) : (sysCheck n).run s = (.ok v, s) := by
  have hmode : ¬(0x100 ≤ n ∧ (!s.h.handler) = true) := fun ⟨lo, h⟩ => by simp [hm lo] at h
  simp only [sysCheck, run_bind, run_get, hv, if_neg hmode, run_pure, run_noStrip hs]

/-! ### The instructions -/

theorem exec_mfsr (d : Reg) (n : BitVec 12) (s : State) : exec (.mfsr d n) s = runM (mfsr d n.toNat) s := rfl
theorem exec_mtsr (a : Reg) (n : BitVec 12) (s : State) : exec (.mtsr a n) s = runM (mtsr a n.toNat) s := rfl

/-- MFSR and MTSR trap where their check does. -/
theorem exec_sysForms_trap {s : State} {n : BitVec 12} {c : Cause} {e : Nat} {x : Word}
    (h : (sysCheck n.toNat).run s = (.error (.trap c e x), s)) (d a : Reg) :
    exec (.mfsr d n) s = .next (takeTrap c e x s) ∧ exec (.mtsr a n) s = .next (takeTrap c e x s) :=
  ⟨exec_mfsr d n s ▸ runM_trap (run_bind_error h), exec_mtsr a n s ▸ runM_trap (run_bind_error h)⟩

theorem exec_mfsr_ok {s : State} {n : BitVec 12} {v : Word} (h : (sysCheck n.toNat).run s = (.ok v, s)) (d : Reg) :
    exec (.mfsr d n) s = .next ((s.setX d v).advance 4) := by
  rw [exec_mfsr]
  exact runM_ok (run_bind_ok h)

theorem exec_mtsr_ok {s : State} {n : BitVec 12} {v : Word} (h : (sysCheck n.toNat).run s = (.ok v, s)) (a : Reg) :
    exec (.mtsr a n) s = .next (State.advance { s with h := s.writeSysReg s.h n.toNat (s.getX a) } 4) := by
  rw [exec_mtsr]
  exact runM_ok (run_bind_ok h)

/-- Every handler-only form begins with the same check. -/
theorem exec_handlerOnly {i : Instr} (h : HandlerOnly i) (s : State) :
    ∃ m : Unit → M Unit, exec i s = runM (handlerOnly >>= m) s := by
  cases h <;> exact ⟨_, rfl⟩

theorem exec_handlerOnly_trap {i : Instr} {s : State} {c : Cause} {e : Nat} {x : Word} (hi : HandlerOnly i)
    (h : handlerOnly.run s = (.error (.trap c e x), s)) : exec i s = .next (takeTrap c e x s) := by
  obtain ⟨m, hm⟩ := exec_handlerOnly hi s
  exact hm ▸ runM_trap (run_bind_error h)

/-! ### The statements -/

theorem systemRegisterReads : SystemRegisterReads := fun s d n v hv hs hm =>
  ⟨_, exec_mfsr_ok (run_sysCheck (sysReg_of_sysValue hv hs) hm hs) d,
    done_advance (by decide) (Hart.setX_pc ..) (Hart.setX_lp ..)⟩

theorem systemRegisterWrites : SystemRegisterWrites := by
  intro s a n g hw hs hm
  obtain ⟨v, hv⟩ := Option.isSome_iff_exists.mp ((isSome_sysReg_iff s s.h n.toNat).mpr (assigned_of_sysWrite hw))
  obtain ⟨hpc, hlp⟩ := writeSysReg_keeps_position s hw
  refine ⟨_, exec_mtsr_ok (run_sysCheck hv hm hs) a, ?_⟩
  rw [writeSysReg_of_sysWrite hw]
  exact done_advance (by decide) hpc hlp

/-- Settles O19: the check of MFSR and MTSR answers the register's value, and the write is the one of the tables. -/
theorem systemRegisters : Obligations.SystemRegisters := ⟨systemRegisterReads, systemRegisterWrites⟩

/-- Settles O20: the numbers without a value are those not assigned, and both kinds of form begin with their check. -/
theorem systemChecks : Obligations.SystemChecks := by
  refine fun s => ⟨fun d a n hn => ?_, fun d a n lo hi hm => ?_, fun i hi hm => ?_, fun i hi hm hs => ?_⟩
  · have hfree : ¬Assigned n.toNat := fun h => not_exists.mpr hn (exists_sysValue h rfl)
    exact exec_sysForms_trap (run_sysCheck_unassigned hfree) d a
  · exact exec_sysForms_trap (run_sysCheck_task lo hi hm) d a
  · exact exec_handlerOnly_trap hi (run_handlerOnly_task hm)
  · exact exec_handlerOnly_trap hi (run_handlerOnly_inStrip hm hs)

end Sys2Proof.Machine
end

section
/-! Decoding after encoding (R24-R39): the lemmas of `Laws.RoundTrip`, one for each instruction, put together. -/

namespace Sys2Proof.Laws.RoundTrip

/-- Settles O11, by the cases of the instruction: each has its own lemma, an event by having no word. -/
theorem roundTrip : Obligations.RoundTrip := fun i => i.casesOn (motive := Statement)
  -- scalar integers
  addi andi ori xori sltiS sltiZ slli srli srai rori lui addpc addiPxi andiPxi oriPxi xoriPxi sltiSPxi sltiZPxi luiPxi
  addpcPxi jalrPxi add sub and or xor sll srl sra sltS sltZ mul mulhS mulhZ divS divZ remS remZ minS minZ maxS maxZ
  andn clz ctz cpop madd addsh
  -- scalar floats
  fadd fsub fmul fdiv fsqrt fmin fmax fsgnj fsgnjn fsgnjx feq flt fle fclass fcvtiS fcvtiZ fcvtfS fcvtfZ fcvt fmadd
  fnmsub
  -- scalar memory accesses, atomics
  ld8Z ld16Z ld32Z ld64 ld8S ld16S ld32S st8 st16 st32 st64 ld8ZPxi ld16ZPxi ld32ZPxi ld64Pxi ld8SPxi ld16SPxi
  ld32SPxi st8Pxi st16Pxi st32Pxi st64Pxi ld8ZAq ld16ZAq ld32ZAq ld64Aq st8Rl st16Rl st32Rl st64Rl amoswap amoadd
  amoand amoor amoxor amominS amominZ amomaxS amomaxZ amocas fence
  -- the system
  mfsr mtsr wait sev trap tinvVa tinvAsid tinvAll tsync tprobe tret hxchg ecmrd ecmwr tmset dbrk spread spclr tmark
  -- control transfers
  beq bne bltS bgeS bltZ bgeZ jal jalr sloop
  -- compressed forms
  cAddi cLi cMv cAdd cSub cAnd cOr cXor cSlli cSrli cJr cLdsp cStsp cBeqz cBnez cJ
  -- vector lengths, vector memory accesses
  vsetvl vsetvli vsetvlm vsetfl vld vlds vldxu vldxo vldseg vldr vldm vldf vldfs vldfxu vldfxo vldfseg vst vsts vstxu
  vstxo vstseg vstr vstm
  -- vector integers, masks and permutes
  vadd vsub vrsub vminS vminZ vmaxS vmaxZ vand vor vxor vsll vsrl vsra vmul vmulhS vmulhZ vdivS vdivZ vremS vremZ
  vmacc vnmsac vmerge vmv vwaddS vwaddZ vwsubS vwsubZ vwmulS vwmulZ vwmaccS vwmaccZ vcrc vhash vsaddS vsaddZ vssubS
  vssubZ vaaddS vaaddZ vasubS vasubZ vsmulS vssraS vssrlZ vnclipS vnclipZ vnclipSu vdot4S vdot4Z vdot4Su vmseq vmsne
  vmsltS vmsltZ vmsleS vmsleZ vmsgtS vmsgtZ vmsgeS vmsgeZ vmand vmor vmxor vmandn vmorn vmnand vmnor vmxnor vcpop
  vfirst vmsbf vmsif vmsof vslideup vslidedown vslide1up vslide1down vrgather vcompress vexpand vid vmvXs vmvSx
  vscanadd vscanaddSg vsortkZ vsortkS vsortkdZ vsortkdS
  -- vector floats, reductions, special functions
  vfadd vfsub vfrsub vfmul vfdiv vfrdiv vfmin vfmax vfsgnj vfsgnjn vfsgnjx vfmacc vfnmacc vfmsac vfnmsac vmfeq vmfne
  vmflt vmfle vmfgt vmfge vfclass vfcvtiS vfcvtiZ vfcvtfS vfcvtfZ vfwcvt vfncvt vfwmacc vfdot2 vfredsum vfredsumO
  vfredmax vfredmin vfredsumSg vfscan vfscanO vfscanSg vfargmax vfargmin vredsum vredmaxS vredmaxZ vredminS vredminZ
  vredand vredor vredxor vredsumSg vexp2 vlog2 vrcp vrsqrt vsqrt vrand vrandf vcdfsel vsmmerge
  -- strips
  vstrip vstrend vexitI vexitB holdExpiry
  -- key-value sequences
  kvxl kvxlm kvapp kvcommit kvtrunc kvevict kvalloc kvfree kvfork stashRefillReply
  -- copy engines
  cpyLin cpy2d cpyGath cpyConv cpyFill cpywait cpyqry read write cpyFail cpyReissue
  -- banks and lines
  bmode bslot bqry fpush fpop lpfL2 lpfL1 lclean linv discard
  -- continuations
  crget park crfree promote tqry crqry
  -- launch and waits
  launch gbar signal waitge hend completionAdd
  -- tiles
  tzero tgl top trd twr tfinit tfupd tfdnd tfsolv tfrd tfwr tfsave tfload
  -- events of a hart, of memory and of the device
  timerInterrupt doorbellInterrupt doorbellWrite waitDeadline bind replay early drain arrive inboundAccess wakeWrite
  tHbmExpiry tCxlExpiry timerWheelTick pageMove promotionFail demotionFail tierwait relaunchSubmit recordCheck grant
  depPoll reservation preemption gangResume coreRetirement uncorrectableError hbmFrameRetirement l2WayDisable
  linkFailure
  -- the debug module and the host
  haltRequest resumeRequest accessRegister accessMemory traceSample stallCharge hsemWrite hostLinkDown qcfgWrite
  qstateWrite qtailWrite rheadWrite domcfgWrite peerCheck registerWrite tcreate tdestroy extset attest stage activate
  svnadv preempt functionLevelReset hotReset coldReset ready correctedError

/-- Settles O10: each word is the one that `encode` writes for its instruction, and that one is read back. -/
theorem specWordsDecode : Obligations.SpecWordsDecode := by
  refine ⟨?_, ?_, ?_, ?_, ?_, ?_, ?_, ?_, ?_, ?_, ?_, ?_⟩ <;> exact roundTrip _ _ rfl rfl

end Sys2Proof.Laws.RoundTrip
end

section
/-! Elements of vector groups (R46, R18): where element `i` lies, and what a write of it leaves of the others. -/

namespace Sys2Proof.Machine

/-! ### Fields of numbers -/

theorem testBit_bits (x lo n k : Nat) : (bits x lo n).testBit k = (decide (k < n) && x.testBit (lo + k)) := by
  simp [bits, Nat.testBit_mod_two_pow, Nat.testBit_div_two_pow, Nat.add_comm]

/-- `putBits` as the part below the field, the field and the part above it. -/
theorem putBits_eq (x lo w y : Nat) :
    putBits x lo w y = 2 ^ lo * (2 ^ w * (x / 2 ^ lo / 2 ^ w) + y % 2 ^ w) + x % 2 ^ lo := by
  have hlow := Nat.div_add_mod x (2 ^ lo)
  have hfld := Nat.div_add_mod (x / 2 ^ lo) (2 ^ w)
  have hx : x = 2 ^ lo * (2 ^ w * (x / 2 ^ lo / 2 ^ w)) + 2 ^ lo * bits x lo w + x % 2 ^ lo := by
    rw [bits, ← Nat.mul_add, hfld, hlow]
  rw [putBits, Nat.mul_comm (bits x lo w), Nat.mul_comm (y % 2 ^ w), Nat.mul_add]
  omega

theorem testBit_putBits (x lo w y k : Nat) :
    (putBits x lo w y).testBit k = if lo ≤ k ∧ k < lo + w then y.testBit (k - lo) else x.testBit k := by
  have hlow : x % 2 ^ lo < 2 ^ lo := Nat.mod_lt _ (by positivity)
  have hfld : y % 2 ^ w < 2 ^ w := Nat.mod_lt _ (by positivity)
  rw [putBits_eq, Nat.testBit_two_pow_mul_add _ hlow, Nat.testBit_two_pow_mul_add _ hfld]
  rcases lt_or_ge k lo with below | above
  · simp [below, Nat.testBit_mod_two_pow, show ¬lo ≤ k by omega]
  · rcases lt_or_ge k (lo + w) with inside | beyond
    · simp [above, inside, Nat.testBit_mod_two_pow, show ¬k < lo by omega, show k - lo < w by omega]
    · simp [Nat.testBit_div_two_pow, show ¬k < lo by omega, show ¬k - lo < w by omega, show ¬k < lo + w by omega,
        show k - lo - w + w + lo = k by omega]

/-- The field that was put. -/
theorem bits_putBits_same (x lo w y : Nat) : bits (putBits x lo w y) lo w = y % 2 ^ w := by
  apply Nat.eq_of_testBit_eq
  intro k
  rw [testBit_bits, testBit_putBits, Nat.testBit_mod_two_pow]
  by_cases hk : k < w <;> simp [hk]

/-- A field beside the one that was put. -/
theorem bits_putBits_apart {lo w lo' n : Nat} (x y : Nat) (h : lo' + n ≤ lo ∨ lo + w ≤ lo') :
    bits (putBits x lo w y) lo' n = bits x lo' n := by
  apply Nat.eq_of_testBit_eq
  intro k
  rw [testBit_bits, testBit_bits, testBit_putBits]
  by_cases hk : k < n
  · rw [if_neg (by omega)]
  · simp [hk]

/-- A field within the `m` bits that a word keeps of a number. -/
theorem bits_toNat_ofNat {lo n m : Nat} (x : Nat) (h : lo + n ≤ m) : bits (BitVec.ofNat m x).toNat lo n = bits x lo n := by
  apply Nat.eq_of_testBit_eq
  intro k
  rw [testBit_bits, testBit_bits, BitVec.toNat_ofNat, Nat.testBit_mod_two_pow]
  by_cases hk : k < n
  · simp [hk, show lo + k < m by omega]
  · simp [hk]

/-! ### Vector registers -/

/-- A field of a vector register after a write to it. -/
theorem bits_val_write {lo' n : Nat} (r : VReg) (lanes vlen lo w x : Nat) (h : lo' + n ≤ 16384) :
    bits (r.write lanes vlen lo w x).val.toNat lo' n = bits (putBits r.val.toNat lo w x) lo' n :=
  bits_toNat_ofNat _ h

theorem val_vreg {n : Nat} (h : n < 32) : (vreg n).val = n := Nat.mod_eq_of_lt h

/-- An element write changes the vector registers only. -/
theorem Hart.setElem_eq (h : Hart) (v i w x : Nat) : h.setElem v i w x = { h with v := (h.setElem v i w x).v } := rfl

/-- An element read after a write finds its register by the same length. -/
theorem Hart.elem_setElem_eq (h : Hart) (v i j w x : Nat) : (h.setElem v i w x).elem v j w =
    bits ((h.setElem v i w x).v[vreg (v + j / (h.vlen / w))]).val.toNat (j % (h.vlen / w) * w) w := rfl

theorem Hart.getElem_setElem_same {h : Hart} {v i w : Nat} {r : Reg} (x : Nat) (hr : r = vreg (v + i / (h.vlen / w))) :
    (h.setElem v i w x).v[r] = (h.v[r]).write h.id.lanes h.vlen (i % (h.vlen / w) * w) w x := by
  subst hr
  simp [Hart.setElem]

theorem Hart.getElem_setElem_ne {h : Hart} {v i w : Nat} {r : Reg} (x : Nat) (hr : r ≠ vreg (v + i / (h.vlen / w))) :
    (h.setElem v i w x).v[r] = h.v[r] := by
  simp only [Hart.setElem, Fin.getElem_fin]
  exact Vector.getElem_set_ne _ _ fun e => hr (Fin.ext e.symm)

/-! ### Elements -/

/-- A register has room for elements of every width, within its 16384 bits (R18). -/
theorem Hart.elems_fit {h : Hart} {w : Nat} (hw : w ∈ [1, 8, 16, 32, 64]) (hl : h.id.lanes ∈ [4, 8, 16]) :
    0 < h.vlen / w ∧ h.vlen / w * w ≤ 16384 := by
  have hpos : 0 < 2 ^ h.vc.cap.toNat := by positivity
  have hvlen : h.vlen = min (1024 * h.id.lanes) (1024 * 2 ^ h.vc.cap.toNat) := rfl
  simp only [List.mem_cons, List.not_mem_nil, or_false] at hw hl
  have hlo : 1024 ≤ h.vlen := by omega
  have hhi : h.vlen ≤ 16384 := by omega
  have hw0 : 0 < w ∧ w ≤ 1024 := by omega
  exact ⟨Nat.div_pos (hw0.2.trans hlo) hw0.1, (Nat.div_mul_le_self _ _).trans hhi⟩

/-- The field of element `i` of a register that holds `p` elements of `w` bits lies within them. -/
theorem elem_field_le {p : Nat} (i w : Nat) (hp : 0 < p) : i % p * w + w ≤ p * w := by
  rw [← Nat.succ_mul]
  exact Nat.mul_le_mul_right w (Nat.mod_lt i hp)

/-- Two elements in the same register lie apart. -/
theorem elem_fields_apart {i j p : Nat} (w : Nat) (hne : j ≠ i) (hreg : j / p = i / p) :
    j % p * w + w ≤ i % p * w ∨ i % p * w + w ≤ j % p * w := by
  have hmod : j % p ≠ i % p := fun e => hne (by rw [← Nat.div_add_mod j p, ← Nat.div_add_mod i p, hreg, e])
  simp only [← Nat.succ_mul]
  rcases Nat.lt_or_gt_of_ne hmod with lt | gt
  · exact .inl (Nat.mul_le_mul_right w lt)
  · exact .inr (Nat.mul_le_mul_right w gt)

section

variable {h : Hart} {v w : Nat} (hw : w ∈ [1, 8, 16, 32, 64]) (hl : h.id.lanes ∈ [4, 8, 16])
include hw hl

/-- The element that was written (R46). -/
theorem Hart.elem_setElem_same (i x : Nat) : (h.setElem v i w x).elem v i w = x % 2 ^ w := by
  obtain ⟨hp, hfit⟩ := Hart.elems_fit hw hl
  rw [Hart.elem_setElem_eq, Hart.getElem_setElem_same x rfl, bits_val_write _ _ _ _ _ _ ((elem_field_le i w hp).trans hfit),
    bits_putBits_same]

/-- Another element of the group (R46). -/
theorem Hart.elem_setElem_ne {i j : Nat} (x : Nat) (hi : v + i / (h.vlen / w) < 32) (hj : v + j / (h.vlen / w) < 32)
    (hne : j ≠ i) : (h.setElem v i w x).elem v j w = h.elem v j w := by
  obtain ⟨hp, hfit⟩ := Hart.elems_fit hw hl
  rw [Hart.elem_setElem_eq, Hart.elem]
  by_cases hreg : j / (h.vlen / w) = i / (h.vlen / w)
  · rw [Hart.getElem_setElem_same x (by rw [hreg]), bits_val_write _ _ _ _ _ _ ((elem_field_le j w hp).trans hfit),
      bits_putBits_apart _ _ (elem_fields_apart w hne hreg)]
  · rw [Hart.getElem_setElem_ne]
    intro e
    have := congrArg Fin.val e
    rw [val_vreg hi, val_vreg hj] at this
    omega

end

/-- Settles O23: fields of one register lie apart, and a write leaves every other register. -/
theorem elementAccess : Obligations.ElementAccess := by
  intro h v i j w x hw hl hi hj
  refine ⟨?_, fun r hr => Hart.getElem_setElem_ne x fun e => hr (e ▸ val_vreg hi), Hart.setElem_eq h v i w x⟩
  by_cases hji : j = i
  · rw [if_pos hji, hji, Hart.elem_setElem_same hw hl]
  · rw [if_neg hji, Hart.elem_setElem_ne hw hl x hi hj hji]

end Sys2Proof.Machine
end

section
/-! What a fetch does (R25, R41, R43, R56): the translation of a mapped address, the parcels of the word at the PC, and
the step of a hart that nothing disturbs. -/

namespace Sys2Proof.Machine

open Sys2Proof.Claims

/-! ### Translation of a mapped address (R56) -/

/-- Setting a bit of a number leaves every field beside it. -/
theorem bits_setBit {b lo n : Nat} (x : Nat) (h : lo + n ≤ b ∨ b < lo) :
    bits (if bits x b 1 = 1 then x else x + 2 ^ b) lo n = bits x lo n := by
  split
  case isTrue => rfl
  case isFalse hb =>
    have hput : x + 2 ^ b = putBits x b 1 1 := by
      have h0 : bits x b 1 = 0 := by
        have : bits x b 1 < 2 := Nat.mod_lt _ (by decide)
        omega
      simp [putBits, h0]
    rw [hput, bits_putBits_apart _ _ (by omega)]

/-- A leaf as an access has found it, with bit `b` of its entry set. -/
def Leaf.withBit (l : Leaf) (b : Nat) : Leaf := { l with pte := if bits l.pte b 1 = 1 then l.pte else l.pte + 2 ^ b }

/-- A bit that the leaf's home has set is not set again (R54). -/
theorem State.orLeaf_of_set {s : State} {l : Leaf} {b : Nat} (h : bits (s.dev.mem.getNat l.ptea 8) b 1 = 1) :
    s.orLeaf l b = (s, l.withBit b) := by
  simp [State.orLeaf, h, Leaf.withBit]

/-- The A bit of an entry bears on nothing else that a translation asks of it. -/
theorem Leaf.bits_withA {l : Leaf} {lo n : Nat} (h : lo + n ≤ 6 ∨ 6 < lo) :
    bits (l.withBit 6).pte lo n = bits l.pte lo n :=
  bits_setBit l.pte h

theorem Leaf.tiered_withA (l : Leaf) : (l.withBit 6).tiered = l.tiered := by
  have h : bits (l.withBit 6).pte 0 2 = bits l.pte 0 2 := Leaf.bits_withA (.inl (by decide))
  simp only [bits, pow_zero, Nat.div_one] at h
  exact congrArg (· == 3) h

theorem Leaf.size_withA (l : Leaf) : (l.withBit 6).size = l.size :=
  congrArg pageSize (Leaf.bits_withA (.inr (by decide)))

theorem Leaf.loc_withA (l : Leaf) (s : State) (c : Ctx) (va : Nat) : (l.withBit 6).loc s c va = l.loc s c va := by
  simp only [Leaf.loc, Leaf.size_withA, Leaf.sz]
  simp (disch := decide) only [Leaf.bits_withA]

theorem Leaf.allowed_withA (l : Leaf) (k : Kind) : allowed (l.withBit 6).pte k = allowed l.pte k := by
  cases k <;> simp (disch := decide) only [allowed, Leaf.bits_withA]

section

variable {s : State} {va : Nat} {k : Kind} {l : Leaf} {loc : Loc}

theorem run_choose_default (h : s.oracle = []) : choose.run s = (.ok 0, s) := by
  simp only [choose]
  rw [run_bind_ok (run_get s), h]
  rfl

/-- What a translation checks of the place behind a mapped leaf. -/
theorem mapped_loc (m : Mapped s va k l loc) : (l.loc s s.h.ctx va).2 = loc ∧
    s.dev.grants s.h.ctx.tenant (l.loc s s.h.ctx va).1 k = true ∧ loc.attr ≠ 2 :=
  ⟨m.place.symm, m.grant, Nat.ne_of_lt m.idempotent⟩

/-- The walk by default: afresh, and nothing is kept (R59). -/
theorem run_lookup_mapped (m : Mapped s va k l loc) : (lookup s.h.ctx va k).run s = (.ok (.ok (l.withBit 6)), s) := by
  have hwalk : (lookup.walkIt s.h.ctx va 0 s).run s = (.ok (.ok (l.withBit 6)), s) := by
    have hw : s.walk s.h.ctx.tenant s.h.ctx.root va = .ok l := m.walk
    simp only [lookup.walkIt, hw, m.resident, State.orLeaf_of_set m.accessed]
    rfl
  unfold lookup
  rw [run_bind_ok (run_choose_default m.choices), run_bind_ok (run_get s)]
  dsimp only
  split <;> exact hwalk

/-- A mapped address translates to its place, and nothing changes. -/
theorem run_translateAt_mapped (m : Mapped s va k l loc) (bad : Loc → Bool) (hbad : bad loc = false) (n : Nat) :
    (translateAt bad s.h.ctx va k n).run s = (.ok (.ok loc), s) := by
  obtain ⟨hva, hwin⟩ := m.address
  obtain ⟨hplace, hgrant, hattr⟩ := mapped_loc m
  have hdirty : ¬((k = .store ∨ k = .amo) ∧ bits l.pte 7 1 = 0) := fun ⟨hk, h0⟩ => by
    rw [m.dirty hk] at h0
    exact absurd h0 (by decide)
  have hwith : bits (l.withBit 6).pte 7 1 = bits l.pte 7 1 := Leaf.bits_withA (.inr (by decide))
  unfold translateAt
  rw [if_neg (not_not.mpr (Nat.div_eq_of_lt hva)), if_neg (by simp [hwin]), run_bind_ok (run_lookup_mapped m)]
  dsimp only
  rw [Leaf.allowed_withA, m.permits, if_neg (by decide), Leaf.tiered_withA, m.resident, if_neg (by decide),
    run_bind_ok (run_get s), Leaf.loc_withA]
  simp only [hplace, hgrant, hattr, hbad, hwith, hdirty, false_and, Bool.not_true, Bool.false_eq_true, or_self, if_false]
  rfl

/-- An access of a hart to a mapped address finds its place. -/
theorem run_translateH_mapped (m : Mapped s va k l loc) (el n : Nat) (spec : Bool) :
    (translateH el va k n spec).run s = (.ok loc, s) := by
  unfold translateH translateHAt
  rw [run_bind_ok (run_getH s), run_bind_ok (run_translateAt_mapped m _ rfl n)]
  rfl

theorem walkFrom_of_walk {tenant : Nat} {root : BitVec 52} (h : s.walk tenant root va = .ok l) :
    s.walkFrom tenant va (root.toNat / 2 ^ 15 * 2 ^ 15) 3 = .ok l := by
  unfold State.walk at h
  split at h
  case h_1 l' hl => split at h <;> simp_all
  case h_2 => exact absurd h nofun

/-- A probe of a mapped address finds the same place (R61). -/
theorem probe_mapped (m : Mapped s va k l loc) :
    s.probe s.h.ctx va k = .ok (loc, (l.loc s s.h.ctx va).1, false) := by
  obtain ⟨hva, hwin⟩ := m.address
  obtain ⟨hplace, hgrant, hattr⟩ := mapped_loc m
  have hwalk : s.walkFrom s.h.ctx.tenant va (s.h.ctx.root.toNat / 2 ^ 15 * 2 ^ 15) 3 = .ok l := walkFrom_of_walk m.walk
  unfold State.probe
  rw [if_neg (not_not.mpr (Nat.div_eq_of_lt hva)), if_neg (by simp [hwin]), hwalk]
  simp only [m.permits, m.resident, hplace, hgrant, hattr, false_and, Bool.not_true, Bool.false_eq_true, if_false]

end

/-! ### What a hart's view of memory rests on -/

/-- `g` is a hart that stands where `h` stands and sees through the same translations: only other fields differ. -/
structure SameView (h g : Hart) : Prop where
  pc : g.pc = h.pc
  id : g.id = h.id
  hr : g.hr = h.hr
  status : g.status = h.status
  halted : g.db.halted = h.db.halted

section

variable {s : State} {g : Hart}

theorem hartState_withH (v : SameView s.h g) (die sel : Nat) :
    State.hartState { s with h := g } die sel = s.hartState die sel := by
  obtain ⟨-, hid, -, hst, hdb⟩ := v
  unfold State.hartState State.harts
  simp only [List.find?_cons, List.any_cons, hid, hst]
  split
  · rfl
  · cases hq : (decide (sel < 256) && s.h.id.hartid.toNat == 256 * die + sel &&
        (s.h.status == .running || s.h.status == .stopped)) <;> simp [hdb]

theorem readReg_withH (v : SameView s.h g) (off : Nat) : State.readReg { s with h := g } off = s.readReg off := by
  simp only [State.readReg, State.dmReg, State.haltedAt, hartState_withH v]

theorem readPte_withH (v : SameView s.h g) (tenant pa : Nat) :
    State.readPte { s with h := g } tenant pa = s.readPte tenant pa := by
  simp only [State.readPte, readReg_withH v]

theorem walkFrom_withH (v : SameView s.h g) (tenant va : Nat) : ∀ base n,
    State.walkFrom { s with h := g } tenant va base n = s.walkFrom tenant va base n
  | _, 0 => rfl
  | base, n + 1 => by
    simp only [State.walkFrom, State.leafAt, readPte_withH v, walkFrom_withH v tenant va _ n]

theorem walk_withH (v : SameView s.h g) (tenant : Nat) (root : BitVec 52) (va : Nat) :
    State.walk { s with h := g } tenant root va = s.walk tenant root va := by
  simp only [State.walk, walkFrom_withH v]

theorem SameView.ctx_eq {h : Hart} (v : SameView h g) : g.ctx = h.ctx := by
  obtain ⟨-, hid, hhr, -, -⟩ := v
  simp only [Hart.ctx, hid, hhr]

/-- An address stays mapped where the hart's view stays. -/
theorem mapped_withH {va : Nat} {k : Kind} {l : Leaf} {loc : Loc} (m : Mapped s va k l loc) (v : SameView s.h g) :
    Mapped { s with h := g } va k l loc where
  address := m.address
  walk := by rw [walk_withH v, v.id, v.hr]; exact m.walk
  permits := m.permits
  resident := m.resident
  accessed := m.accessed
  dirty := m.dirty
  place := by rw [v.ctx_eq]; exact m.place
  grant := by rw [v.ctx_eq, v.id]; exact m.grant
  idempotent := m.idempotent
  choices := m.choices

/-- The code at the PC stays where it is where the hart's view stays. -/
theorem codeAt_withH {k n w : Nat} (c : CodeAt s k n w) (v : SameView s.h g) : CodeAt { s with h := g } k n w where
  parcels j hj := by
    obtain ⟨l, loc, m, rest⟩ := c.parcels j hj
    exact ⟨l, loc, by rw [v.pc]; exact mapped_withH m v, rest⟩
  value := c.value
  length := c.length

end

/-! ### Parcels -/

theorem ofBytes_append (l r : List Byte) : ofBytes (l ++ r) = ofBytes l + 256 ^ l.length * ofBytes r := by
  induction l with
  | nil => simp [ofBytes]
  | cons b l ih => simp [ofBytes, ih, pow_succ]; ring

theorem Memory.getBytes_add (m : Memory) (a i j : Nat) : m.getBytes a (i + j) = m.getBytes a i ++ m.getBytes (a + i) j := by
  induction i generalizing a with
  | zero => simp [Memory.getBytes]
  | succ i ih => rw [Nat.succ_add, Memory.getBytes, ih, Nat.add_right_comm]; rfl

/-- A number of two stretches of bytes, the lower one first (R3). -/
theorem Memory.getNat_add (m : Memory) (a i j : Nat) : m.getNat a (i + j) = m.getNat a i + 256 ^ i * m.getNat (a + i) j := by
  rw [Memory.getNat, Memory.getBytes_add, ofBytes_append, Memory.getBytes_length]
  rfl

theorem Memory.getNat_four (m : Memory) (a : Nat) : m.getNat a 4 = m.getNat a 2 + m.getNat (a + 2) 2 * 2 ^ 16 := by
  rw [Memory.getNat_add m a 2 2, Nat.mul_comm]
  rfl

theorem Memory.getNat_eight (m : Memory) (a : Nat) : m.getNat a 8 =
    m.getNat a 2 + m.getNat (a + 2) 2 * 2 ^ 16 + m.getNat (a + 4) 2 * 2 ^ 32 + m.getNat (a + 6) 2 * 2 ^ 48 := by
  rw [Memory.getNat_add m a 4 4, Memory.getNat_four, Memory.getNat_four]
  ring

/-- The number of `m + 1` parcels, put together from the lowest on. -/
theorem Memory.foldl_parcels (mem : Memory) (a m : Nat) :
    ((List.range m).map fun j => (j + 1, some (mem.getNat (a + 2 * (j + 1)) 2))).foldl
      (fun w p => w + p.2.getD 0 * 2 ^ (16 * p.1)) (mem.getNat a 2) = mem.getNat a (2 * (m + 1)) := by
  induction m with
  | zero => rfl
  | succ m ih =>
    have hpow : 256 ^ (2 * (m + 1)) = 2 ^ (16 * (m + 1)) := by
      rw [show 256 = 2 ^ 8 from rfl, ← pow_mul]
      congr 1
      ring
    rw [List.range_succ, List.map_append, List.foldl_append, ih]
    simp only [List.map_cons, List.map_nil, List.foldl_cons, List.foldl_nil, Option.getD_some]
    rw [Nat.mul_succ 2 (m + 1), Memory.getNat_add, hpow, Nat.mul_comm (2 ^ _)]

/-- The first parcel alone gives the length (R24). -/
theorem lengthOf_add (p q : Nat) {i : Nat} (hi : 2 ≤ i) : lengthOf (p + 2 ^ i * q) = lengthOf p := by
  have h : (p + 2 ^ i * q) % 2 ^ 2 = p % 2 ^ 2 := by
    obtain ⟨e, rfl⟩ := Nat.exists_eq_add_of_le hi
    rw [pow_add, Nat.mul_assoc, Nat.add_mul_mod_self_left]
  simp only [lengthOf, fld, pow_zero, Nat.div_one, h]

theorem lengthOf_cases (w : Nat) : lengthOf w = 2 ∨ lengthOf w = 4 ∨ lengthOf w = 8 := by
  unfold lengthOf
  split <;> simp

section

variable {s : State} {k n w : Nat}

theorem length_cases (c : CodeAt s k n w) : n = 2 ∨ n = 4 ∨ n = 8 := c.length ▸ lengthOf_cases w

theorem lengthOf_first (c : CodeAt s k n w) : lengthOf (s.dev.mem.getNat k 2) = n := by
  have hn : 2 ≤ n := by have := length_cases c; omega
  obtain ⟨j, rfl⟩ := Nat.exists_eq_add_of_le hn
  rw [← c.length, ← c.value, Memory.getNat_add, show (256 ^ 2 : Nat) = 2 ^ 16 from rfl, lengthOf_add _ _ (by decide)]

/-- The machine with other parcels noted as fetched by the hart (R43). -/
def State.withBuf (s : State) (b : List (Nat × Nat)) : State :=
  { s with h := { s.h with ms := { s.h.ms with ibuf := b } } }

theorem sameView_withBuf (s : State) (b : List (Nat × Nat)) : SameView s.h (s.withBuf b).h := ⟨rfl, rfl, rfl, rfl, rfl⟩

/-- By default a parcel has its present content (R43). -/
theorem run_parcelAt_default (h : s.oracle = []) (k : Nat) : (parcelAt k).run s = (.ok (s.dev.mem.getNat k 2), s) := by
  unfold parcelAt
  rw [run_bind_ok (run_get s)]
  dsimp only
  split
  · rfl
  · rw [run_bind_ok (run_choose_default h)]
    rfl

/-- A parcel of local memory is read, and noted among those fetched. -/
theorem run_readParcel {loc : Loc} (hr : regionOf loc.key = .hbm ∨ regionOf loc.key = .cxl)
    (hb : s.dev.bad loc.key 2 = false) (ho : s.oracle = []) (el a : Nat) :
    ∃ b, (readParcel el a loc).run s = (.ok (s.dev.mem.getNat loc.key 2), s.withBuf b) := by
  have hparcel := run_parcelAt_default ho loc.key
  refine ⟨(loc.key, s.dev.mem.getNat loc.key 2) :: s.h.ms.ibuf.filter (· != (loc.key, s.dev.mem.getNat loc.key 2)), ?_⟩
  unfold readParcel
  rw [run_bind_ok (run_get s)]
  rcases hr with hr | hr
  all_goals
    simp only [hr, hb, Bool.false_eq_true, if_false]
    rw [run_bind_ok hparcel, run_bind_ok (run_modH _ s)]
    rfl

theorem codeAt_choices (c : CodeAt s k n w) : s.oracle = [] := by
  obtain ⟨l, loc, m, -⟩ := c.parcels 0 (by have := length_cases c; omega)
  exact m.choices

/-- Parcel `j` of the code at the PC translates and is read, whatever parcels are noted. -/
theorem run_parcel (c : CodeAt s k n w) {a q j : Nat} (hj : 2 * j < n) (ha : a = s.h.pc.toNat + 2 * j) (hq : q = k + 2 * j)
    (el : Nat) : ∃ loc, ∀ b,
      (translateH el a .fetch 2 false).run (s.withBuf b) = (.ok loc, s.withBuf b) ∧
      ∃ b', (readParcel el a loc).run (s.withBuf b) = (.ok (s.dev.mem.getNat q 2), s.withBuf b') := by
  subst ha hq
  obtain ⟨l, loc, m, hkey, hreg, hbad⟩ := c.parcels j hj
  refine ⟨loc, fun b => ⟨run_translateH_mapped (mapped_withH m (sameView_withBuf s b)) el 2 false, ?_⟩⟩
  rw [← hkey]
  exact run_readParcel (s := s.withBuf b) hreg hbad m.choices el _

/-- The word of the instruction at the PC is read, and only parcels are noted (R25, R43). -/
theorem run_fetchWord (c : CodeAt s k n w) (el : Nat) : ∃ b, (fetchWord el s.h.pc.toNat).run s = (.ok w, s.withBuf b) := by
  have hn := length_cases c
  have hlen := lengthOf_first c
  have hval := c.value
  obtain ⟨l0, h0⟩ := run_parcel c (a := s.h.pc.toNat) (q := k) (j := 0) (by omega) rfl rfl el
  obtain ⟨t0, b0, r0⟩ := h0 s.h.ms.ibuf
  have t0 : (translateH el s.h.pc.toNat .fetch 2 false).run s = (.ok l0, s) := t0
  have r0 : (readParcel el s.h.pc.toNat l0).run s = (.ok (s.dev.mem.getNat k 2), s.withBuf b0) := r0
  unfold fetchWord
  rw [run_bind_ok t0, run_bind_ok r0]
  split
  case h_1 two =>
    obtain rfl : n = 2 := hlen.symm.trans two
    exact ⟨b0, by rw [← hval]; rfl⟩
  case h_2 four =>
    obtain rfl : n = 4 := hlen.symm.trans four
    obtain ⟨l1, h1⟩ := run_parcel c (a := s.h.pc.toNat + 2) (q := k + 2) (j := 1) (by decide) rfl rfl el
    obtain ⟨t1, b1, r1⟩ := h1 b0
    rw [Memory.getNat_four] at hval
    refine ⟨b1, ?_⟩
    rw [run_bind_ok t1, run_bind_ok r1, ← hval]
    rfl
  case h_3 two four =>
    obtain rfl : n = 8 := (hn.resolve_left (hlen ▸ two)).resolve_left (hlen ▸ four)
    obtain ⟨l1, h1⟩ := run_parcel c (a := s.h.pc.toNat + 2) (q := k + 2) (j := 1) (by decide) rfl rfl el
    obtain ⟨l2, h2⟩ := run_parcel c (a := s.h.pc.toNat + 4) (q := k + 4) (j := 2) (by decide) rfl rfl el
    obtain ⟨l3, h3⟩ := run_parcel c (a := s.h.pc.toNat + 6) (q := k + 6) (j := 3) (by decide) rfl rfl el
    obtain ⟨t1, b1, r1⟩ := h1 b0
    obtain ⟨t2, -⟩ := h2 b0
    obtain ⟨t3, -⟩ := h3 b0
    obtain ⟨-, b2, r2⟩ := h2 b1
    obtain ⟨-, b3, r3⟩ := h3 b2
    rw [Memory.getNat_eight] at hval
    refine ⟨b3, ?_⟩
    rw [run_bind_ok t1, run_bind_ok t2, run_bind_ok t3, run_bind_ok r1, run_bind_ok r2, run_bind_ok r3, ← hval]
    rfl

/-- A parcel as `State.peekWord` reads it. -/
def State.peekParcel (s : State) (a : Nat) : Option Nat :=
  match s.probe s.h.ctx a .fetch with
  | .ok (l, _, _) => some (s.dev.mem.getNat l.key 2)
  | .error _ => none

theorem State.peekWord_outside {s : State} {pc : BitVec 52} (hl : s.h.inLoop pc = false) : s.peekWord pc =
    (s.peekParcel pc.toNat).bind fun p0 =>
      let rest := (List.range (lengthOf p0 / 2 - 1)).map fun j => (j + 1, s.peekParcel (pc.toNat + 2 * (j + 1)))
      if rest.all (·.2.isSome) then some (rest.foldl (fun w p => w + p.2.getD 0 * 2 ^ (16 * p.1)) p0) else none := by
  unfold State.peekWord
  rw [hl]
  rfl

theorem peekParcel_codeAt (c : CodeAt s k n w) {j : Nat} (hj : 2 * j < n) :
    s.peekParcel (s.h.pc.toNat + 2 * j) = some (s.dev.mem.getNat (k + 2 * j) 2) := by
  obtain ⟨l, loc, m, hkey, -⟩ := c.parcels j hj
  simp only [State.peekParcel, probe_mapped m, hkey]

/-- What stands at the PC can be read without a fetch. -/
theorem peekWord_codeAt (c : CodeAt s k n w) (hl : s.h.lp.active = false) : s.peekWord s.h.pc = some w := by
  obtain ⟨m, rfl⟩ : ∃ m, n = 2 * (m + 1) := ⟨n / 2 - 1, by have := length_cases c; omega⟩
  have hfirst : s.peekParcel s.h.pc.toNat = some (s.dev.mem.getNat k 2) := peekParcel_codeAt c (j := 0) (by omega)
  have hrest : ((List.range m).map fun j => (j + 1, s.peekParcel (s.h.pc.toNat + 2 * (j + 1)))) =
      (List.range m).map fun j => (j + 1, some (s.dev.mem.getNat (k + 2 * (j + 1)) 2)) :=
    List.map_congr_left fun j hj => by
      rw [peekParcel_codeAt c (j := j + 1) (by have := List.mem_range.mp hj; omega)]
  have hrange : 2 * (m + 1) / 2 - 1 = m := by omega
  rw [State.peekWord_outside (by simp [Hart.inLoop, hl]), hfirst, Option.bind_some, lengthOf_first c, hrange, hrest]
  dsimp only
  rw [Memory.foldl_parcels, c.value, if_pos (by simp)]

/-- The completion mask that a fetch of the word at the PC keeps (R21). -/
theorem dropMask_of_peekWord (h : s.peekWord s.h.pc = some w) : s.dropMask =
    { s with h := { s.h with vc := { s.h.vc with ecm := if mode2 w then s.h.vc.ecm else 0 } } } := by
  unfold State.dropMask
  split
  case isTrue hz =>
    have hkept : (if mode2 w then s.h.vc.ecm else 0) = s.h.vc.ecm := by rw [hz, ite_self]
    rw [hkept]
  case isFalse =>
    rw [h]
    cases hm : mode2 w <;> simp only [hm, Bool.false_eq_true, if_true, if_false]

end

/-! ### The fetch of an undisturbed hart (R25, R41) -/

theorem Hart.dropUnits_eq (h : Hart) : h.dropUnits = { h with sy := h.dropUnits.sy } := by
  unfold Hart.dropUnits
  split <;> rfl

@[simp] theorem Hart.dropUnits_pc (h : Hart) : h.dropUnits.pc = h.pc := by rw [Hart.dropUnits_eq]
@[simp] theorem Hart.dropUnits_pcHi (h : Hart) : h.dropUnits.pcHi = h.pcHi := by rw [Hart.dropUnits_eq]
@[simp] theorem Hart.dropUnits_v (h : Hart) : h.dropUnits.v = h.v := by rw [Hart.dropUnits_eq]
@[simp] theorem Hart.dropUnits_vc (h : Hart) : h.dropUnits.vc = h.vc := by rw [Hart.dropUnits_eq]
@[simp] theorem Hart.dropUnits_t (h : Hart) : h.dropUnits.t = h.t := by rw [Hart.dropUnits_eq]
@[simp] theorem Hart.dropUnits_hr (h : Hart) : h.dropUnits.hr = h.hr := by rw [Hart.dropUnits_eq]
@[simp] theorem Hart.dropUnits_lp (h : Hart) : h.dropUnits.lp = h.lp := by rw [Hart.dropUnits_eq]
@[simp] theorem Hart.dropUnits_ms (h : Hart) : h.dropUnits.ms = h.ms := by rw [Hart.dropUnits_eq]

/-- No armed watch, no execute trigger (R349). -/
theorem execTrigger_eq_none {h : Hart} (hw : ∀ k : Fin 4, (h.hr.watch[k]).getLsbD 63 = false) (pc : BitVec 52) :
    h.execTrigger pc = none := by
  have hnone : ∀ w ∈ h.hr.watch.toList, w.getLsbD 63 = false := by
    intro w hmem
    obtain ⟨i, hi, rfl⟩ := List.mem_iff_getElem.mp hmem
    exact hw ⟨i, by simpa using hi⟩
  unfold Hart.execTrigger
  rw [List.head?_eq_none_iff, List.filterMap_eq_nil_iff]
  intro w hmem
  have hoff := hnone w hmem
  dsimp only
  rw [hoff]
  rfl

/-- What becomes of a word that has been fetched (R25, R40). -/
noncomputable def decoded (w : Nat) : M Instr :=
  match decode w with
  | .ok i => return i
  | .error _ => trapInstr .illegal

/-- The state in which an undisturbed hart fetches the word `w`: units that the hart has left are gone (R77), and the
completion mask stays before an access of mode 2 only (R21). -/
def State.atFetch (s : State) (w : Nat) : State :=
  { s with h := { s.h.dropUnits with vc := { s.h.vc with ecm := if mode2 w then s.h.vc.ecm else 0 } } }

section

variable {s : State} {k n w : Nat}

theorem sameView_dropUnits (h : Hart) : SameView h h.dropUnits := by
  rw [Hart.dropUnits_eq]
  exact ⟨rfl, rfl, rfl, rfl, rfl⟩

theorem sameView_atFetch (s : State) (w : Nat) : SameView s.h (s.atFetch w).h := by
  obtain ⟨hpc, hid, hhr, hst, hdb⟩ := sameView_dropUnits s.h
  exact ⟨hpc, hid, hhr, hst, hdb⟩

/-- What stands before the fetch drops the units and the mask. -/
theorem dropMask_dropUnits (d : Undisturbed s) (c : CodeAt s k n w) :
    State.dropMask { s with h := s.h.dropUnits } = s.atFetch w := by
  obtain ⟨-, -, -, hlp, -⟩ := d.front
  have hpeek := peekWord_codeAt (codeAt_withH c (sameView_dropUnits s.h)) (by simpa using hlp)
  rw [dropMask_of_peekWord hpeek]
  simp only [State.atFetch, Hart.dropUnits_vc]

/-- The word of an instruction outside loops comes from memory (R25). -/
theorem run_instrWord (c : CodeAt s k n w) (hhi : s.h.pcHi = 0) (hl : s.h.lp.active = false) :
    ∃ b, instrWord.run s = (.ok w, s.withBuf b) := by
  obtain ⟨b, hb⟩ := run_fetchWord c s.h.vc.vstart.toNat
  have hin : s.h.inLoop s.h.pc = false := by simp [Hart.inLoop, hl]
  refine ⟨b, ?_⟩
  unfold instrWord
  rw [run_bind_ok (run_getH s)]
  simp only [hhi, hin, Bool.false_eq_true, ne_eq, not_true_eq_false, if_false]
  rw [run_bind_ok hb]
  rfl

theorem afterFetch_withBuf (s : State) (w : Nat) (b : List (Nat × Nat)) : AfterFetch s ((s.atFetch w).withBuf b) w := by
  simp only [AfterFetch, State.withBuf, State.atFetch, Hart.dropUnits_ms]

/-- An undisturbed hart fetches the word at its PC, whatever it decodes to. -/
theorem run_fetchInstr (d : Undisturbed s) (c : CodeAt s k n w) :
    ∃ u, AfterFetch s u w ∧ fetchInstr.run s = (decoded w).run u := by
  obtain ⟨hhi, hentry, hret, hlp, -⟩ := d.front
  have htrig : s.h.dropUnits.execTrigger s.h.pc = none := execTrigger_eq_none (by simpa using d.triggers) _
  have hcode : CodeAt (s.atFetch w) k n w := codeAt_withH c (sameView_atFetch s w)
  obtain ⟨b, hword⟩ := run_instrWord hcode (by simpa only [State.atFetch, Hart.dropUnits_pcHi] using hhi)
    (by simpa only [State.atFetch, Hart.dropUnits_lp] using hlp)
  refine ⟨(s.atFetch w).withBuf b, afterFetch_withBuf s w b, ?_⟩
  unfold fetchInstr
  rw [run_bind_ok (run_modH _ s), run_bind_ok (run_getH _)]
  simp only [Hart.dropUnits_ms, Hart.dropUnits_pc, Hart.dropUnits_pcHi, hentry, hret, hhi, htrig, Bool.false_eq_true,
    if_false, if_true]
  rw [run_bind_ok (run_modify _ _), dropMask_dropUnits d c, run_bind_ok hword]
  rfl

theorem run_fetchInstr_ok {i : Instr} (d : Undisturbed s) (c : CodeAt s k n w) (hd : decode w = .ok i) :
    ∃ u, AfterFetch s u w ∧ fetchInstr.run s = (.ok i, u) := by
  obtain ⟨u, hu, hrun⟩ := run_fetchInstr d c
  exact ⟨u, hu, by rw [hrun, decoded, hd]; rfl⟩

theorem run_fetchInstr_illegal {e : DecodeErr} (d : Undisturbed s) (c : CodeAt s k n w) (hd : decode w = .error e) :
    ∃ u, AfterFetch s u w ∧ fetchInstr.run s = (.error (.trap .illegal 0 (s.h.pc.setWidth 64)), u) := by
  obtain ⟨u, hu, hrun⟩ := run_fetchInstr d c
  have hpc : u.h.pc = s.h.pc := by rw [hu]; exact Hart.dropUnits_pc s.h
  exact ⟨u, hu, by rw [hrun, decoded, hd, ← hpc]; rfl⟩

end

/-! ### The step of an undisturbed hart -/

theorem DebugState.charge_haltReq (b : DebugState) (pc : BitVec 52) (k : WaitKind) (on : BitVec 52) (n : Nat) (fin : Bool)
    (lag : Nat) : (b.charge pc k on n fin lag).haltReq = b.haltReq := by
  unfold DebugState.charge
  dsimp only
  split
  · rfl
  · split
    · rfl
    · split
      · split <;> rfl
      · rfl

/-- The end of a stall leaves a request to halt standing. -/
theorem Hart.endStall_haltReq (h : Hart) (pc : BitVec 52) (n : Nat) : (h.endStall pc n).db.haltReq = h.db.haltReq := by
  unfold Hart.endStall
  split
  · rfl
  · exact DebugState.charge_haltReq ..

theorem Hart.endStall_eq (h : Hart) (pc : BitVec 52) (n : Nat) :
    h.endStall pc n = { h with db := (h.endStall pc n).db } := by
  unfold Hart.endStall
  split <;> rfl

@[simp] theorem Hart.endStall_hr (h : Hart) (pc : BitVec 52) (n : Nat) : (h.endStall pc n).hr = h.hr := by
  rw [Hart.endStall_eq]

theorem State.dropMask_eq (s : State) : s.dropMask = { s with h := { s.h with vc := s.dropMask.h.vc } } := by
  unfold State.dropMask
  split
  · rfl
  · split
    · split <;> rfl
    · rfl

@[simp] theorem State.dropMask_hr (s : State) : s.dropMask.h.hr = s.h.hr := by rw [State.dropMask_eq]
@[simp] theorem State.dropMask_db (s : State) : s.dropMask.h.db = s.h.db := by rw [State.dropMask_eq]

/-- Without a timer set there is no timer interrupt pending (R322). -/
theorem State.tip_eq_false {s : State} (h : s.h.hr.tdl = 0) : s.tip = false := by simp [State.tip, h]

section

variable {s : State} (d : Undisturbed s)
include d

theorem dueEvent_undisturbed : s.dueEvent = none := by
  unfold State.dueEvent
  split
  case h_1 c i r hin =>
    have hlater : s.cycle < c := d.inputs (c, i) (by rw [hin]; rfl)
    rw [if_neg (by omega)]
  case h_2 => rfl

theorem runs_undisturbed : s.h.runs = true := by
  obtain ⟨hst, hhalt, -⟩ := d.runs
  simp [Hart.runs, hst, hhalt]

/-- No request and no interrupt for a point to take (R332). -/
theorem takeEvent_undisturbed : s.takeEvent = none := by
  obtain ⟨-, -, hreq⟩ := d.runs
  obtain ⟨htdl, hdip⟩ := d.quiet
  have hgang : (s.dev.gangs.find? (·.id == s.h.id.gang.toNat)).any (·.stopReq.isSome) = false := by
    cases hg : s.dev.gangs.find? (·.id == s.h.id.gang.toNat) with
    | none => rfl
    | some g => simp [d.stays g (List.mem_of_find?_eq_some hg)]
  have hhalt : (s.dropMask.endStall s.h.pc).h.db.haltReq = none := by
    simp only [State.endStall, Hart.endStall_haltReq, State.dropMask_db, hreq]
  have hhr : (s.dropMask.endStall s.h.pc).h.hr = s.h.hr := by
    simp only [State.endStall, Hart.endStall_hr, State.dropMask_hr]
  unfold State.takeEvent
  simp only [hhalt, ite_self, hgang, hhr, hdip, State.tip_eq_false (hhr ▸ htdl), Bool.and_false, Bool.false_eq_true,
    if_false]

theorem step_of_fetch_ok {i : Instr} {u : State} (h : fetchInstr.run s = (.ok i, u)) :
    step s = andThen (afterInstr s) (execChecked i u) := by
  simp only [step, dueEvent_undisturbed d, runs_undisturbed d, takeEvent_undisturbed d, fetched, h, Bool.not_true,
    Bool.false_eq_true, if_false]
  rfl

theorem step_of_fetch_trap {c : Cause} {el : Nat} {a : Word} {u : State}
    (h : fetchInstr.run s = (.error (.trap c el a), u)) : step s = .next (afterInstr s (takeTrap c el a u)) := by
  simp only [step, dueEvent_undisturbed d, runs_undisturbed d, takeEvent_undisturbed d, fetched, h, Bool.not_true,
    Bool.false_eq_true, if_false]
  rfl

end

/-- A fetch leaves no bits in error that the hart did not have. -/
theorem anyErr_afterFetch {s u : State} {w : Nat} (h : AfterFetch s u w) : u.h.anyErr = s.h.anyErr := by
  have hv : u.h.v = s.h.v := by rw [h]; exact Hart.dropUnits_v s.h
  have ht : u.h.t = s.h.t := by rw [h]; exact Hart.dropUnits_t s.h
  simp only [Hart.anyErr, hv, ht]

theorem stepRunsInstruction : StepRunsInstruction := by
  intro s k n w i d c hd
  obtain ⟨u, hu, hfetch⟩ := run_fetchInstr_ok d c hd
  have hsound : u.h.anyErr = false := (anyErr_afterFetch hu).trans d.sound
  refine ⟨u, hu, ?_⟩
  rw [step_of_fetch_ok d hfetch, execChecked, hsound, if_neg (by decide)]
  cases exec i u <;> rfl

theorem undefinedWordIsIllegal : UndefinedWordIsIllegal := by
  intro s k n w e d c hd
  obtain ⟨u, hu, hfetch⟩ := run_fetchInstr_illegal d c hd
  exact ⟨u, hu, step_of_fetch_trap d hfetch⟩

/-- Settles O15: nothing comes before the fetch, which reads the word at the PC and leaves the state that R21, R43 and R77
say. -/
theorem fetchedWord : Obligations.FetchedWord := ⟨stepRunsInstruction, undefinedWordIsIllegal⟩

end Sys2Proof.Machine
end

section
/-! The order of the harts: turning it round, and acting on each hart or on one. -/

namespace Sys2Proof.Machine

open Sys2Proof.Claims

/-! ### Turning the order of the harts -/

/-- Turning changes the order of the harts only. -/
theorem State.rotate_eq (s : State) : s.rotate = { s with h := s.rotate.h, others := s.rotate.others } := by
  unfold State.rotate
  split <;> rfl

theorem State.rotate_iterate_eq (s : State) (k : Nat) :
    State.rotate^[k] s = { s with h := (State.rotate^[k] s).h, others := (State.rotate^[k] s).others } := by
  induction k with
  | zero => rfl
  | succ k ih =>
    rw [Function.iterate_succ_apply', State.rotate_eq]
    generalize State.rotate^[k] s = t at ih
    rw [ih]

theorem State.harts_rotate (s : State) : s.rotate.harts = s.harts.rotate 1 := by
  unfold State.rotate State.harts
  split
  next ho => rw [ho, List.rotate_singleton]
  next ho => rw [ho, List.rotate_cons_succ, List.rotate_zero]; rfl

theorem State.harts_rotate_iterate (s : State) (k : Nat) : (State.rotate^[k] s).harts = s.harts.rotate k := by
  induction k with
  | zero => simp
  | succ k ih => rw [Function.iterate_succ_apply', State.harts_rotate, ih, List.rotate_rotate]

theorem State.length_harts (s : State) : s.harts.length = s.others.length + 1 := rfl

theorem State.length_others_rotate (s : State) (k : Nat) : (State.rotate^[k] s).others.length = s.others.length := by
  have h := congrArg List.length (s.harts_rotate_iterate k)
  simpa only [List.length_rotate, State.length_harts, Nat.add_right_cancel_iff] using h

/-- A full turn. -/
theorem State.rotate_all (s : State) : State.rotate^[s.others.length + 1] s = s := by
  have h := s.harts_rotate_iterate (s.others.length + 1)
  rw [← State.length_harts, List.rotate_length] at h
  obtain ⟨hh, ho⟩ := List.cons_eq_cons.mp h
  rw [State.length_harts] at hh ho
  rw [State.rotate_iterate_eq, hh, ho]

/-- The hart that comes to the front is one of the harts, and another one before the turn is full. -/
theorem State.front_rotate_mem {s : State} {k : Nat} (lo : 0 < k) (hi : k ≤ s.others.length) :
    (State.rotate^[k] s).h ∈ s.others := by
  have hlen : k < s.harts.length := by rw [State.length_harts]; omega
  have h := congrArg (·[0]?) (s.harts_rotate_iterate k)
  obtain ⟨j, rfl⟩ := Nat.exists_eq_add_of_lt lo
  rw [Nat.zero_add] at h hlen hi ⊢
  have hget : s.harts[j + 1]? = some (State.rotate^[j + 1] s).h := by
    simp only [List.getElem?_rotate (by omega : 0 < s.harts.length), Nat.zero_add, Nat.mod_eq_of_lt hlen] at h
    exact h.symm
  exact List.mem_of_getElem? (l := s.others) hget

theorem State.front_rotate_mem_harts {s : State} {k : Nat} (hi : k ≤ s.others.length) :
    (State.rotate^[k] s).h ∈ s.harts := by
  rcases Nat.eq_zero_or_pos k with rfl | lo
  · exact List.mem_cons_self
  · exact List.mem_cons_of_mem _ (State.front_rotate_mem lo hi)

/-! ### Visiting every hart -/

/-- One turn of a visit, at which the front hart is changed by `f`. -/
def State.visit (f : State → State) (s : State) : State := (f s).rotate

theorem State.eachHart_eq (f : State → State) (s : State) : s.eachHart f = (State.visit f)^[s.others.length + 1] s := by
  have h : s.eachHart f = (List.range (s.others.length + 1)).foldl (fun s _ => State.visit f s) s := rfl
  rw [h, List.foldl_const (State.visit f), List.length_range]

/-- Visits that change none of the harts that they meet. -/
theorem State.visit_iterate_of_idle {f : State → State} {s : State} {k : Nat}
    (h : ∀ j < k, f (State.rotate^[j] s) = State.rotate^[j] s) : (State.visit f)^[k] s = State.rotate^[k] s := by
  induction k with
  | zero => rfl
  | succ k ih =>
    rw [Function.iterate_succ_apply', Function.iterate_succ_apply', ih fun j hj => h j (Nat.lt_succ_of_lt hj), State.visit,
      h k (Nat.lt_succ_self k)]

/-- A change that leaves every hart that comes to the front leaves the machine. -/
theorem State.eachHart_of_idle {f : State → State} {s : State} (h : ∀ t : State, t.h ∈ s.harts → f t = t) :
    s.eachHart f = s := by
  rw [State.eachHart_eq, State.visit_iterate_of_idle, State.rotate_all]
  exact fun j hj => h _ (State.front_rotate_mem_harts (Nat.le_of_lt_succ hj))

/-! ### Acting on one hart -/

/-- Identity and residency of the harts behind the front: what an event finds a hart by. -/
def State.names (s : State) : List (Identity × Status) := s.others.map fun o => (o.id, o.status)

/-- The names stay under a change of each of the other harts that keeps them. -/
theorem State.names_map {s t : State} {g : Hart → Hart} (h : t.others = s.others.map g)
    (hg : ∀ o, (g o).id = o.id ∧ (g o).status = o.status) : t.names = s.names := by
  simp [State.names, h, Function.comp_def, hg]

/-- Whether a hart is the one that an event with this gang and rank names. -/
def Hart.named (r : HartRef) (h : Hart) : Bool := h.id.gang.toNat == r.gang && h.id.rank == r.rank && h.status != .vacant

theorem Hart.named_eq_false {r g : Hart} (h : g.status ≠ .vacant → ¬(g.id.gang = r.id.gang ∧ g.id.rank = r.id.rank)) :
    g.named r.ref = false := by
  by_contra hn
  simp only [Hart.named, Hart.ref, Bool.not_eq_false, Bool.and_eq_true, beq_iff_eq, bne_iff_ne, BitVec.toNat_inj] at hn
  obtain ⟨⟨hg, hr⟩, hs⟩ := hn
  exact h hs ⟨hg, hr⟩

/-- A change of the front hart where it is the named one. -/
def State.actAt (r : HartRef) (f : State → State) (s : State) : State := if s.h.named r then f s else s

theorem State.actAt_of_not_named {r : HartRef} {s : State} (f : State → State) (h : s.h.named r = false) :
    s.actAt r f = s := by simp [State.actAt, h]

theorem State.withHart_eq (s : State) (r : HartRef) (f : State → State) :
    s.withHart r f = (State.visit (State.actAt r f))^[s.others.length + 1] s := by
  have h : s.withHart r f = (List.range (s.others.length + 1)).foldl (fun s _ => State.visit (State.actAt r f) s) s := rfl
  rw [h, List.foldl_const (State.visit (State.actAt r f)), List.length_range]

/-- No hart behind the front is the named one. -/
theorem names_not_named {s t : State} (a : Alone s) (hn : t.names = s.names) {o : Hart} (ho : o ∈ t.others) :
    o.named s.h.ref = false := by
  have hmem : (o.id, o.status) ∈ s.names := hn ▸ List.mem_map_of_mem ho
  obtain ⟨o', ho', heq⟩ := List.mem_map.mp hmem
  obtain ⟨hid, hst⟩ := Prod.mk.inj heq
  apply Hart.named_eq_false
  rw [← hid, ← hst]
  exact a.2 o' ho'

/-- A change of the front hart that keeps the names of the others, as the visit of all harts makes it: `k` of them stand
before the named one. -/
theorem withHart_of_front {s u : State} {k : Nat} {f : State → State} (hk : k ≤ s.others.length)
    (a : Alone (State.rotate^[k] s)) (hu : f (State.rotate^[k] s) = u) (hn : u.names = (State.rotate^[k] s).names) :
    s.withHart (State.rotate^[k] s).h.ref f = State.rotate^[s.others.length + 1 - k] u := by
  have hself : (State.rotate^[k] s).h.named (State.rotate^[k] s).h.ref = true := by simp [Hart.named, Hart.ref, a.1]
  have hlen : u.others.length = s.others.length := by
    simpa [State.names, State.length_others_rotate] using congrArg List.length hn
  have before : ∀ j < k, State.actAt (State.rotate^[k] s).h.ref f (State.rotate^[j] s) = State.rotate^[j] s := by
    intro j hj
    have hfull : State.rotate^[s.others.length + 1 - k + j] (State.rotate^[k] s) = State.rotate^[j] s := by
      rw [← Function.iterate_add_apply, show s.others.length + 1 - k + j + k = j + (s.others.length + 1) by omega,
        Function.iterate_add_apply, State.rotate_all]
    apply State.actAt_of_not_named
    rw [← hfull]
    exact names_not_named a rfl (State.front_rotate_mem (by omega) (by rw [State.length_others_rotate]; omega))
  have behind : ∀ j < s.others.length - k,
      State.actAt (State.rotate^[k] s).h.ref f (State.rotate^[j] u.rotate) = State.rotate^[j] u.rotate := by
    intro j hj
    apply State.actAt_of_not_named
    rw [← Function.iterate_succ_apply]
    exact names_not_named a hn (State.front_rotate_mem (by omega) (by omega))
  have here : State.visit (State.actAt (State.rotate^[k] s).h.ref f) (State.rotate^[k] s) = u.rotate := by
    rw [State.visit, State.actAt, if_pos hself, hu]
  rw [State.withHart_eq, show s.others.length + 1 = (s.others.length - k) + (k + 1) by omega, Function.iterate_add_apply,
    Function.iterate_succ_apply', State.visit_iterate_of_idle before, here, State.visit_iterate_of_idle behind,
    ← Function.iterate_succ_apply]
  congr 1
  omega

end Sys2Proof.Machine
end

section
/-! The effects of the system forms (R61, R62, R297, R329-R331, R352, R355). -/

namespace Sys2Proof.Machine

open Sys2Proof.Claims

/-! ### What the forms wait for -/

theorem run_handlerOnly {s : State} (hm : s.h.handler = true) (hs : s.h.ms.strip = none) :
    handlerOnly.run s = (.ok (), s) := by
  simp [handlerOnly, run_bind, run_getH, hm, run_noStrip hs]

/-- A hart with empty queues drains nothing. -/
theorem State.drainQueues_of_empty {s : State} (hq : s.h.ms.storeQ = []) (hf : s.h.ms.fabricQ = []) : s.drainQueues = s := by
  simp [State.drainQueues, hq, hf, repeatStep]

theorem run_flushStores_of_empty {s : State} (hq : s.h.ms.storeQ = []) (hf : s.h.ms.fabricQ = []) :
    flushStores.run s = (.ok (), s) := by
  unfold flushStores
  rw [run_bind_ok (run_getH s), run_ite]
  split
  · rfl
  · rw [run_bind_ok (run_modify _ s), State.drainQueues_of_empty hq hf, run_bind_ok (run_getH s)]
    simp [hq, run_pure]

theorem run_releaseWait_of_empty {s : State} (hq : s.h.ms.storeQ = []) (hf : s.h.ms.fabricQ = []) (scope : Nat) :
    (releaseWait scope).run s = (.ok (), s) := by
  unfold releaseWait
  rw [run_bind_ok (run_flushStores_of_empty hq hf), run_bind_ok (run_getH s)]
  simp [hf, run_pure]

/-! ### Handler-only forms -/

/-- The mask that ECMRD gives, before it is cut to the register's length (R330). -/
def Hart.ecmrdMask (h : Hart) : BitVec 16384 := if h.hr.hstat.ecmv then h.hr.hecm &&& lowMask h.hr.evl.toNat else 0

section

variable {s : State} (hm : s.h.handler = true) (hs : s.h.ms.strip = none)
include hm hs

theorem exec_hxchg (d : Reg) : exec (.hxchg d) s = .next (State.advance { s.setX d s.h.hr.hscr with
    h := { (s.setX d s.h.hr.hscr).h with hr := { (s.setX d s.h.hr.hscr).h.hr with hscr := s.getX d } } } 4) :=
  runM_ok (run_bind_ok (run_handlerOnly hm hs))

theorem exec_tmset (a : Reg) : exec (.tmset a) s =
    .next (State.advance { s with h := { s.h with hr := { s.h.hr with tdl := s.getX a } } } 4) :=
  runM_ok (run_bind_ok (run_handlerOnly hm hs))

theorem exec_ecmrd (d : Reg) :
    exec (.ecmrd d) s = .next (State.advance { s with h := s.h.setWhole d s.h.ecmrdMask.toNat } 4) :=
  runM_ok (run_bind_ok (run_handlerOnly hm hs))

theorem exec_ecmwr (a : Reg) : exec (.ecmwr a) s = .next (State.advance { s with h := { s.h with hr := { s.h.hr with
    hecm := (s.h.v[a]).val &&& lowMask s.h.hr.evl.toNat
    hstat := { s.h.hr.hstat with ecmv := true }
    evstart := BitVec.ofNat 48 (lowestClear ((s.h.v[a]).val &&& lowMask s.h.hr.evl.toNat) 0 s.h.hr.evl.toNat) } } } 4) :=
  runM_ok (run_bind_ok (run_handlerOnly hm hs))

end

theorem getLsbD_lowMask {n i : Nat} (hi : i < 16384) : (lowMask n).getLsbD i = decide (i < n) := by
  rw [lowMask, BitVec.getLsbD_ofNat, Nat.testBit_two_pow_sub_one]
  simp [hi]

/-- The mask that ECMRD gives (R330). -/
theorem setWhole_ecmrd {h : Hart} {m : BitVec 16384} (d : Reg) (hm : ∀ i : Nat, i < 16384 → m.getLsbD i =
      (h.hr.hstat.ecmv && decide (i < h.hr.evl.toNat) && decide (i < h.vlen) && h.hr.hecm.getLsbD i)) :
    h.setWhole d h.ecmrdMask.toNat = { h with v := h.v.set d { val := m, dirty := true, vt := h.vlen / 8 } } := by
  have hval : BitVec.ofNat 16384 (h.ecmrdMask.toNat % 2 ^ h.vlen) = m := by
    apply BitVec.eq_of_getLsbD_eq
    intro i hi
    rw [hm i hi, BitVec.getLsbD_ofNat, Nat.testBit_mod_two_pow, BitVec.testBit_toNat, Hart.ecmrdMask]
    cases h.hr.hstat.ecmv
    · simp
    · simp only [if_true, BitVec.getLsbD_and, getLsbD_lowMask hi, hi, decide_true, Bool.true_and]
      ac_rfl
  rw [Hart.setWhole, hval]

/-- The first clear bit from `i` on, below `i + n`. -/
theorem lowestClear_eq {m : BitVec 16384} : ∀ {n i k : Nat}, i ≤ k → (∀ j, i ≤ j → j < k → m.getLsbD j = true) → k ≤ i + n →
    (k < i + n → m.getLsbD k = false) → lowestClear m i n = k
  | 0, i, k, lo, _, hi, _ => by rw [lowestClear]; omega
  | n + 1, i, k, lo, ones, hi, clear => by
    rw [lowestClear]
    rcases Nat.eq_or_lt_of_le lo with rfl | lt
    · rw [clear (by omega), if_neg (by decide)]
    · rw [ones i (le_refl i) lt, if_pos rfl]
      exact lowestClear_eq lt (fun j hj => ones j (by omega)) (by omega) fun h => clear (by omega)

/-- The mask that ECMWR takes (R330). -/
theorem ecmwr_mask {h : Hart} {a : Reg} {m : BitVec 16384}
    (hm : ∀ i : Nat, i < 16384 → m.getLsbD i = (decide (i < h.hr.evl.toNat) && (h.v[a]).val.getLsbD i)) :
    (h.v[a]).val &&& lowMask h.hr.evl.toNat = m := by
  apply BitVec.eq_of_getLsbD_eq
  intro i hi
  rw [hm i hi, BitVec.getLsbD_and, getLsbD_lowMask hi, Bool.and_comm]

/-- Whether a TINV of the hart at the front removes an entry, as `tinv` computes it (R61). -/
def tinvHit (s : State) (kind opnd : Nat) (t : TlbEntry) : Bool :=
  t.tenant == s.h.id.tenant && (match kind with
    | 0 => decide (t.base ≤ opnd) && decide (opnd < t.base + t.size) && (t.asid == s.h.hr.asid.toNat || t.pte.getLsbD 5)
    | 1 => t.asid == opnd % 2 ^ 16
    | _ => true)

theorem tinvHit_iff (s : State) (kind opnd : Nat) (t : TlbEntry) : tinvHit s kind opnd t = true ↔ removes s kind opnd t := by
  unfold tinvHit removes
  split
  · simp [and_assoc]
  · simp
  · simp_all

theorem run_tinv {s : State} (hm : s.h.handler = true) (hs : s.h.ms.strip = none) (hq : s.h.ms.storeQ = [])
    (hf : s.h.ms.fabricQ = []) (kind opnd : Nat) : (tinv kind opnd).run s = (.ok (), State.advance { s with
      h := { s.h with sy := { s.h.sy with tinvs := (kind, opnd, s.h.hr.asid.toNat, s.cycle) :: s.h.sy.tinvs } }
      dev := { s.dev with tlb := s.dev.tlb.filter (!tinvHit s kind opnd ·) } } 4) := by
  unfold tinv
  rw [run_bind_ok (run_handlerOnly hm hs), run_bind_ok (run_releaseWait_of_empty hq hf 4)]
  rfl

theorem exec_tinv {s : State} {i : Instr} {kind opnd : Nat} (form : (∃ a, i = .tinvVa a ∧ kind = 0 ∧ opnd = (s.getX a).toNat) ∨
    (∃ a, i = .tinvAsid a ∧ kind = 1 ∧ opnd = (s.getX a).toNat) ∨ (i = .tinvAll ∧ kind = 2 ∧ opnd = 0)) :
    exec i s = runM (tinv kind opnd) s := by
  rcases form with ⟨a, rfl, rfl, rfl⟩ | ⟨a, rfl, rfl, rfl⟩ | ⟨rfl, rfl, rfl⟩ <;> rfl

/-- With nothing under way TSYNC only ends (R62). -/
theorem exec_tsync {s : State} (hm : s.h.handler = true) (hs : s.h.ms.strip = none)
    (idle : ∀ h ∈ s.h :: s.others, h.ms.storeQ = [] ∧ h.ms.fabricQ = [] ∧ h.ms.loadQ = [] ∧ h.ms.strip = none)
    (copies : s.dev.cmds = []) :
    exec .tsync s = .next (State.advance { s with h := { s.h with sy := { s.h.sy with tinvs := [] } } } 4) := by
  have hdrain : State.eachHart State.drainQueues s = s :=
    State.eachHart_of_idle fun t ht => State.drainQueues_of_empty (idle _ ht).1 (idle _ ht).2.1
  have hparts : ∀ h ∈ s.harts, h.pendingParts = [] := by
    intro h hh
    obtain ⟨hq, hf, -, hst⟩ := idle h hh
    simp [Hart.pendingParts, Hart.ownStores, hq, hf, hst]
  have hloads : ∀ h ∈ s.harts, h.loadsOut s.h.id.tenant = false := by
    intro h hh
    obtain ⟨-, -, hl, -⟩ := idle h hh
    simp [Hart.loadsOut, hl]
  have hstores : (s.harts.any (·.pendingParts.any fun p => s.h.sy.tinvs.any (p.map.under s.h.id.tenant))) = false :=
    List.any_eq_false.mpr fun h hh => by simp [hparts h hh]
  have hout : s.harts.any (·.loadsOut s.h.id.tenant) = false := List.any_eq_false.mpr fun h hh => by simp [hloads h hh]
  refine runM_ok (m := tsync) ?_
  unfold tsync
  rw [run_bind_ok (run_handlerOnly hm hs), run_bind_ok (run_modify _ s), hdrain, run_bind_ok (run_get s)]
  dsimp only
  rw [hstores, hout, copies, Bool.and_false, List.any_nil, if_neg (by decide)]
  rfl

theorem handlerForms : HandlerForms := by
  intro s i u hi hm hs
  cases hi with
  | hxchg d =>
    refine ⟨_, exec_hxchg hm hs d, ?_⟩
    rw [State.setX_h, Hart.setX_hr]
    exact done_advance (by decide) (Hart.setX_pc ..) (Hart.setX_lp ..)
  | ecmrd d m hbits =>
    refine ⟨_, exec_ecmrd hm hs d, ?_⟩
    rw [setWhole_ecmrd d hbits]
    exact done_advance (by decide) rfl rfl
  | ecmwr a m k hbits below at_ =>
    refine ⟨_, exec_ecmwr hm hs a, ?_⟩
    have hk : lowestClear m 0 s.h.hr.evl.toNat = k :=
      lowestClear_eq (Nat.zero_le k) (fun j _ => below j) (by omega) fun h => at_.2 (by omega)
    rw [ecmwr_mask hbits, hk]
    exact done_advance (by decide) rfl rfl
  | tmset a => exact ⟨_, exec_tmset hm hs a, done_advance (by decide) rfl rfl⟩
  | tinv i kind opnd stays form quiet hl =>
    refine ⟨_, (exec_tinv form).trans (runM_ok (run_tinv hm hs quiet.1 quiet.2 kind opnd)), ?_⟩
    have hfilter : (!tinvHit s kind opnd ·) = stays := by
      funext e
      rw [Bool.eq_iff_iff, hl, Bool.not_eq_true', ← tinvHit_iff, Bool.not_eq_true]
    rw [hfilter]
    exact done_advance (by decide) rfl rfl
  | tsync idle copies => exact ⟨_, exec_tsync hm hs idle copies, done_advance (by decide) rfl rfl⟩

/-! ### Forms of both modes -/

section

variable {s : State} (hs : s.h.ms.strip = none)
include hs

/-- WAIT with its event, or behind its deadline, ends (R297). -/
theorem run_waitEvent (d a : Reg) (h : s.h.sy.evt = true ∨ (s.getX a ≠ 0 ∧ (s.getX a).toNat ≤ s.time)) :
    (waitEvent d a).run s = (.ok (), State.advance { s.setX d (if s.h.sy.evt then 1 else 0) with
      h := { (s.setX d (if s.h.sy.evt then 1 else 0)).h with
        sy := { s.h.sy with evt := false, mon := none, monAddr := 0 }
        ms := { s.h.ms with bound := [] } } } 4) := by
  have hgo : (!s.h.sy.evt && !((s.getX a).toNat != 0 && decide ((s.getX a).toNat ≤ s.time))) = false := by
    rcases h with h | ⟨h1, h2⟩
    · simp [h]
    · have h1' : (s.getX a).toNat ≠ 0 := fun e => h1 (BitVec.eq_of_toNat_eq e)
      simp [h1', h2]
  have hval : BitVec.ofNat 64 s.h.sy.evt.toNat = if s.h.sy.evt then 1 else 0 := by cases s.h.sy.evt <;> rfl
  unfold waitEvent
  rw [run_bind_ok (run_noStrip hs), run_bind_ok (run_get s), run_bind_ok (run_readX a s)]
  dsimp only
  rw [hgo, if_neg (by decide), run_bind_ok (run_writeX d _ s), hval, run_bind_ok (run_modH _ _), acquire,
    run_bind_ok (run_modH _ _), run_retire]
  simp only [State.setX_h, Hart.setX_sy, Hart.setX_ms]

theorem exec_sev (a : Reg) (hq : s.h.ms.storeQ = []) (hf : s.h.ms.fabricQ = []) :
    exec (.sev a) s = .next (State.advance (s.mapHarts fun h =>
      if h.id.gang == s.h.id.gang && h.status != .vacant &&
        ((s.getX a).toNat == 2 ^ 64 - 1 || (decide ((s.getX a).toNat < h.id.gangsz) && h.id.rank == (s.getX a).toNat))
      then { h with sy := { h.sy with evt := true } } else h) 4) := by
  refine runM_ok (m := sendEvent a) ?_
  unfold sendEvent
  rw [run_bind_ok (run_noStrip hs), run_bind_ok (run_flushStores_of_empty hq hf)]
  rfl

theorem exec_tprobe (d a : Reg) (k : BitVec 2) : exec (.tprobe d a k) s = .next (State.advance (s.setX d
    (BitVec.ofNat 64 (probeWord (s.getX a).toNat (s.probe s.h.ctx (s.getX a).toNat (probeKind k))))) 4) :=
  runM_ok (run_bind_ok (run_noStrip hs))

theorem exec_spread (d a : Reg) :
    exec (.spread d a) s = .next (State.advance (s.setX d (s.h.db.pairWord (s.getX a).toNat)) 4) :=
  runM_ok (run_bind_ok (run_noStrip hs))

theorem exec_spclr : exec .spclr s = .next (State.advance { s with h := { s.h with db := s.h.db.clearPairs } } 4) :=
  runM_ok (run_bind_ok (run_noStrip hs))

theorem exec_tmark (a : Reg) : exec (.tmark a) s = .next (State.advance (s.traceRec 7 0 (s.getX a).toNat) 4) :=
  runM_ok (run_bind_ok (run_noStrip hs))

end

/-- A trace record leaves the harts. -/
@[simp] theorem State.traceRec_h (s : State) (k e x : Nat) : (s.traceRec k e x).h = s.h := by
  unfold State.traceRec
  split <;> rfl

theorem probeKind_eq (k : BitVec 2) :
    probeKind k = if k = 0 then .load else if k = 1 then .store else if k = 2 then .fetch else .amo := by
  revert k
  decide

/-- The words of a stall-pair entry (R354). -/
theorem ofNat_stallEntry_word (e : StallEntry) (i : Nat) : BitVec.ofNat 64 (e.word i) =
    if i = 0 then e.kind ++ (0 : BitVec 8) ++ e.ppc
    else if i = 1 then e.cpc.setWidth 64
    else if i = 2 then e.events ++ (0 : BitVec 16) ++ e.elag
    else e.lost := by
  unfold StallEntry.word
  have hk := e.kind.isLt
  have hp := e.ppc.isLt
  have hv := e.events.isLt
  have hl := e.elag.isLt
  split
  · apply BitVec.eq_of_toNat_eq
    simp only [if_true, toNat_append_eq_add, BitVec.ofNat_eq_ofNat, BitVec.toNat_ofNat]
    omega
  · simp
  · apply BitVec.eq_of_toNat_eq
    simp only [OfNat.ofNat_ne_zero, OfNat.ofNat_ne_one, if_true, if_false, toNat_append_eq_add, BitVec.ofNat_eq_ofNat,
      BitVec.toNat_ofNat]
    omega
  · simp_all

/-- Word `k` of the stall-pair table (R355). -/
theorem pairWord_eq (d : DebugState) (k : Nat) : d.pairWord k =
    if k < 128 then
      match d.table[k / 4]? with
      | none => 0
      | some e =>
        if k % 4 = 0 then e.kind ++ (0 : BitVec 8) ++ e.ppc
        else if k % 4 = 1 then e.cpc.setWidth 64
        else if k % 4 = 2 then e.events ++ (0 : BitVec 16) ++ e.elag
        else e.lost
    else if k = 128 then d.counter[0]
    else if k = 129 then d.counter[1]
    else if k = 130 then d.counter[2]
    else if k = 131 then d.counter[3]
    else 0 := by
  unfold DebugState.pairWord
  rcases lt_or_ge k 128 with lo | hi
  · simp only [if_pos lo]
    cases d.table[k / 4]? with
    | none => rfl
    | some e => exact ofNat_stallEntry_word e (k % 4)
  · simp only [if_neg (not_lt.mpr hi)]
    rcases lt_or_ge k 132 with in4 | out
    · interval_cases k <;> rfl
    · simp (disch := omega) only [if_neg]

theorem probeWord_error (va : Nat) (c : Cause) :
    BitVec.ofNat 64 (probeWord va (.error c)) = 1#1 ++ (0 : BitVec 55) ++ c.code := by
  apply BitVec.eq_of_toNat_eq
  have := c.code.isLt
  simp only [probeWord, toNat_append_eq_add, BitVec.ofNat_eq_ofNat, BitVec.toNat_ofNat]
  omega

/-- The word of a mapped page (R61). -/
theorem probeWord_mapped {s : State} {va : Nat} {k : Kind} {l : Leaf} {loc : Loc} (m : Mapped s va k l loc) :
    probeWord va (s.probe s.h.ctx va k) = bits l.pte 8 2 * 2 ^ 57 + loc.attr * 2 ^ 54 +
      (bits l.pte 16 36 * 2 ^ 16 / l.size * l.size + va % l.size) % 2 ^ 52 := by
  have hsz : loc.sz = bits l.pte 8 2 := by rw [m.place]; rfl
  rw [probe_mapped m, probeWord, hsz]
  rfl

theorem taskForms : TaskForms := by
  intro s i u hi hs
  cases hi with
  | wait d a h =>
    exact ⟨_, runM_ok (run_waitEvent hs d a h), done_advance (by decide) (Hart.setX_pc s.h d _) (Hart.setX_lp s.h d _)⟩
  | sev a f quiet hf =>
    refine ⟨_, exec_sev hs a quiet.1 quiet.2, ?_⟩
    have hhit : f = fun h => if h.id.gang == s.h.id.gang && h.status != .vacant &&
          ((s.getX a).toNat == 2 ^ 64 - 1 || (decide ((s.getX a).toNat < h.id.gangsz) && h.id.rank == (s.getX a).toNat))
        then { h with sy := { h.sy with evt := true } } else h := by
      funext h
      rw [hf]
      simp [and_assoc]
    have hself : (f s.h).pc = s.h.pc ∧ (f s.h).lp = s.h.lp := by
      rw [hf]
      split <;> exact ⟨rfl, rfl⟩
    rw [← hhit]
    exact done_advance (u := s.mapHarts f) (by decide) hself.1 hself.2
  | tprobe d a k kind l loc hk hm =>
    refine ⟨_, exec_tprobe hs d a k, ?_⟩
    rw [probeKind_eq, ← hk, probeWord_mapped hm]
    exact done_advance (by decide) (Hart.setX_pc ..) (Hart.setX_lp ..)
  | tprobeFault d a k kind c hk hf =>
    refine ⟨_, exec_tprobe hs d a k, ?_⟩
    rw [probeKind_eq, ← hk, hf, probeWord_error]
    exact done_advance (by decide) (Hart.setX_pc ..) (Hart.setX_lp ..)
  | spread d a w hw =>
    refine ⟨_, exec_spread hs d a, ?_⟩
    rw [pairWord_eq, hw]
    exact done_advance (by decide) (Hart.setX_pc ..) (Hart.setX_lp ..)
  | spclr => exact ⟨_, exec_spclr hs, done_advance (by decide) rfl rfl⟩
  | tmark a =>
    exact ⟨_, exec_tmark hs a, done_advance (by decide) (congrArg Hart.pc (s.traceRec_h ..)) (congrArg Hart.lp (s.traceRec_h ..))⟩

/-- Settles O21: with nothing of the hart's stores under way no form waits, and each leaves what its rule names. -/
theorem systemForms : Obligations.SystemForms := ⟨handlerForms, taskForms⟩

end Sys2Proof.Machine
end

section
/-! Accesses of local memory within one page and one line (R56, R131, R149, R267, R273): where a mapped access leads, and
what a load of the hart takes. -/

namespace Sys2Proof.Machine

open Sys2Proof.Claims

/-! ### Running lists of steps -/

theorem run_mapM_singleton {α β : Type} {f : α → M β} {a : α} {b : β} {s t : State} (h : (f a).run s = (.ok b, t)) :
    ([a].mapM f).run s = (.ok [b], t) := by
  rw [List.mapM_cons, run_bind_ok h, List.mapM_nil]
  rfl

theorem run_forM_singleton {α : Type} {f : α → M Unit} {a : α} {s t : State} (h : (f a).run s = (.ok (), t)) :
    ([a].forM f).run s = (.ok (), t) := by
  show (f a >>= fun _ => ([] : List α).forM f).run s = _
  rw [run_bind_ok h]
  rfl

/-! ### Places -/

/-- Local memory: HBM or the CXL pool. -/
def LocalKey (k : Nat) : Prop := regionOf k = .hbm ∨ regionOf k = .cxl

theorem localKey_iff (k : Nat) : LocalKey k ↔ k < 0x8000000000 ∨ (0x100000000000 ≤ k ∧ k < 0x200000000000) := by
  unfold LocalKey regionOf drBase
  split_ifs <;> simp <;> omega

/-- A line lies in local memory as a whole. -/
theorem localKey_of_same_line {j k : Nat} (h : LocalKey k) (hl : j / 128 = k / 128) : LocalKey j := by
  rw [localKey_iff] at h ⊢
  omega

theorem awayFrom_of_local {k : Nat} (h : LocalKey k) : awayFrom k = none := by
  rcases h with h | h <;> simp [awayFrom, h]

theorem bankWaits_of_local {k : Nat} (h : LocalKey k) (d : Device) : d.bankWaits k = false := by
  rcases h with h | h <;> simp [Device.bankWaits, h]

theorem readHome_of_local {k : Nat} (h : LocalKey k) (s : State) (n : Nat) : s.readHome k n = s.dev.mem.getBytes k n := by
  rcases h with h | h <;> simp [State.readHome, h]

/-- An access within one 64 KiB frame is one stretch (R56). -/
theorem frames_eq_singleton {va n : Nat} (hn : 0 < n) (h : n ≤ stretch va) : frames va (n + 1) n = [(va, n)] := by
  obtain ⟨m, rfl⟩ := Nat.exists_eq_succ_of_ne_zero hn.ne'
  simp only [frames, Nat.min_eq_left h, Nat.sub_self, if_true, if_neg hn.ne']

/-- Bytes within one line are one piece (R273). -/
theorem linePieces_eq_singleton {k n : Nat} (hn : 0 < n) (h : k % 128 + n ≤ 128) : linePieces k (n + 1) n = [(k, n)] := by
  obtain ⟨m, rfl⟩ := Nat.exists_eq_succ_of_ne_zero hn.ne'
  simp only [linePieces, Nat.min_eq_left (Nat.le_sub_of_add_le' h), Nat.sub_self, if_true, if_neg hn.ne']

theorem lineParts_eq_singleton {va n : Nat} {loc : Loc} (hn : 0 < n) (h : loc.key % 128 + n ≤ 128) :
    lineParts [(va, loc, n)] = [(va, loc.key, n)] := by
  simp [lineParts, linePieces_eq_singleton hn h]

/-- An aligned access of at most one line lies in one frame. -/
theorem le_stretch_of_aligned {va n : Nat} (hwin : inWindow va = false) (hd : n ∣ 128) (al : va % n = 0) : n ≤ stretch va := by
  rw [stretch, hwin, if_neg (by decide)]
  have hfr : n ∣ 0x10000 := hd.trans (by decide)
  have hrest : n ∣ 0x10000 - va % 0x10000 :=
    Nat.dvd_sub hfr ((Nat.dvd_mod_iff hfr).mpr (Nat.dvd_of_mod_eq_zero al))
  exact Nat.le_of_dvd (by omega) hrest

section

variable {s : State} {va n : Nat} {k : Kind} {l : Leaf} {loc : Loc}

theorem run_translateHAt_mapped (m : Mapped s va k l loc) {bad : Loc → Bool} (hbad : bad loc = false) (el n : Nat) (spec : Bool) :
    (translateHAt bad el va k n spec).run s = (.ok loc, s) := by
  unfold translateHAt
  rw [run_bind_ok (run_getH s), run_bind_ok (run_translateAt_mapped m bad hbad n)]
  rfl

/-- An access of a mapped page within one frame has one place. -/
theorem run_places_mapped (m : Mapped s va k l loc) {bad : Refuses} (hbad : bad n va n loc = false) (hn : 0 < n)
    (hs : n ≤ stretch va) (el : Nat) (spec : Bool) : (places el va n k spec bad).run s = (.ok [(va, loc, n)], s) := by
  unfold places
  rw [frames_eq_singleton hn hs, placesGo, run_bind_ok (run_translateHAt_mapped m hbad el n spec), placesGo,
    run_bind_ok (run_pure _ s)]
  rfl

theorem run_bankWait_local (h : LocalKey loc.key) : (bankWait loc.key).run s = (.ok (), s) := by
  unfold bankWait
  rw [run_bind_ok (run_get s), bankWaits_of_local h, if_neg (by decide)]
  rfl

theorem run_bankReady_local (hloc : LocalKey loc.key) (hn : 0 < n) (hl : loc.key % 128 + n ≤ 128) :
    (bankReady [(va, loc, n)]).run s = (.ok (), s) := by
  have hlast : LocalKey (loc.key + n - 1) := localKey_of_same_line hloc (by omega)
  unfold bankReady
  rw [run_bind_ok (run_bankWait_local hloc), run_bind_ok (run_bankWait_local (loc := { key := loc.key + n - 1 }) hlast)]
  rfl

/-- The home's bytes in local memory (R267). -/
theorem run_bindHome_local (home : AtHome s loc n) (el va : Nat) :
    (bindHome el va loc.key n).run s = (.ok (s.dev.mem.getBytes loc.key n), s) := by
  have hread := readHome_of_local home.region s n
  unfold bindHome
  rw [run_bind_ok (run_get s), home.free, if_neg (by decide)]
  rcases home.region with hr | hr
  all_goals
    simp only [hr]
    rw [run_bind_ok (run_get s), home.intact, if_neg (by decide), hread]
    rfl

end

/-! ### Forwarding (R252, R267) -/

/-- The byte at location `k` once a part is laid over it. -/
def Part.over (p : Part) (k : Nat) (b : Byte) : Byte :=
  if p.key ≤ k ∧ k < p.key + p.bytes.length then
    match p.mask with
    | none => (p.bytes[k - p.key]?).getD 0
    | some m => (b &&& ~~~m) ||| ((p.bytes[k - p.key]?).getD 0 &&& m)
  else b

theorem seen_eq_foldl (ps : List Part) (b : Byte) (k : Nat) : seen ps b k = ps.foldl (fun b p => p.over k b) b := rfl

theorem getElem?_overlay (p : Part) : ∀ (bs : List Byte) (k j : Nat), (overlay k p bs)[j]? = bs[j]?.map (p.over (k + j))
  | [], k, j => rfl
  | b :: r, k, 0 => rfl
  | b :: r, k, j + 1 => by
    rw [overlay, List.getElem?_cons_succ, List.getElem?_cons_succ, getElem?_overlay p r (k + 1) j,
      show k + 1 + j = k + (j + 1) by omega]

/-- Bytes that the hart's stores are laid over are those that it sees. -/
theorem getElem?_forward (k j : Nat) : ∀ (ps : List Part) (bs : List Byte),
    (forward ps k bs)[j]? = bs[j]?.map fun b => seen ps b (k + j)
  | [], bs => by simp [forward, seen_eq_foldl]
  | p :: ps, bs => by
    have ih := getElem?_forward k j ps (overlay k p bs)
    rw [getElem?_overlay, Option.map_map] at ih
    exact ih

theorem length_overlay (p : Part) : ∀ (bs : List Byte) (k : Nat), (overlay k p bs).length = bs.length
  | [], _ => rfl
  | b :: r, k => by rw [overlay, List.length_cons, List.length_cons, length_overlay p r]

theorem length_forward (k : Nat) : ∀ (ps : List Part) (bs : List Byte), (forward ps k bs).length = bs.length
  | [], _ => rfl
  | p :: ps, bs => (length_forward k ps (overlay k p bs)).trans (length_overlay p bs k)

/-- A whole part that covers the location hides what was there. -/
theorem seen_of_covered (k : Nat) (b b' : Byte) : ∀ {ps : List Part},
    (∃ p ∈ ps, p.mask = none ∧ p.key ≤ k ∧ k < p.key + p.bytes.length) → seen ps b k = seen ps b' k
  | [], ⟨_, hp, _⟩ => absurd hp List.not_mem_nil
  | q :: ps, ⟨p, hp, hm, hk⟩ => by
    rw [seen_eq_foldl, seen_eq_foldl, List.foldl_cons, List.foldl_cons]
    rcases List.mem_cons.mp hp with rfl | hp
    · rw [Part.over, Part.over, if_pos hk, if_pos hk, hm]
    · exact seen_of_covered k _ _ ⟨p, hp, hm, hk⟩

theorem exists_of_covered {ps : List Part} : ∀ {n k j : Nat}, covered ps k n = true → j < n →
    ∃ p ∈ ps, p.mask = none ∧ p.key ≤ k + j ∧ k + j < p.key + p.bytes.length
  | 0, _, _, _, hj => absurd hj (Nat.not_lt_zero _)
  | n + 1, k, j, h, hj => by
    simp only [covered, Bool.and_eq_true, List.any_eq_true, beq_iff_eq, decide_eq_true_eq] at h
    obtain ⟨⟨p, hp, ⟨hm, hlo⟩, hhi⟩, rest⟩ := h
    cases j with
    | zero => exact ⟨p, hp, hm, hlo, hhi⟩
    | succ j =>
      obtain ⟨q, hq, hqm, hqk⟩ := exists_of_covered (j := j) rest (by omega)
      rw [show k + 1 + j = k + (j + 1) by omega] at hqk
      exact ⟨q, hq, hqm, hqk⟩

/-- Where own stores give every byte, the home's do not matter. -/
theorem forward_of_covered {ps : List Part} {k : Nat} {bs cs : List Byte} (hc : covered ps k bs.length = true)
    (hlen : cs.length = bs.length) : forward ps k bs = forward ps k cs := by
  apply List.ext_getElem?
  intro j
  rw [getElem?_forward, getElem?_forward]
  rcases lt_or_ge j bs.length with hj | hj
  · rw [List.getElem?_eq_getElem hj, List.getElem?_eq_getElem (hlen ▸ hj)]
    exact congrArg some (seen_of_covered _ _ _ (exists_of_covered hc hj))
  · rw [List.getElem?_eq_none hj, List.getElem?_eq_none (hlen ▸ hj)]

/-! ### What a load takes -/

/-- The `n` bytes that the hart sees from location `k` on, its own stores before the home. -/
def State.seenBytes (s : State) (k n : Nat) : List Byte := forward s.h.ownStores k (s.dev.mem.getBytes k n)

theorem length_seenBytes (s : State) (k n : Nat) : (s.seenBytes k n).length = n := by
  rw [State.seenBytes, length_forward, Memory.getBytes_length]

theorem getD_seenBytes (s : State) (k : Nat) {n j : Nat} (hj : j < n) :
    ((s.seenBytes k n)[j]?).getD 0 = seen s.h.ownStores (s.dev.mem.get (k + j)) (k + j) := by
  rw [State.seenBytes, getElem?_forward, Memory.getBytes_get _ _ _ _ hj]
  rfl

/-- A number of bytes, summed up byte by byte (R3). -/
theorem ofBytes_eq_sum (bs : List Byte) :
    ofBytes bs = ((List.range bs.length).map fun j => ((bs[j]?).getD 0).toNat * 256 ^ j).sum := by
  induction bs with
  | nil => rfl
  | cons b r ih =>
    have hshift : ((List.range r.length).map fun j => ((r[j]?).getD 0).toNat * 256 ^ (j + 1)).sum =
        256 * ((List.range r.length).map fun j => ((r[j]?).getD 0).toNat * 256 ^ j).sum := by
      rw [← List.sum_map_mul_left]
      congr 1
      apply List.map_congr_left
      intro j _
      ring
    rw [ofBytes, List.length_cons, List.range_succ_eq_map, List.map_cons, List.sum_cons, List.map_map]
    simp only [Function.comp_def, List.getElem?_cons_succ, List.getElem?_cons_zero, Option.getD_some, Nat.succ_eq_add_one, hshift,
      ← ih]
    ring

theorem ofBytes_seenBytes (s : State) (k n : Nat) : ofBytes (s.seenBytes k n) = seenNat s k n := by
  rw [ofBytes_eq_sum, length_seenBytes, seenNat]
  congr 1
  apply List.map_congr_left
  intro j hj
  rw [getD_seenBytes s k (List.mem_range.mp hj)]

/-- Every store of the hart has its location, and none is the line of a DISCARD that is ahead (R250, R271). -/
def State.Settled (s : State) : Prop := ∀ p ∈ s.h.ownStores, p.tier = none ∧ p.early = 0

theorem State.resolveOwn_of_settled {s : State} (h : s.Settled) : s.resolveOwn = s := by
  have hany : s.h.ownStores.any (·.tier.isSome) = false := List.any_eq_false.mpr fun p hp => by simp [(h p hp).1]
  unfold State.resolveOwn
  rw [hany]
  rfl

section

variable {s : State} {va n : Nat} {k : Kind} {l : Leaf} {loc : Loc}

/-- One piece of a load takes what the hart sees. -/
theorem run_bindPiece_local (home : AtHome s loc n) (hst : s.Settled) (hlook : s.h.ms.look = none) (el va : Nat) :
    (bindPiece el va loc.key n).run s = (.ok (s.seenBytes loc.key n), s) := by
  have hown : s.h.ownStores.filter (·.early == 0) = s.h.ownStores :=
    List.filter_eq_self.mpr fun p hp => by simp [(hst p hp).2]
  unfold bindPiece
  rw [run_bind_ok (run_getH s), hown]
  dsimp only
  split
  · next hc =>
    have hzero : forward s.h.ownStores loc.key (List.replicate n 0) = s.seenBytes loc.key n :=
      forward_of_covered (by rwa [List.length_replicate]) (by rw [Memory.getBytes_length, List.length_replicate])
    rw [hzero, run_pure]
  · rw [hlook, bindLoad, awayFrom_of_local home.region]
    dsimp only
    rw [run_bind_ok (run_bindHome_local home el va)]
    rfl

/-- One placed access of a load that has bound nothing ahead of its turn. -/
theorem run_bindPlaced_local (home : AtHome s loc n) (hn : 0 < n) (hst : s.Settled) (hlook : s.h.ms.look = none)
    (hb : s.h.ms.bound = []) (el va : Nat) :
    (bindPlaced el [(va, loc, n)]).run s = (.ok (s.seenBytes loc.key n, loc.key), s) := by
  have hnone : s.h.boundElem el = none := by simp [Hart.boundElem, hb]
  have hpiece := run_mapM_singleton (f := fun p : Nat × Nat × Nat => bindPiece el p.1 p.2.1 p.2.2) (a := (va, loc.key, n))
    (run_bindPiece_local home hst hlook el va)
  unfold bindPlaced
  rw [run_bind_ok (run_getH s), lineParts_eq_singleton hn home.line, hnone]
  dsimp only [Option.bind_none]
  rw [run_bind_ok hpiece, run_bind_ok (run_modH _ s), Hart.dropRead_idle _ _ hb, run_bind_ok (run_pure _ s),
    List.flatten_singleton]
  rfl

/-- A load within one frame and one line of local memory takes what the hart sees there, and changes nothing. -/
theorem run_loadMany_local (m : Mapped s va .load l loc) (home : AtHome s loc n) (hn : 0 < n) (hs : n ≤ stretch va)
    (w : Unwatched s .load va n) {bad : Refuses} (hbad : bad n va n loc = false) (el : Nat) (spec : Bool) :
    (loadMany el [(va, n)] spec bad).run s = (.ok [(s.seenBytes loc.key n, loc.key)], s) := by
  obtain ⟨hwatch, step⟩ := w
  have hattr : (loc.attr == 2) = false := by simpa using Nat.ne_of_lt m.idempotent
  have hplaces := run_mapM_singleton (f := fun a : Nat × Nat => places el a.1 a.2 .load spec bad) (a := (va, n))
    (run_places_mapped m hbad hn hs el spec)
  have hready := run_forM_singleton (f := bankReady) (a := [(va, loc, n)]) (run_bankReady_local home.region hn home.line (s := s))
  have hplaced := run_mapM_singleton (f := bindPlaced el) (a := [(va, loc, n)])
    (run_bindPlaced_local home hn step.stores step.look step.bound el va)
  have hnote := run_forM_singleton (f := fun a : Nat × Nat => noteWatch .load a.1 a.2 spec (some el)) (a := (va, n)) (s := s) (t := s)
    (by unfold noteWatch; rw [run_bind_ok (run_getH s), hwatch]; rfl)
  have hrec : (raiseRecorded el spec).run s = (.ok (), s) := by
    unfold raiseRecorded
    rw [run_bind_ok (run_getH s)]
    simp [Hart.boundElem, step.bound, run_pure]
  unfold loadMany
  rw [run_bind_ok (run_getH s), step.look]
  dsimp only
  rw [run_bind_ok hrec, run_bind_ok (run_modify _ s), State.resolveOwn_of_settled step.stores,
    run_bind_ok hplaces]
  simp only [List.any_cons, List.any_nil, hattr, Bool.or_self, Bool.false_eq_true, if_false]
  rw [run_bind_ok hready, run_bind_ok hplaced, run_bind_ok hnote]
  rfl

theorem run_loadPlaced_local (m : Mapped s va .load l loc) (home : AtHome s loc n) (hn : 0 < n) (hs : n ≤ stretch va)
    (w : Unwatched s .load va n) {bad : Refuses} (hbad : bad n va n loc = false) (el : Nat) (spec : Bool) :
    (loadPlaced el va n spec bad).run s = (.ok (s.seenBytes loc.key n, loc.key), s) := by
  unfold loadPlaced
  rw [run_bind_ok (run_loadMany_local m home hn hs w hbad el spec)]
  rfl

end

end Sys2Proof.Machine
end

section
/-! Looking ahead of a hart (R263, R266, R267, R271) along a path of one instruction: what the look finds of an aligned
load of local memory and of a DISCARD of one line, and what BIND and EARLY leave. -/

namespace Sys2Proof.Machine

open Sys2Proof.Claims

/-! ### What a hart sees of the machine -/

/-- `t` is `s` but for fields of its front hart that bear neither on what it sees through its translations nor on what
stands at its PC. -/
structure State.SeesAs (s t : State) : Prop where
  dev : t.dev = s.dev
  others : t.others = s.others
  cycle : t.cycle = s.cycle
  issue : t.issue = s.issue
  id : t.h.id = s.h.id
  status : t.h.status = s.h.status
  halted : t.h.db.halted = s.h.db.halted
  root : t.h.hr.ptroot = s.h.hr.ptroot
  asid : t.h.hr.asid = s.h.hr.asid
  pc : t.h.pc = s.h.pc
  lp : t.h.lp = s.h.lp

section

variable {s t : State} (v : s.SeesAs t)
include v

theorem State.SeesAs.ctx_eq : t.h.ctx = s.h.ctx := by
  simp only [Hart.ctx, v.id, v.root, v.asid]

theorem State.SeesAs.hartState_eq (die sel : Nat) : t.hartState die sel = s.hartState die sel := by
  unfold State.hartState State.harts
  simp only [List.find?_cons, List.any_cons, v.id, v.status, v.others, v.dev]
  split
  · rfl
  · cases hq : (decide (sel < 256) && s.h.id.hartid.toNat == 256 * die + sel &&
        (s.h.status == .running || s.h.status == .stopped)) <;> simp [v.halted]

theorem State.SeesAs.readPte_eq (tenant pa : Nat) : t.readPte tenant pa = s.readPte tenant pa := by
  simp only [State.readPte, State.readReg, State.dmReg, State.haltedAt, v.hartState_eq, v.dev]

theorem State.SeesAs.walkFrom_eq (tenant va base n : Nat) : t.walkFrom tenant va base n = s.walkFrom tenant va base n := by
  induction n generalizing base with
  | zero => rfl
  | succ n ih => simp only [State.walkFrom, State.leafAt, v.readPte_eq, v.dev, ih]

theorem State.SeesAs.coreOfRank_eq (c : Ctx) (k : Nat) : t.coreOfRank c k = s.coreOfRank c k := by
  unfold State.coreOfRank State.harts
  simp only [List.find?_cons, v.id, v.status, v.others]
  split
  · rfl
  · cases hq : (s.h.id.gang.toNat == c.gang && s.h.id.rank == k && s.h.status != .vacant) <;> simp [v.id]

theorem State.SeesAs.loc_eq (l : Leaf) (c : Ctx) (va : Nat) : l.loc t c va = l.loc s c va := by
  simp only [Leaf.loc, v.dev, v.cycle]

theorem State.SeesAs.probe_eq (c : Ctx) (va : Nat) (k : Kind) : t.probe c va k = s.probe c va k := by
  simp only [State.probe, State.fixed, State.window, v.coreOfRank_eq, v.dev, v.walkFrom_eq, v.loc_eq]

/-- What stands at an address is seen the same. -/
theorem State.SeesAs.peekWord_eq (pc : BitVec 52) : t.peekWord pc = s.peekWord pc := by
  have hin : t.h.inLoop pc = s.h.inLoop pc := by simp only [Hart.inLoop, v.lp]
  simp only [State.peekWord, hin, v.lp, v.ctx_eq, v.probe_eq, v.dev]

theorem State.SeesAs.nextInstr_eq : t.nextInstr = s.nextInstr := by
  simp only [State.nextInstr, State.instrAt, v.pc, v.peekWord_eq, v.issue]

/-- A mapped address leads to the same place. -/
theorem mapped_of_seesAs {va : Nat} {k : Kind} {l : Leaf} {loc : Loc} (m : Mapped s va k l loc) (ho : t.oracle = []) :
    Mapped t va k l loc where
  address := m.address
  walk := by
    rw [v.id, v.root]
    simpa only [State.walk, v.walkFrom_eq, v.dev] using m.walk
  permits := m.permits
  resident := m.resident
  accessed := v.dev ▸ m.accessed
  dirty := m.dirty
  place := by rw [v.loc_eq, v.ctx_eq]; exact m.place
  grant := by rw [v.loc_eq, v.ctx_eq, v.id, v.dev]; exact m.grant
  idempotent := m.idempotent
  choices := ho

end

/-! ### Looks along a path of one instruction -/

section

variable {s : State} {i : Instr}

theorem guessBytes_one (pc : BitVec 52) : guessBytes [pc] 0 = 0 := rfl

/-- There is nothing to guess: one look is every look. -/
theorem everyLook_one (pc : BitVec 52) (p : List Byte → Bool) : everyLook [pc] 0 p = p [] := by
  simp [everyLook, guessBytes_one, toBytes]

theorem someSight_one (pc : BitVec 52) : s.someSight [pc] 0 = if (s.sight [pc] 0 []).isSome then some [] else none := by
  simp only [State.someSight, guessBytes_one, pow_zero, firstGuess, toBytes, Option.none_or]
  rfl

/-- Where the look at the hart's own next instruction stands. -/
def State.lookOne (s : State) (watch : Vector Word 4) : Ahead := ⟨s.lookFrom [] watch, if s.h.ms.strip.isSome then 1 else 0⟩

theorem trail_one (watch : Vector Word 4) : s.trail [s.h.pc] watch [] = some [s.lookOne watch] := by
  have hpc : (s.lookFrom [] watch).h.pc = s.h.pc := rfl
  rw [State.trail, Ahead.trail, if_pos hpc, State.lookOne]

theorem lookEnd_one : s.lookEnd [s.h.pc] [] = some (s.lookOne (Vector.replicate 4 0)) := by
  rw [State.lookEnd, trail_one]
  rfl

theorem seesAs_lookFrom (guess : List Byte) (watch : Vector Word 4) : s.SeesAs (s.lookFrom guess watch) :=
  ⟨rfl, rfl, rfl, rfl, rfl, rfl, rfl, rfl, rfl, rfl, rfl⟩

/-- The look sees the hart's own stores. -/
theorem storesSeen_one : s.storesSeen [s.h.pc] [] = s.h.ownStores := by
  rw [State.storesSeen, lookEnd_one]
  rfl

theorem mayRunAhead_of_runsAhead (free : RunsAhead s) : s.h.mayRunAhead = true := by
  obtain ⟨⟨hrun, hhalt, hstep, hreq⟩, ⟨hentry, hret⟩, ⟨hhi, -⟩, -⟩ := free
  simp [Hart.mayRunAhead, Hart.runs, hrun, hhalt, hstep, hreq, hentry, hret, hhi]

end

/-! ### A scalar load on a look -/

theorem asks_loads {s : State} {d : Reg} {va : Word} {n len : Nat} {sg : Bool} {i : Instr} (ld : ScalarLoad s i d va n sg len) :
    asks i = none ∧ plainAmo i = none ∧ leavesNothing i = false ∧ monitors i = false ∧ acquires i = false := by
  cases ld <;> exact ⟨rfl, rfl, rfl, rfl, rfl⟩

/-- A scalar load as the stream performs it. -/
theorem lookAt_scalarLoad {s : State} {d : Reg} {va : Word} {n len : Nat} {sg : Bool} {i : Instr}
    (ld : ScalarLoad s i d va n sg len) : ∃ a disp, va = s.getX a + disp ∧
      ∀ t : State, t.lookAt i = some (runM (loadScalar d a disp n sg len) t) := by
  cases ld <;> exact ⟨_, _, rfl, fun _ => rfl⟩

theorem width_scalarLoad {s : State} {d : Reg} {va : Word} {n len : Nat} {sg : Bool} {i : Instr}
    (ld : ScalarLoad s i d va n sg len) : n = 1 ∨ n = 2 ∨ n = 4 ∨ n = 8 := by
  cases ld <;> simp

theorem run_loadScalar_error {t u : State} {a d : Reg} {disp : Word} {n len : Nat} {sg : Bool} {e : Stop}
    (h : (loadMany 0 [((t.getX a + disp).toNat, n)] false scalarRule).run t = (.error e, u)) :
    (loadScalar d a disp n sg len).run t = (.error e, u) := by
  have hnat : (loadNat 0 (t.getX a + disp).toNat n false).run t = (.error e, u) := by
    unfold loadNat loadBytes loadPlaced
    exact run_bind_error (run_bind_error (run_bind_error h))
  unfold loadScalar
  rw [run_bind_ok (run_readX a t), run_bind_error hnat]

/-- A look that has been left is a state that goes on. -/
theorem runM_left {m : M Unit} {s t : State} (h : m.run s = (.error .left, t)) : runM m s = .next t := by simp [runM, h]

/-- A state in which a look is noted. -/
def State.withLook (s : State) (l : Option Look) : State := { s with h := { s.h with ms := { s.h.ms with look := l } } }

theorem run_lookFound {α : Type} (l : Look) (s : State) : (lookFound l : M α).run s = (.error .left, s.withLook (some l)) := rfl

theorem run_aimed_asks {α : Type} {l : Look} (hl : l.real = false) (el : Nat) (as : List (Nat × Nat)) (spec : Bool) (bad : Refuses)
    (s : State) : (aimed l el as spec bad : M α).run s = (.error .left, s.withLook (some { l with asked := as })) := by
  unfold aimed
  rw [hl]
  exact run_bind_error (run_lookFound ..)

/-- A look that comes to the element it looks for. -/
theorem run_loadMany_aimed {t u : State} {l : Look} {el : Nat} {as : List (Nat × Nat)} {spec : Bool} {bad : Refuses} {e : Stop}
    (hl : t.h.ms.look = some l) (haim : l.aim = some el) (hb : t.h.ms.bound = [])
    (h : (aimed l el as spec bad : M PUnit).run t = (.error e, u)) : (loadMany el as spec bad).run t = (.error e, u) := by
  have hnot : t.h.hasBound el as = false := by simp [Hart.hasBound, Hart.boundElem, hb]
  unfold loadMany
  rw [run_bind_ok (run_getH t), hl]
  dsimp only
  rw [run_bind_ok (run_getH t), if_pos ⟨haim, hnot⟩, run_bind_error h]

theorem run_tryCatch_ok {α : Type} {m : M α} {f : Stop → M α} {s t : State} {a : α} (h : m.run s = (.ok a, t)) :
    (tryCatch m f).run s = (.ok a, t) := by
  have h' : m s = (.ok a, t) := h
  simp [tryCatch, tryCatchThe, MonadExceptOf.tryCatch, ExceptT.tryCatch, ExceptT.run, ExceptT.mk, bind, StateT.bind, h']
  rfl

section

variable {t : State} {va n : Nat} {l : Leaf} {loc : Loc}

/-- The element that a look has come to binds in local memory (R266, R267). -/
theorem run_bindAimed_local (m : Mapped t va .load l loc) (home : AtHome t loc n) (hn : 0 < n) (hs : n ≤ stretch va)
    (hst : t.Settled) (hlook : t.h.ms.look = none) (hb : t.h.ms.bound = []) {bad : Refuses} (hbad : bad n va n loc = false)
    (x : Look) (el : Nat) (spec : Bool) : (bindAimed x el [(va, n)] spec bad).run t =
      (.ok { el := el, vas := [(va, n)], parts := [(loc.key, t.seenBytes loc.key n)] }, t) := by
  have hattr : (loc.attr == 2) = false := by simpa using Nat.ne_of_lt m.idempotent
  have hplaces := run_mapM_singleton (f := fun a : Nat × Nat => places el a.1 a.2 .load spec bad) (a := (va, n))
    (run_places_mapped m hbad hn hs el spec)
  have hready := run_forM_singleton (f := bankReady) (a := [(va, loc, n)]) (run_bankReady_local home.region hn home.line (s := t))
  have hpiece := run_mapM_singleton (f := fun p : Nat × Nat × Nat => bindPiece el p.1 p.2.1 p.2.2) (a := (va, loc.key, n))
    (run_bindPiece_local home hst hlook el va)
  unfold bindAimed
  rw [run_bind_ok (run_modify _ t), State.resolveOwn_of_settled hst, run_bind_ok hplaces]
  simp only [List.any_cons, List.any_nil, hattr, Bool.or_self, Bool.false_eq_true, if_false]
  rw [run_bind_ok hready, run_bind_ok (run_getH t), run_bind_ok (run_getH t)]
  simp only [List.flatMap_cons, List.flatMap_nil, List.append_nil, lineParts_eq_singleton hn home.line, List.any_cons, List.any_nil,
    awayFrom_of_local home.region, Bool.or_self, Bool.false_eq_true, if_false]
  rw [run_bind_ok hpiece, run_bind_ok (run_modH _ t), Hart.dropRead_idle _ _ hb]
  rfl

/-- A look that is to bind leaves what has bound. -/
theorem run_aimed_binds {x : Look} (hreal : x.real = true) {el : Nat} {as : List (Nat × Nat)} {spec : Bool} {bad : Refuses}
    {u : State} {b : BoundElem} (h : (bindAimed x el as (spec || x.record) bad).run (t.withLook none) = (.ok b, u)) :
    (aimed x el as spec bad : M PUnit).run t = (.error .left, u.withLook (some { x with got := some b })) := by
  unfold aimed
  rw [hreal, Bool.not_true, if_neg (by decide), run_bind_ok (run_modH _ t)]
  exact (run_bind_ok (run_tryCatch_ok h)).trans (run_lookFound ..)

end

/-! ### BIND of an aligned scalar load (R266, R267) -/

/-- A look that seeks element 0 of the hart's next instruction. -/
def aimLook (real : Bool) : Look := { aim := some 0, real := real }

/-- The instruction at a place, outside strips, executed in search of element 0. -/
theorem seek_of_lookAt {p : Ahead} {i : Instr} {t : State} {real : Bool} (hi : p.s.nextInstr = some i)
    (hs : p.s.h.ms.strip = none) (hl : p.s.h.ms.look = some {})
    (h : (p.s.withLook (some (aimLook real))).lookAt i = some (.next t)) : p.seek 0 real = some t := by
  unfold Ahead.seek
  rw [hi, hs, hl, Option.bind_some]
  exact (congrArg (fun o => match o with | some (.next t) => some t | _ => none) h :)

theorem Hart.keepStores_of_all {h : Hart} {keep : Part → Bool} (hs : h.ms.strip = none)
    (hk : ∀ p ∈ h.ownStores, keep p = true) : h.keepStores keep = h := by
  have hown : h.ownStores = h.ms.storeQ := by simp [Hart.ownStores, hs]
  have hq : h.ms.storeQ.filter keep = h.ms.storeQ := List.filter_eq_self.mpr fun p hp => hk p (hown ▸ hp)
  rw [Hart.keepStores, hq, hs, Option.map_none, ← hs]

/-- The hart as a look at its next instruction finds it, in the machine as it is. -/
def State.asLooked (s : State) : State := { s with h := (s.lookFrom [] (Vector.replicate 4 0)).h }

theorem seesAs_asLooked (s : State) (l : Option Look) : s.SeesAs (s.asLooked.withLook l) :=
  ⟨rfl, rfl, rfl, rfl, rfl, rfl, rfl, rfl, rfl, rfl, rfl⟩

/-- The element of a scalar load of `n` bytes at `va` that takes what the hart sees from location `k` on. -/
def State.takenElem (s : State) (va n k : Nat) : BoundElem :=
  { el := 0, vas := [(va, n)], parts := [(k, s.seenBytes k n)] }

section

variable {s : State} {i : Instr} {d : Reg} {va : Word} {n len : Nat} {sg : Bool} {l : Leaf} {loc : Loc}

variable (at_ : s.nextInstr = some i) (ld : ScalarLoad s i d va n sg len)
include at_ ld

theorem mayAcquire_load : s.mayAcquire [s.h.pc] 0 = true := by
  have hat : s.instrAt s.h.pc = some i := at_
  obtain ⟨-, -, -, hmon, -⟩ := asks_loads ld
  simp [State.mayAcquire, hat, hmon]

theorem monitored_load (b : BoundElem) : s.monitored [s.h.pc] b = s.h := by
  have hat : s.instrAt s.h.pc = some i := at_
  obtain ⟨-, -, -, hmon, -⟩ := asks_loads ld
  unfold State.monitored
  split
  · simp [hat, hmon]
  · rfl

variable (free : RunsAhead s)
include free

/-- What a look at the load sees: its access, and no load that has not bound. -/
theorem sight_one : s.sight [s.h.pc] 0 [] = some ⟨[(va.toNat, n)], false, []⟩ := by
  obtain ⟨-, -, ⟨-, hstrip, hbound, -⟩, -⟩ := free
  obtain ⟨a, disp, rfl, hlook⟩ := lookAt_scalarLoad ld
  have hi : (s.lookOne (Vector.replicate 4 0)).s.nextInstr = some i := (seesAs_lookFrom ..).nextInstr_eq.trans at_
  have hrun := run_loadScalar_error (d := d) (len := len) (sg := sg) (run_loadMany_aimed (bad := scalarRule) (spec := false)
    (t := (s.lookOne (Vector.replicate 4 0)).s.withLook (some (aimLook false))) (as := [((s.getX a + disp).toNat, n)])
    rfl rfl hbound (run_aimed_asks rfl ..))
  rw [State.sight, lookEnd_one, Option.bind_some,
    seek_of_lookAt hi hstrip rfl ((hlook _).trans (congrArg some (runM_left hrun)))]
  rfl

theorem someSight_load : s.someSight [s.h.pc] 0 = some [] := by
  rw [someSight_one, sight_one at_ ld free]
  rfl

/-- The data of every store of the hart is known. -/
theorem dataKnown_load {p : Part} (hp : p ∈ s.h.ownStores) : s.dataKnown [s.h.pc] 0 p = true := by
  rw [State.dataKnown, State.everySight, everyLook_one, sight_one at_ ld free, storesSeen_one]
  simpa using hp

/-- The address is known. -/
theorem known_load : s.known [s.h.pc] 0 [] = true := by
  have hstores : (s.h.ownStores.all fun p => s.h.ownStores.any (·.settled == p.settled)) = true :=
    List.all_eq_true.mpr fun p hp => List.any_eq_true.mpr ⟨p, hp, beq_self_eq_true _⟩
  simp only [State.known, State.everySight, everyLook_one, sight_one at_ ld free, storesSeen_one, hstores]
  simp [Sight.same]

variable (al : va.toNat % n = 0) (m : Mapped s va.toNat .load l loc) (home : AtHome s loc n)
include al m home

/-- Executed in search of its element, the load binds what the hart sees. -/
theorem seek_load : (⟨s.asLooked, 0⟩ : Ahead).seek 0 true =
    some (s.asLooked.withLook (some { aimLook true with got := some (s.takenElem va.toNat n loc.key) })) := by
  have hw := width_scalarLoad ld
  have hn : 0 < n := by omega
  have hdvd : n ∣ 128 := by rcases hw with rfl | rfl | rfl | rfl <;> decide
  obtain ⟨-, -, ⟨-, hstrip, hbound, -⟩, hsettled⟩ := free
  have hbad : scalarRule n va.toNat n loc = false := by
    have hattr : (loc.attr == 2) = false := by simpa using Nat.ne_of_lt m.idempotent
    simp [scalarRule, hattr]
  have hi : s.asLooked.nextInstr = some i := (seesAs_asLooked s s.asLooked.h.ms.look).nextInstr_eq.trans at_
  have hbind := run_bindAimed_local (t := s.asLooked.withLook none) (mapped_of_seesAs (seesAs_asLooked s none) m m.choices)
    ⟨home.region, home.line, home.free, home.intact⟩ hn (le_stretch_of_aligned m.address.2 hdvd al) hsettled rfl hbound hbad
    (aimLook true) 0 false
  obtain ⟨a, disp, rfl, hlook⟩ := lookAt_scalarLoad ld
  have hrun := run_loadScalar_error (d := d) (len := len) (sg := sg) (t := s.asLooked.withLook (some (aimLook true)))
    (run_loadMany_aimed rfl rfl hbound (run_aimed_binds (t := s.asLooked.withLook (some (aimLook true))) rfl hbind))
  exact seek_of_lookAt hi hstrip rfl ((hlook _).trans (congrArg some (runM_left hrun)))

theorem bindSeen_load : ∃ g, s.bindSeen [s.h.pc] 0 [] (s.dataKnown [s.h.pc] 0) =
    some ({ s with h := g }, s.takenElem va.toNat n loc.key, []) := by
  have hseek := seek_load at_ ld free al m home
  have hstores : ∀ p ∈ s.h.ownStores, s.dataKnown [s.h.pc] 0 p = true := fun p hp => dataKnown_load at_ ld free hp
  obtain ⟨-, -, ⟨-, hstrip, hbound, -⟩, -⟩ := free
  have hkeep : (s.lookOne (Vector.replicate 4 0)).s.h.keepStores (s.dataKnown [s.h.pc] 0) = s.asLooked.h :=
    Hart.keepStores_of_all hstrip hstores
  have hstrips : (s.lookOne (Vector.replicate 4 0)).strips = 0 := by
    rw [State.lookOne, hstrip]
    rfl
  have hnone : ((s.lookOne (Vector.replicate 4 0)).s.h.ms.bound.head?.any
      (·.pc == (s.lookOne (Vector.replicate 4 0)).s.h.pc)) = false := by
    rw [show (s.lookOne (Vector.replicate 4 0)).s.h.ms.bound = [] from hbound]
    rfl
  refine ⟨(s.asLooked.withLook (some { aimLook true with got := some (s.takenElem va.toNat n loc.key) })).h, ?_⟩
  simp only [State.bindSeen, lookEnd_one, Option.bind_some]
  rw [hkeep, hstrips, hnone]
  exact (congrArg (fun o : Option State => o.bind fun t => (t.h.ms.look.bind (·.got)).map fun b =>
    (t, b, if false = true then t.h.ms.bound.tail else [])) hseek :)

/-- What BIND leaves: an entry with the element, numbered (R266). -/
theorem bindAhead_load : s.bindAhead [s.h.pc] 0 = { s with
    tick := s.tick + 1
    h := { s.h with ms := { s.h.ms with bound := [{
      pc := s.h.pc
      elems := [{ s.takenElem va.toNat n loc.key with id := s.tick }] }] } } } := by
  obtain ⟨g, hseen⟩ := bindSeen_load at_ ld free al m home
  have hrun := mayRunAhead_of_runsAhead free
  have hsettled : s.Settled := free.stores
  obtain ⟨-, -, hbound, -⟩ := free.plain
  have hunknown : ∀ b : BoundElem,
      (s.h.ownStores.any fun p => s.dataUnknown [s.h.pc] 0 p && b.meets p) = false := fun b =>
    List.any_eq_false.mpr fun p hp => by simp [State.dataUnknown, dataKnown_load at_ ld free hp]
  have horder : s.inOrder [s.h.pc] 0 (s.takenElem va.toNat n loc.key) = true := by
    simp [State.inOrder, State.takenElem, awayFrom_of_local home.region]
  have hmarks : ∀ b : BoundElem, s.knownMarks [s.h.pc] 0 [] b = [] := by
    intro b
    rw [State.knownMarks, storesSeen_one, List.map_eq_nil_iff, List.filter_eq_nil_iff]
    intro p hp
    have hin : s.h.entered p = true := List.any_eq_true.mpr ⟨p, hp, beq_self_eq_true _⟩
    simp [hin]
  unfold State.bindAhead
  simp only [State.resolveOwn_of_settled hsettled, hrun, if_true, someSight_load at_ ld free, known_load at_ ld free,
    mayAcquire_load at_ ld, Bool.and_self, hseen, storesSeen_one, hunknown, horder, hmarks, trail_one,
    monitored_load at_ ld, Bool.not_true, Bool.or_self, Bool.false_eq_true, if_false]
  simp [along, hbound, State.traceAhead, Issued.put, State.acquired, State.olderElems, State.takenElem]

end

/-! ### EARLY of a DISCARD of one line (R266, R271) -/

section

variable {s : State} {a b : Reg} {l : Leaf} {loc : Loc}

/-- The range of the DISCARD as the look sees it. -/
theorem rangeSeen_one (free : RunsAhead s) (at_ : s.nextInstr = some (.discard a b)) (hwatch : s.h.ms.watchHit = none) :
    s.rangeSeen [s.h.pc] [] = some ((s.getX a).toNat, (s.getX b).toNat) := by
  obtain ⟨-, -, ⟨-, hstrip, -, -⟩, -⟩ := free
  have hi : (s.lookOne s.h.hr.watch).s.nextInstr = some (.discard a b) := (seesAs_lookFrom ..).nextInstr_eq.trans at_
  have hown : (s.lookOne s.h.hr.watch).s.h.ownStores = s.h.ownStores := rfl
  have hstrip' : (s.lookOne s.h.hr.watch).s.h.ms.strip = none := hstrip
  have hwatch' : (s.lookOne s.h.hr.watch).s.h.ms.watchHit = none := hwatch
  rw [State.rangeSeen, trail_one, Option.bind_some, List.getLast?_singleton, Option.bind_some, hi, Option.bind_some, discardRegs,
    Option.bind_some, hown, hstrip', hwatch', if_pos ⟨rfl, rfl, rfl⟩]
  rfl

theorem map_ofNat_zero (n : Nat) : ((List.range n).map fun j => BitVec.ofNat 8 (0 / 256 ^ j)) = List.replicate n 0 := by
  simp

/-- The part of a line of zeros. -/
theorem storeParts_zeros {va : Nat} (hattr : loc.attr ≠ 2) (htier : loc.tier = none) (hl : loc.key % 128 + 128 ≤ 128) (s : State) :
    (storeParts [(va, loc, 128)] (List.replicate 128 0) none none).map (fun p => { p with early := 1, pc := s.h.pc }) =
      [{ partOf s loc va 128 0 none with early := 1 }] := by
  have hfind : [(va, loc, 128)].find? (fun q => decide (q.1 ≤ va) && decide (va < q.1 + q.2.2)) = some (va, loc, 128) := by
    simp
  have hbeq : (loc.attr == 2) = false := by simpa using hattr
  rw [storeParts, lineParts_eq_singleton (by decide) hl, List.foldl_cons, List.foldl_nil, hfind]
  simp only [Option.map_some, Option.getD_some, Option.bind_some, htier, hbeq, List.nil_append, List.map_cons, List.map_nil, partOf,
    map_ofNat_zero, List.take_replicate, min_self]

/-- The lines of the DISCARD as parts of the store queue. -/
theorem run_discardParts_one {va : Nat} (m : Mapped s va .store l loc) (home : AtHome s loc 128) (al : va % 128 = 0) :
    (discardParts va 1 1).run s = (.ok [{ partOf s loc va 128 0 none with early := 1 }], s) := by
  obtain ⟨hva, hwin⟩ := m.address
  have hmod : (va + 128 * 0) % 2 ^ 64 = va := by omega
  have hattr : loc.attr ≠ 2 := Nat.ne_of_lt m.idempotent
  have htier : loc.tier = none := by rw [m.place]; rfl
  have hplaces := run_places_mapped m (bad := idemRule) (n := 128) (by simpa [idemRule] using hattr) (by decide)
    (le_stretch_of_aligned hwin (dvd_refl 128) al) 0 false
  have hone : ([0].mapM fun k => do
      let va := (va + 128 * k) % 2 ^ 64
      let ps ← places k va 128 .store false idemRule
      bankReady ps
      return storeParts ps (List.replicate 128 0) none none : M (List (List Part))).run s =
      (.ok [storeParts [(va, loc, 128)] (List.replicate 128 0) none none], s) := by
    apply run_mapM_singleton
    dsimp only
    rw [hmod, run_bind_ok hplaces, run_bind_ok (run_bankReady_local home.region (by decide) home.line)]
    rfl
  unfold discardParts
  rw [run_bind_ok (run_getH s), show List.range 1 = [0] from rfl]
  dsimp only
  rw [run_bind_ok hone, List.flatten_singleton, storeParts_zeros hattr htier home.line s]
  rfl

/-- What EARLY leaves (R271). -/
theorem discardEarly_one (free : RunsAhead s) (at_ : s.nextInstr = some (.discard a b))
    (trigger : s.h.execTrigger s.h.pc = none) (hwatch : s.h.ms.watchHit = none) (hb : s.getX b = 128)
    (al : (s.getX a).toNat % 128 = 0) (m : Mapped s (s.getX a).toNat .store l loc) (home : AtHome s loc 128) :
    s.discardEarly [s.h.pc] = { s with h := { s.h with ms := { s.h.ms with
      storeQ := s.h.ms.storeQ ++ [{ partOf s loc (s.getX a).toNat 128 0 none with early := 1 }]
      early := [s.h.pc] } } } := by
  have hrange := rangeSeen_one free at_ hwatch
  have hrun := mayRunAhead_of_runsAhead free
  obtain ⟨-, -, ⟨-, -, -, hearly⟩, -⟩ := free
  have hlen : (s.getX b).toNat = 128 := by rw [hb]; rfl
  have hcount : 0 < [s.h.pc].count s.h.pc := by simp
  have hparts : (discardParts (s.getX a).toNat (128 / 128) (0 + 1)).run { s with h := { s.h with pc := s.h.pc } } =
      (.ok [{ partOf s loc (s.getX a).toNat 128 0 none with early := 1 }], s) := run_discardParts_one m home al
  unfold State.discardEarly
  simp only [List.getLast?_singleton, Option.getD_some, everyLook_one, guessBytes_one, toBytes, hrange, hrun, hearly, hlen,
    List.count_nil, hcount, decide_true, List.all_cons, List.all_nil, trigger, Option.isNone_none, beq_self_eq_true, Bool.and_self,
    if_true, al, Nat.mod_self, ne_eq, not_true_eq_false, or_self, if_false, hparts, List.nil_append]

end

end Sys2Proof.Machine
end

section
/-! Writes at their homes and the queues of a hart (R264, R266, R276, R297, R340, R342): what DRAIN and ARRIVE of one entry
leave. -/

namespace Sys2Proof.Machine

open Sys2Proof.Claims

/-! ### A write at its home -/

theorem Device.clearErr_eq (d : Device) (k n : Nat) : d.clearErr k n = { d with errs := (d.clearErr k n).errs } := by
  unfold Device.clearErr
  split <;> rfl

theorem Device.noteForeign_eq (d : Device) (k n : Nat) : d.noteForeign k n = { d with kvForeign := (d.noteForeign k n).kvForeign } := by
  unfold Device.noteForeign
  split <;> rfl

/-- A write clears the records whose bytes it covers, and no other (R340). -/
theorem mem_errs_clearErr {d : Device} {k n : Nat} {e : Nat × Nat} :
    e ∈ (d.clearErr k n).errs ↔ e ∈ d.errs ∧ ¬(k ≤ e.1 ∧ e.1 + e.2 ≤ k + n) := by
  unfold Device.clearErr
  split
  · next h => simp [h]
  · simp only [List.mem_filter, ← Bool.not_eq_true, Bool.not_eq_true', Bool.and_eq_true, decide_eq_true_eq]

theorem noted_keeps_name (a : Agent) (k n : Nat) (h : Hart) : (noted a k n h).id = h.id ∧ (noted a k n h).status = h.status := by
  unfold noted evented
  rw [Hart.noteLater_eq]
  split <;> exact ⟨rfl, rfl⟩

/-- The device after a write of bytes of one line. -/
def Device.written (d : Device) (k : Nat) (bs : List Byte) : Device :=
  ({ d with mem := d.mem.setBytes k bs }.clearErr k bs.length).noteForeign k bs.length

theorem Device.written_eq (d : Device) (k : Nat) (bs : List Byte) : d.written k bs = { d with
    mem := d.mem.setBytes k bs
    errs := (d.clearErr k bs.length).errs
    kvForeign := (d.written k bs).kvForeign } := by
  have herrs : ({ d with mem := d.mem.setBytes k bs }.clearErr k bs.length).errs = (d.clearErr k bs.length).errs := by
    unfold Device.clearErr
    split <;> rfl
  rw [Device.written, Device.noteForeign_eq, Device.clearErr_eq, herrs]

/-- Without write-watch entries a write leaves its bytes and its marks only (R264, R351). -/
theorem State.putMem_eq {s : State} (hw : s.dev.writeWatch = []) (a : Agent) (k : Nat) (bs : List Byte) : s.putMem a k bs =
    { s with
      h := noted a k bs.length s.h
      others := s.others.map (noted a k bs.length)
      dev := s.dev.written k bs } := by
  have hnone : (s.dev.written k bs).writeWatch = [] := by rw [Device.written_eq]; exact hw
  have hput : s.putMem a k bs = State.watchWrite
      { s with
        h := noted a k bs.length s.h
        others := s.others.map (noted a k bs.length)
        dev := s.dev.written k bs } a k bs.length := rfl
  rw [hput, State.watchWrite, if_pos hnone]

theorem performed_putMem {s : State} (c : s.dev.mem.wf = true ∧ s.dev.writeWatch = []) (a : Agent) (k : Nat) (bs : List Byte) :
    Performed a s (s.putMem a k bs) k bs := by
  obtain ⟨hwf, hww⟩ := c
  rw [State.putMem_eq hww, Device.written_eq]
  exact ⟨⟨hwf, hww⟩, fun j => Memory.get_setBytes bs hwf, ⟨rfl, rfl⟩, fun e => mem_errs_clearErr, rfl⟩

/-- A whole part takes its place as it is. -/
theorem overlay_whole {p : Part} (hm : p.mask = none) (bs : List Byte) (hl : bs.length = p.bytes.length) :
    overlay p.key p bs = p.bytes := by
  apply List.ext_getElem?
  intro j
  rw [getElem?_overlay]
  rcases lt_or_ge j p.bytes.length with hj | hj
  · rw [List.getElem?_eq_getElem (hl ▸ hj), List.getElem?_eq_getElem hj, Option.map_some, Part.over, if_pos (by omega), hm]
    simp [hj]
  · rw [List.getElem?_eq_none (hl ▸ hj), List.getElem?_eq_none hj]
    rfl

/-! ### DRAIN (R264, R266, R276) -/

section

variable {s : State} {p : Part} {r : List Part} (hq : s.h.ms.storeQ = p :: r) (hat : p.tier = none)
  (free : s.dev.owned p.key = false)
include hq hat free

/-- The oldest entry of the store queue is performed in local memory. -/
theorem drainOne_local (hloc : LocalKey p.key) (whole : p.mask = none) (release : p.rel = some 4 → s.h.ms.fabricQ = [])
    (order : p.nonidem = true → ∀ q ∈ s.h.ms.fabricQ, q.2.nonidem = false) : s.drainOne =
      some (State.putMem { s with h := { s.h with ms := { s.h.ms with storeQ := r } } } (hartAgent s.h) p.key p.bytes) := by
  have hrel : (p.rel == some 4 && s.h.ms.fabricQ != []) = false := by
    by_cases h : p.rel = some 4
    · simp [release h]
    · simp [h]
  have hord : (p.nonidem && s.h.ms.fabricQ.any fun x => x.2.nonidem && (some x.1 != none)) = false := by
    cases h : p.nonidem with
    | false => rfl
    | true =>
      rw [Bool.true_and, List.any_eq_false]
      intro q hqm
      simp [order h q hqm]
  have hres : s.resolve p = .at' s p := by simp [State.resolve, hat]
  have hbytes := overlay_whole whole (s.dev.mem.getBytes p.key p.bytes.length) (Memory.getBytes_length ..)
  unfold State.drainOne State.place
  rw [hq]
  rcases hloc with hloc | hloc
  all_goals
    simp only [hres, hat, hloc, free, hrel, hord, hbytes, Option.isSome_none, Bool.false_or, Bool.false_eq_true, if_false]

/-- The oldest entry of the store queue goes toward another device. -/
theorem drainOne_away {n : Nat} (home : regionOf p.key = .domain n) (release : p.rel = some 4 → s.h.ms.fabricQ = [])
    (order : p.nonidem = true → ∀ q ∈ s.h.ms.fabricQ, q.2.nonidem = true → q.1 = n) : s.drainOne =
      some { s with h := { s.h with ms := { s.h.ms with storeQ := r, fabricQ := s.h.ms.fabricQ ++ [(n, p)] } } } := by
  have hrel : (p.rel == some 4 && s.h.ms.fabricQ != []) = false := by
    by_cases h : p.rel = some 4
    · simp [release h]
    · simp [h]
  have hord : (p.nonidem && s.h.ms.fabricQ.any fun x => x.2.nonidem && (some x.1 != some n)) = false := by
    cases h : p.nonidem with
    | false => rfl
    | true =>
      rw [Bool.true_and, List.any_eq_false]
      intro q hqm
      have := order h q hqm
      simpa using this
  have hres : s.resolve p = .at' s p := by simp [State.resolve, hat]
  unfold State.drainOne
  rw [hq]
  simp only [hres, hat, home, free, hrel, hord, Option.isSome_none, Bool.false_or, Bool.false_eq_true, if_false]

end

/-! ### ARRIVE (R48, R276, R342) -/

/-- The oldest entry toward device `n`. -/
theorem find?_first {α : Type} {n : Nat} {x : α} {q r : List (Nat × α)} (first : ∀ y ∈ q, y.1 ≠ n) :
    (q ++ (n, x) :: r).find? (·.1 == n) = some (n, x) := by
  have hq : q.find? (·.1 == n) = none := List.find?_eq_none.mpr fun y hy => by simpa using first y hy
  rw [List.find?_append, hq, List.find?_cons]
  simp

theorem erase_first {α : Type} [DecidableEq α] {n : Nat} {x : α} {q r : List (Nat × α)} (first : ∀ y ∈ q, y.1 ≠ n) :
    (q ++ (n, x) :: r).erase (n, x) = q ++ r := by
  have hq : (n, x) ∉ q := fun h => first _ h rfl
  rw [List.erase_append_right _ hq, List.erase_cons_head]

section

variable {s : State} {n : Nat} {p : Part} {q r : List (Nat × Part)} (h : s.h.ms.fabricQ = q ++ (n, p) :: r)
  (first : ∀ x ∈ q, x.1 ≠ n) (free : s.dev.owned p.key = false)
include h first free

/-- ARRIVE of a store whose access of the device comes to `x`: whether it answers, and the state. -/
theorem arriveOne_store {x : Bool × State}
    (hx : State.remoteAccess { s with h := { s.h with ms := { s.h.ms with fabricQ := q ++ r } } } n = x) : s.arriveOne n =
      some (if x.1 then x.2.putMem (hartAgent s.h) p.key (overlay p.key p (s.dev.mem.getBytes p.key p.bytes.length))
        else { x.2 with h := x.2.h.fabricFails p.va }) := by
  obtain ⟨up, t⟩ := x
  unfold State.arriveOne
  rw [h, find?_first first]
  dsimp only
  rw [free, if_neg (by decide), erase_first first, hx]
  cases up <;> rfl

theorem arriveOne_reached (up : s.dev.peerUp n = true ∧ n ∉ s.dev.failNext) (whole : p.mask = none) : s.arriveOne n =
    some (State.putMem { s with h := { s.h with ms := { s.h.ms with fabricQ := q ++ r } } } (hartAgent s.h) p.key p.bytes) := by
  obtain ⟨hup, hfail⟩ := up
  rw [arriveOne_store h first free rfl, State.remoteAccess, hup]
  simp only [Bool.not_true, Bool.false_eq_true, if_false, List.contains_iff_mem, hfail, if_true,
    overlay_whole whole _ (Memory.getBytes_length ..)]

theorem arriveOne_failed {fl : List Nat} (up : (s.dev.peerUp n = false ∧ fl = s.dev.failNext) ∨
    (s.dev.peerUp n = true ∧ n ∈ s.dev.failNext ∧ fl = s.dev.failNext.erase n)) (no : s.h.ms.fabFail = none) :
    s.arriveOne n = some { s with
      dev := { s.dev with failNext := fl }
      h := { s.h with ms := { s.h.ms with fabricQ := q ++ r, fabFail := some (BitVec.ofNat 64 p.va) } } } := by
  rw [arriveOne_store h first free rfl, State.remoteAccess]
  rcases up with ⟨hup, rfl⟩ | ⟨hup, hfail, rfl⟩
  · simp [hup, Hart.fabricFails, no]
  · simp [hup, hfail, Hart.fabricFails, no]

end

/-- An access of a device leaves the machine but for a failure that was to come. -/
theorem remoteAccess_eq (s : State) (n : Nat) :
    (s.remoteAccess n).2 = { s with dev := { s.dev with failNext := (s.remoteAccess n).2.dev.failNext } } := by
  unfold State.remoteAccess
  split
  · rfl
  · split <;> rfl

/-- The oldest load toward a device, behind no store, arrives there. -/
theorem arriveOne_load {s v : State} {n : Nat} {l : RemoteLoad} {q r : List (Nat × RemoteLoad)} {up : Bool}
    (h : s.h.ms.loadQ = q ++ (n, l) :: r) (first : ∀ x ∈ q, x.1 ≠ n) (behind : ∀ x ∈ s.h.ms.fabricQ, x.1 ≠ n)
    (free : s.dev.owned l.key = false) (reach : s.remoteAccess n = (up, v)) (intact : s.dev.bad l.key l.len = false) :
    s.arriveOne n = some { v with h := { s.h with ms := { s.h.ms with
      loadQ := q ++ r
      landed := s.h.ms.landed ++ [{ l with bytes := if up then some (s.dev.mem.getBytes l.key l.len) else none }] } } } := by
  have hnone : s.h.ms.fabricQ.find? (·.1 == n) = none := List.find?_eq_none.mpr fun x hx => by simpa using behind x hx
  have hv : v = { s with dev := { s.dev with failNext := v.dev.failNext } } := by
    have := remoteAccess_eq s n
    rwa [reach] at this
  have hmem : v.dev.mem = s.dev.mem := by rw [hv]
  have hbad : v.dev.bad l.key l.len = false := by
    rw [hv]
    exact intact
  unfold State.arriveOne
  rw [hnone, h, find?_first first]
  dsimp only
  rw [free, if_neg (by decide), State.landLoad, reach, h, erase_first first]
  simp [hmem, hbad]

end Sys2Proof.Machine
end

section
/-! Events at a point of a hart (R57, R260, R297, R316, R324, R331, R332, R354): entering the handler, abandoning a strip,
the end of a wait, stalls. -/

namespace Sys2Proof.Machine

open Sys2Proof.Claims

/-! ### Stalls (R354) -/

/-- A charge changes the table and its counters only. -/
theorem DebugState.charge_eq (d : DebugState) (pc : BitVec 52) (k : WaitKind) (on : BitVec 52) (n : Nat) (fin : Bool) (lag : Nat) :
    d.charge pc k on n fin lag =
      { d with table := (d.charge pc k on n fin lag).table, counter := (d.charge pc k on n fin lag).counter } := by
  unfold DebugState.charge
  dsimp only
  split
  · rfl
  · split
    · rfl
    · split
      · split <;> rfl
      · rfl

theorem DebugState.charge_stepping (d : DebugState) (pc : BitVec 52) (k : WaitKind) (on : BitVec 52) (n : Nat) (fin : Bool)
    (lag : Nat) : (d.charge pc k on n fin lag).stepping = d.stepping := by rw [DebugState.charge_eq]

/-- The state with other debug registers at the moving hart. -/
def State.withDb (s : State) (d : DebugState) : State := { s with h := { s.h with db := d } }

/-- The end of a stall changes the debug registers only, and those of a hart that stalls. -/
theorem State.endStall_eq_withDb (s : State) (pc : BitVec 52) : ∃ d : DebugState, s.endStall pc = s.withDb d ∧
    d.stepping = s.h.db.stepping ∧ (s.h.db.stall = none → d = s.h.db) := by
  refine ⟨(s.endStall pc).h.db, ?_⟩
  unfold State.endStall Hart.endStall
  split
  · exact ⟨rfl, rfl, fun _ => rfl⟩
  · next h => exact ⟨rfl, DebugState.charge_stepping .., fun hn => by simp [hn] at h⟩

theorem State.resultStall_eq_withDb (s : State) (pc : BitVec 52) : ∃ d : DebugState, s.resultStall pc = s.withDb d ∧
    d.stepping = s.h.db.stepping := by
  refine ⟨(s.resultStall pc).h.db, ?_⟩
  unfold State.resultStall
  split
  · split
    · exact ⟨rfl, DebugState.charge_stepping ..⟩
    · exact ⟨rfl, rfl⟩
  · exact ⟨rfl, rfl⟩

/-- Outside a single step nothing halts at its end (R348). -/
theorem State.endStep_of_running {s : State} (h : s.h.db.stepping = false) (pc : BitVec 52) (handler : Bool) :
    s.endStep pc handler = s := by simp [State.endStep, h]

/-! ### Entering the handler (R324) -/

theorem MemState.unbind_settled (m : MemState) :
    m.unbind.storeQ.map (fun p => { p with early := 0 }) = m.storeQ.map fun p => { p with early := 0 } := by
  by_cases h : m.early = [] <;> simp [MemState.unbind, h, Function.comp_def]

/-- The entry of a hart at element `w`. -/
theorem entered_enter (s : State) (w : BitVec 48) {intr : Bool} {code : BitVec 8} (hm : ¬(intr = false ∧ code = 0x11))
    (addr : Word) (el : Nat) : Entered s { s with h :=
      ({ s.h with vc := { s.h.vc with vstart := w } } : Hart).enter intr code addr el } intr code addr el w where
  mode := rfl
  pc := ⟨rfl, rfl⟩
  bank := ⟨rfl, rfl, rfl, rfl, rfl, rfl, rfl, rfl⟩
  vlost := by
    show (if s.h.handler then s.h.hr.hstat.vlost || !s.h.hr.hstat.stacked else false) = _
    cases s.h.handler <;> rfl
  status := ⟨rfl, rfl, rfl, rfl, bne_iff_ne⟩
  mask h := if_pos (bne_iff_ne.mpr h)
  kept := ⟨rfl, rfl, rfl, rfl, rfl, rfl, rfl⟩
  vstart := rfl
  registers := ⟨rfl, rfl, rfl, rfl, rfl, rfl, rfl, rfl, rfl, rfl⟩
  stores := ⟨MemState.unbind_settled s.h.ms, MemState.unbind_fabricQ s.h.ms, rfl⟩
  others := ⟨rfl, by rw [if_neg hm]⟩

/-! ### Interrupts (R331, R332) -/

section

variable {s : State}

theorem State.traceRec_of_untraced (h : s.traceUnit = none) (k e x : Nat) : s.traceRec k e x = s := by
  simp [State.traceRec, h]

theorem mayInterrupt_of_interruptible (m : Interruptible s) : s.mayInterrupt = true := by
  obtain ⟨⟨-, -, -, hstep⟩, -, hmode, hvec, hhold, -⟩ := m
  have hm : (!s.h.handler || s.h.hr.hstat.ie) = true := by
    rcases hmode with h | h <;> simp [h]
  replace hvec : s.h.hr.hvec ≠ 0#52 := hvec
  cases hc : s.h.ms.hold with
  | none => simp [State.mayInterrupt, hm, hvec, hstep, hc]
  | some c => simp [State.mayInterrupt, hm, hvec, hstep, hc, hhold c hc]

/-- No stop for a save is asked for. -/
theorem noStop_of_stays (h : ∀ g ∈ s.dev.gangs, g.stopReq = none) :
    (s.dev.gangs.find? (·.id == s.h.id.gang.toNat)).any (·.stopReq.isSome) = false := by
  cases hg : s.dev.gangs.find? (·.id == s.h.id.gang.toNat) with
  | none => rfl
  | some g => simp [h g (List.mem_of_find?_eq_some hg)]

theorem tip_iff : s.tip = true ↔ TimerDue s := by
  simp [State.tip, TimerDue]

/-- An interrupt event finds its interrupt pending. -/
theorem exec_interrupt {e : Nat → Nat → Instr} {c : BitVec 8} (h : Interrupt s e c) : ∃ pending : State → Bool,
    pending s = true ∧ ∀ t g r, exec (e g r) t = .next (t.withHart ⟨g, r⟩ (State.interrupt c pending)) := by
  cases h with
  | timer due => exact ⟨State.tip, tip_iff.mpr due, fun _ _ _ => rfl⟩
  | doorbell dip no =>
    have htip : s.tip = false := by rw [← Bool.not_eq_true, tip_iff]; exact no
    exact ⟨fun s => s.h.hr.hstat.dip && !s.tip, by simp [dip, htip], fun _ _ _ => rfl⟩

/-- A hart at a point takes the interrupt, its stall at an end. -/
theorem interrupt_eq (m : Interruptible s) {pending : State → Bool} (hp : pending s = true) (c : BitVec 8) :
    State.interrupt c pending s = State.endStep s.h.pc s.h.handler (takeInterrupt c (s.dropMask.endStall s.h.pc)) := by
  obtain ⟨hrun, hhalt, hreq, -⟩ := m.runs
  have hruns : s.h.runs = true := by simp [Hart.runs, hrun, hhalt]
  simp only [State.interrupt, noStop_of_stays m.stays, hruns, hreq, mayInterrupt_of_interruptible m, hp, Option.isNone_none,
    Bool.not_false, Bool.and_self, if_true]

theorem dropMask_of_maskAt {s' : State} (h : MaskAt s s') : s.dropMask = s' := by
  cases h with
  | stays h =>
    unfold State.dropMask
    split
    · rfl
    · next hz =>
      have hw := h.resolve_left hz
      split
      · next w hpeek => rw [if_pos (hw w hpeek)]
      · rfl
  | goes w hpeek no =>
    rw [dropMask_of_peekWord hpeek]
    simp [no]

/-- The hart that will hold interrupts when it comes back to `pc` (R260). -/
def Hart.holdAt (h : Hart) (pc : BitVec 52) : Hart := { h with ms := { h.ms with holdNext := some pc } }

/-- Outside strips an untraced hart goes to the handler. -/
theorem takeInterrupt_outside (hs : s.h.ms.strip = none) (hu : s.traceUnit = none) (c : BitVec 8) :
    takeInterrupt c s = { s with h := s.h.enter true c 0 s.h.vc.vstart.toNat } := by
  have ha : s.traceAbandon = s := by simp [State.traceAbandon, hs]
  simp only [takeInterrupt, hs, ha, State.traceRec_of_untraced hu]

/-- In a strip it is abandoned first (R260). -/
theorem takeInterrupt_inStrip {st : Strip} (hs : s.h.ms.strip = some st) (hu : s.traceUnit = none) (c : BitVec 8) :
    takeInterrupt c s =
      { s with h := (s.h.abandon.holdAt st.cp.addr).enter true c 0 s.h.abandon.vc.vstart.toNat } := by
  have ha : s.traceAbandon = s := by simp [State.traceAbandon, hs, State.traceRec_of_untraced hu]
  simp only [takeInterrupt, hs, ha, State.traceRec_of_untraced hu]
  rfl

end

/-! ### Abandoned strips (R258) -/

theorem getElem_restoreSlices (r : Reg) : ∀ (l : List (Nat × VReg)) (v : Vector VReg 32), (l.map fun x => x.1).Nodup →
    (∀ x ∈ l, x.1 < 32) → (restoreSlices v l)[r] = ((l.find? fun x => x.1 == r.val).elim v[r] fun x => x.2)
  | [], _, _, _ => rfl
  | (k, x) :: l, v, nd, lt => by
    obtain ⟨hk, nd⟩ := List.nodup_cons.mp nd
    have hv : (vreg k).val = k := val_vreg (lt (k, x) List.mem_cons_self)
    have ih := getElem_restoreSlices r l (v.set (vreg k) x) nd fun y hy => lt y (List.mem_cons_of_mem _ hy)
    rw [restoreSlices, ih]
    by_cases hr : k = r.val
    · have hnone : (l.find? fun y => y.1 == r.val) = none := List.find?_eq_none.mpr fun y hy hyr =>
        hk (List.mem_map.mpr ⟨y, hy, (beq_iff_eq.mp hyr).trans hr.symm⟩)
      rw [hnone, List.find?_cons_of_pos (by simp [hr])]
      simp [hv.trans hr]
    · rw [List.find?_cons_of_neg (by simp [hr])]
      simp [hv, Vector.getElem_set_ne, hr]

/-- The hart of an abandoned strip is determined. -/
theorem abandon_of_abandoned {h g : Hart} {st : Strip} (hs : h.ms.strip = some st) (one : OneSlice st) (a : Abandoned h st g) :
    h.abandon = g := by
  have hv : restoreSlices h.v st.arch = g.v := by
    apply Vector.ext
    intro i hi
    exact (getElem_restoreSlices ⟨i, hi⟩ st.arch h.v one.1 one.2).trans (a.slices ⟨i, hi⟩).symm
  rw [a.rest, Hart.abandon, hs, a.vc, a.f, a.lp, a.ms]
  dsimp only
  rw [hv]

end Sys2Proof.Machine
end

section
/-! What each event of a hart does there (R57, R260, R264-R276, R297, R316, R331, R332, R340, R342, R354). -/

namespace Sys2Proof.Machine

open Sys2Proof.Claims

/-- The event `e` changes the hart that it names by some `f`, which at the front of `s` leaves a state of `P`, and leaves
the names of the other harts. -/
def Acts (s : State) (e : Nat → Nat → Instr) (P : State → Prop) : Prop :=
  ∃ f : State → State, (∀ t g r, t.cycle = s.cycle → exec (e g r) t = .next (t.withHart ⟨g, r⟩ f)) ∧ P (f s) ∧
    (f s).names = s.names

section

variable {s : State}

/-! ### Interrupts -/

theorem acts_interrupt {e : Nat → Nat → Instr} {c : BitVec 8} {s' : State} (h : Interrupt s e c) (m : Interruptible s)
    (st : s.h.ms.strip = none) (mk : MaskAt s s') : Acts s e fun u =>
      Entered (chargedAs s' u) u true c 0 s.h.vc.vstart.toNat s.h.vc.vstart ∧ (s.h.db.stall = none → u.h.db = s.h.db) := by
  obtain ⟨pending, hp, hexec⟩ := exec_interrupt h
  have hs' : s'.h.vc.vstart = s.h.vc.vstart ∧ s'.h.db = s.h.db ∧ s'.h.ms.strip = none ∧ s'.traceUnit = none ∧
      s'.others = s.others := by
    cases mk <;> exact ⟨rfl, rfl, st, m.traced, rfl⟩
  obtain ⟨hv, hdb, hstrip, htr, ho⟩ := hs'
  obtain ⟨d, hend, hstep, hnone⟩ := s'.endStall_eq_withDb s.h.pc
  rw [hdb] at hstep hnone
  have htake := takeInterrupt_outside (s := s'.withDb d) hstrip htr c
  have hf : State.interrupt c pending s = takeInterrupt c (s'.withDb d) := by
    rw [interrupt_eq m hp, dropMask_of_maskAt mk, hend, htake]
    exact State.endStep_of_running (hstep.trans m.runs.2.2.2) ..
  refine ⟨_, fun t g r _ => hexec t g r, ?_, ?_⟩
  · rw [hf, htake]
    refine ⟨?_, hnone⟩
    have hent := entered_enter (s'.withDb d) s'.h.vc.vstart (intr := true) (code := c) (by simp) 0 s'.h.vc.vstart.toNat
    rw [← hv]
    exact hent
  · rw [hf, htake]
    exact congrArg (List.map _) ho

/-- The state with another completion mask of the moving hart. -/
def State.withMask (s : State) (m : BitVec 16384) : State := { s with h := { s.h with vc := { s.h.vc with ecm := m } } }

/-- A point changes the completion mask at most. -/
theorem State.dropMask_eq_withMask (s : State) : ∃ m, s.dropMask = s.withMask m := by
  refine ⟨s.dropMask.h.vc.ecm, ?_⟩
  unfold State.dropMask
  split
  · rfl
  · split
    · split <;> rfl
    · rfl

/-- An abandoned strip takes the completion mask with it, and leaves the debug registers. -/
theorem abandon_withMask {st : Strip} (hs : s.h.ms.strip = some st) (m : BitVec 16384) (d : DebugState) :
    ((s.withMask m).withDb d).h.abandon = { s.h.abandon with db := d } := by
  have hs' : ((s.withMask m).withDb d).h.ms.strip = some st := hs
  simp only [Hart.abandon, hs, hs']
  rfl

/-- The entry of a hart that will hold interrupts when it comes back to its PC. -/
theorem entered_enter_held (s : State) (h : Hart) (c : BitVec 8) (el : Nat) : Entered { s with h := h }
    { s with h := (h.holdAt h.pc).enter true c 0 el } true c 0 el h.vc.vstart := by
  have hent := entered_enter { s with h := h.holdAt h.pc } h.vc.vstart (intr := true) (code := c) (by simp) 0 el
  exact ⟨hent.mode, hent.pc, hent.bank, hent.vlost, hent.status, hent.mask, hent.kept, hent.vstart, hent.registers, hent.stores,
    hent.others⟩

theorem resumeHold_enter_held (h : Hart) (c : BitVec 8) (el : Nat) :
    ((h.holdAt h.pc).enter true c 0 el).ms.resumeHold = h.pc :: h.ms.resumeHold := if_pos rfl

theorem acts_interruptInStrip {e : Nat → Nat → Instr} {c : BitVec 8} {st : Strip} {h' : Hart} (h : Interrupt s e c)
    (m : Interruptible s) (hs : s.h.ms.strip = some st) (one : OneSlice st) (ha : Abandoned s.h st h') :
    Acts s e fun u => Entered (chargedAs { s with h := h' } u) u true c 0 0 0 ∧ u.h.ms.strip = none ∧
      u.h.ms.resumeHold = st.cp.addr :: s.h.ms.resumeHold ∧ (s.h.db.stall = none → u.h.db = s.h.db) := by
  obtain ⟨pending, hp, hexec⟩ := exec_interrupt h
  obtain ⟨k, hmask⟩ := s.dropMask_eq_withMask
  obtain ⟨d, hend, hstep, hnone⟩ := (s.withMask k).endStall_eq_withDb s.h.pc
  have htake := takeInterrupt_inStrip (s := (s.withMask k).withDb d) (st := st) hs m.traced c
  rw [abandon_withMask hs, abandon_of_abandoned hs one ha] at htake
  have hf := interrupt_eq m hp c
  rw [hmask, hend, htake, State.endStep_of_running (hstep.trans m.runs.2.2.2)] at hf
  have hvs : h'.vc.vstart = 0 := by rw [ha.vc]
  have hstrip : h'.ms.strip = none := by rw [ha.ms]
  have hpc : h'.pc = st.cp.addr := by rw [ha.rest]
  rw [← hpc] at hf ⊢
  refine ⟨_, fun t g r _ => hexec t g r, ?_, ?_⟩
  · rw [hf]
    have hent := entered_enter_held s { h' with db := d } c 0
    rw [hvs] at hent ⊢
    refine ⟨hent, (MemState.unbind_strip _).trans hstrip, ?_, hnone⟩
    refine (resumeHold_enter_held { h' with db := d } c _).trans ?_
    rw [ha.ms]
  · rw [hf]
    rfl

end

section

variable {s : State}

theorem acts_of_eq {e : Nat → Nat → Instr} {f : State → State} {u : State} {P : State → Prop}
    (he : ∀ t g r, t.cycle = s.cycle → exec (e g r) t = .next (t.withHart ⟨g, r⟩ f)) (hf : f s = u) (hp : P u)
    (hn : u.names = s.names) : Acts s e P := ⟨f, he, by rwa [hf], by rwa [hf]⟩

/-! ### Holds, errors, replays (R260, R268, R340) -/

theorem acts_holdExpiry {c : Nat} (h : s.h.ms.hold = some c) (due : c ≤ s.cycle) :
    Acts s .holdExpiry (· = { s with h := { s.h with ms := { s.h.ms with hold := none } } }) := by
  have hf : s.expireHold = { s with h := { s.h with ms := { s.h.ms with hold := none } } } := by
    rw [State.expireHold, h]
    exact if_pos due
  exact acts_of_eq (fun _ _ _ _ => rfl) hf rfl rfl

/-- An event that changes the hart alone. -/
theorem acts_atHart {e : Nat → Nat → Instr} {f : Hart → Hart} {P : State → Prop}
    (he : ∀ t g r, t.cycle = s.cycle → exec (e g r) t = .next (t.atHart g r f)) (hp : P { s with h := f s.h }) : Acts s e P :=
  ⟨fun s => { s with h := f s.h }, he, hp, rfl⟩

theorem acts_replay (pc : BitVec 52) : Acts s (fun g k => .replay g k pc)
    (· = { s with h := { s.h with ms := { s.h.ms with bound := s.h.ms.bound.map fun e =>
      if e.pc = pc then { e with elems := e.elems.filter fun b => !b.stale } else e } } }) :=
  acts_atHart (f := Hart.replay pc) (fun _ _ _ _ => rfl) rfl

theorem acts_regError (r : Reg) (b : Nat) : Acts s (fun g k => .uncorrectableError (.reg g k r.val b))
    (· = { s with h := { s.h with v := s.h.v.set r { s.h.v[r] with err := b :: (s.h.v[r]).err } } }) := by
  have hr : vreg r.val = r := Fin.ext (val_vreg r.isLt)
  refine acts_atHart (f := Hart.failReg r.val b) (fun _ _ _ _ => rfl) ?_
  simp only [Hart.failReg, hr]

theorem acts_tileError (t : Tile) (b : Nat) : Acts s (fun g k => .uncorrectableError (.tile g k t.val b))
    (· = { s with h := { s.h with t := { s.h.t with
      tile := s.h.t.tile.set t { s.h.t.tile[t] with err := b :: (s.h.t.tile[t]).err } } } }) := by
  have ht : Fin.ofNat 4 t.val = t := Fin.ext (Nat.mod_eq_of_lt t.isLt)
  refine acts_atHart (f := Hart.failTile t.val b) (fun _ _ _ _ => rfl) ?_
  simp only [Hart.failTile, ht]

theorem acts_latchError (l : Latch) (b : Nat) : Acts s (fun g k => .uncorrectableError (.latch g k l.val b))
    (· = { s with h := { s.h with t := { s.h.t with latchErr := s.h.t.latchErr.set l (b :: s.h.t.latchErr[l]) } } }) := by
  have hl : Fin.ofNat 2 l.val = l := Fin.ext (Nat.mod_eq_of_lt l.isLt)
  refine acts_atHart (f := Hart.failLatch l.val b) (fun _ _ _ _ => rfl) ?_
  simp only [Hart.failLatch, hl]

/-! ### Running ahead (R266, R267, R271) -/

theorem acts_bind {i : Instr} {d : Reg} {va : Word} {n : Nat} {sg : Bool} {len : Nat} {l : Leaf} {loc : Loc} (free : RunsAhead s)
    (at_ : s.nextInstr = some i) (ld : ScalarLoad s i d va n sg len) (al : va.toNat % n = 0)
    (m : Mapped s va.toNat .load l loc) (home : AtHome s loc n) :
    Acts s (fun g r => .bind g r ⟨[s.h.pc], 0⟩) fun u => ∃ bs : List Byte, bs.length = n ∧
      (∀ j < n, (bs[j]?).getD 0 = seen s.h.ownStores (s.dev.mem.get (loc.key + j)) (loc.key + j)) ∧
      u = { s with
        tick := s.tick + 1
        h := { s.h with ms := { s.h.ms with bound := [{
          pc := s.h.pc
          elems := [{ el := 0, vas := [(va.toNat, n)], parts := [(loc.key, bs)], id := s.tick }] }] } } } := by
  exact acts_of_eq (fun _ _ _ _ => rfl) (bindAhead_load at_ ld free al m home)
    ⟨s.seenBytes loc.key n, length_seenBytes .., fun j hj => getD_seenBytes s loc.key hj, rfl⟩ rfl

theorem acts_early {a b : Reg} {l : Leaf} {loc : Loc} (free : RunsAhead s) (at_ : s.nextInstr = some (.discard a b))
    (trigger : s.h.execTrigger s.h.pc = none ∧ s.h.ms.watchHit = none) (hb : s.getX b = 128)
    (al : (s.getX a).toNat % 128 = 0) (m : Mapped s (s.getX a).toNat .store l loc) (home : AtHome s loc 128) :
    Acts s (fun g r => .early g r [s.h.pc]) (· = { s with h := { s.h with ms := { s.h.ms with
      storeQ := s.h.ms.storeQ ++ [{ partOf s loc (s.getX a).toNat 128 0 none with early := 1 }]
      early := [s.h.pc] } } }) := by
  exact acts_of_eq (fun _ _ _ _ => rfl) (discardEarly_one free at_ trigger.1 trigger.2 hb al m home) rfl rfl

/-! ### Queues (R264, R266, R276, R342) -/

section

variable {p : Part} {r : List Part}

theorem names_performed {a : Agent} {u t : State} {k : Nat} {bs : List Byte} (h : Performed a u t k bs) : t.names = u.names :=
  State.names_map h.events.2 (noted_keeps_name a k bs.length)

theorem acts_drain (hq : s.h.ms.storeQ = p :: r) (home : regionOf p.key = .hbm ∨ regionOf p.key = .cxl)
    (whole : p.mask = none) (free : s.dev.owned p.key = false)
    (release : p.rel = some 4 → s.h.ms.fabricQ = []) (at_ : p.tier = none)
    (order : p.nonidem = true → ∀ q ∈ s.h.ms.fabricQ, q.2.nonidem = false)
    (canonical : s.dev.mem.wf = true ∧ s.dev.writeWatch = []) :
    Acts s .drain fun u => Performed (hartAgent s.h) { s with h := { s.h with ms := { s.h.ms with storeQ := r } } } u p.key p.bytes := by
  have hperf := performed_putMem (s := { s with h := { s.h with ms := { s.h.ms with storeQ := r } } }) canonical (hartAgent s.h)
    p.key p.bytes
  have hnames := names_performed hperf
  exact acts_of_eq (fun _ _ _ _ => rfl) (congrArg (Option.getD · s) (drainOne_local hq at_ free home whole release order))
    hperf hnames

theorem acts_drainAway {n : Nat} (hq : s.h.ms.storeQ = p :: r) (home : regionOf p.key = .domain n)
    (free : s.dev.owned p.key = false) (release : p.rel = some 4 → s.h.ms.fabricQ = []) (at_ : p.tier = none)
    (order : p.nonidem = true → ∀ q ∈ s.h.ms.fabricQ, q.2.nonidem = true → q.1 = n) :
    Acts s .drain (· = { s with h := { s.h with ms := { s.h.ms with
      storeQ := r
      fabricQ := s.h.ms.fabricQ ++ [(n, p)] } } }) := by
  exact acts_of_eq (fun _ _ _ _ => rfl) (congrArg (Option.getD · s) (drainOne_away hq at_ free home release order)) rfl rfl

end

section

variable {n : Nat} {p : Part} {q r : List (Nat × Part)} (h : s.h.ms.fabricQ = q ++ (n, p) :: r) (first : ∀ x ∈ q, x.1 ≠ n)
  (free : s.dev.owned p.key = false)
include h first free

theorem acts_arrive (up : s.dev.peerUp n = true ∧ n ∉ s.dev.failNext) (whole : p.mask = none)
    (canonical : s.dev.mem.wf = true ∧ s.dev.writeWatch = []) : Acts s (fun g k => .arrive g k n) fun u =>
      Performed (hartAgent s.h) { s with h := { s.h with ms := { s.h.ms with fabricQ := q ++ r } } } u p.key p.bytes := by
  have hperf := performed_putMem (s := { s with h := { s.h with ms := { s.h.ms with fabricQ := q ++ r } } }) canonical
    (hartAgent s.h) p.key p.bytes
  have hnames := names_performed hperf
  exact acts_of_eq (fun _ _ _ _ => rfl) (congrArg (Option.getD · s) (arriveOne_reached h first free up whole)) hperf hnames

theorem acts_arriveFails {fl : List Nat} (up : (s.dev.peerUp n = false ∧ fl = s.dev.failNext) ∨
      (s.dev.peerUp n = true ∧ n ∈ s.dev.failNext ∧ fl = s.dev.failNext.erase n)) (no : s.h.ms.fabFail = none) :
    Acts s (fun g k => .arrive g k n) (· = { s with dev := { s.dev with failNext := fl }, h := { s.h with ms := { s.h.ms with
      fabricQ := q ++ r
      fabFail := some (BitVec.ofNat 64 p.va) } } }) := by
  exact acts_of_eq (fun _ _ _ _ => rfl) (congrArg (Option.getD · s) (arriveOne_failed h first free up no)) rfl rfl

end

theorem acts_arriveLoad {n : Nat} {l : RemoteLoad} {q r : List (Nat × RemoteLoad)} {up : Bool} {v : State}
    (h : s.h.ms.loadQ = q ++ (n, l) :: r) (first : ∀ x ∈ q, x.1 ≠ n) (behind : ∀ x ∈ s.h.ms.fabricQ, x.1 ≠ n)
    (free : s.dev.owned l.key = false) (reach : s.remoteAccess n = (up, v)) (intact : s.dev.bad l.key l.len = false) :
    Acts s (fun g k => .arrive g k n) (· = { v with h := { s.h with ms := { s.h.ms with
      loadQ := q ++ r
      landed := s.h.ms.landed ++ [{ l with bytes := if up then some (s.dev.mem.getBytes l.key l.len) else none }] } } }) := by
  have hv := congrArg State.others (remoteAccess_eq s n)
  rw [reach] at hv
  exact acts_of_eq (fun _ _ _ _ => rfl) (congrArg (Option.getD · s) (arriveOne_load h first behind free reach intact)) rfl
    (congrArg (List.map _) hv)

end

/-! ### Stall charges (R353, R354) -/

theorem stallCode_eq {k : WaitKind} {code : BitVec 4} (h : StallCode k code) : k.code = code ∧ k ≠ .result := by
  cases h <;> exact ⟨rfl, by decide⟩

/-- Whether an entry of the stall-pair table belongs to this consumer, kind and producer. -/
def StallEntry.at (pc : BitVec 52) (code : BitVec 4) (on : BitVec 52) (e : StallEntry) : Bool :=
  e.cpc == pc && e.kind == code && e.ppc == on

theorem StallEntry.at_iff {pc : BitVec 52} {code : BitVec 4} {on : BitVec 52} {e : StallEntry} :
    e.at pc code on = true ↔ e.cpc = pc ∧ e.kind = code ∧ e.ppc = on := by
  simp [StallEntry.at, and_assoc]

section

variable {k : WaitKind} {code : BitVec 4} (hk : StallCode k code) (d : DebugState) (pc on : BitVec 52) (n : Nat)
include hk

/-- A stall under way that has an entry is charged there. -/
theorem charge_of_entry (h : d.table.any (StallEntry.at pc code on) = true) : d.charge pc k on n false =
    { d with table := d.table.map fun e => if e.at pc code on then { e with lost := satAdd e.lost n } else e } := by
  obtain ⟨rfl, hres⟩ := stallCode_eq hk
  unfold StallEntry.at at h ⊢
  simp only [DebugState.charge, h, hres, if_true, if_false, Bool.false_and, Bool.false_eq_true]

/-- One that has none gets one while there is room. -/
theorem charge_of_room (h : d.table.any (StallEntry.at pc code on) = false) (room : d.table.length < 32) :
    d.charge pc k on n false = { d with table := d.table ++
      [{ lost := BitVec.ofNat 64 n, events := 0, elag := 0, cpc := pc, kind := code, ppc := on }] } := by
  obtain ⟨rfl, -⟩ := stallCode_eq hk
  unfold StallEntry.at at h
  simp only [DebugState.charge, h, room, if_true, Bool.false_eq_true, if_false]
  rfl

end

section

variable {s : State}

theorem acts_stallCharge {k : WaitKind} {code : BitVec 4} {on : BitVec 52} {c n : Nat} (h : s.h.db.stall = some (k, on, c))
    (hk : StallCode k code) (hn : n = s.cycle - c) (long : 1024 ≤ n) (room : s.h.db.table.length < 32) :
    Acts s .stallCharge fun u => ∃ tab : List StallEntry,
      u = { s with h := { s.h with db := { s.h.db with stall := some (k, on, s.cycle), table := tab } } } ∧
      ((∀ e ∈ s.h.db.table, ¬(e.cpc = s.h.pc ∧ e.kind = code ∧ e.ppc = on)) → tab = s.h.db.table ++
        [{ lost := BitVec.ofNat 64 n, events := 0, elag := 0, cpc := s.h.pc, kind := code, ppc := on }]) ∧
      ((∃ e ∈ s.h.db.table, e.cpc = s.h.pc ∧ e.kind = code ∧ e.ppc = on) → tab.length = s.h.db.table.length ∧
        ∀ (j : Nat) (e : StallEntry), s.h.db.table[j]? = some e → tab[j]? = some
          (if e.cpc = s.h.pc ∧ e.kind = code ∧ e.ppc = on then
            { e with lost := BitVec.ofNat 64 (min (e.lost.toNat + n) (2 ^ 64 - 1)) } else e)) := by
  have hcharge : s.h.chargeNow s.cycle =
      { s.h with db := { s.h.db.charge s.h.pc k on n false with stall := some (k, on, s.cycle) } } := by
    rw [Hart.chargeNow, h, hn]
    exact if_pos (hn ▸ long)
  have hexec : ∀ t g r, t.cycle = s.cycle → exec (.stallCharge g r) t = .next (t.atHart g r (Hart.chargeNow s.cycle)) :=
    fun t g r ht => ht ▸ rfl
  refine acts_atHart hexec ?_
  rw [hcharge]
  cases hany : s.h.db.table.any (StallEntry.at s.h.pc code on) with
  | true =>
    obtain ⟨e, he, hat⟩ := List.any_eq_true.mp hany
    rw [charge_of_entry hk _ _ _ _ hany]
    refine ⟨_, rfl, fun no => absurd (StallEntry.at_iff.mp hat) (no e he), fun _ => ⟨List.length_map .., fun j x hx => ?_⟩⟩
    rw [List.getElem?_map, hx]
    simp only [Option.map_some, StallEntry.at_iff, satAdd]
  | false =>
    have hno : ∀ e ∈ s.h.db.table, ¬(e.cpc = s.h.pc ∧ e.kind = code ∧ e.ppc = on) := fun e he hat =>
      List.any_eq_false.mp hany e he (StallEntry.at_iff.mpr hat)
    rw [charge_of_room hk _ _ _ _ hany room]
    exact ⟨_, rfl, fun _ => rfl, fun ⟨e, he, hat⟩ => absurd hat (hno e he)⟩

/-! ### The end of a promotion wait (R57) -/

theorem bits_one_eq_zero_iff (x lo : Nat) : bits x lo 1 = 0 ↔ x.testBit lo = false := by
  rw [bits, pow_one, Nat.testBit_eq_decide_div_mod_eq, decide_eq_false_iff_not]
  omega

/-- TIERWAIT at an untraced hart outside strips that has a handler. -/
theorem takeTrap_tierwait (st : s.h.ms.strip = none) (hv : s.h.hr.hvec ≠ 0) (tr : s.traceUnit = none) (el : Nat) (a : Word) :
    takeTrap .tierwait el a s =
      { s with h := ({ s.h with vc := { s.h.vc with vstart := BitVec.ofNat 48 el } } : Hart).enter false 0x12 a el } := by
  have hat : s.h.atTrap .tierwait el = { s.h with vc := { s.h.vc with vstart := BitVec.ofNat 48 el } } := by
    simp [Hart.atTrap, st, Cause.atElem]
  have hab : s.traceAbandon = s := by simp [State.traceAbandon, st]
  have hlog : s.logMcheck .tierwait (s.h.trapAddr .tierwait a) = s := rfl
  unfold takeTrap takeTrapAt
  simp only [hlog, hat, hab, State.traceRec_of_untraced tr]
  exact if_neg hv

theorem acts_tierwait {el va p t0 : Nat} (h : s.h.sy.tierAsk = some (el, va, p))
    (clock : s.h.sy.tierClock.find? (fun x => x.1 == p) = some (p, t0)) (due : t0 + 10000000 ≤ s.time)
    (leaf : s.dev.mem.getNat p 8 % 4 = 3 ∧ (s.dev.mem.getNat p 8).testBit 62 = false)
    (runs : s.h.status = .running ∧ s.h.db.halted = false ∧ s.h.db.stepping = false)
    (st : s.h.ms.strip = none) (hv : s.h.hr.hvec ≠ 0) (tr : s.traceUnit = none) :
    Acts s .tierwait fun u => Entered s u false 0x12 (BitVec.ofNat 64 va) el (BitVec.ofNat 48 el) := by
  obtain ⟨hrun, hhalt, hstep⟩ := runs
  have hruns : s.h.runs = true := by simp [Hart.runs, hrun, hhalt]
  have hwaits : s.pteAt p % 4 = 3 ∧ bits (s.pteAt p) 62 1 = 0 ∧ t0 + tierLimit ≤ s.time ∧ s.h.runs = true :=
    ⟨leaf.1, (bits_one_eq_zero_iff ..).mpr leaf.2, due, hruns⟩
  have hf : tierTimeout s = takeTrap .tierwait el (BitVec.ofNat 64 va) s := by
    unfold tierTimeout
    simp only [h, clock, if_pos hwaits]
    rw [takeTrap_tierwait st hv tr]
    exact State.endStep_of_running (by exact hstep) ..
  rw [takeTrap_tierwait st hv tr] at hf
  exact acts_of_eq (fun _ _ _ _ => rfl) hf (entered_enter s _ (by decide) _ el) rfl

end

/-! ### The end of a wait (R297, R316) -/

section

variable {s : State}

/-- The state behind the end of an instruction that went on to where `t` stands, with the debug registers `d`. -/
def State.finished (t : State) (d : DebugState) : State :=
  { t with h := { t.h with
    db := d
    sy := unwaiting t.h.sy
    ms := { t.h.ms with holdNext := t.h.ms.holdNext.filter (· == t.h.pc), loadQ := [], landed := [] } } }

/-- The end of an instruction that did not wait and behind which nothing is bound. -/
theorem endOfInstr_eq_finished {t : State} (hw : t.h.db.waited ≠ some t.cycle) (hb : t.h.ms.bound = []) (pc : BitVec 52) :
    ∃ d : DebugState, t.endOfInstr pc = t.finished d ∧ d.stepping = t.h.db.stepping := by
  obtain ⟨d, hd, hstep, -⟩ := t.endStall_eq_withDb pc
  obtain ⟨d', hd', hstep'⟩ := (t.withDb d).resultStall_eq_withDb pc
  refine ⟨d', ?_, hstep'.trans hstep⟩
  have hbehind : t.h.ms.behind pc t.h.pc = t.h.ms := by simp [MemState.behind, hb]
  rw [State.endOfInstr, if_neg hw, hd, hd']
  dsimp only [State.withDb]
  rw [hbehind]
  rfl

/-- What a wait that ends at its deadline has gone on to. -/
theorem done_finished {w : State} (hpc : w.h.pc = s.h.pc) (hlp : w.h.lp = s.h.lp) (d : DebugState) :
    Done s { w with h := { w.h with
      db := d
      sy := unwaiting w.h.sy
      ms := { w.h.ms with loadQ := [], landed := [], holdNext := w.h.ms.holdNext.filter (· == (w.advance 4).h.pc) } } }
      ((w.advance 4).finished d) 4 := by
  obtain ⟨hgo, heq⟩ := done_advance (n := 4) (by decide) hpc hlp
  refine ⟨hgo, ?_⟩
  conv_lhs => rw [heq]
  rfl

/-- What the instruction of a wait does at its deadline. -/
def PendWait.meaning (p : PendWait) : M Unit := if p.ge then waitGe p.d p.a p.b p.c else waitEvent p.d p.a

theorem passDeadline_of_due {p : PendWait} {w : State} (hp : s.deadlineDue = some p)
    (runs : s.h.status = .running ∧ s.h.db.halted = false ∧ s.h.db.stepping = false ∧ s.h.db.waited ≠ some s.cycle)
    (hm : p.meaning.run s = (.ok (), w.advance 4)) (hdb : w.h.db = s.h.db) (hcycle : w.cycle = s.cycle)
    (hb : w.h.ms.bound = []) : ∃ d, s.passDeadline = (w.advance 4).finished d := by
  obtain ⟨hrun, hhalt, hstep, hwait⟩ := runs
  have hruns : s.h.runs = true := by simp [Hart.runs, hrun, hhalt]
  have hafter : s.after p.meaning = w.advance 4 := by rw [State.after, runM_ok hm]
  have hadb : (w.advance 4).h.db = s.h.db := (Hart.advance_db ..).trans hdb
  obtain ⟨d, hd, hds⟩ := endOfInstr_eq_finished (t := w.advance 4) (by rw [hadb]; exact hcycle ▸ hwait)
    ((congrArg MemState.bound (Hart.advance_ms ..)).trans hb) s.h.pc
  refine ⟨d, ?_⟩
  unfold State.passDeadline
  rw [if_pos hruns, hp]
  show State.endStep s.h.pc s.h.handler ((s.after p.meaning).endOfInstr s.h.pc) = _
  rw [hafter, hd]
  exact State.endStep_of_running (hds.trans (hadb ▸ hstep)) ..

theorem deadlineDue_of_due {p : PendWait} (h : s.h.sy.pendWait = some p) (hpc : p.pc = s.h.pc)
    (due : s.getX (if p.ge then p.c else p.a) ≠ 0 ∧ (s.getX (if p.ge then p.c else p.a)).toNat ≤ s.time) :
    s.deadlineDue = some p := by
  have hne : (s.getX (if p.ge then p.c else p.a)).toNat ≠ 0 := fun e => due.1 (BitVec.eq_of_toNat_eq e)
  rw [State.deadlineDue, h]
  exact if_pos ⟨hpc, hne, due.2⟩

theorem acts_waitDeadline {d a b c : Reg} (h : s.h.sy.pendWait = some ⟨s.h.pc, false, d, a, b, c⟩) (none' : s.h.sy.evt = false)
    (due : s.getX a ≠ 0 ∧ (s.getX a).toNat ≤ s.time)
    (runs : s.h.status = .running ∧ s.h.db.halted = false ∧ s.h.db.stepping = false ∧ s.h.db.waited ≠ some s.cycle)
    (st : s.h.ms.strip = none) :
    Acts s .waitDeadline fun u => Done s { chargedAs (s.setX d 0) u with h := { (chargedAs (s.setX d 0) u).h with
      sy := unwaiting { s.h.sy with evt := false, mon := none, monAddr := 0 }
      ms := { s.h.ms with bound := [], loadQ := [], landed := [], holdNext := s.h.ms.holdNext.filter (· == u.h.pc) } } } u 4 := by
  have hrun := run_waitEvent st d a (.inr due)
  rw [none', if_neg (by decide)] at hrun
  obtain ⟨db, hf⟩ := passDeadline_of_due (deadlineDue_of_due h rfl due) runs hrun (Hart.setX_db ..) rfl rfl
  exact acts_of_eq (fun _ _ _ _ => rfl) hf (done_finished (Hart.setX_pc ..) (Hart.setX_lp ..) db) rfl

/-- The hart whose wait of WAITGE has ended. -/
def State.woken (s : State) : State := { s with h := { s.h with sy := { s.h.sy with evt := false, pendWait := none } } }

theorem seesAs_woken (s : State) : s.SeesAs s.woken := ⟨rfl, rfl, rfl, rfl, rfl, rfl, rfl, rfl, rfl, rfl, rfl⟩

/-- The hart with what a WAITGE has read at `va`, which is the location `k` (R316). -/
def State.readGe (s : State) (d : Reg) (va k : Nat) : State :=
  { s.setX d (BitVec.ofNat 64 (seenNat s k 8)) with
    h := { (s.setX d (BitVec.ofNat 64 (seenNat s k 8))).h with
      sy := { s.h.sy with
        evt := false
        pendWait := none
        mon := some (k / 128 * 128)
        monAddr := BitVec.ofNat 52 va }
      ms := s.h.ms } }

/-- Where nothing is bound ahead an acquire changes nothing. -/
theorem run_acquire_idle {s : State} (hb : s.h.ms.bound = []) : acquire.run s = (.ok (), s) := by
  rw [acquire, run_modH, ← hb]

/-- WAITGE behind its deadline ends with the value that it reads (R316). -/
theorem run_waitGe_late {d a b c : Reg} {l : Leaf} {loc : Loc} (h : s.h.sy.pendWait = some ⟨s.h.pc, true, d, a, b, c⟩)
    (due : s.getX c ≠ 0 ∧ (s.getX c).toNat ≤ s.time) (st : s.h.ms.strip = none) (al : (s.getX a).toNat % 8 = 0)
    (m : Mapped s (s.getX a).toNat .load l loc) (home : AtHome s loc 8) (w : Unwatched s .load (s.getX a).toNat 8) :
    (waitGe d a b c).run s = (.ok (), (s.readGe d (s.getX a).toNat loc.key).advance 4) := by
  have hlate : ((s.getX c).toNat != 0 && decide ((s.getX c).toNat ≤ s.time)) = true := by
    have hne : (s.getX c).toNat ≠ 0 := fun e => due.1 (BitVec.eq_of_toNat_eq e)
    simp [hne, due.2]
  obtain ⟨hwatch, step⟩ := w
  have hplace : scalarRule 8 (s.getX a).toNat 8 loc = false := by
    have hattr : (loc.attr == 2) = false := by simpa using Nat.ne_of_lt m.idempotent
    simp [scalarRule, hattr]
  have hload := run_loadPlaced_local (s := s.woken) (mapped_of_seesAs (seesAs_woken s) m m.choices)
    ⟨home.region, home.line, home.free, home.intact⟩ (by decide) (le_stretch_of_aligned m.address.2 (by decide) al)
    ⟨hwatch, step.bound, step.look, step.early, step.stores⟩ (bad := scalarRule) hplace 0 false
  have hwake : (modH fun h => { h with sy := { h.sy with evt := false, pendWait := none } }).run s = (.ok (), s.woken) := rfl
  have hval : ofBytes (s.woken.seenBytes loc.key 8) = seenNat s loc.key 8 := ofBytes_seenBytes s.woken loc.key 8
  unfold waitGe
  rw [run_bind_ok (run_noStrip st), run_bind_ok (run_get s), run_bind_ok (run_readX a s)]
  dsimp only
  rw [if_neg (by simpa using al), run_bind_ok (run_readX c s)]
  rw [if_pos h, hlate, if_neg (by simp)]
  rw [run_bind_ok hwake, run_bind_ok hload, run_bind_ok (run_acquire_idle (s := s.woken) step.bound), run_bind_ok (run_modH _ _)]
  dsimp only
  rw [run_bind_ok (run_readX b _), Bool.not_true, Bool.and_false, if_neg (by decide), run_bind_ok (run_writeX d _ _), run_retire,
    hval]
  unfold State.readGe State.setX Hart.setX
  split <;> rfl

theorem acts_waitgeDeadline {d a b c : Reg} {l : Leaf} {loc : Loc} (h : s.h.sy.pendWait = some ⟨s.h.pc, true, d, a, b, c⟩)
    (due : s.getX c ≠ 0 ∧ (s.getX c).toNat ≤ s.time)
    (runs : s.h.status = .running ∧ s.h.db.halted = false ∧ s.h.db.stepping = false ∧ s.h.db.waited ≠ some s.cycle)
    (st : s.h.ms.strip = none) (al : (s.getX a).toNat % 8 = 0) (m : Mapped s (s.getX a).toNat .load l loc)
    (home : AtHome s loc 8) (w : Unwatched s .load (s.getX a).toNat 8) :
    Acts s .waitDeadline fun u =>
      Done s { chargedAs (s.setX d (BitVec.ofNat 64 (seenNat s loc.key 8))) u with
        h := { (chargedAs (s.setX d (BitVec.ofNat 64 (seenNat s loc.key 8))) u).h with
          sy := unwaiting { s.h.sy with
            evt := false
            mon := some (loc.key / 128 * 128)
            monAddr := BitVec.ofNat 52 (s.getX a).toNat }
          ms := { s.h.ms with loadQ := [], landed := [], holdNext := s.h.ms.holdNext.filter (· == u.h.pc) } } } u 4 := by
  obtain ⟨db, hf⟩ := passDeadline_of_due (deadlineDue_of_due h rfl due) runs (run_waitGe_late h due st al m home w)
    (Hart.setX_db ..) rfl w.2.bound
  exact acts_of_eq (fun _ _ _ _ => rfl) hf (done_finished (w := s.readGe d (s.getX a).toNat loc.key) (Hart.setX_pc ..)
    (Hart.setX_lp ..) db) rfl

end

/-! ### Every event of a hart -/

theorem acts_of_hartEvent {s : State} {e : Nat → Nat → Instr} {P : State → Prop} (h : HartEvent s e P) : Acts s e P := by
  cases h with
  | interrupt _ c s' h m st mk => exact acts_interrupt h m st mk
  | interruptInStrip _ c st h' h m hs one ha => exact acts_interruptInStrip h m hs one ha
  | holdExpiry c h due => exact acts_holdExpiry h due
  | waitDeadline d a b c h none' due runs st => exact acts_waitDeadline h none' due runs st
  | waitgeDeadline d a b c l loc h due runs st al m home w => exact acts_waitgeDeadline h due runs st al m home w
  | tierwait el va p t0 h clock due leaf runs st hv tr => exact acts_tierwait h clock due leaf runs st hv tr
  | bind i d va n sg len l loc free at_ ld al m home => exact acts_bind free at_ ld al m home
  | replay pc => exact acts_replay pc
  | early a b l loc free at_ trigger hb al m home => exact acts_early free at_ trigger hb al m home
  | drain p r h home line whole free release at_ order canonical =>
    exact acts_drain h home whole free release at_ order canonical
  | drainAway p r n h home free release at_ order => exact acts_drainAway h home free release at_ order
  | arrive n p q r h first free up whole canonical => exact acts_arrive h first free up whole canonical
  | arriveLoad n l q r up v h first behind free reach intact => exact acts_arriveLoad h first behind free reach intact
  | arriveFails n fl p q r h first free up no => exact acts_arriveFails h first free up no
  | stallCharge k code on c n h hk hn long room => exact acts_stallCharge h hk hn long room
  | regError r b => exact acts_regError r b
  | tileError t b => exact acts_tileError t b
  | latchError l b => exact acts_latchError l b

/-- Settles O39: every event changes the hart that it names as at the front (`acts_of_hartEvent`), and the visit of the harts
meets that one only (`withHart_of_front`). -/
theorem hartEvents : Obligations.HartEvents := by
  intro s p e P hp alone h
  obtain ⟨f, hexec, hP, hnames⟩ := acts_of_hartEvent h
  have hcycle : s.cycle = (State.rotate^[p] s).cycle := by rw [State.rotate_iterate_eq]
  refine ⟨f (State.rotate^[p] s), hP, (hexec s _ _ hcycle).trans ?_⟩
  exact congrArg _ (withHart_of_front hp alone rfl hnames)

end Sys2Proof.Machine
end

section
/-! Accesses of KV instructions (R68, R74, R77, R78, R85): the places of local memory that they read, the descriptor and
its checks, and how an instruction ends with the stash of its core. -/

namespace Sys2Proof.Machine

open Sys2Proof.Claims

/-! ### Bytes at their homes -/

/-- The number that the statements read at a home is the model's. -/
theorem numAt_homes (s : State) (k n : Nat) : numAt (homes s) k n = s.dev.mem.getNat k n := by
  rw [Memory.getNat, ofBytes_eq_sum, Memory.getBytes_length, numAt]
  congr 1
  apply List.map_congr_left
  intro j hj
  rw [Memory.getBytes_get _ _ _ _ (List.mem_range.mp hj)]
  rfl

theorem ofBytes_lt : ∀ bs : List Byte, ofBytes bs < 2 ^ (8 * bs.length)
  | [] => by simp [ofBytes]
  | b :: r => by
    have hr := ofBytes_lt r
    have hb := b.isLt
    rw [ofBytes, List.length_cons, Nat.mul_succ, pow_add]
    omega

theorem numAt_homes_lt (s : State) (k n : Nat) : numAt (homes s) k n < 2 ^ (8 * n) := by
  have h := ofBytes_lt (s.dev.mem.getBytes k n)
  rwa [Memory.getBytes_length, ← Memory.getNat, ← numAt_homes] at h

/-! ### Places (R78, R85) -/

/-- A place stays one where the hart's view stays. -/
theorem lies_withH {s : State} {g : Hart} {va n k : Nat} {w : Bool} (l : Lies s va n k w) (v : SameView s.h g) :
    Lies { s with h := g } va n k w := by
  obtain ⟨al, f, c, m, hk, home, store⟩ := l
  refine ⟨al, f, c, mapped_withH m v, hk, ⟨home.region, home.line, home.free, home.intact⟩, fun hw => ?_⟩
  obtain ⟨f', m'⟩ := store hw
  exact ⟨f', mapped_withH m' v⟩

section

variable {s : State} {va n k : Nat} {w : Bool} (l : Lies s va n k w) (hn : 0 < n) (hd : n ∣ 128)
include l hn hd

/-- A range that is read, and written where it may be, is one stretch. -/
theorem run_kvPlace_of_lies (u : Nat) {w' : Bool} (hw : w' = true → w = true) :
    (kvPlace u va n w').run s = (.ok [(va, k, n)], s) := by
  obtain ⟨al, f, c, m, rfl, home, store⟩ := l
  have hs := le_stretch_of_aligned m.address.2 hd al
  have hrule : scalarRule n va n c = false := by
    have : (c.attr == 2) = false := by simpa using Nat.ne_of_lt m.idempotent
    simp [scalarRule, this]
  unfold kvPlace
  rw [run_bind_ok (run_places_mapped m hrule hn hs u false)]
  cases w' with
  | false =>
    rw [if_neg (by decide)]
    exact run_bind_ok (run_bankReady_local home.region hn home.line)
  | true =>
    obtain ⟨f', m'⟩ := store (hw rfl)
    rw [if_pos rfl, run_bind_ok (run_places_mapped m' hrule hn hs u false)]
    exact run_bind_ok (run_bankReady_local home.region hn home.line)

omit hd in
theorem run_kvFree_of_lies : (kvFree [(va, k, n)]).run s = (.ok (), s) := by
  obtain ⟨-, -, c, -, rfl, home, -⟩ := l
  unfold kvFree
  rw [run_bind_ok (run_get s)]
  simp [linePieces_eq_singleton hn home.line, home.free, run_pure]

omit hn hd in
theorem run_kvSound_of_lies (u : Nat) : (kvSound u [(va, k, n)]).run s = (.ok (), s) := by
  obtain ⟨-, -, c, -, rfl, home, -⟩ := l
  unfold kvSound
  rcases home.region with hr | hr
  all_goals
    simp only [hr]
    rw [run_bind_ok (run_getD s), home.intact, if_neg (by decide)]
    rfl

omit hn hd in
theorem kvBytes_of_lies : s.kvBytes [(va, k, n)] = s.dev.mem.getBytes k n := by
  obtain ⟨-, -, c, -, rfl, home, -⟩ := l
  simp [State.kvBytes, readHome_of_local home.region]

omit hn hd in
theorem ofBytes_kvBytes_of_lies : ofBytes (s.kvBytes [(va, k, n)]) = numAt (homes s) k n := by
  rw [kvBytes_of_lies l, numAt_homes, Memory.getNat]

theorem run_kvRead_of_lies (u : Nat) : (kvRead u va n).run s = (.ok (s.dev.mem.getBytes k n), s) := by
  unfold kvRead
  rw [run_bind_ok (run_kvPlace_of_lies l hn hd u (fun h => absurd h (by decide))), run_bind_ok (run_kvFree_of_lies l hn),
    run_bind_ok (run_kvSound_of_lies l u), run_bind_ok (run_get s), kvBytes_of_lies l]
  rfl

end

/-! ### Descriptors (R68) -/

/-- A field is 0 where each of its bits is. -/
theorem bits_eq_zero_iff (x lo n : Nat) : bits x lo n = 0 ↔ ∀ i < n, x.testBit (lo + i) = false := by
  constructor
  · intro h i hi
    have := testBit_bits x lo n i
    simpa [h, hi] using this.symm
  · intro h
    apply Nat.eq_of_testBit_eq
    intro i
    rw [testBit_bits, Nat.zero_testBit]
    by_cases hi : i < n
    · simp [h i hi]
    · simp [hi]

/-- The checks of a descriptor are those of R68. -/
theorem kd_bad_eq_false_iff {k : Kd} (hk : k.w < 2 ^ (8 * 64)) : k.bad = false ↔ LegalSeq k.w := by
  have hhigh : ∀ i, 8 * 64 ≤ i → k.w.testBit i = false := fun i hi =>
    Nat.testBit_lt_two_pow (hk.trans_le (Nat.pow_le_pow_right (by decide) hi))
  have hfields : k.bad = false ↔ (bits k.w 231 1 = 0 ∧ bits k.w 238 2 = 0 ∧ bits k.w 265 23 = 0 ∧ bits k.w 304 16 = 0 ∧
      bits k.w 384 128 = 0) ∧ k.dim ≠ 3 ∧ k.dlen ≤ 64 := by
    simp [Kd.bad, and_assoc]
  rw [hfields, LegalSeq]
  simp only [bits_eq_zero_iff]
  refine and_congr ⟨?_, fun h => ?_⟩ Iff.rfl
  · rintro ⟨h231, h238, h265, h304, h384⟩ i (rfl | rfl | rfl | ⟨lo, hi⟩ | ⟨lo, hi⟩ | lo)
    · exact h231 0 (by decide)
    · exact h238 0 (by decide)
    · exact h238 1 (by decide)
    · simpa [Nat.add_sub_cancel' lo] using h265 (i - 265) (by omega)
    · simpa [Nat.add_sub_cancel' lo] using h304 (i - 304) (by omega)
    · by_cases hi : i < 512
      · simpa [Nat.add_sub_cancel' lo] using h384 (i - 384) (by omega)
      · exact hhigh i (by omega)
  · exact ⟨fun i hi => h _ (by omega), fun i hi => h _ (by omega), fun i hi => h _ (by omega), fun i hi => h _ (by omega),
      fun i hi => h _ (by omega)⟩

/-- The descriptor as read from its place. -/
def readKd (s : State) (va k : Nat) : Kd := { va := va, w := numAt (homes s) k 64, ps := [(va, k, 64)] }

theorem readKd_bad_eq_false_iff (s : State) (va k : Nat) : (readKd s va k).bad = false ↔ LegalSeq (numAt (homes s) k 64) := by
  have hk : (readKd s va k).w < 2 ^ (8 * 64) := numAt_homes_lt s k 64
  exact kd_bad_eq_false_iff hk

section

variable {s : State} {va k : Nat} {w : Bool} (l : Lies s va 64 k w) {w' : Bool} (hw : w' = true → w = true)
include l hw

theorem run_kvDesc_of_lies : (kvDesc va w').run s =
    if (readKd s va k).bad then (.error (.trap .kvdesc s.h.vc.vstart.toNat (BitVec.ofNat 64 va)), s)
    else (.ok (readKd s va k), s) := by
  have hal : ¬va % 64 ≠ 0 := not_not.mpr l.1
  unfold kvDesc
  rw [run_bind_ok (run_getH s)]
  simp only [if_neg hal]
  rw [run_bind_ok (run_kvPlace_of_lies l (by decide) (by decide) _ hw),
    run_bind_ok (run_kvFree_of_lies l (by decide)), run_bind_ok (run_kvSound_of_lies l _), run_bind_ok (run_get s),
    ofBytes_kvBytes_of_lies l]
  change (if (readKd s va k).bad then kvdesc _ va >>= fun _ => pure (readKd s va k) else pure (readKd s va k) : M Kd).run s = _
  rw [run_ite]
  rfl

/-- A legal descriptor is read. -/
theorem run_kvDesc_legal (legal : LegalSeq (numAt (homes s) k 64)) : (kvDesc va w').run s = (.ok (readKd s va k), s) := by
  rw [run_kvDesc_of_lies l hw, (readKd_bad_eq_false_iff s va k).mpr legal, if_neg (by decide)]

theorem run_kvDesc_illegal (bad : ¬LegalSeq (numAt (homes s) k 64)) :
    (kvDesc va w').run s = (.error (.trap .kvdesc s.h.vc.vstart.toNat (BitVec.ofNat 64 va)), s) := by
  have hb : (readKd s va k).bad = true := by
    rw [← Bool.not_eq_false]
    exact mt (readKd_bad_eq_false_iff s va k).mp bad
  rw [run_kvDesc_of_lies l hw, if_pos hb]

end

theorem run_kvDesc_misaligned {s : State} {va : Nat} (h : va % 64 ≠ 0) (w : Bool) :
    (kvDesc va w).run s = (.error (.trap .misalign s.h.vc.vstart.toNat (BitVec.ofNat 64 va)), s) := by
  unfold kvDesc
  rw [run_bind_ok (run_getH s)]
  simp only [if_pos h]
  exact run_bind_error (run_trap ..)

/-! ### The start (R78, R85) -/

/-- A KV instruction begins with the hart's older stores at their homes and no load bound. -/
def State.unbound (s : State) : State := { s with h := { s.h with ms := { s.h.ms with bound := [] } } }

theorem run_acquire (s : State) : acquire.run s = (.ok (), s.unbound) := rfl

theorem sameView_unbound (s : State) : SameView s.h s.unbound.h := ⟨rfl, rfl, rfl, rfl, rfl⟩

theorem run_kvStart {s : State} (f : KvFresh s) : kvStart.run s = (.ok (), s.unbound) := by
  unfold kvStart
  rw [run_bind_ok (run_noStrip f.strip), run_bind_ok (run_flushStores_of_empty f.queues.1 f.queues.2)]
  rfl

theorem run_kvStart_inStrip {s : State} (hs : s.h.ms.strip.isSome) :
    kvStart.run s = (.error (.trap .stripop 0 (s.h.pc.setWidth 64)), s) := run_bind_error (run_noStrip_inStrip hs)

/-! ### The stash behind an instruction (R74) -/

/-- The place of a stash among those of the device. -/
def Stash.isAt (die core : Nat) (x : Stash) : Bool := x.die == die && x.core == core

theorem device_stash_eq (w : State) : w.dev.stash w.h.ctx.die w.h.ctx.core = coreStash w := rfl

/-- The stash of a core stands at that core. -/
theorem coreStash_place (w : State) : (coreStash w).die = w.h.ctx.die ∧ (coreStash w).core = w.h.ctx.core := by
  unfold coreStash
  cases hf : w.dev.stashes.find? fun x => x.die == w.h.id.hartid.toNat / 256 && x.core == w.h.id.hartid.toNat / 4 % 64 with
  | none => exact ⟨rfl, rfl⟩
  | some x =>
    have hat := List.find?_some hf
    rw [Bool.and_eq_true, beq_iff_eq, beq_iff_eq] at hat
    exact hat

/-- The stashes of a device with one put at its place. -/
def putStash (l : List Stash) (x : Stash) : List Stash :=
  if l.any (Stash.isAt x.die x.core) then l.map fun y => if y.isAt x.die x.core then x else y else l ++ [x]

theorem setStash_eq (d : Device) (x : Stash) : d.setStash x = { d with stashes := putStash d.stashes x } := by
  unfold Device.setStash putStash Stash.isAt
  split <;> rfl

/-- A stash put after another at the same place. -/
theorem putStash_putStash (l : List Stash) {x y : Stash} (h : y.die = x.die ∧ y.core = x.core) :
    putStash (putStash l x) y = putStash l y := by
  obtain ⟨hd, hc⟩ := h
  have hx : x.isAt x.die x.core = true := by simp [Stash.isAt]
  by_cases hany : l.any (Stash.isAt x.die x.core) = true
  · have hmap : (l.map fun z => if z.isAt x.die x.core then x else z).any (Stash.isAt x.die x.core) = true := by
      obtain ⟨z, hz, hat⟩ := List.any_eq_true.mp hany
      exact List.any_eq_true.mpr ⟨x, List.mem_map.mpr ⟨z, hz, if_pos hat⟩, hx⟩
    simp only [putStash, hd, hc, if_pos hany, if_pos hmap, List.map_map]
    apply List.map_congr_left
    intro z _
    by_cases hz : z.isAt x.die x.core = true <;> simp [hz, hx]
  · have hnone : ∀ z ∈ l, ¬z.isAt x.die x.core = true := by simpa using hany
    have hmap : (l ++ [x]).any (Stash.isAt x.die x.core) = true := by simp [hx]
    have hkeep : (l.map fun z => if z.isAt x.die x.core then y else z) = l :=
      (List.map_congr_left fun z hz => if_neg (hnone z hz)).trans (List.map_id' l)
    simp only [putStash, hd, hc, if_neg hany, if_pos hmap, List.map_append, hkeep, List.map_cons, List.map_nil, if_pos hx]

/-- The stash at a place once one has been put there. -/
theorem stash_setStash (d : Device) (x : Stash) : (d.setStash x).stash x.die x.core = x := by
  have hx : x.isAt x.die x.core = true := by simp [Stash.isAt]
  have hfind : (putStash d.stashes x).find? (Stash.isAt x.die x.core) = some x := by
    unfold putStash
    by_cases hany : d.stashes.any (Stash.isAt x.die x.core) = true
    · rw [if_pos hany, List.find?_map]
      have hcomp : (Stash.isAt x.die x.core ∘ fun z => if z.isAt x.die x.core then x else z) = Stash.isAt x.die x.core := by
        funext z
        by_cases hz : z.isAt x.die x.core = true <;> simp [hz, hx]
      obtain ⟨z, hz, hat⟩ := List.any_eq_true.mp hany
      rw [hcomp]
      cases hf : d.stashes.find? (Stash.isAt x.die x.core) with
      | none => exact absurd hat (List.find?_eq_none.mp hf z hz)
      | some y => simp [List.find?_some hf]
    · have hnone : d.stashes.find? (Stash.isAt x.die x.core) = none :=
        List.find?_eq_none.mpr fun z hz hat => hany (List.any_eq_true.mpr ⟨z, hz, hat⟩)
      rw [if_neg hany, List.find?_append, hnone, List.find?_cons_of_pos hx]
      rfl
  rw [setStash_eq]
  show ((putStash d.stashes x).find? (Stash.isAt x.die x.core)).getD _ = x
  rw [hfind]
  rfl

/-- What is found first stays so where each element is found as before and the one found stays. -/
theorem find?_map_of_keeps {α : Type} {p : α → Bool} {f : α → α} {l : List α} (hp : ∀ y, p (f y) = p y)
    (hf : ∀ y, l.find? p = some y → f y = y) : (l.map f).find? p = l.find? p := by
  rw [List.find?_map, show p ∘ f = p from funext hp]
  cases hl : l.find? p with
  | none => rfl
  | some y => exact congrArg some (hf y hl)

theorem num_tenant (d : Device) (t : Nat) : (d.tenant t).num = t := by
  unfold Device.tenant
  cases hf : d.tenants.find? (·.num == t) with
  | none => rfl
  | some x => simpa using List.find?_some hf

/-- A tenant set to what it is leaves every tenant. -/
theorem tenant_setTenant_self (d : Device) (t n : Nat) : (d.setTenant (d.tenant t)).tenant n = d.tenant n := by
  have hnum := num_tenant d t
  unfold Device.setTenant
  rw [hnum]
  split
  · show ((d.tenants.map fun y => if y.num == t then d.tenant t else y).find? (·.num == n)).getD _ = _
    rw [find?_map_of_keeps, Device.tenant]
    · intro y
      by_cases hy : y.num = t <;> simp [hy, hnum]
    · intro y hy
      have hyn : y.num = n := by simpa using List.find?_some hy
      by_cases hnt : n = t
      · subst hnt
        simp [hyn, Device.tenant, hy]
      · simp [hyn, hnt]
  · next hany =>
    have hnone : d.tenants.find? (·.num == t) = none := List.find?_eq_none.mpr fun y hy => by
      simpa using fun h => hany (List.any_eq_true.mpr ⟨y, hy, by simpa using h⟩)
    have hdef : d.tenant t = { num := t } := by rw [Device.tenant, hnone]; rfl
    show ((d.tenants ++ [d.tenant t]).find? (·.num == n)).getD _ = (d.tenants.find? (·.num == n)).getD _
    rw [List.find?_append, hdef]
    by_cases hnt : t = n
    · subst hnt
      simp [hnone]
    · simp [hnt]

theorem leftStash_place (t : Nat) (x : Stash) : (leftStash t x).die = x.die ∧ (leftStash t x).core = x.core := by
  unfold leftStash
  split
  · exact ⟨rfl, rfl⟩
  · split <;> exact ⟨rfl, rfl⟩

/-- The device behind a KV instruction (R74). -/
theorem kvLeft_of_stashes {w v : State} (hv : v = { w with dev := { w.dev with stashes := v.dev.stashes, tenants := v.dev.tenants } })
    (hs : v.dev.stashes = putStash w.dev.stashes (leftStash w.h.id.tenant (coreStash w)))
    (ht : ∀ n, v.dev.tenant n = w.dev.tenant n) : KvLeft w v where
  stashes := by
    obtain ⟨hd, hc⟩ := leftStash_place w.h.id.tenant (coreStash w)
    rw [hs, putStash, hd, hc]
    simp [Stash.isAt]
  tenants := ht
  rest := hv

/-- The request that a stash makes for the tenant that it belongs to, and for one that it is handed to (R74). -/
theorem leftStash_eq_refill {t : Nat} {x : Stash} (h : ¬(x.ids = [] ∧ x.asked = 0)) : leftStash t x = x.refill := by
  unfold leftStash Stash.refill
  by_cases ha : x.asked = 0
  · have hne : x.ids ≠ [] := fun he => h ⟨he, ha⟩
    by_cases hl : x.ids.length < 8
    · rw [if_neg (by omega), if_neg hne, if_pos ⟨hl, ha⟩]
    · rw [if_pos (by omega), if_neg (by omega)]
  · rw [if_pos (.inl ha), if_neg (by omega)]

/-- The empty stash of a core as that of tenant `t` (notes/assumptions/30.md). -/
def Stash.handedTo (t : Nat) (x : Stash) : Stash := if x.tenant = t then x else { x with tenant := t, ids := [], dry := false }

theorem Stash.handedTo_place (t : Nat) (x : Stash) : (x.handedTo t).die = x.die ∧ (x.handedTo t).core = x.core := by
  unfold Stash.handedTo
  split <;> exact ⟨rfl, rfl⟩

theorem leftStash_eq_handedTo {t : Nat} {x : Stash} (hi : x.ids = []) (ha : x.asked = 0) :
    leftStash t x = (x.handedTo t).refill := by
  obtain ⟨die, core, tenant, ids, asked, askedFor, dry⟩ := x
  obtain rfl : ids = [] := hi
  obtain rfl : asked = 0 := ha
  by_cases ht : tenant = t <;> simp [leftStash, Stash.handedTo, Stash.refill, ht]

theorem Stash.refill_place (x : Stash) : x.refill.die = x.die ∧ x.refill.core = x.core := by
  unfold Stash.refill
  split <;> exact ⟨rfl, rfl⟩

/-- Taking the empty stash of a core for a tenant gives no ID back, so that every tenant stays. -/
theorem stashFor_of_empty {d : Device} {die core t : Nat} (hi : (d.stash die core).ids = []) :
    ∃ d0 : Device, d.stashFor die core t = d0.setStash ((d.stash die core).handedTo t) ∧
      d0 = { d with tenants := d0.tenants } ∧ ∀ n, d0.tenant n = d.tenant n := by
  by_cases ht : (d.stash die core).tenant = t
  · exact ⟨d, by simp [Device.stashFor, Stash.handedTo, ht], rfl, fun _ => rfl⟩
  · refine ⟨d.setTenant (d.tenant (d.stash die core).tenant), ?_, ?_, tenant_setTenant_self d _⟩
    · simp [Device.stashFor, Stash.handedTo, ht, Device.modTenant, hi]
    · unfold Device.setTenant
      split <;> rfl

theorem exists_leaveStash (w : State) : ∃ v, leaveStash.run w = (.ok (), v) ∧ KvLeft w v := by
  obtain ⟨hd, hc⟩ := coreStash_place w
  unfold leaveStash
  rw [run_bind_ok (run_getH w), run_bind_ok (run_getD w)]
  dsimp only
  rw [device_stash_eq, run_ite]
  by_cases hlow : (coreStash w).ids = [] ∧ (coreStash w).asked = 0
  · obtain ⟨d0, hfor, hrest, htenants⟩ := stashFor_of_empty (d := w.dev) (t := w.h.ctx.tenant) (device_stash_eq w ▸ hlow.1)
    obtain ⟨hd', hc'⟩ := Stash.handedTo_place w.h.ctx.tenant (coreStash w)
    have hstash := stash_setStash d0 ((coreStash w).handedTo w.h.ctx.tenant)
    rw [hd', hc', hd, hc] at hstash
    have hrun : (modStash Stash.refill).run w = (.ok (), { w with dev :=
        (d0.setStash ((coreStash w).handedTo w.h.ctx.tenant)).setStash ((coreStash w).handedTo w.h.ctx.tenant).refill }) := by
      unfold modStash
      rw [run_bind_ok (run_getH w), run_modD]
      simp only [hfor, device_stash_eq, hstash]
    rw [if_pos hlow, hrun]
    refine ⟨_, rfl, kvLeft_of_stashes ?_ ?_ fun n => ?_⟩
    · simp only [setStash_eq]
      rw [hrest]
    · have hkeep : d0.stashes = w.dev.stashes := by rw [hrest]
      simp only [setStash_eq]
      rw [putStash_putStash _ (Stash.refill_place _), hkeep, leftStash_eq_handedTo hlow.1 hlow.2]
      rfl
    · simp only [setStash_eq]
      exact htenants n
  · rw [if_neg hlow, run_modD]
    refine ⟨_, rfl, kvLeft_of_stashes (by rw [setStash_eq]) ?_ fun n => by rw [setStash_eq]; rfl⟩
    rw [setStash_eq, leftStash_eq_refill hlow]

/-! ### The end (R74, R77) -/

theorem run_tryCatch_error {α : Type} {x : M α} {f : Stop → M α} {s t : State} {e : Stop} (h : x.run s = (.error e, t)) :
    (tryCatch x f).run s = (f e).run t := by
  have h' : x s = (.error e, t) := h
  simp [tryCatch, tryCatchThe, MonadExceptOf.tryCatch, ExceptT.tryCatch, ExceptT.run, ExceptT.mk, bind, StateT.bind, h']

/-- An instruction-level cause leaves the stash as it is. -/
theorem runM_kvRun_instr {x : M Unit} {s t : State} {c : Cause} {e : Nat} {a : Word} (hc : c.atInstr = true)
    (h : x.run s = (.error (.trap c e a), t)) : runM (kvRun x) s = .next (takeTrap c e a t) := by
  refine runM_trap (run_bind_error ((run_tryCatch_error h).trans ?_))
  simp only [hc]
  rfl

/-- Another trap leaves the stash as R74 says. -/
theorem runM_kvRun_trap {x : M Unit} {s t : State} {c : Cause} {e : Nat} {a : Word} (hc : c.atInstr = false)
    (h : x.run s = (.error (.trap c e a), t)) : ∃ u, runM (kvRun x) s = .next (takeTrap c e a u) ∧ KvLeft t u := by
  obtain ⟨u, hrun, hu⟩ := exists_leaveStash t
  refine ⟨u, runM_trap (run_bind_error ((run_tryCatch_error h).trans ?_)), hu⟩
  simp only [hc, Bool.not_false, if_true]
  rw [run_bind_ok hrun, run_throw]

/-- What is left behind a KV instruction does not rest on the hart's other fields. -/
theorem kvLeft_withH {w v : State} {g : Hart} (l : KvLeft { w with h := g } v) (hid : g.id = w.h.id) :
    KvLeft w { v with h := w.h } where
  stashes := by
    have h := l.stashes
    have hc : coreStash { w with h := g } = coreStash w := by unfold coreStash; rw [hid]
    rw [hc] at h
    simpa only [hid] using h
  tenants := l.tenants
  rest := by
    rw [l.rest]

/-- The end where the hart keeps no count of the instruction. -/
theorem run_kvDone {s : State} (h : ∀ u ∈ s.h.sy.units, u.pc ≠ s.h.pc) : kvDone.run s = (.ok (), { s with h := s.h.retireV }) := by
  have hfilter : s.h.sy.units.filter (·.pc != s.h.pc) = s.h.sy.units :=
    List.filter_eq_self.mpr fun u hu => by simpa using h u hu
  unfold kvDone
  rw [run_modH, hfilter]

/-- The machine `w` where a KV instruction has done its units, the last of them before VSTART `n`. -/
def State.pastUnits (w : State) (n : BitVec 48) : State :=
  { w with h := { w.h with vc := { w.h.vc with vstart := n }, ms := { w.h.ms with bound := [] } } }

theorem goesOn_congr {s s' t t' : State} {n : Nat} (hs : s'.h.pc = s.h.pc ∧ s'.h.lp = s.h.lp)
    (ht : t'.h.pc = t.h.pc ∧ t'.h.pcHi = t.h.pcHi ∧ t'.h.lp = t.h.lp) (h : GoesOn s t n) : GoesOn s' t' n := by
  obtain ⟨hpc, hlp⟩ := hs
  obtain ⟨tpc, thi, tlp⟩ := ht
  simpa only [GoesOn, InBody, hpc, hlp, tpc, thi, tlp] using h

/-- The end of a vector instruction in the hart's fields. -/
theorem Hart.retireV_eq (h : Hart) : h.retireV = { h with
    pc := h.retireV.pc
    pcHi := h.retireV.pcHi
    lp := h.retireV.lp
    vc := { h.vc with vstart := 0, ecm := 0 }
    sy := { h.sy with fromElem := none } } := by
  unfold Hart.retireV Hart.retireBy
  rw [Hart.advance_eq]

/-- A KV instruction that has changed the machine to `w` ends, and its stash is left as R74 says. -/
theorem runM_kvRun_done {x : M Unit} {s w : State} {n : BitVec 48} (hrun : x.run s = kvDone.run (w.pastUnits n))
    (hunits : ∀ u ∈ w.h.sy.units, u.pc ≠ s.h.pc) (hpc : w.h.pc = s.h.pc) (hlp : w.h.lp = s.h.lp) :
    ∃ t, runM (kvRun x) s = .next t ∧ DoneKv s w t := by
  rw [run_kvDone (s := w.pastUnits n) (hpc ▸ hunits)] at hrun
  obtain ⟨t, ht, hleft⟩ := exists_leaveStash { w with h := (w.pastUnits n).h.retireV }
  have hth : t.h = (w.pastUnits n).h.retireV := by rw [hleft.rest]
  have hgo : GoesOn (w.pastUnits n) ((w.pastUnits n).advance 4) 4 := goesOn_advance _ (by decide)
  have hhart : t.h = { w.h with
      pc := t.h.pc
      pcHi := t.h.pcHi
      lp := t.h.lp
      vc := { w.h.vc with vstart := 0, ecm := 0 }
      ms := { w.h.ms with bound := [] }
      sy := { w.h.sy with fromElem := none } } := by
    rw [hth]
    exact Hart.retireV_eq _
  refine ⟨t, runM_ok ((run_bind_ok (run_tryCatch_ok hrun)).trans ht), ?_, { t with h := w.h }, kvLeft_withH hleft ?_, ?_⟩
  · exact goesOn_congr ⟨hpc.symm, hlp.symm⟩ (by rw [hth]; exact ⟨rfl, rfl, rfl⟩) hgo
  · simp [Hart.retireV, Hart.retireBy, State.pastUnits]
  · exact congrArg (fun g => { t with h := g }) hhart

end Sys2Proof.Machine
end

section
/-! What every KV instruction checks first (R68, R77, R78). -/

namespace Sys2Proof.Machine

open Sys2Proof.Claims

/-- Where the descriptor of a KV instruction comes to be checked: for KVFORK, both descriptors' alignments come before
(notes/assumptions/57.md). -/
def Reaches (s : State) (i : Instr) (a : Reg) : Prop :=
  (s.getX a).toNat % 64 = 0 → ∀ d b, i = .kvfork d a b → (s.getX b).toNat % 64 = 0

/-- `r` begins with the descriptor in register `a`, whose value is that of `s`. -/
def BeginsWithDesc (s : State) (a : Reg) (r : M Unit) : Prop :=
  ∀ t : State, t.h.x = s.h.x →
    ∃ (va : Nat) (w : Bool) (g : Kd → M Unit), va = (s.getX a).toNat ∧ r.run t = (kvDesc va w >>= g).run t

theorem getX_congr {s t : State} (h : t.h.x = s.h.x) (a : Reg) : t.h.getX a = s.getX a := by
  simp only [State.getX, Hart.getX, h]

/-- A form that reads its registers once it has started. -/
theorem beginsWithDesc_getH (s : State) (a : Reg) (w : Bool) (g : Hart → Kd → M Unit) :
    BeginsWithDesc s a (getH >>= fun h => kvDesc (h.getX a).toNat w >>= g h) :=
  fun t ht => ⟨_, w, g t.h, congrArg BitVec.toNat (getX_congr ht a), run_bind_ok (run_getH t)⟩

theorem beginsWithDesc_desc (s : State) (a : Reg) (w : Bool) (g : Kd → M Unit) :
    BeginsWithDesc s a (kvDesc (s.getX a).toNat w >>= g) := fun _ _ => ⟨_, w, g, rfl, rfl⟩

/-- KVXL and KVXLM behind their descriptor: selector `x`, `n` elements from `i` on. -/
def kvxlBody (x n i : Nat) (c : Reg) (u : SelUse) (put : Nat → Option Nat → Hart → Hart) (k : Kd) : M Unit := do
  let _ ← kvSel k u x
  kvElems k x c put n i
  kvDone

/-- Behind their ILLEGAL checks KVXL and KVXLM start as the others do (R79). -/
theorem run_kvxl_checked {s : State} {bad : Bool} {c : Reg} (h : bad = false ∧ s.h.ew = 64 ∧ c.val % s.h.grp = 0) (a b : Reg)
    (u : SelUse) (put : Nat → Option Nat → Hart → Hart) : (kvxl bad a b c u put).run s =
      (kvStart >>= fun _ => kvDesc (s.getX a).toNat false >>=
        kvxlBody (s.getX b).toNat (s.h.vc.vl - s.h.vc.vstart.toNat) s.h.vc.vstart.toNat c u put).run s := by
  obtain ⟨hbad, hew, hc⟩ := h
  have hill : (bad || s.h.ew != 64 || !groupOk c s.h.grp) = false := by simp [groupOk, hbad, hew, hc]
  unfold kvxl
  rw [run_bind_ok (run_getH s), hill]
  rfl

theorem run_kvapp_checked {s : State} {v : Reg} (h : (s.h.ew = 16 ∨ s.h.ew = 32) ∧ v.val % s.h.grp = 0) (a b c : Reg) :
    ∃ g : Kd → M Unit, (kvapp a b c v).run s = (kvStart >>= fun _ => kvDesc (s.getX a).toNat true >>= g).run s := by
  obtain ⟨hew, hv⟩ := h
  have hill : (!(s.h.ew == 16 || s.h.ew == 32) || !groupOk v s.h.grp) = false := by
    rcases hew with hew | hew <;> simp [groupOk, hew, hv]
  unfold kvapp
  rw [run_bind_ok (run_getH s), hill]
  exact ⟨_, rfl⟩

/-- Every KV instruction starts, and then takes its descriptor. -/
theorem kvForm_exec {s : State} {i : Instr} {a : Reg} (f : KvForm s i a) : ∃ m r : M Unit,
    exec i s = runM (kvRun m) s ∧ m.run s = (kvStart >>= fun _ => r).run s ∧ (Reaches s i a → BeginsWithDesc s a r) := by
  cases f with
  | kvxl d _ b c h =>
    obtain ⟨hew, hd, hc⟩ := h
    exact ⟨_, _, rfl, run_kvxl_checked ⟨by simp [groupOk, hd], hew, hc⟩ .., fun _ => beginsWithDesc_desc s a false _⟩
  | kvxlm d _ b c h => exact ⟨_, _, rfl, run_kvxl_checked ⟨rfl, h⟩ .., fun _ => beginsWithDesc_desc s a false _⟩
  | kvapp v _ b c h =>
    obtain ⟨g, hg⟩ := run_kvapp_checked h a b c
    exact ⟨_, _, rfl, hg, fun _ => beginsWithDesc_desc s a true g⟩
  | kvcommit _ b => exact ⟨_, _, rfl, rfl, fun _ => beginsWithDesc_getH s a false _⟩
  | kvtrunc _ b => exact ⟨_, _, rfl, rfl, fun _ => beginsWithDesc_getH s a true _⟩
  | kvevict d _ b c => exact ⟨_, _, rfl, rfl, fun _ => beginsWithDesc_getH s a false _⟩
  | kvalloc d _ b => exact ⟨_, _, rfl, rfl, fun _ => beginsWithDesc_getH s a true _⟩
  | kvfree d _ b c => exact ⟨_, _, rfl, rfl, fun _ => beginsWithDesc_getH s a true _⟩
  | kvfork d _ b =>
    refine ⟨_, _, rfl, rfl, fun reach t ht => ⟨(s.getX a).toNat, true, ?_⟩⟩
    have hb : ¬((s.getX a).toNat % 64 = 0 ∧ (s.getX b).toNat % 64 ≠ 0) := fun h => h.2 (reach h.1 d b rfl)
    rw [run_bind_ok (run_getH t)]
    simp only [getX_congr ht, if_neg hb]
    exact ⟨_, trivial, rfl⟩

/-- A KV instruction whose descriptor traps does so once its older stores are performed, and leaves the stash (R74, R78). -/
theorem kvForm_trap {s : State} {i : Instr} {a : Reg} {c : Cause} {x : Word} (f : KvForm s i a) (fresh : KvFresh s)
    (reach : Reaches s i a) (hc : c.atInstr = false)
    (h : ∀ w, (kvDesc (s.getX a).toNat w).run s.unbound = (.error (.trap c 0 x), s.unbound)) :
    ∃ u, exec i s = .next (takeTrap c 0 x u) ∧ KvLeft s.unbound u := by
  obtain ⟨m, r, hexec, hm, hr⟩ := kvForm_exec f
  obtain ⟨va, w, g, rfl, hrun⟩ := hr reach s.unbound rfl
  rw [hexec]
  refine runM_kvRun_trap hc ?_
  rw [hm, run_bind_ok (run_kvStart fresh), hrun, run_bind_error (h w)]

/-- In a strip a KV instruction does not come to its descriptor. -/
theorem kvForm_inStrip {s : State} {i : Instr} {a : Reg} (f : KvForm s i a) (hs : s.h.ms.strip.isSome) :
    exec i s = .next (takeTrap .stripop 0 (s.h.pc.setWidth 64) s) := by
  obtain ⟨m, r, hexec, hm, -⟩ := kvForm_exec f
  rw [hexec]
  exact runM_kvRun_instr rfl (hm.trans (run_bind_error (run_kvStart_inStrip hs)))

theorem kvChecks : KvChecks := by
  intro s i a f
  have vstart_zero : KvFresh s → s.unbound.h.vc.vstart.toNat = 0 := fun fresh => congrArg BitVec.toNat fresh.start.1
  have haddr : BitVec.ofNat 64 (s.getX a).toNat = s.getX a := BitVec.ofNat_toNat ..
  refine ⟨kvForm_inStrip f, fun fresh hmis => ?_, fun k fresh lies hbad hfork => ?_⟩
  · refine kvForm_trap f fresh (fun h => absurd h hmis) rfl fun w => ?_
    rw [run_kvDesc_misaligned hmis, vstart_zero fresh, haddr]
  · refine kvForm_trap f fresh (fun _ => hfork) rfl fun w => ?_
    have hlies : Lies s.unbound (s.getX a).toNat 64 k true := lies_withH lies (sameView_unbound s)
    rw [run_kvDesc_illegal hlies (fun _ => rfl) hbad, vstart_zero fresh, haddr]

end Sys2Proof.Machine
end

section
/-! KVXL and KVXLM (R69, R70, R79): a descriptor's fields and a selector's, the translation of a position, and the
elements. -/

namespace Sys2Proof.Machine

open Sys2Proof.Claims

/-! ### Descriptors and selectors (R64, R67-R69) -/

/-- The block of an ID stands where the statements say; the other fields and addresses agree by definition. -/
theorem kd_block_eq (k : Kd) (i : Nat) : k.block i = (sequenceOf k.w).block i := by
  have hpool : k.pool = (sequenceOf k.w).pool := by simp [Kd.pool, sequenceOf, bits]
  rw [Kd.block, Sequence.block, hpool]
  rfl

/-- The fields of a selector that names one pair (R69). -/
structure PairFields (x l h : Nat) (draft : Bool) (part : Nat) : Prop where
  layer : bits x 0 12 = l
  head : bits x 16 8 = h
  part : bits x 24 2 = part
  draft : bits x 26 1 = draft.toNat
  rest : bits x 12 4 = 0 ∧ bits x 27 1 = 0 ∧ bits x 28 2 = 0 ∧ x / 2 ^ 30 = 0

theorem pairFields_of_onePair {w x l h part : Nat} {draft : Bool} (o : OnePair (sequenceOf w) x l h draft part) :
    PairFields x l h draft part := by
  obtain ⟨rfl, hl, hh, hp, -⟩ := o
  have hl' : l < 4096 := hl.trans_le (Nat.succ_le_of_lt (Nat.mod_lt _ (by decide)))
  have hh' : h < 256 := hh.trans_le (Nat.succ_le_of_lt (Nat.mod_lt _ (by decide)))
  have hd := draft.toNat_le
  constructor <;> simp only [bits, Nat.reducePow] <;> omega

/-- A selector of one pair is taken by the instructions that use its D and PART. -/
theorem run_kvSel_onePair {k : Kd} {x l h part : Nat} {draft : Bool} (o : OnePair (sequenceOf k.w) x l h draft part)
    {u : SelUse} (hd : u.draft = true) (hp : part = 0 ∨ u.part = true) (s : State) :
    (kvSel k u x).run s = (.ok [(l, h)], s) := by
  obtain ⟨hlayer, hhead, hpart, hdraft, h12, h27, h28, h30⟩ := pairFields_of_onePair o
  obtain ⟨-, hl, hh, -, hdp⟩ := o
  have hl' : ¬k.layers ≤ l := Nat.not_le.mpr hl
  have hh' : ¬k.heads ≤ h := Nat.not_le.mpr hh
  have hlow : draft = true → ¬1 < part := fun ht => by have := hdp ht; omega
  have hsel : k.badSel u x = false := by
    rw [Kd.badSel]
    simp only [hlayer, hhead, hpart, hdraft, h12, h27, h28, h30, hd]
    rcases hp with rfl | hp
    · cases draft <;> simp [hl', hh']
    · cases draft <;> simp_all
  have hscope : k.scope x = [(l, h)] := by simp [Kd.scope, h28, hlayer, hhead]
  unfold kvSel
  rw [hsel, hscope]
  rfl

/-! ### Translation of a position (R70, R79) -/

theorem popcount_eq (n : Nat) : ∀ x, popcount n x = ((List.range n).filter fun i => x.testBit i).length := by
  induction n with
  | zero => intro x; rfl
  | succ n ih =>
    intro x
    have hodd : x % 2 = if x.testBit 0 then 1 else 0 := by
      rcases Nat.mod_two_eq_zero_or_one x with h | h <;> simp [Nat.testBit_zero, h]
    rw [popcount, ih, List.range_succ_eq_map, List.filter_cons, List.filter_map, hodd]
    have hshift : ((fun i => x.testBit i) ∘ Nat.succ) = fun i => (x / 2).testBit i := by
      funext i
      exact Nat.testBit_succ x i
    rw [hshift]
    split <;> simp [Nat.add_comm]

/-- The packed slot of an offset (R70). -/
theorem slot_eq_onesBelow {m o : Nat} (ho : o < 32) : BlockMeta.slot ⟨m⟩ o = onesBelow m o := by
  rw [BlockMeta.slot, popcount_eq, onesBelow]
  congr 1
  apply List.filter_congr
  intro i hi
  have hio : i < o := List.mem_range.mp hi
  rw [Nat.testBit_mod_two_pow, BlockMeta.bitmap, testBit_bits, Nat.zero_add]
  simp [hio, hio.trans ho]

theorem has_eq_testBit (m o : Nat) : BlockMeta.has ⟨m⟩ o = m.testBit o := by
  have h := testBit_bits m o 1 0
  rw [Nat.testBit_zero] at h
  have hlt : bits m o 1 < 2 := Nat.mod_lt _ (by decide)
  rcases (show bits m o 1 = 0 ∨ bits m o 1 = 1 by omega) with hb | hb <;> simp [BlockMeta.has, hb] at h ⊢ <;> exact h

section

variable {s : State} {k : Kd}

/-- A table entry that may be used is read (R67). -/
theorem run_kvEntry {ea ke : Nat} (l : Lies s ea 4 ke false) (u : Nat)
    (h : numAt (homes s) ke 4 = entNone ∨ numAt (homes s) ke 4 = entGone ∨ numAt (homes s) ke 4 < k.poolsz) :
    (kvEntry u k ea).run s = (.ok (numAt (homes s) ke 4), s) := by
  have hval : ofBytes (s.dev.mem.getBytes ke 4) = numAt (homes s) ke 4 := by rw [numAt_homes, Memory.getNat]
  have hid : ¬(numAt (homes s) ke 4 ≠ entNone ∧ numAt (homes s) ke 4 ≠ entGone ∧ k.poolsz ≤ numAt (homes s) ke 4) := by
    rintro ⟨h1, h2, h3⟩
    rcases h with h | h | h
    · exact h1 h
    · exact h2 h
    · omega
  unfold kvEntry
  rw [run_bind_ok (run_kvRead_of_lies l (by decide) (by decide) u), hval]
  simp only [if_neg hid]
  rfl

/-- Metadata that KV instructions alone have written is read as it stands (R65). -/
theorem run_kvMetaOf {va km m : Nat} (h : MetaAt s va km m) (u : Nat) : (kvMetaOf u va).run s = (.ok ⟨m⟩, s) := by
  obtain ⟨l, hm, hin, hout⟩ := h
  have hline : (!s.dev.kvLines.contains (lineOf km) || s.dev.kvForeign.contains (lineOf km)) = false := by
    simp [lineOf, hin, hout]
  unfold kvMetaOf
  rw [run_bind_ok (run_kvPlace_of_lies l (by decide) (by decide) u (fun h => absurd h (by decide))),
    run_bind_ok (run_kvFree_of_lies l (by decide)), run_bind_ok (run_kvSound_of_lies l u)]
  show (readMeta km).run s = _
  unfold readMeta
  rw [run_bind_ok (run_getD s), hline, hm, numAt_homes]
  rfl

theorem isBlock_iff (v : Nat) : isBlock v = true ↔ v ≠ 0xFFFFFFFF ∧ v ≠ 0xFFFFFFFE := by simp [isBlock, entNone, entGone]

section

variable {l h p ke : Nat} (hlen : p < (sequenceOf k.w).len) (hne : p / 32 < (sequenceOf k.w).ne)
  (lies : Lies s ((sequenceOf k.w).entry l h (p / 32)) 4 ke false) (u : Nat)
include hlen hne lies

/-- A position without a block has no slot (R70). -/
theorem run_kvFind_noBlock (hv : numAt (homes s) ke 4 = 0xFFFFFFFF ∨ numAt (homes s) ke 4 = 0xFFFFFFFE) :
    (kvFind u k (l, h) p).run s = (.ok none, s) := by
  have hp : ¬(k.len ≤ p ∨ k.ne ≤ p / 32) := fun hp => hp.elim (Nat.not_le.mpr hlen) (Nat.not_le.mpr hne)
  have hblock : isBlock (numAt (homes s) ke 4) = false := by rcases hv with hv | hv <;> rw [hv] <;> rfl
  have hentry := run_kvEntry (k := k) lies u (hv.elim .inl fun hv => .inr (.inl hv))
  unfold kvFind
  rw [if_neg hp]
  refine (run_bind_ok hentry).trans ?_
  rw [hblock]
  rfl

/-- A position in a block has the slot that the survivor bitmap gives (R70). -/
theorem run_kvFind_block {km m : Nat} (hlt : numAt (homes s) ke 4 < 0xFFFFFFFE)
    (hpool : numAt (homes s) ke 4 < (sequenceOf k.w).poolsz) (hm : MetaAt s ((sequenceOf k.w).block (numAt (homes s) ke 4)) km m)
    (hb : s.h.ms.bound = []) : (kvFind u k (l, h) p).run s = (.ok (if m.testBit (p % 32)
      then some ((sequenceOf k.w).block (numAt (homes s) ke 4), onesBelow m (p % 32)) else none), s) := by
  have hp : ¬(k.len ≤ p ∨ k.ne ≤ p / 32) := fun hp => hp.elim (Nat.not_le.mpr hlen) (Nat.not_le.mpr hne)
  have hblock : isBlock (numAt (homes s) ke 4) = true := (isBlock_iff _).mpr ⟨by omega, by omega⟩
  have hunbound : s.unbound = s := by rw [State.unbound, ← hb]
  have hentry := run_kvEntry (k := k) lies u (.inr (.inr hpool))
  unfold kvFind
  rw [if_neg hp]
  refine (run_bind_ok hentry).trans ?_
  rw [hblock, if_neg (by decide), kd_block_eq, run_bind_ok (run_kvMetaOf hm u), run_bind_ok (run_acquire s), hunbound, has_eq_testBit,
    slot_eq_onesBelow (Nat.mod_lt _ (by decide))]
  rfl

end

/-- A position translates as R70 and R79 say, and nothing changes. -/
theorem run_kvTranslate {x l h part p : Nat} {draft : Bool} {r : Option Nat} (f : PairFields x l h draft part)
    (t : Translated s (sequenceOf k.w) l h part p draft r) (hb : s.h.ms.bound = []) (u : Nat) :
    (kvTranslate u k x p).run s = (.ok r, s) := by
  obtain ⟨hlayer, hhead, hp, hd, -⟩ := f
  unfold kvTranslate
  simp only [hlayer, hhead, hp, hd]
  cases t with
  | draft hp64 =>
    rw [if_pos (by rfl), if_neg (by omega)]
    rfl
  | beyond hout =>
    have hfind : (kvFind u k (l, h) p).run s = (.ok none, s) := by
      unfold kvFind
      rw [if_pos (by exact hout)]
      rfl
    rw [if_neg (by decide), run_bind_ok hfind]
    rfl
  | noBlock ke hlen hne lies hv =>
    rw [if_neg (by decide), run_bind_ok (run_kvFind_noBlock hlen hne lies u hv)]
    rfl
  | evicted ke i km m hlen hne lies hi hlt hpool hm habs =>
    subst hi
    rw [if_neg (by decide), run_bind_ok (run_kvFind_block hlen hne lies u hlt hpool hm hb), habs]
    rfl
  | present ke i km m hlen hne lies hi hlt hpool hm hpres =>
    subst hi
    rw [if_neg (by decide), run_bind_ok (run_kvFind_block hlen hne lies u hlt hpool hm hb), hpres]
    rfl

/-- A translation stays where the hart's view stays. -/
theorem translated_withH {g : Hart} {q : Sequence} {l h part p : Nat} {draft : Bool} {r : Option Nat}
    (t : Translated s q l h part p draft r) (v : SameView s.h g) : Translated { s with h := g } q l h part p draft r := by
  cases t with
  | draft hp64 => exact .draft hp64
  | beyond hout => exact .beyond hout
  | noBlock ke hlen hne lies hv => exact .noBlock ke hlen hne (lies_withH lies v) hv
  | evicted ke i km m hlen hne lies hi hlt hpool hm habs =>
    obtain ⟨lm, hm'⟩ := hm
    exact .evicted ke i km m hlen hne (lies_withH lies v) hi hlt hpool ⟨lies_withH lm v, hm'⟩ habs
  | present ke i km m hlen hne lies hi hlt hpool hm hpres =>
    obtain ⟨lm, hm'⟩ := hm
    exact .present ke i km m hlen hne (lies_withH lies v) hi hlt hpool ⟨lies_withH lm v, hm'⟩ hpres

theorem translated_of_sameView {u : State} {q : Sequence} {l h part p : Nat} {draft : Bool} {r : Option Nat}
    (t : Translated s q l h part p draft r) (hu : u = { s with h := u.h }) (v : SameView s.h u.h) :
    Translated u q l h part p draft r := by
  rw [hu]
  exact translated_withH t v

end

/-! ### The elements (R77, R79) -/

/-- By default no event is taken between two units (R77). -/
theorem run_unitPoint {s : State} (h : s.oracle = []) : unitPoint.run s = (.ok (), s) := by
  unfold unitPoint
  rw [run_bind_ok (run_getH s), run_ite]
  split
  · rw [run_bind_ok (run_choose_default h), if_neg (by decide)]
    rfl
  · rfl

/-- The machine with other vector registers. -/
def State.withV (s : State) (v : Vector VReg 32) : State := { s with h := { s.h with v := v } }

theorem pastUnits_zero {s : State} (h : s.h.vc.vstart = 0) : (s.withV s.h.v).pastUnits 0 = s.unbound :=
  congrArg (fun n => (s.withV s.h.v).pastUnits n) h.symm

section

variable {s : State} {k : Kd} {x l h part w : Nat} {draft : Bool} {c d : Reg} {g : Nat → Hart} {r : Nat → Option Nat}
  {val : Option Nat → Nat} (start : g 0 = s.h) (next : ∀ i < s.h.vc.vl, g (i + 1) = (g i).setElem d.val i w (val (r i)))
include start next

/-- Writing the elements changes the vector registers only. -/
theorem elems_eq : ∀ {i : Nat}, i ≤ s.h.vc.vl → g i = { s.h with v := (g i).v }
  | 0, _ => by rw [start]
  | i + 1, hi => by
    have ih := elems_eq (Nat.le_of_succ_le hi)
    rw [next i hi, Hart.setElem_eq]
    rw [ih]

/-- The elements from `i` on are translated one by one. -/
theorem run_kvElems (f : PairFields x l h draft part) (ho : s.oracle = [])
    (t : ∀ i < s.h.vc.vl, Translated s (sequenceOf k.w) l h part ((g i).elem c.val i 64) draft (r i)) :
    ∀ (n i : Nat), i + n = s.h.vc.vl → (kvElems k x c (fun i r h => h.setElem d.val i w (val r)) n i).run
      ((s.withV (g i).v).pastUnits (BitVec.ofNat 48 i)) =
      (.ok (), (s.withV (g s.h.vc.vl).v).pastUnits (BitVec.ofNat 48 s.h.vc.vl)) := by
  intro n
  induction n with
  | zero =>
    rintro i rfl
    rfl
  | succ n ih =>
    intro i hi
    have hlt : i < s.h.vc.vl := by omega
    have hgi := elems_eq start next hlt.le
    have helem : ((s.withV (g i).v).pastUnits (BitVec.ofNat 48 i)).h.elem c.val i 64 = (g i).elem c.val i 64 := by
      rw [hgi]
      rfl
    have htr : Translated ((s.withV (g i).v).pastUnits (BitVec.ofNat 48 i)) (sequenceOf k.w) l h part ((g i).elem c.val i 64)
        draft (r i) :=
      translated_of_sameView (t i hlt) rfl ⟨rfl, rfl, rfl, rfl, rfl⟩
    have hput : (modH fun h => { h.setElem d.val i w (val (r i)) with
          vc := { (h.setElem d.val i w (val (r i))).vc with vstart := BitVec.ofNat 48 (i + 1) } }).run
        ((s.withV (g i).v).pastUnits (BitVec.ofNat 48 i)) =
        (.ok (), (s.withV (g (i + 1)).v).pastUnits (BitVec.ofNat 48 (i + 1))) := by
      rw [run_modH, next i hlt, hgi]
      rfl
    rw [kvElems, run_bind_ok (run_getH _), helem, run_bind_ok (run_kvTranslate f htr rfl i), run_bind_ok hput]
    by_cases hn : n ≠ 0
    · have hpoint : unitPoint.run ((s.withV (g (i + 1)).v).pastUnits (BitVec.ofNat 48 (i + 1))) =
          (.ok (), (s.withV (g (i + 1)).v).pastUnits (BitVec.ofNat 48 (i + 1))) := run_unitPoint ho
      rw [if_pos hn, run_bind_ok hpoint]
      exact ih (i + 1) (by omega)
    · rw [if_neg hn]
      exact ih (i + 1) (by omega)

end

section

variable {s : State} {kk l h part w : Nat} {draft : Bool} {a b c d : Reg} {g : Nat → Hart} {r : Nat → Option Nat}
  {val : Option Nat → Nat}

/-- KVXL and KVXLM behind their ILLEGAL checks (R79): `u` says which selector fields they use, `w` how wide the results are. -/
theorem exec_kvxl_form {u : SelUse} {bad : Bool} (fresh : KvFresh s)
    (ok : bad = false ∧ s.h.ew = 64 ∧ c.val % s.h.grp = 0) (lies : Lies s (s.getX a).toNat 64 kk false)
    (legal : LegalSeq (numAt (homes s) kk 64))
    (pair : OnePair (sequenceOf (numAt (homes s) kk 64)) (s.getX b).toNat l h draft part)
    (hd : u.draft = true) (hp : part = 0 ∨ u.part = true)
    (start : g 0 = s.h) (next : ∀ i < s.h.vc.vl, g (i + 1) = (g i).setElem d.val i w (val (r i)))
    (t : ∀ i < s.h.vc.vl, Translated s (sequenceOf (numAt (homes s) kk 64)) l h part ((g i).elem c.val i 64) draft (r i)) :
    ∃ v, runM (kvRun (kvxl bad a b c u fun i r h => h.setElem d.val i w (val r))) s = .next v ∧
      DoneKv s (s.withV (g s.h.vc.vl).v) v := by
  have hlies : Lies s.unbound (s.getX a).toNat 64 kk false := lies_withH lies (sameView_unbound s)
  have hdesc : (kvDesc (s.getX a).toNat false).run s.unbound = (.ok (readKd s (s.getX a).toNat kk), s.unbound) :=
    run_kvDesc_legal hlies (fun h => absurd h (by decide)) legal
  have hzero : s.h.vc.vstart.toNat = 0 := congrArg BitVec.toNat fresh.start.1
  have hfirst : (s.withV (g 0).v).pastUnits (BitVec.ofNat 48 0) = s.unbound := by
    rw [start]
    exact pastUnits_zero fresh.start.1
  have hsel := run_kvSel_onePair (k := readKd s (s.getX a).toNat kk) pair hd hp s.unbound
  have helems := run_kvElems (k := readKd s (s.getX a).toNat kk) start next (pairFields_of_onePair pair) fresh.choices t
    s.h.vc.vl 0 (Nat.zero_add _)
  refine runM_kvRun_done (n := BitVec.ofNat 48 s.h.vc.vl) ?_ fresh.start.2 rfl rfl
  rw [run_kvxl_checked ok, run_bind_ok (run_kvStart fresh), run_bind_ok hdesc, kvxlBody, run_bind_ok hsel, hzero, Nat.sub_zero,
    ← hfirst]
  exact run_bind_ok helems

end

theorem exec_kvxl (d a b c : Reg) (s : State) : exec (.kvxl d a b c) s =
    runM (kvRun (kvxl (!groupOk d s.h.grp) a b c { draft := true, part := true }
      fun i r h => h.setElem d.val i 64 (r.getD 0))) s := rfl

theorem exec_kvxlm (d a b c : Reg) (s : State) : exec (.kvxlm d a b c) s =
    runM (kvRun (kvxl false a b c { draft := true } fun i r h => h.setElem d.val i 1 r.isSome.toNat)) s := rfl

theorem kvTranslates : KvTranslates := by
  intro s d a b c w kk l h part draft g r fresh hew hc seq pair start t
  obtain ⟨lies, hw, legal⟩ := seq
  rw [hw] at legal pair t
  refine ⟨fun hd next => ?_, fun hp next => ?_⟩
  · rw [exec_kvxl]
    exact exec_kvxl_form (val := fun r => r.getD 0) fresh ⟨by simp [groupOk, hd], hew, hc⟩ lies legal pair rfl (.inr rfl) start
      next t
  · rw [exec_kvxlm]
    exact exec_kvxl_form (val := fun r => r.isSome.toNat) fresh ⟨rfl, hew, hc⟩ lies legal pair rfl (.inl hp) start next t

/-- Settles O49: the translation of an element leaves the machine as it was, so the elements follow one another as the
statement's copies do (`exec_kvxl_form`), and every form begins with the same checks (`kvChecks`). -/
theorem kvQueries : Obligations.KvQueries :=
  ⟨kvTranslates, kvChecks⟩

end Sys2Proof.Machine
end

section
/-! A block that straddles a page (R56, R68). R68 has POOL a multiple of 128, so that the metadata of a block lies in one
line. No KV instruction checks that, and the statements about blocks do not ask for it. Here POOL lies two bytes below
a page whose memory is elsewhere: the statements take the metadata byte by byte, each where its address leads, but the
model takes 16 bytes in a row from where the first one leads. -/

namespace Sys2Proof.Machine

open Sys2Proof.Claims

/-! ### The state -/

/-- POOL = 0x3FFFFFFE, a table of one entry at 0x600, LEN = 18, one block. -/
def straddledWord : Nat := 0x3FFFFFFE + 0x600 * 2 ^ 64 + 18 * 2 ^ 192 + 2 ^ 288 + 2 ^ 320

/-- The descriptor; two page-table entries of each of two pages of 1 GiB, of which the second leads to 2 GiB; and, at 2 GiB,
bytes 2 to 5 of the metadata of block 0: position 16 survives, FILL is 18, REF is 1. -/
def straddledMemory : Memory :=
  [(0x400, toBytes 64 straddledWord), (0x8000, [1, 0, 1]), (0x10000, [0xDE, 2]), (0x10018, [0xDE, 2]),
    (0x10020, [0xDE, 2, 0, 0x80]), (0x80000000, [1, 0, 18, 1])].foldl (fun m p => m.setBytes p.1 p.2) []

/-- A running hart with the descriptor's address in x9, position 18 in x7 and position 16 in x8. -/
def straddled : State :=
  { State.reset with
    h := {
      status := .running
      pc := 0x200000
      hr := { ptroot := 0x8000, hvec := 0x300000 }
      x := ((State.reset.h.x.set 9 0x400).set 7 18).set 8 16
      vc := { ew := 1, grp := 0, vl := 128, vlmaxr := 256 } }
    dev := { State.reset.dev with
      mem := straddledMemory
      kvLines := [0x3FFFFFFE / 128]
      extents := [{ src := 0, idx := 0, base := 0, last := 0xFFFF, w := true, y := true, v := true }] } }

/-! ### Where its addresses lead -/

/-- A page of 64 KiB that the descriptor, the table or the block touches. -/
abbrev InStraddled (va : Nat) : Prop := va / 65536 ∈ [0, 0x3FFF, 0x4000]

/-- The leaf, the home and the place of such an address. -/
def straddledLeaf (va : Nat) : Leaf := if va < 0x40000000 then ⟨0x2DE, 0x10000⟩ else ⟨0x800002DE, 0x10020⟩

def straddledHome (va : Nat) : Nat := if va < 0x40000000 then va else va + 0x40000000

def straddledLoc (va : Nat) : Loc := ((straddledLeaf va).loc straddled straddled.h.ctx va).2

/-- A walk looks at the 64 KiB page of an address only. -/
theorem walk_of_pageStart (s : State) (tenant : Nat) (root : BitVec 52) (va : Nat) :
    s.walk tenant root va = s.walk tenant root (va / 65536 * 65536) := by
  have index (n : Nat) : bits va (16 + 12 * n) 12 = bits (va / 65536 * 65536) (16 + 12 * n) 12 := by
    rw [bits, bits, show 2 ^ (16 + 12 * n) = 65536 * 2 ^ (12 * n) from Nat.pow_add .., ← Nat.div_div_eq_div_mul,
      ← Nat.div_div_eq_div_mul, Nat.mul_div_cancel _ (by decide)]
  have levels (n : Nat) : ∀ base, s.walkFrom tenant va base n = s.walkFrom tenant (va / 65536 * 65536) base n := by
    induction n with
    | zero => exact fun _ => rfl
    | succ n ih => intro base; simp only [State.walkFrom, ih, index]
  simp only [State.walk, levels]

theorem lt_of_inStraddled {va : Nat} (h : InStraddled va) : va < 0x40010000 := by
  simp only [InStraddled, List.mem_cons, List.not_mem_nil, or_false] at h
  omega

theorem walk_straddled {va : Nat} (h : InStraddled va) :
    straddled.walk straddled.h.id.tenant straddled.h.hr.ptroot va = .ok (straddledLeaf va) := by
  have pages : ∀ i ∈ [0, 0x3FFF, 0x4000], straddled.walk straddled.h.id.tenant straddled.h.hr.ptroot (i * 65536) =
      .ok (straddledLeaf (i * 65536)) := by decide +kernel
  have leaf : straddledLeaf (va / 65536 * 65536) = straddledLeaf va := by
    have hlt : va / 65536 * 65536 < 0x40000000 ↔ va < 0x40000000 := by omega
    simp only [straddledLeaf, hlt]
  rw [walk_of_pageStart, pages _ h, leaf]

theorem straddledLeaf_pa {va : Nat} (h : va < 0x80000000) :
    ((straddledLeaf va).loc straddled straddled.h.ctx va).1 = straddledHome va := by
  unfold straddledLeaf straddledHome Leaf.loc
  split
  · rw [show Leaf.size ⟨0x2DE, 0x10000⟩ = 0x40000000 by decide, show bits (Leaf.pte ⟨0x2DE, 0x10000⟩) 16 36 = 0 by decide]
    dsimp only
    omega
  · rw [show Leaf.size ⟨0x800002DE, 0x10020⟩ = 0x40000000 by decide,
      show bits (Leaf.pte ⟨0x800002DE, 0x10020⟩) 16 36 = 0x8000 by decide]
    dsimp only
    omega

theorem straddledHome_lt {va : Nat} (h : va < 0x80000000) : straddledHome va < 0xC0000000 := by
  unfold straddledHome
  split <;> omega

theorem region_straddledHome {va : Nat} (h : va < 0x80000000) : regionOf (straddledHome va) = .hbm :=
  if_pos ((straddledHome_lt h).trans (by decide))

theorem straddledLoc_key {va : Nat} (h : va < 0x80000000) : (straddledLoc va).key = straddledHome va := by
  show straddled.dev.homeOf ((straddledLeaf va).loc straddled straddled.h.ctx va).1 = _
  rw [straddledLeaf_pa h, Device.homeOf, region_straddledHome h]

theorem mapped_straddled {va : Nat} (h : InStraddled va) (k : Kind) : Mapped straddled va k (straddledLeaf va) (straddledLoc va) := by
  have hlt : va < 0x80000000 := (lt_of_inStraddled h).trans (by decide)
  have leaves : straddledLeaf va ∈ [⟨0x2DE, 0x10000⟩, ⟨0x800002DE, 0x10020⟩] := by
    unfold straddledLeaf
    split <;> simp
  generalize hl : straddledLeaf va = l at leaves
  have flags : ∀ l ∈ [Leaf.mk 0x2DE 0x10000, ⟨0x800002DE, 0x10020⟩], (∀ k ∈ [Kind.fetch, .load, .store, .amo], allowed l.pte k = true) ∧
      l.tiered = false ∧ bits (straddled.dev.mem.getNat l.ptea 8) 6 1 = 1 ∧ bits l.pte 7 1 = 1 ∧ bits l.pte 10 3 = 0 := by
    decide +kernel
  obtain ⟨permits, resident, accessed, dirty, attr⟩ := flags l leaves
  have hattr : (straddledLoc va).attr = if forcedNonidem (straddledLoc va).key then 2 else bits (straddledLeaf va).pte 10 3 := rfl
  refine ⟨⟨by omega, ?_⟩, hl ▸ walk_straddled h, permits k (by cases k <;> simp), resident, accessed, fun _ => dirty, hl ▸ rfl, ?_, ?_, rfl⟩
  · have below : ¬0x7F0000000000 ≤ va := by omega
    simp [inWindow, below]
  · have last : straddledHome va / 0x10000 ≤ 0xFFFF := by
      have := straddledHome_lt hlt
      omega
    rw [← hl, straddledLeaf_pa hlt, Device.grants, region_straddledHome hlt]
    cases k <;> simp [straddled, last, State.reset]
  · rw [hattr, straddledLoc_key hlt, forcedNonidem, region_straddledHome hlt, hl, attr]
    decide

theorem atHome_straddled {va n : Nat} (h : InStraddled va) (line : straddledHome va % 128 + n ≤ 128) :
    AtHome straddled (straddledLoc va) n := by
  have hkey : (straddledLoc va).key = straddledHome va := straddledLoc_key ((lt_of_inStraddled h).trans (by decide))
  refine ⟨.inl ?_, ?_, rfl, rfl⟩
  · rw [hkey]
    exact region_straddledHome ((lt_of_inStraddled h).trans (by decide))
  · rw [hkey]
    exact line

theorem lies_straddled {va n : Nat} (h : InStraddled va) (aligned : va % n = 0) (line : straddledHome va % 128 + n ≤ 128) (w : Bool) :
    Lies straddled va n (straddledHome va) w :=
  ⟨aligned, straddledLeaf va, straddledLoc va, mapped_straddled h .load,
    straddledLoc_key ((lt_of_inStraddled h).trans (by decide)), atHome_straddled h line,
    fun _ => ⟨straddledLeaf va, mapped_straddled h .store⟩⟩

theorem spread_straddled {va n : Nat} (h : ∀ j < n, InStraddled (va + j)) :
    Spread straddled va n fun j => straddledHome (va + j) := by
  refine ⟨fun j hj => ⟨_, _, _, mapped_straddled (h j hj) .load, mapped_straddled (h j hj) .store,
    straddledLoc_key ((lt_of_inStraddled (h j hj)).trans (by decide)), atHome_straddled (h j hj) (by omega)⟩, fun i _ j _ e => ?_⟩
  simp only [straddledHome] at e
  split at e <;> split at e <;> omega

/-! ### What the statements ask of it -/

/-- Where byte `j` of block 0 stands. -/
def straddledByte (j : Nat) : Nat := straddledHome (0x3FFFFFFE + j)

theorem kvFresh_straddled : KvFresh straddled where
  strip := rfl
  start := ⟨rfl, nofun⟩
  queues := ⟨rfl, rfl⟩
  choices := rfl
  canonical := by decide +kernel
  monitors := by
    refine ⟨fun x hx => ?_, rfl⟩
    rw [List.mem_singleton.mp hx]
    exact ⟨rfl, nofun⟩
  sound := rfl

theorem seqAt_straddled (w : Bool) : SeqAt straddled (straddled.getX 9).toNat straddledWord 0x400 w := by
  refine ⟨lies_straddled (va := 0x400) (by decide) (by decide) (by decide) w, by decide +kernel, fun i hi => ?_, by decide +kernel⟩
  obtain low | high := Nat.lt_or_ge i 384
  · have reserved : ∀ i < 384, i = 231 ∨ i = 238 ∨ i = 239 ∨ (265 ≤ i ∧ i < 288) ∨ (304 ≤ i ∧ i < 320) →
        straddledWord.testBit i = false := by decide +kernel
    exact reserved i low (by omega)
  · exact Nat.testBit_lt_two_pow (Nat.lt_of_lt_of_le (m := 2 ^ 384) (by decide +kernel) (Nat.pow_le_pow_right (by decide) high))

theorem onePair_straddled : OnePair (sequenceOf straddledWord) (straddled.getX 0).toNat 0 0 false 0 := by
  unfold OnePair
  decide +kernel

theorem entryLies_straddled (w : Bool) : Lies straddled ((sequenceOf straddledWord).entry 0 0 0) 4 0x600 w := by
  rw [show (sequenceOf straddledWord).entry 0 0 0 = 0x600 by decide +kernel]
  exact lies_straddled (va := 0x600) (by decide) (by decide) (by decide) w

theorem blockSpread_straddled :
    Spread straddled ((sequenceOf straddledWord).block 0) (sequenceOf straddledWord).stride straddledByte := by
  rw [show (sequenceOf straddledWord).block 0 = 0x3FFFFFFE by decide +kernel,
    show (sequenceOf straddledWord).stride = 4608 by decide +kernel]
  refine spread_straddled fun j hj => ?_
  simp only [InStraddled, List.mem_cons, List.not_mem_nil, or_false]
  omega

theorem straddledByte_outside (j : Nat) : ¬(0x400 ≤ straddledByte j ∧ straddledByte j < 0x400 + 64) := by
  unfold straddledByte straddledHome
  split <;> omega

theorem knownMeta_straddled : KnownMeta straddled (straddledByte 0) :=
  ⟨by decide +kernel, by decide +kernel⟩

theorem takeable_straddled (key : Nat → FVal) :
    Takeable straddled (sequenceOf straddledWord) ((sequenceOf straddledWord).block 0) 1 18 key straddledByte where
  bytes := blockSpread_straddled
  known := knownMeta_straddled
  single := by decide +kernel
  fill := by decide +kernel
  used := by decide +kernel
  checked := by decide +kernel
  codes := by
    have zero : ∀ ch < (sequenceOf straddledWord).d, ∀ t < 1, ((kvFmt (sequenceOf straddledWord).kfmt).decode
        (homes straddled (straddledByte ((sequenceOf straddledWord).keyAt + t * (sequenceOf straddledWord).d + ch))).toNat
        ((homes straddled (straddledByte (128 + ch))).toNat - 127)).isSome = true := by decide +kernel
    exact fun ch hch _ t ht => zero ch hch t ht

/-! ### What the model does with it -/

/-- What holds of the next state, if there is one. -/
def nextHolds (p : State → Bool) : Host.Outcome State Fault Refusal → Bool
  | .next t => p t
  | _ => true

theorem of_nextHolds {p : State → Bool} {o : Host.Outcome State Fault Refusal} {t : State} (h : nextHolds p o = true)
    (next : o = .next t) : p t = true := by
  rw [next] at h
  exact h

/-- The model takes the metadata to be 0: position 16 is absent, and KVEVICT answers 0. -/
theorem kvevict_straddled {t : State} (next : exec (.kvevict 10 9 0 8) straddled = .next t) : t.h.getX 10 = 0 := by
  have h : nextHolds (fun t => t.h.getX 10 == 0) (exec (.kvevict 10 9 0 8) straddled) = true := by decide +kernel
  exact beq_iff_eq.mp (of_nextHolds h next)

/-- A block whose REF is 0 takes no token: KVAPP traps, to the handler. -/
theorem kvapp_straddled {t : State} (next : exec (.kvapp 4 9 0 7) straddled = .next t) : (t.h.pcHi ++ t.h.pc).toNat = 0x300000 := by
  have h : nextHolds (fun t => (t.h.pcHi ++ t.h.pc).toNat == 0x300000) (exec (.kvapp 4 9 0 7) straddled) = true := by decide +kernel
  exact beq_iff_eq.mp (of_nextHolds h next)

/-- Refutes O50: its first clause has KVAPP append to the block that straddles a page, where it traps (`kvapp_straddled`).
The statement lacks R68's rule that POOL is a multiple of 128. -/
theorem not_kvAppends : ¬ Obligations.KvAppends := by
  rintro ⟨append, -, -⟩
  obtain ⟨B', rescale, u, t, -, -, next, ⟨-, goes⟩, -⟩ := append straddled 4 9 0 7 straddledWord 0x400 0 0 0x600 0 1 straddledByte
    (sequenceOf straddledWord) _ _ 18 kvFresh_straddled (.inl (by decide +kernel)) (by decide +kernel) (seqAt_straddled true) rfl
    onePair_straddled (by decide +kernel) (by decide +kernel) (by decide +kernel) (by decide +kernel) (by decide +kernel)
    (by decide +kernel) (entryLies_straddled false) (by decide +kernel) (by decide) (by decide +kernel) (fun _ => rfl) (fun _ => rfl)
    (takeable_straddled _) (fun j _ => straddledByte_outside j)
  have outside : ¬(InBody straddled straddled.h.pc.toNat ∧ straddled.h.pc.toNat + 4 = straddled.h.lp.fin.toNat) :=
    fun ⟨⟨active, _⟩, _⟩ => absurd active (by decide +kernel)
  have hpc := (goes outside).1
  rw [kvapp_straddled next] at hpc
  exact absurd hpc (by decide +kernel)

/-- Refutes O51: the third clause of `KvRemoves` has KVEVICT answer 1 for a position of the block that straddles a page,
where it answers 0 (`kvevict_straddled`). The statement lacks R68's rule that POOL is a multiple of 128. -/
theorem not_kvEdits : ¬ Obligations.KvEdits := by
  rintro ⟨⟨-, -, evict⟩, -⟩
  obtain ⟨B', u, t, -, only, -, -, next, -, v, -, ht⟩ := evict straddled 10 9 0 8 straddledWord 0x400 0 0 0x600 0 16 straddledByte
    (sequenceOf straddledWord) _ kvFresh_straddled (seqAt_straddled false) rfl onePair_straddled (by decide +kernel)
    (by decide +kernel) (by decide +kernel) (entryLies_straddled true) (by decide +kernel) (by decide) (by decide +kernel)
    blockSpread_straddled knownMeta_straddled rfl (by decide +kernel) (.inr (by decide +kernel)) (by decide +kernel)
    (by decide +kernel)
  have one : t.h.getX 10 = 1 := by
    rw [ht]
    exact (Hart.getX_setX ..).trans (if_pos (by decide))
  rw [kvevict_straddled next] at one
  exact absurd one (by decide)

end Sys2Proof.Machine
end

section
/-! Where tenants are told apart by their entries (R92, R402). The machine finds a tenant by the first entry that has its
number, and a change of a tenant goes to every entry with that number. In a state that registers one number twice, a change
of that tenant therefore takes away the CR slot groups of the second entry, and with them what a slot that no CR entry
lists reads as its tenant. -/

namespace Sys2Proof.Machine

open Sys2Proof.Claims

/-- Tenant 1 is registered twice, for the slots 0-15 and for the slots 80-95. The continuation of slot 0 has been launched,
and a page of it, whose leaf stands at 0x20000, is on its way to HBM. -/
def registeredTwice : State :=
  { dev := {
      mem := [(0x20000, 3)]
      tenants := [{ num := 1, crGroups := [0] }, { num := 1, crGroups := [5] }]
      crs := [{ slot := 0, tenant := 1, st := .launched }]
      moves := [{ ptea := 0x20000, tenant := 1, tier := 0, dest := 0, slot := some 0 }] } }

/-- The clause of a page that fails after launch meets this state. -/
theorem peatEvent_registeredTwice : ∃ P : State → Prop, PeatEvent registeredTwice (.promotionFail 0x20000) P ∧
    ∀ u, P u → u.dev.cr 80 = registeredTwice.dev.cr 80 := by
  refine ⟨_, .laterFails { ptea := 0x20000, tenant := 1, tier := 0, dest := 0, slot := some 0 } 0 (.head _) ?_ rfl
    (by decide) rfl rfl rfl rfl ?_, fun u hu => hu.1.2 80 (by decide)⟩
  · intro y hy _
    exact List.mem_singleton.mp hy
  · refine ⟨⟨?_, rfl⟩, rfl, rfl⟩
    intro h hh
    rw [List.mem_singleton.mp hh]
    exact ⟨rfl, nofun⟩

/-- Slot 80 belongs to tenant 1, and to none once the frame of the failed page has gone back to tenant 1. -/
theorem cr_registeredTwice : (registeredTwice.dev.cr 80).tenant = 1 ∧
    ∀ t, exec (.promotionFail 0x20000) registeredTwice = .next t → (t.dev.cr 80).tenant = 0 := by
  refine ⟨rfl, fun t next => ?_⟩
  cases next
  rfl

/-- Refutes O53: where a tenant is registered twice (`registeredTwice`), the failure of a launched continuation's page
changes what another slot's entry reads, which the clause of R92 for such a page excludes. -/
theorem not_peatEvents : ¬ Obligations.PeatEvents := by
  intro holds
  obtain ⟨P, event, same⟩ := peatEvent_registeredTwice
  obtain ⟨t, next, ht⟩ := holds _ _ P event
  obtain ⟨before, after⟩ := cr_registeredTwice
  have := after t next
  rw [same t ht, before] at this
  exact absurd this (by decide)

end Sys2Proof.Machine
end

section
/-! Lists of numbered entries: what is found at a number once an entry has been put there, and the tenants, queues, CRs and
write-watch entries of the device that the model keeps so. -/

namespace Sys2Proof.Machine

open Sys2Proof.Claims

/-! ### Putting an entry at its number -/

/-- A list with `x` in place of every entry that `p` picks, or behind the others where it picks none. -/
def putBy {α : Type} (p : α → Bool) (x : α) (l : List α) : List α :=
  if l.any p then l.map fun y => if p y then x else y else l ++ [x]

theorem find?_map_put_same {α : Type} {p : α → Bool} {x : α} (hx : p x = true) {l : List α} (h : l.any p = true) :
    (l.map fun y => if p y then x else y).find? p = some x := by
  induction l with
  | nil => simp at h
  | cons a l ih =>
    by_cases ha : p a = true
    · simp [ha, hx]
    · simp only [List.any_cons, ha, Bool.false_or, List.map_cons, Bool.false_eq_true, if_false] at h ⊢
      rw [List.find?_cons_of_neg ha, ih h]

theorem find?_putBy_same {α : Type} {p : α → Bool} {x : α} (hx : p x = true) (l : List α) :
    (putBy p x l).find? p = some x := by
  unfold putBy
  split
  · next h => exact find?_map_put_same hx h
  · next h =>
    have none' : l.find? p = none := List.find?_eq_none.mpr fun y hy hp => h (List.any_eq_true.mpr ⟨y, hy, hp⟩)
    rw [List.find?_append, none', List.find?_cons_of_pos hx]
    rfl

/-- Another number is found as before. -/
theorem find?_putBy_other {α : Type} {p q : α → Bool} {x : α} (hx : q x = false) (apart : ∀ y, p y = true → q y = false)
    (l : List α) : (putBy p x l).find? q = l.find? q := by
  unfold putBy
  split
  · refine find?_map_of_keeps (fun y => ?_) (fun y hy => ?_)
    · by_cases hp : p y = true
      · rw [if_pos hp, hx, apart y hp]
      · rw [if_neg hp]
    · by_cases hp : p y = true
      · exact absurd (List.find?_some hy) (by simp [apart y hp])
      · rw [if_neg hp]
  · rw [List.find?_append, List.find?_cons_of_neg (by simp [hx]), List.find?_nil, Option.or_none]

/-- What is found at a number `n` once `x` has been put at its own. -/
theorem find?_putBy_key {α : Type} (key : α → Nat) (x : α) (l : List α) (n : Nat) :
    (putBy (fun y => key y == key x) x l).find? (fun y => key y == n) =
      if n = key x then some x else l.find? fun y => key y == n := by
  split
  · next h => rw [h, find?_putBy_same (p := fun y => key y == key x) (beq_self_eq_true _)]
  · next h =>
    refine find?_putBy_other (by simpa using Ne.symm h) (fun y hy => ?_) l
    rw [beq_iff_eq] at hy
    simpa [hy] using Ne.symm h

/-! ### Tenants, queues, CRs and write watches -/

theorem setTenant_eq (d : Device) (x : Tenant) : d.setTenant x = { d with tenants := putBy (·.num == x.num) x d.tenants } := by
  unfold Device.setTenant putBy
  split <;> rfl

theorem setQueue_eq (d : Device) (x : Queue) : d.setQueue x = { d with queues := putBy (·.num == x.num) x d.queues } := by
  unfold Device.setQueue putBy
  split <;> rfl

theorem setCr_eq (d : Device) (x : Cr) : d.setCr x = { d with crs := putBy (·.slot == x.slot) x d.crs } := by
  unfold Device.setCr putBy
  split <;> rfl

theorem setWatch_eq (d : Device) (x : WriteWatch) :
    d.setWatch x = { d with writeWatch := putBy (fun y => y.die == x.die && y.idx == x.idx) x d.writeWatch } := by
  unfold Device.setWatch putBy
  split <;> rfl

theorem num_queue (d : Device) (n : Nat) : (d.queue n).num = n := by
  unfold Device.queue
  cases hf : d.queues.find? (·.num == n) with
  | none => rfl
  | some x => simpa using List.find?_some hf

theorem slot_cr (d : Device) (n : Nat) : (d.cr n).slot = n := by
  unfold Device.cr
  cases hf : d.crs.find? (·.slot == n) with
  | none => rfl
  | some x => simpa using List.find?_some hf

theorem tenant_setTenant (d : Device) (x : Tenant) (n : Nat) :
    (d.setTenant x).tenant n = if n = x.num then x else d.tenant n := by
  rw [setTenant_eq]
  show ((putBy _ x d.tenants).find? _).getD _ = _
  rw [find?_putBy_key Tenant.num]
  split <;> rfl

theorem queue_setQueue (d : Device) (x : Queue) (n : Nat) : (d.setQueue x).queue n = if n = x.num then x else d.queue n := by
  rw [setQueue_eq]
  show ((putBy _ x d.queues).find? _).getD _ = _
  rw [find?_putBy_key Queue.num]
  split <;> rfl

theorem cr_setCr (d : Device) (x : Cr) (n : Nat) : (d.setCr x).cr n = if n = x.slot then x else d.cr n := by
  rw [setCr_eq]
  show ((putBy _ x d.crs).find? _).getD _ = _
  rw [find?_putBy_key Cr.slot]
  split <;> rfl

/-- Setting a tenant leaves all else. -/
theorem tenantSet_setTenant (s : State) {x : Tenant} {n : Nat} (hn : x.num = n) :
    TenantSet s { s with dev := s.dev.setTenant x } n x where
  now := by simp [tenant_setTenant, hn]
  others m hm := by simp [tenant_setTenant, hn, hm]
  rest := by simp only [setTenant_eq]

/-- Setting a queue leaves all else. -/
theorem queueSet_setQueue (s : State) {x : Queue} {n : Nat} (hn : x.num = n) :
    QueueSet s { s with dev := s.dev.setQueue x } n x where
  now := by simp [queue_setQueue, hn]
  others m hm := by simp [queue_setQueue, hn, hm]
  rest := by simp only [setQueue_eq]

end Sys2Proof.Machine
end

section
/-! Writes of the host to the device registers (R91, R300, R301, R350, R352, R357-R360, R363, R368): which source may write
which register, what each write leaves, and the harts that monitor its line (R297). -/

namespace Sys2Proof.Machine

open Sys2Proof.Claims

/-! ### The machine behind an event -/

/-- What an event of the host leaves: `P` of the machine without EVT of the harts that monitor the register written. -/
def Leaves (s : State) (i : Instr) (P : State → Prop) : Prop :=
  ∃ u, P u ∧ exec i s = .next ((registerOf i).elim u fun off => belled off u)

/-- A write at a register's line sets EVT where a hart monitors that line (R297). -/
theorem touch_eq_belled (s : State) (off : Nat) : s.touch (drBase + off) = belled off s := rfl

/-! ### Who may write -/

theorem holder_pf_iff {s : State} {p : Nat} : s.dev.hosts.holder (.pf p) = true ↔ Holds s p := by
  unfold Holds
  rw [HostRegs.holder, Bool.and_eq_true, beq_iff_eq, ← beq_eq_decide]

theorem holder_pf_eq_false {s : State} {p : Nat} (h : ¬Holds s p) : s.dev.hosts.holder (.pf p) = false := by
  rw [← Bool.not_eq_true, holder_pf_iff]
  exact h

theorem gatedReg_iff (off : Nat) : gatedReg off = true ↔ off < 0x1000 ∨ 0x100000 ≤ off ∧ off < 0x102000 ∨
    0x200000 ≤ off ∧ off < 0x200200 ∨ 0x20000000 ≤ off ∧ off < 0x20090000 := by
  simp [gatedReg, or_assoc]

theorem gatedReg_of_gated {off : Nat} (h : Gated off) : gatedReg off = true ∧ off ≠ 0 := by
  unfold Gated at h
  rw [gatedReg_iff]
  omega

/-- The HSEM holder may write every gated register. -/
theorem mayWrite_holder {s : State} {p : Nat} (h : Holds s p) (off : Nat) : s.dev.hosts.mayWrite (.pf p) off = true := by
  rw [HostRegs.mayWrite, holder_pf_iff.mpr h, Bool.true_or]

/-- Who may configure may write QCFG, QSTATE and TIERCFG. -/
theorem mayWrite_config {s : State} {src : Source} (h : MayConfig s src) {off : Nat}
    (hoff : 0x100000 ≤ off ∧ off < 0x102000 ∨ 0x200000 ≤ off ∧ off < 0x200200) :
    s.dev.hosts.mayWrite (regSrc src) off = true := by
  rcases h with ⟨p, -, rfl, mine⟩ | rfl
  · exact mayWrite_holder mine off
  · simpa [HostRegs.mayWrite, regSrc] using .inr hoff

theorem mayWrite_denied {s : State} {p : Nat} (h : ¬Holds s p) (off : Nat) : s.dev.hosts.mayWrite (.pf p) off = false := by
  rw [HostRegs.mayWrite, holder_pf_eq_false h]
  rfl

/-! ### Where a write goes -/

/-- MBCMD, DOMCFG and the debug-module windows have meanings of their own. -/
def PlainReg (off : Nat) : Prop := off ≠ 0x20 ∧ off ≠ 0x50 ∧ ¬(0x20000000 ≤ off ∧ off < 0x20090000)

/-- Every other register takes its write, at its line. -/
theorem busWrite_plain {s : State} {off : Nat} (up : s.dev.hosts.fail = false ∨ off < 0x1000) (plain : PlainReg off)
    (src : Source) (v : Word) : s.busWrite src off v = belled off (s.storeReg (regSrc src) off v) := by
  obtain ⟨notMb, notDom, notWindow⟩ := plain
  have responds : ¬(s.dev.hosts.fail = true ∧ 0x1000 ≤ off) := by
    rintro ⟨hf, lo⟩
    rcases up with up | up
    · simp [up] at hf
    · omega
  rw [State.busWrite, if_neg responds, if_neg notMb, if_neg notDom, if_neg notWindow]
  rfl

theorem pfWrite_eq {p : Nat} (hp : p ≤ 1) (s : State) (off : Nat) (v : Word) : s.pfWrite p off v = s.busWrite (.pf p) off v :=
  if_neg (by omega)

/-- A gated write of another than the holder is dropped and counted (R358). -/
theorem storeReg_denied {s : State} {p off : Nat} (hoff : Gated off) (other : ¬Holds s p) (v : Word) :
    s.storeReg (.pf p) off v = withHosts s fun r => { r with hdeny := r.hdeny + 1 } := by
  obtain ⟨gated, nonzero⟩ := gatedReg_of_gated hoff
  rw [State.storeReg, if_neg nonzero, if_pos gated, if_pos (by rw [mayWrite_denied other]; rfl)]
  rfl

theorem busWrite_denied {s : State} {p off : Nat} (hoff : Gated off) (other : ¬Holds s p) (up : s.dev.hosts.fail = false)
    (v : Word) : s.busWrite (.pf p) off v = belled off (withHosts s fun r => { r with hdeny := r.hdeny + 1 }) := by
  have no : (!s.dev.hosts.holder (regSrc (.pf p))) = true := by rw [regSrc, holder_pf_eq_false other]; rfl
  by_cases mb : off = 0x20
  · subst mb
    rw [State.busWrite, if_neg (by simp), if_pos rfl, State.writeMbcmd, if_pos no]
    rfl
  by_cases dom : off = 0x50
  · subst dom
    rw [State.busWrite, if_neg (by simp), if_neg (by decide), if_pos rfl, State.writeDomcfg, if_pos no]
    rfl
  by_cases window : 0x20000000 ≤ off ∧ off < 0x20090000
  · rw [State.busWrite, if_neg (by simp [up]), if_neg mb, if_neg dom, if_pos window, State.writeWindow, if_pos no]
    rfl
  · rw [busWrite_plain (.inl up) ⟨mb, dom, window⟩, regSrc, storeReg_denied hoff other]

/-! ### HSEM (R357) -/

theorem storeReg_hsem (s : State) (p : Nat) (v : Word) :
    s.storeReg (.pf p) 0 v = withHosts s fun r => r.writeSem p v := rfl

theorem exec_hsemWrite {p : Nat} (hp : p ≤ 1) (v : Word) (s : State) :
    exec (.hsemWrite p v) s = .next (belled 0 (withHosts s fun r => r.writeSem p v)) := by
  show Host.Outcome.next (s.pfWrite p 0 v) = _
  rw [pfWrite_eq hp, busWrite_plain (.inr (by decide)) (by unfold PlainReg; decide), regSrc, storeReg_hsem]

theorem leaves_semGrant {s : State} {p : Nat} {v : Word} (hp : p ≤ 1) (hv : v.getLsbD 0 = true)
    (free : s.dev.hosts.semHeld = false) : Leaves s (.hsemWrite p v) (· = withHosts s fun r =>
      { r with semHeld := true, semOwner := decide (p = 1), semGen := r.semGen + 1 }) := by
  refine ⟨_, rfl, (exec_hsemWrite hp v s).trans ?_⟩
  simp only [withHosts, HostRegs.writeSem, hv, free, beq_eq_decide]
  rfl

/-- Nobody but the owner releases, and nothing is granted while it is held. -/
theorem writeSem_ignored {s : State} {p : Nat} {v : Word}
    (h : v.getLsbD 0 = true ∧ s.dev.hosts.semHeld = true ∨ v.getLsbD 0 = false ∧ ¬Holds s p) :
    s.dev.hosts.writeSem p v = s.dev.hosts := by
  rcases h with ⟨hv, held⟩ | ⟨hv, other⟩
  · simp [HostRegs.writeSem, hv, held]
  · rw [HostRegs.writeSem, hv, if_neg (by decide), if_neg]
    rintro ⟨held, own⟩
    exact other ⟨held, own.trans (beq_eq_decide ..)⟩

theorem writeSem_release {s : State} {p : Nat} {v : Word} (hv : v.getLsbD 0 = false) (mine : Holds s p) :
    s.dev.hosts.writeSem p v = { s.dev.hosts with semHeld := false } := by
  rw [HostRegs.writeSem, hv, if_neg (by decide), if_pos ⟨mine.1, mine.2.trans (beq_eq_decide ..).symm⟩]

theorem leaves_linkDown (s : State) (p : Nat) : Leaves s (.hostLinkDown p) fun u =>
    (Holds s p → u = withHosts s fun r => { r with semHeld := false }) ∧ (¬Holds s p → u = s) := by
  have same : (s.dev.hosts.semHeld ∧ s.dev.hosts.semOwner = (p == 1)) ↔ Holds s p := by rw [Holds, ← beq_eq_decide]
  refine ⟨s.releaseSem p, ⟨fun mine => ?_, fun other => ?_⟩, rfl⟩
  · rw [State.releaseSem, HostRegs.releaseSem, if_pos (same.mpr mine)]
    rfl
  · rw [State.releaseSem, HostRegs.releaseSem, if_neg (mt same.mp other)]

/-! ### Queue registers (R300, R301, R360) -/

/-- Queue `q` behind a write of its register `w`: QCFG's words, then QSTATE's. -/
def Queue.writeWord (q : Queue) (w : Nat) (v : Word) : Queue :=
  match w with
  | 0 => q.writeCfg false v
  | 1 => q.writeCfg true v
  | 2 => q.writeState false v
  | _ => q.writeState true v

theorem noteHead_eq (s : State) (q : Queue) : q.noteHead s.time = headNoted s q := by
  unfold Queue.noteHead headNoted
  split
  · rfl
  · rcases q.reached with _ | ⟨i, t⟩ <;> simp

@[simp] theorem headNoted_num (s : State) (q : Queue) : (headNoted s q).num = q.num := by
  unfold headNoted
  split
  · rfl
  · split <;> rfl

theorem storeReg_queue {s : State} {src : Source} (mine : MayConfig s src) {q w : Nat} (hq : q < 256) (hw : w < 4) (v : Word) :
    s.storeReg (regSrc src) (0x100000 + 32 * q + 8 * w) v =
      { s with dev := s.dev.setQueue (headNoted s ((s.dev.queue q).writeWord w v)) } := by
  have may := mayWrite_config mine (off := 0x100000 + 32 * q + 8 * w) (.inl (by omega))
  have quot : (0x100000 + 32 * q + 8 * w - 0x100000) / 32 = q := by omega
  have word : (0x100000 + 32 * q + 8 * w - 0x100000) / 8 % 4 = w := by omega
  unfold State.storeReg
  rw [if_neg (by omega), if_pos ((gatedReg_iff _).mpr (by omega)), if_neg (by simp [may]), if_neg (by omega),
    if_pos (by omega), quot, word, ← noteHead_eq]
  rfl

theorem plainReg_queue {q w : Nat} (hq : q < 256) (hw : w < 4) : PlainReg (0x100000 + 32 * q + 8 * w) := by
  unfold PlainReg
  omega

theorem queueWrite_eq {s : State} {src : Source} (mine : MayConfig s src) (off : Nat) (v : Word) :
    s.queueWrite src off v = s.busWrite src off v := by
  rcases mine with ⟨p, hp, rfl, -⟩ | rfl
  · exact pfWrite_eq hp s off v
  · rfl

/-- A write of register `w` of queue `n`. -/
theorem leaves_queueWord {s : State} {src : Source} (mine : MayConfig s src) (up : s.dev.hosts.fail = false) {i : Instr}
    {n w off : Nat} {v : Word} (hn : n < 256) (hw : w < 4) (hoff : off = 0x100000 + 32 * n + 8 * w)
    (hi : exec i s = .next (s.queueWrite src off v)) (hreg : registerOf i = some off) {q : Queue}
    (hq : (s.dev.queue n).writeWord w v = q) (num : q.num = n) : Leaves s i fun u => QueueSet s u n (headNoted s q) := by
  subst hoff
  refine ⟨_, queueSet_setQueue s ((headNoted_num s q).trans num), ?_⟩
  rw [hi, hreg, queueWrite_eq mine, busWrite_plain (.inl up) (plainReg_queue hn hw), storeReg_queue mine hn hw, hq]
  rfl

theorem exec_qcfgWrite {q : Nat} (hq : q < 256) (src : Source) (hi : Bool) (v : Word) (s : State) :
    exec (.qcfgWrite src q hi v) s = .next (s.queueWrite src (0x100000 + 32 * q + 8 * hi.toNat) v) := by
  show Host.Outcome.next (if q < 256 then _ else _) = _
  rw [if_pos hq]

theorem exec_qstateWrite {q : Nat} (hq : q < 256) (src : Source) (hi : Bool) (v : Word) (s : State) :
    exec (.qstateWrite src q hi v) s = .next (s.queueWrite src (0x100000 + 32 * q + 16 + 8 * hi.toNat) v) := by
  show Host.Outcome.next (if q < 256 then _ else _) = _
  rw [if_pos hq]

/-- QCFG's low word in its fields (R300). -/
theorem writeCfg_low (q : Queue) (v : Word) : q.writeCfg false v = { q with
    dies := v.extractLsb' 32 8
    tenant := (v.extractLsb' 24 5).toNat
    pmax := (v.extractLsb' 16 2).toNat
    log2n := (v.extractLsb' 8 4).toNat
    en := v.getLsbD 0 && decide (4 ≤ (v.extractLsb' 8 4).toNat ∧ v.extractLsb' 32 8 ≠ 0) } := by
  have en : ∀ (l : Nat) (d : BitVec 8), (v.getLsbD 0 && decide (4 ≤ l) && d != 0) = (v.getLsbD 0 && decide (4 ≤ l ∧ d ≠ 0)) :=
    fun l d => by rw [Bool.eq_iff_iff]; simp [and_assoc]
  have field : ∀ lo n, (v.extractLsb' lo n).toNat = bits v.toNat lo n := fun lo n => by
    rw [← ofNat_bits, BitVec.toNat_ofNat, bits, Nat.mod_mod]
  simp only [← en, field]
  simp only [← ofNat_bits]
  rfl

/-- QCFG's high word (R300). -/
theorem writeCfg_high (q : Queue) (v : Word) :
    q.writeCfg true v = { q with base := v.extractLsb' 12 40 ++ (0 : BitVec 12) } := by
  rw [← ofNat_bits_mul]
  rfl

theorem writeTail_eq (q : Queue) (v : BitVec 32) : q.writeTail v = tailWritten q v := rfl

/-- QSTATE's high word is TAIL (R301). -/
theorem writeState_high (q : Queue) (v : Word) : q.writeState true v = tailWritten q (v.extractLsb' 32 32) := by
  rw [← writeTail_eq]
  show q.writeTail _ = _
  congr 1
  apply BitVec.eq_of_toNat_eq
  simp [Nat.shiftRight_eq_div_pow]

theorem tailWritten_num (q : Queue) (v : BitVec 32) : (tailWritten q v).num = q.num := by
  unfold tailWritten
  split <;> rfl

/-! ### Tenant pages (R360) -/

theorem busWrite_tenantPage {s : State} (up : s.dev.hosts.fail = false) {t off : Nat} (ht : t < 32) (hoff : off < 0x10000)
    (v : Word) : s.vfWrite t off v = belled (0x10000000 + 0x10000 * t + off) (s.writeTenantPage t off v) := by
  have quot : (0x10000000 + 0x10000 * t + off - 0x10000000) / 0x10000 = t := by omega
  have rest : (0x10000000 + 0x10000 * t + off) % 0x10000 = off := by omega
  rw [State.vfWrite, if_neg (by omega), busWrite_plain (.inl up) (by unfold PlainReg; omega)]
  unfold State.storeReg
  rw [if_neg (by omega), if_neg (by rw [gatedReg_iff]; omega), if_neg (by omega), if_pos (by omega), quot, rest]

theorem leaves_rhead {s : State} {t : Nat} {v : Word} (ht : t < 32) (up : s.dev.hosts.fail = false) :
    Leaves s (.rheadWrite t v) fun u => TenantSet s u t { s.dev.tenant t with rhead := v.toNat % 16 } := by
  refine ⟨_, tenantSet_setTenant s (num_tenant s.dev t), ?_⟩
  show Host.Outcome.next (s.vfWrite t 0x20 v) = _
  rw [busWrite_tenantPage up ht (by decide), State.writeTenantPage, if_pos rfl]
  simp only [registerOf, Option.elim, bits, Nat.pow_zero, Nat.div_one]
  congr 2
  omega

/-- The queue doorbell of a tenant page. -/
theorem writeTenantPage_tail {s : State} {t q : Nat} (hq : q < 256) (v : Word) : s.writeTenantPage t (0x1000 + 8 * q) v =
    if (s.dev.queue q).tenant = t then
      { s with dev := s.dev.setQueue (headNoted s (tailWritten (s.dev.queue q) (v.setWidth 32))) } else s := by
  have quot : (0x1000 + 8 * q - 0x1000) / 8 = q := by omega
  rw [State.writeTenantPage, if_neg (by omega), if_neg (by omega), if_neg (by omega), if_pos (by omega), quot, ← noteHead_eq,
    ← writeTail_eq]
  rfl

theorem leaves_tail {s : State} {t q : Nat} {v : Word} (ht : t < 32) (hq : q < 256) (up : s.dev.hosts.fail = false) :
    Leaves s (.qtailWrite t q v) fun u =>
      ((s.dev.queue q).tenant = t → QueueSet s u q (headNoted s (tailWritten (s.dev.queue q) (v.setWidth 32)))) ∧
      ((s.dev.queue q).tenant ≠ t → u = s) := by
  refine ⟨s.writeTenantPage t (0x1000 + 8 * q) v, ⟨fun own => ?_, fun other => ?_⟩, ?_⟩
  · rw [writeTenantPage_tail hq, if_pos own]
    exact queueSet_setQueue s ((headNoted_num ..).trans ((tailWritten_num ..).trans (num_queue ..)))
  · rw [writeTenantPage_tail hq, if_neg other]
  · show Host.Outcome.next (if q < 256 then s.vfWrite t (0x1000 + 8 * q) v else s) = _
    rw [if_pos hq, busWrite_tenantPage up ht (by omega)]
    simp only [registerOf, Option.elim]
    congr 2
    omega

/-! ### TIERCFG (R91) -/

theorem storeReg_tier {s : State} {src : Source} (mine : MayConfig s src) {t : Nat} (ht : t < 32) (hi : Bool) (v : Word) :
    s.storeReg (regSrc src) (0x200000 + 16 * t + 8 * hi.toNat) v =
      { s with dev := s.dev.setTenant ((s.dev.tenant t).writeTier hi v) } := by
  have hhi : hi.toNat ≤ 1 := hi.toNat_le
  have may := mayWrite_config mine (off := 0x200000 + 16 * t + 8 * hi.toNat) (.inr (by omega))
  have quot : (0x200000 + 16 * t + 8 * hi.toNat - 0x200000) / 16 = t := by omega
  have word : ((0x200000 + 16 * t + 8 * hi.toNat - 0x200000) / 8 % 2 == 1) = hi := by
    rw [show (0x200000 + 16 * t + 8 * hi.toNat - 0x200000) / 8 % 2 = hi.toNat by omega]
    cases hi <;> rfl
  unfold State.storeReg
  rw [if_neg (by omega), if_pos ((gatedReg_iff _).mpr (by omega)), if_neg (by simp [may]), if_neg (by omega),
    if_neg (by omega), if_pos (by omega), quot, word]
  rfl

theorem exec_registerWrite_config {s : State} {src : Source} (mine : MayConfig s src) (off : Nat) (v : Word) :
    exec (.registerWrite (.host src off) v) s = .next (s.busWrite src off v) := by
  rcases mine with ⟨p, hp, rfl, -⟩ | rfl
  · exact congrArg Host.Outcome.next (pfWrite_eq hp s off v)
  · rfl

theorem writeTier_low (t : Tenant) (v : Word) :
    t.writeTier false v = { t with tcxl := v.extractLsb' 32 32, thbm := v.extractLsb' 0 32 } := by
  simp only [← ofNat_bits]
  rfl

theorem writeTier_high (t : Tenant) (v : Word) : t.writeTier true v = { t with
    excap := v.extractLsb' 32 16
    rdepth := if v.extractLsb' 16 8 = 0 then 1 else v.extractLsb' 16 8 } := by
  have hz : v.extractLsb' 16 8 = 0 ↔ bits v.toNat 16 8 = 0 := by
    rw [← ofNat_bits, ← BitVec.toNat_inj]
    simp [bits]
  rw [← ofNat_bits v 32 16, Tenant.writeTier, if_pos rfl]
  simp only [hz]
  by_cases h : bits v.toNat 16 8 = 0
  · simp [h]
  · simp only [h, if_false, ofNat_bits]

theorem leaves_tier {s : State} {src : Source} {t off : Nat} {v : Word} {x : Tenant} (hi : Bool) (ht : t < 32)
    (mine : MayConfig s src) (up : s.dev.hosts.fail = false) (hoff : off = 0x200000 + 16 * t + 8 * hi.toNat)
    (hx : (s.dev.tenant t).writeTier hi v = x) (num : x.num = t) :
    Leaves s (.registerWrite (.host src off) v) fun u => TenantSet s u t x := by
  subst hoff
  have hhi : hi.toNat ≤ 1 := hi.toNat_le
  refine ⟨_, tenantSet_setTenant s num, ?_⟩
  rw [exec_registerWrite_config mine, busWrite_plain (.inl up) (by unfold PlainReg; omega), storeReg_tier mine ht, hx]
  rfl

/-! ### The mailbox arguments (R368) -/

theorem leaves_mailboxArg {s : State} {p : Nat} (k : Fin 4) (v : Word) (hp : p ≤ 1) (mine : Holds s p) :
    Leaves s (.registerWrite (.host (.pf p) (0x28 + 8 * k.val)) v)
      (· = withHosts s fun r => { r with mbArg := r.mbArg.set k v }) := by
  refine ⟨_, rfl, ?_⟩
  have may := mayWrite_holder mine (0x28 + 8 * k.val)
  have arg : Fin.ofNat 4 ((0x28 + 8 * k.val - 0x28) / 8) = k := by
    apply Fin.ext
    simp only [Fin.val_ofNat]
    omega
  rw [exec_registerWrite_config (.inl ⟨p, hp, rfl, mine⟩), busWrite_plain (.inr (by omega)) (by unfold PlainReg; omega), regSrc]
  unfold State.storeReg
  rw [if_neg (by omega), if_pos ((gatedReg_iff _).mpr (by omega)), if_neg (by simp [may]), if_pos (by omega)]
  simp only [arg]
  rfl

/-! ### Denied writes (R358) -/

/-- Every gated register is written over the bus. -/
theorem leaves_denied {s : State} {i : Instr} {p q : Nat} {hi : Bool} {v : Word} (hp : p ≤ 1) (hq : q < 256)
    (other : ¬Holds s p) (up : s.dev.hosts.fail = false)
    (form : i = .qcfgWrite (.pf p) q hi v ∨ i = .qstateWrite (.pf p) q hi v ∨ i = .domcfgWrite p v ∨
      ∃ off, Gated off ∧ i = .registerWrite (.host (.pf p) off) v) :
    Leaves s i (· = withHosts s fun r => { r with hdeny := r.hdeny + 1 }) := by
  have hhi : hi.toNat ≤ 1 := hi.toNat_le
  have bit : (if hi then 8 else 0) = 8 * hi.toNat := by cases hi <;> rfl
  suffices ∃ off, Gated off ∧ exec i s = .next (s.pfWrite p off v) ∧ registerOf i = some off by
    obtain ⟨off, gated, run, reg⟩ := this
    refine ⟨_, rfl, ?_⟩
    rw [run, reg, pfWrite_eq hp, busWrite_denied gated other up]
    rfl
  rcases form with rfl | rfl | rfl | ⟨off, gated, rfl⟩
  · exact ⟨_, by unfold Gated; omega, exec_qcfgWrite hq .., by rw [registerOf, bit]⟩
  · exact ⟨_, by unfold Gated; omega, exec_qstateWrite hq .., by rw [registerOf, bit]; congr 1; omega⟩
  · exact ⟨0x50, by unfold Gated; omega, rfl, rfl⟩
  · exact ⟨off, gated, rfl, rfl⟩

end Sys2Proof.Machine
end

section
/-! What comes from outside besides register writes (R350, R352, R362, R363): the Aqtex domain and its peers, the
write-watch and trace settings, accesses that come in. -/

namespace Sys2Proof.Machine

open Sys2Proof.Claims

/-! ### Visits that give every hart the same -/

/-- A visit that gives the front hart `c` in a field and leaves that field of the others, made at `k` harts. -/
theorem map_harts_visit_iterate {α : Type} {g : Hart → α} {c : α} {f : State → State}
    (hf : ∀ t : State, (f t).harts.map g = c :: t.others.map g) (s : State) : ∀ {k : Nat}, k ≤ s.harts.length →
    ((State.visit f)^[k] s).harts.map g = (s.harts.map g).drop k ++ List.replicate k c := by
  intro k
  induction k with
  | zero => simp
  | succ k ih =>
    intro hk
    have prev := ih (Nat.le_of_succ_le hk)
    rw [Function.iterate_succ_apply', State.visit, State.harts_rotate, List.map_rotate, hf, List.rotate_cons_succ,
      List.rotate_zero]
    generalize (State.visit f)^[k] s = t at prev
    obtain ⟨y, ys, hy⟩ : ∃ y ys, (s.harts.map g).drop k = y :: ys :=
      List.exists_cons_of_length_pos (by simp only [List.length_drop, List.length_map]; omega)
    rw [hy, State.harts, List.map_cons, List.cons_append, List.cons_eq_cons] at prev
    have tail : (s.harts.map g).drop (k + 1) = ys := by rw [← List.drop_drop, hy]; rfl
    rw [prev.2, tail, List.append_assoc, ← List.replicate_succ']

/-- Visited as a whole, every hart has it. -/
theorem eachHart_all {α : Type} {g : Hart → α} {c : α} {f : State → State}
    (hf : ∀ t : State, (f t).harts.map g = c :: t.others.map g) (s : State) : ∀ h ∈ (s.eachHart f).harts, g h = c := by
  intro h hh
  have all := map_harts_visit_iterate hf s (Nat.le_refl s.harts.length)
  rw [List.drop_of_length_le (by simp), List.nil_append, State.length_harts, ← State.eachHart_eq] at all
  exact List.eq_of_mem_replicate (all ▸ List.mem_map_of_mem hh)

/-! ### Leaving the domain (R363) -/

/-- The fabric queues of the harts behind the front. -/
def State.fabrics (s : State) : List (List (Nat × Part)) := s.others.map fun h => h.ms.fabricQ

theorem fabrics_mapHarts {s : State} {f : Hart → Hart} (hf : ∀ h, (f h).ms.fabricQ = h.ms.fabricQ) :
    (s.mapHarts f).fabrics = s.fabrics := by
  simp only [State.fabrics, State.mapHarts, List.map_map]
  exact List.map_congr_left fun h _ => hf h

theorem fabricQ_noteLater (h : Hart) (a : Agent) (k n : Nat) : (h.noteLater a k n).ms.fabricQ = h.ms.fabricQ := by
  rw [Hart.noteLater_eq]

theorem fabricQ_noteWrite (h : Hart) (ln : Nat) : (h.noteWrite ln).ms.fabricQ = h.ms.fabricQ := by
  unfold Hart.noteWrite
  split <;> rfl

theorem fabricQ_askHalt (h : Hart) (c : BitVec 4) : (h.askHalt c).ms.fabricQ = h.ms.fabricQ := by
  unfold Hart.askHalt
  split <;> rfl

theorem fabrics_watchWrite (s : State) (a : Agent) (k n : Nat) : (s.watchWrite a k n).fabrics = s.fabrics := by
  unfold State.watchWrite
  split
  · rfl
  · refine (fabrics_mapHarts fun h => ?_).trans rfl
    split
    · exact fabricQ_askHalt h 6
    · rfl

theorem fabrics_putMem (s : State) (a : Agent) (k : Nat) (bs : List Byte) : (s.putMem a k bs).fabrics = s.fabrics := by
  unfold State.putMem
  refine (fabrics_watchWrite ..).trans ((fabrics_mapHarts fun h => ?_).trans rfl)
  rw [fabricQ_noteWrite, fabricQ_noteLater]

theorem remoteAccess_others (s : State) (n : Nat) : (s.remoteAccess n).2.others = s.others := by
  rw [remoteAccess_eq]

/-- What arrives at another device leaves the queues of the other harts. -/
theorem fabrics_arriveOne {s t : State} {d : Nat} (h : s.arriveOne d = some t) : t.fabrics = s.fabrics := by
  unfold State.arriveOne at h
  split at h
  · split at h
    · cases h
    · split at h
      · cases h
      · cases h
        exact congrArg (List.map _) (remoteAccess_others s d)
  · split at h
    · cases h
    · dsimp only at h
      split at h
      next u hu =>
        cases h
        rw [fabrics_putMem]
        exact congrArg (List.map _) ((congrArg (fun r => r.2.others) hu).symm.trans (remoteAccess_others ..))
      next u hu =>
        cases h
        exact congrArg (List.map _) ((congrArg (fun r => r.2.others) hu).symm.trans (remoteAccess_others ..))

/-- Every entry of the front hart's fabric queue is tried once, oldest first. -/
def State.arriveEach (s : State) : State := s.h.ms.fabricQ.foldl (fun s p => (s.arriveOne p.1).getD s) s

/-- Every entry that is left fails. -/
def State.failEach (s : State) : State :=
  { s with h := s.h.ms.fabricQ.foldl (fun h p => h.fabricFails p.2.va) { s.h with ms := { s.h.ms with fabricQ := [] } } }

theorem leaveDomain_eq (s : State) : s.leaveDomain =
    withHosts (s.eachHart fun s => s.arriveEach.failEach) fun r => { r with domEn := false, peers := 0 } := rfl

theorem fabrics_arriveEach (s : State) : s.arriveEach.fabrics = s.fabrics := by
  unfold State.arriveEach
  generalize s.h.ms.fabricQ = l
  induction l generalizing s with
  | nil => rfl
  | cons p l ih =>
    rw [List.foldl_cons, ih]
    cases hp : s.arriveOne p.1 with
    | none => rfl
    | some t => exact fabrics_arriveOne hp

theorem fabricQ_fabricFails (h : Hart) (va : Nat) : (h.fabricFails va).ms.fabricQ = h.ms.fabricQ := by
  unfold Hart.fabricFails
  split <;> rfl

theorem fabricQ_failEach (s : State) : s.failEach.h.ms.fabricQ = [] := by
  have keep : ∀ (l : List (Nat × Part)) (h : Hart), (l.foldl (fun h p => h.fabricFails p.2.va) h).ms.fabricQ = h.ms.fabricQ := by
    intro l
    induction l with
    | nil => exact fun _ => rfl
    | cons p l ih => exact fun h => (ih _).trans (fabricQ_fabricFails h _)
  exact keep _ _

/-- No store waits for another device once the domain is left. -/
theorem fabricQ_leaveDomain {s : State} {h : Hart} (hh : h ∈ s.leaveDomain.harts) : h.ms.fabricQ = [] := by
  refine eachHart_all (g := fun h => h.ms.fabricQ) (f := fun s => s.arriveEach.failEach) (fun t => ?_) s h hh
  rw [State.harts, List.map_cons, fabricQ_failEach]
  exact congrArg _ (fabrics_arriveEach t)

/-- With empty queues leaving clears the domain's registers only. -/
theorem leaveDomain_of_empty {s : State} (hq : ∀ h ∈ s.harts, h.ms.fabricQ = []) :
    s.leaveDomain = withHosts s fun r => { r with domEn := false, peers := 0 } := by
  rw [leaveDomain_eq, State.eachHart_of_idle]
  intro t ht
  have empty := hq t.h ht
  have arrive : t.arriveEach = t := by rw [State.arriveEach, empty]; rfl
  rw [arrive, State.failEach, empty]
  show { t with h := { t.h with ms := { t.h.ms with fabricQ := [] } } } = t
  rw [← empty]

/-- DOMCFG of the HSEM holder. -/
theorem exec_domcfgWrite {s : State} {p : Nat} (hp : p ≤ 1) (mine : Holds s p) (v : Word) :
    exec (.domcfgWrite p v) s = .next (belled 0x50 (withHosts (if v.getLsbD 8 then s else s.leaveDomain) fun r =>
      { r with domEn := v.getLsbD 8, domId := v.setWidth 8 })) := by
  show Host.Outcome.next (s.pfWrite p 0x50 v) = _
  rw [pfWrite_eq hp, State.busWrite, if_neg (by simp), if_neg (by decide), if_pos rfl, State.writeDomcfg,
    if_neg (by rw [regSrc, holder_pf_iff.mpr mine]; decide)]
  rfl

theorem leaves_domainOn {s : State} {p : Nat} {v : Word} (hp : p ≤ 1) (mine : Holds s p) (hv : v.getLsbD 8 = true) :
    Leaves s (.domcfgWrite p v) (· = withHosts s fun r => { r with domEn := true, domId := v.setWidth 8 }) := by
  refine ⟨_, rfl, ?_⟩
  rw [exec_domcfgWrite hp mine, hv]
  rfl

theorem leaves_domainOff {s : State} {p : Nat} {v : Word} (hp : p ≤ 1) (mine : Holds s p) (hv : v.getLsbD 8 = false) :
    Leaves s (.domcfgWrite p v) fun u => u.dev.hosts.domEn = false ∧ u.dev.hosts.peers = 0 ∧
      u.dev.hosts.domId = v.setWidth 8 ∧ (∀ h ∈ u.h :: u.others, h.ms.fabricQ = []) ∧
      ((∀ h ∈ s.h :: s.others, h.ms.fabricQ = []) →
        u = withHosts s fun r => { r with domEn := false, domId := v.setWidth 8, peers := 0 }) := by
  refine ⟨withHosts s.leaveDomain fun r => { r with domEn := false, domId := v.setWidth 8 }, ⟨rfl, rfl, rfl, ?_, ?_⟩, ?_⟩
  · exact fun h hh => fabricQ_leaveDomain hh
  · intro empty
    rw [leaveDomain_of_empty empty]
    rfl
  · rw [exec_domcfgWrite hp mine, hv]
    rfl

/-! ### Peers (R363) -/

theorem getLsbD_peerBit (d : Nat) {j : Nat} (hj : j < 256) : (BitVec.ofNat 256 (2 ^ d)).getLsbD j = decide (j = d) := by
  rw [BitVec.getLsbD_ofNat, Nat.testBit_two_pow]
  simp [hj, eq_comm]

/-- PEERS behind a check of a device of the domain, whose signatures verify or not. -/
def HostRegs.peersChecked (r : HostRegs) (p : PeerFound) (ok : Bool) : BitVec 256 :=
  if p.unique = false ∨ p.dev = r.domId.toNat then r.peers &&& ~~~BitVec.ofNat 256 (2 ^ p.dev)
  else if ok then r.peers ||| BitVec.ofNat 256 (2 ^ p.dev) else r.peers

theorem exec_peerCheck {s : State} {p : PeerFound} (on_ : s.dev.hosts.domEn = true) (hd : p.dev ≤ 255) :
    exec (.peerCheck p) s = .next { withHosts s (fun r => { r with peers := r.peersChecked p (Config.signatureOk s.tick) })
      with tick := s.tick + 1 } := by
  have known : ¬(s.dev.hosts.domEn = false ∨ 255 < p.dev) := by
    rw [on_]
    exact not_or.mpr ⟨nofun, by omega⟩
  show execPeerCheck p s = _
  unfold execPeerCheck HostRegs.peersChecked
  simp only [Bool.not_eq_true', if_neg known]
  by_cases same : p.unique = false ∨ p.dev = s.dev.hosts.domId.toNat
  · simp only [withHosts, if_pos same]
  · by_cases ok : Config.signatureOk s.tick = true
    · simp only [withHosts, if_neg same, if_pos ok]
    · simp only [withHosts, if_neg same, if_neg ok]

theorem leaves_peerCheck {s : State} {d : Nat} (on_ : s.dev.hosts.domEn = true) (hd : d ≤ 255)
    (other : d ≠ s.dev.hosts.domId.toNat) : Leaves s (.peerCheck ⟨d, true⟩) fun u =>
      (∀ j : Nat, j < 256 → u.dev.hosts.peers.getLsbD j =
        (s.dev.hosts.peers.getLsbD j || (Config.signatureOk s.tick && decide (j = d)))) ∧
      u = { withHosts s (fun r => { r with peers := u.dev.hosts.peers }) with tick := s.tick + 1 } := by
  refine ⟨_, ⟨fun j hj => ?_, rfl⟩, exec_peerCheck on_ hd⟩
  have apart : ¬(true = false ∨ d = s.dev.hosts.domId.toNat) := by simp [other]
  simp only [withHosts, HostRegs.peersChecked, if_neg apart]
  cases Config.signatureOk s.tick with
  | false => simp
  | true => simp only [if_true, BitVec.getLsbD_or, getLsbD_peerBit d hj, Bool.true_and]

theorem leaves_peerSame {s : State} {d : Nat} {unique : Bool} (on_ : s.dev.hosts.domEn = true) (hd : d ≤ 255)
    (same : unique = false ∨ d = s.dev.hosts.domId.toNat) : Leaves s (.peerCheck ⟨d, unique⟩) fun u =>
      (∀ j : Nat, j < 256 → u.dev.hosts.peers.getLsbD j = (s.dev.hosts.peers.getLsbD j && decide (j ≠ d))) ∧
      u = { withHosts s (fun r => { r with peers := u.dev.hosts.peers }) with tick := s.tick + 1 } := by
  refine ⟨_, ⟨fun j hj => ?_, rfl⟩, exec_peerCheck on_ hd⟩
  simp only [withHosts, HostRegs.peersChecked, if_pos same, BitVec.getLsbD_and, BitVec.getLsbD_not, getLsbD_peerBit d hj]
  simp [hj]

/-! ### Write-watch and trace settings (R350, R352) -/

/-- Settings are taken while DBGOPEN is 1 (R372). -/
theorem dmSet_open {s : State} (h : s.dev.hosts.dbgopen = true) (f : Device → Device) : s.dmSet f = { s with dev := f s.dev } :=
  if_pos h

/-- What a write of register `i` leaves of a write-watch entry. -/
theorem writeWord_eq {w w' : WriteWatch} {i : Nat} {v : Word} (new : (i = 0 ∧ w' = { w with pa := v.extractLsb' 0 52 }) ∨
      (i = 1 ∧ w' = { w with
        en := v.getLsbD 63
        agents := v.extractLsb' 48 8
        act := decide (v.extractLsb' 46 2 = 1)
        gang := v.extractLsb' 16 16
        len := v.extractLsb' 0 8 }) ∨
      (i = 2 ∧ v.getLsbD 63 = true ∧ w' = { w with hitV := false, hitKind := 0, hitSrc := 0, hitCount := 0 })) :
    w.writeWord i v = w' := by
  rcases new with ⟨rfl, rfl⟩ | ⟨rfl, rfl⟩ | ⟨rfl, hv, rfl⟩
  · rw [← BitVec.setWidth_eq_extractLsb' (by decide)]
    rfl
  · have act : (bits v.toNat 46 2 == 1) = decide (v.extractLsb' 46 2 = 1) := by
      rw [Bool.eq_iff_iff, beq_iff_eq, decide_eq_true_eq, ← ofNat_bits, ← BitVec.toNat_inj]
      simp [bits]
    rw [← BitVec.setWidth_eq_extractLsb' (by decide), ← act, ← ofNat_bits, ← ofNat_bits]
    rfl
  · exact if_pos hv

theorem leaves_watch {s : State} {die n i : Nat} {v : Word} {w w' : WriteWatch} (hn : n < 8)
    (open_ : s.dev.hosts.dbgopen = true) (old : (s.dev.writeWatch.find? fun x => x.die == die && x.idx == n) = some w)
    (new : w.writeWord i v = w') (place : w'.die = w.die ∧ w'.idx = w.idx) :
    Leaves s (.registerWrite (.watch die n i) v) fun u =>
      (u.dev.writeWatch.find? fun x => x.die == die && x.idx == n) = some w' ∧
      (∀ d m, ¬(d = die ∧ m = n) → (u.dev.writeWatch.find? fun x => x.die == d && x.idx == m) =
        s.dev.writeWatch.find? fun x => x.die == d && x.idx == m) ∧
      u = { s with dev := { s.dev with writeWatch := u.dev.writeWatch } } := by
  have at_ := List.find?_some old
  simp only [Bool.and_eq_true, beq_iff_eq] at at_
  obtain ⟨hdie, hidx⟩ : w'.die = die ∧ w'.idx = n := ⟨place.1.trans at_.1, place.2.trans at_.2⟩
  have run : exec (.registerWrite (.watch die n i) v) s = .next { s with dev := { s.dev with
      writeWatch := putBy (fun y => y.die == die && y.idx == n) w' s.dev.writeWatch } } := by
    show Host.Outcome.next (s.writeWatchReg die n i v) = _
    rw [State.writeWatchReg, if_pos hn, dmSet_open open_, Device.watchEntry, old, Option.getD_some, new, setWatch_eq, hdie, hidx]
  refine ⟨_, ⟨?_, fun d m apart => ?_, rfl⟩, run⟩
  · exact find?_putBy_same (by simp [hdie, hidx]) _
  · refine find?_putBy_other ?_ (fun y hy => ?_) _
    · simp only [hdie, hidx, Bool.and_eq_false_iff, beq_eq_false_iff_ne, ne_eq]
      omega
    · simp only [Bool.and_eq_true, beq_iff_eq] at hy
      simp only [hy, Bool.and_eq_false_iff, beq_eq_false_iff_ne, ne_eq]
      omega

theorem traceOk_of_place {d : Device} {base size : Nat} (place : base % 16 = 0 ∧ base + 16 * size ≤ 0x8000000000)
    (apart : ∀ e ∈ d.extents, e.v = true → e.src < 32 → base + 16 * size ≤ e.base * 0x10000 ∨ (e.last + 1) * 0x10000 ≤ base) :
    d.traceOk base size = true := by
  have none_ : (d.extents.any fun e => e.v && decide (e.src < 32) && decide (e.base * 0x10000 < base + 16 * size) &&
      decide (base < (e.last + 1) * 0x10000)) = false := by
    rw [List.any_eq_false]
    intro e he h
    simp only [Bool.and_eq_true, decide_eq_true_eq, and_assoc] at h
    obtain ⟨hv, hs, lo, hi⟩ := h
    have := apart e he hv hs
    omega
  simp only [Device.traceOk, none_, place.1, place.2]
  rfl

theorem leaves_trace {s : State} {die base size : Nat} {harts : List Nat} {v : Word} (open_ : s.dev.hosts.dbgopen = true)
    (ok : s.dev.traceOk base size = true) : Leaves s (.registerWrite (.trace die base size harts) v) fun u =>
      (u.dev.trace.find? fun x => x.die == die) = some {
        die := die
        base := base
        size := size
        harts := harts
        sper := v.toNat
        sampled := s.cycle / 2 ^ v.toNat
        dropped := (s.dev.trace.find? fun x => x.die == die).elim 0 fun x => x.dropped } ∧
      (∀ d, d ≠ die → (u.dev.trace.find? fun x => x.die == d) = s.dev.trace.find? fun x => x.die == d) ∧
      u = { s with dev := { s.dev with trace := u.dev.trace } } := by
  have run : exec (.registerWrite (.trace die base size harts) v) s = .next { s with dev := s.dev.setTrace {
      die := die, base := base, size := size, harts := harts, sper := v.toNat, sampled := s.cycle / 2 ^ v.toNat } } := by
    show Host.Outcome.next (s.writeTrace die base size harts v.toNat) = _
    rw [State.writeTrace, if_pos ok, dmSet_open open_]
  refine ⟨_, ⟨?_, fun d hd => ?_, rfl⟩, run⟩
  · exact List.find?_cons_of_pos (beq_self_eq_true die)
  · refine (List.find?_cons_of_neg (by simpa using hd.symm)).trans ?_
    rw [List.find?_filter]
    congr 1
    funext x
    by_cases hx : x.die = d <;> simp [hx, hd]

theorem leaves_taken {s : State} {die : Nat} {v : Word} {f : TraceUnit → TraceUnit} (open_ : s.dev.hosts.dbgopen = true)
    (hf : ∀ x, (x.die = die → f x = { x with used := x.used - v.toNat }) ∧ (x.die ≠ die → f x = x)) :
    Leaves s (.registerWrite (.taken die) v) (· = { s with dev := { s.dev with trace := s.dev.trace.map f } }) := by
  have same : (fun u : TraceUnit => if u.die == die then { u with used := u.used - v.toNat } else u) = f := by
    funext x
    by_cases hx : x.die = die
    · simp [hx, (hf x).1]
    · simp [hx, (hf x).2]
  refine ⟨_, rfl, ?_⟩
  show Host.Outcome.next (s.dmSet fun d => d.takeTrace die v.toNat) = _
  rw [dmSet_open open_, Device.takeTrace, same]
  rfl

/-! ### Accesses that come in (R359, R362) -/

theorem sourceTable_of_tableOf {src : Source} {t : Nat} (h : TableOf src t) : sourceTable src = some t := by
  cases h <;> rfl

/-- An access of one line of local memory lies in one frame. -/
theorem frames_of_line {pa n : Nat} (size : 0 < n ∧ pa % 128 + n ≤ 128) (home : LocalKey pa) : frames pa (n + 1) n = [(pa, n)] := by
  obtain ⟨hn, hl⟩ := size
  have window : inWindow pa = false := by
    rw [localKey_iff] at home
    simp only [inWindow, Bool.and_eq_false_iff, decide_eq_false_iff_not]
    omega
  refine frames_eq_singleton hn ?_
  rw [stretch, window, if_neg (by decide)]
  omega

/-- The source's table decides on an access of local memory. -/
theorem admits_local {s : State} {src : Source} {t pa n : Nat} (size : 0 < n ∧ pa % 128 + n ≤ 128) (home : LocalKey pa)
    (ht : TableOf src t) (w : Bool) : s.dev.admits src pa n w = s.dev.grants t pa (if w then .store else .load) := by
  unfold Device.admits
  rw [sourceTable_of_tableOf ht, frames_of_line size home]
  rcases home with home | home <;> cases ht <;> simp [home]

/-- Its bytes are one piece at their home. -/
theorem homePieces_local (d : Device) {pa n : Nat} (size : 0 < n ∧ pa % 128 + n ≤ 128) (home : LocalKey pa) :
    d.homePieces pa n = some [(pa, n)] := by
  have own : d.homeOf pa = pa := by rcases home with home | home <;> simp [Device.homeOf, home]
  rw [Device.homePieces, frames_of_line size home, List.flatMap_singleton, own, linePieces_eq_singleton size.1 size.2]
  rcases home with home | home <;> simp [home]

theorem reachPieces_local (s : State) {pa n : Nat} (home : LocalKey pa) : s.reachPieces [(pa, n)] = (true, s) := by
  rcases home with home | home <;> simp [State.reachPieces, State.reaches, home]

/-- What a write to local memory comes to, by what the table and the copy engines have to say. -/
theorem inbound_write {s : State} {src : Source} {t pa n : Nat} {bs : List Byte} (some_ : bs ≠ [])
    (size : 0 < bs.length ∧ pa % 128 + bs.length ≤ 128) (home : LocalKey pa) (ht : TableOf src t) : s.inbound src pa n bs =
      if !s.dev.grants t pa .store then some s
      else if s.dev.owned pa then none else some (s.putMem (sourceAgent src) pa bs) := by
  have w : (bs != []) = true := by simpa using some_
  unfold State.inbound
  simp only [w, if_true, admits_local size home ht, homePieces_local s.dev size home, reachPieces_local s home,
    List.any_cons, List.any_nil, Bool.or_false, State.putPieces, List.take_length, State.refuse]
  rcases home with home | home <;> simp only [home]

/-- What a read of local memory comes to. -/
theorem inbound_read {s : State} {src : Source} {t pa n : Nat} (size : 0 < n ∧ pa % 128 + n ≤ 128) (home : LocalKey pa)
    (ht : TableOf src t) : s.inbound src pa n [] =
      if !s.dev.grants t pa .load then some (s.answer src (List.replicate n 0xFF))
      else if s.dev.owned pa then none
      else if s.dev.bad pa n then some (s.answer src (List.replicate n 0xFF)) else some (s.answer src (s.readHome pa n)) := by
  unfold State.inbound
  simp only [bne_self_eq_false, Bool.false_eq_true, if_false, admits_local size home ht, homePieces_local s.dev size home,
    reachPieces_local s home, List.any_cons, List.any_nil, Bool.or_false, List.flatMap_singleton, State.refuse]
  rcases home with home | home <;> simp only [home]

theorem exec_inboundAccess (src : Source) (pa n : Nat) (bs : List Byte) (s : State) :
    exec (.inboundAccess src pa n bs) s = .next ((s.inbound src pa n bs).getD { s with retry := true }) := rfl

/-- A write that the source's table grants is performed at its home. -/
theorem leaves_inWrite {s : State} {src : Source} {pa n : Nat} {bs : List Byte} (ok : InboundOk s src pa bs.length .store)
    (canonical : s.dev.mem.wf = true ∧ s.dev.writeWatch = []) :
    Leaves s (.inboundAccess src pa n bs) fun u => Performed (sourceAgent src) s u pa bs := by
  obtain ⟨size, home, ⟨t, ht, granted⟩, free⟩ := ok
  have some_ : bs ≠ [] := List.ne_nil_of_length_pos size.1
  refine ⟨_, performed_putMem canonical _ _ _, ?_⟩
  rw [exec_inboundAccess, inbound_write some_ size home ht, granted, free]
  rfl

theorem leaves_inWriteRefused {s : State} {src : Source} {pa n t : Nat} {bs : List Byte}
    (size : bs ≠ [] ∧ pa % 128 + bs.length ≤ 128) (home : LocalKey pa) (ht : TableOf src t)
    (no : s.dev.grants t pa .store = false) : Leaves s (.inboundAccess src pa n bs) (· = s) := by
  refine ⟨_, rfl, ?_⟩
  rw [exec_inboundAccess, inbound_write size.1 ⟨List.length_pos_of_ne_nil size.1, size.2⟩ home ht, no]
  rfl

/-- A read that the source's table grants is answered with the bytes as they stand. -/
theorem leaves_inRead {s : State} {src : Source} {pa n : Nat} {bs : List Byte} (ok : InboundOk s src pa n .load)
    (intact : s.dev.bad pa n = false) (hb : bs.length = n ∧ ∀ j < n, (bs[j]?).getD 0 = s.dev.mem.get (pa + j)) :
    Leaves s (.inboundAccess src pa n []) (· = { s with dev := { s.dev with reply := some (src, bs) } }) := by
  obtain ⟨size, home, ⟨t, ht, granted⟩, free⟩ := ok
  have bytes : s.readHome pa n = bs := by
    rw [readHome_of_local home]
    apply List.ext_getElem?
    intro j
    rcases lt_or_ge j n with hj | hj
    · have := hb.2 j hj
      rw [List.getElem?_eq_getElem (hb.1 ▸ hj), Option.getD_some] at this
      rw [Memory.getBytes_get _ _ _ _ hj, List.getElem?_eq_getElem (hb.1 ▸ hj), this]
    · rw [List.getElem?_eq_none (by rwa [Memory.getBytes_length]), List.getElem?_eq_none (hb.1 ▸ hj)]
  refine ⟨_, rfl, ?_⟩
  rw [exec_inboundAccess, inbound_read size home ht, granted, free, intact, bytes]
  rfl

theorem leaves_inReadRefused {s : State} {src : Source} {pa n t : Nat} (size : 0 < n ∧ pa % 128 + n ≤ 128)
    (home : LocalKey pa) (ht : TableOf src t) (no : s.dev.grants t pa .load = false) :
    Leaves s (.inboundAccess src pa n [])
      (· = { s with dev := { s.dev with reply := some (src, List.replicate n 0xFF) } }) := by
  refine ⟨_, rfl, ?_⟩
  rw [exec_inboundAccess, inbound_read size home ht, no]
  rfl

theorem regionOf_register {off : Nat} (h : off < 0x10000000000) : regionOf (0xE000000000000 + off) = .regs off := by
  unfold regionOf drBase
  simp (disch := omega) only [if_neg, if_pos, Nat.add_sub_cancel_left]

/-- The bytes of a number, one by one. -/
theorem toBytes_eq_map : ∀ n w : Nat, toBytes n w = (List.range n).map fun j => BitVec.ofNat 8 (w / 256 ^ j)
  | 0, _ => rfl
  | n + 1, w => by
    rw [toBytes, toBytes_eq_map n, List.range_succ_eq_map, List.map_cons, List.map_map]
    refine congrArg₂ _ (by simp) (List.map_congr_left fun j _ => ?_)
    simp only [Function.comp_apply, Nat.succ_eq_add_one, pow_succ', Nat.div_div_eq_div_mul]

/-- A physical function reads a register (R359). -/
theorem leaves_inRegister {s : State} {p off : Nat} (hoff : off % 8 = 0 ∧ off + 8 ≤ 0x10000000000)
    (up : s.dev.hosts.fail = false) : Leaves s (.inboundAccess (.pf p) (0xE000000000000 + off) 8 [])
      (· = { s with dev := { s.dev with reply := some (.pf p,
        (List.range 8).map fun j => BitVec.ofNat 8 (s.readReg off / 256 ^ j)) } }) := by
  have place := regionOf_register (show off < 0x10000000000 by omega)
  have admitted : s.dev.admits (.pf p) (0xE000000000000 + off) 8 false = true := by
    unfold Device.admits
    rw [place]
    rfl
  have takes : ¬(8 ≠ 8 ∨ off % 8 ≠ 0 ∨ s.dev.hosts.fail = true ∧ 0x1000 ≤ off) := by
    rw [up]
    simp [hoff.1]
  refine ⟨_, rfl, ?_⟩
  rw [exec_inboundAccess]
  unfold State.inbound
  have read : s.inboundReg (.pf p) off 8 [] = s.answer (.pf p) (toBytes 8 (s.readReg off)) := by
    unfold State.inboundReg
    rw [if_neg takes]
    rfl
  simp only [bne_self_eq_false, Bool.false_eq_true, if_false, admitted, Bool.not_true, place, read, toBytes_eq_map 8]
  rfl

end Sys2Proof.Machine
end

section
/-! Every event that comes from outside (R91, R300, R301, R350, R352, R357-R363). -/

namespace Sys2Proof.Machine

open Sys2Proof.Claims

theorem leaves_of_hostEvent {s : State} {i : Instr} {P : State → Prop} (h : HostEvent s i P) : Leaves s i P := by
  cases h with
  -- HSEM, and writes of another than its holder
  | semGrant p v hp hv free => exact leaves_semGrant hp hv free
  | semRelease p v hp hv mine =>
    exact ⟨_, rfl, (exec_hsemWrite hp v s).trans (by rw [withHosts, writeSem_release hv mine]; rfl)⟩
  | semIgnored p v hp h => exact ⟨_, rfl, (exec_hsemWrite hp v s).trans (by rw [withHosts, writeSem_ignored h]; rfl)⟩
  | linkDown p => exact leaves_linkDown s p
  | denied _ p q hi v hp hq other up form => exact leaves_denied hp hq other up form
  -- queue registers
  | cfgLow src q v dies hd hq mine up =>
    exact leaves_queueWord mine up (w := 0) hq (by decide) rfl (exec_qcfgWrite hq ..) rfl (hd ▸ writeCfg_low _ v) (num_queue ..)
  | cfgHigh src q v hq mine up =>
    exact leaves_queueWord mine up (w := 1) hq (by decide) rfl (exec_qcfgWrite hq ..) rfl (writeCfg_high _ v) (num_queue ..)
  | stateLow src q v hq mine up =>
    exact leaves_queueWord mine up (w := 2) hq (by decide) (by simp) (exec_qstateWrite hq ..)
      (congrArg some (by simp; omega)) rfl (num_queue ..)
  | stateHigh src q v hq mine up =>
    exact leaves_queueWord mine up (w := 3) hq (by decide) (by simp) (exec_qstateWrite hq ..)
      (congrArg some (by simp; omega)) (writeState_high _ v) ((tailWritten_num ..).trans (num_queue ..))
  -- tenant pages and TIERCFG
  | tail t q v ht hq up => exact leaves_tail ht hq up
  | rhead t v ht up => exact leaves_rhead ht up
  | tierLow src t v ht mine up => exact leaves_tier false ht mine up rfl (writeTier_low _ v) (num_tenant ..)
  | tierHigh src t v ht mine up => exact leaves_tier true ht mine up rfl (writeTier_high _ v) (num_tenant ..)
  -- the domain and the mailbox
  | domainOn p v hp mine hv => exact leaves_domainOn hp mine hv
  | domainOff p v hp mine hv => exact leaves_domainOff hp mine hv
  | peerCheck d on_ hd other => exact leaves_peerCheck on_ hd other
  | peerSame d unique on_ hd same => exact leaves_peerSame on_ hd same
  | mailboxArg p k v hp mine => exact leaves_mailboxArg k v hp mine
  -- write-watch and trace settings
  | watch die n i v w w' hn open_ old new =>
    have place : w'.die = w.die ∧ w'.idx = w.idx := by
      rcases new with ⟨-, rfl⟩ | ⟨-, rfl⟩ | ⟨-, -, rfl⟩ <;> exact ⟨rfl, rfl⟩
    exact leaves_watch hn open_ old (writeWord_eq new) place
  | trace die base size harts v open_ place apart => exact leaves_trace open_ (traceOk_of_place place apart)
  | taken die v f open_ hf => exact leaves_taken open_ hf
  -- accesses that come in
  | inWrite src pa n bs ok canonical => exact leaves_inWrite ok canonical
  | inRead src pa n bs ok intact hb => exact leaves_inRead ok intact hb
  | inWriteRefused src pa n t bs size home ht no => exact leaves_inWriteRefused size home ht no
  | inReadRefused src pa n t size home ht no => exact leaves_inReadRefused size home ht no
  | inRegister p off hoff up => exact leaves_inRegister hoff up

/-- Settles O41, by the events: each reaches its register or its home (`leaves_of_hostEvent`), and a register write meets the
harts that monitor its line. -/
theorem hostEvents : Obligations.HostEvents := fun _ _ _ => leaves_of_hostEvent

end Sys2Proof.Machine
end

section
/-! A machine in which nothing monitors, watches or fails (R264, R297, R340): a write leaves its bytes only, and the engine's
table and the record's header change together (R89). -/

namespace Sys2Proof.Machine

open Sys2Proof.Claims

/-! ### Writes of a calm machine -/

/-- The machine with other memory contents, CRs, TLB entries and marks of R65: all that PARK-major forms change of it. -/
def State.keeping (s : State) (m : Memory) (cs : List Cr) (es : List TlbEntry) (f : List Nat) : State :=
  { s with dev := { s.dev with mem := m, crs := cs, tlb := es, kvForeign := f } }

theorem keeping_rest (s : State) (m : Memory) (cs : List Cr) (es : List TlbEntry) (f : List Nat) : s.keeping m cs es f =
    { s with dev := { s.dev with
      mem := (s.keeping m cs es f).dev.mem
      crs := (s.keeping m cs es f).dev.crs
      tlb := (s.keeping m cs es f).dev.tlb
      kvForeign := (s.keeping m cs es f).dev.kvForeign } } := rfl

section
variable (s : State) (m m' : Memory) (cs cs' : List Cr) (es es' : List TlbEntry) (f f' : List Nat)

@[simp] theorem keeping_h : (s.keeping m cs es f).h = s.h := rfl
@[simp] theorem keeping_mem : (s.keeping m cs es f).dev.mem = m := rfl
@[simp] theorem keeping_crs : (s.keeping m cs es f).dev.crs = cs := rfl
@[simp] theorem keeping_tlb : (s.keeping m cs es f).dev.tlb = es := rfl
@[simp] theorem keeping_keeping : (s.keeping m cs es f).keeping m' cs' es' f' = s.keeping m' cs' es' f' := rfl
@[simp] theorem recordAt_keeping (c : Nat) : recordAt (s.keeping m cs es f) c = recordAt s c := rfl
@[simp] theorem homes_keeping (j : Nat) : homes (s.keeping m cs es f) j = m.get j := rfl
end

/-- A change that leaves the TLBs as they are. -/
theorem keeping_rest_tlb (s : State) (m : Memory) (cs : List Cr) (f : List Nat) : s.keeping m cs s.dev.tlb f =
    { s with dev := { s.dev with
      mem := (s.keeping m cs s.dev.tlb f).dev.mem
      crs := (s.keeping m cs s.dev.tlb f).dev.crs
      kvForeign := (s.keeping m cs s.dev.tlb f).dev.kvForeign } } := rfl

theorem noted_of_calm {h : Hart} (hh : h.sy.mon = none ∧ ∀ e ∈ h.ms.bound, e.elems = []) (a : Agent) (k n : Nat) :
    noted a k n h = h := by
  have unbound : h.ms.bound.map (fun e => { e with elems := e.elems.map (BoundElem.noteLater k n) }) = h.ms.bound := by
    refine (List.map_congr_left fun e he => ?_).trans (List.map_id _)
    rw [hh.2 e he, List.map_nil, ← hh.2 e he]
    rfl
  have later : h.noteLater a k n = h := by
    unfold Hart.noteLater Hart.noteAll
    split
    · rfl
    · rw [unbound]
  rw [noted, later, evented, hh.1, if_neg nofun]

/-- In a calm machine a write leaves its bytes, and what the model notes of metadata lines. -/
theorem putMem_calm {s : State} (c : Calm s) (a : Agent) (k : Nat) (bs : List Byte) :
    ∃ f, s.putMem a k bs = s.keeping (s.dev.mem.setBytes k bs) s.dev.crs s.dev.tlb f := by
  obtain ⟨⟨harts, watch⟩, errs, -⟩ := c
  have front : noted a k bs.length s.h = s.h := noted_of_calm (harts _ List.mem_cons_self) ..
  have others : s.others.map (noted a k bs.length) = s.others :=
    (List.map_congr_left fun h hh => noted_of_calm (harts h (List.mem_cons_of_mem _ hh)) ..).trans (List.map_id _)
  have records : (s.dev.clearErr k bs.length).errs = s.dev.errs := by rw [Device.clearErr, if_pos errs]
  rw [State.putMem_eq watch, Device.written_eq, front, others, records]
  exact ⟨_, rfl⟩

theorem calm_keeping {s : State} (c : Calm s) {m : Memory} (hm : m.wf = true) (cs : List Cr) (es : List TlbEntry) (f : List Nat) :
    Calm (s.keeping m cs es f) := ⟨c.1, c.2.1, hm⟩

/-! ### Numbers in memory -/

theorem getBytes_congr {m m' : Memory} {k n : Nat} (h : ∀ j < n, m'.get (k + j) = m.get (k + j)) :
    m'.getBytes k n = m.getBytes k n := by
  apply List.ext_getElem?
  intro j
  rcases lt_or_ge j n with hj | hj
  · rw [Memory.getBytes_get _ _ _ _ hj, Memory.getBytes_get _ _ _ _ hj, h j hj]
  · rw [List.getElem?_eq_none (by rwa [Memory.getBytes_length]), List.getElem?_eq_none (by rwa [Memory.getBytes_length])]

/-- A number in memory depends on its bytes. -/
theorem getNat_congr {m m' : Memory} {k n : Nat} (h : ∀ j < n, m'.get (k + j) = m.get (k + j)) : m'.getNat k n = m.getNat k n := by
  rw [Memory.getNat, getBytes_congr h, Memory.getNat]

/-- Bytes that have been written read back. -/
theorem getBytes_setBytes {m : Memory} (hm : m.wf = true) (k : Nat) (bs : List Byte) :
    (m.setBytes k bs).getBytes k bs.length = bs := by
  apply List.ext_getElem?
  intro j
  rcases lt_or_ge j bs.length with hj | hj
  · rw [Memory.getBytes_get _ _ _ _ hj, Memory.get_setBytes bs hm, if_pos (by omega), Nat.add_sub_cancel_left,
      List.getElem?_eq_getElem hj, Option.getD_some]
  · rw [List.getElem?_eq_none (by rwa [Memory.getBytes_length]), List.getElem?_eq_none hj]

/-- A number that has been written reads back. -/
theorem getNat_setBytes_same {m : Memory} (hm : m.wf = true) (k n : Nat) {x : Nat} (hx : x < 256 ^ n) :
    (m.setBytes k (toBytes n x)).getNat k n = x := by
  have h := getBytes_setBytes hm k (toBytes n x)
  rw [toBytes_length] at h
  rw [Memory.getNat, h, ofBytes_toBytes, Nat.mod_eq_of_lt hx]

theorem get_setBytes_apart {m : Memory} (hm : m.wf = true) {k j : Nat} {bs : List Byte} (h : ¬(k ≤ j ∧ j < k + bs.length)) :
    (m.setBytes k bs).get j = m.get j := by
  rw [Memory.get_setBytes bs hm, if_neg h]

/-- A number beside what has been written. -/
theorem getNat_setBytes_apart {m : Memory} (hm : m.wf = true) {k l n : Nat} {bs : List Byte}
    (h : l + n ≤ k ∨ k + bs.length ≤ l) : (m.setBytes k bs).getNat l n = m.getNat l n :=
  getNat_congr fun j hj => get_setBytes_apart hm (by omega)

theorem getNat_lt (m : Memory) (k n : Nat) : m.getNat k n < 256 ^ n := by
  have h := ofBytes_lt (m.getBytes k n)
  rwa [Memory.getBytes_length, pow_mul] at h

/-! ### Records (R89) -/

theorem putBits_lt {x lo w y m : Nat} (hx : x < 2 ^ m) (h : lo + w ≤ m) : putBits x lo w y < 2 ^ m := by
  apply Nat.lt_pow_two_of_testBit
  intro i hi
  rw [testBit_putBits, if_neg (by omega)]
  exact Nat.testBit_lt_two_pow (hx.trans_le (Nat.pow_le_pow_right (by decide) hi))

theorem putBits_eq_withField : putBits = withField := rfl

/-- The header that the engine writes is the one of R89. -/
theorem header_eq (y : Cr) (old : Nat) : y.header old = headerOf old y y.st.code := by
  rw [headerOf, ← putBits_eq_withField, List.foldl_cons, List.foldl_cons, List.foldl_cons, List.foldl_cons, List.foldl_cons,
    List.foldl_cons, List.foldl_cons, List.foldl_cons, List.foldl_nil, Cr.header]

theorem header_lt (y : Cr) {old : Nat} (h : old < 256 ^ 64) : y.header old < 256 ^ 64 := by
  have size : 256 ^ 64 = 2 ^ 512 := by rw [show 256 = 2 ^ 8 from rfl, ← pow_mul]
  rw [size] at h ⊢
  unfold Cr.header
  iterate 8 refine putBits_lt ?_ (by decide)
  exact h

theorem slotState_code (st : CrState) : SlotState st st.code := by
  cases st
  exacts [.free, .open', .parked, .waking, .launched, .failed]

/-- The table's entry goes into the header of its record. -/
theorem putCr_calm {s : State} (c : Calm s) (y : Cr) : ∃ f, s.putCr y = s.keeping (s.dev.mem.setBytes (recordAt s y.slot)
    (toBytes 64 (headerOf (s.dev.mem.getNat (recordAt s y.slot) 64) y y.st.code))) (putBy (·.slot == y.slot) y s.dev.crs)
    s.dev.tlb f := by
  rw [← header_eq, State.putCr, setCr_eq]
  exact putMem_calm (s := s.keeping s.dev.mem (putBy (·.slot == y.slot) y s.dev.crs) s.dev.tlb s.dev.kvForeign)
    (calm_keeping c c.2.2 ..) peatAgent (recordAt s y.slot) _

theorem slotIs_keeping (s : State) (m : Memory) (y : Cr) (es : List TlbEntry) (f : List Nat) :
    SlotIs s (s.keeping m (putBy (·.slot == y.slot) y s.dev.crs) es f) y := by
  have found : ∀ n, (s.keeping m (putBy (·.slot == y.slot) y s.dev.crs) es f).dev.cr n = if n = y.slot then y else s.dev.cr n := by
    intro n
    rw [← cr_setCr, setCr_eq]
    rfl
  exact ⟨(found _).trans (if_pos rfl), fun c hc => (found c).trans (if_neg hc)⟩

/-- A number that has been written over a header reads back. -/
theorem numAt_keeping_same {s : State} (c : Calm s) (k n : Nat) {w : Nat} (hw : w < 256 ^ n) (cs : List Cr) (es : List TlbEntry)
    (f : List Nat) : numAt (homes (s.keeping (s.dev.mem.setBytes k (toBytes n w)) cs es f)) k n = w :=
  (numAt_homes ..).trans (getNat_setBytes_same c.2.2 k n hw)

theorem homes_keeping_apart {s : State} (c : Calm s) {k n j : Nat} (w : Nat) (cs : List Cr) (es : List TlbEntry) (f : List Nat)
    (h : ¬(k ≤ j ∧ j < k + n)) : homes (s.keeping (s.dev.mem.setBytes k (toBytes n w)) cs es f) j = homes s j :=
  get_setBytes_apart c.2.2 (by rwa [toBytes_length])

/-- A change of the engine's table goes into the header, and nothing else changes. -/
theorem slotChanged_putCr {s : State} (c : Calm s) (y : Cr) : SlotChanged s (s.putCr y) y := by
  obtain ⟨f, hf⟩ := putCr_calm c y
  have new := header_lt y (getNat_lt s.dev.mem (recordAt s y.slot) 64)
  rw [header_eq] at new
  rw [hf]
  generalize hw : headerOf (s.dev.mem.getNat (recordAt s y.slot) 64) y y.st.code = w at new
  refine ⟨slotIs_keeping .., ⟨_, slotState_code y.st, ?_⟩, fun j hj => homes_keeping_apart c w _ _ _ hj, keeping_rest_tlb ..⟩
  rw [numAt_keeping_same c _ 64 new, numAt_homes, hw]

/-! ### The slots of a tenant (R88, R101) -/

theorem slotOf_iff {s : State} {c : Nat} : s.dev.slotOf s.h.id.tenant c = true ↔ MySlot s c := by
  simp [Device.slotOf, MySlot]

theorem slotNamed_mine {s : State} {c : Nat} (h : MySlot s c) : s.slotNamed c = some c := if_pos (slotOf_iff.mpr h)

theorem slotNamed_other {s : State} {c : Nat} (h : ¬MySlot s c) : s.slotNamed c = none := if_neg (mt slotOf_iff.mp h)

/-- The slots in the order of the groups. -/
def Tenant.rawSlots (t : Tenant) : List Nat := (t.crGroups.filter (· < 4096)).flatMap fun g => (List.range 16).map fun i => 16 * g + i

theorem mem_rawSlots (t : Tenant) (c : Nat) : c ∈ t.rawSlots ↔ c < 65536 ∧ c / 16 ∈ t.crGroups := by
  simp only [Tenant.rawSlots, List.mem_flatMap, List.mem_filter, decide_eq_true_eq, List.mem_map, List.mem_range]
  constructor
  · rintro ⟨g, ⟨hg, lt⟩, i, hi, rfl⟩
    rw [show (16 * g + i) / 16 = g by omega]
    exact ⟨by omega, hg⟩
  · rintro ⟨lt, hc⟩
    exact ⟨c / 16, ⟨hc, by omega⟩, c % 16, by omega, by omega⟩

/-- The model sorts by insertion. -/
theorem slots_eq (t : Tenant) : t.slots = t.rawSlots.foldl (fun l x => l.orderedInsert (· ≤ ·) x) [] := by
  have insert : (fun (l : List Nat) x => l.takeWhile (· < x) ++ x :: l.dropWhile (· < x)) = fun l x => l.orderedInsert (· ≤ ·) x := by
    funext l x
    rw [List.orderedInsert_eq_take_drop]
    simp only [not_le]
  rw [← insert]
  rfl

theorem foldl_orderedInsert (l : List Nat) : ∀ acc : List Nat, acc.Pairwise (· ≤ ·) →
    (l.foldl (fun l x => l.orderedInsert (· ≤ ·) x) acc).Pairwise (· ≤ ·) ∧
    ∀ c, c ∈ l.foldl (fun l x => l.orderedInsert (· ≤ ·) x) acc ↔ c ∈ l ∨ c ∈ acc := by
  induction l with
  | nil => exact fun acc h => ⟨h, by simp⟩
  | cons x l ih =>
    intro acc h
    obtain ⟨sorted, mem⟩ := ih _ (h.orderedInsert x acc)
    refine ⟨sorted, fun c => ?_⟩
    rw [List.foldl_cons, mem, List.mem_orderedInsert, List.mem_cons]
    tauto

theorem slots_sorted (t : Tenant) : t.slots.Pairwise (· ≤ ·) := slots_eq t ▸ (foldl_orderedInsert _ [] .nil).1

theorem mem_slots {s : State} {c : Nat} : c ∈ (s.dev.tenant s.h.id.tenant).slots ↔ MySlot s c := by
  rw [slots_eq, (foldl_orderedInsert _ [] .nil).2, mem_rawSlots]
  simp [MySlot]

/-- What is found first in a sorted list is the lowest. -/
theorem le_of_find?_sorted {p : Nat → Bool} {l : List Nat} (sorted : l.Pairwise (· ≤ ·)) {b c : Nat}
    (h : l.find? p = some c) (hb : b ∈ l) (pb : p b = true) : c ≤ b := by
  obtain ⟨-, as, bs, rfl, before⟩ := List.find?_eq_some_iff_append.mp h
  rw [List.pairwise_append, List.pairwise_cons] at sorted
  rcases List.mem_append.mp hb with hb | hb
  · exact absurd pb (by simpa using before b hb)
  · rcases List.mem_cons.mp hb with rfl | hb
    · exact Nat.le_refl _
    · exact sorted.2.1.1 b hb

/-- The lowest free slot of the hart's tenant is found (R102). -/
theorem find?_slots_lowest {s : State} {c : Nat} (mine : MySlot s c) (free : (s.dev.cr c).st = .free)
    (lowest : ∀ b, b < c → MySlot s b → (s.dev.cr b).st ≠ .free) :
    ((s.dev.tenant s.h.id.tenant).slots.find? fun c => (s.dev.cr c).st == .free) = some c := by
  cases h : (s.dev.tenant s.h.id.tenant).slots.find? fun c => (s.dev.cr c).st == .free with
  | none => exact absurd (List.find?_eq_none.mp h c (mem_slots.mpr mine)) (by simp [free])
  | some b =>
    have le := le_of_find?_sorted (slots_sorted _) h (mem_slots.mpr mine) (by simp [free])
    have its : (s.dev.cr b).st = .free := by simpa using List.find?_some h
    have own : MySlot s b := mem_slots.mp (List.mem_of_find?_eq_some h)
    exact congrArg some (Nat.le_antisymm le (Nat.le_of_not_lt fun lt => lowest b lt own its))

theorem find?_slots_none {s : State} (no : ∀ c, MySlot s c → (s.dev.cr c).st ≠ .free) :
    ((s.dev.tenant s.h.id.tenant).slots.find? fun c => (s.dev.cr c).st == .free) = none :=
  List.find?_eq_none.mpr fun c hc => by simpa using no c (mem_slots.mp hc)

end Sys2Proof.Machine
end

section
/-! CRGET and CRFREE, and PARK where it is refused (R92, R101, R102). -/

namespace Sys2Proof.Machine

open Sys2Proof.Claims

/-! ### How a form completes -/

theorem run_visibleStores {s : State} (v : Visible s) : visibleStores.run s = (.ok (), s) :=
  run_releaseWait_of_empty v.2.1 v.2.2 4

/-- A form that writes its destination and retires completes. -/
theorem completes {s u : State} {i : Instr} {d : Reg} {v : Word} {P : State → Prop} {m : M Unit} (e : exec i s = runM m s)
    (run : m.run s = (.ok (), (u.setX d v).advance 4)) (front : u.h = s.h) (p : P u) :
    ∃ u t, P u ∧ exec i s = .next t ∧ Done s (u.setX d v) t 4 := by
  refine ⟨u, _, p, e.trans (runM_ok run), done_advance (by decide) ?_ ?_⟩
  · rw [State.setX_h, Hart.setX_pc, front]
  · rw [State.setX_h, Hart.setX_lp, front]

theorem state_ite_not {s : State} {c : Nat} (h : (s.dev.cr c).st ∈ [.free, .waking, .launched]) :
    ¬((s.dev.cr c).st = .open ∨ (s.dev.cr c).st = .parked ∨ (s.dev.cr c).st = .failed) := by
  simp only [List.mem_cons, List.not_mem_nil, or_false] at h
  rcases h with h | h | h <;> rw [h] <;> decide

/-! ### CRFREE -/

section
variable {s : State} (v : Visible s) (d a : Reg)
include v

theorem run_crFree_invalid (no : ¬MySlot s (s.getX a).toNat) : (crFree d a).run s = (.ok (), (s.setX d 1).advance 4) := by
  unfold crFree
  rw [run_bind_ok (run_noStrip v.1), run_bind_ok (run_visibleStores v), run_bind_ok (run_get s)]
  simp only [slotNamed_other no]
  rfl

theorem run_crFree_state (mine : MySlot s (s.getX a).toNat) (no : (s.dev.cr (s.getX a).toNat).st ∈ [.free, .waking, .launched]) :
    (crFree d a).run s = (.ok (), (s.setX d 2).advance 4) := by
  unfold crFree
  rw [run_bind_ok (run_noStrip v.1), run_bind_ok (run_visibleStores v), run_bind_ok (run_get s)]
  simp only [slotNamed_mine mine, if_neg (state_ite_not no)]
  rfl

theorem run_crFree (mine : MySlot s (s.getX a).toNat) (st : (s.dev.cr (s.getX a).toNat).st ∈ [.open, .parked, .failed]) :
    (crFree d a).run s = (.ok (), ((s.putCr { s.dev.cr (s.getX a).toNat with
      st := .free, thbm := none, tcxl := none, overflow := false, pass := none }).setX d 0).advance 4) := by
  unfold crFree
  rw [run_bind_ok (run_noStrip v.1), run_bind_ok (run_visibleStores v), run_bind_ok (run_get s)]
  have ready : (s.dev.cr (s.getX a).toNat).st = .open ∨ (s.dev.cr (s.getX a).toNat).st = .parked ∨
    (s.dev.cr (s.getX a).toNat).st = .failed := by simpa using st
  simp only [slotNamed_mine mine, if_pos ready]
  rfl

/-! ### PARK refused -/

theorem run_parkSlot_invalid (no : ¬MySlot s (s.getX a).toNat) : (parkSlot d a).run s = (.ok (), (s.setX d 1).advance 4) := by
  unfold parkSlot
  rw [run_bind_ok (run_noStrip v.1), run_bind_ok (run_visibleStores v), run_bind_ok (run_get s)]
  simp only [slotNamed_other no]
  rfl

theorem run_parkSlot_state (mine : MySlot s (s.getX a).toNat) (no : (s.dev.cr (s.getX a).toNat).st ≠ .open) :
    (parkSlot d a).run s = (.ok (), (s.setX d 2).advance 4) := by
  unfold parkSlot
  rw [run_bind_ok (run_noStrip v.1), run_bind_ok (run_visibleStores v), run_bind_ok (run_get s)]
  simp only [slotNamed_mine mine, if_pos no]
  rfl

theorem run_parkSlot_bad (mine : MySlot s (s.getX a).toNat) (st : (s.dev.cr (s.getX a).toNat).st = .open)
    (bad : s.crBad (s.getX a).toNat = true) : (parkSlot d a).run s = (.ok (), (s.setX d 3).advance 4) := by
  unfold parkSlot
  rw [run_bind_ok (run_noStrip v.1), run_bind_ok (run_visibleStores v), run_bind_ok (run_get s)]
  simp only [slotNamed_mine mine, if_neg (not_not.mpr st), if_pos bad]
  rfl

end

/-! ### What PARK checks of a record -/

/-- A field of a number in memory that fills bytes is the number in these bytes. -/
theorem bits_getNat (m : Memory) (k o n r : Nat) : bits (m.getNat k (o + n + r)) (8 * o) (8 * n) = m.getNat (k + o) n := by
  have low := getNat_lt m k o
  have mid := getNat_lt m (k + o) n
  rw [Nat.add_assoc, Memory.getNat_add, Memory.getNat_add, bits, pow_mul, pow_mul, show 2 ^ 8 = 256 from rfl,
    Nat.add_mul_div_left _ _ (by positivity), Nat.div_eq_of_lt low, Nat.zero_add, Nat.add_mul_mod_self_left, Nat.mod_eq_of_lt mid]

theorem bits_crHeader (s : State) (c o n r : Nat) (h : o + n + r = 64) :
    bits (s.crHeader c) (8 * o) (8 * n) = numAt (homes s) (recordAt s c + o) n := by
  rw [State.crHeader, ← h, bits_getNat, numAt_homes]
  rfl

theorem crHeader_eq (s : State) (c : Nat) : s.crHeader c = numAt (homes s) (recordAt s c) 64 := (numAt_homes ..).symm

/-- NRANGES (R89). -/
theorem bits_crHeader_count (s : State) (c : Nat) : bits (s.crHeader c) 224 8 = numAt (homes s) (recordAt s c + 28) 1 :=
  bits_crHeader s c 28 1 35 rfl

theorem bits_crHeader_cookie (s : State) (c : Nat) : bits (s.crHeader c) 0 64 = numAt (homes s) (recordAt s c) 8 :=
  bits_crHeader s c 0 8 56 rfl

/-- QUEUE (R89). -/
theorem bits_crHeader_queue (s : State) (c : Nat) : bits (s.crHeader c) 208 8 = numAt (homes s) (recordAt s c + 26) 1 :=
  bits_crHeader s c 26 1 37 rfl

/-- A field is 0 where none of its bits is set. -/
theorem bits_ne_zero_iff (x lo n : Nat) : bits x lo n ≠ 0 ↔ ∃ i, lo ≤ i ∧ i < lo + n ∧ x.testBit i = true := by
  constructor
  · intro h
    obtain ⟨i, hi⟩ := Nat.exists_testBit_of_ne_zero h
    rw [testBit_bits, Bool.and_eq_true, decide_eq_true_eq] at hi
    exact ⟨lo + i, by omega, by omega, hi.2⟩
  · rintro ⟨i, hl, hu, hi⟩ h
    have zero := testBit_bits x lo n (i - lo)
    rw [h, Nat.zero_testBit, Nat.add_sub_cancel' hl, hi, decide_eq_true (by omega)] at zero
    exact absurd zero (by decide)

theorem mem_crRanges {s : State} {c e : Nat} (few : numAt (homes s) (recordAt s c + 28) 1 ≤ 248) : e ∈ s.crRanges c ↔
    ∃ j < numAt (homes s) (recordAt s c + 28) 1, e = numAt (homes s) (recordAt s c + 128 + 16 * j) 16 := by
  rw [State.crRanges, bits_crHeader_count, Nat.min_eq_left few, List.mem_map]
  constructor
  · rintro ⟨j, hj, he⟩
    exact ⟨j, List.mem_range.mp hj, he.symm.trans (numAt_homes ..).symm⟩
  · rintro ⟨j, hj, he⟩
    exact ⟨j, List.mem_range.mpr hj, (numAt_homes ..).symm.trans he.symm⟩

/-- A bad range entry. -/
def BadRange (e : Nat) : Prop :=
  (∃ i, (i < 16 ∨ 52 ≤ i ∧ i < 64 ∨ 96 ≤ i ∧ i < 112 ∨ 124 ≤ i ∧ i < 128) ∧ e.testBit i = true) ∨ e / 2 ^ 64 % 2 ^ 32 = 0 ∨
    2 ^ 36 < e / 2 ^ 16 % 2 ^ 36 + e / 2 ^ 64 % 2 ^ 32

theorem badRange_iff (e : Nat) : (bits e 124 4 ≠ 0 ∨ bits e 96 16 ≠ 0 ∨ bits e 52 12 ≠ 0 ∨ bits e 0 16 ≠ 0) ∨ bits e 64 32 = 0 ∨
    2 ^ 36 < bits e 16 36 + bits e 64 32 ↔ BadRange e := by
  refine or_congr ?_ Iff.rfl
  simp only [bits_ne_zero_iff]
  constructor
  · rintro (⟨i, h⟩ | ⟨i, h⟩ | ⟨i, h⟩ | ⟨i, h⟩) <;> exact ⟨i, by omega, h.2.2⟩
  · rintro ⟨i, h | h | h | h, hi⟩
    · exact .inr (.inr (.inr ⟨i, by omega, by omega, hi⟩))
    · exact .inr (.inr (.inl ⟨i, by omega, by omega, hi⟩))
    · exact .inr (.inl ⟨i, by omega, by omega, hi⟩)
    · exact .inl ⟨i, by omega, by omega, hi⟩

/-- PARK's check is R102's. -/
theorem crBad_iff (s : State) (c : Nat) : s.crBad c = true ↔ BadRecord s c := by
  have fields : s.crBad c = true ↔ bits (s.crHeader c) 0 64 = 0 ∨ 248 < bits (s.crHeader c) 224 8 ∨
      (bits (s.crHeader c) 64 128 ≠ 0 ∨ bits (s.crHeader c) 202 6 ≠ 0 ∨ bits (s.crHeader c) 237 3 ≠ 0 ∨
        bits (s.crHeader c) 372 12 ≠ 0) ∨ ∃ e ∈ s.crRanges c, BadRange e := by
    simp only [State.crBad, Bool.or_eq_true, beq_iff_eq, bne_iff_ne, decide_eq_true_eq, List.any_eq_true, ← badRange_iff, or_assoc]
  rw [fields, bits_crHeader_count, bits_crHeader_cookie]
  simp only [bits_ne_zero_iff, crHeader_eq]
  constructor
  · rintro (h | h | (⟨i, h⟩ | ⟨i, h⟩ | ⟨i, h⟩ | ⟨i, h⟩) | ⟨e, he, h⟩)
    · exact .cookie h
    · exact .count h
    · exact .reserved i (by omega) h.2.2
    · exact .reserved i (by omega) h.2.2
    · exact .reserved i (by omega) h.2.2
    · exact .reserved i (by omega) h.2.2
    · by_cases few : numAt (homes s) (recordAt s c + 28) 1 ≤ 248
      · obtain ⟨j, hj, hj'⟩ := (mem_crRanges few).mp he
        exact .range j e hj hj' h
      · exact .count (Nat.lt_of_not_le few)
  · rintro (h | h | ⟨i, hi, h⟩ | ⟨j, e, hj, he, h⟩)
    · exact .inl h
    · exact .inr (.inl h)
    · refine .inr (.inr (.inl ?_))
      rcases hi with hi | hi | hi | hi
      · exact .inl ⟨i, by omega, by omega, h⟩
      · exact .inr (.inl ⟨i, by omega, by omega, h⟩)
      · exact .inr (.inr (.inl ⟨i, by omega, by omega, h⟩))
      · exact .inr (.inr (.inr ⟨i, by omega, by omega, h⟩))
    · by_cases few : numAt (homes s) (recordAt s c + 28) 1 ≤ 248
      · exact .inr (.inr (.inr ⟨e, (mem_crRanges few).mpr ⟨j, hj, he⟩, h⟩))
      · exact .inr (.inl (Nat.lt_of_not_le few))

/-! ### CRGET -/

/-- The header of a slot just taken: state 1 at byte 24, all else 0. -/
theorem headerOf_taken (c : Nat) : headerOf 0 { slot := c, tenant := 0, st := .open } CrState.open.code = 256 ^ 24 := by
  have zero : ∀ o n, withField 0 o n 0 = 0 := fun o n => by simp [withField]
  have last : withField 0 192 8 1 = 2 ^ 192 := by simp [withField]
  have root : (0 : BitVec 52).toNat = 0 := rfl
  have asid : (0 : BitVec 16).toNat = 0 := rfl
  simp only [headerOf, List.foldl_cons, List.foldl_nil, CrState.code, root, asid, zero, last]
  rw [show 256 = 2 ^ 8 from rfl, ← pow_mul]

theorem toBytes_taken : ∀ i < 64, ((toBytes 64 (256 ^ 24))[i]?).getD 0 = if i = 24 then 1 else 0 := by decide

theorem getNat_zeros {m : Memory} (hm : m.wf = true) (k : Nat) : (m.setBytes k (List.replicate 128 0)).getNat k 64 = 0 := by
  have bytes : (m.setBytes k (List.replicate 128 0)).getBytes k 64 = List.replicate 64 0 := by
    apply List.ext_getElem?
    intro j
    rcases lt_or_ge j 64 with hj | hj
    · rw [Memory.getBytes_get _ _ _ _ hj, Memory.get_setBytes _ hm, if_pos (by rw [List.length_replicate]; omega),
        Nat.add_sub_cancel_left, List.getElem?_getD_replicate_default_eq, List.getElem?_replicate_of_lt hj]
    · rw [List.getElem?_eq_none (by rwa [Memory.getBytes_length]), List.getElem?_eq_none (by rwa [List.length_replicate])]
  rw [Memory.getNat, bytes]
  rfl

/-- The machine after CRGET has taken a slot. -/
def State.taken (s : State) (c : Nat) : State :=
  (s.putMem peatAgent (s.dev.crAddr c) (List.replicate 128 0)).putCr { slot := c, tenant := 0, st := .open }

theorem crAddr_eq (s : State) (c : Nat) : s.dev.crAddr c = recordAt s c := rfl

theorem taken_eq {s : State} (calm : Calm s) (c : Nat) : ∃ f, s.taken c =
    s.keeping ((s.dev.mem.setBytes (recordAt s c) (List.replicate 128 0)).setBytes (recordAt s c) (toBytes 64 (256 ^ 24)))
      (putBy (·.slot == Cr.slot { slot := c, tenant := 0, st := .open }) { slot := c, tenant := 0, st := .open } s.dev.crs)
      s.dev.tlb f := by
  obtain ⟨f, hf⟩ := putMem_calm calm peatAgent (recordAt s c) (List.replicate 128 0)
  have calm' : Calm (s.keeping (s.dev.mem.setBytes (recordAt s c) (List.replicate 128 0)) s.dev.crs s.dev.tlb f) :=
    calm_keeping calm (Memory.setBytes_wf _ calm.2.2) ..
  obtain ⟨g, hg⟩ := putCr_calm calm' { slot := c, tenant := 0, st := .open }
  rw [keeping_keeping, recordAt_keeping, keeping_mem, keeping_crs, keeping_tlb, getNat_zeros calm.2.2, headerOf_taken] at hg
  exact ⟨g, by rw [State.taken, crAddr_eq, hf, hg]⟩

theorem run_crGet {s : State} (v : Visible s) (d : Reg) {c : Nat} (mine : MySlot s c) (free : (s.dev.cr c).st = .free)
    (lowest : ∀ b, b < c → MySlot s b → (s.dev.cr b).st ≠ .free) :
    (crGet d).run s = (.ok (), ((s.taken c).setX d (BitVec.ofNat 64 c)).advance 4) := by
  unfold crGet
  rw [run_bind_ok (run_noStrip v.1), run_bind_ok (run_visibleStores v), run_bind_ok (run_get s)]
  simp only [find?_slots_lowest mine free lowest]
  rfl

theorem run_crGet_none {s : State} (v : Visible s) (d : Reg) (no : ∀ c, MySlot s c → (s.dev.cr c).st ≠ .free) :
    (crGet d).run s = (.ok (), (s.setX d 0x8000000000000000).advance 4) := by
  unfold crGet
  rw [run_bind_ok (run_noStrip v.1), run_bind_ok (run_visibleStores v), run_bind_ok (run_get s)]
  simp only [find?_slots_none no]
  rfl

theorem homes_taken {s : State} (calm : Calm s) {c : Nat} (cs : List Cr) (es : List TlbEntry) (f : List Nat) (j : Nat) :
    homes (s.keeping ((s.dev.mem.setBytes (recordAt s c) (List.replicate 128 0)).setBytes (recordAt s c)
      (toBytes 64 (256 ^ 24))) cs es f) j =
      if recordAt s c ≤ j ∧ j < recordAt s c + 128 then (if j = recordAt s c + 24 then 1 else 0) else homes s j := by
  have wf : (s.dev.mem.setBytes (recordAt s c) (List.replicate 128 0)).wf = true := Memory.setBytes_wf _ calm.2.2
  rw [homes_keeping, Memory.get_setBytes _ wf, Memory.get_setBytes _ calm.2.2, toBytes_length, List.length_replicate,
    List.getElem?_getD_replicate_default_eq]
  by_cases header : recordAt s c ≤ j ∧ j < recordAt s c + 64
  · rw [if_pos header, if_pos (by omega), toBytes_taken _ (by omega)]
    exact if_congr (by omega) rfl rfl
  · rw [if_neg header]
    refine if_congr Iff.rfl ?_ rfl
    rw [if_neg (by omega)]

end Sys2Proof.Machine
end

section
/-! Walks while A is cleared in leaves (R51, R56, R93): a leaf keeps its place and, but for A, its value. -/

namespace Sys2Proof.Machine

open Sys2Proof.Claims

/-! ### Entries with A cleared -/

theorem bits_cleared (p : Nat) {lo n : Nat} (h : lo + n ≤ 6 ∨ 7 ≤ lo) : bits (withField p 6 1 0) lo n = bits p lo n :=
  putBits_eq_withField ▸ bits_putBits_apart p 0 h

theorem cleared_mod_four (p : Nat) : withField p 6 1 0 % 4 = p % 4 := by
  have low := bits_cleared p (lo := 0) (n := 2) (.inl (by decide))
  rwa [bits, bits, pow_zero, Nat.div_one, Nat.div_one] at low

theorem cleared_cleared (p : Nat) : withField (withField p 6 1 0) 6 1 0 = withField p 6 1 0 := by
  simp only [withField]
  omega

/-- An entry as it stands later: as it was, or a leaf with A cleared. -/
def Faded (p q : Nat) : Prop := q = p ∨ 2 ≤ p % 4 ∧ q = withField p 6 1 0

theorem Faded.bits {p q : Nat} (h : Faded p q) {lo n : Nat} (apart : lo + n ≤ 6 ∨ 7 ≤ lo) : bits q lo n = bits p lo n := by
  rcases h with rfl | ⟨-, rfl⟩
  · rfl
  · exact bits_cleared p apart

theorem Faded.mod_four {p q : Nat} (h : Faded p q) : q % 4 = p % 4 := by
  rcases h with rfl | ⟨-, rfl⟩
  · rfl
  · exact cleared_mod_four p

theorem Faded.eq_of_table {p q : Nat} (h : Faded p q) (table : p % 4 < 2) : q = p := by
  rcases h with h | ⟨leaf, -⟩
  · exact h
  · exact absurd table (by omega)

theorem Faded.malformed {p q : Nat} (h : Faded p q) : malformed q = malformed p := by
  by_cases table : p % 4 < 2
  · rw [h.eq_of_table table]
  · have leaf : p % 4 = 2 ∨ p % 4 = 3 := by omega
    unfold Machine.malformed
    rw [h.mod_four]
    rcases leaf with e | e <;> rw [e] <;> simp (disch := omega) only [h.bits]

theorem Faded.tierOf {p q : Nat} (h : Faded p q) : tierOf q = tierOf p := by
  rw [Machine.tierOf, Machine.tierOf, h.mod_four, h.bits (by decide)]

theorem Faded.movable {p q : Nat} (h : Faded p q) (d : Device) : d.movable q = d.movable p := by
  rw [Device.movable, Device.movable, h.mod_four, h.tierOf, h.bits (by decide), h.bits (by decide), h.bits (by decide)]

/-! ### Entries as the walker reads them -/

/-- What the walker reads at a location. -/
def State.entryAt (s : State) (k : Nat) : Nat :=
  match regionOf k with
  | .regs off => s.readReg off
  | .wake _ => 0
  | _ => s.dev.mem.getNat k 8

/-- Why the walker gets no entry at an address. -/
def State.refusal (s : State) (t pa : Nat) : Option Cause :=
  if !s.dev.grants t pa .load then some .extent
  else if s.dev.bad (s.dev.homeOf pa) 8 then some .mcheck
  else match regionOf (s.dev.homeOf pa) with
    | .domain n => if s.dev.peerUp n then none else some .mcheck
    | _ => none

theorem readPte_of_refusal {s : State} {t pa : Nat} {c : Cause} (h : s.refusal t pa = some c) :
    s.readPte t pa = .error (.cause c) := by
  unfold State.refusal at h
  unfold State.readPte
  dsimp only
  split at h
  · next grants => cases h; exact if_pos grants
  · next grants =>
    rw [if_neg grants]
    split at h
    · next bad => cases h; exact if_pos bad
    · next bad =>
      rw [if_neg bad]
      split at h
      · next n region =>
        rw [region]
        split at h
        · cases h
        · next down => cases h; exact if_neg down
      · cases h

theorem readPte_of_no_refusal {s : State} {t pa : Nat} (h : s.refusal t pa = none) :
    s.readPte t pa = .ok (s.entryAt (s.dev.homeOf pa)) := by
  unfold State.refusal at h
  unfold State.readPte State.entryAt
  dsimp only
  split at h
  · cases h
  · next grants =>
    rw [if_neg grants]
    split at h
    · cases h
    · next bad =>
      rw [if_neg bad]
      split at h
      · next n region =>
        rw [region]
        split at h
        · next up => exact if_pos up
        · cases h
      · next region =>
        cases e : regionOf (s.dev.homeOf pa) with
        | domain n => exact absurd e (region n)
        | hbm | cxl | bank | flash | hole | regs _ | wake _ => rfl

theorem readPte_eq_entryAt {s : State} {t pa p : Nat} (h : s.readPte t pa = .ok p) : p = s.entryAt (s.dev.homeOf pa) := by
  cases e : s.refusal t pa with
  | some c => rw [readPte_of_refusal e] at h; cases h
  | none => rw [readPte_of_no_refusal e] at h; cases h; rfl

theorem homeOf_mod_eight (d : Device) {pa : Nat} (h : pa % 8 = 0) : d.homeOf pa % 8 = 0 := by
  unfold Device.homeOf
  split
  · split <;> omega
  · exact h

/-- Results of two walks: the same error, or results in a relation. -/
inductive Alike {α : Type} (R : α → α → Prop) : Except WalkErr α → Except WalkErr α → Prop where
  | error (e : WalkErr) : Alike R (.error e) (.error e)
  | ok {a b : α} : R a b → Alike R (.ok a) (.ok b)

/-- The entries of a memory are those of the machine, some leaves with A cleared. -/
def Fades (s : State) (m : Memory) : Prop :=
  ∀ k es f, k % 8 = 0 → Faded (s.entryAt k) ((s.keeping m s.dev.crs es f).entryAt k)

theorem readReg_keeping (s : State) (m : Memory) (es : List TlbEntry) (f : List Nat) (off : Nat) :
    (s.keeping m s.dev.crs es f).readReg off = s.readReg off := rfl

/-! ### Walks -/

section
variable {s : State} {m : Memory} (h : Fades s m) (es : List TlbEntry) (f : List Nat) (t : Nat)
include h

theorem readPte_alike {pa : Nat} (al : pa % 8 = 0) :
    Alike Faded (s.readPte t pa) ((s.keeping m s.dev.crs es f).readPte t pa) := by
  have same : (s.keeping m s.dev.crs es f).refusal t pa = s.refusal t pa := rfl
  cases e : s.refusal t pa with
  | some c =>
    rw [readPte_of_refusal e, readPte_of_refusal (same.trans e)]
    exact .error _
  | none =>
    rw [readPte_of_no_refusal e, readPte_of_no_refusal (same.trans e)]
    exact .ok (h _ es f (homeOf_mod_eight _ al))

/-- A leaf as it is found later. -/
def SameLeaf (l l' : Leaf) : Prop := l'.ptea = l.ptea ∧ Faded l.pte l'.pte

theorem leafAt_alike {base idx lvl p q : Nat} (al : base % 8 = 0) (hp : Faded p q) :
    Alike SameLeaf (s.leafAt t base idx lvl p) ((s.keeping m s.dev.crs es f).leafAt t base idx lvl q) := by
  unfold State.leafAt
  rw [hp.bits (by decide)]
  dsimp only
  split
  · exact .error _
  · split
    · exact .ok ⟨rfl, hp⟩
    · have first := readPte_alike h es f t
        (pa := base + idx / (if bits p 8 2 = 1 then 32 else 4) * (if bits p 8 2 = 1 then 32 else 4) * 8) (by omega)
      revert first
      generalize s.readPte t _ = x
      generalize (s.keeping m s.dev.crs es f).readPte t _ = y
      rintro (e | hf)
      · exact .error _
      · dsimp only
        rw [hf.bits (by decide), hf.mod_four, hf.malformed]
        split
        · exact .error _
        · exact .ok ⟨rfl, hf⟩

theorem walkFrom_alike (va : Nat) : ∀ (n : Nat) {base : Nat}, base % 8 = 0 →
    Alike SameLeaf (s.walkFrom t va base n) ((s.keeping m s.dev.crs es f).walkFrom t va base n) := by
  intro n
  induction n with
  | zero => exact fun _ => .error _
  | succ n ih =>
    intro base al
    have entry := readPte_alike h es f t (pa := base + bits va (16 + 12 * n) 12 * 8) (by omega)
    unfold State.walkFrom
    dsimp only
    revert entry
    generalize s.readPte t _ = x
    generalize (s.keeping m s.dev.crs es f).readPte t _ = y
    rintro (e | hp)
    · exact .error _
    · dsimp only
      rw [hp.mod_four, hp.malformed]
      split
      · exact .error _
      · split
        · next table =>
          split
          · exact .error _
          · rw [hp.eq_of_table (by omega)]
            exact ih (by omega)
        · exact leafAt_alike h es f t al hp
end

/-- What holds of every leaf that a walk finds. -/
structure LeafOf (s : State) (l : Leaf) : Prop where
  leaf : 2 ≤ l.pte % 4
  aligned : l.ptea % 8 = 0
  stands : l.pte = s.entryAt l.ptea

theorem leafOf_leafAt {s : State} {t base idx lvl p : Nat} {l : Leaf} (al : base % 8 = 0) (hp : 2 ≤ p % 4)
    (read : s.readPte t (base + idx * 8) = .ok p) (h : s.leafAt t base idx lvl p = .ok l) : LeafOf s l := by
  unfold State.leafAt at h
  dsimp only at h
  split at h
  · cases h
  · split at h
    · cases h
      exact ⟨hp, homeOf_mod_eight _ (by omega), readPte_eq_entryAt read⟩
    · split at h
      · cases h
      · next first hf =>
        split at h
        · cases h
        · next ok =>
          cases h
          have leaf : 2 ≤ first % 4 := by omega
          exact ⟨leaf, homeOf_mod_eight _ (by omega), readPte_eq_entryAt hf⟩

theorem leafOf_walkFrom {s : State} {t va : Nat} {l : Leaf} : ∀ (n : Nat) {base : Nat}, base % 8 = 0 →
    s.walkFrom t va base n = .ok l → LeafOf s l := by
  intro n
  induction n with
  | zero => exact fun _ h => nomatch h
  | succ n ih =>
    intro base al h
    unfold State.walkFrom at h
    dsimp only at h
    split at h
    · cases h
    · next p read =>
      split at h
      · cases h
      · next ok =>
        split at h
        · split at h
          · cases h
          · exact ih (by omega) h
        · exact leafOf_leafAt al (by omega) read h

end Sys2Proof.Machine
end

section
/-! The pages that a record lists, their leaves and their tiers (R89, R90, R104), and the clearing of A in them (R92). -/

namespace Sys2Proof.Machine

open Sys2Proof.Claims

/-! ### Leaves of listed pages -/

theorem crLeaf_eq_some {s : State} {y : Cr} {va : Nat} {l : Leaf} : s.crLeaf y va = some l ↔ va < 2 ^ 52 ∧ inWindow va = false ∧
    s.walkFrom y.tenant va (y.root.toNat / 2 ^ 15 * 2 ^ 15) 3 = .ok l ∧ s.dev.movable l.pte = true := by
  unfold State.crLeaf
  by_cases outside : va / 2 ^ 52 ≠ 0 ∨ inWindow va = true
  · rw [if_pos outside]
    refine ⟨nofun, fun ⟨low, plain, _⟩ => ?_⟩
    rcases outside with h | h
    · exact absurd (Nat.div_eq_of_lt low) h
    · rw [plain] at h; cases h
  · rw [if_neg outside]
    rw [not_or, not_not, Nat.div_eq_zero_iff_lt (by positivity), Bool.not_eq_true] at outside
    cases walk : s.walkFrom y.tenant va (y.root.toNat / 2 ^ 15 * 2 ^ 15) 3 with
    | error e => exact ⟨nofun, fun ⟨_, _, h, _⟩ => nomatch h⟩
    | ok k =>
      dsimp only
      split
      · next mv => simp only [outside, Option.some.injEq, Except.ok.injEq, true_and]; exact ⟨fun e => ⟨e, e ▸ mv⟩, fun e => e.1⟩
      · next mv => exact ⟨nofun, fun ⟨_, _, h, ok⟩ => absurd ((Except.ok.inj h) ▸ ok) mv⟩

theorem leafOf_crLeaf {s : State} {y : Cr} {va : Nat} {l : Leaf} (h : s.crLeaf y va = some l) : LeafOf s l :=
  leafOf_walkFrom 3 (by omega) (crLeaf_eq_some.mp h).2.2.1

/-- While A fades, the page's leaf keeps its place. -/
theorem crLeaf_keeping {s : State} {m : Memory} (h : Fades s m) (es : List TlbEntry) (f : List Nat) (y : Cr) (va : Nat) :
    Option.Rel SameLeaf (s.crLeaf y va) ((s.keeping m s.dev.crs es f).crLeaf y va) := by
  unfold State.crLeaf
  by_cases outside : va / 2 ^ 52 ≠ 0 ∨ inWindow va = true
  · rw [if_pos outside, if_pos outside]
    exact .none
  · rw [if_neg outside, if_neg outside]
    have walk := walkFrom_alike h es f y.tenant va 3 (base := y.root.toNat / 2 ^ 15 * 2 ^ 15) (by omega)
    revert walk
    generalize s.walkFrom y.tenant va _ 3 = a
    generalize (s.keeping m s.dev.crs es f).walkFrom y.tenant va _ 3 = b
    rintro (e | ⟨place, value⟩)
    · exact .none
    · next l l' =>
      have mv : (s.keeping m s.dev.crs es f).dev.movable l'.pte = s.dev.movable l.pte := value.movable _
      dsimp only
      rw [mv]
      split
      · exact .some ⟨place, value⟩
      · exact .none

/-! ### Tiers -/

theorem tierOf_of {p n : Nat} (h : TierOf p n) : tierOf p = n := by
  cases h with
  | hbm leaf region => rw [tierOf, if_neg (by omega)]; simp only [bits, frameSize, region]
  | cxl leaf region => rw [tierOf, if_neg (by omega)]; simp only [bits, frameSize, region]
  | flash leaf => rw [tierOf, if_pos leaf]

/-- A leaf's tier is the one of R104, if it is in one. -/
theorem tierOf_iff {p n : Nat} (leaf : 2 ≤ p % 4) : TierOf p n ↔ tierOf p = n ∧ n ≠ 3 := by
  constructor
  · intro h
    refine ⟨tierOf_of h, ?_⟩
    cases h <;> decide
  · rintro ⟨rfl, three⟩
    unfold tierOf at *
    split
    · next h => exact .flash p h
    · next h =>
      rw [if_neg h] at three
      have two : p % 4 = 2 := by omega
      cases region : regionOf (bits p 16 36 * frameSize) with
      | hbm => exact .hbm p two region
      | cxl => exact .cxl p two region
      | bank | flash | hole | regs _ | wake _ | domain _ => rw [region] at three; exact absurd rfl three

theorem movable_iff {s : State} {p : Nat} (leaf : 2 ≤ p % 4) : s.dev.movable p = true ↔ Movable s p := by
  have tier : (∃ n, TierOf p n) ↔ tierOf p ≠ 3 :=
    ⟨fun ⟨n, h⟩ => by obtain ⟨e, ne⟩ := (tierOf_iff leaf).mp h; rwa [e], fun h => ⟨_, (tierOf_iff leaf).mpr ⟨rfl, h⟩⟩⟩
  simp only [Device.movable, Movable, tier, bits, Bool.and_eq_true, beq_iff_eq, bne_iff_ne, Bool.not_eq_true', Bool.and_eq_false_iff,
    beq_eq_false_iff_ne, not_and_or, Bool.not_eq_true, and_assoc, ne_eq,
    Nat.reducePow]

/-! ### Listed pages -/

/-- An address of a page that a record's ranges name. -/
def Named (s : State) (c va : Nat) : Prop := ∃ e ∈ s.crRanges c, ∃ p < bits e 64 32, va = (bits e 16 36 + p) * frameSize

theorem listed_iff {s : State} {c va : Nat} {l : Leaf} {y : Cr} (few : numAt (homes s) (recordAt s c + 28) 1 ≤ 248) :
    Listed s c y.tenant y.root va l ↔ Named s c va ∧ s.crLeaf y va = some l := by
  have named : (∃ j p e, j < numAt (homes s) (recordAt s c + 28) 1 ∧ e = numAt (homes s) (recordAt s c + 128 + 16 * j) 16 ∧
      p < e / 2 ^ 64 % 2 ^ 32 ∧ va = (e / 2 ^ 16 % 2 ^ 36 + p) * 0x10000) ↔ Named s c va := by
    constructor
    · rintro ⟨j, p, e, hj, he, hp, hva⟩
      exact ⟨e, (mem_crRanges few).mpr ⟨j, hj, he⟩, p, hp, hva⟩
    · rintro ⟨e, he, p, hp, hva⟩
      obtain ⟨j, hj, hj'⟩ := (mem_crRanges few).mp he
      exact ⟨j, p, e, hj, hj', hp, hva⟩
  rw [Listed, named, crLeaf_eq_some]
  refine and_congr_right fun _ => and_congr_right fun _ => and_congr_right fun _ => and_congr_right fun walk => ?_
  exact (movable_iff (leafOf_walkFrom 3 (by omega) walk).leaf).symm

theorem mem_crListed {s : State} {y : Cr} {x : Nat × Nat × Nat} (h : x ∈ s.crListed y) :
    Named s y.slot x.2.2 ∧ ∃ l, s.crLeaf y x.2.2 = some l ∧ l.ptea = x.1 := by
  simp only [State.crListed, List.mem_flatMap, List.mem_filterMap, List.mem_range, Option.map_eq_some_iff] at h
  obtain ⟨e, he, p, hp, l, hl, rfl⟩ := h
  exact ⟨⟨e, he, p, hp, rfl⟩, l, hl, rfl⟩

theorem crListed_of_named {s : State} {y : Cr} {va : Nat} {l : Leaf} (named : Named s y.slot va) (h : s.crLeaf y va = some l) :
    ∃ x ∈ s.crListed y, x.1 = l.ptea := by
  obtain ⟨e, he, p, hp, rfl⟩ := named
  refine ⟨(l.ptea, bits e 112 12, (bits e 16 36 + p) * frameSize), ?_, rfl⟩
  simp only [State.crListed, List.mem_flatMap, List.mem_filterMap, List.mem_range, Option.map_eq_some_iff]
  exact ⟨e, he, p, hp, l, h, rfl⟩

/-- `eachLeaf` keeps members, and of each leaf one. -/
theorem eachLeaf_foldl (l : List (Nat × Nat × Nat)) : ∀ acc,
    (∀ x ∈ l.foldl (fun acc x => if acc.any (·.1 == x.1) then acc else acc ++ [x]) acc, x ∈ l ∨ x ∈ acc) ∧
    ∀ x, x ∈ l ∨ x ∈ acc → ∃ y ∈ l.foldl (fun acc x => if acc.any (·.1 == x.1) then acc else acc ++ [x]) acc, y.1 = x.1 := by
  induction l with
  | nil => exact fun acc => ⟨fun x h => .inr h, fun x h => ⟨x, h.resolve_left List.not_mem_nil, rfl⟩⟩
  | cons z l ih =>
    intro acc
    obtain ⟨only, each⟩ := ih (if acc.any (·.1 == z.1) then acc else acc ++ [z])
    refine ⟨fun x hx => ?_, fun x hx => ?_⟩
    · rcases only x hx with h | h
      · exact .inl (List.mem_cons_of_mem _ h)
      · split at h
        · exact .inr h
        · rcases List.mem_append.mp h with h | h
          · exact .inr h
          · exact .inl (List.mem_singleton.mp h ▸ List.mem_cons_self)
    · have kept : ∀ x ∈ acc, x ∈ if acc.any (·.1 == z.1) then acc else acc ++ [z] := fun x hx => by
        split
        · exact hx
        · exact List.mem_append_left _ hx
      rcases hx with hx | hx
      · rcases List.mem_cons.mp hx with rfl | hx
        · by_cases seen : acc.any (·.1 == x.1) = true
          · obtain ⟨y, hy, same⟩ := List.any_eq_true.mp seen
            obtain ⟨w, hw, e⟩ := each y (.inr (kept y hy))
            exact ⟨w, hw, e.trans (beq_iff_eq.mp same)⟩
          · refine each x (.inr ?_)
            rw [if_neg seen]
            exact List.mem_append_right _ List.mem_cons_self
        · exact each x (.inl hx)
      · exact each x (.inr (kept x hx))

/-- Each page of a CR has a leaf that the engine moves. -/
theorem crLeaf_of_page {s : State} {y : Cr} {p : Nat × Nat} (h : p ∈ s.crPages y) :
    Named s y.slot p.2 ∧ ∃ l, s.crLeaf y p.2 = some l := by
  obtain ⟨x, hx, rfl⟩ := List.mem_map.mp h
  obtain ⟨named, l, hl, -⟩ := mem_crListed (((eachLeaf_foldl (s.crListed y) []).1 x hx).resolve_right List.not_mem_nil)
  exact ⟨named, l, hl⟩

/-- Each leaf that the record lists is the one of a page of the CR. -/
theorem page_of_crLeaf {s : State} {y : Cr} {va : Nat} {l : Leaf} (named : Named s y.slot va) (h : s.crLeaf y va = some l) :
    ∃ p ∈ s.crPages y, s.crLeaf y p.2 = some l := by
  obtain ⟨x, hx, hp⟩ := crListed_of_named named h
  obtain ⟨z, hz, same⟩ := (eachLeaf_foldl (s.crListed y) []).2 x (.inl hx)
  obtain ⟨-, k, hk, hkp⟩ := mem_crListed (((eachLeaf_foldl (s.crListed y) []).1 z hz).resolve_right List.not_mem_nil)
  have place : k.ptea = l.ptea := hkp.trans (same.trans hp)
  have value : k.pte = l.pte := by rw [(leafOf_crLeaf hk).stands, place, ← (leafOf_crLeaf h).stands]
  have leaf : k = l := by
    cases k; cases l
    exact congrArg₂ Leaf.mk value place
  exact ⟨_, List.mem_map.mpr ⟨z, hz, rfl⟩, leaf ▸ hk⟩

/-- TIER is the highest tier of a page (R89). -/
theorem le_crTier {s : State} {y : Cr} {p : Nat × Nat} {l : Leaf} (hp : p ∈ y.pages) (h : s.crLeaf y p.2 = some l) :
    tierOf l.pte ≤ s.crTier y := by
  have grows : ∀ (ps : List (Nat × Nat)) (n : Nat),
      n ≤ ps.foldl (fun n p => match s.crLeaf y p.2 with | some l => max n (tierOf l.pte) | none => n) n := by
    intro ps
    induction ps with
    | nil => exact fun n => Nat.le_refl n
    | cons q ps ih =>
      intro n
      refine Nat.le_trans ?_ (ih _)
      dsimp only
      split
      · exact Nat.le_max_left ..
      · exact Nat.le_refl n
  unfold State.crTier
  obtain ⟨as, bs, e⟩ := List.append_of_mem hp
  rw [e, List.foldl_append, List.foldl_cons, h]
  exact Nat.le_trans (Nat.le_max_right ..) (grows ..)

theorem crTier_attained (s : State) (y : Cr) :
    s.crTier y = 0 ∨ ∃ p ∈ y.pages, ∃ l, s.crLeaf y p.2 = some l ∧ tierOf l.pte = s.crTier y := by
  unfold State.crTier
  refine List.foldlRecOn y.pages _ (motive := fun n => n = 0 ∨ ∃ p ∈ y.pages, ∃ l, s.crLeaf y p.2 = some l ∧ tierOf l.pte = n)
    (.inl rfl) fun n hn p hp => ?_
  split
  · next l hl =>
    rcases Nat.le_total n (tierOf l.pte) with le | le
    · exact .inr ⟨p, hp, l, hl, (Nat.max_eq_right le).symm⟩
    · rwa [Nat.max_eq_left le]
  · exact hn

/-- TIER does not depend on A. -/
theorem crTier_keeping {s : State} {m : Memory} (h : Fades s m) (es : List TlbEntry) (f : List Nat) (y : Cr) :
    (s.keeping m s.dev.crs es f).crTier y = s.crTier y := by
  unfold State.crTier
  refine List.foldl_ext _ _ _ fun n p _ => ?_
  have leaf := crLeaf_keeping h es f y p.2
  revert leaf
  generalize s.crLeaf y p.2 = a
  generalize (s.keeping m s.dev.crs es f).crLeaf y p.2 = b
  rintro (same | _)
  · exact congrArg (max n) same.2.tierOf
  · rfl

end Sys2Proof.Machine
end

section
/-! PARK (R92, R102): A is cleared in the leaves of the record's pages, and the slot becomes PARKED. -/

namespace Sys2Proof.Machine

open Sys2Proof.Claims

/-! ### A cleared in several leaves -/

/-- What clearing A in the leaves at `ps` leaves of memory and TLBs. -/
structure Cleared (s : State) (ps : List Nat) (m : Memory) (es : List TlbEntry) : Prop where
  wf : m.wf = true
  word : ∀ p ∈ ps, m.getNat p 8 = withField (s.dev.mem.getNat p 8) 6 1 0
  other : ∀ j, (∀ p ∈ ps, ¬(p ≤ j ∧ j < p + 8)) → m.get j = s.dev.mem.get j
  gone : ∀ p ∈ ps, ∀ e ∈ es, e.ptea ≠ p

/-- A leaf whose bit is 0 is as if it had been cleared. -/
theorem withField_of_clear {p : Nat} (h : bits p 6 1 ≠ 1) : withField p 6 1 0 = p := by
  rw [bits] at h
  simp only [withField]
  omega

theorem cleared_lt {p n : Nat} (h : p < n) : withField p 6 1 0 < n := by
  simp only [withField]
  omega

/-- A cleared in one leaf (R93). -/
theorem clearA_calm {s : State} (calm : Calm s) (p : Nat) : ∃ m f, s.clearA p =
    s.keeping m s.dev.crs (s.dev.tlb.filter (·.ptea != p)) f ∧ Cleared s [p] m (s.dev.tlb.filter (·.ptea != p)) := by
  have gone : ∀ q ∈ [p], ∀ e ∈ s.dev.tlb.filter (·.ptea != p), e.ptea ≠ q := fun q hq e he => by
    obtain rfl := List.mem_singleton.mp hq
    simpa using (List.mem_filter.mp he).2
  by_cases set : bits (s.pteAt p) 6 1 = 1
  · obtain ⟨f, hf⟩ := putMem_calm calm peatAgent p (toBytes 8 (withField (s.pteAt p) 6 1 0))
    refine ⟨s.dev.mem.setBytes p (toBytes 8 (withField (s.pteAt p) 6 1 0)), f, ?_, Memory.setBytes_wf _ calm.2.2, ?_, ?_, gone⟩
    · unfold State.clearA State.putPte
      dsimp only
      rw [if_pos set, putBits_eq_withField, hf]
      rfl
    · intro q hq
      obtain rfl := List.mem_singleton.mp hq
      exact getNat_setBytes_same calm.2.2 _ _ (cleared_lt (getNat_lt ..))
    · intro j hj
      refine get_setBytes_apart calm.2.2 ?_
      rw [toBytes_length]
      exact hj p List.mem_cons_self
  · refine ⟨s.dev.mem, s.dev.kvForeign, ?_, calm.2.2, ?_, fun _ _ => rfl, gone⟩
    · unfold State.clearA
      dsimp only
      rw [if_neg set]
      rfl
    · intro q hq
      obtain rfl := List.mem_singleton.mp hq
      exact (withField_of_clear set).symm

theorem cleared_nil {s : State} (calm : Calm s) : Cleared s [] s.dev.mem s.dev.tlb :=
  ⟨calm.2.2, fun _ h => (nomatch h), fun _ _ => rfl, fun _ h => (nomatch h)⟩

/-- Clearing goes on with one more leaf. -/
theorem clearA_cleared {s : State} (calm : Calm s) {ps : List Nat} {m : Memory} {es : List TlbEntry} (h : Cleared s ps m es)
    (al : ∀ q ∈ ps, q % 8 = 0) {p : Nat} (hp : p % 8 = 0) (f : List Nat) : ∃ m' es' f',
    (s.keeping m s.dev.crs es f).clearA p = s.keeping m' s.dev.crs es' f' ∧ Cleared s (ps ++ [p]) m' es' := by
  obtain ⟨m', f', clear, now⟩ := clearA_calm (calm_keeping calm h.wf s.dev.crs es f) p
  refine ⟨m', _, f', clear, now.wf, fun q hq => ?_, fun j hj => ?_, fun q hq => ?_⟩
  · by_cases same : q = p
    · subst same
      rw [now.word q List.mem_cons_self, keeping_mem]
      by_cases done : q ∈ ps
      · rw [h.word q done, cleared_cleared]
      · rw [getNat_congr fun j hj => h.other (q + j) fun r hr => ?_]
        have apart : r ≠ q := fun e => done (e ▸ hr)
        have := al r hr
        omega
    · have hq' : q ∈ ps := by simpa [same] using hq
      have := al q hq'
      rw [← h.word q hq']
      exact getNat_congr fun j hj => now.other (q + j) fun r hr => by
        obtain rfl := List.mem_singleton.mp hr
        omega
  · rw [now.other j fun q hq => hj q (List.mem_append_right _ hq), keeping_mem,
      h.other j fun q hq => hj q (List.mem_append_left _ hq)]
  · intro e he
    rcases List.mem_append.mp hq with hq | hq
    · exact h.gone q hq e (List.mem_filter.mp he).1
    · exact now.gone q hq e he

/-- Where A has been cleared in leaves only, the entries have faded. -/
theorem fades_of_cleared {s : State} {ps : List Nat} {m : Memory} {es : List TlbEntry} (h : Cleared s ps m es)
    (al : ∀ q ∈ ps, q % 8 = 0) (leaf : ∀ q ∈ ps, 2 ≤ s.entryAt q % 4) : Fades s m := by
  intro k es' f hk
  have faded : 2 ≤ s.entryAt k % 4 ∨ k ∉ ps := (em (k ∈ ps)).imp_left (leaf k)
  have word : k ∉ ps → m.getNat k 8 = s.dev.mem.getNat k 8 := fun no => getNat_congr fun j hj => h.other (k + j) fun q hq => by
    have apart : q ≠ k := fun e => no (e ▸ hq)
    have := al q hq
    omega
  have stored : s.entryAt k = s.dev.mem.getNat k 8 → (s.keeping m s.dev.crs es' f).entryAt k = m.getNat k 8 →
      Faded (s.entryAt k) ((s.keeping m s.dev.crs es' f).entryAt k) := fun e e' => by
    rw [e']
    by_cases hp : k ∈ ps
    · exact .inr ⟨leaf k hp, by rw [e, h.word k hp]⟩
    · exact .inl (by rw [e, word hp])
  unfold State.entryAt at stored ⊢
  cases region : regionOf k with
  | regs off => exact .inl (readReg_keeping ..)
  | wake _ => exact .inl rfl
  | hbm | cxl | bank | flash | hole | domain _ => rw [region] at stored; exact stored rfl rfl

/-! ### The pages of a CR -/

/-- PARK's clearing of one page. -/
def State.clearPage (y : Cr) (s : State) (p : Nat × Nat) : State :=
  match s.crLeaf y p.2 with | some l => s.clearA l.ptea | none => s

/-- Places of the leaves of pages. -/
def State.places (s : State) (y : Cr) (ps : List (Nat × Nat)) : List Nat := ps.filterMap fun p => (s.crLeaf y p.2).map (·.ptea)

theorem mem_places {s : State} {y : Cr} {ps : List (Nat × Nat)} {k : Nat} : k ∈ s.places y ps ↔
    ∃ p ∈ ps, ∃ l, s.crLeaf y p.2 = some l ∧ l.ptea = k := by
  simp only [State.places, List.mem_filterMap, Option.map_eq_some_iff]

theorem leaf_of_places {s : State} {y : Cr} {ps : List (Nat × Nat)} {k : Nat} (h : k ∈ s.places y ps) :
    k % 8 = 0 ∧ 2 ≤ s.entryAt k % 4 := by
  obtain ⟨p, -, l, hl, rfl⟩ := mem_places.mp h
  have facts := leafOf_crLeaf hl
  exact ⟨facts.aligned, facts.stands ▸ facts.leaf⟩

/-- A page's leaf is cleared where it stood at first. -/
theorem clearPage_keeping {s : State} {m : Memory} (h : Fades s m) (es : List TlbEntry) (f : List Nat) (y : Cr) (p : Nat × Nat) :
    State.clearPage y (s.keeping m s.dev.crs es f) p =
      (s.places y [p]).foldl State.clearA (s.keeping m s.dev.crs es f) := by
  have leaf := crLeaf_keeping h es f y p.2
  unfold State.clearPage State.places
  rw [List.filterMap_cons, List.filterMap_nil]
  revert leaf
  generalize s.crLeaf y p.2 = a
  generalize (s.keeping m s.dev.crs es f).crLeaf y p.2 = b
  rintro (same | _)
  · exact congrArg (State.clearA _) same.1
  · rfl

theorem clearPages {s : State} (calm : Calm s) (y : Cr) (ps : List (Nat × Nat)) : ∃ m es f,
    ps.foldl (State.clearPage y) s = s.keeping m s.dev.crs es f ∧ Cleared s (s.places y ps) m es := by
  induction ps using List.reverseRecOn with
  | nil => exact ⟨s.dev.mem, s.dev.tlb, s.dev.kvForeign, rfl, cleared_nil calm⟩
  | append_singleton ps p ih =>
    obtain ⟨m, es, f, run, cleared⟩ := ih
    have al : ∀ q ∈ s.places y ps, q % 8 = 0 := fun q hq => (leaf_of_places hq).1
    have fades := fades_of_cleared cleared al fun q hq => (leaf_of_places hq).2
    have split : s.places y (ps ++ [p]) = s.places y ps ++ s.places y [p] := List.filterMap_append
    rw [List.foldl_append, List.foldl_cons, List.foldl_nil, run, clearPage_keeping fades, split]
    cases leaf : s.places y [p] with
    | nil => exact ⟨m, es, f, rfl, by rwa [List.append_nil]⟩
    | cons k rest =>
      have alone : rest = [] := by
        have length := List.length_filterMap_le (fun p => (s.crLeaf y p.2).map (·.ptea)) [p]
        change (s.places y [p]).length ≤ 1 at length
        rw [leaf, List.length_cons] at length
        exact List.eq_nil_of_length_eq_zero (by omega)
      rw [alone]
      exact clearA_cleared calm cleared al (leaf_of_places (leaf ▸ List.mem_cons_self)).1 f

/-! ### The record that PARK captures -/

section
variable (s : State) (c : Nat)

@[simp] theorem parked_slot : (s.parked c).slot = c := slot_cr ..

/-- The CR as PARK leaves it, by R92. -/
def State.parkedCr : Cr := s.armHbm { s.parked c with tier := s.crTier (s.parked c) }

@[simp] theorem parkedCr_slot : (s.parkedCr c).slot = c := parked_slot s c
@[simp] theorem parkedCr_tier : (s.parkedCr c).tier = s.crTier (s.parked c) := rfl

theorem timerDue_eq (now : Nat) (n : BitVec 32) : dueAt now n = timerDue now n := rfl

theorem armHbm_keeping (m : Memory) (es : List TlbEntry) (f : List Nat) (y : Cr) :
    (s.keeping m s.dev.crs es f).armHbm y = s.armHbm y := rfl

theorem parkSlot_eq : s.parkSlot c = State.putCr (List.foldl (State.clearPage (s.parked c)) s (s.parked c).pages)
    (State.armHbm (List.foldl (State.clearPage (s.parked c)) s (s.parked c).pages) { s.parked c with
      tier := State.crTier (List.foldl (State.clearPage (s.parked c)) s (s.parked c).pages) (s.parked c) }) := rfl
end

/-- What PARK leaves: A cleared in the listed leaves, then the table and the header. -/
theorem parkSlot_calm {s : State} (calm : Calm s) (c : Nat) : ∃ m es f, Cleared s (s.places (s.parked c) (s.parked c).pages) m es ∧
    s.parkSlot c = s.keeping (m.setBytes (recordAt s c) (toBytes 64 (headerOf (m.getNat (recordAt s c) 64) (s.parkedCr c) 2)))
      (putBy (·.slot == (s.parkedCr c).slot) (s.parkedCr c) s.dev.crs) es f := by
  obtain ⟨m, es, f, run, cleared⟩ := clearPages calm (s.parked c) (s.parked c).pages
  have fades := fades_of_cleared cleared (fun q hq => (leaf_of_places hq).1) fun q hq => (leaf_of_places hq).2
  obtain ⟨g, put⟩ := putCr_calm (calm_keeping calm cleared.wf s.dev.crs es f) (s.parkedCr c)
  have record : recordAt s (s.parkedCr c).slot = recordAt s c := by rw [parkedCr_slot]
  rw [keeping_keeping, recordAt_keeping, keeping_mem, keeping_crs, keeping_tlb, record] at put
  refine ⟨m, es, g, cleared, ?_⟩
  rw [parkSlot_eq, run, armHbm_keeping, crTier_keeping fades]
  exact put

section
variable {s : State} {c : Nat} (few : numAt (homes s) (recordAt s c + 28) 1 ≤ 248)
include few

/-- The leaves of the captured pages are those that the record lists. -/
theorem listed_parked_iff {va : Nat} {l : Leaf} : Listed s c s.h.id.tenant s.h.hr.ptroot va l ↔
    Named s c va ∧ s.crLeaf (s.parked c) va = some l := listed_iff (y := s.parked c) few

theorem listed_of_page {p : Nat × Nat} (h : p ∈ (s.parked c).pages) :
    ∃ l, s.crLeaf (s.parked c) p.2 = some l ∧ Listed s c s.h.id.tenant s.h.hr.ptroot p.2 l := by
  obtain ⟨named, l, hl⟩ := crLeaf_of_page (y := s.parked c) h
  rw [parked_slot] at named
  exact ⟨l, hl, (listed_parked_iff few).mpr ⟨named, hl⟩⟩

theorem page_of_listed {va : Nat} {l : Leaf} (h : Listed s c s.h.id.tenant s.h.hr.ptroot va l) :
    ∃ p ∈ (s.parked c).pages, s.crLeaf (s.parked c) p.2 = some l := by
  obtain ⟨named, hl⟩ := (listed_parked_iff few).mp h
  exact page_of_crLeaf (y := s.parked c) (by rwa [parked_slot]) hl

theorem place_of_listed {va : Nat} {l : Leaf} (h : Listed s c s.h.id.tenant s.h.hr.ptroot va l) :
    l.ptea ∈ s.places (s.parked c) (s.parked c).pages := by
  obtain ⟨p, hp, hl⟩ := page_of_listed few h
  exact mem_places.mpr ⟨p, hp, l, hl, rfl⟩

theorem listed_of_place {k : Nat} (h : k ∈ s.places (s.parked c) (s.parked c).pages) :
    ∃ va l, Listed s c s.h.id.tenant s.h.hr.ptroot va l ∧ l.ptea = k := by
  obtain ⟨p, hp, l, hl, rfl⟩ := mem_places.mp h
  obtain ⟨k, hk, listed⟩ := listed_of_page few hp
  obtain rfl : l = k := Option.some.inj (hl.symm.trans hk)
  exact ⟨p.2, l, listed, rfl⟩

/-- PARK's transition. -/
theorem parked_parkSlot (calm : Calm s) (apart : ∀ va l, Listed s c s.h.id.tenant s.h.hr.ptroot va l →
    l.ptea + 8 ≤ recordAt s c ∨ recordAt s c + 4096 ≤ l.ptea) : Parked s (s.parkSlot c) c := by
  obtain ⟨m, es, f, cleared, result⟩ := parkSlot_calm calm c
  have beside : ∀ k ∈ s.places (s.parked c) (s.parked c).pages, k + 8 ≤ recordAt s c ∨ recordAt s c + 4096 ≤ k := fun k hk => by
    obtain ⟨va, l, listed, rfl⟩ := listed_of_place few hk
    exact apart va l listed
  have old : m.getNat (recordAt s c) 64 = s.dev.mem.getNat (recordAt s c) 64 :=
    getNat_congr fun j hj => cleared.other _ fun p hp => by have := beside p hp; omega
  have new : headerOf (s.dev.mem.getNat (recordAt s c) 64) (s.parkedCr c) 2 < 256 ^ 64 :=
    header_eq (s.parkedCr c) _ ▸ header_lt (s.parkedCr c) (getNat_lt ..)
  have header : headerOf (numAt (homes s) (recordAt s c) 64) (s.parkedCr c) 2 =
    headerOf (s.dev.mem.getNat (recordAt s c) 64) (s.parkedCr c) 2 := by rw [numAt_homes]
  rw [old] at result
  generalize headerOf (s.dev.mem.getNat (recordAt s c) 64) (s.parkedCr c) 2 = w at result new header
  rw [result]
  refine ⟨⟨s.parkedCr c, slotIs_keeping .., parkedCr_slot s c, rfl, rfl, rfl, rfl, rfl, rfl, bits_crHeader_queue s c, timerDue_eq .., rfl, rfl,
    fun va l n listed tier => ?_, ?_, ?_⟩, fun va l listed => ⟨?_, fun e he => ?_⟩, fun j hj free => ?_, keeping_rest ..⟩
  · obtain ⟨p, hp, hl⟩ := page_of_listed few listed
    exact tierOf_of tier ▸ le_crTier hp hl
  · refine (crTier_attained s (s.parked c)).imp id fun ⟨p, hp, l, hl, tier⟩ => ?_
    obtain ⟨k, hk, listed⟩ := listed_of_page few hp
    obtain rfl : l = k := Option.some.inj (hl.symm.trans hk)
    have leaf := (leafOf_crLeaf hl).leaf
    have tiered := (crLeaf_eq_some.mp hl).2.2.2
    obtain ⟨-, -, ⟨n, hn⟩, -⟩ := (movable_iff leaf).mp tiered
    rw [parkedCr_tier, ← tier, tierOf_of hn]
    exact ⟨p.2, l, listed, hn⟩
  · rw [header, numAt_homes, keeping_mem]
    exact getNat_setBytes_same cleared.wf _ _ new
  · have away := apart va l listed
    rw [numAt_homes, numAt_homes, keeping_mem, getNat_setBytes_apart cleared.wf (by rw [toBytes_length]; omega)]
    exact cleared.word _ (place_of_listed few listed)
  · exact cleared.gone _ (place_of_listed few listed) e he
  · rw [homes_keeping, get_setBytes_apart cleared.wf (by rwa [toBytes_length])]
    refine cleared.other j fun p hp => ?_
    obtain ⟨va, l, listed, rfl⟩ := listed_of_place few hp
    exact free va l listed

/-- Nothing is left to wait for. -/
theorem parkWaits_eq_false (still : ∀ va l, Listed s c s.h.id.tenant s.h.hr.ptroot va l → l.pte % 4 = 2 →
    s.frameBusy (l.pte / 2 ^ 16 % 2 ^ 36 * 0x10000) = false) : s.parkWaits c = false := by
  unfold State.parkWaits
  refine List.any_eq_false.mpr fun p hp => ?_
  obtain ⟨l, hl, listed⟩ := listed_of_page few hp
  have idle : s.leafBusy l = false := by
    by_cases resident : l.pte % 4 = 2
    · exact Bool.and_eq_false_iff.mpr (.inr (still p.2 l listed resident))
    · exact Bool.and_eq_false_iff.mpr (.inl (beq_eq_false_iff_ne.mpr resident))
  rw [hl, Option.any_some, idle]
  exact Bool.false_ne_true

end

/-! ### The forms -/

/-- Stores that no hart still has need no performing. -/
theorem eachHart_drainQueues {s : State} (v : Visible s) (done : ∀ h ∈ s.others, h.ms.storeQ = [] ∧ h.ms.fabricQ = []) :
    s.eachHart State.drainQueues = s := by
  refine State.eachHart_of_idle fun t ht => ?_
  have empty : t.h.ms.storeQ = [] ∧ t.h.ms.fabricQ = [] := by
    rcases List.mem_cons.mp ht with e | ht
    · rw [e]; exact v.2
    · exact done _ ht
  exact State.drainQueues_of_empty empty.1 empty.2

theorem run_parkSlot {s : State} (v : Visible s) (d a : Reg) (mine : MySlot s (s.getX a).toNat)
    (st : (s.dev.cr (s.getX a).toNat).st = .open) (good : ¬s.crBad (s.getX a).toNat = true)
    (idle : s.eachHart State.drainQueues = s) (still : s.parkWaits (s.getX a).toNat = false) :
    (parkSlot d a).run s = (.ok (), ((s.parkSlot (s.getX a).toNat).setX d 0).advance 4) := by
  unfold parkSlot
  rw [run_bind_ok (run_noStrip v.1), run_bind_ok (run_visibleStores v), run_bind_ok (run_get s)]
  simp only [slotNamed_mine mine, if_neg (not_not.mpr st), if_neg good]
  have drained : (modify (State.eachHart State.drainQueues) : M Unit).run s = (.ok (), s) := by rw [run_modify, idle]
  rw [run_bind_ok drained, run_bind_ok (run_get s), if_neg (by rw [still]; exact Bool.false_ne_true)]
  rfl

theorem exec_crget (d : Reg) (s : State) : exec (.crget d) s = runM (crGet d) s := rfl
theorem exec_park (d a : Reg) (s : State) : exec (.park d a) s = runM (parkSlot d a) s := rfl
theorem exec_crfree (d a : Reg) (s : State) : exec (.crfree d a) s = runM (crFree d a) s := rfl

theorem putCr_h {s : State} (calm : Calm s) (y : Cr) : (s.putCr y).h = s.h := by
  obtain ⟨f, h⟩ := putCr_calm calm y
  rw [h, keeping_h]

/-- CRGET, PARK and CRFREE. -/
theorem slotForms : SlotForms := by
  intro s i d w P form v calm
  cases form with
  | none' d no => exact completes (exec_crget d s) (run_crGet_none v d no) rfl rfl
  | get d c mine free lowest =>
    obtain ⟨f, result⟩ := taken_eq calm c
    refine completes (u := s.taken c) (exec_crget d s) (run_crGet v d mine free lowest) (by rw [result, keeping_h]) ?_
    rw [result]
    exact ⟨slotIs_keeping .., homes_taken calm _ _ _, keeping_rest_tlb ..⟩
  | parkInvalid d a no => exact completes (exec_park d a s) (run_parkSlot_invalid v d a no) rfl rfl
  | parkState d a mine no => exact completes (exec_park d a s) (run_parkSlot_state v d a mine no) rfl rfl
  | parkBad d a mine st bad => exact completes (exec_park d a s) (run_parkSlot_bad v d a mine st ((crBad_iff ..).mpr bad)) rfl rfl
  | park d a c hc mine st good apart done still =>
    subst hc
    have few : numAt (homes s) (recordAt s (s.getX a).toNat + 28) 1 ≤ 248 := Nat.le_of_not_lt fun many => good (.count many)
    have parked := parked_parkSlot few calm apart
    refine completes (exec_park d a s) (run_parkSlot v d a mine st (mt (crBad_iff ..).mp good) (eachHart_drainQueues v done)
      (parkWaits_eq_false few still)) ?_ parked
    rw [parked.rest]
  | freeInvalid d a no => exact completes (exec_crfree d a s) (run_crFree_invalid v d a no) rfl rfl
  | freeState d a mine no => exact completes (exec_crfree d a s) (run_crFree_state v d a mine no) rfl rfl
  | free d a c hc mine st =>
    subst hc
    exact completes (exec_crfree d a s) (run_crFree v d a mine st) (putCr_h calm _) (slotChanged_putCr calm _)

end Sys2Proof.Machine
end

section
/-! PROMOTE (R99, R103), TQRY and CRQRY (R104). -/

namespace Sys2Proof.Machine

open Sys2Proof.Claims

/-! ### The predictor -/

/-- A hint makes its entry the newest, and changes the predictor and the tenant's hints only. -/
theorem hint_eq (d : Device) (h : Hart) (tag : Nat × Nat) (base len : Nat) : ∃ ps p ts,
    d.hint h tag base len = { d with predictor := ps ++ [p], tenants := ts } ∧ (d.predictor.length ≤ 4096 → ps.length < 4096) ∧
    p.tenant = h.id.tenant ∧ p.layer = tag.1 ∧ p.expert = tag.2 ∧
    (len ≠ 0 → p.base = base ∧ p.len = len ∧ p.root = h.hr.ptroot ∧ p.asid = h.hr.asid) := by
  unfold Device.hint
  dsimp only
  generalize hl : d.predictor.map _ = l
  have length : l.length = d.predictor.length := by rw [← hl, List.length_map]
  generalize hold : (l.find? _).getD _ = old
  have its : old.tenant = h.id.tenant ∧ old.layer = tag.1 ∧ old.expert = tag.2 := by
    rw [← hold]
    cases found : l.find? fun p => p.tenant == h.id.tenant && p.layer == tag.1 && p.expert == tag.2 with
    | none => exact ⟨rfl, rfl, rfl⟩
    | some p => simpa [and_assoc] using List.find?_some found
  rw [setTenant_eq]
  refine ⟨_, _, _, rfl, fun room => ?_, ?_⟩
  · have filtered := List.length_filter_le (fun p => !(p.tenant == h.id.tenant && p.layer == tag.1 && p.expert == tag.2)) l
    split
    · assumption
    · rw [List.length_drop]
      omega
  · split
    · next zero => exact ⟨its.1, its.2.1, its.2.2, fun no => absurd zero no⟩
    · exact ⟨its.1, its.2.1, its.2.2, fun _ => ⟨rfl, rfl, rfl, rfl⟩⟩

/-! ### Requests -/

/-- What stays of a page move while its region is promoted again. -/
def Move.kept (m : Move) : Nat × Nat × Nat × Nat × Option Nat × Bool × Bool :=
  (m.ptea, m.tenant, m.tier, m.dest, m.slot, m.extra, m.expert.isSome)

/-- The machine with other requests, page moves and cached pages of the expert cache. -/
def State.asking (s : State) (ps : List PromReq) (ms : List Move) (es : List ExpertPage) (n : Nat) : State :=
  { s with dev := { s.dev with proms := ps, moves := ms, experts := es, expertNo := n } }

/-- `u` is `s` but for the expert cache's requests and regions. -/
def Asked (s u : State) : Prop := ∃ ps ms es n, u = s.asking ps ms es n ∧ ms.map Move.kept = s.dev.moves.map Move.kept

theorem Asked.refl (s : State) : Asked s s := ⟨_, _, _, _, rfl, rfl⟩

theorem Asked.trans {s t u : State} (h : Asked s t) (h' : Asked t u) : Asked s u := by
  obtain ⟨ps, ms, es, n, rfl, moves⟩ := h
  obtain ⟨ps', ms', es', n', rfl, moves'⟩ := h'
  exact ⟨ps', ms', es', n', rfl, moves'.trans moves⟩

theorem Asked.foldl {α : Type} {f : State → α → State} (h : ∀ s x, Asked s (f s x)) (l : List α) : ∀ s, Asked s (l.foldl f s) := by
  induction l with
  | nil => exact Asked.refl
  | cons x l ih => exact fun s => (h s x).trans (ih _)

theorem asked_promoteAgain (s : State) (t ptea o : Nat) : Asked s { s with dev := s.dev.promoteAgain t ptea o } := by
  refine ⟨_, _, _, _, rfl, ?_⟩
  rw [List.map_map]
  refine List.map_congr_left fun m _ => ?_
  rw [Function.comp_apply]
  split
  · simp [Move.kept]
  · rfl

theorem asked_askRegion (s : State) (p : Predict) : Asked s (s.askRegion p) := by
  unfold State.askRegion
  dsimp only
  refine Asked.trans (t := { s with dev := { s.dev with expertNo := s.dev.expertNo + 1 } }) ⟨_, _, _, _, rfl, rfl⟩
    (Asked.foldl (fun u i => ?_) _ _)
  split
  · exact Asked.refl u
  · split
    · exact Asked.refl u
    · next l _ =>
      refine (asked_promoteAgain u p.tenant l.ptea (s.dev.expertNo + 1)).trans ?_
      split
      · exact ⟨_, _, _, _, rfl, rfl⟩
      · exact Asked.refl _

/-- After the hint itself PROMOTE asks for pages only. -/
theorem asked_promoteHint (s : State) (va len tagw : Nat) :
    Asked { s with dev := s.dev.hint s.h (bits tagw 0 12, bits tagw 16 12) va len } (s.promoteHint va len tagw) := by
  unfold State.promoteHint
  dsimp only
  split
  · exact Asked.refl _
  · split
    · exact Asked.refl _
    · exact Asked.foldl asked_askRegion _ _

theorem promoteHint_zero (s : State) (va tagw : Nat) :
    s.promoteHint va 0 tagw = { s with dev := s.dev.hint s.h (bits tagw 0 12, bits tagw 16 12) va 0 } := by
  unfold State.promoteHint
  exact if_pos rfl

/-! ### Causes of walks -/

theorem refusal_ne_tierwait {s : State} {t pa : Nat} {c : Cause} (h : s.refusal t pa = some c) : c ≠ .tierwait := by
  rintro rfl
  unfold State.refusal at h
  split at h
  · cases h
  · split at h
    · cases h
    · split at h
      · split at h <;> cases h
      · cases h

theorem readPte_ne_tierwait {s : State} {t pa : Nat} {c : Cause} (h : s.readPte t pa = .error (.cause c)) : c ≠ .tierwait := by
  cases e : s.refusal t pa with
  | none => rw [readPte_of_no_refusal e] at h; cases h
  | some _ => rw [readPte_of_refusal e] at h; cases h; exact refusal_ne_tierwait e

theorem leafAt_ne_tierwait {s : State} {t base idx lvl p : Nat} {c : Cause}
    (h : s.leafAt t base idx lvl p = .error (.cause c)) : c ≠ .tierwait := by
  unfold State.leafAt at h
  dsimp only at h
  split at h
  · cases h; decide
  · split at h
    · cases h
    · split at h
      · next read => cases h; exact readPte_ne_tierwait read
      · split at h
        · cases h; decide
        · cases h

/-- A walk does not wait for a tier (R57). -/
theorem walkFrom_ne_tierwait {s : State} {t va : Nat} {c : Cause} : ∀ (n : Nat) {base : Nat},
    s.walkFrom t va base n = .error (.cause c) → c ≠ .tierwait := by
  intro n
  induction n with
  | zero => intro base h; cases h; decide
  | succ n ih =>
    intro base h
    unfold State.walkFrom at h
    dsimp only at h
    split at h
    · next read => cases h; exact readPte_ne_tierwait read
    · split at h
      · cases h; decide
      · split at h
        · split at h
          · cases h; decide
          · exact ih h
        · exact leafAt_ne_tierwait h

theorem fixed_ne_tierwait {s : State} {x : Ctx} {va n : Nat} {k : Kind} {c : Cause} (h : s.fixed x va k n = .error c) :
    c ≠ .tierwait := by
  rintro rfl
  unfold State.fixed at h
  split at h
  · cases h
  · split at h
    · cases h
    · split at h
      · split at h
        · split at h <;> cases h
        · cases h
      · split at h
        · cases h
        · split at h <;> cases h

/-! ### TQRY -/

/-- Whether a leaf stands in the move table, as TQRY's word has it. -/
theorem moving_eq (s : State) (l : Leaf) : (if s.dev.moves.any (·.ptea == l.ptea) then 4 else 0) = 4 * inMove s l.ptea := by
  have same : (s.dev.moves.any fun m => m.ptea == l.ptea) = s.dev.moves.any fun m => decide (m.ptea = l.ptea) := rfl
  unfold inMove
  rw [same]
  split <;> rfl

theorem allowed_load (p : Nat) : allowed p .load = p.testBit 2 := by
  rw [allowed, bits, pow_one, Nat.testBit_eq_decide_div_mod_eq]
  rfl

theorem tierWord_of_error {s : State} {va : Nat} {c : Cause} (ne : c ≠ .tierwait) (h : s.probe s.h.ctx va .load = .error c) :
    s.tierWord va = 2 ^ 63 + c.code.toNat := by
  unfold State.tierWord
  rw [h]
  dsimp only
  split
  · next e => cases e
  · next e => cases e
  · next e => exact absurd (Except.error.inj e) ne
  · next e => rw [Except.error.inj e]

section
variable {s : State} {va : Nat} {l : Leaf} (low : va < 2 ^ 52) (plain : inWindow va = false)
  (walk : s.walkFrom s.h.id.tenant va (s.h.hr.ptroot.toNat / 2 ^ 15 * 2 ^ 15) 3 = .ok l)
include low plain walk

theorem probe_perm (no : l.pte.testBit 2 = false) : s.probe s.h.ctx va .load = .error .perm := by
  have walk' : s.walkFrom s.h.ctx.tenant va (s.h.ctx.root.toNat / 2 ^ 15 * 2 ^ 15) 3 = .ok l := walk
  unfold State.probe
  rw [if_neg (not_not.mpr (Nat.div_eq_of_lt low)), if_neg (by rw [plain]; decide), walk']
  dsimp only
  rw [allowed_load, no]
  rfl

theorem probe_tiered (yes : l.pte.testBit 2 = true) (tiered : l.tiered = true) : s.probe s.h.ctx va .load = .error .tierwait := by
  have walk' : s.walkFrom s.h.ctx.tenant va (s.h.ctx.root.toNat / 2 ^ 15 * 2 ^ 15) 3 = .ok l := walk
  unfold State.probe
  rw [if_neg (not_not.mpr (Nat.div_eq_of_lt low)), if_neg (by rw [plain]; decide), walk']
  dsimp only
  rw [allowed_load, yes, tiered]
  rfl

theorem probe_resident (yes : l.pte.testBit 2 = true) (resident : l.tiered = false)
    (grant : s.dev.grants s.h.id.tenant (l.loc s s.h.ctx va).1 .load = true) :
    s.probe s.h.ctx va .load = .ok ((l.loc s s.h.ctx va).2, (l.loc s s.h.ctx va).1, false) := by
  have walk' : s.walkFrom s.h.ctx.tenant va (s.h.ctx.root.toNat / 2 ^ 15 * 2 ^ 15) 3 = .ok l := walk
  have grant' : s.dev.grants s.h.ctx.tenant (l.loc s s.h.ctx va).1 .load = true := grant
  unfold State.probe
  rw [if_neg (not_not.mpr (Nat.div_eq_of_lt low)), if_neg (by rw [plain]; decide), walk']
  dsimp only
  rw [allowed_load, yes, resident, grant']
  simp

theorem tierWord_resident (yes : l.pte.testBit 2 = true) (resident : l.tiered = false)
    (grant : s.dev.grants s.h.id.tenant (l.loc s s.h.ctx va).1 .load = true) :
    s.tierWord va = tierOf l.pte + 4 * inMove s l.ptea := by
  unfold State.tierWord
  rw [probe_resident low plain walk yes resident grant, walk]
  dsimp only
  rw [moving_eq]

theorem tierWord_tiered (yes : l.pte.testBit 2 = true) (tiered : l.tiered = true) :
    s.tierWord va = 2 + 4 * inMove s l.ptea + 8 * (l.pte / 2 ^ 62 % 2) + 16 * (l.pte / 2 ^ 61 % 2) := by
  unfold State.tierWord
  rw [probe_tiered low plain walk yes tiered, walk]
  dsimp only
  rw [moving_eq, bits, bits, pow_one, Nat.mul_comm _ 8, Nat.mul_comm _ 16]
end

theorem tierWord_eq {s : State} {va w : Nat} (h : TierWord s va w) : s.tierWord va = w := by
  cases h with
  | high high =>
    have no : s.probe s.h.ctx va .load = .error .xlate := if_pos (by omega)
    exact tierWord_of_error (by decide) no
  | fault c low plain walk =>
    have walk' : s.walkFrom s.h.ctx.tenant va (s.h.ctx.root.toNat / 2 ^ 15 * 2 ^ 15) 3 = .error (.cause c) := walk
    refine tierWord_of_error (walkFrom_ne_tierwait 3 walk) ?_
    unfold State.probe
    rw [if_neg (not_not.mpr (Nat.div_eq_of_lt low)), if_neg (by rw [plain]; decide), walk']
  | perm l low plain walk no => exact tierWord_of_error (by decide) (probe_perm low plain walk no)
  | resident l n low plain walk yes resident grant tier =>
    rw [tierWord_resident low plain walk yes resident grant, tierOf_of tier]
  | elsewhere l low plain walk yes resident grant two no =>
    have leaf : 2 ≤ l.pte % 4 := by omega
    have three : tierOf l.pte = 3 := by
      by_contra ne
      exact no _ ((tierOf_iff leaf).mpr ⟨rfl, ne⟩)
    rw [tierWord_resident low plain walk yes resident grant, three]
  | window x low window fixed =>
    unfold State.tierWord State.probe
    rw [if_neg (not_not.mpr (Nat.div_eq_of_lt low)), if_pos window, fixed]
  | windowFault c low window fixed =>
    refine tierWord_of_error (fixed_ne_tierwait fixed) ?_
    unfold State.probe
    rw [if_neg (not_not.mpr (Nat.div_eq_of_lt low)), if_pos window, fixed]
  | tiered l low plain walk yes tiered => exact tierWord_tiered low plain walk yes tiered

/-! ### CRQRY -/

theorem code_of_slotState {st : CrState} {n : Nat} (h : SlotState st n) : st.code = n := by
  cases h <;> rfl

/-- The pages that CRQRY counts are R104's. -/
theorem away_iff (s : State) (y : Cr) (va : Nat) :
    (match s.crLeaf y va with | some l => tierOf l.pte != 0 | none => false) = true ↔ Away s y va := by
  have leaves : (∃ l, s.crLeaf y va = some l ∧ tierOf l.pte ≠ 0) ↔ Away s y va := by
    constructor
    · rintro ⟨l, hl, tier⟩
      obtain ⟨low, plain, walk, mv⟩ := crLeaf_eq_some.mp hl
      have leaf := (leafOf_crLeaf hl).leaf
      have moves := (movable_iff leaf).mp mv
      obtain ⟨-, -, ⟨n, hn⟩, -⟩ := id moves
      exact ⟨low, plain, l, n, walk, moves, hn, tierOf_of hn ▸ tier⟩
    · rintro ⟨low, plain, l, n, walk, moves, hn, tier⟩
      have leaf := (leafOf_walkFrom 3 (by omega) walk).leaf
      exact ⟨l, crLeaf_eq_some.mpr ⟨low, plain, walk, (movable_iff leaf).mpr moves⟩, (tierOf_of hn).symm ▸ tier⟩
  rw [← leaves]
  cases s.crLeaf y va with
  | none => simp
  | some l => simp

theorem crWord_eq {s : State} {x w : Nat} (mine : MySlot s x) (h : SlotWord s x w) : s.crWord x = w := by
  unfold State.crWord
  cases h with
  | invalid no => exact absurd mine no
  | idle st _ state less =>
    have idle : (s.dev.cr x).st = .free ∨ (s.dev.cr x).st = .open := by
      revert state
      generalize (s.dev.cr x).st = y
      intro state
      cases state with
      | free => exact .inl rfl
      | open' => exact .inr rfl
      | parked | waking | launched | failed => exact absurd less (by decide)
    dsimp only
    rw [code_of_slotState state, if_pos idle, Nat.zero_mod, Nat.zero_mul, Nat.add_zero]
  | away st f _ state more pages =>
    have busy : ¬((s.dev.cr x).st = .free ∨ (s.dev.cr x).st = .open) := by
      revert state
      generalize (s.dev.cr x).st = y
      intro state
      cases state with
      | free | open' => exact absurd more (by decide)
      | parked | waking | launched | failed => decide
    have count : s.crAway (s.dev.cr x) = ((s.dev.cr x).pages.filter f).length := by
      unfold State.crAway
      congr 1
      refine List.filter_congr fun p hp => ?_
      rw [Bool.eq_iff_iff, pages p hp]
      exact away_iff ..
    dsimp only
    rw [code_of_slotState state, if_neg busy, count]

/-! ### The forms -/

theorem run_promote {s : State} (hs : s.h.ms.strip = none) (a b c : Reg) : (promote a b c).run s =
    (.ok (), (s.promoteHint (s.getX a).toNat (s.getX b).toNat (s.getX c).toNat).advance 4) := by
  unfold promote
  rw [run_bind_ok (run_noStrip hs)]
  rfl

theorem run_tierQuery {s : State} (hs : s.h.ms.strip = none) (d a : Reg) : (tierQuery d a).run s =
    (.ok (), (s.setX d (BitVec.ofNat 64 (s.tierWord (s.getX a).toNat))).advance 4) := by
  unfold tierQuery
  rw [run_bind_ok (run_noStrip hs)]
  rfl

theorem run_crQuery {s : State} (hs : s.h.ms.strip = none) (d a : Reg) {w : Nat} (h : SlotWord s (s.getX a).toNat w) :
    (crQuery d a).run s = (.ok (), (s.setX d (BitVec.ofNat 64 w)).advance 4) := by
  unfold crQuery
  rw [run_bind_ok (run_noStrip hs), run_bind_ok (run_get s)]
  by_cases mine : MySlot s (s.getX a).toNat
  · rw [slotNamed_mine mine]
    dsimp only
    rw [crWord_eq mine h]
    rfl
  · have word : w = 2 ^ 63 := by
      cases h with
      | invalid _ => rfl
      | idle _ yes _ _ => exact absurd yes mine
      | away _ _ yes _ _ _ => exact absurd yes mine
    rw [slotNamed_other mine, word]
    rfl

theorem exec_promote (a b c : Reg) (s : State) : exec (.promote a b c) s = runM (promote a b c) s := rfl
theorem exec_tqry (d a : Reg) (s : State) : exec (.tqry d a) s = runM (tierQuery d a) s := rfl
theorem exec_crqry (d a : Reg) (s : State) : exec (.crqry d a) s = runM (crQuery d a) s := rfl

/-- A query that writes its destination alone. -/
theorem query_completes {s : State} {i : Instr} {d : Reg} {v : Word} {m : M Unit} (e : exec i s = runM m s)
    (run : m.run s = (.ok (), (s.setX d v).advance 4)) : ∃ t, exec i s = .next t ∧ Done s (s.setX d v) t 4 := by
  obtain ⟨u, t, rfl, run, done⟩ := completes (P := (· = s)) e run rfl rfl
  exact ⟨t, run, done⟩

/-- The machine that PROMOTE leaves. -/
theorem promoteHint_eq (s : State) (va len tagw : Nat) : ∃ ps p ts qs ms es n, s.promoteHint va len tagw = { s with dev := { s.dev with
      predictor := ps ++ [p], tenants := ts, proms := qs, moves := ms, experts := es, expertNo := n } } ∧
    ms.map Move.kept = s.dev.moves.map Move.kept ∧
    (len = 0 → qs = s.dev.proms ∧ ms = s.dev.moves ∧ es = s.dev.experts) ∧ (s.dev.predictor.length ≤ 4096 → ps.length < 4096) ∧
    p.tenant = s.h.id.tenant ∧ p.layer = bits tagw 0 12 ∧ p.expert = bits tagw 16 12 ∧
    (len ≠ 0 → p.base = va ∧ p.len = len ∧ p.root = s.h.hr.ptroot ∧ p.asid = s.h.hr.asid) := by
  obtain ⟨ps, p, ts, hint, room, tag⟩ := hint_eq s.dev s.h (bits tagw 0 12, bits tagw 16 12) va len
  by_cases zero : len = 0
  · subst zero
    rw [promoteHint_zero, hint]
    exact ⟨ps, p, ts, _, _, _, _, rfl, rfl, fun _ => ⟨rfl, rfl, rfl⟩, room, tag⟩
  · obtain ⟨qs, ms, es, n, result, moves⟩ := asked_promoteHint s va len tagw
    rw [hint] at result moves
    exact ⟨ps, p, ts, qs, ms, es, n, result, moves, fun h => absurd h zero, room, tag⟩

theorem promoteHint_h (s : State) (va len tagw : Nat) : (s.promoteHint va len tagw).h = s.h := by
  obtain ⟨_, _, _, _, _, _, _, result, -⟩ := promoteHint_eq s va len tagw
  rw [result]

/-- PROMOTE, TQRY and CRQRY. -/
theorem tierQueries : TierQueries := by
  intro s d a b c hs
  refine ⟨?_, fun w h => ?_, fun w h => ?_⟩
  · obtain ⟨ps, p, ts, qs, ms, es, n, result, moves, none', room, tenant, layer, expert, entry⟩ :=
      promoteHint_eq s (s.getX a).toNat (s.getX b).toNat (s.getX c).toNat
    have front := promoteHint_h s (s.getX a).toNat (s.getX b).toNat (s.getX c).toNat
    refine ⟨_, _, (exec_promote a b c s).trans (runM_ok (run_promote hs a b c)), done_advance (by decide) (congrArg Hart.pc front)
      (congrArg Hart.lp front), ?_⟩
    rw [result]
    refine ⟨rfl, fun zero => none' (congrArg BitVec.toNat zero), fun m => ?_, fun few => ?_, p, List.getLast?_concat,
      tenant, ?_, expert, fun ne => entry fun zero => ne (BitVec.eq_of_toNat_eq zero)⟩
    · exact iff_of_eq (congrArg (m ∈ ·) moves)
    · rw [List.length_append]
      exact room few
    · rw [layer, bits, pow_zero, Nat.div_one]
  · exact query_completes (exec_tqry d a s) (tierWord_eq h ▸ run_tierQuery hs d a)
  · exact query_completes (exec_crqry d a s) (run_crQuery hs d a h)

/-- Settles O52: the state after each form is written out, the clearing of A under PARK by what it leaves of every walk. -/
theorem caravanForms : Obligations.CaravanForms := ⟨slotForms, tierQueries⟩

end Sys2Proof.Machine
end

section
/-! Banks by their addresses (R50, R111-R114, R119, R120): the bank that an address names, commands that name a bank, and
changes of one bank. -/

namespace Sys2Proof.Machine

open Sys2Proof.Claims

/-! ### The bank that an address names (R50, R119) -/

theorem inWindow_iff {va : Nat} : inWindow va = true ↔ 0x7F0000000000 ≤ va ∧ va ≤ 0x7FFFFFFFFFFF := by
  simp [inWindow]

/-- Bank `n` from the base of a window on, below bank `m`. -/
theorem bankOffset_lt {n m : Nat} (h : n < m) : 0x4000 * n < 0x4000 * m := Nat.mul_lt_mul_of_pos_left h (by decide)

theorem window_own (s : State) {n : Nat} (hn : n < 48) :
    s.window s.h.ctx (0x7F0000000000 + 0x4000 * n) = some (.bank (s.h.id.hartid.toNat / 256) (s.h.id.hartid.toNat / 4 % 64) n 0) := by
  unfold State.window
  rw [if_pos (Nat.add_lt_add_left (bankOffset_lt hn) _), Nat.add_sub_cancel_left, Nat.mul_div_cancel_left n (by decide),
    Nat.add_mul_mod_self_left]
  rfl

theorem gangAddress_lt {k n : Nat} (hn : n < 64) (inside : 0x7F1000000000 + 0x100000 * k < 0x7F8000000000) :
    0x7F1000000000 + 0x100000 * k + 0x4000 * n < 0x7F8000000000 := by
  lia

theorem window_gang (s : State) {k n : Nat} (hn : n < 64) (inside : 0x7F1000000000 + 0x100000 * k < 0x7F8000000000) :
    s.window s.h.ctx (0x7F1000000000 + 0x100000 * k + 0x4000 * n) = if k < s.h.id.gangsz ∧ n < 48 then
      (s.coreOfRank s.h.ctx k).map fun core => .bank (s.h.id.hartid.toNat / 256) core n 0 else none := by
  have lo : 0x7F1000000000 ≤ 0x7F1000000000 + 0x100000 * k + 0x4000 * n := (Nat.le_add_right ..).trans (Nat.le_add_right ..)
  have rank : (0x7F1000000000 + 0x100000 * k + 0x4000 * n - 0x7F1000000000) / 0x100000 = k := by
    rw [Nat.add_assoc, Nat.add_sub_cancel_left, Nat.mul_add_div (by decide), Nat.div_eq_of_lt (bankOffset_lt hn), Nat.add_zero]
  have off : (0x7F1000000000 + 0x100000 * k + 0x4000 * n) % 0x100000 = 0x4000 * n := by
    rw [Nat.add_right_comm, Nat.add_mul_mod_self_left, ← Nat.mod_add_mod]
    exact (congrArg (· % 0x100000) (Nat.zero_add _)).trans (Nat.mod_eq_of_lt (bankOffset_lt hn))
  have banks : 0x4000 * n < 0xC0000 ↔ n < 48 := Nat.mul_lt_mul_left (a := 0x4000) (c := 48) (by decide)
  unfold State.window
  rw [if_neg (Nat.not_lt.mpr (Nat.le_trans (by decide) lo)), if_pos ⟨lo, gangAddress_lt hn inside⟩]
  simp only [rank, off, banks, Nat.mul_div_cancel_left n (show 0 < 0x4000 by decide), Nat.mul_mod_right]
  cases s.coreOfRank s.h.ctx k <;> rfl

theorem coreOfRank_eq_some_iff {s : State} {k core : Nat} : s.coreOfRank s.h.ctx k = some core ↔ RankCore s k core := by
  have named : (s.harts.find? fun h => h.id.gang.toNat == s.h.ctx.gang && h.id.rank == k && h.status != .vacant) =
      (s.h :: s.others).find? fun h => decide (h.id.gang = s.h.id.gang ∧ h.id.rank = k ∧ h.status ≠ .vacant) :=
    congrArg (List.find? · _) (funext fun h => by
      rw [Bool.eq_iff_iff]
      simp [Hart.ctx, BitVec.toNat_inj, and_assoc])
  rw [State.coreOfRank, named]
  by_cases hk : k = s.h.id.rank
  · rw [if_pos (c := k = s.h.ctx.rank) hk, Option.some_inj]
    exact ⟨fun h => .inl ⟨hk, h.symm⟩, fun h => (h.resolve_right fun r => r.1 hk).2.symm⟩
  · rw [if_neg (c := k = s.h.ctx.rank) hk, Option.map_eq_some_iff]
    exact ⟨fun h => .inr ⟨hk, h.imp fun _ => And.imp_right Eq.symm⟩,
      fun h => (h.resolve_left fun r => hk r.1).2.imp fun _ => And.imp_right Eq.symm⟩

/-- A bank address lies in a fixed window, and its window is the bank from its first byte on. -/
theorem window_of_bankAddress {s : State} {va core n : Nat} (h : BankAddress s va core n) :
    (inWindow va = true ∧ va % 0x4000 = 0) ∧ s.window s.h.ctx va = some (.bank (s.h.id.hartid.toNat / 256) core n 0) := by
  cases h with
  | own n hn =>
    exact ⟨⟨inWindow_iff.mpr ⟨Nat.le_add_right .., (Nat.add_le_add_left (bankOffset_lt hn).le _).trans (by decide)⟩,
      Nat.add_mul_mod_self_left ..⟩, window_own s hn⟩
  | gang k n core hk hn hc inside =>
    have below := gangAddress_lt (hn.trans (by decide)) inside
    refine ⟨⟨inWindow_iff.mpr ⟨(by decide : 0x7F0000000000 ≤ 0x7F1000000000).trans ((Nat.le_add_right ..).trans (Nat.le_add_right ..)),
      below.le.trans (by decide)⟩, ?_⟩, ?_⟩
    · exact Nat.mod_eq_zero_of_dvd (((by decide : 0x4000 ∣ 0x7F1000000000).add ((by decide : 0x4000 ∣ 0x100000).mul_right k)).add (Nat.dvd_mul_right ..))
    · rw [window_gang s (hn.trans (by decide)) inside, if_pos ⟨hk, hn⟩, coreOfRank_eq_some_iff.mpr hc]
      rfl

/-- An aligned address from the base of the gang window on names a rank and a bank. -/
theorem gangAddress_eq (m : Nat) : 0x7F1000000000 + 0x4000 * m = 0x7F1000000000 + 0x100000 * (m / 64) + 0x4000 * (m % 64) := by
  conv_lhs => rw [← Nat.div_add_mod m 64, Nat.mul_add, ← Nat.mul_assoc, ← Nat.add_assoc]

theorem bankAddress_of_window {s : State} {va die core n off : Nat} (low : 0x7F0000000000 ≤ va) (al : va % 0x4000 = 0)
    (h : s.window s.h.ctx va = some (.bank die core n off)) : die = s.h.id.hartid.toNat / 256 ∧ BankAddress s va core n := by
  by_cases own : va < 0x7F0000000000 + 0xC0000
  · obtain ⟨o, rfl⟩ := Nat.exists_eq_add_of_le low
    obtain ⟨m, rfl⟩ := (Nat.dvd_add_right (by decide)).mp (Nat.dvd_of_mod_eq_zero al)
    have hm : m < 48 := Nat.lt_of_mul_lt_mul_left (Nat.lt_of_add_lt_add_left own)
    obtain ⟨rfl, rfl, rfl, -⟩ := Window.bank.inj (Option.some.inj ((window_own s hm).symm.trans h))
    exact ⟨rfl, .own _ hm⟩
  · have gang : 0x7F1000000000 ≤ va ∧ va < 0x7F8000000000 := by
      by_contra no
      rw [State.window, if_neg own, if_neg no] at h
      exact Window.noConfusion (Option.some.inj (Option.ite_none_right_eq_some.mp h).2)
    obtain ⟨o, rfl⟩ := Nat.exists_eq_add_of_le gang.1
    obtain ⟨m, rfl⟩ := (Nat.dvd_add_right (by decide)).mp (Nat.dvd_of_mod_eq_zero al)
    rw [gangAddress_eq] at gang h ⊢
    have inside := (Nat.le_add_right ..).trans_lt gang.2
    rw [window_gang s (Nat.mod_lt m (by decide)) inside] at h
    obtain ⟨hk, h⟩ := Option.ite_none_right_eq_some.mp h
    obtain ⟨c, hc, e⟩ := Option.map_eq_some_iff.mp h
    obtain ⟨rfl, rfl, rfl, -⟩ := Window.bank.inj e
    exact ⟨rfl, .gang _ _ _ hk.1 hk.2 (coreOfRank_eq_some_iff.mp hc) inside⟩

/-- The model finds the bank that R119 names. -/
theorem bankNamed_eq_some_iff {s : State} {va : Nat} {b : Bank} : s.bankNamed va = some b ↔ NamedBank s va b := by
  unfold State.bankNamed
  constructor
  · intro h
    obtain ⟨hva, h⟩ := Option.ite_none_right_eq_some.mp h
    split at h
    · next die core n off hw =>
      obtain ⟨rfl, addr⟩ := bankAddress_of_window (inWindow_iff.mp hva.1).1 hva.2 hw
      obtain ⟨hn, h⟩ := Option.ite_none_left_eq_some.mp h
      split at h
      · next x hx =>
        obtain ⟨hg, e⟩ := Option.ite_none_right_eq_some.mp h
        exact ⟨core, n, addr, Nat.not_lt.mp hn, hx.trans e, Option.some.inj e ▸ hg⟩
      · exact absurd h nofun
    · exact absurd h nofun
  · rintro ⟨core, n, addr, hn, hx, hg⟩
    obtain ⟨hva, hw⟩ := window_of_bankAddress addr
    rw [if_pos hva, hw]
    dsimp only
    rw [if_neg (Nat.not_lt.mpr hn), hx]
    exact if_pos hg

theorem bankNamed_eq_none_iff {s : State} {va : Nat} : s.bankNamed va = none ↔ ∀ x, ¬NamedBank s va x := by
  simp only [Option.eq_none_iff_forall_ne_some, ne_eq, bankNamed_eq_some_iff]

/-! ### Commands that name a bank (R113, R114) -/

theorem pend_eq_zero_iff {s : State} {b : Bank} : s.dev.pend b.die b.core b.num = 0 ↔ BankIdle s b := by
  simp [Device.pend, BankIdle, List.filter_eq_nil_iff]

/-- A wait for a bank that no command names is none. -/
theorem run_bankQuiet {s : State} {b : Bank} (idle : BankIdle s b) : (bankQuiet b).run s = (.ok (), s) := by
  unfold bankQuiet
  rw [run_bind_ok (run_getD s), if_neg (not_not.mpr (pend_eq_zero_iff.mpr idle))]
  rfl

/-- The hart's earlier accesses are performed, and nothing stays bound. -/
theorem run_bankOrder {s : State} (quiet : s.h.ms.storeQ = [] ∧ s.h.ms.fabricQ = []) : bankOrder.run s = (.ok (), s.unbound) := by
  unfold bankOrder
  rw [run_bind_ok (run_flushStores_of_empty quiet.1 quiet.2), run_acquire]

/-! ### Changes of one bank -/

theorem setBank_eq_withBank (s : State) {b b' : Bank} (h : b'.die = b.die ∧ b'.core = b.core ∧ b'.num = b.num) :
    s.dev.setBank b' = { s.dev with banks := withBank s b b' } := by
  refine congrArg (fun l => { s.dev with banks := l }) (List.map_congr_left fun y _ => ?_)
  rw [h.1, h.2.1, h.2.2]
  simp only [Bool.and_eq_true, beq_iff_eq, and_assoc]

/-- A change of the one bank at its place. -/
theorem modBank_eq_withBank {s : State} {b : Bank} (once : ∀ z ∈ s.dev.banks, z.die = b.die ∧ z.core = b.core ∧ z.num = b.num → z = b)
    (f : Bank → Bank) : s.dev.modBank b.die b.core b.num f = { s.dev with banks := withBank s b (f b) } := by
  refine congrArg (fun l => { s.dev with banks := l }) (List.map_congr_left fun y hy => ?_)
  have name : (y.die == b.die && y.core == b.core && y.num == b.num) = true ↔ y.die = b.die ∧ y.core = b.core ∧ y.num = b.num := by
    simp [and_assoc]
  simp only [name]
  split
  · next h => rw [once y hy h]
  · rfl

/-! ### BMODE, BSLOT and BQRY (R113, R114, R120) -/

theorem bankModeOf_eq_some {m : BankMode} {x : Nat} (h : ModeCode m x) : bankModeOf x = some m := by
  cases h <;> rfl

theorem bankModeOf_eq_none : ∀ {x : Nat}, 3 ≤ x → bankModeOf x = none
  | _ + 3, _ => rfl

theorem Memory.get_filter_key (p : Nat → Bool) {m : Memory} : ∀ {lo : Nat}, m.wfFrom lo = true → ∀ j,
    Memory.get (m.filter fun c => p c.1) j = if p j then m.get j else 0 := by
  induction m with
  | nil => exact fun _ j => (ite_self _).symm
  | cons c r ih =>
    intro lo hw j
    obtain ⟨-, hr⟩ := (Bool.and_eq_true_iff ..).mp hw
    have rest := ih hr j
    have first : Memory.get (c :: r) j = if j < c.1 then 0 else if j = c.1 then c.2 else Memory.get r j := rfl
    rw [List.filter_cons, first]
    by_cases hp : p j = true
    · rw [if_pos hp] at rest ⊢
      split
      · exact congrArg (fun x => if j < c.1 then 0 else if j = c.1 then c.2 else x) rest
      · next hc =>
        rw [rest, if_neg (c := j = c.1) fun e => hc (e ▸ hp)]
        split
        · next below => exact Memory.get_below hr (below.trans (Nat.lt_succ_self _))
        · rfl
    · rw [if_neg hp] at rest ⊢
      split
      · next hc =>
        show (if j < c.1 then 0 else if j = c.1 then c.2 else _) = _
        rw [rest, if_neg (c := j = c.1) fun e => hp (e ▸ hc), ite_self]
      · exact rest

/-- A range that has been cleared reads 0. -/
theorem Memory.get_clearRange {m : Memory} (hm : m.wf = true) (a n j : Nat) :
    (m.clearRange a n).get j = if a ≤ j ∧ j < a + n then 0 else m.get j := by
  have outside : (decide (j < a) || decide (a + n ≤ j)) = true ↔ ¬(a ≤ j ∧ j < a + n) := by
    rw [Bool.or_eq_true, decide_eq_true_iff, decide_eq_true_iff, not_and_or, not_le, not_lt]
  rw [Memory.clearRange, Memory.get_filter_key (fun k => decide (k < a) || decide (a + n ≤ k)) hm, if_congr outside rfl rfl, ite_not]

/-- The machine whose bank `b` has a new mode. -/
theorem changeMode_eq (s : State) (b : Bank) (m : BankMode) : s.dev.changeMode b m = { s.dev with
    mem := s.dev.mem.clearRange (bankBase b) 0x4000
    errs := (s.dev.clearErr (bankBase b) 0x4000).errs
    banks := withBank s b { b with mode := m, trk := false, st := 0, hold := false, fifo := [] } } := by
  have key : bankKey b.die b.core b.num 0 = bankBase b := rfl
  have errs : ∀ n, (Device.clearErr { s.dev with mem := n } (bankBase b) 0x4000).errs = (s.dev.clearErr (bankBase b) 0x4000).errs := by
    intro n
    unfold Device.clearErr
    split <;> rfl
  unfold Device.changeMode
  dsimp only
  rw [key, Device.clearErr_eq, errs]
  exact setBank_eq_withBank { s with dev := { s.dev with
    mem := s.dev.mem.clearRange (bankBase b) 0x4000
    errs := (s.dev.clearErr (bankBase b) 0x4000).errs } } ⟨rfl, rfl, rfl⟩

/-- BSLOT changes a slot as R120 says. -/
theorem slotOp_of_slotOp {s : State} {x y : Bank} {op : Nat} (h : SlotOp s x op y) :
    op ≤ 4 ∧ (op ≠ 3 → BankIdle s x) ∧ x.slotOp op (s.dev.pend x.die x.core x.num) = y := by
  induction h with
  | untrack idle => exact ⟨by decide, fun _ => idle, rfl⟩
  | empty idle => exact ⟨by decide, fun _ => idle, rfl⟩
  | filling idle => exact ⟨by decide, fun _ => idle, rfl⟩
  | release idle trk st => exact ⟨by decide, fun _ => idle, by rw [Bank.slotOp, if_pos ⟨trk, st, pend_eq_zero_iff.mpr idle⟩]⟩
  | keep no => exact ⟨by decide, fun h => absurd rfl h, by
    rw [Bank.slotOp, if_neg fun h => no ⟨pend_eq_zero_iff.mp h.2.2, h.1, h.2.1⟩]⟩
  | ready idle => exact ⟨by decide, fun _ => idle, rfl⟩

theorem exec_bmode (d a b : Reg) (s : State) : exec (.bmode d a b) s = runM (bankMode d a b) s := rfl
theorem exec_bslot (d a b : Reg) (s : State) : exec (.bslot d a b) s = runM (bankSlot d a b) s := rfl
theorem exec_bqry (d a : Reg) (s : State) : exec (.bqry d a) s = runM (bankQuery d a) s := rfl

section

variable {s : State} (hs : s.h.ms.strip = none) (d a b : Reg)
include hs

theorem run_bankMode_invalid (no : ∀ x, ¬NamedBank s (s.getX a).toNat x) :
    (bankMode d a b).run s = (.ok (), (s.setX d 1).advance 4) := by
  unfold bankMode
  rw [run_bind_ok (run_noStrip hs), run_bind_ok (run_get s), bankNamed_eq_none_iff.mpr no]
  rfl

theorem run_bankMode_unknown {x : Bank} (h : NamedBank s (s.getX a).toNat x) (hb : 3 ≤ (s.getX b).toNat) :
    (bankMode d a b).run s = (.ok (), (s.setX d 2).advance 4) := by
  unfold bankMode
  rw [run_bind_ok (run_noStrip hs), run_bind_ok (run_get s), bankNamed_eq_some_iff.mpr h, bankModeOf_eq_none hb]
  rfl

theorem run_bankMode_same {x : Bank} (h : NamedBank s (s.getX a).toNat x) (hm : ModeCode x.mode (s.getX b).toNat) :
    (bankMode d a b).run s = (.ok (), (s.setX d 0).advance 4) := by
  unfold bankMode
  rw [run_bind_ok (run_noStrip hs), run_bind_ok (run_get s), bankNamed_eq_some_iff.mpr h, bankModeOf_eq_some hm]
  dsimp only
  rw [if_neg (not_not.mpr rfl)]
  rfl

theorem run_bankMode_change {x : Bank} {m : BankMode} (h : NamedBank s (s.getX a).toNat x) (hm : ModeCode m (s.getX b).toNat)
    (other : x.mode ≠ m) (idle : BankIdle s x) (quiet : s.h.ms.storeQ = [] ∧ s.h.ms.fabricQ = []) :
    (bankMode d a b).run s = (.ok (), (State.setX { s.unbound with dev := s.dev.changeMode x m } d 0).advance 4) := by
  unfold bankMode
  rw [run_bind_ok (run_noStrip hs), run_bind_ok (run_get s), bankNamed_eq_some_iff.mpr h, bankModeOf_eq_some hm]
  dsimp only
  rw [if_pos other, run_bind_ok (run_bankOrder quiet), run_bind_ok (run_bankQuiet (s := s.unbound) idle)]
  rfl

theorem run_bankSlot_invalid (no : ∀ x, NamedBank s (s.getX a).toNat x → x.mode ≠ .scratch) :
    (bankSlot d a b).run s = (.ok (), (s.setX d 1).advance 4) := by
  have none' : ((s.bankNamed (s.getX a).toNat).filter fun x => x.mode == .scratch) = none := by
    rw [Option.filter_eq_none_iff]
    intro x hx
    simpa using no x (bankNamed_eq_some_iff.mp hx)
  unfold bankSlot
  rw [run_bind_ok (run_noStrip hs), run_bind_ok (run_get s), none']
  rfl

variable {x : Bank} (h : NamedBank s (s.getX a).toNat x) (hm : x.mode = .scratch)
include h hm

omit hs in
theorem scratchNamed : ((s.bankNamed (s.getX a).toNat).filter fun x => x.mode == .scratch) = some x := by
  rw [bankNamed_eq_some_iff.mpr h, Option.filter_some, if_pos (by simp [hm])]

theorem run_bankSlot_unknown (hb : 5 ≤ (s.getX b).toNat) : (bankSlot d a b).run s = (.ok (), (s.setX d 2).advance 4) := by
  unfold bankSlot
  rw [run_bind_ok (run_noStrip hs), run_bind_ok (run_get s), scratchNamed a h hm]
  dsimp only
  rw [if_pos (Nat.lt_of_succ_le hb)]
  rfl

theorem run_bankSlot {y : Bank} (op : SlotOp s x (s.getX b).toNat y) (quiet : s.h.ms.storeQ = [] ∧ s.h.ms.fabricQ = [])
    (once : ∀ z ∈ s.dev.banks, z.die = x.die ∧ z.core = x.core ∧ z.num = x.num → z = x) : (bankSlot d a b).run s =
      (.ok (), (State.setX { s.unbound with dev := { s.dev with banks := withBank s x y } } d 0).advance 4) := by
  obtain ⟨known, idle, result⟩ := slotOp_of_slotOp op
  have change := modBank_eq_withBank once fun y => y.slotOp (s.getX b).toNat (s.dev.pend x.die x.core x.num)
  rw [result] at change
  refine (run_bind_ok (run_noStrip hs)).trans ((run_bind_ok (run_get s)).trans ?_)
  rw [scratchNamed a h hm, ← change]
  dsimp only
  rw [if_neg (Nat.not_lt.mpr known)]
  refine (run_bind_ok (run_bankOrder quiet)).trans ?_
  split
  · next h3 => exact run_bind_ok (run_bankQuiet (s := s.unbound) (idle h3))
  · rfl

end

/-- A form that writes its destination on a machine whose hart stands where that of `s` does. -/
theorem completes_at {s u : State} {i : Instr} {d : Reg} {v : Word} {P : State → Prop} {m : M Unit} (e : exec i s = runM m s)
    (run : m.run s = (.ok (), (u.setX d v).advance 4)) (hpc : u.h.pc = s.h.pc) (hlp : u.h.lp = s.h.lp) (p : P u) :
    ∃ u t, P u ∧ exec i s = .next t ∧ Done s (u.setX d v) t 4 :=
  ⟨u, _, p, e.trans (runM_ok run), done_advance (by decide) ((Hart.setX_pc ..).trans hpc) ((Hart.setX_lp ..).trans hlp)⟩

/-- BMODE and BSLOT. -/
theorem bankForm_completes {s : State} {i : Instr} {d : Reg} {v : Word} {P : State → Prop} (f : BankForm s i d v P)
    (hs : s.h.ms.strip = none) : ∃ w t, P w ∧ exec i s = .next t ∧ Done s (w.setX d v) t 4 := by
  induction f with
  | modeInvalid d a b no => exact completes_at (exec_bmode d a b s) (run_bankMode_invalid hs d a b no) rfl rfl rfl
  | modeUnknown d a b x h hb => exact completes_at (exec_bmode d a b s) (run_bankMode_unknown hs d a b h hb) rfl rfl rfl
  | modeSame d a b x h hm => exact completes_at (exec_bmode d a b s) (run_bankMode_same hs d a b h hm) rfl rfl rfl
  | modeChange d a b x m h hm other idle quiet canonical =>
    refine completes_at (exec_bmode d a b s) (run_bankMode_change hs d a b h hm other idle quiet) rfl rfl ?_
    rw [changeMode_eq]
    exact ⟨Memory.get_clearRange canonical _ _, fun e => mem_errs_clearErr, rfl⟩
  | slotInvalid d a b no => exact completes_at (exec_bslot d a b s) (run_bankSlot_invalid hs d a b no) rfl rfl rfl
  | slotUnknown d a b x h hm hb => exact completes_at (exec_bslot d a b s) (run_bankSlot_unknown hs d a b h hm hb) rfl rfl rfl
  | slot d a b x y h hm op quiet once =>
    exact completes_at (exec_bslot d a b s) (run_bankSlot hs d a b h hm op quiet once) rfl rfl rfl

/-! ### BQRY's word -/

theorem modeCode_code {m : BankMode} {c : Nat} (h : ModeCode m c) : m.code = c ∧ c < 3 := by
  cases h <;> exact ⟨rfl, by decide⟩

/-- The fields of a status word side by side. -/
theorem statusFields_eq (a b c d e f : Nat) : a * 2 ^ 16 + b * 2 ^ 8 + c * 2 ^ 6 + d * 2 ^ 5 + e * 2 ^ 3 + f =
    f + 2 ^ 2 * (0 + 2 ^ 1 * (e + 2 ^ 2 * (d + 2 ^ 1 * (c + 2 ^ 1 * (0 + 2 ^ 1 * (b + 2 ^ 8 * a)))))) := by lia

/-- The word of a bank is the one of R120. -/
theorem status_eq {x : Bank} {n m : Nat} (hm : ModeCode x.mode m) (fits : x.fifo.length ≤ 128 ∧ n < 256 ∧ x.st < 4) :
    BitVec.ofNat 64 (x.status n) = (BitVec.ofNat 8 x.fifo.length ++ BitVec.ofNat 8 n ++ (0 : BitVec 1) ++ BitVec.ofBool x.hold ++
      BitVec.ofBool x.trk ++ BitVec.ofNat 2 x.st ++ (0 : BitVec 1) ++ BitVec.ofNat 2 m).setWidth 64 := by
  obtain ⟨code, low⟩ := modeCode_code hm
  have entries := Nat.mod_eq_of_lt (show x.fifo.length < 2 ^ 8 from fits.1.trans_lt (by decide))
  have mode := Nat.mod_eq_of_lt (show m < 2 ^ 2 from low.trans (by decide))
  apply ofNat_eq_setWidth
  rw [Bank.status, code]
  simp only [toNat_append_eq_add, BitVec.toNat_ofNat, BitVec.toNat_ofBool, entries, mode]
  exact statusFields_eq ..

theorem run_bankQuery {s : State} {d a : Reg} {w : Word} (h : BankWord s (s.getX a).toNat w) :
    (bankQuery d a).run s = (.ok (), (s.setX d w).advance 4) := by
  unfold bankQuery
  rw [run_bind_ok (run_get s)]
  induction h with
  | invalid no =>
    rw [bankNamed_eq_none_iff.mpr no]
    rfl
  | status x n m h hm hn fits =>
    have count : s.dev.pend x.die x.core x.num = n := by simp [hn, Device.pend, Bool.beq_eq_decide_eq]
    rw [bankNamed_eq_some_iff.mpr h]
    dsimp only
    rw [count, status_eq hm fits]
    rfl

/-- Settles O44: the model's search for a bank is that of R119, and each form is written out. -/
theorem bankModes : Obligations.BankModes := fun s =>
  ⟨fun _ _ _ _ f hs => bankForm_completes f hs, fun d a _ h => query_completes (exec_bqry d a s) (run_bankQuery h)⟩

end Sys2Proof.Machine
end


section
/-! FIFO banks (R116, R119, R121): an entry as the bits of elements, the limits of FPUSH and FPOP, and the bank that they
name. -/

namespace Sys2Proof.Machine

open Sys2Proof.Claims

/-! ### The end of a vector instruction -/

/-- A vector instruction ends on a machine whose hart stands where that of `s` does. -/
theorem doneV_retireV {s w : State} (hpc : w.h.pc = s.h.pc) (hlp : w.h.lp = s.h.lp) :
    DoneV s w { w with h := w.h.retireV } :=
  ⟨goesOn_congr ⟨hpc.symm, hlp.symm⟩ ⟨rfl, rfl, rfl⟩ (goesOn_advance w (n := 4) (by decide)),
    congrArg (fun g => { w with h := g }) (Hart.retireV_eq w.h)⟩

/-- The machine whose vector instruction has ended. -/
def State.retired (s : State) : State := { s with h := s.h.retireV }

/-! ### Entries (R116) -/

theorem Hart.elem_lt (h : Hart) (v i w : Nat) : h.elem v i w < 2 ^ w := Nat.mod_lt _ (Nat.two_pow_pos w)

/-- A bit of a field lies below the fields. -/
theorem field_lt {k n j w m : Nat} (full : n * w = m) (hk : k < n) (hj : j < w) : k * w + j < m :=
  calc k * w + j < (k + 1) * w := (Nat.add_lt_add_left hj _).trans_eq (Nat.succ_mul k w).symm
    _ ≤ m := (Nat.mul_le_mul_right w hk).trans_eq full

/-- Fields of `w` bits side by side: their sum, and a bit of it. -/
theorem testBit_sum_fields {f : Nat → Nat} {w : Nat} (hf : ∀ i, f i < 2 ^ w) (n : Nat) :
    (List.range n).foldl (fun x i => x + f i * 2 ^ (i * w)) 0 < 2 ^ (n * w) ∧ ∀ k j, k < n → j < w →
      ((List.range n).foldl (fun x i => x + f i * 2 ^ (i * w)) 0).testBit (k * w + j) = (f k).testBit j := by
  induction n with
  | zero => exact ⟨by rw [Nat.zero_mul]; exact Nat.zero_lt_one, fun _ _ hk => absurd hk (Nat.not_lt_zero _)⟩
  | succ n ih =>
    rw [List.range_succ, List.foldl_append, List.foldl_cons, List.foldl_nil]
    generalize (List.range n).foldl (fun x i => x + f i * 2 ^ (i * w)) 0 = x at ih
    obtain ⟨low, prev⟩ := ih
    rw [Nat.add_comm, Nat.mul_comm]
    refine ⟨?_, fun k j hk hj => ?_⟩
    · calc 2 ^ (n * w) * f n + x < 2 ^ (n * w) * (f n + 1) := Nat.add_lt_add_left low _
        _ ≤ 2 ^ (n * w) * 2 ^ w := Nat.mul_le_mul_left _ (hf n)
        _ = 2 ^ ((n + 1) * w) := by rw [Nat.succ_mul, Nat.pow_add]
    · rw [Nat.testBit_two_pow_mul_add _ low]
      rcases Nat.lt_succ_iff_lt_or_eq.mp hk with before | rfl
      · rw [if_pos (field_lt rfl before hj), prev k j before hj]
      · rw [if_neg (Nat.not_lt.mpr (Nat.le_add_right ..)), Nat.add_sub_cancel_left]

/-- A bit of the entry that FPUSH makes. -/
theorem getLsbD_entryOf {h : Hart} (full : h.vc.vl * h.ew = 1024) (v : Reg) {k j : Nat} (hk : k < h.vc.vl) (hj : j < h.ew) :
    (h.entryOf v).getLsbD (k * h.ew + j) = (h.elem v.val k h.ew).testBit j := by
  rw [Hart.entryOf, BitVec.getLsbD_ofNat, decide_eq_true (field_lt full hk hj), Bool.true_and]
  exact (testBit_sum_fields (fun i => h.elem_lt v.val i h.ew) h.vc.vl).2 k j hk hj

theorem Hart.over_succ (f : Hart → Nat → Hart) (n : Nat) : ∀ (i : Nat) (h : Hart),
    Hart.over f (n + 1) i h = f (Hart.over f n i h) (i + n) := by
  induction n with
  | zero => exact fun _ _ => rfl
  | succ n ih => exact fun i h => (ih (i + 1) (f h i)).trans (congrArg (f _) (Nat.succ_add_eq_add_succ i n))

/-- Element `i` taken from an entry. -/
def Hart.takeElem (v : Reg) (x : BitVec 1024) (g : Hart) (i : Nat) : Hart := g.setElem v.val i g.ew (bits x.toNat (i * g.ew) g.ew)

/-- The hart once FPOP has written `n` elements. -/
def Hart.popped (h : Hart) (v : Reg) (x : BitVec 1024) (n : Nat) : Hart := Hart.over (Hart.takeElem v x) n 0 h

theorem Hart.popped_eq (h : Hart) (v : Reg) (x : BitVec 1024) (n : Nat) : h.popped v x n = { h with v := (h.popped v x n).v } := by
  induction n with
  | zero => rfl
  | succ n ih =>
    rw [Hart.popped, Hart.over_succ, ← Hart.popped, Hart.takeElem, Hart.setElem_eq]
    rw [ih]

theorem Hart.popped_keeps (h : Hart) (v : Reg) (x : BitVec 1024) (n : Nat) :
    (h.popped v x n).pc = h.pc ∧ (h.popped v x n).lp = h.lp ∧ (h.popped v x n).ms = h.ms := by
  rw [Hart.popped_eq]
  exact ⟨rfl, rfl, rfl⟩

theorem Hart.popped_succ (h : Hart) (v : Reg) (x : BitVec 1024) (n : Nat) :
    h.popped v x (n + 1) = (h.popped v x n).setElem v.val n h.ew (x.extractLsb' (n * h.ew) h.ew).toNat := by
  have width : (h.popped v x n).ew = h.ew := by rw [Hart.popped_eq]; rfl
  have field : bits x.toNat (n * h.ew) h.ew = (x.extractLsb' (n * h.ew) h.ew).toNat := by
    rw [BitVec.extractLsb'_toNat, Nat.shiftRight_eq_div_pow, bits]
  rw [Hart.popped, Hart.over_succ, ← Hart.popped, Hart.takeElem, Nat.zero_add, width, field]

/-! ### The limits and the bank (R119, R121) -/

theorem fifoLimits_iff {s : State} {v : Reg} :
    (s.h.vc.vstart ≠ 0 ∨ s.h.vc.vl * s.h.ew ≠ 1024 ∨ !groupOk v s.h.grp) ↔ ¬FifoLimits s v := by
  simp only [FifoLimits, groupOk, Bool.not_eq_true', beq_eq_false_iff_ne, not_and_or, ne_eq]

section

variable {s : State} {v : Reg}

theorem run_fifoLimits (hs : s.h.ms.strip = none) (lim : FifoLimits s v) : (fifoLimits v).run s = (.ok (), s) := by
  unfold fifoLimits
  rw [run_bind_ok (run_getH s), if_neg (mt fifoLimits_iff.mp (not_not.mpr lim))]
  exact run_noStrip hs

theorem run_fifoLimits_illegal (no : ¬FifoLimits s v) :
    (fifoLimits v).run s = (.error (.trap .illegal 0 (s.h.pc.setWidth 64)), s) := by
  unfold fifoLimits
  rw [run_bind_ok (run_getH s), if_pos (fifoLimits_iff.mpr no)]
  exact run_bind_error (run_trapInstr ..)

end

section

variable {s : State} {va : Nat} (k : Kind)

theorem run_fifoBank_misaligned (h : va % 0x4000 ≠ 0) :
    (fifoBank va k).run s = (.error (.trap .misalign 0 (BitVec.ofNat 64 va)), s) := by
  unfold fifoBank
  dsimp only
  rw [if_pos h]
  exact run_bind_error (run_trap ..)

/-- What an address of a bank gives, by the bank's mode. -/
theorem run_fifoBank {b : Bank} (h : NamedBank s va b) : (fifoBank va k).run s =
    if b.mode = .fifo then (.ok b, s) else (.error (.trap .perm 0 (BitVec.ofNat 64 va)), s) := by
  obtain ⟨core, n, addr, -⟩ := id h
  obtain ⟨⟨win, al⟩, hw⟩ := window_of_bankAddress addr
  unfold fifoBank
  dsimp only
  rw [if_neg (not_not.mpr al), run_bind_ok (run_get s), win, if_neg (by decide), hw,
    bankNamed_eq_some_iff.mpr h]
  exact run_ite ..

end

/-! ### FPUSH and FPOP -/

theorem exec_fpush (v a : Reg) (s : State) : exec (.fpush v a) s = runM (fifoPush v a) s := rfl
theorem exec_fpop (v a : Reg) (s : State) : exec (.fpop v a) s = runM (fifoPop v a) s := rfl

/-- FPUSH and FPOP end as their first checks do. -/
theorem exec_fifo_of_limits {s : State} {i : Instr} {v a : Reg} (form : i = .fpush v a ∨ i = .fpop v a) {c : Cause} {e : Nat} {x : Word}
    (h : (fifoLimits v).run s = (.error (.trap c e x), s)) : exec i s = .next (takeTrap c e x s) := by
  rcases form with rfl | rfl
  · exact (exec_fpush v a s).trans (runM_trap (run_bind_error h))
  · exact (exec_fpop v a s).trans (runM_trap (run_bind_error h))

theorem exec_fifo_of_bank {s : State} {i : Instr} {v a : Reg} (form : i = .fpush v a ∨ i = .fpop v a) (hs : s.h.ms.strip = none)
    (lim : FifoLimits s v) {c : Cause} {e : Nat} {x : Word}
    (h : ∀ k, (fifoBank (s.getX a).toNat k).run s = (.error (.trap c e x), s)) : exec i s = .next (takeTrap c e x s) := by
  rcases form with rfl | rfl
  · exact (exec_fpush v a s).trans
      (runM_trap ((run_bind_ok (run_fifoLimits hs lim)).trans ((run_bind_ok (run_readX a s)).trans (run_bind_error (h .store)))))
  · exact (exec_fpop v a s).trans
      (runM_trap ((run_bind_ok (run_fifoLimits hs lim)).trans ((run_bind_ok (run_readX a s)).trans (run_bind_error (h .load)))))

theorem fifoTraps : FifoTraps := by
  intro s i v a form hs
  have addr : BitVec.ofNat 64 (s.getX a).toNat = s.getX a := BitVec.ofNat_toNat ..
  refine ⟨fun no => exec_fifo_of_limits form (run_fifoLimits_illegal no), fun lim mis => ?_, fun b lim h other => ?_⟩
  · refine exec_fifo_of_bank form hs lim fun k => ?_
    rw [run_fifoBank_misaligned k mis, addr]
  · refine exec_fifo_of_bank form hs lim fun k => ?_
    rw [run_fifoBank k h, if_neg other, addr]

section

variable {s : State} {v a : Reg} {b : Bank} (lim : FifoLimits s v) (hs : s.h.ms.strip = none)
  (h : NamedBank s (s.getX a).toNat b) (hm : b.mode = .fifo)
  (once : ∀ z ∈ s.dev.banks, z.die = b.die ∧ z.core = b.core ∧ z.num = b.num → z = b)
include lim hs h hm

/-- FPUSH and FPOP within their limits come to the bank that they name. -/
theorem run_fifo (k : Kind) (f : Bank → M Unit) : (do fifoLimits v; let b ← fifoBank (← readX a).toNat k; f b).run s = (f b).run s := by
  have bank := run_fifoBank k h
  rw [if_pos hm] at bank
  exact (run_bind_ok (run_fifoLimits hs lim)).trans ((run_bind_ok (run_readX a s)).trans (run_bind_ok bank))

include once

theorem exec_fpush_room (room : b.fifo.length < 128) (hq : s.h.ms.storeQ = []) (hf : s.h.ms.fabricQ = []) :
    exec (.fpush v a) s = .next (State.retired { s with
      dev := { s.dev with banks := withBank s b { b with fifo := b.fifo ++ [s.h.entryOf v] } } }) := by
  rw [← modBank_eq_withBank once fun y => { y with fifo := y.fifo ++ [s.h.entryOf v] }]
  refine (exec_fpush v a s).trans (runM_ok ((run_fifo lim hs h hm .store _).trans ((run_bind_ok (run_getH s)).trans ?_)))
  dsimp only
  rw [if_neg fun e => absurd room (Nat.not_lt.mpr e.1)]
  exact run_bind_ok (run_releaseWait_of_empty hq hf 4)

theorem exec_fpop_entry {x : BitVec 1024} {r : List (BitVec 1024)} (hx : b.fifo = x :: r) :
    exec (.fpop v a) s = .next (State.retired { s with
      h := { s.h.popped v x s.h.vc.vl with ms := { s.h.ms with bound := [] } }
      dev := { s.dev with banks := withBank s b { b with fifo := r } } }) := by
  have change := modBank_eq_withBank once fun y => { y with fifo := y.fifo.drop 1 }
  rw [hx, List.drop_one, List.tail_cons] at change
  rw [← change, ← (s.h.popped_keeps v x s.h.vc.vl).2.2]
  refine (exec_fpop v a s).trans (runM_ok ((run_fifo lim hs h hm .load _).trans ?_))
  rw [hx]
  rfl
end

theorem fifoMoves : FifoMoves := fun s v _ _ lim hs h hm once =>
  ⟨fun room hq hf => ⟨_, _, fun _ _ hk hj => getLsbD_entryOf lim.2.1 v hk hj, exec_fpush_room lim hs h hm once room hq hf,
      doneV_retireV rfl rfl⟩,
    fun x _ hx => ⟨s.h.popped v x, _, rfl, fun k _ => s.h.popped_succ v x k, exec_fpop_entry lim hs h hm once hx,
      doneV_retireV (s.h.popped_keeps v x _).1 (s.h.popped_keeps v x _).2.1⟩⟩

/-- Settles O45: the bits of an entry are those of the elements side by side, and the checks come in R119's order. -/
theorem fifoBanks : Obligations.FifoBanks := ⟨fifoMoves, fifoTraps⟩

end Sys2Proof.Machine
end


section
/-! Line operations over a range (R117, R118, R122): where a translation leads within its frame, a store to local memory, the
loop over lines that are each performed, lines that LCLEAN and LINV pass, and the parts that the lines of a DISCARD make. -/

namespace Sys2Proof.Machine

open Sys2Proof.Claims

/-! ### Where a translation leads within its frame (R51, R56) -/

theorem homeOf_mod (d : Device) (pa : Nat) : d.homeOf pa % 0x10000 = pa % 0x10000 := by
  unfold Device.homeOf
  split
  · split
    · exact Nat.mod_mod_of_dvd pa (by decide)
    · rfl
  · rfl

theorem Leaf.frame_dvd_size (l : Leaf) : 0x10000 ∣ l.size := by
  unfold Leaf.size pageSize
  split <;> decide

/-- A page keeps an address's place within its 64 KiB frame. -/
theorem Leaf.key_loc_mod (l : Leaf) (s : State) (c : Ctx) (va : Nat) : (l.loc s c va).2.key % 0x10000 = va % 0x10000 := by
  have key : (l.loc s c va).2.key = s.dev.homeOf (bits l.pte 16 36 * 0x10000 / l.size * l.size + va % l.size) := rfl
  rw [key, homeOf_mod, Nat.add_mod, Nat.mod_eq_zero_of_dvd (l.frame_dvd_size.mul_left _), Nat.zero_add, Nat.mod_mod,
    Nat.mod_mod_of_dvd _ l.frame_dvd_size]

theorem mapped_key_mod {s : State} {va : Nat} {k : Kind} {l : Leaf} {loc : Loc} (m : Mapped s va k l loc) :
    loc.key % 0x10000 = va % 0x10000 := by
  rw [m.place]
  exact l.key_loc_mod ..

/-- A mapped address keeps its place within its line. -/
theorem mapped_key_line {s : State} {va : Nat} {k : Kind} {l : Leaf} {loc : Loc} (m : Mapped s va k l loc) :
    loc.key % 128 = va % 128 := by
  rw [← Nat.mod_mod_of_dvd loc.key (by decide : 128 ∣ 0x10000), mapped_key_mod m, Nat.mod_mod_of_dvd va (by decide)]

/-! ### A store to local memory (R265, R273) -/

/-- The machine with the youngest entries `ps` in the store queue of the moving hart. -/
def State.queued (s : State) (ps : List Part) : State :=
  { s with h := { s.h with ms := { s.h.ms with storeQ := s.h.ms.storeQ ++ ps } } }

/-- A whole part that the hart's next instruction stores. -/
def State.wholePart (s : State) (loc : Loc) (va : Nat) (bs : List Byte) (rel : Option Nat) : Part :=
  { key := loc.key, bytes := bs, va := va, map := loc.map, rel := rel, pc := s.h.pc }

/-- The one part of a store within one line. -/
theorem storeParts_one {va n : Nat} {loc : Loc} {bs : List Byte} (hn : 0 < n) (hl : loc.key % 128 + n ≤ 128) (hb : bs.length = n)
    (hattr : loc.attr ≠ 2) (htier : loc.tier = none) (rel : Option Nat) :
    storeParts [(va, loc, n)] bs none rel = [{ key := loc.key, bytes := bs, va := va, map := loc.map, rel := rel }] := by
  have here : (decide (va ≤ va) && decide (va < va + n)) = true := by rw [decide_eq_true (Nat.le_refl va), decide_eq_true (Nat.lt_add_of_pos_right hn)]; rfl
  have found : [(va, loc, n)].find? (fun q => decide (q.1 ≤ va) && decide (va < q.1 + q.2.2)) = some (va, loc, n) := List.find?_cons_of_pos here
  have idem : (loc.attr == 2) = false := beq_false_of_ne hattr
  rw [storeParts, lineParts_eq_singleton hn hl]
  dsimp only [List.foldl]
  rw [found, ← hb, List.take_length]
  dsimp only [Option.map, Option.getD, Option.bind]
  rw [idem, htier]
  rfl

section

variable {s : State} {va n : Nat} {l : Leaf} {loc : Loc} (m : Mapped s va .store l loc) (hn : 0 < n) (hs : n ≤ stretch va)
  (strip : s.h.ms.strip = none)
include m hn hs strip

theorem run_storePlaces_mapped {bad : Refuses} (hbad : bad n va n loc = false) (el : Nat) :
    (storePlaces el va n bad).run s = (.ok [(va, loc, n)], s) := by
  have place : (storePlace (bad n va n) el va n).run s = (.ok loc, s) := by
    refine (run_bind_ok (run_getH s)).trans ?_
    rw [strip]
    exact run_translateHAt_mapped m hbad el n false
  unfold storePlaces
  rw [frames_eq_singleton hn hs]
  exact run_bind_ok place

/-- A store within one line of local memory enters the store queue as one part. -/
theorem run_storeBytes_local (home : LocalKey loc.key) (hl : loc.key % 128 + n ≤ 128) (hb : s.h.ms.bound = [])
    (watch : s.h.watchHit .store va n = none) (el : Nat) {bs : List Byte} (len : bs.length = n) (tag rel : Option Nat) :
    (storeBytes el va bs tag rel).run s = (.ok (), s.queued [s.wholePart loc va bs rel]) := by
  subst len
  have hattr : loc.attr ≠ 2 := Nat.ne_of_lt m.idempotent
  have hrule : scalarRule bs.length va bs.length loc = false := by rw [scalarRule, beq_false_of_ne hattr, Bool.false_and]
  have hplaces := run_mapM_singleton (f := fun w : Write => do return (w, ← storePlaces el w.va w.bs.length scalarRule))
    (a := ⟨va, bs, none⟩) (s := s) (run_bind_ok (run_storePlaces_mapped m hn hs strip hrule el))
  have hready := run_forM_singleton (f := fun p : Write × List (Nat × Loc × Nat) => bankReady p.2)
    (a := (⟨va, bs, none⟩, [(va, loc, bs.length)])) (run_bankReady_local home hn hl (va := va) (s := s))
  have henter : (enterStore tag [{ key := loc.key, bytes := bs, va := va, map := loc.map, rel := rel }]).run s =
      (.ok (), s.queued [s.wholePart loc va bs rel]) := by
    refine (run_bind_ok (run_getH s)).trans ((run_bind_ok (run_modH _ s)).trans ?_)
    rw [Hart.dropBound_idle _ _ hb]
    refine (run_bind_ok (run_getH s)).trans ?_
    rw [strip]
    rfl
  have hnote : (noteWatch .store va bs.length false tag).run (s.queued [s.wholePart loc va bs rel]) = (.ok (), s.queued [s.wholePart loc va bs rel]) := by
    refine (run_bind_ok (run_getH _)).trans ?_
    rw [show (s.queued [s.wholePart loc va bs rel]).h.watchHit .store va bs.length = none from watch]
    rfl
  refine (run_bind_ok hplaces).trans ((run_bind_ok hready).trans ?_)
  rw [List.flatMap_singleton, storeParts_one hn hl rfl hattr (by rw [m.place]; rfl)]
  exact (run_bind_ok henter).trans (run_forM_singleton hnote)

end

/-! ### The loop over lines (R122) -/

/-- The machine with another VSTART of the moving hart. -/
def State.atLine (s : State) (k : Nat) : State := { s with h := { s.h with vc := { s.h.vc with vstart := BitVec.ofNat 48 k } } }

theorem State.atLine_vstart (s : State) : s.atLine s.h.vc.vstart.toNat = s := by
  rw [State.atLine, BitVec.ofNat_toNat, BitVec.setWidth_eq]

theorem run_guardWatch_ok {α : Type} {x : M α} {s t : State} {a : α} (h : x.run s = (.ok a, t)) :
    (guardWatch x).run s = (.ok a, t) := by
  unfold guardWatch
  rw [run_bind_ok (run_getH s)]
  exact run_tryCatch_ok h

/-- Between two elements the hart stops for nothing. -/
theorem run_elemPoint {s : State} (still : s.h.ms.watchHit = none ∧ s.oracle = []) (more : Bool) :
    (elemPoint more).run s = (.ok (), s) := by
  refine (run_bind_ok (run_getH s)).trans ?_
  rw [still.1]
  cases more with
  | false => rfl
  | true =>
    rw [if_pos rfl, if_neg (by rw [Option.any_none]; decide)]
    split
    · exact run_bind_ok (run_choose_default still.2)
    · rfl

section

variable {u : Nat → State} (still : ∀ j, (u j).h.ms.watchHit = none ∧ (u j).oracle = [])
include still

/-- The loop over lines `k` to `n + k - 1`, line `j` leading from the machine `u j` to `u (j + 1)`. -/
theorem run_lineLoop {f : Nat → M Unit} (n : Nat) : ∀ k, (∀ j, k ≤ j → j < n + k →
    ∃ v, (f j).run (u j) = (.ok (), v) ∧ v.atLine (j + 1) = u (j + 1)) → (lineLoop f n k).run (u k) = (.ok (), u (n + k)) := by
  induction n with
  | zero => exact fun k _ => congrArg (fun m => (Except.ok (), u m)) (Nat.zero_add k).symm
  | succ n ih =>
    intro k each
    obtain ⟨v, run, next⟩ := each k (Nat.le_refl k) (Nat.lt_add_of_pos_left n.succ_pos)
    rw [Nat.succ_add_eq_add_succ] at each ⊢
    have rest := ih (k + 1) fun j lo hi => each j (Nat.le_of_succ_le lo) hi
    exact (run_bind_ok (run_guardWatch_ok run)).trans ((run_bind_ok (run_modH _ v)).trans
      ((congrArg (fun w => (do elemPoint (n != 0); lineLoop f n (k + 1)).run w) next).trans
        ((run_bind_ok (run_elemPoint (still (k + 1)) _)).trans rest)))

/-- A line operation all of whose lines from VSTART on are performed. -/
theorem run_lineOp {s : State} {a b : Reg} {f : Nat → Nat → M Unit} (start : u s.h.vc.vstart.toNat = s)
    (each : ∀ j, s.h.vc.vstart.toNat ≤ j → j < Claims.linesOf (s.getX a).toNat (s.getX b).toNat →
      ∃ v, (f j (rangeLine (s.getX a).toNat j)).run (u j) = (.ok (), v) ∧ v.atLine (j + 1) = u (j + 1)) :
    (lineOp a b f).run s = (.ok (), (u (Claims.linesOf (s.getX a).toNat (s.getX b).toNat - s.h.vc.vstart.toNat +
      s.h.vc.vstart.toNat)).retired) := by
  have loop := run_lineLoop still (f := fun k => f k (rangeLine (s.getX a).toNat k))
    (Claims.linesOf (s.getX a).toNat (s.getX b).toNat - s.h.vc.vstart.toNat) s.h.vc.vstart.toNat fun j lo hi =>
      each j lo (lt_of_tsub_lt_tsub_right (Nat.sub_lt_right_of_lt_add lo hi))
  rw [start] at loop
  exact (run_bind_ok (run_getH s)).trans (run_bind_ok loop)

end

/-! ### LPF, LCLEAN and LINV (R117) -/

theorem exec_lpfL2 (a b : Reg) (s : State) : exec (.lpfL2 a b) s = runM retireV s := rfl
theorem exec_lpfL1 (a b : Reg) (s : State) : exec (.lpfL1 a b) s = runM retireV s := rfl
theorem exec_lclean (a b : Reg) (s : State) : exec (.lclean a b) s = runM (cleanLines a b) s := rfl
theorem exec_linv (a b : Reg) (s : State) : exec (.linv a b) s = runM (cleanLines a b) s := rfl
theorem exec_discard (a b : Reg) (s : State) : exec (.discard a b) s = runM (discardLines a b) s := rfl

/-- A line that is skipped or may be read is passed. -/
theorem run_cleanLine {s : State} {va : Nat}
    (h : (inWindow va = true ∧ va < 2 ^ 52) ∨ ∃ l c, Mapped s va .load l c) (k : Nat) : (cleanLine k va).run s = (.ok (), s) := by
  refine (run_bind_ok (run_get s)).trans ?_
  split
  · rfl
  · next skip =>
    rcases h with ⟨win, low⟩ | ⟨l, c, m⟩
    · rw [State.skipsLine, win, decide_eq_true low] at skip
      exact absurd rfl skip
    · exact run_bind_ok (run_translateH_mapped m k 128 false)

/-- LCLEAN and LINV change nothing but VSTART. -/
theorem runM_cleanLines {s : State} (fresh : Fresh s) {a b : Reg}
    (lines : ∀ k, s.h.vc.vstart.toNat ≤ k → k < Claims.linesOf (s.getX a).toNat (s.getX b).toNat →
      (inWindow (rangeLine (s.getX a).toNat k) = true ∧ rangeLine (s.getX a).toNat k < 2 ^ 52) ∨
      ∃ l c, Mapped s (rangeLine (s.getX a).toNat k) .load l c) : ∃ t, runM (cleanLines a b) s = .next t ∧ DoneV s s t := by
  have run := run_lineOp (u := s.atLine) (f := cleanLine) (fun _ => ⟨fresh.quiet.1, fresh.choices⟩) s.atLine_vstart
    fun j lo hi => ⟨s.atLine j, run_cleanLine ((lines j lo hi).imp_right fun ⟨l, c, m⟩ =>
      ⟨l, c, mapped_withH m ⟨rfl, rfl, rfl, rfl, rfl⟩⟩) j, rfl⟩
  exact ⟨_, runM_ok ((run_bind_ok (run_noStrip fresh.strip)).trans run), doneV_retireV (w := s.atLine _) rfl rfl⟩

/-! ### DISCARD (R118) -/

/-- The machine in which a DISCARD that starts at line `k0` has come to line `j`. -/
def State.discarded (s : State) (p : Nat → Part) (k0 j : Nat) : State :=
  (s.queued (((List.range j).filter fun k => decide (k0 ≤ k)).map p)).atLine j

/-- Lines from `k0` on, counted from there. -/
theorem filter_range_from (k0 n : Nat) :
    (List.range (n - k0 + k0)).filter (fun k => decide (k0 ≤ k)) = (List.range n).filter fun k => decide (k0 ≤ k) := by
  rcases Nat.le_total k0 n with le | le
  · rw [Nat.sub_add_cancel le]
  · have none' : ∀ m, m ≤ k0 → (List.range m).filter (fun k => decide (k0 ≤ k)) = [] := fun m hm =>
      List.filter_eq_nil_iff.mpr fun k hk h => absurd (of_decide_eq_true h) (Nat.not_le.mpr ((List.mem_range.mp hk).trans_le hm))
    rw [Nat.sub_eq_zero_of_le le, Nat.zero_add, none' k0 (Nat.le_refl k0), none' n le]

theorem State.discarded_start (s : State) (p : Nat → Part) : s.discarded p s.h.vc.vstart.toNat s.h.vc.vstart.toNat = s := by
  have none' := filter_range_from s.h.vc.vstart.toNat 0
  rw [Nat.zero_sub, Nat.zero_add] at none'
  rw [State.discarded, none', List.range_zero, List.filter_nil, List.map_nil, State.queued, List.append_nil]
  exact s.atLine_vstart

theorem State.discarded_succ (s : State) (p : Nat → Part) {k0 j : Nat} (h : k0 ≤ j) :
    ((s.discarded p k0 j).queued [p j]).atLine (j + 1) = s.discarded p k0 (j + 1) := by
  have lines : (List.range (j + 1)).filter (fun k => decide (k0 ≤ k)) = (List.range j).filter (fun k => decide (k0 ≤ k)) ++ [j] := by
    rw [List.range_succ, List.filter_append, List.filter_singleton, decide_eq_true h, cond_true]
  rw [State.discarded.eq_1 s p k0 (j + 1), lines, List.map_append]
  exact congrArg (fun q => State.atLine { s with h := { s.h with ms := { s.h.ms with storeQ := q } } } (j + 1)) (List.append_assoc ..)

/-- A DISCARD queues a line of zeros. -/
theorem run_discardLine {s : State} {va : Nat} {loc : Loc} (strip : s.h.ms.strip = none) (hb : s.h.ms.bound = [])
    (st : StoresAt s va 128 loc) (k : Nat) :
    (discardLine k va).run s = (.ok (), s.queued [partOf s loc va 128 0 none]) := by
  obtain ⟨al, ⟨l, m⟩, home, watch⟩ := st
  have hs := le_stretch_of_aligned m.address.2 (dvd_refl 128) al
  have hl : loc.key % 128 + 128 ≤ 128 := by rw [mapped_key_line m, al]
  have hattr : loc.attr ≠ 2 := Nat.ne_of_lt m.idempotent
  have places := run_places_mapped m (bad := idemRule) (by simpa [idemRule] using hattr) (by decide) hs k false
  unfold discardLine
  rw [run_bind_ok places, run_storeBytes_local m (by decide) hs strip home hl hb watch k (bs := List.replicate 128 0)
    List.length_replicate, partOf, map_ofNat_zero]
  rfl

theorem storesAt_discarded {s : State} {va n : Nat} {loc : Loc} (st : StoresAt s va n loc) (p : Nat → Part) (k0 j : Nat) :
    StoresAt (s.discarded p k0 j) va n loc := by
  obtain ⟨al, ⟨l, m⟩, home, watch⟩ := st
  have still := mapped_withH (g := (s.discarded p k0 j).h) m ⟨rfl, rfl, rfl, rfl, rfl⟩
  exact ⟨al, ⟨l, still⟩, home, watch⟩

theorem rangeLine_of_storesAt {s : State} {xa k : Nat} {loc : Loc} (al : xa % 128 = 0) (st : StoresAt s (xa + 128 * k) 128 loc) :
    rangeLine xa k = xa + 128 * k := by
  obtain ⟨-, ⟨l, m⟩, -⟩ := st
  rw [rangeLine, Nat.div_mul_cancel (Nat.dvd_of_mod_eq_zero al), Nat.mod_eq_of_lt (m.address.1.trans (by decide))]

theorem linesOf_aligned {xa xb : Nat} (ha : xa % 128 = 0) (hb : xb % 128 = 0) : Claims.linesOf xa xb = xb / 128 := by
  obtain ⟨a, rfl⟩ := Nat.dvd_of_mod_eq_zero ha
  obtain ⟨b, rfl⟩ := Nat.dvd_of_mod_eq_zero hb
  rw [Claims.linesOf, ← Nat.mul_add, Nat.mul_add_div (by decide), Nat.mul_div_cancel_left a (by decide),
    Nat.mul_div_cancel_left b (by decide)]
  split
  · next h => exact ((Nat.mul_eq_zero.mp h).resolve_left (by decide)).symm
  · exact Nat.add_sub_cancel_left a b

section

variable {s : State} {a b : Reg}

theorem runM_discardLines {loc : Nat → Loc} (fresh : Fresh s) (early : s.h.ms.early = []) (ha : (s.getX a).toNat % 128 = 0)
    (hb : (s.getX b).toNat % 128 = 0) (lines : ∀ k, s.h.vc.vstart.toNat ≤ k → k < (s.getX b).toNat / 128 →
      StoresAt s ((s.getX a).toNat + 128 * k) 128 (loc k)) : ∃ t, runM (discardLines a b) s = .next t ∧
      Stored s t (((List.range ((s.getX b).toNat / 128)).filter fun k => decide (s.h.vc.vstart.toNat ≤ k)).map fun k =>
        partOf s (loc k) ((s.getX a).toNat + 128 * k) 128 0 none) := by
  have run := run_lineOp (u := s.discarded (fun k => partOf s (loc k) ((s.getX a).toNat + 128 * k) 128 0 none) s.h.vc.vstart.toNat)
    (f := discardLine) (a := a) (b := b) (fun _ => ⟨fresh.quiet.1, fresh.choices⟩) (s.discarded_start _) fun j lo hi => by
      have st := lines j lo (linesOf_aligned ha hb ▸ hi)
      rw [rangeLine_of_storesAt ha st]
      exact ⟨_, run_discardLine (s := s.discarded _ _ j) fresh.strip fresh.quiet.2.bound (storesAt_discarded st _ _ j) j, s.discarded_succ _ lo⟩
  rw [linesOf_aligned ha hb] at run
  have aligned : (discardLines a b).run s = (lineOp a b discardLine).run s := by
    refine (run_bind_ok (run_noStrip fresh.strip)).trans ((run_bind_ok (run_getH s)).trans ?_)
    rw [early]
    refine (run_bind_ok (run_readX a s)).trans ((run_bind_ok (run_readX b s)).trans ?_)
    rw [if_neg (not_or.mpr ⟨not_not.mpr ha, not_not.mpr hb⟩)]
  rw [← filter_range_from]
  exact ⟨_, runM_ok (aligned.trans run), doneV_retireV (w := s.discarded _ _ _) rfl rfl⟩

theorem runM_discardLines_misaligned (strip : s.h.ms.strip = none) (early : s.h.pc ∉ s.h.ms.early)
    (mis : (s.getX a).toNat % 128 ≠ 0 ∨ (s.getX b).toNat % 128 ≠ 0) :
    runM (discardLines a b) s = .next (takeTrap .misalign 0 (s.getX a) s) := by
  refine runM_trap ((run_bind_ok (run_noStrip strip)).trans ((run_bind_ok (run_getH s)).trans ?_))
  rw [if_neg (mt List.contains_iff_mem.mp early)]
  refine (run_bind_ok (run_readX a s)).trans ((run_bind_ok (run_readX b s)).trans ?_)
  rw [if_pos mis]
  exact run_bind_error (run_trap ..)

end

/-- Settles O46: each line from VSTART on is passed or queued by itself, and the loop puts them together. -/
theorem lineOperations : Obligations.LineOperations := fun s a b _ =>
  ⟨⟨_, exec_lpfL2 a b s, doneV_retireV rfl rfl⟩, ⟨_, exec_lpfL1 a b s, doneV_retireV rfl rfl⟩,
    fun fresh lines => ⟨by rw [exec_lclean]; exact runM_cleanLines fresh lines, by rw [exec_linv]; exact runM_cleanLines fresh lines⟩,
    fun fresh early ha hb lines => by rw [exec_discard]; exact runM_discardLines fresh early ha hb lines,
    fun strip early mis => by rw [exec_discard]; exact runM_discardLines_misaligned strip early mis⟩

end Sys2Proof.Machine
end


section
/-! Steps of a copy engine (R114, R132, R135): what it translates, the lists of commands, the banks of a command that has left,
reading a source line, and failing. -/

namespace Sys2Proof.Machine

open Sys2Proof.Claims

/-! ### Translations of an engine (R56, R124) -/

/-- A context that translates as the command `c` does. -/
def Cmd.SeesAs (c : Cmd) (x : Ctx) : Prop := x.tenant = c.tenant ∧ x.root = c.root ∧ x.asid = c.asid

theorem Leaf.loc_congr {x y : Ctx} (ht : x.tenant = y.tenant) (ha : x.asid = y.asid) (l : Leaf) (s : State) (va : Nat) :
    l.loc s x va = l.loc s y va := by
  simp only [Leaf.loc, ht, ha]

theorem run_if_pos {α : Type} {p : Prop} [Decidable p] {m n : M α} {s : State} (h : p) : (if p then m else n).run s = m.run s :=
  congrArg (fun x : M α => x.run s) (if_pos h)

theorem run_if_neg {α : Type} {p : Prop} [Decidable p] {m n : M α} {s : State} (h : ¬p) : (if p then m else n).run s = n.run s :=
  congrArg (fun x : M α => x.run s) (if_neg h)

section
variable {s : State} {c : Cmd} {x : Ctx} {va : Nat} {k : Kind} {loc : Loc}

/-- Without choices of the device a translation walks afresh. -/
theorem run_lookup_default (ho : s.oracle = []) (x : Ctx) (va : Nat) (k : Kind) :
    (lookup x va k).run s = (lookup.walkIt x va 0 s).run s := by
  refine (run_bind_ok (run_choose_default ho)).trans ((run_bind_ok (run_get s)).trans ?_)
  dsimp only
  split <;> rfl

/-- A leaf that the walk finds and whose home has A is the answer of a look-up. -/
theorem run_lookup_leaf {l : Leaf} (ho : s.oracle = []) (walk : s.walk x.tenant x.root va = .ok l) (resident : l.tiered = false)
    (accessed : bits (s.dev.mem.getNat l.ptea 8) 6 1 = 1) : (lookup x va k).run s = (.ok (.ok (l.withBit 6)), s) := by
  rw [run_lookup_default ho, lookup.walkIt, walk]
  dsimp only
  rw [resident, State.orLeaf_of_set accessed]
  rfl

/-- What a translation that has found a resident leaf still checks. -/
theorem run_translateAt_leaf {l : Leaf} (ho : s.oracle = []) (low : va < 2 ^ 52) (win : inWindow va = false)
    (walk : s.walk x.tenant x.root va = .ok l) (permits : allowed l.pte k = true) (resident : l.tiered = false)
    (accessed : bits (s.dev.mem.getNat l.ptea 8) 6 1 = 1) (dirty : k = .store ∨ k = .amo → bits l.pte 7 1 = 1)
    (place : (l.loc s x va).2 = loc) (grant : s.dev.grants x.tenant (l.loc s x va).1 k = true) (attr : loc.attr ≠ 2)
    {bad : Loc → Bool} (hbad : bad loc = false) (n : Nat) : (translateAt bad x va k n).run s = (.ok (.ok loc), s) := by
  have clean : ¬((k = .store ∨ k = .amo) ∧ bits (l.withBit 6).pte 7 1 = 0) := fun ⟨h, h0⟩ =>
    absurd ((Leaf.bits_withA (.inr (by decide))).symm.trans h0) (by rw [dirty h]; decide)
  refine (run_if_neg (not_not.mpr (Nat.div_eq_of_lt low))).trans ((run_if_neg (by rw [win]; decide)).trans
    ((run_bind_ok (run_lookup_leaf ho walk resident accessed)).trans ((run_if_neg (by rw [Leaf.allowed_withA, permits]; decide)).trans
    ((run_if_neg (by rw [Leaf.tiered_withA, resident]; decide)).trans ((run_bind_ok (run_get s)).trans ?_)))))
  rw [Leaf.loc_withA]
  generalize l.loc s x va = q at place grant ⊢
  subst place
  refine (run_if_neg (fun h => h.elim (fun h => attr h.1) fun h => Bool.false_ne_true (hbad.symm.trans h))).trans
    ((run_if_neg (by rw [grant]; decide)).trans (run_if_neg clean))
end

section
variable {s : State} {c : Cmd} {x : Ctx} {va : Nat} {k : Kind} {loc : Loc}

/-- Where an engine translates as `EngineMaps` says: the place, and that nothing changes. -/
theorem engineMaps_spec (m : EngineMaps s c va k loc) (hk : k ≠ .amo) :
    (loc.key % 0x10000 = va % 0x10000 ∧ loc.attr ≠ 2 ∧ LocalKey loc.key) ∧ ∀ {x : Ctx} {bad : Loc → Bool}, c.SeesAs x → bad loc = false →
      ∀ n, (translateAt bad x va k n).run s = (.ok (.ok loc), s) := by
  obtain ⟨low, win, ho, l, walk, permits, resident, accessed, dirty, place, grant, attr, home⟩ := m
  have key : loc.key % 0x10000 = va % 0x10000 := place ▸ l.key_loc_mod ..
  refine ⟨⟨key, Nat.ne_of_lt attr, home⟩, fun see hbad n => ?_⟩
  have own := Leaf.loc_congr (y := c.ctx) see.1 see.2.2 l s va
  refine run_translateAt_leaf ho low win ?_ permits resident accessed (fun h => dirty (h.resolve_right hk)) (own ▸ place.symm) ?_
    (Nat.ne_of_lt attr) hbad n
  · rw [see.1, see.2.1]
    exact walk
  · rw [own, see.1]
    exact grant

/-- A walk that faults is the engine's answer. -/
theorem run_translateAt_fault {e : Cause} (ho : s.oracle = []) (low : va < 2 ^ 52 ∧ inWindow va = false)
    (walk : s.walk x.tenant x.root va = .error (.cause e)) (bad : Loc → Bool) (n : Nat) :
    (translateAt bad x va k n).run s = (.ok (.error (.cause e)), s) := by
  have found : (lookup x va k).run s = (.ok (.error (.cause e)), s) := by
    rw [run_lookup_default ho, lookup.walkIt, walk]
    rfl
  exact (run_if_neg (not_not.mpr (Nat.div_eq_of_lt low.1))).trans ((run_if_neg (by rw [low.2]; decide)).trans (run_bind_ok found))

/-! ### Attempts on a source line (R132, R135) -/

/-- A line in local memory that is intact is read as it stands. -/
theorem attempt_ok (m : EngineMaps s c va .load loc) (intact : s.dev.bad (loc.key / 128 * 128) 128 = false) (row : Bool) :
    s.attempt c va row = (.ok (s.dev.mem.getBytes (loc.key / 128 * 128) 128) loc.map, s) := by
  obtain ⟨⟨-, attr, home⟩, translates⟩ := engineMaps_spec m nofun
  have home : LocalKey (loc.key / 128 * 128) := localKey_of_same_line home (Nat.mul_div_cancel _ (by decide))
  have line : s.lineAt (loc.key / 128 * 128) loc.map = .ok (s.dev.mem.getBytes (loc.key / 128 * 128) 128) loc.map :=
    if_neg (by rw [intact]; decide)
  have run : (engineLine c va row).run s = (.ok (.ok (s.dev.mem.getBytes (loc.key / 128 * 128) 128) loc.map), s) := by
    refine (run_bind_ok (translates ⟨rfl, rfl, rfl⟩ rfl 1)).trans ((run_bind_ok (run_get s)).trans ((run_if_neg attr).trans ?_))
    rcases home with home | home
    all_goals
      rw [home]
      refine (run_if_neg (by rw [Bool.and_eq_true]; exact fun h => absurd h.2 (by decide))).trans ?_
      rw [line]
      rfl
  rw [State.attempt, run]

theorem attempt_fault {e : Cause} (ho : s.oracle = []) (low : va < 2 ^ 52 ∧ inWindow va = false)
    (walk : s.walk c.tenant c.root va = .error (.cause e)) (row : Bool) : s.attempt c va row = (.fails e, s) := by
  have run : (engineLine c va row).run s = (.ok (.fails e), s) := run_bind_ok (run_translateAt_fault (x := c.ctx) ho low walk _ 1)
  rw [State.attempt, run]

end

/-! ### The commands of the device -/

theorem same_iff {c x : Cmd} : x.same c = true ↔ SameCmd x c := by
  simp [Cmd.same, SameCmd, and_assoc]

theorem same_congr {c c' : Cmd} (name : SameCmd c' c) (x : Cmd) : x.same c' = x.same c := by
  rw [Cmd.same, Cmd.same, name.1, name.2.1, name.2.2]

/-- A command that no gang keeps for a re-issue is replaced in its queue alone. -/
theorem setCmd_eq {s : State} {c c' : Cmd} (name : SameCmd c' c) (saved : ∀ g ∈ s.dev.gangs, ∀ x ∈ g.savedCmds, ¬SameCmd x c) :
    s.dev.setCmd c' = { s.dev with cmds := cmdsWith s c c' } := by
  have cmds : (s.dev.cmds.map fun x => if x.same c' then c' else x) = cmdsWith s c c' := List.map_congr_left fun x _ =>
    if_congr (by rw [same_congr name, same_iff]) rfl rfl
  have gangs : (s.dev.gangs.map fun g => { g with savedCmds := g.savedCmds.map fun x => if x.same c' then c' else x }) = s.dev.gangs :=
    (List.map_congr_left fun g hg => congrArg (fun l => { g with savedCmds := l }) ((List.map_congr_left fun x hx =>
      if_neg (by rw [same_congr name, same_iff]; exact saved g hg x hx)).trans (List.map_id' _))).trans (List.map_id' _)
  exact congrArg₂ (fun cs gs => { s.dev with cmds := cs, gangs := gs }) cmds gangs

theorem dropCmd_eq {s : State} {c c' : Cmd} (name : SameCmd c' c) : s.dev.dropCmd c' = { s.dev with cmds := cmdsWithout s c } := by
  have kept : (fun x : Cmd => !x.same c') = fun x => !decide (x.owner = c.owner ∧ x.eng = c.eng ∧ x.num = c.num) := funext fun x =>
    congrArg not (by rw [same_congr name, Bool.eq_iff_iff, same_iff, decide_eq_true_iff, SameCmd])
  exact congrArg (fun p => { s.dev with cmds := s.dev.cmds.filter p }) kept

/-! ### Banks of a command that has left its engine (R114, R133) -/

/-- A bank with a command outstanding, or an untracked one, keeps its state (R114). -/
theorem complete_of_busy {src : Bool} {n : Nat} {b : Bank} (h : ¬(b.trk = true ∧ n = 0)) : b.complete src n = b :=
  if_pos (by rw [Bool.or_eq_true, Bool.not_eq_true', bne_iff_ne, ← Bool.not_eq_true, ← not_and_or]; exact h)

theorem complete_dst {b : Bank} (trk : b.trk = true) :
    b.complete false 0 = if b.st = 1 ∧ b.hold = false then { b with st := 2 } else b := by
  rw [Bank.complete, trk, if_neg (by decide), if_neg (by decide)]
  simp only [Bool.not_eq_true']

theorem complete_src {b : Bank} (trk : b.trk = true) : b.complete true 0 = if b.st = 3 then { b with st := 0 } else b := by
  rw [Bank.complete, trk, if_neg (by decide), if_pos rfl]

/-- A completion transition changes the state of a slot only. -/
theorem complete_eq (src : Bool) (n : Nat) (b : Bank) : b.complete src n = { b with st := (b.complete src n).st } := by
  unfold Bank.complete
  split
  · rfl
  · split <;> split <;> rfl

theorem complete_complete (src : Bool) (n : Nat) (b : Bank) : (b.complete src n).complete src n = b.complete src n := by
  by_cases h : b.trk = true ∧ n = 0
  · obtain ⟨trk, rfl⟩ := h
    cases src
    · rw [complete_dst trk]
      split
      · exact (complete_dst (b := { b with st := 2 }) trk).trans (if_neg fun h => absurd h.1 (show ¬2 = 1 by decide))
      · next no => exact (complete_dst trk).trans (if_neg no)
    · rw [complete_src trk]
      split
      · exact (complete_src (b := { b with st := 0 }) trk).trans (if_neg (show ¬0 = 3 by decide))
      · next no => exact (complete_src trk).trans (if_neg no)
  · rw [complete_of_busy h, complete_of_busy h]

/-- A bank once the commands of a list of banks have completed there, `pend` being what remains of each. -/
def Bank.completedIn (die : Nat) (src : Bool) (pend : Nat → Nat → Nat) (l : List (Nat × Nat)) (b : Bank) : Bank :=
  if b.die = die ∧ (b.core, b.num) ∈ l then b.complete src (pend b.core b.num) else b

theorem completedIn_cons (die : Nat) (src : Bool) (pend : Nat → Nat → Nat) (p : Nat × Nat) (l : List (Nat × Nat)) (b : Bank) :
    (if b.die == die && b.core == p.1 && b.num == p.2 then b.complete src (pend p.1 p.2) else b).completedIn die src pend l =
      b.completedIn die src pend (p :: l) := by
  by_cases h : b.die = die ∧ (b.core, b.num) = p
  · obtain ⟨rfl, rfl⟩ := h
    have here : (b.die == b.die && b.core == b.core && b.num == b.num) = true := by simp only [beq_self_eq_true, Bool.and_self]
    have same : pend (b.complete src (pend b.core b.num)).core (b.complete src (pend b.core b.num)).num = pend b.core b.num := by
      rw [complete_eq]
    rw [if_pos here, Bank.completedIn.eq_1 _ _ _ _ b, if_pos ⟨rfl, List.mem_cons_self⟩, Bank.completedIn, same]
    split
    · exact complete_complete ..
    · rfl
  · have other : ¬(b.die == die && b.core == p.1 && b.num == p.2) = true := by
      simpa only [Bool.and_eq_true, beq_iff_eq, and_assoc, Prod.ext_iff] using h
    rw [if_neg other]
    exact if_congr (and_congr_right fun hd => ⟨List.mem_cons_of_mem p, fun m => (List.mem_cons.mp m).resolve_left fun e => h ⟨hd, e⟩⟩)
      rfl rfl

theorem foldl_modBank_complete (die : Nat) (src : Bool) (l : List (Nat × Nat)) : ∀ d : Device,
    l.foldl (fun d p => d.modBank die p.1 p.2 fun x => x.complete src (d.pend die p.1 p.2)) d =
      { d with banks := d.banks.map (Bank.completedIn die src (d.pend die) l) } := by
  induction l with
  | nil =>
    intro d
    have none' : Bank.completedIn die src (d.pend die) [] = id := funext fun b => if_neg (not_and_of_not_right _ List.not_mem_nil)
    rw [none', List.map_id]
    rfl
  | cons p l ih =>
    intro d
    refine (ih _).trans (congrArg (fun bs => { d with banks := bs }) ?_)
    exact List.map_map.trans (List.map_congr_left fun b _ => completedIn_cons die src (d.pend die) p l b)

/-- The banks once the command `c` has left the device `d`. -/
def banksBehind (d : Device) (c : Cmd) : List Bank :=
  (d.banks.map (Bank.completedIn c.die false (d.pend c.die) c.dbanks)).map (Bank.completedIn c.die true (d.pend c.die) c.sbanks)

theorem completeBanks_eq (d : Device) (c : Cmd) : d.completeBanks c = { d with banks := banksBehind d c } :=
  (foldl_modBank_complete c.die true c.sbanks _).trans (congrArg (fun e : Device =>
    { e with banks := e.banks.map (Bank.completedIn c.die true (e.pend c.die) c.sbanks) }) (foldl_modBank_complete c.die false c.dbanks d))

section

variable {die : Nat} {pend : Nat → Nat → Nat} {dl sl : List (Nat × Nat)} {b : Bank}

theorem completedIn_busy (h : ¬(b.die = die ∧ b.trk = true ∧ pend b.core b.num = 0)) (src : Bool) (l : List (Nat × Nat)) :
    b.completedIn die src pend l = b :=
  ite_eq_right_iff.mpr fun hd => complete_of_busy fun hb => h ⟨hd.1, hb⟩

theorem completedIn_dst (hd : b.die = die) (trk : b.trk = true) (h0 : pend b.core b.num = 0) :
    b.completedIn die false pend dl = if (b.core, b.num) ∈ dl ∧ b.st = 1 ∧ b.hold = false then { b with st := 2 } else b := by
  rw [Bank.completedIn, h0, complete_dst trk, ite_and, if_pos hd, ← ite_and]

theorem completedIn_src (hd : b.die = die) (trk : b.trk = true) (h0 : pend b.core b.num = 0) :
    b.completedIn die true pend sl = if (b.core, b.num) ∈ sl ∧ b.st = 3 then { b with st := 0 } else b := by
  rw [Bank.completedIn, h0, complete_src trk, ite_and, if_pos hd, ← ite_and]

/-- A bank of which the command was the last one (R114). -/
theorem completedIn_last (hd : b.die = die) (trk : b.trk = true) (h0 : pend b.core b.num = 0) :
    (b.completedIn die false pend dl).completedIn die true pend sl =
      if (b.core, b.num) ∈ dl ∧ b.st = 1 ∧ b.hold = false then { b with st := 2 }
      else if (b.core, b.num) ∈ sl ∧ b.st = 3 then { b with st := 0 } else b := by
  rw [completedIn_dst hd trk h0]
  split
  · exact (completedIn_src (b := { b with st := 2 }) hd trk h0).trans (if_neg fun h => absurd h.2 (show ¬2 = 3 by decide))
  · exact completedIn_src hd trk h0

end

/-- The banks behind a command are those of R114 and R133. -/
theorem banksCompleted {s u : State} {c : Cmd} {d : Device} (hb : d.banks = s.dev.banks) (hc : u.dev.cmds = d.cmds)
    (banks : u.dev.banks = banksBehind d c) : BanksCompleted s u c := by
  have pend : d.pend = u.dev.pend := by
    unfold Device.pend
    rw [hc]
  rw [banksBehind, hb, pend, List.map_map] at banks
  refine ⟨banks ▸ List.length_map .., fun j b hj => ?_⟩
  have entry : u.dev.banks[j]? = some ((b.completedIn c.die false (u.dev.pend c.die) c.dbanks).completedIn c.die true (u.dev.pend c.die) c.sbanks) := by
    rw [banks, List.getElem?_map, hj]
    rfl
  rw [entry]
  by_cases last : b.die = c.die ∧ b.trk = true ∧ BankIdle u b
  · rw [completedIn_last last.1 last.2.1 (last.1 ▸ pend_eq_zero_iff.mpr last.2.2 :)]
    refine ⟨fun h => congrArg some (if_pos h.2), fun h => congrArg some ?_, fun h => congrArg some ?_⟩
    · rw [if_neg fun q => absurd (q.2.1.symm.trans h.2.2) (by decide), if_pos h.2]
    · rw [if_neg fun q => h ⟨last, .inl q⟩, if_neg fun q => h ⟨last, .inr q⟩]
  · have busy : ¬(b.die = c.die ∧ b.trk = true ∧ u.dev.pend c.die b.core b.num = 0) := fun h =>
      last ⟨h.1, h.2.1, pend_eq_zero_iff.mp (h.1 ▸ h.2.2)⟩
    rw [completedIn_busy busy, completedIn_busy busy]
    exact ⟨fun h => absurd h.1 last, fun h => absurd h.1 last, fun _ => rfl⟩

/-! ### Reading and failing -/

/-- A command with lines to write stays in its queue. -/
theorem finishCmd_more {s : State} {c c' : Cmd} (name : SameCmd c' c) (saved : ∀ g ∈ s.dev.gangs, ∀ x ∈ g.savedCmds, ¬SameCmd x c)
    (more : c'.lines ≠ []) : s.finishCmd c' = { s with dev := { s.dev with cmds := cmdsWith s c c' } } :=
  (if_neg fun h => more h.1).trans (congrArg (fun d => { s with dev := d }) (setCmd_eq name saved))

/-- A command that has gone leaves the other commands, and the banks of R114. -/
theorem gone_eq {s : State} {c c' : Cmd} (name : SameCmd c' c) : (s.dev.dropCmd c').completeBanks c' = { s.dev with
    cmds := cmdsWithout s c
    banks := banksBehind { s.dev with cmds := cmdsWithout s c } c' } := by
  rw [dropCmd_eq name, completeBanks_eq]

/-- A command with nothing left to do leaves the device. -/
theorem finishCmd_last {s : State} {c c' : Cmd} (name : SameCmd c' c) (done : c'.lines = [] ∧ c'.unread = []) :
    s.finishCmd c' = { s with dev := { s.dev with
      cmds := cmdsWithout s c
      banks := banksBehind { s.dev with cmds := cmdsWithout s c } c' } } :=
  (if_pos done).trans (congrArg (fun d => { s with dev := d }) (gone_eq name))

theorem satInc_eq (w : Word) : satInc w = BitVec.ofNat 64 (min (w.toNat + 1) (2 ^ 64 - 1)) := by
  unfold satInc
  split
  · next h => rw [h]; rfl
  · next h =>
    have below : w.toNat + 1 ≤ 2 ^ 64 - 1 := Nat.lt_of_le_of_ne (Nat.le_sub_one_of_lt w.isLt) fun e => h (BitVec.eq_of_toNat_eq e)
    rw [Nat.min_eq_left below, BitVec.ofNat_add, BitVec.ofNat_toNat, BitVec.setWidth_eq]
    rfl

section

variable {s : State} {c : Cmd} (run : Runs s c)
include run

/-- The events of an engine are those of the command that it runs. -/
theorem exec_read (n : Nat) : exec (.read c.die c.core c.eng n) s = .next (s.engineRead c n) :=
  congrArg (fun o : Option Cmd => Host.Outcome.next (o.elim s fun c => s.engineRead c n)) run.1

theorem exec_write {n : Nat} {u : State} (e : s.engineWrite c c.convNow n = some u) :
    exec (.write c.die c.core c.eng n) s = .next u :=
  (congrArg (fun o : Option Cmd => Host.Outcome.next ((o.bind fun c => s.engineWrite c c.convNow n).getD s)) run.1).trans
    (congrArg (fun o => Host.Outcome.next (o.getD s)) e)

theorem exec_cpyFail (n : Nat) : exec (.cpyFail c.die c.core c.eng n) s = .next (s.engineFail c n) :=
  congrArg (fun o : Option Cmd => Host.Outcome.next (o.elim s fun c => s.engineFail c n)) run.1

theorem saved_of_runs : ∀ g ∈ s.dev.gangs, ∀ x ∈ g.savedCmds, ¬SameCmd x c := run.2.2.1

/-- A command without conversion has no fault of its own. -/
theorem cmdFault_of_runs (form : c.form ≠ .conv) : s.cmdFault c = none := by
  rw [State.cmdFault, Cmd.convFault, if_pos form]
  exact run.2.2.2

/-- The first unread line is read; the command has still lines to write. -/
theorem engineRead_ok {n l : Nat} {loc : Loc} (hl : c.unread[n]? = some l)
    (m : EngineMaps s c (lowestByte (c.sources ++ c.gathRows) l) .load loc) (intact : s.dev.bad (loc.key / 128 * 128) 128 = false)
    (more : c.lines ≠ []) : s.engineRead c n = { s with dev := { s.dev with cmds := cmdsWith s c { c with
      got := (l, s.dev.mem.getBytes (loc.key / 128 * 128) 128) :: c.got
      map := loc.map :: c.map } } } := by
  unfold State.engineRead State.tryRead
  rw [hl]
  dsimp only
  rw [attempt_ok m intact]
  exact finishCmd_more ⟨rfl, rfl, rfl⟩ (saved_of_runs run) more

/-- A command without conversion whose source line meets a fault of the walk fails. -/
theorem engineFail_fault (form : c.form ≠ .conv) {n l : Nat} {x : Cause} (hl : c.unread[n]? = some l)
    (low : lowestByte (c.sources ++ c.gathRows) l < 2 ^ 52 ∧ inWindow (lowestByte (c.sources ++ c.gathRows) l) = false)
    (ho : s.oracle = []) (walk : s.walk c.tenant c.root (lowestByte (c.sources ++ c.gathRows) l) = .error (.cause x)) :
    s.engineFail c n = s.failCmd c (x, lowestByte (c.sources ++ c.gathRows) l) := by
  unfold State.engineFail State.tryRead
  rw [cmdFault_of_runs run form, hl]
  dsimp only
  rw [attempt_fault ho low walk]

end

/-- A failure leaves each hart as R135 says. -/
theorem failCmd_eq {s : State} {c : Cmd} {x : Cause} {va : Nat} {f : Hart → Hart}
    (mine : ∀ h : Hart, h.id.gang.toNat = c.owner.gang ∧ h.id.rank = c.owner.rank ∧ h.status ≠ .vacant →
      h.sy.fail[Fin.ofNat 4 c.eng] = none → f h = { h with sy := { h.sy with
        fail := h.sy.fail.set (Fin.ofNat 4 c.eng) (some { num := c.num, cause := x, addr := BitVec.ofNat 64 va }) } })
    (full : ∀ (h : Hart) r, h.id.gang.toNat = c.owner.gang ∧ h.id.rank = c.owner.rank ∧ h.status ≠ .vacant →
      h.sy.fail[Fin.ofNat 4 c.eng] = some r → f h = { h with db := { h.db with
        counter := h.db.counter.set 1 (BitVec.ofNat 64 (min (h.db.counter[1].toNat + 1) (2 ^ 64 - 1))) } })
    (other : ∀ h : Hart, ¬(h.id.gang.toNat = c.owner.gang ∧ h.id.rank = c.owner.rank ∧ h.status ≠ .vacant) → f h = h) :
    s.failCmd c (x, va) = State.mapHarts { s with dev := (s.dev.dropCmd c).completeBanks c } f := by
  unfold State.failCmd
  refine congrArg (State.mapHarts _) (funext fun h => ?_)
  dsimp only
  split
  · next own =>
    split
    · next r hr =>
      rw [full h r own hr, Hart.countUp, satInc_eq]
      rfl
    · next hr => exact (mine h own hr).symm
  · next no => exact (other h no).symm

end Sys2Proof.Machine
end


section
/-! Writing a destination line (R127, R133): the lines of stretches, where each destination byte comes from, the bytes of one
line at their home, and the command behind the write. -/

namespace Sys2Proof.Machine

open Sys2Proof.Claims

/-! ### Lines of stretches -/

theorem mem_insertUp {x y : Nat} {l : List Nat} : y ∈ insertUp x l ↔ y = x ∨ y ∈ l := by
  induction l with
  | nil => exact List.mem_singleton.trans (or_iff_left List.not_mem_nil).symm
  | cons z r ih =>
    unfold insertUp
    split
    · exact List.mem_cons
    · split
      · next eq => exact ⟨.inr, fun h => h.elim (fun e => e.trans eq ▸ List.mem_cons_self) id⟩
      · rw [List.mem_cons, List.mem_cons, ih, or_left_comm]

theorem mem_linesOf {rs : List (Nat × Nat)} {l : Nat} : l ∈ Machine.linesOf rs ↔ ∃ r ∈ rs, l ∈ stretchLines r.1 r.2 := by
  have sorted : ∀ ls : List Nat, l ∈ ls.foldr insertUp [] ↔ l ∈ ls := fun ls => by
    induction ls with
    | nil => rfl
    | cons x ls ih => rw [List.foldr_cons, mem_insertUp, ih, List.mem_cons]
  rw [Machine.linesOf, sorted, List.mem_flatMap]

/-- A byte of a stretch lies in one of its lines. -/
theorem mem_stretchLines (va : Nat) {n j : Nat} (hj : j < n) : (va + j) % 2 ^ 64 / 128 ∈ stretchLines va n := by
  have line : (va / 128 + (va % 128 + j) / 128) % 2 ^ 57 = (va + j) % 2 ^ 64 / 128 := by
    conv_rhs => rw [← Nat.div_add_mod va 128, Nat.add_assoc]
    exact (congrArg (· % 2 ^ 57) (Nat.mul_add_div (by decide) ..).symm).trans (Nat.mod_mul_right_div_self _ 128 (2 ^ 57)).symm
  have inside : (va % 128 + j) / 128 < (va % 128 + n + 127) / 128 := calc
    (va % 128 + j) / 128 < (va % 128 + j + 128) / 128 := (Nat.lt_succ_self _).trans_eq (Nat.add_div_right _ (by decide)).symm
    _ ≤ (va % 128 + n + 127) / 128 := Nat.div_le_div_right (Nat.add_le_add_right (Nat.add_lt_add_left hj _) 127)
  rw [stretchLines, if_neg (Nat.ne_zero_of_lt hj)]
  exact List.mem_map.mpr ⟨_, List.mem_range.mpr inside, line⟩

theorem lt_of_mem_linesOf {rs : List (Nat × Nat)} {l : Nat} (h : l ∈ Machine.linesOf rs) : l < 2 ^ 57 := by
  obtain ⟨r, -, hl⟩ := mem_linesOf.mp h
  rw [stretchLines] at hl
  split at hl
  · exact absurd hl List.not_mem_nil
  · obtain ⟨i, -, rfl⟩ := List.mem_map.mp hl
    exact Nat.mod_lt _ (by decide)

/-! ### Offsets (R46) -/

theorem offset_add {base o : Nat} (hb : base < 2 ^ 64) (ho : o < 2 ^ 64) : offset ((base + o) % 2 ^ 64) base = o := by
  rw [offset, Nat.add_sub_assoc hb.le, Nat.mod_add_mod, Nat.add_right_comm, Nat.add_sub_of_le hb.le, Nat.add_mod_left,
    Nat.mod_eq_of_lt ho]

theorem add_offset {va base : Nat} (hv : va < 2 ^ 64) (hb : base < 2 ^ 64) : (base + offset va base) % 2 ^ 64 = va := by
  rw [offset, Nat.add_mod_mod, Nat.add_sub_assoc hb.le, Nat.add_left_comm, Nat.add_sub_of_le hb.le, Nat.add_mod_right,
    Nat.mod_eq_of_lt hv]

/-! ### The fields of a command (R126, R127) -/

theorem count_eq (c : Cmd) : c.count = countOfCmd c := by
  unfold Cmd.count countOfCmd bits
  split
  · next h => rw [if_pos h, pow_zero, Nat.div_one]
  · next h => rw [if_neg h]

theorem rb_eq (c : Cmd) : c.rb = Claims.rowBytes c := by
  unfold Cmd.rb Claims.rowBytes bits
  split
  · next h => rw [if_pos h]
  · next h => rw [if_neg h, pow_zero, Nat.div_one]

theorem sext_bits (w : Word) (lo n : Nat) : sext n (bits w.toNat lo n) = (w.extractLsb' lo n).toInt := by
  have field : bits w.toNat lo n % 2 ^ n = (w.extractLsb' lo n).toNat := by
    rw [← ofNat_bits, BitVec.toNat_ofNat]
  rw [sext, field, BitVec.toInt_eq_toNat_cond]
  push_cast
  rfl

/-- A row as R127 gives it. -/
theorem rowAt_eq (x w : Word) (lo k : Nat) : Cmd.rowAt x.toNat (sext 24 (bits w.toNat lo 24)) k =
    (x + BitVec.ofNat 64 k * (w.extractLsb' lo 24).signExtend 64).toNat := by
  rw [sext_bits, BitVec.signExtend, ← BitVec.ofInt_natCast 64 k, ← BitVec.ofInt_mul]
  conv_rhs => rw [← BitVec.ofInt_toInt (x := x)]
  rw [Cmd.rowAt, wrap, ← BitVec.toNat_ofInt, BitVec.ofInt_add, BitVec.ofInt_natCast, BitVec.ofNat_toNat, BitVec.setWidth_eq,
    BitVec.ofInt_toInt]

theorem dstRow_eq (c : Cmd) (k : Nat) : Cmd.rowAt c.dstA c.dstr k = dstRow c k := rowAt_eq ..
theorem dstRow_lt (c : Cmd) (k : Nat) : dstRow c k < 2 ^ 64 := BitVec.isLt _
theorem srcRow_eq (c : Cmd) (k : Nat) : Cmd.rowAt c.srcA c.sstr k = srcRow c k := rowAt_eq ..

/-! ### Where a destination byte comes from (R127) -/

/-- The byte that an origin gives. -/
def Cmd.Origin.value (c : Cmd) : Cmd.Origin → Option Byte
  | .none => Option.none
  | .byte b => some b
  | .mem va => some (c.byteAt va)

/-- Row `k` of a 2D destination covers the byte at `va`. -/
def RowCovers (c : Cmd) (va k : Nat) : Prop := offset va (dstRow c k) < Claims.rowBytes c

theorem lastRow_succ (c : Cmd) (va n : Nat) :
    c.lastRow va (n + 1) = if offset va (dstRow c n) < Claims.rowBytes c then some n else c.lastRow va n := by
  rw [Cmd.lastRow, dstRow_eq, rb_eq]

theorem lastRow_eq_some {c : Cmd} {va k n : Nat} : c.lastRow va n = some k ↔
    k < n ∧ RowCovers c va k ∧ ∀ q, k < q → q < n → ¬RowCovers c va q := by
  induction n with
  | zero => exact ⟨nofun, fun h => absurd h.1 (Nat.not_lt_zero k)⟩
  | succ n ih =>
    rw [lastRow_succ]
    split
    · next top =>
      refine ⟨fun e => Option.some.inj e ▸ ⟨Nat.lt_succ_self n, top, fun q lo hi => absurd lo (Nat.not_lt.mpr (Nat.le_of_lt_succ hi))⟩,
        fun h => congrArg some (by_contra fun ne => ?_)⟩
      exact h.2.2 n (Nat.lt_of_le_of_ne (Nat.le_of_lt_succ h.1) (Ne.symm ne)) (Nat.lt_succ_self n) top
    · next bare =>
      exact ih.trans ⟨fun h => ⟨Nat.lt_succ_of_lt h.1, h.2.1, fun q lo hi =>
          (Nat.lt_succ_iff_lt_or_eq.mp hi).elim (h.2.2 q lo) fun e => e ▸ bare⟩,
        fun h => ⟨Nat.lt_of_le_of_ne (Nat.le_of_lt_succ h.1) fun e => bare (e ▸ h.2.1), h.2.1, fun q lo hi =>
          h.2.2 q lo (Nat.lt_succ_of_lt hi)⟩⟩

theorem lastRow_eq_none {c : Cmd} {va n : Nat} (h : ∀ k < n, ¬RowCovers c va k) : c.lastRow va n = none :=
  Option.eq_none_iff_forall_ne_some.mpr fun k hk => h k (lastRow_eq_some.mp hk).1 (lastRow_eq_some.mp hk).2.1

section

variable {c : Cmd} {va : Nat}

theorem origin_lin (h : c.form = .lin) : c.origin va =
    if offset va c.dst.toNat < countOfCmd c then .mem ((c.src.toNat + offset va c.dst.toNat) % 2 ^ 64) else .none := by
  rw [← count_eq]
  simp only [Cmd.origin, h, Cmd.dstA, Cmd.srcA]
  rfl

theorem origin_fill (h : c.form = .fill) : c.origin va =
    if offset va c.dst.toNat < countOfCmd c then .byte (c.src.extractLsb' (8 * (va % 8)) 8) else .none := by
  rw [← count_eq, ← ofNat_bits]
  simp only [Cmd.origin, h, Cmd.dstA, Cmd.srcA]
  rfl

theorem origin_gath (h : c.form = .gath) : c.origin va = if offset va c.dst.toNat < countOfCmd c * Claims.rowBytes c then
    .mem ((c.src.toNat + c.idx (offset va c.dst.toNat / Claims.rowBytes c) * Claims.rowBytes c + offset va c.dst.toNat % Claims.rowBytes c) % 2 ^ 64)
    else .none := by
  rw [← count_eq, ← rb_eq]
  simp only [Cmd.origin, h, Cmd.dstA, Cmd.srcA]
  rfl

theorem origin_twoD_some {k : Nat} (h : c.form = .twoD) (row : c.lastRow va (countOfCmd c) = some k) :
    c.origin va = .mem ((srcRow c k + offset va (dstRow c k)) % 2 ^ 64) := by
  rw [← count_eq] at row
  simp only [Cmd.origin, h, row, srcRow_eq, dstRow_eq]

theorem origin_twoD_none (h : c.form = .twoD) (row : c.lastRow va (countOfCmd c) = none) : c.origin va = .none := by
  rw [← count_eq] at row
  simp only [Cmd.origin, h, row]

theorem covers_of_rowCovers (hv : va < 2 ^ 64) (h : c.form = .twoD) {k : Nat} (hk : k < countOfCmd c) (cov : RowCovers c va k) :
    Covers c va := by
  have byte := Covers.twoD k (offset va (dstRow c k)) h hk cov
  rwa [add_offset hv (dstRow_lt c k)] at byte

/-- A byte outside the destination has no origin. -/
theorem origin_of_not_covers (form : c.form ≠ .conv) (hv : va < 2 ^ 64) (no : ¬Covers c va) : c.origin va = .none := by
  have at' := add_offset hv c.dst.isLt
  cases h : c.form with
  | lin =>
    rw [origin_lin h, if_neg]
    exact fun ho => no (at' ▸ Covers.lin _ (.inl h) ho)
  | fill =>
    rw [origin_fill h, if_neg]
    exact fun ho => no (at' ▸ Covers.lin _ (.inr h) ho)
  | gath =>
    rw [origin_gath h, if_neg]
    exact fun ho => no (at' ▸ Covers.gath _ h ho)
  | twoD => exact origin_twoD_none h (lastRow_eq_none fun k hk cov => no (covers_of_rowCovers hv h hk cov))
  | conv => exact absurd h form

theorem countOfCmd_lt (c : Cmd) : countOfCmd c < 2 ^ 64 := by
  unfold countOfCmd
  split
  · exact (Nat.mod_lt _ (by decide)).trans (by decide)
  · exact c.cnt.isLt

/-- The bytes of a GATH's rows. -/
theorem rowsOf_gath_lt (h : c.form = .gath) : countOfCmd c * Claims.rowBytes c < 2 ^ 64 := by
  rw [countOfCmd, if_pos h, Claims.rowBytes, if_pos h]
  exact (Nat.mul_le_mul (Nat.mod_lt _ (by decide)).le (Nat.mod_lt _ (by decide)).le).trans_lt (by decide)

/-- The engine writes what R127 says. -/
theorem value_origin (form : c.form ≠ .conv) (hv : va < 2 ^ 64) {v : Option Byte} (b : CopyByte c va v) :
    (c.origin va).value c = v := by
  induction b with
  | lin o h ho hva =>
    rw [origin_lin h, hva, offset_add c.dst.isLt (ho.trans (countOfCmd_lt c)), if_pos ho]
    rfl
  | fill o h ho hva =>
    rw [origin_fill h, if_pos (by rwa [hva, offset_add c.dst.isLt (ho.trans (countOfCmd_lt c))])]
    rfl
  | twoD k j h hk hj hva top =>
    have low : Claims.rowBytes c < 2 ^ 64 := by
      rw [Claims.rowBytes, if_neg (by rw [h]; nofun)]
      exact (Nat.mod_lt _ (by decide)).trans (by decide)
    have off : offset va (dstRow c k) = j := by rw [hva, offset_add (dstRow_lt c k) (hj.trans low)]
    have row : c.lastRow va (countOfCmd c) = some k := lastRow_eq_some.mpr ⟨hk, off.trans_lt hj, fun q lo hi cov =>
      top q _ lo hi cov (add_offset hv (dstRow_lt c q)).symm⟩
    rw [origin_twoD_some h row, off]
    rfl
  | gath k j h hk hj hva =>
    have inside := field_lt rfl hk hj
    have off : offset va c.dst.toNat = k * Claims.rowBytes c + j := by
      rw [hva, Nat.add_assoc, offset_add c.dst.isLt (inside.trans (rowsOf_gath_lt h))]
    have pos : 0 < Claims.rowBytes c := Nat.zero_lt_of_lt hj
    rw [origin_gath h, off, if_pos inside, Nat.mul_comm k, Nat.mul_add_div pos, Nat.div_eq_of_lt hj, Nat.mul_add_mod, Nat.mod_eq_of_lt hj]
    rfl
  | none' no =>
    rw [origin_of_not_covers form hv no]
    rfl

end

end Sys2Proof.Machine
end


section
/-! The write of a line (R127, R133): all that a command needs is read, the bytes of one line take their place at one instant,
and the command is behind the line or behind all of them. -/

namespace Sys2Proof.Machine

open Sys2Proof.Claims

/-! ### Sources that are read (R132) -/

section
variable {c : Cmd} (read : c.unread = [])
include read

theorem openLines_of_unread : c.openLines = [] := by
  unfold Cmd.unread at read
  split at read
  · next h => exact h
  · next h => exact absurd read h

theorem has_of_source {l : Nat} (h : l ∈ Machine.linesOf c.sources) : c.has l = true := by
  have none' := List.filter_eq_nil_iff.mp (openLines_of_unread read) l h
  rwa [Bool.not_eq_true', Bool.not_eq_false] at none'

theorem has_of_gathRow {l : Nat} (h : l ∈ Machine.linesOf c.gathRows) : c.has l = true := by
  rw [Cmd.unread, openLines_of_unread read] at read
  have none' := List.filter_eq_nil_iff.mp read l h
  rwa [Bool.not_eq_true', Bool.not_eq_false] at none'

omit read in
theorem mem_of_ite {p : Prop} [Decidable p] {x a : Nat} (h : (if p then Cmd.Origin.mem x else .none) = .mem a) : p ∧ x = a := by
  split at h
  · next hp => exact ⟨hp, Cmd.Origin.mem.inj h⟩
  · exact absurd h nofun

/-- What a destination byte comes from has been read. -/
theorem has_of_origin (form : c.form ≠ .conv) {va a : Nat} (h : c.origin va = .mem a) : c.has (a / 128) = true := by
  have source : ∀ {r j}, r ∈ c.sources → j < r.2 → c.has ((r.1 + j) % 2 ^ 64 / 128) = true := fun hr hj =>
    has_of_source read (mem_linesOf.mpr ⟨_, hr, mem_stretchLines _ hj⟩)
  cases hf : c.form with
  | lin =>
    obtain ⟨ho, rfl⟩ := mem_of_ite ((origin_lin hf).symm.trans h)
    refine source (r := (c.src.toNat, countOfCmd c)) ?_ ho
    rw [Cmd.sources, hf, count_eq]
    exact List.mem_singleton_self _
  | fill =>
    rw [origin_fill hf] at h
    split at h <;> exact absurd h nofun
  | twoD =>
    cases row : c.lastRow va (countOfCmd c) with
    | none => exact absurd ((origin_twoD_none hf row).symm.trans h) nofun
    | some k =>
      obtain ⟨hk, cov, -⟩ := lastRow_eq_some.mp row
      cases Cmd.Origin.mem.inj ((origin_twoD_some hf row).symm.trans h)
      refine source (r := (srcRow c k, Claims.rowBytes c)) ?_ cov
      rw [Cmd.sources, hf, count_eq]
      exact List.mem_map.mpr ⟨k, List.mem_range.mpr hk, by rw [srcRow_eq, rb_eq]⟩
  | gath =>
    obtain ⟨ho, rfl⟩ := mem_of_ite ((origin_gath hf).symm.trans h)
    have pos : 0 < Claims.rowBytes c := Nat.pos_of_mul_pos_left (Nat.zero_lt_of_lt ho)
    have line := mem_stretchLines ((c.src.toNat + c.idx (offset va c.dst.toNat / Claims.rowBytes c) * Claims.rowBytes c) % 2 ^ 64)
      (Nat.mod_lt (offset va c.dst.toNat) pos)
    rw [Nat.mod_add_mod] at line
    refine has_of_gathRow read (mem_linesOf.mpr ⟨(_, _), ?_, line⟩)
    rw [Cmd.gathRows, if_pos ⟨hf, openLines_of_unread read⟩, count_eq, rb_eq]
    exact List.mem_map.mpr ⟨_, List.mem_range.mpr (Nat.div_lt_of_lt_mul (Nat.mul_comm .. ▸ ho)), rfl⟩
  | conv => exact absurd hf form

/-- A command without conversion that has read its sources is ready for every line. -/
theorem lineReady_of_read (form : c.form ≠ .conv) (s : State) (key l : Nat) : s.lineReady c key l = true := by
  unfold State.lineReady
  rw [openLines_of_unread read, read]
  simp only [beq_self_eq_true, Bool.true_and, List.any_nil, Bool.not_false, Bool.and_true]
  rw [List.all_eq_true]
  intro j _
  split
  · next va h => exact has_of_origin read form h
  · rfl

end

/-! ### Stretches of bytes -/

/-- The memory once stretches have been written one after the other. -/
def Memory.setRuns (m : Memory) (rs : List (Nat × List Byte)) : Memory := rs.foldl (fun m r => m.setBytes r.1 r.2) m

theorem Memory.setRuns_append (m : Memory) (rs qs : List (Nat × List Byte)) : m.setRuns (rs ++ qs) = (m.setRuns rs).setRuns qs :=
  List.foldl_append

/-- `m'` is `m` with the bytes that `l` lists from `b` on, those that are none left out. -/
def Memory.Laid (m : Memory) (b : Nat) (l : List (Option Byte)) (m' : Memory) : Prop :=
  (∀ x, x < b → m'.get x = m.get x) ∧ ∀ i, m'.get (b + i) = (l[i]?.join).getD (m.get (b + i))

theorem join_getElem?_map_some (run : List Byte) (i : Nat) : (run.map some)[i]?.join = run[i]? := by
  rw [List.getElem?_map]
  cases run[i]? <;> rfl

theorem laid_setBytes {m : Memory} (hm : m.wf = true) (b : Nat) (run : List Byte) : m.Laid b (run.map some) (m.setBytes b run) := by
  refine ⟨fun x hx => ?_, fun i => ?_⟩
  · rw [Memory.get_setBytes run hm, if_neg fun h => Nat.not_le.mpr hx h.1]
  · rw [Memory.get_setBytes run hm, join_getElem?_map_some, Nat.add_sub_cancel_left]
    by_cases hi : i < run.length
    · rw [if_pos ⟨Nat.le_add_right b i, Nat.add_lt_add_left hi b⟩, List.getElem?_eq_getElem hi]
      rfl
    · rw [if_neg fun h => hi (Nat.lt_of_add_lt_add_left h.2), List.getElem?_eq_none (Nat.not_lt.mp hi)]
      rfl

/-- Bytes with a gap behind them, and bytes behind the gap. -/
theorem laid_gap {m m' m'' : Memory} {b : Nat} {run : List Byte} {r : List (Option Byte)} (h : m.Laid b (run.map some) m')
    (h' : m'.Laid (b + run.length + 1) r m'') : m.Laid b (run.map some ++ none :: r) m'' := by
  have outside : ∀ q, m'.get (b + (run.length + q)) = m.get (b + (run.length + q)) := fun q => by
    rw [h.2, join_getElem?_map_some, List.getElem?_eq_none (Nat.le_add_right ..)]
    rfl
  refine ⟨fun x hx => (h'.1 x (hx.trans_le ((Nat.le_add_right ..).trans (Nat.le_succ _)))).trans (h.1 x hx), fun i => ?_⟩
  rcases Nat.lt_or_ge i run.length with hi | hi
  · rw [h'.1 _ (Nat.lt_succ_of_lt (Nat.add_lt_add_left hi b)), h.2, List.getElem?_append_left (by rwa [List.length_map])]
  · obtain ⟨q, rfl⟩ := Nat.exists_eq_add_of_le hi
    rw [List.getElem?_append_right (by rwa [List.length_map]), List.length_map, Nat.add_sub_cancel_left]
    cases q with
    | zero => exact (h'.1 _ (Nat.lt_succ_self _)).trans (outside 0)
    | succ q =>
      have := h'.2 q
      rw [Nat.add_assoc, Nat.add_assoc, Nat.add_comm 1] at this
      rw [this, outside]
      rfl

/-- The stretches of a list of bytes lay the list, an open stretch before it. -/
theorem laid_runsOf (bs : List (Option Byte)) : ∀ {b : Nat} {run : List Byte} {m : Memory}, m.wf = true →
    m.Laid b (run.map some ++ bs) (m.setRuns (runsOf (b + run.length) run bs)) := by
  have flush : ∀ {b : Nat} {run : List Byte} {m : Memory}, m.wf = true →
      (m.setRuns (if run = [] then [] else [(b + run.length - run.length, run)])).wf = true ∧
      m.Laid b (run.map some) (m.setRuns (if run = [] then [] else [(b + run.length - run.length, run)])) := fun {b run m} hm => by
    rw [Nat.add_sub_cancel]
    split
    · next h => exact ⟨hm, fun _ _ => rfl, fun i => by rw [h]; rfl⟩
    · exact ⟨Memory.setBytes_wf run hm, laid_setBytes hm b run⟩
  induction bs with
  | nil =>
    intro b run m hm
    rw [List.append_nil, runsOf]
    exact (flush hm).2
  | cons o r ih =>
    intro b run m hm
    cases o with
    | none =>
      rw [runsOf, Memory.setRuns_append]
      exact laid_gap (flush hm).2 (ih (run := []) (flush hm).1)
    | some v =>
      have step := ih (b := b) (run := run ++ [v]) hm
      rwa [List.map_append, List.append_assoc, List.length_append] at step

/-! ### One line at its home (R133) -/

/-- The bytes of a line without conversion. -/
def Cmd.lineBytes (c : Cmd) (l : Nat) : List (Option Byte) := (List.range 128).map fun j => (c.origin (l * 128 + j)).value c

/-- A byte of the line that has been written. -/
theorem get_lineBytes {m : Memory} (hm : m.wf = true) {c : Cmd} (key l : Nat) (x : Nat) :
    (m.setRuns (runsOf (key * 128) [] (c.lineBytes l))).get x =
      if x / 128 = key then ((c.origin (l * 128 + x % 128)).value c).getD (m.get x) else m.get x := by
  obtain ⟨before, from'⟩ : m.Laid (key * 128) (c.lineBytes l) (m.setRuns (runsOf (key * 128) [] (c.lineBytes l))) :=
    laid_runsOf (c.lineBytes l) (run := []) hm
  split
  · next here =>
    have byte := from' (x % 128)
    rw [← here, Nat.div_add_mod', Cmd.lineBytes, List.getElem?_map,
      List.getElem?_range (Nat.mod_lt x (by decide))] at byte
    exact here ▸ byte
  · next other =>
    rcases Nat.lt_or_ge x (key * 128) with lt | ge
    · exact before x lt
    · obtain ⟨i, rfl⟩ := Nat.exists_eq_add_of_le ge
      have far : 128 ≤ i := Nat.not_lt.mp fun hi => other (by
        rw [Nat.mul_comm, Nat.mul_add_div (by decide), Nat.div_eq_of_lt hi, Nat.add_zero])
      refine (from' i).trans ?_
      rw [List.getElem?_eq_none (by rwa [Cmd.lineBytes, List.length_map, List.length_range])]
      rfl

theorem lineContent_eq {c : Cmd} (form : c.form ≠ .conv) (s : State) (cv : Conv) (key l : Nat) :
    s.lineContent c cv key l = (.ok (c.lineBytes l, []), s) := by
  unfold State.lineContent Cmd.lineBytes
  generalize c.form = f at form
  cases f with
  | conv => exact absurd rfl form
  | lin | fill | twoD | gath => rfl

/-- A hart after the write of the stretches of a line at location `k` (R268, R297). -/
def lineNoted (a : Agent) (k : Nat) (rs : List (Nat × List Byte)) (h : Hart) : Hart :=
  evented k (rs.foldl (fun h r => h.noteLater a r.1 r.2.length) h)

/-- A hart with other loads bound. -/
def Hart.withBound (h : Hart) (b : List Issued) : Hart := { h with ms := { h.ms with bound := b } }

theorem withBound_noteLater (h : Hart) (a : Agent) (k n : Nat) (b : List Issued) : (h.noteLater a k n).withBound b = h.withBound b := by
  rw [Hart.noteLater_eq]
  rfl

theorem evented_withBound (k : Nat) (h : Hart) (b : List Issued) :
    evented k (h.withBound b) = { evented k h with ms := { h.ms with bound := b } } := by
  rw [evented, evented, show (h.withBound b).sy.mon = h.sy.mon from rfl]
  split <;> rfl

theorem foldl_noteLater_eq (a : Agent) (rs : List (Nat × List Byte)) : ∀ h : Hart,
    rs.foldl (fun h r => h.noteLater a r.1 r.2.length) h =
      h.withBound (rs.foldl (fun h r => h.noteLater a r.1 r.2.length) h).ms.bound := by
  induction rs with
  | nil => exact fun _ => rfl
  | cons r rs ih => exact fun h => (ih _).trans (withBound_noteLater ..)

theorem foldl_noteLater_idle (a : Agent) (rs : List (Nat × List Byte)) {h : Hart} (hb : h.ms.bound = []) :
    rs.foldl (fun h r => h.noteLater a r.1 r.2.length) h = h := by
  induction rs with
  | nil => rfl
  | cons r rs ih => rw [List.foldl_cons, Hart.noteLater_idle h a _ _ hb, ih]

/-- The write sets EVT and changes what the hart has bound, nothing else. -/
theorem lineNoted_spec (a : Agent) (k : Nat) (rs : List (Nat × List Byte)) (h : Hart) :
    (h.ms.bound = [] → lineNoted a k rs h = evented k h) ∧
    lineNoted a k rs h = { evented k h with ms := { h.ms with bound := (lineNoted a k rs h).ms.bound } } := by
  refine ⟨fun hb => congrArg (evented k) (foldl_noteLater_idle a rs hb), ?_⟩
  have eq := (congrArg (evented k) (foldl_noteLater_eq a rs h)).trans (evented_withBound ..)
  rw [lineNoted, eq]

/-- The device once stretches have been written one after the other. -/
def Device.writtenRuns (d : Device) (rs : List (Nat × List Byte)) : Device := rs.foldl (fun d r => d.written r.1 r.2) d

theorem writtenRuns_mem (rs : List (Nat × List Byte)) : ∀ d : Device, (d.writtenRuns rs).mem = d.mem.setRuns rs := by
  induction rs with
  | nil => exact fun _ => rfl
  | cons r rs ih => exact fun d => (ih _).trans (congrArg (Memory.setRuns · rs) (congrArg Device.mem (d.written_eq r.1 r.2)))

/-- Writes touch no command, bank, gang or trigger. -/
theorem writtenRuns_keeps (rs : List (Nat × List Byte)) : ∀ d : Device, (d.writtenRuns rs).cmds = d.cmds ∧
    (d.writtenRuns rs).banks = d.banks ∧ (d.writtenRuns rs).gangs = d.gangs ∧ (d.writtenRuns rs).writeWatch = d.writeWatch := by
  induction rs with
  | nil => exact fun _ => ⟨rfl, rfl, rfl, rfl⟩
  | cons r rs ih =>
    intro d
    have eq := d.written_eq r.1 r.2
    exact (ih (d.written r.1 r.2)).imp (·.trans (congrArg Device.cmds eq :)) fun keeps =>
      keeps.imp (·.trans (congrArg Device.banks eq :)) fun keeps =>
      keeps.imp (·.trans (congrArg Device.gangs eq :)) (·.trans (congrArg Device.writeWatch eq :))

theorem watchRuns_idle {s : State} (hw : s.dev.writeWatch = []) (a : Agent) (rs : List (Nat × List Byte)) : s.watchRuns a rs = s := by
  have none' : s.watchRuns a rs = { s with others := s.others.map fun h => h, dev := { s.dev with writeWatch := [] } } := by
    unfold State.watchRuns
    rw [hw]
    rfl
  rw [none', List.map_id', ← hw]

/-- Without write-watch entries a line leaves its bytes and its marks only (R133, R351). -/
theorem putLine_eq {s : State} (hw : s.dev.writeWatch = []) (a : Agent) (k : Nat) (bs : List (Option Byte)) :
    s.putLine a k bs = { s with
      h := lineNoted a k (runsOf k [] bs) s.h
      others := s.others.map (lineNoted a k (runsOf k [] bs))
      dev := s.dev.writtenRuns (runsOf k [] bs) } :=
  watchRuns_idle ((writtenRuns_keeps _ _).2.2.2.trans hw) a (runsOf k [] bs)

/-! ### The command behind the line -/

section

variable {s : State} {c : Cmd} (run : Runs s c) (form : c.form ≠ .conv) (read : c.unread = [])
include run form read

/-- A line of a command without conversion is written once all is read (R133). -/
theorem engineWrite_eq {n key l : Nat} (hl : c.lines[n]? = some (key, l))
    (home : regionOf (key * 128) = .hbm ∨ regionOf (key * 128) = .cxl ∨ regionOf (key * 128) = .bank) (cv : Conv) :
    s.engineWrite c cv n = some ((s.putLine (engineAgent c) (key * 128) (c.lineBytes l)).finishCmd
      { c with lines := c.lines.erase (key, l) }) := by
  have open' : ¬((s.cmdFault c != none || !s.lineReady c key l || (c.trailersIn l).any (c.chunkOpen l)) = true) := by
    rw [cmdFault_of_runs run form, lineReady_of_read read form, Cmd.trailersIn, if_neg fun h => form h.1]
    exact Bool.false_ne_true
  unfold State.engineWrite
  rw [hl]
  dsimp only
  rw [if_neg open', lineContent_eq form]
  dsimp only
  generalize regionOf (key * 128) = r at home
  rcases home with rfl | rfl | rfl <;> rfl

end

end Sys2Proof.Machine
end


section
/-! Re-issue of a cancelled command (R136): where its destination lines lie, what it takes, and the harts of its gang; and the
events of an engine together. -/

namespace Sys2Proof.Machine

open Sys2Proof.Claims

/-! ### Places of the destination lines -/

theorem min_div_of_le {a b l : Nat} (ha : a / 128 = l) (hb : l ≤ b / 128) : min a b / 128 = l :=
  (Monotone.map_min (f := (· / 128)) fun _ _ h => Nat.div_le_div_right h).trans ((Nat.min_eq_left (ha ▸ hb)).trans ha)

/-- A line at no distance behind `q` is not below it. -/
theorem le_of_distance_zero {l q : Nat} (hl : l < 2 ^ 57) (h : (l + 2 ^ 57 - q) % 2 ^ 57 = 0) : l ≤ q := by
  by_contra lt
  have lt : q < l := Nat.not_le.mp lt
  rw [Nat.sub_add_comm lt.le, Nat.add_mod_right, Nat.mod_eq_of_lt ((Nat.sub_le ..).trans_lt hl)] at h
  exact absurd h (Nat.sub_ne_zero_of_lt lt)

/-- The lowest byte of a line that a command covers lies in that line. -/
theorem lowestByte_div (rs : List (Nat × Nat)) {l : Nat} (hl : l < 2 ^ 57) : lowestByte rs l / 128 = l := by
  refine List.foldlRecOn (motive := fun best => best / 128 = l) rs _ ?_ fun best h r _ =>
    iteInduction (motive := fun best => best / 128 = l) (fun _ => ?_) fun _ => h
  · rw [Nat.mul_comm, Nat.mul_add_div (by decide)]
    rfl
  · refine min_div_of_le h (iteInduction (motive := fun b => l ≤ b / 128) (le_of_distance_zero hl) fun _ => ?_)
    rw [Nat.mul_div_cancel _ (by decide)]

/-- Virtual lines `ls` of which those in one page lie in one frame. -/
def Framed (place : Nat → Nat) (ls : List Nat) : Prop :=
  ∀ l ∈ ls, ∀ k ∈ ls, l / 512 = k / 512 → place l - l % 512 + k % 512 = place k

theorem sub_add_of_page {q a b x y : Nat} (ha : a ≤ x) (h : x + (512 * q + b) = y + (512 * q + a)) : x - a + b = y := by
  rw [Nat.add_left_comm, Nat.add_left_comm y] at h
  exact (Nat.sub_add_comm ha).symm.trans (Nat.sub_eq_of_eq_add (Nat.add_left_cancel h))

theorem framed_of_pages {place : Nat → Nat} {ls : List Nat} (low : ∀ l ∈ ls, l % 512 ≤ place l)
    (pages : ∀ l ∈ ls, ∀ k ∈ ls, l / 512 = k / 512 → place l + k = place k + l) : Framed place ls := by
  intro l hl k hk page
  refine sub_add_of_page (q := k / 512) (low l hl) ?_
  rw [Nat.div_add_mod, ← page, Nat.div_add_mod]
  exact pages l hl k hk page

section

variable {c : Cmd} {tr : Nat → M Loc} {s : State} {place : Nat → Nat} {all : List Nat}

/-- Lines whose translations agree with `place` are placed there (R131). -/
theorem run_placeLines (maps : ∀ l ∈ all, ∃ p : Loc, (tr (lowestByte c.dests l)).run s = (.ok p, s) ∧ p.key / 128 = place l)
    (framed : Framed place all) (ls : List Nat) : ls ⊆ all → ∀ last : Option (Nat × Nat),
    (∀ f ∈ last, ∀ l ∈ all, l / 512 = f.1 → f.2 + l % 512 = place l) →
    ∃ ms, (placeLines c tr ls last).run s = (.ok (ls.map fun l => (place l, l), ms), s) := by
  induction ls with
  | nil => exact fun _ _ _ => ⟨[], by rw [placeLines.eq_1]; rfl⟩
  | cons l r ih =>
    intro sub last known
    have hl := sub List.mem_cons_self
    have fresh : ∃ ms, (placeLines.fresh c tr l r (lowestByte c.dests l)).run s = (.ok ((l :: r).map fun l => (place l, l), ms), s) := by
      obtain ⟨p, hp, key⟩ := maps l hl
      obtain ⟨ms, rest⟩ := ih (fun _ hx => sub (List.mem_cons_of_mem l hx)) (some (l / 512, place l - l % 512)) fun f hf x hx page =>
        Option.some.inj hf ▸ framed l hl x hx (page.trans (congrArg Prod.fst (Option.some.inj hf)).symm).symm
      refine ⟨p.map :: ms, ?_⟩
      rw [placeLines.fresh.eq_1, run_bind_ok hp]
      dsimp only
      rw [lineOf, key]
      exact (run_bind_ok rest).trans rfl
    cases last with
    | none => rwa [placeLines.eq_3]
    | some f =>
      rw [placeLines.eq_2]
      by_cases inside : l / 512 = f.1 ∧ (!inWindow (lowestByte c.dests l)) = true
      · obtain ⟨ms, rest⟩ := ih (fun _ hx => sub (List.mem_cons_of_mem l hx)) (some f) known
        refine ⟨ms, (run_if_pos inside).trans ((run_bind_ok rest).trans ?_)⟩
        rw [known f rfl l hl inside.1]
        rfl
      · exact fresh.imp fun ms => (run_if_neg inside).trans
end

/-- The command `c` as it runs where hart `o` is. -/
def Cmd.runAt (c : Cmd) (o : Hart) : Cmd := { c with die := dieOf o.id.hartid, core := coreOf o.id.hartid, hartid := o.id.hartid }

section

variable {s : State} {c : Cmd} {place : Nat → Nat}
  (maps : ∀ l ∈ Machine.linesOf c.dests, ∃ loc, EngineMaps s c (lowestByte c.dests l) .store loc ∧ loc.key / 128 = place l)
include maps

/-- Destination lines of a re-issue keep their place in the 64 KB frame (R56). -/
theorem place_low {l : Nat} (hl : l ∈ Machine.linesOf c.dests) : l % 512 ≤ place l := by
  obtain ⟨loc, m, key⟩ := maps l hl
  have line := lowestByte_div c.dests (lt_of_mem_linesOf hl)
  have frame := congrArg (· / 128) (engineMaps_spec m nofun).1.1
  have frame : loc.key % (128 * 512) / 128 = lowestByte c.dests l % (128 * 512) / 128 := frame
  rw [Nat.mod_mul_right_div_self, Nat.mod_mul_right_div_self, key, line] at frame
  exact frame ▸ Nat.mod_le ..

theorem run_placeLines_reissue (o : Hart)
    (pages : ∀ l ∈ Machine.linesOf c.dests, ∀ k ∈ Machine.linesOf c.dests, l / 512 = k / 512 → place l + k = place k + l) :
    ∃ ms, (placeLines (c.runAt o) (reissuePlace (c.runAt o)) (Machine.linesOf c.dests) none).run s =
      (.ok ((Machine.linesOf c.dests).map fun l => (place l, l), ms), s) := by
  refine run_placeLines (fun l hl => ?_) (framed_of_pages (fun l => place_low maps) pages) _ (List.Subset.refl _) none nofun
  obtain ⟨loc, m, key⟩ := maps l hl
  obtain ⟨⟨-, attr, -⟩, translates⟩ := engineMaps_spec m nofun
  have there := translates (x := (c.runAt o).ctx) (bad := fun l => l.attr == 2) ⟨rfl, rfl, rfl⟩ (beq_eq_false_iff_ne.mpr attr) 1
  refine ⟨loc, ?_, key⟩
  unfold reissuePlace
  exact (run_bind_ok there).trans rfl

end

/-! ### What a re-issue takes -/

/-- Lines outside the fixed windows name no bank. -/
theorem banksOf_plain {s : State} {c : Cmd} {ls : List Nat} (plain : ∀ l ∈ ls, inWindow (l * 128) = false) : s.banksOf c ls = [] := by
  rw [State.banksOf, List.filterMap_eq_nil_iff.mpr fun l hl => if_neg (by rw [plain l hl]; decide)]
  rfl

/-- An idle device has room for a command of few lines. -/
theorem room_of_idle {d : Device} {c : Cmd} (idle : d.cmds = []) (few : c.lines.length ≤ 16384) : d.room c = none := by
  rw [Device.room, Device.ownedBy, idle]
  refine (if_neg (show ¬16 ≤ 0 by decide)).trans ((if_neg (Nat.not_lt.mpr ((Nat.zero_add _).trans_le few))).trans (if_neg ?_))
  rw [List.any_eq_true]
  exact fun ⟨_, _, h⟩ => Bool.false_ne_true h

/-- A gang once the cancelled command `c` has left its list. -/
def Gang.unsaved (c : Cmd) (g : Gang) : Gang :=
  if g.id == c.owner.gang then { g with savedCmds := g.savedCmds.filter fun x => !x.same c } else g

theorem unsaved_spec {c : Cmd} {g : Gang} {rest : List Cmd} (own : c.owner.gang = g.id) (hc : g.savedCmds = c :: rest)
    (names : ∀ x ∈ rest, ¬SameCmd x c) : Gang.unsaved c g = { g with savedCmds := rest } ∧ ∀ x, x.id ≠ g.id → Gang.unsaved c x = x := by
  have left : (g.savedCmds.filter fun x => !x.same c) = rest := by
    rw [hc, List.filter_cons_of_neg (by rw [same_iff.mpr ⟨rfl, rfl, rfl⟩]; decide), List.filter_eq_self]
    exact fun x hx => (Bool.not_eq_true' _).mpr (Bool.not_eq_true _ ▸ mt same_iff.mp (names x hx))
  exact ⟨(if_pos (beq_iff_eq.mpr own.symm)).trans (congrArg (fun l => { g with savedCmds := l }) left),
    fun x hx => if_neg (by rwa [beq_iff_eq, own])⟩

/-- The gang of a command is found again behind `unsave`. -/
theorem find_unsaved {gs : List Gang} {c : Cmd} {n : Nat} {g : Gang} (hg : (gs.find? fun x => x.id == n) = some g) :
    ((gs.map (Gang.unsaved c)).find? fun x => x.id == n) = some (Gang.unsaved c g) := by
  have id' : (fun x : Gang => x.id == n) ∘ Gang.unsaved c = fun x => x.id == n := funext fun x => congrArg (· == n) (by
    unfold Gang.unsaved
    split <;> rfl)
  rw [List.find?_map, id', hg]
  rfl

/-- Behind a re-issue the harts of the gang run if no cancelled command is left (R136, R337). -/
theorem startHarts_eq {s : State} {g : Gang} {n : Nat} {f : Hart → Hart} (hg : (s.dev.gangs.find? fun x => x.id == n) = some g)
    (back : g.saved = false ∧ g.stopReq = none)
    (run : ∀ h, f h = if g.savedCmds = [] ∧ h.id.gang.toNat = n ∧ h.status = .stopped then { h with status := .running } else h) :
    s.startHarts n = s.mapHarts f := by
  have start : s.startHarts n = if g.saved ∨ g.stopReq.isSome ∨ g.savedCmds ≠ [] then s
      else s.mapHarts fun h => if h.id.gang.toNat = n ∧ h.status = .stopped then { h with status := .running } else h := by
    rw [State.startHarts, hg]
  rw [start, back.1, back.2]
  by_cases more : g.savedCmds = []
  · refine (if_neg fun h => h.elim nofun fun h => h.elim nofun (· more)).trans (congrArg s.mapHarts (funext fun h => ?_))
    exact ((run h).trans (if_congr (and_iff_right more) rfl rfl)).symm
  · have stay : f = fun h => h := funext fun h => (run h).trans (if_neg fun h => more h.1)
    rw [if_pos (.inr (.inr more)), stay, State.mapHarts, List.map_id']

/-- A cancelled command is issued again where its hart is (R136). -/
theorem reissue_eq {s : State} {c : Cmd} {o : Hart} {place : Nat → Nat} {ms : List Mapping}
    (ho : ((s.h :: s.others).find? fun h =>
      decide (h.id.gang.toNat = c.owner.gang ∧ h.id.rank = c.owner.rank ∧ h.status ≠ .vacant)) = some o)
    (idle : s.dev.cmds = []) (few : (Machine.linesOf c.dests).length ≤ 16384)
    (places : (placeLines (c.runAt o) (reissuePlace (c.runAt o)) (Machine.linesOf (c.runAt o).dests) none).run s =
      (.ok ((Machine.linesOf c.dests).map fun l => (place l, l), ms), s))
    (plain : ∀ l ∈ Machine.linesOf c.dests ++ Machine.linesOf c.sources, inWindow (l * 128) = false) :
    s.reissue c = some (State.startHarts { s with dev := { s.dev with
      gangs := s.dev.gangs.map (Gang.unsaved c)
      cmds := [{ c.runAt o with
        lines := (Machine.linesOf c.dests).map fun l => (place l, l)
        map := ms
        dbanks := []
        sbanks := [] }] } } c.owner.gang) := by
  have owner : (fun h : Hart => h.id.gang.toNat == c.owner.gang && h.id.rank == c.owner.rank && h.status != .vacant) = fun h =>
      decide (h.id.gang.toNat = c.owner.gang ∧ h.id.rank = c.owner.rank ∧ h.status ≠ .vacant) := funext fun h => by
    rw [Bool.eq_iff_iff, decide_eq_true_iff, Bool.and_eq_true, Bool.and_eq_true, beq_iff_eq, beq_iff_eq, bne_iff_ne, and_assoc]
  unfold State.reissue
  rw [owner, State.harts, ho]
  dsimp only
  generalize hc : { c with die := dieOf o.id.hartid, core := coreOf o.id.hartid, hartid := o.id.hartid } = c'
  obtain rfl : c.runAt o = c' := hc
  rw [places]
  dsimp only
  rw [banksOf_plain (c := c.runAt o), banksOf_plain (c := c.runAt o), room_of_idle idle (by rwa [List.length_map])]
  · refine congrArg (fun l => some (State.startHarts { s with dev := { s.dev with
      gangs := s.dev.gangs.map (Gang.unsaved c)
      cmds := l ++ [{ c.runAt o with
        lines := (Machine.linesOf c.dests).map fun l => (place l, l)
        map := ms
        dbanks := []
        sbanks := [] }] } } c.owner.gang)) idle
  · exact fun l hl => plain l (List.mem_append_left _ hl)
  · split
    · exact List.forall_mem_nil _
    · exact List.forall_mem_nil _
    · exact fun l hl => plain l (List.mem_append_right _ hl)

theorem exec_cpyReissue {s : State} {g : Gang} {c : Cmd} {rest : List Cmd} (hg : (s.dev.gangs.find? fun x => x.id == g.id) = some g)
    (hc : g.savedCmds = c :: rest) (back : g.saved = false ∧ g.stopReq = none) :
    exec (.cpyReissue g.id) s = .next ((s.reissue c).getD s) := by
  have run : exec (.cpyReissue g.id) s = .next (((s.dev.gangs.find? (·.id == g.id)).bind fun g => match g.savedCmds with
      | c :: _ => if g.saved || g.stopReq.isSome then none else s.reissue c
      | [] => none).getD s) := rfl
  rw [run, hg, Option.bind_some, hc, back.1, back.2]
  rfl

/-! ### The events of an engine -/

/-- A list with the bytes of a stretch is what the stretch reads as. -/
theorem Memory.eq_getBytes {m : Memory} {k n : Nat} {bs : List Byte} (len : bs.length = n)
    (get : ∀ j < n, (bs[j]?).getD 0 = m.get (k + j)) : bs = m.getBytes k n := by
  subst len
  refine List.ext_getElem (Memory.getBytes_length ..).symm fun j hj hj' => Option.some.inj ?_
  rw [← List.getElem?_eq_getElem hj', Memory.getBytes_get _ _ _ _ hj, ← get j hj, List.getElem?_eq_getElem hj]
  rfl

theorem mul_add_div_mod {k j : Nat} (hj : j < 128) : (k * 128 + j) / 128 = k ∧ (k * 128 + j) % 128 = j :=
  ⟨by rw [Nat.mul_comm, Nat.mul_add_div (by decide), Nat.div_eq_of_lt hj, Nat.add_zero], by
    rw [Nat.mul_add_mod', Nat.mod_eq_of_lt hj]⟩

theorem putLine_keeps {s : State} (hw : s.dev.writeWatch = []) (a : Agent) (k : Nat) (bs : List (Option Byte)) :
    (s.putLine a k bs).dev.cmds = s.dev.cmds ∧ (s.putLine a k bs).dev.banks = s.dev.banks ∧
      (s.putLine a k bs).dev.gangs = s.dev.gangs := by
  rw [putLine_eq hw]
  obtain ⟨cmds, banks, gangs, -⟩ := writtenRuns_keeps (runsOf k [] bs) s.dev
  exact ⟨cmds, banks, gangs⟩

/-- A line at its home: its bytes, the other memory, and the harts (R133, R268). -/
theorem putLine_leaves {s : State} {c : Cmd} {a : Agent} {key l : Nat} (form : c.form ≠ .conv)
    (canonical : s.dev.mem.wf = true ∧ s.dev.writeWatch = []) (line : l < 2 ^ 57) :
    (∀ j < 128, ∀ v, CopyByte c (l * 128 + j) v →
      (s.putLine a (key * 128) (c.lineBytes l)).dev.mem.get (key * 128 + j) = v.getD (s.dev.mem.get (key * 128 + j))) ∧
    (∀ j, j / 128 ≠ key → (s.putLine a (key * 128) (c.lineBytes l)).dev.mem.get j = s.dev.mem.get j) ∧
    ∃ f : Hart → Hart, (s.putLine a (key * 128) (c.lineBytes l)).h = f s.h ∧
      (s.putLine a (key * 128) (c.lineBytes l)).others = s.others.map f ∧ ∀ h, (h.ms.bound = [] → f h = evented (key * 128) h) ∧
      f h = { evented (key * 128) h with ms := { h.ms with bound := (f h).ms.bound } } := by
  rw [putLine_eq canonical.2]
  have bytes := fun j => (congrArg (Memory.get · j) (writtenRuns_mem _ _)).trans (get_lineBytes canonical.1 (c := c) key l j)
  refine ⟨fun j hj v b => (bytes _).trans ?_, fun j hj => (bytes j).trans (if_neg hj), ⟨_, rfl, rfl, lineNoted_spec _ _ _⟩⟩
  have low : l * 128 + j < 2 ^ 64 := calc
    l * 128 + j < (l + 1) * 128 := (Nat.add_lt_add_left hj _).trans_eq (Nat.succ_mul ..).symm
    _ ≤ 2 ^ 57 * 128 := Nat.mul_le_mul_right 128 line
  rw [(mul_add_div_mod hj).1, (mul_add_div_mod hj).2, if_pos rfl, value_origin form low b]

/-- Each event of an engine leaves what the statement says. -/
theorem engineEvent_leaves {s : State} {c : Cmd} {i : Instr} {P : State → Prop} (ev : EngineEvent s c i P) :
    ∃ u, P u ∧ exec i s = .next u := by
  induction ev with
  | read n l va loc bs run hl hv m intact hb more =>
    subst hv
    refine ⟨_, rfl, ?_⟩
    rw [exec_read run, engineRead_ok run hl m intact more, Memory.eq_getBytes hb.1 hb.2]
  | write n key l run form read hl home canonical line =>
    obtain ⟨bytes, rest, harts⟩ := putLine_leaves form canonical line
    obtain ⟨cmds, banks, gangs⟩ := putLine_keeps canonical.2 (engineAgent c) (key * 128) (c.lineBytes l)
    refine ⟨_, ?_, exec_write run (engineWrite_eq run form read hl home _)⟩
    generalize s.putLine (engineAgent c) (key * 128) (c.lineBytes l) = p at *
    by_cases last : c.lines.erase (key, l) = []
    · rw [finishCmd_last (c := c) (c' := { c with lines := c.lines.erase (key, l) }) ⟨rfl, rfl, rfl⟩ ⟨last, read⟩]
      exact ⟨bytes, rest, harts, fun h => absurd last h, fun _ => ⟨congrArg _ cmds,
        banksCompleted (d := { p.dev with cmds := cmdsWithout p c }) banks rfl rfl⟩⟩
    · rw [finishCmd_more (c := c) (c' := { c with lines := c.lines.erase (key, l) }) ⟨rfl, rfl, rfl⟩ (gangs ▸ saved_of_runs run) last]
      exact ⟨bytes, rest, harts, fun _ => ⟨congrArg _ cmds, banks⟩, fun h => absurd h last⟩
  | fail n l va x f run form hl hv low choice fault mine full other =>
    subst hv
    refine ⟨s.engineFail c n, ?_, exec_cpyFail run n⟩
    rw [engineFail_fault run form hl low choice fault, failCmd_eq mine full other, gone_eq ⟨rfl, rfl, rfl⟩]
    exact ⟨rfl, banksCompleted (d := { s.dev with cmds := cmdsWithout s c }) rfl rfl rfl⟩
  | reissue g rest o place f hg once hc back own names ho idle few maps pages plain run =>
    obtain ⟨ms, places⟩ := run_placeLines_reissue maps o pages
    obtain ⟨kg, kother⟩ := unsaved_spec own hc names
    refine ⟨_, ⟨ms, Gang.unsaved c, kg, kother, rfl⟩, ?_⟩
    rw [exec_cpyReissue hg hc back, reissue_eq ho idle few places plain, own]
    exact congrArg _ (startHarts_eq (g := { g with savedCmds := rest }) ((find_unsaved hg).trans (congrArg some kg)) back run)

/-- Settles O48: a read, a write, a failure and a re-issue each by the equation of the step that they are, with the banks behind
the command as R114 says. -/
theorem engineSteps : Obligations.EngineSteps := fun _ _ _ _ ev => engineEvent_leaves ev

end Sys2Proof.Machine
end


section
/-! What a command covers, in lines (R126-R131): the stretches of its destination are the bytes that R127 and R130 list, and
the lines of stretches are those of their bytes, each once and rising. Helper definitions stand in proofs alone, so those that could run
are noncomputable: no code is made of them. -/

namespace Sys2Proof.Machine

open Sys2Proof.Claims

/-! ### Bytes and lines of stretches -/

/-- The stretches `rs` cover the byte at `x`. -/
def Stretched (rs : List (Nat × Nat)) (x : Nat) : Prop := ∃ r ∈ rs, ∃ j < r.2, (r.1 + j) % 2 ^ 64 = x

theorem stretched_singleton {a n x : Nat} : Stretched [(a, n)] x ↔ ∃ j < n, (a + j) % 2 ^ 64 = x := by
  refine ⟨?_, fun h => ⟨_, List.mem_singleton_self _, h⟩⟩
  rintro ⟨r, hr, h⟩
  rwa [List.mem_singleton.mp hr] at h

theorem pairwise_insertUp (x : Nat) {l : List Nat} (h : l.Pairwise (· < ·)) : (insertUp x l).Pairwise (· < ·) := by
  induction l with
  | nil => exact List.pairwise_singleton ..
  | cons y r ih =>
    obtain ⟨first, rest⟩ := List.pairwise_cons.mp h
    unfold insertUp
    split
    · next lt => exact List.pairwise_cons.mpr ⟨fun z hz => (List.mem_cons.mp hz).elim (fun e => e ▸ lt)
        fun hz => lt.trans (first z hz), h⟩
    · next ge =>
      split
      · exact h
      · next ne => exact List.pairwise_cons.mpr ⟨fun z hz => (mem_insertUp.mp hz).elim
          (fun e => e ▸ Nat.lt_of_le_of_ne (Nat.not_lt.mp ge) (Ne.symm ne)) (first z), ih rest⟩

theorem pairwise_linesOf (rs : List (Nat × Nat)) : (Machine.linesOf rs).Pairwise (· < ·) :=
  List.foldrRecOn (motive := List.Pairwise (· < ·)) _ _ List.Pairwise.nil fun _ h x _ => pairwise_insertUp x h

/-- Lines from the one at `q` to line `l`, round the address space. -/
noncomputable def lineSpan (l q : Nat) : Nat := (l + 2 ^ 57 - q) % 2 ^ 57

theorem add_lineSpan {l q : Nat} (hl : l < 2 ^ 57) (hq : q < 2 ^ 57) : (q + lineSpan l q) % 2 ^ 57 = l := by
  rw [lineSpan, Nat.add_mod_mod, Nat.add_sub_cancel' (hq.le.trans (Nat.le_add_left ..)), Nat.add_mod_right, Nat.mod_eq_of_lt hl]

theorem lineSpan_add {q : Nat} (hq : q < 2 ^ 57) (i : Nat) : lineSpan ((q + i) % 2 ^ 57) q = i % 2 ^ 57 := by
  rw [lineSpan, Nat.add_sub_assoc hq.le, Nat.mod_add_mod, Nat.add_right_comm, Nat.add_sub_cancel' hq.le, Nat.add_mod_left]

theorem line_lt {a : Nat} (h : a < 2 ^ 64) : a / 128 < 2 ^ 57 := Nat.div_lt_of_lt_mul h

/-- From a byte to the start of a later line. -/
theorem add_sub_mod_line {a k : Nat} (h : a % 128 ≤ k * 128) : a + (k * 128 - a % 128) = (a / 128 + k) * 128 := calc
  a + (k * 128 - a % 128) = a / 128 * 128 + a % 128 + (k * 128 - a % 128) := congrArg (· + _) (Nat.div_add_mod' a 128).symm
  _ = a / 128 * 128 + k * 128 := by rw [Nat.add_assoc, Nat.add_sub_cancel' h]
  _ = (a / 128 + k) * 128 := (Nat.add_mul ..).symm

/-- The lines that hold `n` bytes begin below byte `n`. -/
theorem mul_lt_of_lt_lines {i n : Nat} (h : i < (n + 127) / 128) : i * 128 < n :=
  have rounded : i * 128 + 128 ≤ n + 127 := (Nat.succ_mul i 128).symm.trans_le ((Nat.le_div_iff_mul_le (by decide)).mp h)
  Nat.lt_of_add_lt_add_right (show i * 128 + 127 < n + 127 from rounded)

/-- Line `l` is one of a stretch, as `lowestByte` tests it. -/
abbrev Touches (r : Nat × Nat) (l : Nat) : Prop := (r.2 != 0 && decide (lineSpan l (r.1 / 128) * 128 < r.1 % 128 + r.2)) = true

/-- The lowest byte of line `l` that a stretch covers. -/
noncomputable def firstIn (r : Nat × Nat) (l : Nat) : Nat := if lineSpan l (r.1 / 128) = 0 then r.1 else l * 128

theorem touches_of_mem {r : Nat × Nat} {l : Nat} (hr : r.1 < 2 ^ 64) (h : l ∈ stretchLines r.1 r.2) : Touches r l := by
  rw [stretchLines] at h
  split at h
  · exact absurd h List.not_mem_nil
  · next ne =>
    obtain ⟨i, hi, rfl⟩ := List.mem_map.mp h
    refine Bool.and_eq_true_iff.mpr ⟨bne_iff_ne.mpr ne, decide_eq_true ?_⟩
    rw [lineSpan_add (line_lt hr)]
    exact (Nat.mul_le_mul_right 128 (Nat.mod_le i _)).trans_lt (mul_lt_of_lt_lines (List.mem_range.mp hi))

/-- The byte that a stretch covers first in a line of its own. -/
theorem firstIn_spec {r : Nat × Nat} {l : Nat} (hr : r.1 < 2 ^ 64) (hl : l < 2 ^ 57) (h : Touches r l) :
    (∃ j < r.2, (r.1 + j) % 2 ^ 64 = firstIn r l) ∧ firstIn r l / 128 = l := by
  obtain ⟨ne, inside⟩ := Bool.and_eq_true_iff.mp h
  have ne := bne_iff_ne.mp ne
  have inside := of_decide_eq_true inside
  have span := add_lineSpan hl (line_lt hr)
  unfold firstIn
  split
  · next zero =>
    refine ⟨⟨0, Nat.pos_of_ne_zero ne, Nat.mod_eq_of_lt hr⟩, ?_⟩
    rwa [zero, Nat.add_zero, Nat.mod_eq_of_lt (line_lt hr)] at span
  · next pos =>
    have start : r.1 % 128 ≤ lineSpan l (r.1 / 128) * 128 :=
      (Nat.mod_lt _ (by decide)).le.trans (Nat.le_mul_of_pos_left 128 (Nat.pos_of_ne_zero pos))
    refine ⟨⟨lineSpan l (r.1 / 128) * 128 - r.1 % 128, Nat.sub_lt_left_of_lt_add start inside, ?_⟩,
      Nat.mul_div_cancel l (by decide)⟩
    rw [add_sub_mod_line start]
    exact (Nat.mul_mod_mul_right 128 _ (2 ^ 57)).trans (congrArg (· * 128) span)

/-- The lines of stretches are those of the bytes that they cover. -/
theorem mem_linesOf_iff {rs : List (Nat × Nat)} (low : ∀ r ∈ rs, r.1 < 2 ^ 64) {l : Nat} :
    l ∈ Machine.linesOf rs ↔ ∃ x, Stretched rs x ∧ x / 128 = l := by
  constructor
  · intro h
    obtain ⟨r, hr, hl⟩ := mem_linesOf.mp h
    obtain ⟨byte, line⟩ := firstIn_spec (low r hr) (lt_of_mem_linesOf h) (touches_of_mem (low r hr) hl)
    exact ⟨_, ⟨r, hr, byte⟩, line⟩
  · rintro ⟨x, ⟨r, hr, j, hj, rfl⟩, rfl⟩
    exact mem_linesOf.mpr ⟨r, hr, mem_stretchLines r.1 hj⟩

/-- The lowest byte of line `l` found so far, once the stretch `r` has been looked at. -/
noncomputable def lowerBy (l best : Nat) (r : Nat × Nat) : Nat :=
  if Touches r l then min best (firstIn r l) else best

theorem lowestByte_eq (rs : List (Nat × Nat)) (l : Nat) : lowestByte rs l = rs.foldl (lowerBy l) (l * 128 + 127) := rfl

/-- A stretch of the line brings a byte that it covers, if none below the line's last was found before. -/
theorem stretched_lowerBy {rs : List (Nat × Nat)} {r : Nat × Nat} {l best : Nat} (first : Stretched rs (firstIn r l))
    (line : firstIn r l / 128 = l) (ht : Touches r l) (hb : Stretched rs best ∨ best = l * 128 + 127) :
    Stretched rs (lowerBy l best r) := by
  rw [lowerBy, if_pos ht]
  rcases hb with hb | rfl
  · exact (min_choice best (firstIn r l)).elim (fun e => by rwa [e]) fun e => by rwa [e]
  · have last : firstIn r l < (l + 1) * 128 := (Nat.div_lt_iff_lt_mul (by decide)).mp (Nat.lt_succ_of_le line.le)
    rwa [Nat.min_eq_right (Nat.le_of_lt_succ (last.trans_eq (Nat.succ_mul l 128)))]

/-- The lowest byte of a line of stretches is one that they cover. -/
theorem stretched_lowestByte {rs : List (Nat × Nat)} (low : ∀ r ∈ rs, r.1 < 2 ^ 64) {l : Nat} (h : l ∈ Machine.linesOf rs) :
    Stretched rs (lowestByte rs l) := by
  have fold : ∀ qs ⊆ rs, ∀ best, Stretched rs best ∨ best = l * 128 + 127 ∧ (∃ r ∈ qs, Touches r l) →
      Stretched rs (qs.foldl (lowerBy l) best) := by
    intro qs
    induction qs with
    | nil =>
      rintro - _ (hb | ⟨-, r, hr, -⟩)
      · exact hb
      · exact absurd hr List.not_mem_nil
    | cons q qs ih =>
      intro sub best hb
      have hq := sub List.mem_cons_self
      refine ih (fun _ hx => sub (List.mem_cons_of_mem q hx)) _ ?_
      by_cases ht : Touches q l
      · obtain ⟨byte, line⟩ := firstIn_spec (low q hq) (lt_of_mem_linesOf h) ht
        exact .inl (stretched_lowerBy ⟨q, hq, byte⟩ line ht (hb.imp_right And.left))
      · rw [lowerBy, if_neg ht]
        rcases hb with hb | ⟨e, r, hr, hr'⟩
        · exact .inl hb
        · exact .inr ⟨e, r, (List.mem_cons.mp hr).resolve_left fun eq => ht (eq ▸ hr'), hr'⟩
  obtain ⟨r, hr, hm⟩ := mem_linesOf.mp h
  rw [lowestByte_eq]
  exact fold rs (List.Subset.refl rs) _ (.inr ⟨rfl, r, hr, touches_of_mem (low r hr) hm⟩)

/-- A stretch that reaches beyond 8,192 lines has more than 8,192 of them. -/
theorem lines_of_long {a n : Nat} (long : 8192 * 128 < a % 128 + n) {ls : List Nat} (sub : stretchLines a n ⊆ ls) : 8192 < ls.length := by
  have lines : (List.range 8193).map (fun i => (a / 128 + i) % 2 ^ 57) ⊆ stretchLines a n := by
    have some : n ≠ 0 := fun none => by
      rw [none] at long
      exact absurd (long.trans (Nat.mod_lt a (by decide))) (by decide)
    have count : 8193 ≤ (a % 128 + n + 127) / 128 := (Nat.le_div_iff_mul_le (by decide)).mpr (Nat.add_le_add_right long 127)
    rw [stretchLines, if_neg some]
    exact List.map_subset _ fun i hi => List.mem_range.mpr ((List.mem_range.mp hi).trans_le count)
  have nodup : ((List.range 8193).map (fun i => (a / 128 + i) % 2 ^ 57)).Nodup :=
    have low : ∀ i ∈ List.range 8193, i < 2 ^ 57 := fun i hi => (List.mem_range.mp hi).trans (by decide)
    List.Nodup.map_on (fun i hi j hj e => (Nat.ModEq.add_left_cancel' (a / 128) e).eq_of_lt_of_lt (low i hi) (low j hj)) List.nodup_range
  have count := (nodup.subperm (List.Subset.trans lines sub)).length_le
  rwa [List.length_map, List.length_range] at count

/-! ### The destination of a command (R126, R127, R130) -/

theorem dstr_eq_zero_iff (c : Cmd) : c.dstr = 0 ↔ c.aux.extractLsb' 16 24 = 0 := by
  rw [Cmd.dstr, sext_bits, ← BitVec.toInt_inj]
  rfl

theorem dstRow_of_dstr_zero {c : Cmd} (h : c.dstr = 0) (k : Nat) : dstRow c k = c.dst.toNat := by
  unfold dstRow
  rw [(dstr_eq_zero_iff c).mp h]
  simp

/-- What a narrowing CONV must have for its destination to be its containers alone (R130, R161). -/
def Cmd.Plain (c : Cmd) : Prop :=
  c.form = .conv → c.aux.getLsbD 2 = true → (convDesc c).trl = false ∧ (convDesc c).smode ≠ 1

theorem dests_one {c : Cmd} (h : c.form = .lin ∨ c.form = .fill) : c.dests = [(c.dst.toNat, countOfCmd c)] := by
  rw [← count_eq]
  unfold Cmd.dests
  rcases h with h | h <;> rw [h] <;> rfl

theorem dests_gath {c : Cmd} (h : c.form = .gath) : c.dests = [(c.dst.toNat, countOfCmd c * Claims.rowBytes c)] := by
  rw [← count_eq, ← rb_eq]
  unfold Cmd.dests
  rw [h]
  rfl

theorem dests_twoD {c : Cmd} (h : c.form = .twoD) : c.dests = if c.dstr = 0 then [(c.dst.toNat, Claims.rowBytes c)] else
    (List.range (countOfCmd c)).map fun k => (dstRow c k, Claims.rowBytes c) := by
  rw [← count_eq, ← rb_eq]
  unfold Cmd.dests
  rw [h]
  simp only [dstRow_eq]
  rfl

theorem dests_widen {c : Cmd} (h : c.form = .conv) (dir : c.aux.getLsbD 2 = false) :
    c.dests = [(c.dst.toNat, countOfCmd c * (if c.aux.getLsbD 3 then 4 else 2))] := by
  have width : c.wideBits / 8 = if c.aux.getLsbD 3 then 4 else 2 := by
    unfold Cmd.wideBits
    split <;> rfl
  rw [← count_eq, ← width]
  unfold Cmd.dests Cmd.wideSide Cmd.narrows
  rw [h, dir]
  rfl

theorem dests_narrow {c : Cmd} (h : c.form = .conv) (dir : c.aux.getLsbD 2 = true)
    (plain : (convDesc c).trl = false ∧ (convDesc c).smode ≠ 1) :
    c.dests = [(c.dst.toNat, (countOfCmd c * (convDesc c).fmt.container + 7) / 8)] := by
  have desc : c.desc = convDesc c := rfl
  have elems : c.elems = countOfCmd c := by
    unfold Cmd.elems
    rw [if_neg (by rw [desc, Bool.and_eq_true, beq_iff_eq]; exact fun h => plain.2 h.2), count_eq]
  have containers : c.containers = [(c.dst.toNat, (countOfCmd c * (convDesc c).fmt.container + 7) / 8)] := by
    unfold Cmd.containers Cmd.narrowA Cmd.narrows
    rw [elems, dir]
    rfl
  have trailers : c.trailers = [] := by
    unfold Cmd.trailers Cmd.chunks
    rw [desc, plain.1]
    rfl
  unfold Cmd.dests
  rw [h]
  dsimp only
  rw [if_neg (by unfold Cmd.narrows; rw [dir]; decide), containers, trailers, desc, if_neg plain.2]
  exact ite_self _

/-- The destination is one stretch, or the rows of a 2D. -/
theorem dests_cases {c : Cmd} (plain : c.Plain) : (∃ n, c.dests = [(c.dst.toNat, n)]) ∨
    c.dests = (List.range (countOfCmd c)).map fun k => (dstRow c k, Claims.rowBytes c) := by
  cases h : c.form with
  | lin => exact .inl ⟨_, dests_one (.inl h)⟩
  | fill => exact .inl ⟨_, dests_one (.inr h)⟩
  | gath => exact .inl ⟨_, dests_gath h⟩
  | conv =>
    cases dir : c.aux.getLsbD 2 with
    | false => exact .inl ⟨_, dests_widen h dir⟩
    | true => exact .inl ⟨_, dests_narrow h dir (plain h dir)⟩
  | twoD =>
    have rows := dests_twoD h
    split at rows
    · exact .inl ⟨_, rows⟩
    · exact .inr rows

theorem dests_low {c : Cmd} (plain : c.Plain) : ∀ r ∈ c.dests, r.1 < 2 ^ 64 := by
  rcases dests_cases plain with ⟨n, h⟩ | h
  · rw [h]
    exact fun r hr => List.mem_singleton.mp hr ▸ c.dst.isLt
  · rw [h]
    intro r hr
    obtain ⟨k, -, rfl⟩ := List.mem_map.mp hr
    exact dstRow_lt c k

/-- The destination bytes of a 2D are those of its rows (R127). -/
theorem stretched_twoD {c : Cmd} (h : c.form = .twoD) (count : countOfCmd c ≠ 0) {va : Nat} : Stretched c.dests va ↔
    ∃ k < countOfCmd c, ∃ j < Claims.rowBytes c, (dstRow c k + j) % 2 ^ 64 = va := by
  rw [dests_twoD h]
  split
  · next zero =>
    rw [stretched_singleton]
    have first : ∃ k, k < countOfCmd c := ⟨0, Nat.pos_of_ne_zero count⟩
    simp only [dstRow_of_dstr_zero zero]
    exact (exists_and_right.trans (and_iff_right first)).symm
  · constructor
    · rintro ⟨r, hr, hj⟩
      obtain ⟨k, hk, rfl⟩ := List.mem_map.mp hr
      exact ⟨k, List.mem_range.mp hk, hj⟩
    · rintro ⟨k, hk, hj⟩
      exact ⟨_, List.mem_map_of_mem (List.mem_range.mpr hk), hj⟩

/-- The model's destination stretches are the bytes of R127 and R130. -/
theorem covers_iff {c : Cmd} (plain : c.Plain) (count : countOfCmd c ≠ 0) {va : Nat} : Covers c va ↔ Stretched c.dests va := by
  constructor
  · intro cov
    cases cov with
    | lin o h ho => exact dests_one h ▸ stretched_singleton.mpr ⟨o, ho, rfl⟩
    | twoD k j h hk hj => exact (stretched_twoD h count).mpr ⟨k, hk, j, hj, rfl⟩
    | gath o h ho => exact dests_gath h ▸ stretched_singleton.mpr ⟨o, ho, rfl⟩
    | widen o h dir ho => exact dests_widen h dir ▸ stretched_singleton.mpr ⟨o, ho, rfl⟩
    | narrow o h dir ho => exact dests_narrow h dir (plain h dir) ▸ stretched_singleton.mpr ⟨o, ho, rfl⟩
  · intro st
    cases h : c.form with
    | lin =>
      obtain ⟨o, ho, rfl⟩ := stretched_singleton.mp (dests_one (.inl h) ▸ st)
      exact .lin o (.inl h) ho
    | fill =>
      obtain ⟨o, ho, rfl⟩ := stretched_singleton.mp (dests_one (.inr h) ▸ st)
      exact .lin o (.inr h) ho
    | gath =>
      obtain ⟨o, ho, rfl⟩ := stretched_singleton.mp (dests_gath h ▸ st)
      exact .gath o h ho
    | twoD =>
      obtain ⟨k, hk, j, hj, rfl⟩ := (stretched_twoD h count).mp st
      exact .twoD k j h hk hj
    | conv =>
      cases dir : c.aux.getLsbD 2 with
      | false =>
        obtain ⟨o, ho, rfl⟩ := stretched_singleton.mp (dests_widen h dir ▸ st)
        exact .widen o h dir ho
      | true =>
        obtain ⟨o, ho, rfl⟩ := stretched_singleton.mp (dests_narrow h dir (plain h dir) ▸ st)
        exact .narrow o h dir ho

end Sys2Proof.Machine
end


noncomputable section
/-! Places of a command's lines at issue (R56, R128, R131): addresses of one 64 KiB frame lead into one frame, so that the lines
that a CPY takes lie where the translations of their bytes lead. -/

namespace Sys2Proof.Machine

open Sys2Proof.Claims

/-! ### Frames (R48, R51, R56) -/

theorem homeOf_eq (d : Device) (pa : Nat) : d.homeOf pa = if (0x8000000000000 ≤ pa ∧ pa < 0x8800000000000) ∧ d.hosts.domEn ∧
    (pa - 0x8000000000000) / 0x8000000000 = d.hosts.domId.toNat then pa % 0x8000000000 else pa := by
  by_cases domain : 0x8000000000000 ≤ pa ∧ pa < 0x8800000000000
  · have region : regionOf pa = .domain ((pa - 0x8000000000000) / 0x8000000000) := by
      have past : ∀ {n}, n ≤ 0x8000000000000 → ¬pa < n := fun h => Nat.not_lt.mpr (h.trans domain.1)
      exact (if_neg (past (by decide))).trans ((if_neg (past (by decide))).trans ((if_neg (past (by decide))).trans
        ((if_neg (past (by decide))).trans (if_pos domain.2))))
    rw [Device.homeOf, region]
    exact if_congr (and_iff_right domain).symm rfl rfl
  · have region : ∀ n, regionOf pa ≠ .domain n := fun n => by
      unfold regionOf
      iterate 3 refine iteInduction (motive := (· ≠ Region.domain n)) (fun _ => Region.noConfusion) fun _ => ?_
      refine iteInduction (motive := (· ≠ Region.domain n)) (fun _ => Region.noConfusion) fun high => ?_
      refine iteInduction (motive := (· ≠ Region.domain n)) (fun low => absurd ⟨Nat.not_lt.mp high, low⟩ domain) fun _ => ?_
      iterate 5 refine iteInduction (motive := (· ≠ Region.domain n)) (fun _ => Region.noConfusion) fun _ => ?_
      exact Region.noConfusion
    rw [if_neg fun h => domain h.1, Device.homeOf]
    generalize regionOf pa = r at region
    cases r with
    | domain n => exact absurd rfl (region n)
    | _ => rfl

theorem div_of_frame {x y : Nat} (h : x / 0x10000 = y / 0x10000) (n : Nat) : x / (0x10000 * n) = y / (0x10000 * n) := by
  rw [← Nat.div_div_eq_div_mul, h, Nat.div_div_eq_div_mul]

theorem le_of_frame {x y : Nat} (h : x / 0x10000 = y / 0x10000) (n : Nat) : n * 0x10000 ≤ x ↔ n * 0x10000 ≤ y := by
  rw [← Nat.le_div_iff_mul_le (by decide), h, Nat.le_div_iff_mul_le (by decide)]

theorem mod_of_frame {x y : Nat} (h : x / 0x10000 = y / 0x10000) (n : Nat) :
    x % (0x10000 * n) / 0x10000 = y % (0x10000 * n) / 0x10000 := by
  rw [Nat.mod_mul_right_div_self, h, Nat.mod_mul_right_div_self]

theorem sub_of_frame {x y : Nat} (h : x / 0x10000 = y / 0x10000) (n : Nat) : (x - 0x10000 * n) / 0x10000 = (y - 0x10000 * n) / 0x10000 := by
  rw [Nat.sub_mul_div, h, Nat.sub_mul_div]

/-- Physical addresses of one frame have their homes in one frame. -/
theorem homeOf_frame (d : Device) {pa pb : Nat} (h : pa / 0x10000 = pb / 0x10000) :
    d.homeOf pa / 0x10000 = d.homeOf pb / 0x10000 := by
  have slot : (pa - 0x8000000000000) / 0x8000000000 = (pb - 0x8000000000000) / 0x8000000000 :=
    div_of_frame (sub_of_frame h 0x800000000) 0x800000
  have range : (0x8000000000000 ≤ pa ∧ pa < 0x8800000000000) ↔ 0x8000000000000 ≤ pb ∧ pb < 0x8800000000000 :=
    and_congr (le_of_frame h 0x800000000) (lt_iff_lt_of_le_iff_le (le_of_frame h 0x880000000))
  rw [homeOf_eq, homeOf_eq, slot, apply_ite (· / 0x10000), apply_ite (· / 0x10000)]
  exact if_congr (and_congr_left' range) (mod_of_frame h 0x800000) h

/-- A leaf leads the addresses of one frame into one frame. -/
theorem Leaf.key_loc_frame (l : Leaf) (s : State) (c : Ctx) {va vb : Nat} (h : va / 0x10000 = vb / 0x10000) :
    (l.loc s c va).2.key / 0x10000 = (l.loc s c vb).2.key / 0x10000 := by
  obtain ⟨n, size⟩ := l.frame_dvd_size
  have place : ∀ x, (bits l.pte 16 36 * 0x10000 / l.size * l.size + x % l.size) / 0x10000 =
      bits l.pte 16 36 * 0x10000 / l.size * n + x / 0x10000 % n := fun x => by
    generalize bits l.pte 16 36 * 0x10000 / l.size = a
    rw [size, Nat.mul_left_comm, Nat.mul_add_div (by decide), Nat.mod_mul_right_div_self]
  refine homeOf_frame s.dev ?_
  rw [place, place, h]

/-- The walk takes no bit of the place within the frame. -/
theorem walkFrom_frame (s : State) (tenant : Nat) {va vb : Nat} (h : va / 0x10000 = vb / 0x10000) (n : Nat) : ∀ base,
    s.walkFrom tenant va base n = s.walkFrom tenant vb base n := by
  have index : ∀ k, bits va (16 + 12 * k) 12 = bits vb (16 + 12 * k) 12 := fun k => by
    rw [bits, bits, pow_add, ← Nat.div_div_eq_div_mul, ← Nat.div_div_eq_div_mul]
    exact congrArg (fun x => x / 2 ^ (12 * k) % 2 ^ 12) h
  induction n with
  | zero => exact fun _ => rfl
  | succ n ih =>
    intro base
    simp only [State.walkFrom, index, ih]

theorem walk_frame (s : State) (tenant : Nat) (root : BitVec 52) {va vb : Nat} (h : va / 0x10000 = vb / 0x10000) :
    s.walk tenant root va = s.walk tenant root vb := by
  rw [State.walk, State.walk, walkFrom_frame s tenant h]

/-- Mapped addresses of one frame lie in one frame. -/
theorem mapped_frame {s : State} {va vb : Nat} {k : Kind} {l m : Leaf} {p q : Loc} (ha : Mapped s va k l p) (hb : Mapped s vb k m q)
    (h : va / 0x10000 = vb / 0x10000) : p.key / 0x10000 = q.key / 0x10000 := by
  have leaf : l = m := Except.ok.inj (ha.walk.symm.trans ((walk_frame _ _ _ h).trans hb.walk))
  subst leaf
  rw [ha.place, hb.place, l.key_loc_frame s s.h.ctx h]

/-! ### The lines that a CPY takes -/

theorem div_frame (x : Nat) : x / 0x10000 = x / 128 / 512 := (Nat.div_div_eq_div_mul x 128 512).symm

theorem mod_frame_div (x : Nat) : x % 0x10000 / 128 = x / 128 % 512 := Nat.mod_mul_right_div_self x 128 512

section
variable {s : State} {c : Cmd} {lines : List Nat} {place : Nat → Nat} (takes : Takes s c lines place) (plain : c.Plain)
  (count : countOfCmd c ≠ 0)
include takes plain count

theorem linesOf_dests : Machine.linesOf c.dests = lines :=
  (pairwise_linesOf _).eq_of_mem_iff takes.rising fun l => by
    rw [mem_linesOf_iff (dests_low plain), takes.exact]
    simp only [covers_iff plain count]

/-- The byte at which a destination line is translated. -/
theorem mapped_lowestByte {l : Nat} (hl : l ∈ lines) : ∃ lf loc, Mapped s (lowestByte c.dests l) .store lf loc ∧
    loc.key / 128 = place l ∧ s.dev.owned loc.key = false := by
  have mem : l ∈ Machine.linesOf c.dests := (linesOf_dests takes plain count).symm ▸ hl
  have := takes.mapped _ ((covers_iff plain count).mpr (stretched_lowestByte (dests_low plain) mem))
  rwa [lowestByte_div c.dests (lt_of_mem_linesOf mem)] at this

theorem framed_of_takes : Framed place lines := by
  have at_line : ∀ x ∈ lines, lowestByte c.dests x / 128 = x := fun x hx =>
    lowestByte_div c.dests (lt_of_mem_linesOf ((linesOf_dests takes plain count).symm ▸ hx))
  have within : ∀ x ∈ lines, place x % 512 = x % 512 := fun x hx => by
    obtain ⟨_, p, m, hp, -⟩ := mapped_lowestByte takes plain count hx
    rw [← hp, ← mod_frame_div, mapped_key_mod m, mod_frame_div, at_line x hx]
  intro l hl k hk page
  obtain ⟨_, p, mp, hp, -⟩ := mapped_lowestByte takes plain count hl
  obtain ⟨_, q, mq, hq, -⟩ := mapped_lowestByte takes plain count hk
  have frame : place l / 512 = place k / 512 := by
    rw [← hp, ← hq, ← div_frame, ← div_frame]
    exact mapped_frame mp mq (by rw [div_frame, div_frame, at_line l hl, at_line k hk, page])
  rw [← within l hl, ← within k hk, Nat.sub_eq_of_eq_add (Nat.div_add_mod (place l) 512).symm, frame, Nat.div_add_mod]

theorem run_placeLines_issue : ∃ ms, (placeLines c issuePlace (Machine.linesOf c.dests) none).run s =
    (.ok (lines.map fun l => (place l, l), ms), s) := by
  rw [linesOf_dests takes plain count]
  refine run_placeLines (fun l hl => ?_) (framed_of_takes takes plain count) _ (List.Subset.refl _) none
    fun _ h => absurd h (Option.not_mem_none _)
  obtain ⟨_, loc, m, key, -⟩ := mapped_lowestByte takes plain count hl
  exact ⟨loc, run_translateHAt_mapped m (bad := fun l => l.attr == 2) (beq_false_of_ne (Nat.ne_of_lt m.idempotent)) 0 1 false, key⟩

end

end Sys2Proof.Machine
end


section
/-! A CPY at issue, CPYQRY and CPYWAIT (R124-R135): why a command is refused, what one that nothing hinders leaves, and the
numbers that the waiting forms go by. -/

namespace Sys2Proof.Machine

open Sys2Proof.Claims

/-! ### Refusals (R126, R128) -/

/-- A field of the command is out of range, as the model tests it. -/
noncomputable def Cmd.badField (c : Cmd) : Bool := match c.form with
  | .lin | .fill => false
  | .twoD => c.rb == 0
  | .gath => bits c.cnt.toNat 48 16 != 0 || c.rb == 0 || c.aux.toNat % 4 != 0
  | .conv => bits c.aux.toNat 4 60 != 0

/-- The top field of a register is what stands above its bits. -/
theorem bits_top (w : Word) {lo n : Nat} (h : lo + n = 64) : bits w.toNat lo n = w.toNat / 2 ^ lo :=
  Nat.mod_eq_of_lt (Nat.div_lt_of_lt_mul (by rw [← pow_add, h]; exact w.isLt))

theorem badField_iff {c : Cmd} : c.badField = true ↔ RefusedField c := by
  constructor
  · intro bad
    unfold Cmd.badField at bad
    cases h : c.form with
    | lin | fill =>
      rw [h] at bad
      exact absurd bad Bool.false_ne_true
    | twoD =>
      rw [h] at bad
      exact .rows (.inl h) ((rb_eq c).symm.trans (beq_iff_eq.mp bad))
    | gath =>
      simp only [h, Bool.or_eq_true, bne_iff_ne, beq_iff_eq, rb_eq, bits_top _ (show 48 + 16 = 64 from rfl)] at bad
      exact bad.elim (fun r => r.elim (.reserved h) (.rows (.inr h))) (.table h)
    | conv =>
      rw [h, bne_iff_ne, bits_top _ rfl] at bad
      exact .conv h bad
  · intro r
    cases r with
    | rows form rb => rcases form with h | h <;> simp [Cmd.badField, h, rb_eq, rb]
    | reserved h r => simp only [Cmd.badField, h, bits_top _ (show 48 + 16 = 64 from rfl), bne_iff_ne.mpr r, Bool.true_or]
    | table h r => simp [Cmd.badField, h, r]
    | conv h r => simp only [Cmd.badField, h, bits_top _ (show 4 + 60 = 64 from rfl), bne_iff_ne.mpr r]

/-- The destination has more than 8,192 lines, as the model tests it. -/
noncomputable def Cmd.spansTooMuch (c : Cmd) : Bool :=
  c.dests.any (fun r => decide (8192 * 128 < r.1 % 128 + r.2)) || decide (8192 < (Machine.linesOf c.dests).length)

theorem refusal_eq (c : Cmd) : c.refusal = if c.badField then 2 else if c.form = .conv ∧ !(convDesc c).valid then 3 else
    if c.spansTooMuch then 1 else 0 := rfl

theorem refusal_field {c : Cmd} (h : RefusedField c) : c.refusal = 2 := by
  rw [refusal_eq, if_pos (badField_iff.mpr h)]

theorem refusal_desc {c : Cmd} (fields : ¬RefusedField c) (form : c.form = .conv) (invalid : (convDesc c).valid = false) :
    c.refusal = 3 := by
  rw [refusal_eq, if_neg (mt badField_iff.mp fields), if_pos ⟨form, by rw [invalid]; rfl⟩]

theorem refusal_long {c : Cmd} (form : c.form = .lin ∨ c.form = .fill) (long : 8192 * 128 < c.dst.toNat % 128 + countOfCmd c) :
    c.refusal = 1 := by
  have fields : ¬c.badField = true := by rcases form with h | h <;> simp [Cmd.badField, h]
  have noConv : c.form ≠ .conv := by rcases form with h | h <;> simp [h]
  have spans : c.spansTooMuch = true := by
    rw [Cmd.spansTooMuch, dests_one form, List.any_cons, decide_eq_true long]
    rfl
  rw [refusal_eq, if_neg fields, if_neg (not_and_of_not_left _ noConv), if_pos spans]

/-- A command that may be issued and takes its lines is not refused. -/
theorem refusal_of_takes {s : State} {c : Cmd} {lines : List Nat} {place : Nat → Nat} (iss : Issuable s c)
    (takes : Takes s c lines place) : c.refusal = 0 := by
  have plain : c.Plain := fun form dir => (iss.conv form).2 dir
  have few : (Machine.linesOf c.dests).length ≤ 8192 := linesOf_dests takes plain iss.count ▸ takes.few
  have spans : c.spansTooMuch = false := by
    refine Bool.or_eq_false_iff.mpr ⟨List.any_eq_false.mpr fun r hr => ?_, decide_eq_false (Nat.not_lt.mpr few)⟩
    rw [decide_eq_true_iff]
    exact fun long => absurd (lines_of_long long fun l hl => mem_linesOf.mpr ⟨r, hr, hl⟩) (Nat.not_lt.mpr few)
  have desc : ¬(c.form = .conv ∧ (!(convDesc c).valid) = true) := not_and.mpr fun form => by
    rw [(iss.conv form).1]
    exact Bool.false_ne_true
  rw [refusal_eq, if_neg (mt badField_iff.mp iss.fields), if_neg desc, spans]
  rfl

/-! ### What stands in the way of an issue (R128) -/

theorem inWindow_line (va : Nat) : inWindow (va / 128 * 128) = inWindow va := by
  have from_line : ∀ k, k * 128 ≤ va / 128 * 128 ↔ k * 128 ≤ va := fun k =>
    (Nat.mul_le_mul_right_iff (by decide)).trans (Nat.le_div_iff_mul_le (by decide))
  rw [Bool.eq_iff_iff, inWindow_iff, inWindow_iff]
  exact and_congr (from_line 0xFE00000000)
    (Nat.lt_succ_iff.symm.trans ((lt_iff_lt_of_le_iff_le (from_line 0x10000000000)).trans Nat.lt_succ_iff))

/-- Source lines outside the fixed windows pass their check. -/
theorem run_checkWindows {s : State} {c : Cmd} {ls : List Nat} (plain : ∀ l ∈ ls, l < 2 ^ 57 ∧ inWindow (l * 128) = false) :
    (checkWindows c ls).run s = (.ok (), s) := by
  induction ls with
  | nil => rfl
  | cons l r ih =>
    obtain ⟨hl, out⟩ := plain l List.mem_cons_self
    have out : inWindow (lowestByte c.sources l) = false := by
      rwa [← inWindow_line, lowestByte_div c.sources hl]
    exact (run_if_neg (ne_true_of_eq_false out)).trans (ih fun x hx => plain x (List.mem_cons_of_mem l hx))

/-- Source lines that are checked at issue (R128). -/
noncomputable def Cmd.checkedLines (c : Cmd) : List Nat := match c.form with
  | .gath | .fill => []
  | _ => Machine.linesOf c.sources

theorem mem_checkedLines {c : Cmd} {l : Nat} (h : l ∈ c.checkedLines) :
    (c.form ≠ .gath ∧ c.form ≠ .fill) ∧ l ∈ Machine.linesOf c.sources := by
  unfold Cmd.checkedLines at h
  generalize c.form = form at h ⊢
  cases form with
  | gath | fill => exact absurd h List.not_mem_nil
  | lin | twoD | conv => exact ⟨by decide, h⟩

section
variable {s : State} {c : Cmd} {lines : List Nat} {place : Nat → Nat} (takes : Takes s c lines place)
include takes

theorem checkedLines_plain : ∀ l ∈ c.checkedLines, l < 2 ^ 57 ∧ inWindow (l * 128) = false := by
  intro l hl
  obtain ⟨⟨notGath, notFill⟩, mem⟩ := mem_checkedLines hl
  exact ⟨lt_of_mem_linesOf mem, (takes.sources.resolve_left notGath).resolve_left notFill l mem⟩

theorem lines_plain : ∀ l ∈ lines, inWindow (l * 128) = false := by
  intro l hl
  obtain ⟨va, cov, rfl⟩ := (takes.exact l).mp hl
  obtain ⟨_, _, m, -⟩ := takes.mapped va cov
  rw [inWindow_line]
  exact m.address.2

/-- A command that takes its lines finds room, and none of them owned. -/
theorem room_of_takes {c' : Cmd} (here : c'.die = c.die ∧ c'.core = c.core ∧ c'.eng = c.eng)
    (hl : c'.lines = lines.map fun l => (place l, l)) : s.dev.room c' = none := by
  obtain ⟨queue, set⟩ := takes.room
  have mine : (s.dev.cmds.filter fun x => x.die == c'.die && x.core == c'.core && x.eng == c'.eng) =
      s.dev.cmds.filter fun x => decide (x.die = c.die ∧ x.core = c.core ∧ x.eng = c.eng) := by
    rw [here.1, here.2.1, here.2.2]
    refine List.filter_congr fun x _ => ?_
    rw [Bool.eq_iff_iff, decide_eq_true_iff, Bool.and_eq_true, Bool.and_eq_true, beq_iff_eq, beq_iff_eq, beq_iff_eq, and_assoc]
  have owned : s.dev.ownedBy c' + c'.lines.length ≤ 16384 := by
    rw [Device.ownedBy, mine, hl, List.length_map, ← List.foldl_map (f := fun x : Cmd => x.lines.length) (g := (· + ·)),
      ← List.sum_eq_foldl]
    exact set
  have free : ¬(c'.lines.any fun x => s.dev.cmds.any fun y => y.lines.any (·.1 == x.1)) = true := by
    rw [hl, List.any_map, List.any_eq_true]
    rintro ⟨l, hl, taken⟩
    obtain ⟨va, cov, rfl⟩ := (takes.exact l).mp hl
    obtain ⟨_, loc, -, key, unowned⟩ := takes.mapped va cov
    rw [Device.owned, lineOf, key] at unowned
    exact absurd (unowned.symm.trans taken) (by decide)
  unfold Device.room
  dsimp only
  rw [mine, if_neg (Nat.not_le.mpr queue), if_neg (Nat.not_lt.mpr owned), if_neg free]

end

/-! ### The command and the hart behind it (R124, R129, R130) -/

theorem engine_toFin (e : BitVec 2) : Fin.ofNat 4 e.toNat = e.toFin := Fin.ext (Nat.mod_eq_of_lt e.isLt)

theorem engine_get {α : Type} (v : Vector α 4) (e : BitVec 2) {lt : (Fin.ofNat 4 e.toNat).val < 4} :
    v[Fin.ofNat 4 e.toNat]'lt = v[e.toFin]'e.toFin.isLt := congrArg (fun i : Fin 4 => v[i]'i.isLt) (engine_toFin e)

/-- The number that engine `e` gave last (R124). -/
noncomputable abbrev Hart.lastNum (h : Hart) (e : BitVec 2) : Word := h.sy.cseq[e.toFin]'e.toFin.isLt

/-- The hart with `n` as the number that engine `e` gave last. -/
noncomputable def Hart.withSeq (h : Hart) (e : BitVec 2) (n : Word) : Hart :=
  { h with sy := { h.sy with cseq := h.sy.cseq.set e.toFin n e.toFin.isLt } }

theorem nextSeq_eq (h : Hart) (e : BitVec 2) : h.nextSeq e.toNat = h.withSeq e (h.lastNum e + 1) :=
  congrArg (fun i : Fin 4 => { h with sy := { h.sy with cseq := h.sy.cseq.set i ((h.sy.cseq[i]'i.isLt) + 1) i.isLt } }) (engine_toFin e)

/-- The failure record of engine `e` (R135). -/
noncomputable abbrev Hart.failure (h : Hart) (e : BitVec 2) : Option FailRec := h.sy.fail[e.toFin]'e.toFin.isLt

/-- The hart with no failure recorded of engine `e`. -/
noncomputable def Hart.cleared (h : Hart) (e : BitVec 2) : Hart :=
  { h with sy := { h.sy with fail := h.sy.fail.set e.toFin none e.toFin.isLt } }

theorem newCmd_eq (s : State) (form : CpyForm) (a b c : Reg) (e : BitVec 2) (aux : Word) :
    newCmd s.h form (s.getX a) (s.getX b) (s.getX c) aux e.toNat = captured s form a b c e aux := by
  have desc : bits aux.toNat 0 2 = aux.toNat % 4 := congrArg (· % 4) (Nat.div_one _)
  exact congrArg₂ (fun (n : Word) (k : Nat) => { newCmd s.h form (s.getX a) (s.getX b) (s.getX c) aux e.toNat with
    num := n + 1
    fmt := s.h.f.fmt[Fin.ofNat 12 (3 * k)]'(Fin.isLt _)
    fmtB := s.h.f.fmt[Fin.ofNat 12 (3 * k + 1)]'(Fin.isLt _)
    fmtS := s.h.f.fmt[Fin.ofNat 12 (3 * k + 2)]'(Fin.isLt _) }) (engine_get s.h.sy.cseq e (lt := Fin.isLt _)) desc

/-- The hart with these halves of the random counter. -/
noncomputable def Hart.withHalves (h : Hart) (low high : BitVec 64) : Hart := { h with f := { h.f with rctrl := low, rctrh := high } }

/-- The hart with the random counter at `n` (R208). -/
noncomputable def Hart.withCounter (h : Hart) (n : BitVec 128) : Hart := h.withHalves (n.extractLsb' 0 64) (n.extractLsb' 64 64)

theorem bumpCounter_eq (h : Hart) (n : Nat) : h.bumpCounter n = h.withCounter (h.f.rctrh ++ h.f.rctrl + BitVec.ofNat 128 n) := by
  generalize sum : h.f.rctrh ++ h.f.rctrl + BitVec.ofNat 128 n = x
  have counter : (h.counter + n) % 2 ^ 128 = x.toNat := by
    rw [← sum, BitVec.toNat_add, BitVec.toNat_ofNat, Nat.add_mod_mod, toNat_append_eq_add, Nat.add_comm h.f.rctrl.toNat,
      Nat.mul_comm]
    rfl
  refine congrArg₂ h.withHalves ?_ ?_
  · rw [counter]
    exact BitVec.eq_of_toNat_eq (Nat.mod_mod ..)
  · rw [counter]
    exact congrArg (BitVec.ofNat 64) (Nat.shiftRight_eq_div_pow x.toNat 64).symm

theorem withCounter_self (h : Hart) : h.withCounter (h.f.rctrh ++ h.f.rctrl) = h :=
  congrArg₂ h.withHalves BitVec.extractLsb'_append_eq_right BitVec.extractLsb'_append_eq_left

end Sys2Proof.Machine
end


section
/-! What CPY, CPYQRY and CPYWAIT do (R124-R135): the traps and refusals of a CPY, the command that it issues, DONE of an engine,
and the failure record. -/

namespace Sys2Proof.Machine

open Sys2Proof.Claims

/-! ### The command that a CPY makes (R125, R126, R129) -/

/-- Forms that read a pair of registers (R125). -/
noncomputable def pairForm : CpyForm → Bool
  | .twoD | .gath | .conv => true
  | _ => false

theorem pairForm_of_copy {i : Instr} {form : CpyForm} {d a b c : Reg} {e : BitVec 2} {pair : Bool} (h : Copy i form d a b c e pair) :
    pairForm form = pair := by
  induction h <;> rfl

theorem exec_copy {i : Instr} {form : CpyForm} {d a b c : Reg} {e : BitVec 2} {pair : Bool} (h : Copy i form d a b c e pair) (s : State) :
    exec i s = runM (issueCpy form d a b c e.toNat) s := by
  induction h <;> rfl

/-- The pair of a form does not start at x0 or x31 (R125). -/
def PairOk (form : CpyForm) (c : Reg) : Prop := ¬(pairForm form && (c.val == 0 || c.val == 31)) = true

theorem pairOk_of_copy {i : Instr} {form : CpyForm} {d a b c : Reg} {e : BitVec 2} {pair : Bool} (h : Copy i form d a b c e pair) :
    PairOk form c ↔ (pair = true → c ≠ 0 ∧ c ≠ 31) := by
  have first : (c.val == 0) = true ↔ c = 0 := beq_iff_eq.trans (Fin.ext_iff (b := (0 : Reg))).symm
  have last : (c.val == 31) = true ↔ c = 31 := beq_iff_eq.trans (Fin.ext_iff (b := (31 : Reg))).symm
  rw [PairOk, pairForm_of_copy h, Bool.and_eq_true, Bool.or_eq_true, first, last, not_and, not_or]

/-- The command that a CPY makes of the registers it names (R126, R129). -/
noncomputable def State.copyCmd (s : State) (form : CpyForm) (a b c : Reg) (e : BitVec 2) : Cmd :=
  newCmd s.h form (s.getX a) (s.getX b) (s.getX c) (if pairForm form then s.getX (vreg (c.val + 1)) else 0) e.toNat

theorem copyCmd_of_copy {s : State} {i : Instr} {form : CpyForm} {d a b c : Reg} {e : BitVec 2} {pair : Bool} {aux : Word} {cmd : Cmd}
    (copy : Copy i form d a b c e pair) (haux : aux = if pair then s.getX (c + 1) else 0) (hc : cmd = captured s form a b c e aux) :
    cmd = s.copyCmd form a b c e := by
  rw [hc, haux, ← newCmd_eq, State.copyCmd, pairForm_of_copy copy]
  rfl

/-- The command with its destination lines and the mappings that led to them. -/
noncomputable def Cmd.taking (cmd : Cmd) (lines : List Nat) (place : Nat → Nat) (ms : List Mapping) : Cmd :=
  { cmd with lines := lines.map fun l => (place l, l), map := ms }

/-- The command with the banks that its addresses name (R114). -/
noncomputable def Cmd.naming (cmd : Cmd) (dest source : List (Nat × Nat)) : Cmd := { cmd with dbanks := dest, sbanks := source }

/-- The command as issue makes it ready (R114, R128). -/
noncomputable def Cmd.placed (cmd : Cmd) (s : State) (lines : List Nat) (place : Nat → Nat) (ms : List Mapping) : Cmd :=
  (cmd.taking lines place ms).naming
    ((s.banksOf cmd (Machine.linesOf cmd.dests)).filter fun x => !(s.banksOf cmd cmd.checkedLines).contains x)
    (s.banksOf cmd cmd.checkedLines)

/-- The slot states of the banks that a command names permit its issue (R115). -/
noncomputable def Cmd.permitted (cmd : Cmd) (s : State) : Bool :=
  let ready (src : Bool) (x : Nat × Nat) : Bool := ((s.dev.bank? cmd.die x.1 x.2).map (·.permits src)).getD true
  cmd.dbanks.all (ready false) && cmd.sbanks.all (ready true)

/-- The hart behind the issue of `cmd`: a narrowing CONV with stochastic rounding has moved its counter on (R130). -/
noncomputable def Hart.behindCopy (h : Hart) (cmd : Cmd) : Hart :=
  if cmd.form = .conv ∧ cmd.narrows = true ∧ cmd.desc.rnd = 2 then h.bumpCounter ((cmd.count + 3) / 4) else h

theorem behindCopy_of_counted {h : Hart} {cmd : Cmd} (counted : cmd.form = .conv ∧ cmd.narrows = true ∧ cmd.desc.rnd = 2) :
    h.behindCopy cmd = h.bumpCounter ((cmd.count + 3) / 4) := if_pos counted

theorem behindCopy_of_uncounted {h : Hart} {cmd : Cmd} (uncounted : ¬(cmd.form = .conv ∧ cmd.narrows = true ∧ cmd.desc.rnd = 2)) :
    h.behindCopy cmd = h := if_neg uncounted

/-- The addresses of a command that takes its lines name no bank. -/
theorem placed_eq {s : State} {cmd : Cmd} {lines : List Nat} {place : Nat → Nat} (takes : Takes s cmd lines place) (plain : cmd.Plain)
    (count : countOfCmd cmd ≠ 0) (ms : List Mapping) : cmd.placed s lines place ms = (cmd.taking lines place ms).naming [] [] := by
  have source := banksOf_plain (s := s) (c := cmd) fun l hl => (checkedLines_plain takes l hl).2
  have dest := banksOf_plain (s := s) (c := cmd) (lines_plain takes)
  rw [← linesOf_dests takes plain count] at dest
  exact congrArg₂ (fun d f => (cmd.taking lines place ms).naming (d.filter fun x => !f.contains x) f) dest source

/-! ### CPY at issue (R125, R128, R254) -/

/-- What follows two checks that are passed. -/
theorem run_checked {α : Type} {bad : Prop} [Decidable bad] {x : M α} {y k : Hart → M α} {s : State} (ok : ¬bad)
    (hs : s.h.ms.strip = none) :
    (if bad then x else getH >>= fun h => if h.ms.strip.isSome = true then y h else k h).run s = (k s.h).run s :=
  (run_if_neg ok).trans ((run_bind_ok (run_getH s)).trans (run_if_neg (by rw [hs]; decide)))

/-- The machine with a CPY's number in rd, behind what its issue does to the hart and the device. -/
noncomputable def State.issued (s : State) (d : Reg) (h : Hart) (num : Word) (dev : Device) : State :=
  State.setX { s with h := h, dev := dev } d num

/-- What follows the room that a command finds. -/
theorem run_roomed {α : Type} {o : Option WaitKind} {y : WaitKind → M α} {k : M α} {s : State} (room : o = none) :
    (match o with | some w => y w | none => k).run s = k.run s := by
  rw [room]

section
variable {s : State} {form : CpyForm} {d a b c : Reg} {e : BitVec 2} {cmd : Cmd}

/-- A pair that starts at x0 or x31 is ILLEGAL, and a CPY in a strip STRIPOP (R125, R254). -/
theorem run_issueCpy_trapped :
    (¬PairOk form c → (issueCpy form d a b c e.toNat).run s = (.error (.trap .illegal 0 (s.h.pc.setWidth 64)), s)) ∧
    (PairOk form c → s.h.ms.strip.isSome = true →
      (issueCpy form d a b c e.toNat).run s = (.error (.trap .stripop 0 (s.h.pc.setWidth 64)), s)) :=
  ⟨fun bad => (run_if_pos (not_not.mp bad)).trans (run_bind_error (run_trapInstr ..)), fun ok strip =>
    (run_if_neg ok).trans ((run_bind_ok (run_getH s)).trans ((run_if_pos strip).trans (run_bind_error (run_trapInstr ..))))⟩

/-- A count of 0 takes a number, a refusal gives rd its code, and a CPY with nothing in its way takes its lines and its number
(R128, R131). -/
theorem run_issueCpy_checked (ok : PairOk form c) (hs : s.h.ms.strip = none) (made : cmd = s.copyCmd form a b c e) :
    (countOfCmd cmd = 0 → (issueCpy form d a b c e.toNat).run s =
      (.ok (), (s.issued d (s.h.nextSeq e.toNat) cmd.num s.dev).advance 4)) ∧
    (∀ n, countOfCmd cmd ≠ 0 → cmd.refusal = n → n ≠ 0 → (issueCpy form d a b c e.toNat).run s =
      (.ok (), (s.setX d (BitVec.ofNat 64 (2 ^ 63 + n))).advance 4)) ∧
    ∀ lines place, Issuable s cmd → Takes s cmd lines place → ∃ ms, (issueCpy form d a b c e.toNat).run s =
      (.ok (), (s.issued d ((s.h.nextSeq e.toNat).behindCopy cmd) cmd.num
        { s.dev with cmds := s.dev.cmds ++ [cmd.taking lines place ms] }).advance 4) := by
  subst made
  have checked : (issueCpy form d a b c e.toNat).run s = _ := run_checked ok hs
  refine ⟨fun count => ?_, fun n count code hn => ?_, fun lines place iss takes => ?_⟩
  · exact checked.trans ((run_if_pos ((count_eq _).trans count)).trans rfl)
  · subst code
    exact checked.trans ((run_if_neg ((count_eq _).trans_ne count)).trans ((run_if_pos hn).trans rfl))
  · have plain : (s.copyCmd form a b c e).Plain := fun form dir => (iss.conv form).2 dir
    obtain ⟨ms, places⟩ := run_placeLines_issue takes plain iss.count
    have windows := run_checkWindows (s := s) (c := s.copyCmd form a b c e) (checkedLines_plain takes)
    have placed := placed_eq takes plain iss.count ms
    have permitted : ¬(!((s.copyCmd form a b c e).placed s lines place ms).permitted s) = true := placed ▸ Bool.false_ne_true
    have room : s.dev.room ((s.copyCmd form a b c e).placed s lines place ms) = none := room_of_takes takes ⟨rfl, rfl, rfl⟩ rfl
    have taken : s.dev.takeLines ((s.copyCmd form a b c e).placed s lines place ms) =
      { s.dev with cmds := s.dev.cmds ++ [(s.copyCmd form a b c e).taking lines place ms] } := congrArg s.dev.takeLines placed
    refine ⟨ms, checked.trans ((run_if_neg ((count_eq _).trans_ne iss.count)).trans
      ((run_if_neg (not_not.mpr (refusal_of_takes iss takes))).trans
      ((run_bind_ok (run_releaseWait_of_empty iss.quiet.1 iss.quiet.2.1 4)).trans ((run_bind_ok places).trans
      ((run_bind_ok windows).trans ((run_bind_ok (run_get s)).trans ((run_if_neg permitted).trans ?_)))))))⟩
    refine (run_roomed room).trans ((run_bind_ok (run_modD _ s)).trans ((run_bind_ok (run_modH _ _)).trans ?_))
    rw [← taken]
    by_cases counted : form = .conv ∧ (s.copyCmd form a b c e).narrows = true ∧ (s.copyCmd form a b c e).desc.rnd = 2
    · rw [behindCopy_of_counted counted]
      exact (run_if_pos counted).trans ((run_bind_ok (run_modH _ _)).trans rfl)
    · rw [behindCopy_of_uncounted counted]
      exact (run_if_neg counted).trans rfl

end

/-- The hart behind the issue of a command, as the statement gives it (R124, R130). -/
theorem behindCopy_eq {s : State} {form : CpyForm} {a b c : Reg} {e : BitVec 2} {aux : Word} {cmd : Cmd}
    (hc : cmd = captured s form a b c e aux) : (s.h.nextSeq e.toNat).behindCopy cmd =
      (s.h.withSeq e cmd.num).withCounter (counterAfter s cmd) := by
  have num : s.h.lastNum e + 1 = cmd.num := hc ▸ rfl
  rw [nextSeq_eq, num]
  by_cases counted : cmd.form = .conv ∧ cmd.aux.getLsbD 2 = true ∧ (convDesc cmd).rnd = 2
  · have after : counterAfter s cmd = s.h.f.rctrh ++ s.h.f.rctrl + BitVec.ofNat 128 ((cmd.count + 3) / 4) := by
      rw [count_eq]
      exact congrArg (_ + ·) (if_pos counted)
    rw [behindCopy_of_counted counted, bumpCounter_eq, after]
    rfl
  · have after : counterAfter s cmd = s.h.f.rctrh ++ s.h.f.rctrl :=
      (congrArg (_ + ·) (if_neg counted)).trans (BitVec.add_zero _)
    rw [behindCopy_of_uncounted counted, after]
    exact (withCounter_self (s.h.withSeq e cmd.num)).symm

theorem setX_behindCopy {s : State} {form : CpyForm} {a b c : Reg} {e : BitVec 2} {aux : Word} {cmd : Cmd}
    (hc : cmd = captured s form a b c e aux) (d : Reg) (v : Word) : ((s.h.nextSeq e.toNat).behindCopy cmd).setX d v =
      { s.h.setX d v with sy := (s.h.withSeq e cmd.num).sy, f := (s.h.withCounter (counterAfter s cmd)).f } := by
  rw [behindCopy_eq hc]
  unfold Hart.setX
  split <;> rfl

theorem setX_nextSeq {s : State} {form : CpyForm} {a b c : Reg} {e : BitVec 2} {aux : Word} {cmd : Cmd}
    (hc : cmd = captured s form a b c e aux) (d : Reg) (v : Word) :
    (s.h.nextSeq e.toNat).setX d v = { s.h.setX d v with sy := (s.h.withSeq e cmd.num).sy } := by
  have num : s.h.lastNum e + 1 = cmd.num := hc ▸ rfl
  rw [nextSeq_eq, num]
  unfold Hart.setX
  split <;> rfl

/-- A CPY that issues, and one with a count of 0 (R124, R128-R131). -/
theorem copyIssues : Claims.CopyIssues := by
  intro s i form d a b c e pair aux cmd copy hp haux hc hs
  have outcome := run_issueCpy_checked (d := d) ((pairOk_of_copy copy).mpr hp) hs (copyCmd_of_copy copy haux hc)
  have pc : (s.setX d cmd.num).h.pc = s.h.pc := Hart.setX_pc ..
  have lp : (s.setX d cmd.num).h.lp = s.h.lp := Hart.setX_lp ..
  refine ⟨fun lines place iss takes => ?_, fun count => ⟨_, ?_, done_advance (by decide) pc lp⟩⟩
  · obtain ⟨ms, run⟩ := outcome.2.2 lines place iss takes
    exact ⟨_, ms, (exec_copy copy s).trans (runM_ok (run.trans (congrArg (fun h => (Except.ok (), State.advance { s with
      h := h, dev := { s.dev with cmds := s.dev.cmds ++ [cmd.taking lines place ms] } } 4)) (setX_behindCopy hc d cmd.num)))),
      done_advance (by decide) pc lp⟩
  · exact (exec_copy copy s).trans (runM_ok ((outcome.1 count).trans
      (congrArg (fun h => (Except.ok (), State.advance { s with h := h } 4)) (setX_nextSeq hc d _))))

/-- The traps of a CPY, and the codes of one that is refused (R125, R126, R128, R254). -/
theorem copyRefused : Claims.CopyRefused := by
  intro s i form d a b c e pair aux cmd copy haux hc
  have trapped := run_issueCpy_trapped (s := s) (form := form) (d := d) (a := a) (b := b) (c := c) (e := e)
  refine ⟨fun pair bad => ?_, fun hp strip => ?_, fun hp hs count => ?_⟩
  · have bad : ¬PairOk form c := fun ok => bad.elim ((pairOk_of_copy copy).mp ok pair).1 ((pairOk_of_copy copy).mp ok pair).2
    exact (exec_copy copy s).trans (runM_trap (trapped.1 bad))
  · exact (exec_copy copy s).trans (runM_trap (trapped.2 ((pairOk_of_copy copy).mpr hp) strip))
  · have outcome := run_issueCpy_checked (d := d) ((pairOk_of_copy copy).mpr hp) hs (copyCmd_of_copy copy haux hc)
    have refused := fun {n : Nat} code hn => query_completes (exec_copy copy s) (outcome.2.1 n count code hn)
    have dst : cmd.form = form ∧ cmd.dst = s.getX a := hc ▸ ⟨rfl, rfl⟩
    exact ⟨fun field => refused (refusal_field field) (by decide),
      fun fields conv invalid => refused (refusal_desc fields (dst.1.trans conv) invalid) (by decide),
      fun one long => refused (refusal_long (dst.1.symm ▸ one) (dst.2.symm ▸ long)) (by decide)⟩

/-! ### CPYQRY and CPYWAIT (R124, R134, R135) -/

/-- A minimum over a list is the value that is attained and below the others. -/
theorem foldl_min_eq {α : Type} {f : α → Nat} {m : Nat} (l : List α) : ∀ n, m ≤ n → (∀ x ∈ l, m ≤ f x) →
    (n = m ∨ ∃ x ∈ l, f x = m) → l.foldl (fun n x => min n (f x)) n = m := by
  induction l with
  | nil =>
    rintro n - - (h | ⟨x, hx, -⟩)
    · exact h
    · exact absurd hx List.not_mem_nil
  | cons y l ih =>
    intro n hn below attained
    have hy := below y List.mem_cons_self
    refine ih _ (Nat.le_min.mpr ⟨hn, hy⟩) (fun x hx => below x (List.mem_cons_of_mem y hx)) ?_
    rcases attained with rfl | ⟨x, hx, rfl⟩
    · exact .inl (Nat.min_eq_left hy)
    · exact (List.mem_cons.mp hx).elim (fun e => .inl (e ▸ Nat.min_eq_right (e ▸ hn))) fun hx => .inr ⟨x, hx, rfl⟩

/-- The hart's commands on an engine that are outstanding. -/
noncomputable def State.outstanding (s : State) (e : BitVec 2) : List Cmd :=
  s.dev.cmds.filter fun c => c.owner == ⟨s.h.id.gang.toNat, s.h.id.rank⟩ && c.eng == e.toNat

theorem mem_outstanding {s : State} {e : BitVec 2} {c : Cmd} : c ∈ s.outstanding e ↔
    c ∈ s.dev.cmds ∧ c.owner = ⟨s.h.id.gang.toNat, s.h.id.rank⟩ ∧ c.eng = e.toNat := by
  rw [State.outstanding, List.mem_filter, Bool.and_eq_true, beq_iff_eq, beq_iff_eq]

/-- Without cancelled commands DONE is that of the outstanding ones. -/
theorem doneSeq_eq {s : State} (e : BitVec 2) (saved : ∀ g ∈ s.dev.gangs, g.id = s.h.id.gang.toNat → g.savedCmds = []) :
    s.doneSeq s.h e.toNat = (s.outstanding e).foldl (fun n c => min n (c.num.toNat - 1)) (s.h.lastNum e).toNat := by
  have none' : (s.dev.gangs.find? fun g => g.id == s.h.id.gang.toNat).elim [] (·.savedCmds) = [] := by
    cases h : s.dev.gangs.find? fun g => g.id == s.h.id.gang.toNat with
    | none => rfl
    | some g => exact saved g (List.mem_of_find?_eq_some h) (beq_iff_eq.mp (List.find?_some h :))
  unfold State.doneSeq
  dsimp only
  rw [none', List.append_nil, engine_get]
  rfl

theorem doneSeq_of_doneIs {s : State} {e : BitVec 2} {n : Nat} (h : DoneIs s e n) : s.doneSeq s.h e.toNat = n := by
  cases h with
  | all none' saved =>
    have empty : s.outstanding e = [] := List.eq_nil_iff_forall_not_mem.mpr fun c hc =>
      none' c (mem_outstanding.mp hc).1 (mem_outstanding.mp hc).2
    rw [doneSeq_eq e saved, empty]
    rfl
  | upTo c hc mine first issued saved =>
    rw [doneSeq_eq e saved]
    refine foldl_min_eq _ _ ((Nat.sub_le ..).trans issued) (fun x hx => ?_) (.inr ⟨c, mem_outstanding.mpr ⟨hc, mine⟩, rfl⟩)
    obtain ⟨mem, owner, eng⟩ := mem_outstanding.mp hx
    exact Nat.sub_le_sub_right (first x mem (owner.trans mine.1.symm) (eng.trans mine.2.symm)) 1

theorem exec_cpyqry (d : Reg) (e : BitVec 2) (s : State) : exec (.cpyqry d e) s = runM (cpyQuery d e.toNat) s := rfl
theorem exec_cpywait (a : Reg) (e : BitVec 2) (s : State) : exec (.cpywait a e) s = runM (cpyWait a e.toNat) s := rfl

/-- Once DONE is reached CPYWAIT is an acquire, unless the failure record holds a number at or below that of `a`: it raises and
clears that (R134, R135). -/
theorem run_cpyWait {s : State} {a : Reg} {e : BitVec 2} (hs : s.h.ms.strip = none)
    (done : min (s.getX a).toNat (s.h.lastNum e).toNat ≤ s.doneSeq s.h e.toNat) :
    ((∀ r, s.h.failure e = some r → (s.getX a).toNat < r.num.toNat) → (cpyWait a e.toNat).run s = (.ok (), s.unbound.advance 4)) ∧
    ∀ r, s.h.failure e = some r → r.num.toNat ≤ (s.getX a).toNat →
      (cpyWait a e.toNat).run s = (.error (.trap r.cause 0 r.addr), { s with h := s.h.cleared e }) := by
  have reached : ¬s.doneSeq s.h e.toNat < min (s.getX a).toNat (s.h.sy.cseq[Fin.ofNat 4 e.toNat]'(Fin.isLt _)).toNat := by
    rw [engine_get]
    exact Nat.not_lt.mpr done
  have awaited : (cpyWait a e.toNat).run s = _ := (run_bind_ok (run_get s)).trans
    ((run_if_neg (ne_true_of_eq_false (congrArg Option.isSome hs))).trans (run_if_neg reached))
  have record := engine_get s.h.sy.fail e (lt := Fin.isLt _)
  refine ⟨fun clean => awaited.trans ?_, fun r hr low => awaited.trans ?_⟩
  · cases hr : s.h.failure e with
    | none =>
      rw [record.trans hr]
      rfl
    | some r =>
      rw [record.trans hr]
      exact (run_if_neg (Nat.not_le.mpr (clean r hr))).trans rfl
  · rw [record.trans hr]
    refine (run_if_pos low).trans ((run_bind_ok (run_modH _ s)).trans ((run_bind_error (run_trap ..)).trans ?_))
    exact congrArg (fun i : Fin 4 => (Except.error (Stop.trap r.cause 0 r.addr),
      { s with h := { s.h with sy := { s.h.sy with fail := s.h.sy.fail.set i none i.isLt } } })) (engine_toFin e)

/-- CPYQRY, and CPYWAIT with and without a failure (R134, R135). -/
theorem copyWaits : Claims.CopyWaits := by
  intro s e n h
  obtain rfl := doneSeq_of_doneIs h
  refine ⟨fun d => query_completes (exec_cpyqry d e s) rfl, fun a hs done => ⟨fun clean => ?_, fun r hr low => ?_⟩⟩
  · exact ⟨_, (exec_cpywait a e s).trans (runM_ok ((run_cpyWait hs done).1 clean)), done_advance (u := s.unbound) (by decide) rfl rfl⟩
  · exact (exec_cpywait a e s).trans (runM_trap ((run_cpyWait hs done).2 r hr low))

/-- Settles O47: a CPY that issues, one that is refused, and the forms that wait. -/
theorem copies : Obligations.Copies := ⟨copyIssues, copyRefused, copyWaits⟩

end Sys2Proof.Machine
end
